-- ==== Sys2Proof/Word.lean ====
section
/-! DEFINITION. The word types of the device (spec 00, R4-R6): bytes, 32-bit registers, and the sparse bank that holds
numbered units. -/

namespace Sys2Proof

/-- A byte. -/
abbrev Byte := BitVec 8

/-- A register, a packet word, a descriptor word (R6: 32 bits). -/
abbrev Word := BitVec 32

/-- A bank of numbered things, by number: entries with rising numbers, none equal to the bank's default. -/
abbrev Bank (α : Type) := List (Nat × α)

end Sys2Proof
end

