-- ==== Sys2Proof/Syntax.lean ====
section
/-! DEFINITION. The commands the block takes: one constructor of `Instr` per row of spec/opcode_table.json, in the
table's order, with the row's operands. Unit numbers are bounded types, so no command names a unit that does not exist. -/

namespace Sys2Proof

/-- A safety island (13, R458). -/
inductive Isl where
  | sia | sib
  deriving DecidableEq, Repr

/-- A ring edge, with its optical ring port: edge A holds ORP0, edge B holds ORP1 (01, R29). -/
inductive Edge where
  | a | b
  deriving DecidableEq, Repr

/-- The port a command packet came in on: the host port, or the management port of an island (13, R491). -/
inductive Port where
  | host
  | mgt (i : Isl)
  deriving DecidableEq, Repr

abbrev DieId := Fin 12
abbrev EngId := Fin 96
abbrev CtxId := Fin 64
abbrev CvuId := Fin 64

/-- A link of Table 1-3: the spine of a die, the coupling from a die to its ring successor, an island link. -/
inductive LinkId where
  | spine (n : DieId)
  | coupling (n : DieId)
  | island (i : Isl)
  deriving DecidableEq, Repr

/-- The end of a link that counts a retry (01, R40, R42). -/
inductive LinkEnd where
  | die | far
  deriving DecidableEq, Repr

/-- The stage replicas (02, R47). -/
inductive Replica where
  | edge (e : Edge)
  | island (i : Isl)
  deriving DecidableEq, Repr

/-- Reference clock sources (16, Table 16-6). -/
inductive ClkSrc where
  | rec0 | rec1 | xref
  deriving DecidableEq, Repr

/-- Where a firewall stands: a row of Table 1-8 on the IOD, a target of a compute die (13, after R471), a row of
Table 1-10 on an island. -/
inductive FwTarget where
  | iod (t : Fin 24)
  | die (n : DieId) (t : Fin 15)
  | island (i : Isl) (t : Fin 9)
  deriving DecidableEq, Repr

/-- The latched pairs of R638 (00): R89, R177, R323, R455, R472, R538. -/
inductive PairId where
  | stage | tick | mplRef
  | teBusy (g : EngId)
  | mctErr (n : DieId)
  | fwlLast (t : FwTarget)
  | cvuRes (k : CvuId)
  deriving DecidableEq, Repr

/-- What happens in a clearance unit during a check (08 R300): nothing, its lanes disagree, or a field byte's word check
fails. -/
inductive CheckEvent where
  | clean | lanes | word
  deriving DecidableEq, Repr

/-- What the check code of a burst finds: nothing, an error confined to one 8-bit symbol, an error of more symbols (12,
R444). -/
inductive EccEvent where
  | clean | ce | ue
  deriving DecidableEq, Repr

/-- A fault in the arithmetic of an engine while a descriptor runs (13, Table 13-11): `err` is added to the accumulator of
an output row and column, or, where `term` names one, to the integer or significand product of that term. In the vector unit
`row` is the element. -/
structure Upset where
  row  : Nat
  col  : Nat
  term : Option Nat
  err  : Int
  deriving DecidableEq, Repr

/-- A page descriptor of the KPM whose check word no longer matches, with the bits of that word that are wrong (07,
Table 7-3). -/
structure Wear where
  page : Fin 524288
  bits : Word
  deriving DecidableEq, Repr

/-- Access kind of a fabric transaction (13, R468). -/
inductive Kind where
  | read | write
  deriving DecidableEq, Repr

/-- The MCT port a transaction arrives on (12, before R432). -/
inductive MctPort where
  | spine | pred | succ
  | te (m : Fin 8)
  deriving DecidableEq, Repr

/-- Where a transaction starts: the IOD core, a safety island, an engine of a compute die. -/
inductive Initiator where
  | iod
  | island (i : Isl)
  | engine (g : EngId)
  deriving DecidableEq, Repr

/-- A fabric transaction: livery, device physical address, kind, length in bytes, the bytes of a write, its initiator, and the
symbols of the first burst that have gone bad by then where the target is an HBM window (12, R444). -/
structure Access where
  livery : Byte
  addr   : BitVec 48
  kind   : Kind
  len    : Nat
  data   : List Byte
  src    : Initiator
  flaws  : List Nat
  deriving DecidableEq, Repr

/-- An Ethernet frame on a ring or management port (17, R602-R608). -/
structure Frame where
  dest    : BitVec 48
  source  : BitVec 48
  etype   : BitVec 16
  payload : List Byte
  fcsOk   : Bool
  deriving DecidableEq, Repr

/-- A sensor or external link (17, Table 17-7). -/
inductive ExtLink where
  | aph (n : Fin 16)
  | eth (n : Fin 4)
  | pcie (width : Fin 8) (speed : Fin 8)
  | mgt (i : Isl)
  | ringDown (e : Edge)
  deriving DecidableEq, Repr

/-- The unit whose temperature is reported (18, R621). -/
inductive ThmUnit where
  | die (n : DieId)
  | iod
  | island (i : Isl)
  deriving DecidableEq, Repr

/-- A unit that a fabric timeout or a firmware trial names. -/
inductive UnitId where
  | die (n : DieId)
  | iod
  | edge (e : Edge)
  | island (i : Isl)
  deriving DecidableEq, Repr

/-- Roles of a context in a timetable (02 Table 2-2; 08 R320; 09 R363; 10 R393). -/
inductive Role where
  | perception | attention | planning | fusion | other
  deriving DecidableEq, Repr

/-- A declared synchronisation object (11, R403, R404): `queue` is the local index of its signalling queue. -/
structure ObjDecl where
  id     : Nat
  binary : Bool
  value  : Nat
  limit  : Nat
  queue  : Nat
  deriving DecidableEq, Repr

/-- A firewall region the timetable declares (13, after R471): base and size in 4 KiB, and who may do what. -/
structure RegionDecl where
  target   : FwTarget
  region   : Fin 64
  base     : Nat
  size     : Nat
  r        : Bool
  w        : Bool
  liveries : List Byte
  deriving DecidableEq, Repr

/-- A context of the Contexts section (02, Table 2-2). -/
structure CtxDecl where
  id      : CtxId
  livery  : Byte
  role    : Role
  qbase   : Nat
  qcount  : Nat
  synBase : Nat
  nsSize  : Nat
  objs    : List ObjDecl
  kvQuota : Nat
  cvus    : List CvuId
  deriving DecidableEq, Repr

/-- A descriptor of a command, and whether the toolkit marked it relocatable (10, R374). -/
structure DescDecl where
  words : List Word
  reloc : Bool
  deriving DecidableEq, Repr

/-- A command of the Networks section: its context, its descriptors, its declared worst-case duration (R381), whether the
stage output depends on it (R474), and the commands whose output it consumes (R56). -/
structure CmdDecl where
  num      : Nat
  ctx      : CtxId
  descs    : List DescDecl
  worstUs  : Nat
  output   : Bool
  consumes : List Nat
  deriving DecidableEq, Repr

/-- A persistent region on a die that a relay or re-admission move copies (10, R391; 14, R511). -/
structure MoveRegion where
  die  : DieId
  base : Nat
  len  : Nat
  deriving DecidableEq, Repr

/-- An idle window of an engine (14, before R507), in microseconds from the tick. -/
structure IdleWin where
  eng   : EngId
  start : Nat
  len   : Nat
  deriving DecidableEq, Repr

/-- The place of one queue in a placement: engine, ring base and ring size (10, before R379; Table 10-1). -/
structure QPlace where
  queue   : Nat
  eng     : EngId
  base    : Nat
  logsize : Nat
  deriving DecidableEq, Repr

/-- A placement (10): where every queue is served, the idle windows, the persistent regions. -/
structure Placement where
  queues  : List QPlace
  idle    : List IdleWin
  regions : List MoveRegion
  deriving DecidableEq, Repr

/-- Reserved regions of one stack (02, Table 2-2 type 0x08): image, staging region, queue context table, KV heap. -/
structure StackRegions where
  die       : DieId
  image     : Nat
  stageBase : Nat
  stageSize : Nat
  qtable    : Nat
  heapBase  : Nat
  heapSize  : Nat
  deriving DecidableEq, Repr

/-- A landing buffer of a sensor stream (17, R592): stream 0-15 cameras, 16-19 lidars. -/
structure Landing where
  stream : Fin 20
  die    : DieId
  base   : Nat
  size   : Nat
  deriving DecidableEq, Repr

/-- What the sections of a timetable image hold, decoded. The spec does not give the layout of a section's bytes, so the
contents come as the operand of TT_VERIFY_END. `orpA` and `orpB` are the four settings words of a ring port (17 R614), empty
where the timetable carries none. -/
structure TtContents where
  contexts : List CtxDecl
  cmds     : List CmdDecl
  relay    : List Placement
  loss     : List Placement
  lean     : List (Option DieId × Option DieId × Placement)
  carry    : List CtxId
  perStack : List StackRegions
  landing  : List Landing
  regions  : List RegionDecl
  planning : CtxId
  fusion   : CtxId
  fusSync  : CtxId × Nat
  writers  : List (Fin 20 × CtxId)
  readers  : List CtxId
  rxRing   : Option (CtxId × Nat × Nat)
  orpA     : List Word
  orpB     : List Word
  deriving DecidableEq, Repr

/-- What an island meets from outside when it boots: the level of STRAP_MGTM (16 R541) and the identity public key that it derives
from its physically unclonable function, x then y (R570). -/
structure BootFacts where
  mgtm  : Bool
  idKey : List Byte
  deriving DecidableEq, Repr

/-- One reading of a lid sensor set (18, R618): temperatures in 1/16 C, pressure drop in 0.01 kPa, the flow derived
through the calibration block in 0.01 L/min. -/
structure LidSample where
  inlet  : Int
  outlet : Int
  dp     : Int
  flow   : Nat
  deriving DecidableEq, Repr

/-- The source of a planner search: a packet of a port, or a command of the timetable's planning context (08, after
Table 8-8). -/
inductive SearchSrc where
  | packet (p : Port)
  | timetable (params : List Word)
  deriving DecidableEq, Repr

/-- The commands, one per row of spec/opcode_table.json. -/
inductive Instr where
  | powerGood (ref hptv pce : Bool)
  | porstAssert
  | islandResetRelease (i : Isl) (b : BootFacts)
  | islandResetAssert (i : Isl)
  | islandActive (i : Isl)
  | iodResetRelease (slotB : Bool)
  | computePairRelease (i : Fin 6)
  | mctTrainingEnd (n : DieId)
  | linkTrained (l : LinkId)
  | dieReady (n : DieId) (ok : Bool)
  | portReady
  | iodCoreReady (ramFault : Bool := false)
  | iodCoreReset
  | htPut (len : Nat) (bytes : List Byte)
  | htGet (len : Nat) (clocked : Nat)
  | htReget (len : Nat) (clocked : Nat)
  | htStat
  | htClr (bytes : List Byte)
  | htInvalid (code second lenLo : Byte) (lenHi : Byte := 0)
  | undefinedOpcode (p : Port)
  | sysIdentity (p : Port)
  | sysEcho (p : Port)
  | sysAliveSync (p : Port)
  | sysAlertEn (p : Port)
  | stgGet (p : Port)
  | stgSet (p : Port)
  | ttOpen (p : Port)
  | ttWrite (p : Port)
  | ttVerify (p : Port)
  | ttVerifyEnd (c : TtContents) (copyFault : Bool)
  | ttArm (p : Port)
  | ttCancel (p : Port)
  | ttStatus (p : Port)
  | profileSet (p : Port)
  | profileApply
  | ttSwitch
  | stageTick (now : Nat)
  | replicaTick (r : Replica) (now : Nat)
  | layoverStart
  | outputCutoff
  | reexecSetEnd (cmd : Nat)
  | relayMoveDue
  | relayMoveEnd
  | readmitMoveEnd (n : DieId)
  | asSyncLost
  | asSyncRegained (offset : Int)
  | asPortFailover
  | asPortReturn
  | wbSubmit (p : Port)
  | waybillComplete (id : Nat)
  | wbStatus (p : Port)
  | qQuery (p : Port)
  | ctxPreempt (p : Port)
  | preemptComplete (c : CtxId)
  | ctxResume (p : Port)
  | ctxRebind (p : Port)
  | rebindMilepost (g : EngId)
  | doorbell (livery : Byte) (tail : Word)
  | tableMirrorEnd
  | synInit (p : Port)
  | synSignal (p : Port)
  | synDecrement (p : Port)
  | synWait (p : Port)
  | synWaitTimeout (id : Nat)
  | synQuery (p : Port)
  | descriptorSignal (g : EngId)
  | memRead (p : Port)
  | memWrite (p : Port)
  | memFill (p : Port)
  | memCopy (p : Port)
  | memCopyEnd (id : Nat)
  | mctCommit (p : Port)
  | fabricAccess (a : Access)
  | writeDrain (n : DieId) (idx : Nat)
  | mctHeldRead (n : DieId) (idx : Nat)
  | hbmUeLimit (n : DieId)
  | hbmCeNotice (n : DieId)
  | refreshDebtAccrue (n : DieId) (flaws : List (Fin 536870912 × Nat) := [])
  | refreshIssue (n : DieId) (pc : Fin 32) (bank : Fin 64)
  | forcedRefresh (n : DieId) (pc : Fin 32) (bank : Fin 64)
  | patrolScrub (n : DieId) (burst : Fin 536870912) (flaws : List Nat)
  | islandMemPiece (i : Isl)
  | linkFlitError (l : LinkId) (e : LinkEnd)
  | retryExhaustion (l : LinkId)
  | linkDown (l : LinkId)
  | routeChange (src dst : DieId)
  | fabricTimeout (u : UnitId) (late : Bool := false)
  | nop (g : EngId)
  | gemm (g : EngId) (u : Option Upset := none)
  | gemmAa (g : EngId) (u : Option Upset := none)
  | convDense (g : EngId) (u : Option Upset := none)
  | convGrouped (g : EngId) (u : Option Upset := none)
  | convDepthwise (g : EngId) (u : Option Upset := none)
  | attnScore (g : EngId) (u : Option Upset := none) (w : Option Wear := none)
  | attnValue (g : EngId) (u : Option Upset := none) (w : Option Wear := none)
  | append (g : EngId) (w : Option Wear := none)
  | compact (g : EngId) (w : Option Wear := none)
  | vecAdd (g : EngId) (u : Option Upset := none)
  | vecMul (g : EngId) (u : Option Upset := none)
  | vecFma (g : EngId) (u : Option Upset := none)
  | vecMax (g : EngId) (u : Option Upset := none)
  | vecMin (g : EngId) (u : Option Upset := none)
  | vecExp (g : EngId) (u : Option Upset := none)
  | vecRecip (g : EngId) (u : Option Upset := none)
  | vecRsqrt (g : EngId) (u : Option Upset := none)
  | vecConvert (g : EngId) (u : Option Upset := none)
  | vecReduceSum (g : EngId) (u : Option Upset := none)
  | vecReduceMax (g : EngId) (u : Option Upset := none)
  | maxPool (g : EngId) (u : Option Upset := none)
  | averagePoolPaddingCounted (g : EngId) (u : Option Upset := none)
  | averagePoolPaddingNotCounted (g : EngId) (u : Option Upset := none)
  | nearestNeighbourResize (g : EngId) (u : Option Upset := none)
  | bilinearResize (g : EngId) (u : Option Upset := none)
  | softmaxFirst (g : EngId) (u : Option Upset := none)
  | softmaxStep (g : EngId) (u : Option Upset := none)
  | softmaxFinal (g : EngId) (u : Option Upset := none)
  | load (g : EngId)
  | store (g : EngId)
  | haloSend (g : EngId)
  | haloMessageArrive (g : EngId)
  | haloRecvCopy (g : EngId)
  | haloRecvAdd (g : EngId)
  | wait (g : EngId)
  | descriptorComplete (g : EngId)
  | weightFetch (g : EngId)
  | engineHang (g : EngId)
  | engineWithdraw (g : EngId)
  | selftestSlice (g : EngId)
  | selftestSliceEnd (g : EngId) (pass : Bool)
  | selftestDeferLimit (g : EngId)
  | kvAlloc (p : Port)
  | kvFree (p : Port)
  | kvShare (p : Port)
  | kvQuery (p : Port)
  | kvStats (p : Port)
  | kvWritePrepare (g : EngId)
  | kvCopyEnd (page : Fin 524288)
  | mplCfg (p : Port)
  | mplSearch (src : SearchSrc)
  | mplSearchBuild (src : SearchSrc)
  | fieldBuildStart
  | fieldPublish
  | searchTimeBudget
  | searchStageDeadline (cycles : Nat)
  | searchEnd
  | mplCheck (p : Port) (ev : CheckEvent)
  | mplCheckInline (p : Port) (ev : CheckEvent)
  | mplCandidates (p : Port)
  | mplStatus (p : Port)
  | urgentCheckRequest (i : Isl) (req : List Word) (ev : CheckEvent) (serviceNs : Nat)
  | outputGate (ev : CheckEvent)
  | occupancyWriteRelease
  | primitiveWriteRelease
  | mplDeferredCommit
  | samplePublish (livery : Byte) (stream : Fin 20) (w : Word) (now : Nat)
  | sampleBufferWriteRelease
  | fusionRoundStart (now : Nat)
  | fusionPublish (now : Nat)
  | fusDeferredCommit
  | fusCfg (p : Port)
  | fusMask (p : Port)
  | fusUnmask (p : Port)
  | fusTracks (p : Port)
  | fusReport (p : Port)
  | fusClear (p : Port)
  | cvuCfg (p : Port)
  | cvuFeed (p : Port)
  | cvuResult (p : Port)
  | cvuResultReset (p : Port)
  | cvuAliveRead (p : Port)
  | cvuAliveLoad (p : Port)
  | cvuAliveCheck (p : Port)
  | cvuAliveAdvance (p : Port)
  | cvuFeed8 (k : CvuId) (v : Word)
  | cvuFeed16 (k : CvuId) (v : Word)
  | cvuFeed32 (k : CvuId) (v : Word)
  | cvuConfigWrite (k : CvuId) (reg : Fin 5) (v : Word)
  | cvuAliveWrite (k : CvuId) (v : Word)
  | cvuAlchkWrite (k : CvuId) (v : Word)
  | cvuReset (k : CvuId)
  | cvuAdvance (k : CvuId)
  | cvuClrcnt (k : CvuId) (skipHit repHit : Bool := false)
  | latchedLoRead (pair : PairId)
  | latchedHiRead (pair : PairId)
  | registerWrite (livery : Byte) (addr : BitVec 48) (v : Word)
  | lnkClrcnt (n : DieId) (spHit scHit pcHit iodHit : Bool := false)
  | teCfgWrite (g : EngId) (v : Word)
  | teChkstatClr (g : EngId) (wsHit resHit abftHit : Bool := false)
  | teNumcntClr (g : EngId) (satHit nanHit : Bool := false)
  | kpmClrhwm
  | mplCommit
  | mplClrck (mismHit : Bool := false)
  | fusCommit
  | mctCtlCommit (n : DieId)
  | mctClrcnt (n : DieId) (ceHit ueHit forcedHit : Bool := false)
  | sisBeat (i : Isl) (now : Nat)
  | sisClrcnt (i : Isl) (withheldHit disagreeHit timeoutHit : Bool := false)
  | fwlRegionWrite (livery : Byte) (t : FwTarget) (off : Fin 16384) (v : Word)
  | stateMessageSend (i : Isl)
  | islandStateMessage (i : Isl) (msg : List Word)
  | heartbeatLapse (i : Isl) (now : Nat)
  | xmonLapse (i : Isl) (differ : Bool)
  | lockstepMismatch (i : Isl)
  | gateReport (i : Isl) (ramFault : Bool)
  | islandNoReportStart (i : Isl) (ramFault : Bool)
  | urgentReply (i : Isl) (roundTripNs : Nat) (ramFault : Bool := false)
  | urgentReplyTimeout (i : Isl) (ramFault : Bool := false)
  | releaseMessage (e : Edge) (i : Isl)
  | dragShoeRecord (e : Edge) (i : Isl)
  | immediateDragShoe (i : Isl)
  | dieLost (n : DieId)
  | iodCoreFault
  | ringEdgeFault (e : Edge)
  | ringEdgeReady (e : Edge)
  | supplyFault (dies : BitVec 12) (iod : Bool)
  | clearanceMismatchLimit
  | mgtNotice (i : Isl)
  | logbookProgram (i : Isl)
  | decisionDueNotice (u : UnitId) (te : Option (Fin 8)) (link : Bool := false)
  | diagLogRead (p : Port) (ramFault : Bool := false)
  | diagCounters (p : Port)
  | diagSelftest (p : Port)
  | sisStatus (p : Port)
  | sisFlashErase (p : Port)
  | sisFlashProgram (p : Port)
  | flashOperationEnd (i : Isl)
  | sisLogbook (p : Port)
  | secToken (p : Port)
  | secAttest (p : Port)
  | secFwOpen (p : Port)
  | secFwWrite (p : Port)
  | secFwActivate (p : Port)
  | fwSwitch
  | fwTrialConfirm (u : UnitId)
  | clkStatus (p : Port)
  | clkSelect (p : Port)
  | clkGateOpen (p : Port)
  | clkGateClose (p : Port)
  | clockSourceLost (c : ClkSrc)
  | clockSourceReady (c : ClkSrc)
  | clockRampEnd (grp : Fin 13)
  | rstUnitReset (p : Port)
  | rstUnitReadmit (p : Port)
  | rstUnitRetire (p : Port)
  | orpBypassClose (p : Port)
  | orpBypassOpen (p : Port)
  | bypassAutoClose (e : Edge)
  | bypassAutoOpen (e : Edge)
  | bypassMoveEnd (e : Edge) (ok : Bool)
  | downstreamLinkUp (e : Edge)
  | ringFrameReceive (e : Edge) (f : Frame) (waiting : Nat)
  | mgtFrameReceive (i : Isl) (f : Frame)
  | pciePostedWrite (bar : Fin 6) (off : Nat) (data : List Byte)
  | pcieRead (bar : Fin 6) (off len : Nat) (ramFault : Bool := false)
  | thmStatus (p : Port)
  | thmLimits (p : Port)
  | thmAgeing (p : Port)
  | lidSensorSample (i : Isl) (x : LidSample)
  | outletSlopeEval (i : Isl)
  | thermalLevelEval (i : Isl)
  | junctionReport (u : ThmUnit) (logic hbm : Int) (degr hot : Nat)
  | thermalDieRestart (n : DieId)
  | iodThermalRelease
  | suddenLossHoldEnd
  | portLinkUp (l : ExtLink)
  | portLinkDown (l : ExtLink)
  | downstreamLinkTimeout (e : Edge)
  | sensorDataReceive (stream : Fin 20) (data : List Byte)
  deriving DecidableEq, Repr

end Sys2Proof
end

