-- ==== Sys2Proof/Config.lean ====
section
/-! DEFINITION. Free values: constants without a body for what the spec leaves open. Nothing can be proved about a value
of any of them. -/

namespace Sys2Proof.Config

/-- A byte of a memory whose content the spec does not define (R170, R431, R454): by epoch and address. -/
opaque openByte : Nat → Nat → BitVec 8

/-- Whether a byte of a write stands against another source's in compatibility mode: for a read that overlaps the undrained
write, and for the drain of two that overlap (R434, Table 12-2): by free index, place of the write in the order of acceptance,
and address. -/
opaque seesNew : Nat → Nat → Nat → Bool

/-- A choice the spec leaves to the device, such as the engine a re-execution set runs on (R56): by free index. -/
opaque choice : Nat → Nat

/-- Which of the FP32 values within the bound of Table 5-7 EXP, RECIP or RSQRT delivers (R214, R215): by subop and input. -/
opaque vecPick : Nat → Nat → Nat

/-- Whether a floating row that R473 does not cover raises a false alarm (13, after R473): by free index and row. -/
opaque falseAlarm : Nat → Nat → Bool

/-- Whether the vehicle reference point itself, which has no bearing, lies in a stream's sector (R352): by stream. -/
opaque originIn : Nat → Bool

/-- Whether the 8 probes of the state hash, whose layout the spec does not give, find neither a state nor a free entry
(R306): by the states recorded so far and the state. -/
opaque hashLost : List Nat → Nat → Bool

/-- The vendor root public key in the mask ROM of the islands (R540): a P-521 point, whose value the spec does not give. -/
opaque rootKey : Nat × Nat

end Sys2Proof.Config
end

