-- ==== Sys2Proof/Machine/State.lean ====
section
/-! DEFINITION. The state of the device, plain data (INVENTORY.md lists every piece with its rule and reset value), the
reasons a step can stop, and the state after reset. -/

namespace Sys2Proof.Machine

/-- What a byte that is not listed reads as: a fixed byte, or free values (contents the spec leaves undefined). -/
inductive Fill where
  | byte (b : Byte)
  | free (epoch : Nat)
  deriving DecidableEq, Repr

/-- A memory: the listed cells, addresses strictly rising, none equal to what an unlisted address reads as. -/
structure Mem where
  cells : List Host.Cell := []
  fill  : Fill := .byte 0
  deriving DecidableEq, Repr

/-- Where a packet stands in Table 3-10 (03 R116, R126): steps 5-12 are still to come, all have passed, or a step has failed
and its reply waits for those of earlier packets. -/
inductive Fate where
  | arrived
  | accepted
  | refused (st : Byte) (step expect idx : Nat)
  deriving DecidableEq, Repr

/-- A command packet (03, Table 3-9), the port it came in on, and where it stands. -/
structure Pkt where
  port  : Port
  words : List Word
  fate  : Fate := .arrived
  deriving DecidableEq, Repr

/-- The work a deferred reply waits for (03, Table 3-15, D). -/
inductive DefKind where
  | waybill (id : Nat)
  | preempt (c : CtxId)
  | rebind (g : EngId)
  | synWait (id : Nat)
  | memCopy (id : Nat)
  | search
  | rstDie (n : DieId)
  | rstIsl (i : Isl)
  | rstEdge (e : Edge)
  | rstIod
  | readmitDie (n : DieId)
  | readmitEng (g : EngId)
  | bypass (e : Edge) (close : Bool)
  | fwIsl (i : Isl)
  | fwIod
  | flash (i : Isl)
  deriving DecidableEq, Repr

structure Deferred where
  pkt  : Pkt
  what : DefKind
  deriving DecidableEq, Repr

/-- What the block drives outward, newest first in `State.out`. -/
inductive Emit where
  | dq (bs : List Byte)                              -- data phase of a host-port read, byte by byte (R92, R97)
  | msi                                              -- the MSI vector (17, after R596)
  | ring (e : Edge) (header : List Byte) (msg : List Word) (fcs : List Byte)   -- a stage output frame (R484, R604)
  | forward (e : Edge) (f : Frame)                   -- R602
  | deliver (e : Edge) (f : Frame)                   -- R606
  | mgt (i : Isl) (dest : BitVec 48) (etype : BitVec 16) (ws : List Word) -- a reply or notice (R608, R512)
  | pcieId (device : BitVec 16)                       -- the PCE identifies itself on a link that has come up (R593)
  | fabric (livery status : Byte) (data : List Byte) -- completion of a fabric transaction
  | reg (v : Word)                                   -- the word a register read returned
  | pcie (ok : Bool) (data : List Byte)              -- completion of a PCIe read (R594)
  | xmon (i : Isl) (ws : List Word)                  -- state message (R460)
  | record (ws : List Word)                          -- completion record (R378)
  | urgent (i : Isl) (ws : List Word)                -- urgent reply (R302)
  | replica (period layover cutoff : Nat) (stage : Nat) -- push to the replicas (after R46)
  deriving DecidableEq, Repr

/-- Host port (03, Tables 3-4 to 3-8). -/
structure Hpt where
  epoch    : BitVec 8 := 0
  short    : Bool := false
  ovf      : Bool := false
  badtx    : Bool := false
  ready    : Bool := false
  inbound  : List (List Byte) := []
  wait     : List Pkt := []
  fifo     : List (List Word) := []
  lastRead : List (List Word) := []
  aThm     : Bool := false
  aFback   : Bool := false
  aFault   : Bool := false
  aTtv     : Bool := false
  aOvf     : Bool := false
  aReady   : Bool := false
  alertEn  : BitVec 8 := 0xFB
  stale    : Nat := 0
  badchk   : Nat := 0
  alive    : Bank (BitVec 8) := []
  replies  : BitVec 16 := 0
  deriving DecidableEq, Repr

/-- A management port (13 R491; 17 R608): `requester` none stands for the broadcast address. -/
structure Mgt where
  alive     : BitVec 8 := 0
  replies   : BitVec 16 := 0
  requester : Option (BitVec 48) := none
  inbound   : List (List Byte) := []   -- packets held behind a waiting SYS_ALIVE_SYNC (R133)
  wait      : List Pkt := []
  up        : Bool := false
  deriving DecidableEq, Repr

/-- The timing and stage facts that the STG pushes to a replica (02, R47, R84). -/
structure StageRep where
  period  : Nat := 50
  layover : Nat := 6
  cutoff  : Nat := 10
  stage   : Nat := 0
  profile : Word := 0x3FC0
  deriving DecidableEq, Repr

/-- Stage timer (02, Tables 2-6 to 2-12). `period`, `layover` are in 0.5 ms, `cutoff` in 10 us. -/
structure Stg where
  timing    : Word := 0x000A0632
  timingSh  : Word := 0x000A0632
  tstep     : Bool := false
  ovr       : Bool := false
  badcfg    : Bool := false
  inlay     : Bool := false
  hold      : Bool := false
  sync      : Bool := false
  stage     : Nat := 0
  tick      : Nat := 0
  offset    : Int := 0
  ovrcnt    : Nat := 0
  lean      : Bool := false
  leanSh    : Bool := false
  lossa     : Nat := 15
  lossb     : Nat := 15
  relay     : Nat := 0
  pendProf  : Option (Bool × Nat) := none
  length    : Nat := 25000000      -- length of the present stage in ns
  curLay    : Nat := 3000000      -- layover of the present stage in ns
  cutoffPast : Bool := false
  asPort    : Edge := .a
  deriving DecidableEq, Repr

/-- Header figures of a timetable (02, Table 2-3) in engine-us and us. -/
structure TtFigures where
  ident : Nat := 0
  len   : Nat := 0
  d     : Nat := 0
  wmin  : Nat := 0
  lmin  : Nat := 0
  rmax  : Nat := 0
  dlean : Nat := 0
  wlean : Nat := 0
  deriving DecidableEq, Repr

structure Timetable where
  figs  : TtFigures
  body  : TtContents
  image : List (DieId × Nat)   -- where the image lies in each stack
  sha   : List Byte            -- SHA-512 of the image (R571)
  deriving DecidableEq, Repr

/-- Staging states (02, Table 2-4), codes 0-4 in order. -/
inductive TtState where
  | empty | loading | verifying | verified | armed
  deriving DecidableEq, Repr

structure Tt where
  st        : TtState := .empty
  verErr    : Nat := 0
  ident     : Nat := 0
  len       : Nat := 0
  target    : Nat := 0                -- armed stage as TT_STATUS reports it
  ticksLeft : Option Nat := none         -- R549: ticks to the activation, before any timetable was active
  staged    : Option Timetable := none
  active    : Option Timetable := none
  ever      : Bool := false               -- a timetable has been active since power-on
  deriving DecidableEq, Repr

structure WbEntry where
  cmd   : Nat
  queue : Nat
  arg   : Nat
  deriving DecidableEq, Repr

inductive WbState where
  | held | running | complete
  deriving DecidableEq, Repr

/-- A submitted waybill (10, R373-R377). `bad`: some descriptor completed with a status of 0x10 or above. -/
structure Waybill where
  id        : Nat
  ctx       : CtxId
  stage     : Nat
  ident     : Nat
  batch     : Word
  entries   : List WbEntry
  prio      : Nat
  forArmed  : Bool
  st        : WbState
  written   : Nat
  completed : Nat
  discarded : Nat
  reexec    : Nat
  bad       : Bool
  deriving DecidableEq, Repr

/-- A command of a stage: a waybill and the place of an entry in it. -/
abbrev WorkId := Nat × Nat

/-- A descriptor that the dispatcher wrote: the waybill's entry it belongs to, queue and count. -/
structure Issued where
  work  : WorkId
  queue : Nat
  count : Nat
  again : Bool      -- written for a re-execution (R56)
  deriving DecidableEq, Repr

/-- A re-execution set (02, R56): the commands still to run, in order, and those of the whole set. -/
structure Reexec where
  work     : WorkId
  left     : List WorkId
  members  : List WorkId
  eng      : Option EngId    -- running on, none while due
  avoid    : EngId
  otherDie : Bool            -- runs on an engine of another die (04, after R156)
  failed   : Bool := false   -- a descriptor of it has failed again
  deriving DecidableEq, Repr

structure MemCopy where
  id  : Nat
  src : Nat
  dst : Nat
  len : Nat
  livery : Byte
  deriving DecidableEq, Repr

/-- A fabric transaction that the link layer (`byLink`) or its initiator's timer has ended in a stage, by its target's unit and
the links it came by: the other may still report it (14, R501). -/
structure Ended where
  unit   : UnitId
  path   : List LinkId
  byLink : Bool
  stage  : Nat := 0
  deriving DecidableEq, Repr

/-- Dispatcher (02, 10). -/
structure Dis where
  waybills : List Waybill := []
  nextId   : Nat := 0
  issued   : List Issued := []
  reexec   : List Reexec := []
  reported : List (WorkId × EngId × Bool) := []   -- commands of the stage, the engine that reported each, off its die (R56)
  incomplete : Bool := false          -- the stage output depends on lost work (R62, R474)
  badWork  : List WorkId := []        -- commands of the stage whose work was lost or failed
  outputs  : List (Nat × Bool) := []   -- stage number, output was the drag shoe
  copies   : List MemCopy := []
  defers   : List Deferred := []
  shoeStages : Nat := 0
  immShoes : Nat := 0
  reexecRun : Nat := 0
  iodRestarts : Nat := 0
  timeouts : Nat := 0
  timeoutLog : List (UnitId × Nat) := []   -- unit, stage (R500)
  ended : List Ended := []
  deriving DecidableEq, Repr

/-- Queue context (10, Table 10-1). -/
structure QueueCtx where
  st      : Nat := 0     -- 0 UNUSED, 1 BOUND, 2 UNBOUND, 3 LOST
  held    : Bool := false
  ctx     : Nat := 0
  logsize : Nat := 0
  eng     : Nat := 0x7F     -- 0x7F for none
  base    : Nat := 0
  head    : Word := 0
  tail    : Word := 0
  mphead  : Word := 0
  stage   : Word := 0
  deriving DecidableEq, Repr

structure CtxRec where
  exists_ : Bool := false
  pre     : Bool := false
  ppend   : Bool := false
  livery  : Byte := 0
  qbase   : Nat := 0
  qcount  : Nat := 0
  deriving DecidableEq, Repr

/-- A pending or lasting re-binding (10, R385-R388). -/
structure Rebind where
  eng    : EngId
  src    : Nat      -- old global queue
  dst    : Nat      -- target global queue
  ctx    : CtxId    -- target context
  hold   : Bool
  done   : Bool
  atTick : Bool     -- R386: carried out at the following tick
  deriving DecidableEq, Repr

structure Qmg where
  dberr    : Bool := false
  relayab  : Bool := false
  mirrorRun : Bool := false
  ready    : Bool := false
  primary  : Nat := 0
  mirror   : Nat := 11
  mirrorNew : Option Nat := none    -- the die a table copy is being made to (R396)
  tight    : Bool := false
  count    : Nat := 0
  interval : Nat := 40
  out      : List EngId := []
  dbq      : Word := 0
  ctxs     : Bank CtxRec := []
  queues   : Bank QueueCtx := []
  rebinds  : List Rebind := []
  moveDue  : Bool := false
  moveRun  : Bool := false
  moveDone : Bool := false
  moved    : List (Nat × Nat × List Byte) := []   -- copies of a relay move that stand from the tick (R392): die, offset, bytes
  readmit  : List (DieId × Bool) := []  -- re-admission moves: running (false) or complete (true)
  placeKey : Nat × Nat × Nat × Bool := (12, 15, 15, false) -- relay, lossa, lossb, lean the bindings were made for; relay 12 none
  deriving DecidableEq, Repr

/-- A waiter of an object (11, R408, R410). -/
inductive Waiter where
  | host (id : Nat) (n : Nat) (timeout : Nat)   -- timeout in us, 0 for none
  | engine (g : EngId) (n : Nat)
  deriving DecidableEq, Repr

/-- Synchronisation object (11, Table 11-1). -/
structure SynObj where
  st      : Nat := 0    -- 0 UNUSED, 1 ACTIVE, 2 ORPHANED
  binary  : Bool := false
  held    : Bool := false
  sat     : Bool := false
  under   : Bool := false
  owner   : Nat := 15
  value   : Nat := 0
  limit   : Nat := 0
  waiters : List Waiter := []
  named   : Bool := false   -- owner named by SYN_INIT: R404 no longer rewrites it
  deriving DecidableEq, Repr

structure Syn where
  badsig  : Bool := false
  nores   : Bool := false
  under   : Bool := false
  sat     : Bool := false
  orphan  : Bool := false
  ready   : Bool := false
  peak    : Nat := 0
  nextId  : Nat := 0
  bases   : Bank (Nat × Nat) := []   -- context: base, size
  objs    : Bank SynObj := []
  deriving DecidableEq, Repr

/-- KV page descriptor (07, Table 7-1). -/
structure Page where
  st       : Nat := 0   -- 0 FREE, 1 ACTIVE, 2 RELEASING, 3 LOST
  size     : Nat := 0
  fmt      : Nat := 0
  die      : Nat := 0
  ctx      : Nat := 0
  refs     : Nat := 0
  d        : Nat := 0
  filled   : Nat := 0
  capacity : Nat := 0
  addr     : Nat := 0
  cow      : Bool := false
  src      : Nat := 0
  stage    : Nat := 0
  pinned   : Bool := false
  flip     : Word := 0   -- bits of its check word that are wrong (Table 7-3)
  deriving DecidableEq, Repr

/-- A write preparation the KPM has decided and not yet answered (07, R262-R264): the new pages whose copying it waits for. -/
structure Prep where
  eng   : EngId
  waits : List Nat
  deriving DecidableEq, Repr

/-- A page made for a writing descriptor that has not ended (07, R265): its engine, the page-list entry and its bytes before, the
new page, the page it was copied from. -/
structure MadePage where
  eng   : EngId
  entry : Nat
  old   : List Byte
  page  : Nat
  src   : Option Nat
  deriving DecidableEq, Repr

structure Kpm where
  noalloc : Bool := false
  dcrc    : Bool := false
  sat     : Bool := false
  under   : Bool := false
  ready   : Bool := false
  hwm     : Nat := 0
  cow     : Nat := 0
  heaps   : Bank (Nat × Nat) := []     -- die: base and size in 2 MiB
  withheld : List (Nat × Nat × Nat) := []    -- heap blocks of LOST pages now FREE (R255): die, address, size code
  quotas  : Bank Nat := []
  pages   : Bank Page := []
  preps   : List Prep := []
  copies  : List (Nat × Nat) := []     -- new page, page copied from
  made    : List MadePage := []        -- the newest first
  deriving DecidableEq, Repr

/-- One field buffer: the occupancy and the inflation it was built from (08, R287, R288). -/
structure Field where
  occ   : Mem := {}
  infl  : Nat := 0
  built : Bool := false
  t0    : Nat := 0
  gen   : Nat := 0
  deriving DecidableEq, Repr

structure Search where
  src      : SearchSrc
  pkt      : Option Pkt
  build    : Bool
  waiting  : Bool            -- the build has not started (R290)
  building : Bool
  pose     : Word × Word
  t0       : Nat
  cfg      : List Word
  layover  : Bool
  deriving DecidableEq, Repr

/-- A fabric write that waits (08 R289, R294; 09 R332): address in its memory, bytes, livery, the links it came by, when it came,
whether its initiator still waits for its completion, and the engine where that is a STORE. -/
structure HeldWrite where
  addr : Nat
  data : List Byte
  livery : Byte
  path : List LinkId := []
  born : Nat := 0
  owed : Bool := true
  eng  : Option EngId := none
  deriving DecidableEq, Repr

structure Mpl where
  mism     : Bool := false
  fieldv   : Bool := false
  busywr   : Bool := false
  badcfg   : Bool := false
  st       : Nat := 0
  cfg      : List Word := [0x003E8040, 0x18640000, 0x32040012, 0, 0, 0, 0, 0, 0, 0, 0]       -- QCFG, SCFG, CCFG, FOOT0-7 in effect
  shadow   : List Word := [0x003E8040, 0x18640000, 0x32040012, 0, 0, 0, 0, 0, 0, 0, 0]
  gen      : Nat := 0
  front    : Bool := false            -- front buffer is buffer 1
  buf0     : Field := {}
  buf1     : Field := {}
  ref      : Nat := 0
  sstat    : Nat := 0
  gstat    : Nat := 0
  cands    : Nat := 0
  grank    : Nat := 15
  reason   : Nat := 0
  pops     : Nat := 0
  qpeak    : Nat := 0
  evict    : Nat := 0
  drop     : Nat := 0
  maxns    : Nat := 0
  ckMism   : Nat := 0
  mismStages : List Nat := []      -- stages of lane disagreements (class 0x0E)
  sram     : Mem := {}
  search   : Option Search := none
  candsHeld : Nat := 0
  current  : Bool := false
  ended    : Bool := false            -- a search ended in this stage
  gateOpen : Bool := false            -- a gate run is due (R316, R318)
  heldOcc  : List HeldWrite := []
  heldPrim : List HeldWrite := []
  searched : Bool := false            -- a search has run since reset, so the node store is in use (R319)
  defCommit : Option (List Word) := none   -- the shadow as it stood at a tick that found the planner busy (R11, R322)
  urgAliveA : BitVec 8 := 0
  urgAliveB : BitVec 8 := 0
  deriving DecidableEq, Repr

/-- Track record (09, Table 9-7). -/
structure Track where
  confirmed : Bool := false
  conflict  : Bool := false
  maskcov   : Bool := false
  cls       : Nat := 0
  id        : Nat := 0
  x         : Int := 0
  y         : Int := 0
  vx        : Int := 0
  vy        : Int := 0
  width     : Nat := 0
  length    : Nat := 0
  conf      : Nat := 0
  hits      : Nat := 0
  misses    : Nat := 0
  heading   : Nat := 0
  x2        : Int := 0
  y2        : Int := 0
  streams   : Nat := 0
  oldest    : Nat := 0
  born      : Nat := 0
  deriving DecidableEq, Repr

structure TrackTable where
  tvalid : Nat := 0
  stage  : Nat := 0
  evx    : Int := 0
  evy    : Int := 0
  ew     : Int := 0
  flags  : Nat := 0
  gen    : Nat := 0
  tracks : Bank Track := []
  deriving DecidableEq, Repr

/-- Detection (09, Table 9-2) and sample (Table 9-1). -/
structure Detection where
  x       : Int
  y       : Int
  width   : Nat
  length  : Nat
  score   : Nat
  cls     : Nat
  heading : Nat
  deriving DecidableEq, Repr

structure Sample where
  seq    : Nat := 0
  tcap   : Nat := 0
  flowW  : Int := 0
  flowV  : Bool := false
  dets   : List Detection := []
  points : List (Int × Int) := []
  deriving DecidableEq, Repr

/-- A published word of a stream with its instant, and whether it came after the round of its stage had started. -/
structure Publish where
  word  : Word
  at_   : Nat
  late  : Bool
  deriving DecidableEq, Repr

structure Stream where
  lastQ    : Option Nat := none
  lastTcap : Option Nat := none
  pubs     : List Publish := []      -- accepted since the last round start
  gaps     : Nat := 0
  lateCnt  : Nat := 0
  prev     : Option Sample := none     -- the sample published before (lidar registration)
  cur      : Option Sample := none
  autoMask : Nat := 0               -- bits 2, 3, 4: the reasons of Table 9-5 that stand
  cleanRounds : Nat := 0            -- rounds without being an outlier while reason 4 stands
  goodRounds : Nat := 0       -- in a row with a usable sample, toward lifting reason 2 (Table 9-5)
  goodChecks : Nat := 0       -- in a row with a usable sample and none that failed, toward lifting reason 3
  outRounds : Nat := 0              -- consecutive outlier rounds under R353
  egoRounds : Nat := 0              -- consecutive ego outlier rounds under R341
  lastUsed : Option Nat := none
  deriving DecidableEq, Repr

structure Round where
  start   : Nat
  tref    : Nat
  tick    : Nat
  stage   : Nat
  used    : List (Nat × Sample)  -- stream, copied sample
  copying : List Nat             -- offsets of the buffers being copied (R332)
  clear   : Bool       -- R364: every slot FREE, the id counter at 0
  deriving DecidableEq, Repr

structure Fus where
  pub      : Bool := false
  ovr      : Bool := false
  abort    : Bool := false
  busywr   : Bool := false
  badcfg   : Bool := false
  egoconf  : Bool := false
  egohold  : Bool := false
  ready    : Bool := false
  cfg      : List Word := [0x320003E8, 0x00641904, 0x64328020, 0x10180810, 0x40806000, 0x64305020, 0x0000FFFF] ++
    List.replicate 20 0   -- TIMING, ACFG, KCFG, CCFG, TCFG, MCFG, BIDS, COV0-19
  shadow   : List Word := [0x320003E8, 0x00641904, 0x64328020, 0x10180810, 0x40806000, 0x64305020, 0x0000FFFF] ++
    List.replicate 20 0
  syncCtx  : Nat := 0
  syncObj  : Nat := 0
  hmask    : BitVec 20 := 0
  hmaskReq : BitVec 20 := 0    -- host masks as the next round will see them (R364)
  clearReq : Bool := false
  streams  : Bank Stream := []
  evx      : Int := 0
  evy      : Int := 0
  ew       : Int := 0
  egoValid : Bool := false
  table0   : TrackTable := {}
  table1   : TrackTable := {}
  anyPub   : Bool := false
  gen      : Nat := 0
  nextTid  : Nat := 0
  lastTref : Option Nat := none
  report   : List Word := []
  mem      : Mem := {}
  round    : Option Round := none
  held     : List HeldWrite := []
  defCommit : Option (List Word) := none   -- the shadow as it stood at a tick inside a round (R11)
  lastRound : Option Nat := none      -- the tick of the stage whose round has run (R330)
  deriving DecidableEq, Repr

/-- A check-value unit (15). -/
structure Cvu where
  badcfg : Bool := false
  busywr : Bool := false
  rep    : Bool := false
  skip   : Bool := false
  gap    : Nat := 0
  alres  : Nat := 0
  opened : Bool := false
  cfg    : Word := 0x720
  polyLo : Word := 0x1EDC6F41
  polyHi : Word := 0
  initLo : Word := 0xFFFFFFFF
  initHi : Word := 0
  reg    : BitVec 64 := 0
  count  : Nat := 0
  send   : Bool := false
  value  : BitVec 8 := 0
  skipCnt : Nat := 0
  repCnt : Nat := 0
  owner  : Nat := 0
  deriving DecidableEq, Repr

/-- A descriptor that has completed in its engine and is not yet reported (04, R168). -/
structure Completion where
  status : Byte
  words  : List Word
  ctx    : Nat
  queue  : Nat
  head   : Word
  deriving DecidableEq, Repr

/-- What a running descriptor of an engine waits for (04 R160, R162; 07 R262; 11 R407). -/
inductive EngWait where
  | object (phys : Nat)
  | haloSend
  | haloRecv
  | prepare (entry : Nat)   -- the KPM's decision for a page-list entry (07 R262)
  | copies                  -- the KPM's answers
  | drain                   -- the acknowledgements of a STORE in compatibility mode (12 R434)
  deriving DecidableEq, Repr

/-- How a weight stream ends early (04 R150, R156). -/
inductive StreamEnd where
  | firewall | broken
  deriving DecidableEq, Repr

/-- Weights fetched and decoded ahead (R151): the descriptor's count, where its stream starts, the bytes decoded, where the
next block starts, how the stream ended early. -/
structure Prefetch where
  count : Nat
  addr  : Nat
  bytes : List Byte
  next  : Nat
  ended : Option StreamEnd
  deriving DecidableEq, Repr

/-- A tensor engine (04, 05, 14). -/
structure Engine where
  badcfg  : Bool := false
  busywr  : Bool := false
  halo    : Bool := false
  wserr   : Bool := false
  dcrc    : Bool := false
  fwl     : Bool := false
  chk     : Bool := false
  st      : Nat := 0      -- TE_STAT.state code
  ovl     : Bool := true
  ftol    : Nat := 16
  bound   : Bool := false
  bctx    : Nat := 0
  bqueue  : Nat := 0
  curTag  : Word := 0
  wscnt   : Nat := 0
  rescnt  : Nat := 0
  abftcnt : Nat := 0
  busy    : Nat := 0
  sat     : Nat := 0
  nan     : Nat := 0
  stDefer : Nat := 0
  stSince : Nat := 0
  stSlice : Nat := 0
  stFail  : Bool := false
  stOut   : Bool := false
  ranDue  : Bool := false     -- the due slice has run in this stage
  mismAt  : List Nat := [] -- stages of class 0x01 failures
  wdrawAt : List Nat := [] -- stages of withdrawals
  withdrawn : Bool := false
  wdrawNext : Bool := false   -- withdrawn from the next tick
  wdrawPerm : Bool := false   -- a decision of the fault manager is due
  retired : Bool := false
  backNext : Bool := false    -- re-admitted at the next tick (R505)
  outDue  : Bool := false     -- to be left out for self-test (R508)
  rs      : Mem := {}
  acc0    : Mem := {}            -- accumulator buffer, two halves of 384 KiB (R137)
  acc1    : Mem := {}
  wbuf0   : Mem := {}            -- weight buffer, two halves of 256 KiB (R137)
  wbuf1   : Mem := {}
  half    : Bool := false        -- the half of the weight buffer that is filled next is the second
  pref    : Option Prefetch := none
  openCmd : Bool := false         -- a command's first descriptor has started and its milepost has not completed
  cut     : Bool := false         -- the layover has cut the open command short (R60)
  headAt  : Word := 0             -- the queue's head after the current descriptor (Table 10-3)
  skipSt  : Option Byte := none  -- status with which descriptors complete unexecuted up to the milepost (R162, R413)
  hung    : Bool := false
  waiting : Option EngWait := none
  cur     : Option (List Word) := none  -- the descriptor that waits
  done    : List Completion := []
  late    : List Completion := []       -- of descriptors that have overtaken the one that waits (R168, R169)
  sigs    : List (Nat × Nat) := []    -- context and virtual identifier of signals not yet in the turnpike
  turn    : Bool := false                -- the partner's queue is next (R380)
  served  : Option Nat := none           -- the context served last (R171)
  bindDue : Bool := false                -- to be bound at its milepost (R382)
  deriving DecidableEq, Repr

structure HaloMsg where
  tag  : Nat
  data : List Byte
  deriving DecidableEq, Repr

/-- A write in an MCT's queue: source (port, livery), offset, bytes, the links it came by, its place in the order of acceptance,
whether its initiator still waits for an acknowledgement in compatibility mode (12, R434), and the engine where that is a
STORE. -/
structure PendWrite where
  port   : MctPort
  livery : Byte
  off    : Nat
  data   : List Byte
  path   : List LinkId := []
  seq    : Nat := 0
  owed   : Bool := true
  eng    : Option EngId := none
  mixed  : List (Nat × Nat) := []   -- ranges (offset, length) that other sources' writes drained over while it waited (R434)
  deriving DecidableEq, Repr

/-- A read that the MCT has accepted and not answered (12, R433, R443): the links it came by, the bytes it returns as they
stood at its acceptance, the bursts of them that hold an uncorrectable error, and its place in the order of acceptance. -/
structure HeldRead where
  port   : MctPort
  livery : Byte
  path   : List LinkId
  off    : Nat
  len    : Nat
  data   : List Byte
  bad    : List Nat
  seq    : Nat
  deriving DecidableEq, Repr

/-- Memory controller of a compute die (12, Tables 12-5 to 12-12). -/
structure Mct where
  hot    : Bool := false
  frcref : Bool := false
  ue     : Bool := false
  ce     : Bool := false
  badcfg : Bool := false
  st     : Nat := 0     -- 0 OFF, 1 TRAIN, 2 READY, 3 FAULT
  map    : Word := 0x204
  mapSh  : Word := 0x204
  compat : Bool := false
  compatSh : Bool := false
  ceCnt  : Nat := 0
  ueCnt  : Nat := 0
  errLo  : Word := 0
  errHi  : Word := 0
  forced : Nat := 0
  peak   : Nat := 0
  debt   : Bank Nat := []          -- bank number pc * 64 + bank
  writes : List PendWrite := []
  reads  : List HeldRead := []
  seq    : Nat := 0                -- transactions accepted
  flaws  : Bank (List Nat) := []   -- by burst number, the 8-bit symbols of the burst that hold errors (R444)
  badRead : List Nat := []         -- bursts already read with an uncorrectable error since last written
  scrubbed : List Nat := []        -- bursts whose uncorrectable error patrol scrub found
  ueAt   : List Nat := []          -- stages of uncorrectable reads not found by scrub
  ueLimit : Bool := false          -- one burst gave the error on two reads with no write between (R503)
  ce24   : List Nat := []          -- vehicle times of the correctable errors of the last 24 h (class 0x05)
  deriving DecidableEq, Repr

/-- A compute die (01, 12, 14, 16, 18). -/
structure Die where
  inReset  : Bool := true
  inService : Bool := false
  readyRe  : Bool := false      -- ready for re-admission (R486)
  retired  : Bool := false
  missed   : Bool := false      -- not ready by the start-up bound (Table 16-4, step 5)
  decision : Bool := false      -- a decision of the fault manager is due
  excluded : Bool := false      -- out under R509
  thermal  : Bool := false      -- out under R622 and not yet cooled
  imageOk  : Bool := false      -- the image has been restored (R78)
  lossAt   : List Nat := []
  before   : Option (Bool × Bool × List Nat) := none   -- decision, retired, lossAt before a re-admission under way (R643)
  scfailed : Bool := false      -- the coupling to the successor has failed and waits for a die reset (R510)
  failedRetrains : Nat := 0
  spdown   : Bool := false
  scdown   : Bool := false
  pcdown   : Bool := false
  spup     : Bool := false
  scup     : Bool := false
  pcup     : Bool := false
  retrySp  : Nat := 0
  retrySc  : Nat := 0
  retryPc  : Nat := 0
  mct      : Mct := {}
  hbm      : Mem := {}
  pool     : Mem := {}
  boxPred  : List HaloMsg := []    -- messages from the ring predecessor
  boxSucc  : List HaloMsg := []
  tjLogic  : Int := 0
  tjHbm    : Int := 0
  degr     : Nat := 0
  hot95    : Nat := 0
  degrNoted : Bool := false
  deriving DecidableEq, Repr

/-- A firewall region (13, Tables 13-8 to 13-10): `allow` bit i is livery i. -/
structure Region where
  base  : Nat := 0
  size  : Nat := 0
  en    : Bool := false
  lock  : Bool := false
  w     : Bool := false
  r     : Bool := false
  allow : BitVec 256 := 0
  deriving DecidableEq, Repr

structure Firewall where
  busywr  : Bool := false
  lockwr  : Bool := false
  refd    : Bool := false
  refcnt  : Nat := 0
  lastLo  : Word := 0
  lastHi  : Word := 0
  regions : Bank Region := []
  run     : Option (Byte × Kind × Nat) := none   -- the run of refusals of this stage: livery, kind, count
  deriving DecidableEq, Repr

/-- Fault-log entry (14, Table 14-6) without its sequence and check words. -/
structure Entry where
  cls      : Nat := 0
  reaction : Nat := 0
  kind     : Nat := 0     -- 0 I, 1 T, 2 P, 3 consequential
  book     : Bool := false
  unit     : Nat := 0
  sub      : Nat := 0
  status   : Byte := 0
  livery   : Byte := 0
  time     : Nat := 0
  stage    : Nat := 0
  detail   : Nat := 0
  deriving DecidableEq, Repr

/-- A held drag shoe with the frame it stands in (13, R475-R478). -/
structure Shoe where
  rcd     : List Word
  gen     : Nat
  t0      : Nat
  recheck : Bool
  clear   : Bool
  step    : Nat
  reason  : Nat
  source  : Nat      -- 1 SIA, 2 SIB
  stage   : Nat
  deriving DecidableEq, Repr

structure Release where
  rcd   : List Word
  crc   : Word
  gen   : Nat
  t0    : Nat
  stage : Nat
  deriving DecidableEq, Repr

/-- Where an island stands in Table 13-13: the step under way and the slot being checked. -/
inductive IslStep where
  | idle
  | proposal   -- step 1: the proposal is in the island's slot and an urgent check is out
  | reexpress  -- step 2: the re-expressed drag shoe is in the slot and an urgent check is out
  | candidate  -- step 5: slot 9 is being checked
  deriving DecidableEq, Repr

/-- A firmware slot's trial (16, R576): the stage it was activated in. -/
structure Fw where
  slotB   : Bool := false
  trial   : Option Nat := none
  failedA : Bool := false
  failedB : Bool := false
  recB    : Bool := false       -- the slot the state record names active is B
  deriving DecidableEq, Repr

structure FwLoad where
  target  : Nat     -- 0 SIA, 1 SIB, 2 IOD
  len     : Nat
  version : Word
  done    : Nat
  deriving DecidableEq, Repr

/-- A safety island (13, 14, 16, 18). -/
structure Island where
  st      : Nat := 1      -- Table 13-1
  other   : Nat := 0
  imm     : Bool := false
  xmerr   : Bool := false
  hrerr   : Bool := false
  dsValid : Bool := false
  dsRecheck : Bool := false
  dsClear : Bool := false
  dsStep  : Nat := 0
  dsGen   : Nat := 0
  clr     : Int := 0
  first   : Nat := 0
  count   : Nat := 0
  released : Bool := false
  relReason : Nat := 0
  attempts : Nat := 0
  relStage : Nat := 0
  withheld : Nat := 0
  disagree : Nat := 0
  maxns   : Nat := 0
  timeouts : Nat := 0
  flogCnt : Nat := 0
  beatLapsed : Bool := false
  beatAt  : Option Nat := none          -- vehicle time of the last SIS_CTL.beat since reset
  msgSeq  : BitVec 16 := 0
  differ  : Nat := 0
  linkUp  : Bool := false
  rep     : StageRep := {}
  push    : Option StageRep := none     -- pushed with a tick that the replica has not produced yet
  ticked  : Option Nat := none          -- vehicle time of the replica's last tick
  ttIdent : Nat := 0                -- record of the active timetable (R84)
  ttImage : List (DieId × Nat) := []
  ttSaved : Option Timetable := none   -- what the record's image holds
  counts  : Bool := true                -- counts for releases; false from a later reset until R464 holds
  adopted : Bool := false               -- has adopted a drag shoe since its reset
  shoe    : Option Shoe := none
  report  : Option (List Word) := none
  reportQ : List (List Word) := []   -- gate reports on their way
  step    : IslStep := .idle
  tries   : Nat := 0
  aliveNext : BitVec 8 := 0
  urgSeq  : BitVec 16 := 0
  urgReply : List (List Word) := []  -- urgent replies on their way
  late    : Bool := false               -- steps 1-3 only
  restarts : Nat := 0                   -- restarts under R480 in the stage under way
  cutoff  : Bool := false               -- the cut-off of the stage under way has passed
  immDue  : Bool := false               -- an immediate drag shoe is ordered and not yet sent (R485)
  mism    : Bool := false               -- a mismatch at step 5 or 6 that no newer report has lifted (R480)
  relOut  : Option Release := none     -- release on its way to the edges
  shoeOut : Option Shoe := none
  flog    : List (Nat × Entry) := []   -- sequence, entry; newest first
  flogSeq : BitVec 16 := 0
  pendBook : List (Nat × Entry) := []
  logbook : List (Nat × Entry) := []   -- newest first
  notices : List (Nat × Entry) := []   -- notices not yet sent
  ram     : Mem := { fill := .free 0 }   -- not defined after power-on (12 R454)
  rom     : Nat × Nat := (0, 0)        -- the vendor root public key in the mask ROM (R540)
  flash   : Mem := { fill := .byte 0xFF }
  flashOp : Option (Nat × Nat × List Byte) := none   -- operation 1 erase 2 program, flash offset, bytes
  pieces  : List Access := []          -- fabric accesses to the island memories under way
  recok   : Bool := false
  recfix  : Bool := false
  fwfail  : Bool := false
  mgtm    : Bool := false
  padLow  : Bool := true               -- in reset from its own pad, whose next rise samples STRAP_MGTM (R541)
  fw      : Fw := {}
  minIsl  : Nat := 0
  minIod  : Nat := 0
  nonce   : Option Nat := none
  retired : List DieId := []           -- the state record's retirements (R514)
  retiredEng : List EngId := []
  sudden  : Bool := false
  setinv  : Bool := false
  leanreq : Bool := false
  slope   : Int := 0
  inlet   : Int := 0
  outlet  : Int := 0
  sampleOk : Bool := false
  dp      : Nat := 0
  flow    : Nat := 0
  lowFlow : Nat := 0
  highSlope : Nat := 0
  badRun  : Nat := 0
  goodRun : Nat := 0
  outs    : List Int := []             -- outlet temperatures of the last 500 samples, newest first
  level   : Nat := 0
  upRun   : List Nat := []             -- evaluations for which levels 1, 2, 3 have held
  downRun : Nat := 0
  jLevel  : Nat := 0                   -- the same by the junctions alone (R624)
  jUp     : List Nat := []
  jDown   : Nat := 0
  seen    : Nat := 0                   -- the module level as the islands last acted on it
  calm    : Nat := 0                  -- evaluations within the limits of R632
  lvl1    : Word := 0x645F5846
  lvl2    : Word := 0x50645B48
  lvl3    : Word := 0x3C665D4B
  tj      : Int := 0
  degr    : Nat := 0
  hot95   : Nat := 0
  degrNoted : Bool := false
  inReset : Bool := true
  boots   : Bool := false              -- its firmware has been verified and runs (Table 16-4, step 2)
  deriving DecidableEq, Repr

/-- A ring edge with its port (13 R481-R485; 17). -/
structure RingEdge where
  inReset : Bool := true
  rep     : StageRep := {}
  push    : Option StageRep := none
  ticked  : Option Nat := none
  stA     : Nat := 0        -- latest state message of SIA, SIB (Table 13-1)
  stB     : Nat := 0
  relA    : Option Release := none
  relB    : Option Release := none
  shoeA   : Option Shoe := none
  shoeB   : Option Shoe := none
  late    : Option Shoe := none     -- arrived after the cut-off, for use from the next tick (R481)
  newest  : Option Shoe := none
  adopted : Bool := false       -- an island has adopted a drag shoe since power-on (R483)
  cutoff  : Bool := false       -- the cut-off of the present stage has passed here
  setA    : Bool := false       -- the release set taken at the cut-off
  setB    : Bool := false
  reason  : Nat := 5            -- the reason of Table 13-15 as it stood at the cut-off
  alive   : BitVec 8 := 0
  lost    : Bool := false
  moved   : Bool := false
  sync    : Bool := false
  linkup  : Bool := false
  txready : Bool := false
  rxlock  : Bool := false
  bypass  : Nat := 1        -- 0 open, 1 closed, 2 moving, 3 fault
  goal    : Bool := true       -- position it moves to: true closed
  held    : Bool := false       -- a commanded close holds (R613)
  cfg     : List Word := [0x88B57000, 0x00584803, 0x00000100, 0x00000000]  -- ORP_FRAME, DMACLO, DMACHI, RXETYPE in effect
  shadow  : List Word := [0x88B57000, 0x00584803, 0x00000100, 0x00000000]
  txcnt   : Nat := 0
  fcserr  : Nat := 0
  drop    : Nat := 0
  deriving DecidableEq, Repr

/-- Clocks (16). -/
structure Clk where
  hold    : Bool := false
  auto    : Bool := false
  xlost   : Bool := false
  r1lost  : Bool := false
  r0lost  : Bool := false
  xready  : Bool := false
  r1ready : Bool := false
  r0ready : Bool := false
  src     : Bank Nat := []     -- source of group g: 0 REC0, 1 REC1, 2 XREF, 3 holdover; default 2
  ramp    : List (Fin 13) := []
  gates   : Bank Nat := []     -- closed leaves of group g as bits; default 0 (all open)
  edgeA   : ClkSrc := .xref
  edgeB   : ClkSrc := .xref
  deriving DecidableEq, Repr

/-- IOD core: reset, straps, security loads, sensor ports (01, 16, 17). -/
structure Iod where
  inReset  : Bool := true
  running  : Bool := false       -- out of reset, not yet ready or ready
  ready    : Bool := false
  thermal  : Bool := false
  cause    : Nat := 0
  straps   : BitVec 4 := 0
  porst    : Bool := false       -- PORST_N high
  testMode : Bool := false
  sudden   : Bool := false       -- the hold of R630
  load     : Option FwLoad := none
  fw       : Fw := {}
  fwArm    : Option Nat := none -- target stage of a firmware switch (R575)
  serial   : Nat := 0
  verIod   : Word := 0
  verSia   : Word := 0
  verSib   : Word := 0
  spdown   : BitVec 12 := 0
  isldown  : BitVec 2 := 0
  spretry  : Bank Nat := []
  tj       : Int := 0
  degr     : Nat := 0
  hot95    : Nat := 0
  degrNoted : Bool := false
  aphDown  : BitVec 16 := 0
  aphUp    : BitVec 16 := 0
  ethDown  : BitVec 4 := 0
  ethUp    : BitVec 4 := 0
  ethCfg   : BitVec 4 := 0xF
  ethCfgSh : BitVec 4 := 0xF
  pceDrop  : Bool := false
  pceWidth : Nat := 0
  pceSpeed : Nat := 0
  pceUp    : Bool := false
  pceDev   : BitVec 16 := 0x1296   -- device identifier of the PCE (R593), fixed
  retrain  : List LinkId := []     -- links in retry exhaustion, retraining
  altRoute : List (DieId × DieId × Nat) := []   -- routes in use that differ: 1 other arc, 2 spines
  deriving DecidableEq, Repr

/-- The state of the block. `pending` is the queue of waiting commands; `free`, `vtime`, `out` are the model's own. -/
structure State where
  pending : List Instr := []
  free    : Nat := 4
  vtime   : Nat := 0
  out     : List Emit := []
  hpt     : Hpt := {}
  mgtA    : Mgt := {}
  mgtB    : Mgt := {}
  stg     : Stg := {}
  tt      : Tt := {}
  dis     : Dis := {}
  qmg     : Qmg := {}
  syn     : Syn := {}
  kpm     : Kpm := {}
  mpl     : Mpl := {}
  fus     : Fus := {}
  cvus    : Bank Cvu := []
  engines : Bank Engine := []
  dies    : Bank Die := []
  flight  : List (EngId × DieId × Bool × HaloMsg) := []   -- halo messages under way: sender, target, into its predecessor box
  fws     : Bank Firewall := []
  sia     : Island := { rom := Config.rootKey, flash := { fill := .free 2 } }
  sib     : Island := { rom := Config.rootKey, ram := { fill := .free 1 }, flash := { fill := .free 3 } }
  edgeA   : RingEdge := {}
  edgeB   : RingEdge := {}
  clk     : Clk := {}
  iod     : Iod := {}
  latches : List (PairId × Word) := []
  deriving DecidableEq, Repr

/-- Faults that stop the block: none. Every fault of the device (14, Table 14-1) is an event with an effect on State. -/
inductive Fault where
  deriving DecidableEq, Repr

/-- Refusals. `notModelled`: raised by Dispatch.lean's arms alone, for a command without a meaning yet; safe (the model
stops where the device goes on). -/
inductive Refusal where
  | notModelled (mnemonic : String)
  deriving DecidableEq, Repr

/-- The device right after power-on, all three reset pads held: every field at the value its structure names. -/
def State.reset : State := {}

abbrev Out := Host.Outcome State Fault Refusal

end Sys2Proof.Machine
end

