-- ==== Sys2Proof/Machine/Bits.lean ====
section
/-! DEFINITION. Bit fields, byte order, check values, banks and memories: the plain helpers of every unit (00 R4-R8; 03
R110). -/

namespace Sys2Proof.Machine

/-- Bits `hi` down to `lo` of a number (R4). -/
def bits (w hi lo : Nat) : Nat := (w >>> lo) % 2 ^ (hi + 1 - lo)

/-- Bits `hi` down to `lo` of a register word. -/
def fld (w : Word) (hi lo : Nat) : Nat := bits w.toNat hi lo

def tbit (w : Word) (i : Nat) : Bool := w.toNat.testBit i

/-- A word from a number. -/
def toW (n : Nat) : Word := BitVec.ofNat 32 n

def b2n (b : Bool) : Nat := if b then 1 else 0

/-- A field placed at bit `lo`. -/
def at_ (v lo : Nat) : Nat := v <<< lo

/-- A flag placed at bit `lo`. -/
def flagAt (b : Bool) (lo : Nat) : Nat := if b then 2 ^ lo else 0

/-- A count that stops at its upper limit. -/
def satAdd (limit v n : Nat) : Nat := min limit (v + n)

/-- Two's complement value of an `n`-bit field. -/
def sx (n v : Nat) : Int := if v % 2 ^ n < 2 ^ (n - 1) then (v % 2 ^ n : Nat) else (v % 2 ^ n : Nat) - (2 ^ n : Nat)

/-- `n`-bit two's complement of a number. -/
def tc (n : Nat) (v : Int) : Nat := (v % (2 ^ n : Nat)).toNat

def clampI (lo hi v : Int) : Int := if v < lo then lo else if hi < v then hi else v

/-- Bytes of a word, byte 0 first (R5). -/
def wordBytes (w : Word) : List Byte :=
  [w.extractLsb' 0 8, w.extractLsb' 8 8, w.extractLsb' 16 8, w.extractLsb' 24 8]

def wordsBytes (ws : List Word) : List Byte := ws.flatMap wordBytes

/-- A word from four bytes, byte 0 in bits 7:0 (R5). -/
def ofBytes (a b c d : Byte) : Word := d ++ c ++ b ++ a

/-- Whole words of a byte string; a rest shorter than a word is dropped. -/
def bytesWords : List Byte → List Word
  | a :: b :: c :: d :: r => ofBytes a b c d :: bytesWords r
  | _ => []

/-- Little-endian value of a byte string. -/
def leNat : List Byte → Nat
  | [] => 0
  | b :: r => b.toNat + 256 * leNat r

/-- `n` bytes of a number, little-endian. -/
def natLe : Nat → Nat → List Byte
  | 0, _ => []
  | n + 1, v => BitVec.ofNat 8 v :: natLe n (v / 256)

/-- Big-endian value of a byte string (the exception of R5, 02 Table 2-3 signatures). -/
def beNat (bs : List Byte) : Nat := bs.foldl (fun a b => a * 256 + b.toNat) 0

def natBe (n v : Nat) : List Byte := (natLe n v).reverse

def lo32 (v : Nat) : Word := toW v
def hi32 (v : Nat) : Word := toW (v >>> 32)
def two (v : Nat) : List Word := [lo32 v, hi32 v]
def join64 (lo hi : Word) : Nat := lo.toNat + 2 ^ 32 * hi.toNat

/-- Word `i` of a list, 0 beyond its end. -/
def nth (ws : List Word) (i : Nat) : Word := ws.getD i 0

/-- Byte `i` of a list, 0 beyond its end. -/
def nthB (bs : List Byte) (i : Nat) : Byte := bs.getD i 0

/-- One bit step of the reflected CRC-32C register. -/
def crcShift : Nat → Nat → Nat
  | 0, c => c
  | k + 1, c => crcShift k (if c % 2 = 1 then (c / 2) ^^^ 0x82F63B78 else c / 2)

def crcStep (c : Nat) (b : Byte) : Nat := crcShift 8 (c ^^^ b.toNat)

/-- CRC-32C of a byte string (R110). -/
def crc32 (bs : List Byte) : Word := toW ((bs.foldl crcStep 0xFFFFFFFF) ^^^ 0xFFFFFFFF)

/-- CRC-32C of words in transmitted order. -/
def crcW (ws : List Word) : Word := crc32 (wordsBytes ws)

/-- A message with its check word behind it. -/
def sealW (ws : List Word) : List Word := ws ++ [crcW ws]

/-- The last word is the CRC-32C of the words before it. -/
def sealOk (ws : List Word) : Bool := ws.length > 0 && crcW ws.dropLast == ws.getLastD 0

/-! Banks: numbered units that differ from a default. -/

def bankGet {α : Type} (d : α) (m : Bank α) (k : Nat) : α :=
  match m.find? (fun e => e.1 == k) with
  | some e => e.2
  | none => d

/-- Put an entry in its place, or take it out where it equals the default. -/
def bankSet {α : Type} [DecidableEq α] (d : α) (m : Bank α) (k : Nat) (v : α) : Bank α :=
  m.filter (fun e => e.1 < k) ++ (if v = d then [] else [(k, v)]) ++ m.filter (fun e => k < e.1)

def bankMod {α : Type} [DecidableEq α] (d : α) (m : Bank α) (k : Nat) (f : α → α) : Bank α :=
  bankSet d m k (f (bankGet d m k))

/-! Memories. -/

/-- The cells of a byte string from an address on that differ from the fill byte. -/
def cellsFrom (fill : Fill) : Nat → List Byte → List Host.Cell
  | _, [] => []
  | a, b :: r => if fill = .byte b then cellsFrom fill (a + 1) r else (a, b) :: cellsFrom fill (a + 1) r

/-- A write of a byte string. -/
def memWr (m : Mem) (a : Nat) (bs : List Byte) : Mem :=
  { m with cells := m.cells.filter (fun c => c.1 < a) ++ cellsFrom m.fill a bs ++
      m.cells.filter (fun c => a + bs.length ≤ c.1) }

/-- What an unlisted byte reads as. -/
def fillAt (f : Fill) (a : Nat) : Byte :=
  match f with
  | .byte b => b
  | .free e => Config.openByte e a

/-- One byte. -/
def memByte (m : Mem) (a : Nat) : Byte :=
  match m.cells.find? (fun c => c.1 == a) with
  | some c => c.2
  | none => fillAt m.fill a

/-- The bytes from an address on, by one walk over the cells at or above it. -/
def walkRd (f : Fill) : Nat → Nat → List Host.Cell → List Byte
  | 0, _, _ => []
  | n + 1, a, [] => fillAt f a :: walkRd f n (a + 1) []
  | n + 1, a, c :: r => if c.1 = a then c.2 :: walkRd f n (a + 1) r else fillAt f a :: walkRd f n (a + 1) (c :: r)

/-- A read of `n` bytes. -/
def memRd (m : Mem) (a n : Nat) : List Byte := walkRd m.fill n a (m.cells.filter (fun c => a ≤ c.1 && c.1 < a + n))

def memRdW (m : Mem) (a n : Nat) : List Word := bytesWords (memRd m a (4 * n))

def memWrW (m : Mem) (a : Nat) (ws : List Word) : Mem := memWr m a (wordsBytes ws)

/-- Addresses strictly rising. -/
def risingFrom : Nat → List Host.Cell → Bool
  | _, [] => true
  | n, c :: r => n ≤ c.1 && risingFrom (c.1 + 1) r

/-- The canonical form: addresses strictly rising, no cell equal to what an unlisted address reads as. -/
def memWf (m : Mem) : Bool :=
  risingFrom 0 m.cells && m.cells.all (fun c => !decide (m.fill = .byte c.2))

/-- Element `i` of a list replaced by `f` of it. -/
def modAt {α : Type} : List α → Nat → (α → α) → List α
  | [], _, _ => []
  | x :: r, 0, f => f x :: r
  | x :: r, i + 1, f => x :: modAt r i f

/-- `x` entered into a list without repeats. -/
def addNew {α : Type} [DecidableEq α] (x : α) (l : List α) : List α := if x ∈ l then l else l ++ [x]

/-- Integer rounding of `a / b`, half to even (`b > 0`). -/
def rhe (a : Int) (b : Nat) : Int :=
  let q := a.fdiv b
  let r := a.fmod b
  if 2 * r < b then q else if (b : Int) < 2 * r then q + 1 else if q % 2 = 0 then q else q + 1

/-- One bit of a root: `r` with bit `k` set where its square stays within `n`. -/
def isqrtBits (n : Nat) : Nat → Nat → Nat
  | 0, r => r
  | k + 1, r => isqrtBits n k (if (r + 2 ^ k) * (r + 2 ^ k) ≤ n then r + 2 ^ k else r)

/-- Largest integer whose square is at most `n`. -/
def isqrt (n : Nat) : Nat := isqrtBits n (Nat.log2 n / 2 + 1) 0

/-- `ceil (a / b)` (`b > 0`). -/
def cdiv (a b : Nat) : Nat := (a + b - 1) / b

/-! The frame check sequence of an Ethernet frame (17 R604): the CRC-32 of IEEE 802.3. -/

def fcsShift : Nat → Nat → Nat
  | 0, c => c
  | n + 1, c => fcsShift n (if c % 2 = 1 then (c / 2) ^^^ 0xEDB88320 else c / 2)

/-- The four bytes that end a frame, in their order on the wire. -/
def frameCheck (bs : List Byte) : List Byte :=
  wordBytes (toW ((bs.foldl (fun c b => fcsShift 8 (c ^^^ b.toNat)) 0xFFFFFFFF) ^^^ 0xFFFFFFFF))

/-- A payload with its padding to the Ethernet minimum: 60 bytes with the header. -/
def framePad (header : List Byte) (ws : List Word) : List Byte :=
  wordsBytes ws ++ List.replicate (60 - (header.length + 4 * ws.length)) 0

end Sys2Proof.Machine
end

