-- ==== Sys2Proof/Machine/Ops.lean ====
section
/-! DEFINITION. The named operations over the units of the device: reaching a unit by its number, the fault log (14 R495,
R512, R516-R519), what the block drives outward, free values. -/

namespace Sys2Proof.Machine

/-! Status codes (03, Table 3-13). -/

abbrev stOk : Byte := 0x00
abbrev stOkEmpty : Byte := 0x01
abbrev stOkPartial : Byte := 0x02
abbrev stBadOpcode : Byte := 0x10
abbrev stBadParam : Byte := 0x11
abbrev stBadLength : Byte := 0x12
abbrev stBadCheck : Byte := 0x13
abbrev stStaleAlive : Byte := 0x14
abbrev stFirewall : Byte := 0x20
abbrev stNotReady : Byte := 0x21
abbrev stRefusedInUse : Byte := 0x22
abbrev stNoResource : Byte := 0x23
abbrev stNoPath : Byte := 0x30
abbrev stPlanTimeout : Byte := 0x31
abbrev stCandidateLost : Byte := 0x32
abbrev stOwnerLost : Byte := 0x40
abbrev stSaturated : Byte := 0x41
abbrev stUnderflow : Byte := 0x42
abbrev stLateSample : Byte := 0x50
abbrev stFallbackHeld : Byte := 0x60
abbrev stDegraded : Byte := 0x61
abbrev stInternal : Byte := 0x7F

/-! Units by number. -/

def defDie : Die := {}
def defEngine : Engine := {}
def defCvu : Cvu := {}
def defFirewall : Firewall := {}
def defRegion : Region := {}

def die (s : State) (n : Nat) : Die := bankGet defDie s.dies n
def setDie (s : State) (n : Nat) (d : Die) : State := { s with dies := bankSet defDie s.dies n d }
def modDie (s : State) (n : Nat) (f : Die → Die) : State := setDie s n (f (die s n))
def mct (s : State) (n : Nat) : Mct := (die s n).mct
def modMct (s : State) (n : Nat) (f : Mct → Mct) : State := modDie s n (fun d => { d with mct := f d.mct })

def eng (s : State) (g : Nat) : Engine := bankGet defEngine s.engines g
def setEng (s : State) (g : Nat) (e : Engine) : State := { s with engines := bankSet defEngine s.engines g e }
def modEng (s : State) (g : Nat) (f : Engine → Engine) : State := setEng s g (f (eng s g))

def cvu (s : State) (k : Nat) : Cvu := bankGet defCvu s.cvus k
def setCvu (s : State) (k : Nat) (c : Cvu) : State := { s with cvus := bankSet defCvu s.cvus k c }
def modCvu (s : State) (k : Nat) (f : Cvu → Cvu) : State := setCvu s k (f (cvu s k))

def isl (s : State) : Isl → Island
  | .sia => s.sia
  | .sib => s.sib
def setIsl (s : State) (i : Isl) (x : Island) : State :=
  match i with
  | .sia => { s with sia := x }
  | .sib => { s with sib := x }
def modIsl (s : State) (i : Isl) (f : Island → Island) : State := setIsl s i (f (isl s i))
def bothIsl (s : State) (f : Island → Island) : State := modIsl (modIsl s .sia f) .sib f
def otherIsl : Isl → Isl
  | .sia => .sib
  | .sib => .sia

def edge (s : State) : Edge → RingEdge
  | .a => s.edgeA
  | .b => s.edgeB
def setEdge (s : State) (e : Edge) (x : RingEdge) : State :=
  match e with
  | .a => { s with edgeA := x }
  | .b => { s with edgeB := x }
def modEdge (s : State) (e : Edge) (f : RingEdge → RingEdge) : State := setEdge s e (f (edge s e))
def bothEdge (s : State) (f : RingEdge → RingEdge) : State := modEdge (modEdge s .a f) .b f
def otherEdge : Edge → Edge
  | .a => .b
  | .b => .a

def mgt (s : State) : Isl → Mgt
  | .sia => s.mgtA
  | .sib => s.mgtB
def modMgt (s : State) (i : Isl) (f : Mgt → Mgt) : State :=
  match i with
  | .sia => { s with mgtA := f s.mgtA }
  | .sib => { s with mgtB := f s.mgtB }

/-- The number of a firewall in the bank: 0-23 IOD core, 32-211 compute dies, 256 and on the islands. -/
def fwNum : FwTarget → Nat
  | .iod t => t
  | .die n t => 32 + 15 * n + t
  | .island .sia t => 256 + t
  | .island .sib t => 272 + t

def fwl (s : State) (t : FwTarget) : Firewall := bankGet defFirewall s.fws (fwNum t)
def modFwl (s : State) (t : FwTarget) (f : Firewall → Firewall) : State :=
  { s with fws := bankSet defFirewall s.fws (fwNum t) (f (fwl s t)) }

/-- The die of an engine (R19). -/
def dieOf (g : Nat) : Nat := g / 8

/-- All dies, engines, contexts in order. -/
def dieList : List DieId := List.finRange 12
def engList : List EngId := List.finRange 96
def ctxList : List CtxId := List.finRange 64

/-- Apply a change for every item of a list in order. -/
def forAll {α : Type} (s : State) (l : List α) (f : State → α → State) : State := l.foldl f s

def emit (s : State) (e : Emit) : State := { s with out := e :: s.out }

/-- A fresh index for a free value; the counter goes on. -/
def fresh (s : State) : Nat × State := (s.free, { s with free := s.free + 1 })

/-- Word `k` of a message whose value the spec leaves open. -/
def openWord (ep k : Nat) : Word :=
  ofBytes (Config.openByte ep (4 * k)) (Config.openByte ep (4 * k + 1)) (Config.openByte ep (4 * k + 2))
    (Config.openByte ep (4 * k + 3))

/-- An island in service (R459). -/
def inSvc (i : Island) : Bool := i.st == 2 || i.st == 3

/-- The unit's serial number as an island's per-unit data record gives it (16, Table 16-3). -/
def recordSerial (x : Island) : Nat := leNat (memRd x.flash 8 8)

/-- The island that serves class 0xA on a port (16 R571). -/
def servingIsl (s : State) : Port → Option Isl
  | .host => if inSvc s.sia then some .sia else if inSvc s.sib then some .sib else none
  | .mgt i => if inSvc (isl s i) then some i else none

/-- The serial number of the record of the island that serves a port, or the one the IOD core holds. -/
def knownSerial (s : State) (p : Port) : Nat := (servingIsl s p).elim s.iod.serial (fun i => recordSerial (isl s i))

/-- The gate of a leaf is closed. -/
def gateClosed (c : Clk) (g l : Nat) : Bool := (bankGet 0 c.gates g).testBit l

/-- The IOD core runs and its port is ready. -/
def iodReady (s : State) : Bool := s.iod.ready && !s.iod.inReset

/-! ALERT_N (03 R106) and the MSI vector (17, after R596). -/

def hasReply (h : Hpt) : Bool := !h.fifo.isEmpty

/-- HPT_ALERT (03, Table 3-7). -/
def hptAlert (h : Hpt) : Nat :=
  flagAt h.aThm 7 + flagAt h.aFback 6 + flagAt h.aFault 5 + flagAt h.aTtv 4 + flagAt h.aOvf 3 + flagAt (hasReply h) 1 +
    flagAt h.aReady 0

/-- ALERT_N is asserted (R106). -/
def alertOn (s : State) : Bool := s.iod.inReset || !s.hpt.ready || (hptAlert s.hpt &&& s.hpt.alertEn.toNat) != 0

/-- A change of the host port; where it asserts ALERT_N the MSI vector is raised. -/
def setHpt (s : State) (h : Hpt) : State :=
  let t := { s with hpt := h }
  if !alertOn s && alertOn t && s.iod.pceUp then emit t .msi else t

/-! The fault log. -/

/-- Unit numbers of Table 14-6. -/
abbrev unitIod : Nat := 0x0C
abbrev unitModule : Nat := 0x11
abbrev unitNone : Nat := 0xFF
def edgeUnit : Edge → Nat
  | .a => 0x0D
  | .b => 0x0E
def islUnit : Isl → Nat
  | .sia => 0x0F
  | .sib => 0x10
def unitNum : UnitId → Nat
  | .die n => n
  | .iod => unitIod
  | .edge e => edgeUnit e
  | .island i => islUnit i

/-- The Book column of Table 14-1. -/
def bookClass (c : Nat) : Bool := !(c == 0x10 || c == 0x14 || c == 0x15 || c == 0x19)

/-- The Kind column of Table 14-1: 0 I, 1 T, 2 P. -/
def kindClass (c : Nat) : Nat :=
  if c == 0x05 || c == 0x0F || c == 0x10 || c == 0x11 || c == 0x13 || c == 0x14 || c == 0x15 || c == 0x16 || c == 0x17 ||
    c == 0x19 then 0 else 1

/-- The words of an entry with its sequence (Table 14-6). -/
def entryWords (q : Nat × Entry) : List Word :=
  let e := q.2
  sealW [toW (at_ q.1 16 + at_ e.cls 8 + at_ e.reaction 4 + at_ e.kind 2 + flagAt e.book 1),
    toW (at_ e.unit 24 + at_ e.sub 16 + at_ e.status.toNat 8 + e.livery.toNat),
    lo32 e.time, hi32 e.time, toW e.stage, lo32 e.detail, hi32 e.detail]

/-- One island in service takes an entry into its log (R516, R517), its logbook's queue (R518) and its notices (R512). -/
def islTake (x : Island) (e : Entry) : Island :=
  if inSvc x then
    let q := (x.flogSeq.toNat, e)
    { x with
      flog := (q :: x.flog).take 16384, flogSeq := x.flogSeq + 1, flogCnt := satAdd 0xFFFFFFFF x.flogCnt 1,
      pendBook := if e.book then x.pendBook ++ [q] else x.pendBook,
      notices := if e.book then x.notices ++ [q] else x.notices }
  else x

/-- An entry is made (R516): both islands in service append it and HPT_ALERT.fault is set. While the IOD core is not in
service the stage is that of the island's own replica. -/
def addEntry (s : State) (e : Entry) : State :=
  let own := fun (x : Island) => if iodReady s then e else { e with stage := x.rep.stage % 2 ^ 32 }
  let s := bothIsl s (fun x => islTake x (own x))
  if s.iod.inReset then s else setHpt s { s.hpt with aFault := true }

/-- What an entry of a class says beside time and stage. -/
structure Fact where
  cls      : Nat
  reaction : Nat := 0
  unit     : Nat := unitNone
  sub      : Nat := 0xFF
  status   : Byte := 0
  livery   : Byte := 0xFF
  detail   : Option Nat := none
  kind     : Option Nat := none

/-- An entry is made; a detail that no rule states is a free value. -/
def logF (s : State) (f : Fact) : State :=
  let d := f.detail.getD (join64 (openWord s.free 0) (openWord s.free 1))
  let s := if f.detail.isNone then (fresh s).2 else s
  addEntry s {
    cls := f.cls, reaction := f.reaction, kind := f.kind.getD (kindClass f.cls), book := bookClass f.cls,
    unit := f.unit, sub := f.sub, status := f.status, livery := f.livery, time := s.vtime,
    stage := s.stg.stage % 2 ^ 32, detail := d }

/-! Latched pairs (00 R638). -/

def latched (s : State) (p : PairId) : Option Word :=
  (s.latches.find? (fun e => e.1 == p)).map (·.2)

def latchSet (s : State) (p : PairId) (w : Word) : State :=
  { s with latches := (p, w) :: s.latches.filter (fun e => !(e.1 == p)) }

def latchClear (s : State) (p : PairId) : State :=
  { s with latches := s.latches.filter (fun e => !(e.1 == p)) }

/-! Contexts and liveries (13 R466; 10, Table 10-12). -/

def ctxRec (s : State) (c : Nat) : CtxRec := bankGet {} s.qmg.ctxs c
def modCtx (s : State) (c : Nat) (f : CtxRec → CtxRec) : State :=
  { s with qmg := { s.qmg with ctxs := bankSet {} s.qmg.ctxs c (f (ctxRec s c)) } }

/-- The livery of a context: 0x01 for context 0. -/
def ctxLivery (s : State) (c : Nat) : Byte := if c = 0 then 0x01 else (ctxRec s c).livery

/-- The liveries that the device issues (13, Table 13-3). -/
def issuedLiveries (s : State) : List Byte :=
  [0x01, 0x02, 0x03, 0x04, 0x05, 0x06, 0x07, 0x0A, 0x0B] ++ (s.qmg.ctxs.filter (fun e => e.2.exists_)).map (fun e => e.2.livery)

/-- One of them where no rule says which. -/
def someLivery (s : State) (ep : Nat) : Byte :=
  (issuedLiveries s).getD (Config.choice ep % (issuedLiveries s).length) 0x01

/-- The active timetable declares the context, or it is context 0. -/
def ctxExists (s : State) (c : Nat) : Bool := c == 0 || (ctxRec s c).exists_

/-- The declaration of a context in the active timetable. -/
def ctxDecl (t : Timetable) (c : Nat) : Option CtxDecl := t.body.contexts.find? (fun d => d.id.val == c)

/-! Timing in force (02, Table 2-6; R48-R50), in ns. -/

def timP (w : Word) : Nat := fld w 7 0
def timL (w : Word) : Nat := fld w 15 8
def timC (w : Word) : Nat := fld w 21 16
def periodNs (s : State) : Nat := timP s.stg.timing * 500000
def layoverNs (s : State) : Nat := timL s.stg.timing * 500000
def cutoffNs (s : State) : Nat := timC s.stg.timing * 10000

/-- Events of the last `w` stages kept, one added: histories of R503, R504, Table 14-2. -/
def histAdd (w now : Nat) (l : List Nat) : List Nat := now :: l.filter (fun k => now < k + w)

def histCount (w now : Nat) (l : List Nat) : Nat := (l.filter (fun k => now < k + w)).length

end Sys2Proof.Machine
end

