-- ==== Sys2Proof/Machine/Operands.lean ====
section
/-! DEFINITION. Operand forms of command packets (03, Tables 3-9, 3-11, 3-12): the fields of a packet, its parameters, the
sizes an opcode's parameters and replies have. -/

namespace Sys2Proof.Machine

def pktWord (p : Pkt) (i : Nat) : Word := nth p.words i
def pktLen (p : Pkt) : Nat := fld (pktWord p 0) 31 16
def pktOp (p : Pkt) : Nat := fld (pktWord p 0) 15 8
def pktCls (p : Pkt) : Nat := fld (pktWord p 0) 3 0
def pktPrio (p : Pkt) : Nat := fld (pktWord p 1) 25 24
def pktCtx (p : Pkt) : Nat := fld (pktWord p 1) 21 16
def pktAlive (p : Pkt) : Nat := fld (pktWord p 2) 7 0

/-- Parameter word `i`; its index in the packet is `4 + i`. -/
def par (p : Pkt) (i : Nat) : Word := nth p.words (4 + i)
def parN (p : Pkt) (i : Nat) : Nat := (par p i).toNat
/-- A 64-bit parameter whose low word is parameter `i`. -/
def par64 (p : Pkt) (i : Nat) : Nat := join64 (par p i) (par p (i + 1))
/-- Parameters from `i` on. -/
def parsFrom (p : Pkt) (i : Nat) : List Word := (p.words.drop (4 + i)).dropLast

/-- The header words with a reserved bit set (step 7). -/
def badHeader (p : Pkt) : Option Nat :=
  if fld (pktWord p 0) 7 4 != 0 then some 0
  else if fld (pktWord p 1) 31 26 != 0 || fld (pktWord p 1) 23 22 != 0 then some 1
  else if fld (pktWord p 2) 31 8 != 0 then some 2
  else none

/-- Device-wide classes (R135). -/
def deviceWide (c : Nat) : Bool := c == 0 || c == 1 || c == 9 || c == 0xA || c == 0xB || c == 0xC

/-- Classes and opcodes of Table 3-15. -/
def definedOp (c o : Nat) : Bool :=
  match c with
  | 0 => o ≤ 3
  | 1 => o ≤ 8
  | 2 => o ≤ 5
  | 3 => o ≤ 3
  | 4 => o ≤ 4
  | 5 => o ≤ 4
  | 6 => o ≤ 4
  | 7 => o ≤ 4
  | 8 => o ≤ 3
  | 9 => o ≤ 4
  | 0xA => o ≤ 4
  | 0xB => o ≤ 2
  | 0xC => o ≤ 5
  | _ => false

/-- Opcodes a management port accepts (R491). -/
def mgtOp (c o : Nat) : Bool :=
  (c == 0 && o ≤ 2) || (c == 9 && (o == 0 || o == 3 || o == 4)) || c == 0xA || c == 0xB || c == 0xC

/-- Opcodes whose reply is deferred (Table 3-15, D). -/
def deferredOp (c o : Nat) : Bool :=
  (c == 2 && (o == 0 || o == 3 || o == 5)) || (c == 3 && o == 2) || (c == 4 && o == 3) || (c == 5 && o == 1) ||
  (c == 9 && (o == 3 || o == 4)) || (c == 0xA && o == 3) || (c == 0xC && o == 4)

/-- Opcodes whose reply is immediate (Table 3-15, I). -/
def immediateOp (c o : Nat) : Bool := definedOp c o && !deferredOp c o

/-- The words of the largest reply an opcode can produce (R124), from the data each subject chapter gives it. -/
def maxReply (c o : Nat) : Nat :=
  match c, o with
  | 0, 0 => 13 | 0, 1 => 16383
  | 1, 0 => 14 | 1, 7 => 11
  | 2, 0 => 9 | 2, 1 => 11 | 2, 2 => 16325 | 2, 5 => 9
  | 3, 3 => 16381
  | 4, 0 => 16384 | 4, 3 => 7
  | 5, 1 => 274 | 5, 2 => 10 | 5, 3 => 2085 | 5, 4 => 14
  | 6, 2 => 16381 | 6, 3 => 53
  | 7, 0 => 261 | 7, 1 => 16383 | 7, 2 => 16383 | 7, 3 => 16381 | 7, 4 => 22
  | 8, 2 => 8 | 8, 3 => 7
  | 9, 0 => 20
  | 0xA, 0 => 125
  | 0xB, 0 => 27 | 0xB, 1 => 8 | 0xB, 2 => 20
  | 0xC, 0 => 16373 | 0xC, 1 => 143 | 0xC, 2 => 101 | 0xC, 3 => 17 | 0xC, 5 => 8189
  | _, _ => 6

/-- The detail word of Table 3-12. -/
def detailWord (step expect idx : Nat) : Word := toW (at_ step 24 + at_ expect 16 + idx)

/-- The detail word of a status raised in execution (R639). -/
def execDetail : Word := detailWord 0 0 0xFFFF

end Sys2Proof.Machine
end

