-- ==== Sys2Proof/Machine/Packets.lean ====
section
/-! DEFINITION. Replies, the checks of Table 3-10, the choice of the next packet, and the host port's transactions (03;
13 R491, R492; 17 R608). -/

namespace Sys2Proof.Machine

/-- A reply (Table 3-11). -/
def replyWords (p : Pkt) (ctr : Nat) (st : Byte) (data : List Word) : List Word :=
  sealW ([toW (at_ data.length 16 + at_ (pktOp p) 8 + 0xA0 + pktCls p), pktWord p 1,
    toW (at_ ctr 16 + at_ st.toNat 8 + pktAlive p), pktWord p 3] ++ data)

/-- The broadcast address (R608 before the first request). -/
def broadcast : BitVec 48 := 0xFFFFFFFFFFFF

/-- The EtherType of a management port's frames (17 R608). -/
abbrev mgtType : BitVec 16 := 0x88B6

/-- A frame to the latest requester of a management port with the port's own reply counter (R491, R608). -/
def mgtSend (s : State) (i : Isl) (mk : Nat → List Word) : State :=
  let m := mgt s i
  emit (modMgt s i (fun m => { m with replies := m.replies + 1 }))
    (.mgt i (m.requester.getD broadcast) mgtType (mk m.replies.toNat))

/-- A reply enters the reply FIFO, or leaves on the management port its packet came in on. -/
def reply (s : State) (p : Pkt) (st : Byte) (data : List Word) : State :=
  match p.port with
  | .host => setHpt s {
      s.hpt with
      fifo := s.hpt.fifo ++ [replyWords p s.hpt.replies.toNat st data]
      replies := s.hpt.replies + 1 }
  | .mgt i => mgtSend s i (fun c => replyWords p c st data)

/-- A refusal with its detail word (R119). -/
def refuse (s : State) (p : Pkt) (st : Byte) (step expect idx : Nat) : State :=
  reply s p st [detailWord step expect idx]

/-- Words taken in the reply FIFO. -/
def fifoWords (h : Hpt) : Nat := (h.fifo.map List.length).sum

/-- Reply space reserved for host packets that have not drawn their reply yet (R124). -/
def reserved (s : State) : Nat :=
  (s.hpt.wait.map (fun p => maxReply (pktCls p) (pktOp p))).sum +
  ((s.dis.defers.filter (fun d => d.pkt.port == .host)).map (fun d => maxReply (pktCls d.pkt) (pktOp d.pkt))).sum

/-! Packets that wait for execution. -/

/-- The packets of a port that wait for execution. -/
def waiting (s : State) : Port → List Pkt
  | .host => s.hpt.wait
  | .mgt i => (mgt s i).wait

def setWaiting (s : State) (p : Port) (l : List Pkt) : State :=
  match p with
  | .host => { s with hpt := { s.hpt with wait := l } }
  | .mgt i => modMgt s i (fun m => { m with wait := l })

def isImmediate (k : Pkt) : Bool := immediateOp (pktCls k) (pktOp k)

/-- The reply of `k` comes after that of the earlier packet `q` (R126). -/
def follows (q k : Pkt) : Bool :=
  pktCtx q == pktCtx k && pktPrio q == pktPrio k && isImmediate q && isImmediate k

/-- A packet of a waiting list has an earlier one whose reply comes first. -/
def heldBack (l : List Pkt) (k : Pkt) : Bool := (l.takeWhile (fun q => q != k)).any (fun q => follows q k)

/-- A packet refused at a step of Table 3-10 draws its reply when those that R126 puts before it have gone. -/
def flushOne (s : State) (k : Pkt) : State :=
  match k.fate with
  | .refused st step expect idx =>
    if heldBack (waiting s k.port) k then s
    else refuse (setWaiting s k.port ((waiting s k.port).erase k)) k st step expect idx
  | _ => s

def flush (s : State) (p : Port) : State := forAll s (waiting s p) flushOne

/-- A packet that has just arrived is refused. -/
def turnAway (s : State) (k : Pkt) (st : Byte) (step expect idx : Nat) : State :=
  let k := { k with fate := .refused st step expect idx }
  flush (setWaiting s k.port (waiting s k.port ++ [k])) k.port

def isAliveSync (p : Pkt) : Bool := pktCls p == 0 && pktOp p == 2

/-- A port keeps no packet back behind a SYS_ALIVE_SYNC that has not been carried out (R133). -/
def aliveSettled (s : State) (p : Port) : Bool := !(waiting s p).any (fun k => isAliveSync k && (k.fate == .arrived || k.fate == .accepted))

/-- The alive counter against which a packet is checked: one per context on the host port (R112), one on a management port
(R491). -/
def aliveOf (s : State) (k : Pkt) : BitVec 8 :=
  match k.port with
  | .host => bankGet 0 s.hpt.alive (pktCtx k)
  | .mgt i => (mgt s i).alive

def setAlive (s : State) (p : Port) (c : Nat) (v : BitVec 8) : State :=
  match p with
  | .host => { s with hpt := { s.hpt with alive := bankSet 0 s.hpt.alive c v } }
  | .mgt i => modMgt s i (fun m => { m with alive := v })

/-- HPT_ERRCNT counts what the host port refuses (Table 3-8). -/
def countErr (s : State) (p : Port) (f : Hpt → Hpt) : State := if p = .host then { s with hpt := f s.hpt } else s

/-- Steps 1-4 of Table 3-10 (R112-R115). -/
def arrive (s : State) (port : Port) (bs : List Byte) : State :=
  let k : Pkt := { port := port, words := bytesWords bs }
  let take := fun (s : State) => setWaiting s port (waiting s port ++ [k])
  if bs.length % 4 ≠ 0 || k.words.length < 5 || 16384 < k.words.length then turnAway s k stBadLength 1 0 0xFFFF
  else if !sealOk k.words then
    turnAway (countErr s port (fun h => { h with badchk := satAdd 65535 h.badchk 1 })) k stBadCheck 2 0 0xFFFF
  else if pktLen k + 5 ≠ k.words.length then turnAway s k stBadLength 3 0 0
  else if isAliveSync k then take s
  else if (aliveOf s k).toNat = pktAlive k then take (setAlive s port (pktCtx k) (aliveOf s k + 1))
  else turnAway (countErr s port (fun h => { h with stale := satAdd 65535 h.stale 1 })) k stStaleAlive 4 (aliveOf s k).toNat 2

/-- Packets in the inbound buffer are checked in their order of arrival while there is reply space (R123, R124), and not
past a SYS_ALIVE_SYNC that has not been carried out (R133). -/
def intakeList (s : State) : List (List Byte) → State
  | [] => { s with hpt := { s.hpt with inbound := [] } }
  | b :: r =>
    let w := nth (bytesWords (b.take 4)) 0
    if fifoWords s.hpt + reserved s + maxReply (fld w 3 0) (fld w 15 8) ≤ 65536 && aliveSettled s .host then
      intakeList (arrive s .host b) r
    else { s with hpt := { s.hpt with inbound := b :: r } }

def intake (s : State) : State := if s.hpt.inbound.isEmpty then s else intakeList s s.hpt.inbound

/-- The packets a management port has taken, checked in their order of arrival, and not past a SYS_ALIVE_SYNC that has not
been carried out (R133). -/
def mgtIntakeList (s : State) (i : Isl) : List (List Byte) → State
  | [] => modMgt s i (fun m => { m with inbound := [] })
  | b :: r =>
    if aliveSettled s (.mgt i) then mgtIntakeList (arrive s (.mgt i) b) i r
    else modMgt s i (fun m => { m with inbound := b :: r })

def mgtIntake (s : State) (i : Isl) : State := if (mgt s i).inbound.isEmpty then s else mgtIntakeList s i (mgt s i).inbound

/-- The oldest packet of the highest priority among those accepted (R123). -/
def firstBest : List Pkt → Option Pkt
  | [] => none
  | p :: r =>
    match firstBest r with
    | none => if p.fate = .accepted then some p else none
    | some q => if p.fate = .accepted && pktPrio q ≤ pktPrio p then some p else some q

/-! The rows of the opcode lists. -/

/-- What steps 10-12 and the execution of a packet come to. -/
inductive Verdict where
  | refuse (st : Byte) (step idx : Nat)
  | refuseIn (st : Byte) (step idx : Nat) (s : State)   -- with what a subject chapter has the refusal record (R117)
  | answer (st : Byte) (data : List Word) (s : State)
  | later (k : DefKind) (s : State)

/-- The form of an opcode's packets: class, opcode, which packets of that opcode are the row's own, and step 6 with its
index (R639). -/
structure OpRow where
  cls    : Nat
  op     : Nat
  sel    : Pkt → Bool := fun _ => true
  lenOk  : Pkt → Bool
  lenIdx : Nat := 0

/-- A form with a fixed number of parameter words. -/
def fixedRow (cls op n : Nat) : OpRow := { cls := cls, op := op, lenOk := fun p => pktLen p == n }

/-- The context check of step 8 for every opcode but WB_SUBMIT. -/
def ctxKnown (s : State) (p : Pkt) : Bool := ctxExists s (pktCtx p)

/-- An opcode: its form, step 8, and what steps 10-12 and its execution come to. -/
structure OpDef where
  form  : OpRow
  ctxOk : State → Pkt → Bool
  run   : State → Pkt → Verdict

def opDef (o : OpRow) (f : State → Pkt → Verdict) : OpDef := { form := o, ctxOk := ctxKnown, run := f }

/-- A packet is of an opcode's row. -/
def ofRow (o : OpDef) (k : Pkt) : Bool := pktCls k == o.form.cls && pktOp k == o.form.op && o.form.sel k

/-- Steps 6-9 of Table 3-10. -/
def gate (s : State) (o : OpDef) (p : Pkt) : Option (Byte × Nat × Nat) :=
  if !o.form.lenOk p then some (stBadLength, 6, o.form.lenIdx)
  else match badHeader p with
    | some i => some (stBadParam, 7, i)
    | none =>
      if !o.ctxOk s p then some (stBadParam, 8, 1)
      else if deviceWide (pktCls p) && pktCtx p ≠ 0 then some (stFirewall, 9, 1)
      else match p.port with
        | .host => none
        | .mgt _ => if mgtOp (pktCls p) (pktOp p) && pktCtx p == 0 then none else some (stFirewall, 9, 1)

/-- An accepted packet leaves its waiting list. -/
def leave (s : State) (k : Pkt) : State := setWaiting s k.port ((waiting s k.port).erase { k with fate := .accepted })

/-- An accepted packet draws its reply, or its reply is deferred. Its place in the waiting list, with the reply space reserved for it,
is kept till then (R124, R126). A status that another packet's execution brings about after its acceptance is one raised in
execution (R116, R639). -/
def applyVerdict (s : State) (p : Pkt) : Verdict → State
  | .refuse st _ _ => reply (leave s p) p st [execDetail]
  | .refuseIn st _ _ t => reply (leave t p) p st [execDetail]
  | .answer st data t => reply (leave t p) p st data
  | .later k t =>
    let t := leave t p
    { t with dis := { t.dis with defers := t.dis.defers ++ [{ pkt := p, what := k }] } }

/-- After a packet has left, the replies that waited for its own go out and packets held back are checked. -/
def afterPkt (s : State) (p : Port) : State :=
  let s := flush s p
  match p with
  | .host => intake s
  | .mgt i => mgtIntake s i

/-- A waiting packet comes to a new state of its checks. -/
def settle (s : State) (k : Pkt) (f : Fate) : State :=
  setWaiting s k.port ((waiting s k.port).map (fun q => if q = k then { k with fate := f } else q))

/-- A SEC_TOKEN that is refused before its row is run makes an entry too (14 R522). -/
def noteToken (s : State) (k : Pkt) (st : Byte) : State :=
  if pktCls k = 0xA && pktOp k = 4 then logF s { cls := 0x17, unit := unitModule, status := st } else s

/-- Steps 5-12 for one packet of a waiting list, by the row of its opcode. -/
def checkPkt (row : Pkt → Option OpDef) (s : State) (k : Pkt) : State :=
  if k.fate ≠ .arrived then s
  else match row k with
    | none => settle s k (.refused stBadOpcode 5 0 0)
    | some o => match gate s o k with
      | some r => settle (noteToken s k r.1) k (.refused r.1 r.2.1 0 r.2.2)
      | none => match o.run s k with
        | .refuse st step idx => settle s k (.refused st step 0 idx)
        | .refuseIn st step idx t => settle t k (.refused st step 0 idx)
        | _ => settle s k .accepted

/-- Steps 5-12 of Table 3-10 for the packets of a port, in their order of arrival (R116, R123). -/
def checkAll (row : Pkt → Option OpDef) (s : State) (p : Port) : State :=
  afterPkt (forAll s (waiting s p) (checkPkt row)) p

/-- An accepted packet is carried out by the row of its opcode. -/
def carryOut (row : Pkt → Option OpDef) (p : Port) (s : State) (k : Pkt) : State :=
  let k := { k with fate := .arrived }
  match row k with
  | none => s
  | some o => afterPkt (applyVerdict s k (o.run s k)) p

/-- The dispatcher's turn for a port, for at most `n` packets: those that have arrived are checked in their order, and those accepted
are carried out in the order of R123. No accepted packet is left waiting, so that the instant of its acceptance is that of the
turn (R116). -/
def turn (row : Pkt → Option OpDef) (p : Port) : Nat → State → State
  | 0, s => s
  | n + 1, s =>
    let s := checkAll row s p
    match firstBest (waiting s p) with
    | none => s
    | some k => turn row p n (carryOut row p s k)

/-- The packets that have come in at a port. -/
def arrivals (s : State) (p : Port) : Nat :=
  (waiting s p).length + (match p with | .host => s.hpt.inbound | .mgt i => (mgt s i).inbound).length

/-- A packet that a test selects has arrived at a port. -/
def present (s : State) (p : Port) (sel : Pkt → Bool) : Bool := (waiting s p).any (fun k => k.fate == .arrived && sel k)

/-- The row `o` for its own packets, and the list for every other. -/
def rowsWith (row : Pkt → Option OpDef) (o : OpDef) (k : Pkt) : Option OpDef := if ofRow o k then some o else row k

/-- The dispatcher's turn for a port at which a packet of one row has arrived. -/
def runRow (row : Pkt → Option OpDef) (o : OpDef) (p : Port) (s : State) : State :=
  if present s p (ofRow o) then turn (rowsWith row o) p (arrivals s p) s else s

/-- Step 11 of the opcodes of Table 13-27 on a management port while the IOD core is not ready (R492). -/
def needsIod (s : State) (p : Pkt) : Bool :=
  match p.port with
  | .host => false
  | .mgt _ => !iodReady s

/-- The outstanding packets of a deferred work draw their replies. -/
def completeDefers (s : State) (k : DefKind) (st : Byte) (data : List Word) : State :=
  let mine := s.dis.defers.filter (fun d => d.what == k)
  let s := { s with dis := { s.dis with defers := s.dis.defers.filter (fun d => !(d.what == k)) } }
  let s := forAll s mine (fun s d => reply s d.pkt st data)
  if mine.any (fun d => d.pkt.port == .host) then intake s else s

/-! The host port's transactions. -/

/-- Transaction codes (Table 3-2). -/
abbrev codePut : Byte := 0x1E
abbrev codeGet : Byte := 0x2D
abbrev codeReget : Byte := 0x3C
abbrev codeStat : Byte := 0x4B
abbrev codeClr : Byte := 0x5A

/-- The range of transfer lengths of a transaction code, in words (Table 3-2). -/
def txRange (code : Byte) : Option (Nat × Nat) :=
  if code = codePut then some (5, 16384)
  else if code = codeGet || code = codeReget then some (1, 16384)
  else if code = codeStat then some (4, 4)
  else if code = codeClr then some (1, 1)
  else none

/-- The transaction that the four bytes of a command phase call for, in the order of R93: code, its complement, transfer
length low byte and high byte; none where R94 has it ignored. -/
def txOf (code second lenLo lenHi : Byte) : Option (Byte × Nat) :=
  let len := leNat [lenLo, lenHi]
  match txRange code with
  | some (lo, hi) => if second = ~~~code && lo ≤ len && len ≤ hi then some (code, len) else none
  | none => none

/-- The bytes of words as they cross the port: byte 0 of each word first (R97). -/
def sendWords (s : State) (ws : List Word) : State := emit s (.dq (wordsBytes ws))

/-- HPT_STAT (Table 3-4). -/
def hptStat (h : Hpt) : Word :=
  toW (at_ h.epoch.toNat 24 + flagAt h.short 4 + flagAt h.ovf 3 + flagAt h.badtx 2 + flagAt h.ready 0)

/-- HPT_INFREE (Table 3-5). -/
def inFree (h : Hpt) : Nat := if h.ready then 65536 - (h.inbound.map (fun b => cdiv b.length 4)).sum else 0

/-- HPT_RPEND (Table 3-6). -/
def hptRpend (h : Hpt) : Word := toW (at_ h.fifo.length 18 + fifoWords h)

def badTx (s : State) : State := { s with hpt := { s.hpt with badtx := true } }

/-- HT_PUT: one packet into the inbound buffer (R99-R101). -/
def execHtPut (len : Nat) (bytes : List Byte) (s : State) : Out :=
  .next (
    let bs := bytes.take (4 * len)
    if len < 5 || 16384 < len then badTx s
    else if !s.hpt.ready || inFree s.hpt < len then setHpt s { s.hpt with ovf := true, aOvf := true }
    else if bs.length < 16 then badTx s
    else intake { s with hpt := { s.hpt with inbound := s.hpt.inbound ++ [bs] } })

/-- The whole replies at the head of a list that fit in `n` words (R102). -/
def fitting : Nat → List (List Word) → List (List Word)
  | _, [] => []
  | n, r :: rs => if r.length ≤ n then r :: fitting (n - r.length) rs else []

/-- A read's data: whole replies and zero words up to the transfer length (R102, R104). -/
def padded (len : Nat) (rs : List (List Word)) : List Word := rs.flatten ++ List.replicate (len - rs.flatten.length) 0

def headLonger (len : Nat) : List (List Word) → Bool
  | [] => false
  | r :: _ => len < r.length

/-- HT_GET of `len` words of which `clocked` are clocked out before HPT_CS_N rises (R102, R103, R104). -/
def execHtGet (len : Nat) (clocked : Nat) (s : State) : Out :=
  .next (
    if len < 1 || 16384 < len then badTx s
    else
      let fit := fitting len s.hpt.fifo
      let gone := fitting (min len clocked) fit
      let h := { s.hpt with
        short := s.hpt.short || headLonger len s.hpt.fifo
        fifo := s.hpt.fifo.drop gone.length
        lastRead := if gone.isEmpty then s.hpt.lastRead else gone }
      intake (sendWords { s with hpt := h } ((padded len fit).take clocked)))

/-- HT_REGET: the last-read buffer once more (R104). -/
def execHtReget (len : Nat) (clocked : Nat) (s : State) : Out :=
  .next (
    if len < 1 || 16384 < len then badTx s
    else
      let h := { s.hpt with short := s.hpt.short || headLonger len s.hpt.lastRead }
      sendWords { s with hpt := h } ((padded len (fitting len s.hpt.lastRead)).take clocked))

/-- HT_STAT: HPT_STAT, HPT_INFREE, HPT_RPEND and HPT_ALERT (Table 3-2). -/
def execHtStat (s : State) : Out :=
  .next (sendWords s [hptStat s.hpt, toW (inFree s.hpt), hptRpend s.hpt, toW (hptAlert s.hpt)])

/-- W1C bits of HPT_ALERT (Table 3-7). -/
def clrAlert (h : Hpt) (w : Word) : Hpt :=
  { h with
    aThm := h.aThm && !tbit w 7, aFback := h.aFback && !tbit w 6, aFault := h.aFault && !tbit w 5
    aTtv := h.aTtv && !tbit w 4, aOvf := h.aOvf && !tbit w 3, aReady := h.aReady && !tbit w 0 }

/-- HT_CLR: one word to HPT_ALERT with W1C effect; cut short, it writes nothing (R101, R108). -/
def execHtClr (bytes : List Byte) (s : State) : Out :=
  .next (if bytes.length < 4 then badTx s
    else { s with hpt := clrAlert s.hpt (nth (bytesWords bytes) 0) })

/-- HT_INVALID: a command phase that calls for no transaction of Table 3-2 is ignored and sets HPT_STAT.badtx (R94). -/
def execHtInvalid (code second lenLo : Byte) (s : State) (lenHi : Byte := 0) : Out :=
  .next (if (txOf code second lenLo lenHi).isSome then s else badTx s)

/-! System opcodes (Table 3-14). -/

def dieInSvc (s : State) (n : Nat) : Bool := (die s n).inService
def edgeInSvc (s : State) (e : Edge) : Bool := !(edge s e).inReset

/-- A number whose bit n is 1 for the dies that meet a test. -/
def dieMask (f : DieId → Bool) : Nat := (dieList.map (fun n => flagAt (f n) n.val)).sum

/-- SYS_IDENTITY word 7: units in service (Table 3-16). -/
def unitsWord (s : State) : Word :=
  toW (flagAt (edgeInSvc s .b) 15 + flagAt (edgeInSvc s .a) 14 + flagAt (inSvc s.sib) 13 + flagAt (inSvc s.sia) 12 +
    dieMask (fun n => dieInSvc s n))

/-- SYS_IDENTITY word 1: format version, stepping digit and letter. -/
def idWord1 : Word := 0x00020142

/-- SYS_IDENTITY (R136); on a management port the island serves it, with the serial number of its own record (R491). -/
def identity (s : State) (p : Port) : List Word :=
  let serial := match p with
    | .host => s.iod.serial
    | .mgt i => recordSerial (isl s i)
  [0x00021296, idWord1] ++ two serial ++ [s.iod.verIod, s.iod.verSia, s.iod.verSib, unitsWord s]

def rowSysIdentity : OpDef :=
  opDef (fixedRow 0 0 0) (fun s k => .answer stOk (identity s k.port) s)

/-- SYS_ECHO (Table 3-14); R492 bounds the reply on a management port. -/
def rowSysEcho : OpDef :=
  opDef { cls := 0, op := 1, lenIdx := 4, lenOk := fun k => pktLen k == parN k 0 + 1 } (fun s k =>
    if k.port ≠ .host && 370 < parN k 0 then .refuse stBadParam 10 4
    else if parN k 0 = 0 then .answer stOkEmpty [] s
    else .answer stOk (parsFrom k 1) s)

/-- SYS_ALIVE_SYNC: sets the alive counter of the context in its parameter (R115, R133). A management port keeps one counter
(R491); there a parameter that names another context than 0 is refused as a bad value (DESIGN CHOICE, log entry 143). -/
def rowSysAliveSync : OpDef :=
  opDef (fixedRow 0 2 1) (fun s k =>
    let c := fld (par k 0) 13 8
    if fld (par k 0) 31 14 ≠ 0 || (k.port ≠ .host && c ≠ 0) then .refuse stBadParam 10 4
    else
      let old := match k.port with
        | .host => bankGet 0 s.hpt.alive c
        | .mgt i => (mgt s i).alive
      .answer stOk [toW old.toNat] (setAlive s k.port c (BitVec.ofNat 8 (fld (par k 0) 7 0))))

/-- SYS_ALERT_EN: loads HPT_ALERTEN (Table 3-14); bit 2 is reserved in Table 3-7 and reads 0 (R7). -/
def rowSysAlertEn : OpDef :=
  opDef (fixedRow 0 3 1) (fun s k =>
    if fld (par k 0) 31 8 ≠ 0 then .refuse stBadParam 10 4
    else .answer stOk [] (setHpt s { s.hpt with alertEn := BitVec.ofNat 8 (parN k 0) &&& 0xFB }))

end Sys2Proof.Machine
end

