-- ==== Sys2Proof/Machine/Memory.lean ====
section
/-! DEFINITION. The memory controllers of the compute dies (12): address mapping, the write queue and the two ordering
modes, stack errors, refresh, commit of the shadowed fields. -/

namespace Sys2Proof.Machine

/-! Mapping (R426). -/

/-- The grain exponent g (R426). -/
def grainBits (m : Word) : Nat := fld m 3 0 + 8
def mapOrder (m : Word) : Nat := fld m 9 8

/-- Pseudo-channel, bank, row, column and byte of a window offset (R426). -/
def mapOffset (m : Word) (o : Nat) : Nat × Nat × Nat × Nat × Nat :=
  let g := grainBits m
  let pc := (o >>> g) % 32
  let a := ((o >>> (g + 5)) <<< g) ||| (o % 2 ^ g)
  let row := bits a 28 16
  let byte := bits a 4 0
  match mapOrder m with
  | 0 => (pc, bits a 15 10, row, bits a 9 5, byte)
  | 1 => (pc, bits a 10 5, row, bits a 15 11, byte)
  | 2 => (pc, bits a 15 10 ^^^ (row % 64), row, bits a 9 5, byte)
  | _ => (pc, bits a 15 14 * 16 + bits a 6 5 * 4 + bits a 13 12, row, bits a 11 7, byte)

/-- The bank an offset lies in: pseudo-channel and bank number. -/
def bankOf (m : Word) (o : Nat) : Nat × Nat := ((mapOffset m o).1, (mapOffset m o).2.1)

/-! Bursts of 32 bytes (R425). -/

def burstsOf (off len : Nat) : List Nat :=
  if len = 0 then [] else (List.range ((off + len - 1) / 32 - off / 32 + 1)).map (fun i => off / 32 + i)

/-- Two ranges touch a common burst (R433: 32-byte granularity). -/
def overlap (o1 l1 o2 l2 : Nat) : Bool :=
  l1 ≠ 0 && l2 ≠ 0 && o1 / 32 ≤ (o2 + l2 - 1) / 32 && o2 / 32 ≤ (o1 + l1 - 1) / 32

def wrOverlaps (off len : Nat) (w : PendWrite) : Bool := overlap off len w.off w.data.length

def applyWr (m : Mem) (w : PendWrite) : Mem := memWr m w.off w.data

def sameSource (w : PendWrite) (p : MctPort) (liv : Byte) : Bool := w.port == p && w.livery == liv

/-- The bytes of a write of which the new value stands, where the spec leaves it open byte by byte (R434). -/
def mixWr (ep : Nat) (m : Mem) (w : PendWrite) : Mem :=
  (w.data.zipIdx).foldl (fun m e => if Config.seesNew ep w.seq (w.off + e.2) then memWr m (w.off + e.2) [e.1] else m) m

/-- The stack as a source's read sees it: with every write accepted before (R433), or, in compatibility mode, with its own
writes and some bytes of the others' (R434). -/
def hbmView (s : State) (n : Nat) (p : MctPort) (liv : Byte) : Mem :=
  let d := die s n
  if d.mct.compat then
    let own := (d.mct.writes.filter (fun w => sameSource w p liv)).foldl applyWr d.hbm
    (d.mct.writes.filter (fun w => !sameSource w p liv)).foldl (mixWr s.free) own
  else d.mct.writes.foldl applyWr d.hbm

/-! Stack errors (R444-R446, R646). -/

/-- What the check code finds in a burst with errors in these symbols (R444). -/
def finding (syms : List Nat) : EccEvent :=
  match syms.length with
  | 0 => .clean
  | 1 => .ce
  | _ => .ue

def flawsOf (m : Mct) (b : Nat) : List Nat := bankGet [] m.flaws b

/-- A burst holds an uncorrectable error. -/
def isBad (m : Mct) (b : Nat) : Bool := finding (flawsOf m b) == .ue

/-- Symbols of a burst go bad. -/
def addFlaws (m : Mct) (b : Nat) (syms : List Nat) : Mct :=
  { m with flaws := bankMod [] m.flaws b (fun l => syms.foldl (fun l x => addNew x l) l) }

/-- A burst lies in a range. -/
def burstIn (off len b : Nat) : Bool := off < 32 * b + 32 && 32 * b < off + len

/-- The bursts of a range with a finding. -/
def foundIn (m : Mct) (e : EccEvent) (off len : Nat) : List Nat :=
  (m.flaws.filter (fun x => finding x.2 == e && burstIn off len x.1)).map (·.1)

/-- The first burst of a range that holds an uncorrectable error. -/
def badIn (m : Mct) (off len : Nat) : Option Nat := (foundIn m .ue off len).head?

/-- A source's read of a burst waits for an undrained write (R433, R434): it meets the burst as that write stores it. -/
def burstWaits (m : Mct) (p : MctPort) (liv : Byte) (b : Nat) : Bool :=
  m.writes.any (fun w => wrOverlaps (32 * b) 32 w && (!m.compat || sameSource w p liv))

/-- The bursts with a finding that a source's read of a range meets. -/
def foundFor (m : Mct) (p : MctPort) (liv : Byte) (e : EccEvent) (off len : Nat) : List Nat :=
  (foundIn m e off len).filter (fun b => !burstWaits m p liv b)

/-- An uncorrectable error is met (R446, R448): counted, the error registers loaded, an entry of class 0x06 made; R503's
history is kept for errors that patrol scrub has not found. -/
def ueEvent (s : State) (n b : Nat) (liv : Byte) (scrub : Bool) : State :=
  let off := 32 * b
  let s := modMct s n (fun m => { m with
    ueCnt := satAdd 65535 m.ueCnt 1, ue := true
    errLo := lo32 off
    errHi := toW (2 ^ 31 + flagAt scrub 30 + at_ liv.toNat 16 + off / 2 ^ 32)
    ueAt := if scrub then m.ueAt else histAdd 1000 s.stg.stage m.ueAt
    ueLimit := m.ueLimit || (!scrub && m.badRead.contains b)
    badRead := if scrub then m.badRead else addNew b m.badRead
    scrubbed := if scrub then addNew b m.scrubbed else m.scrubbed })
  logF s { cls := 0x06, unit := n, sub := 0x13, status := if scrub then 0 else stBadCheck, livery := liv, detail := off }

/-- 24 h of vehicle time. -/
abbrev dayNs : Nat := 86400000000000

/-- A correctable error of a burst is met (R445): counted, and written back unless a write to the burst is queued. -/
def ceEvent (s : State) (n b : Nat) : State :=
  modMct s n (fun m => { m with
    ceCnt := satAdd 65535 m.ceCnt 1, ce := true, ce24 := histAdd dayNs s.vtime m.ce24
    flaws := if m.writes.any (wrOverlaps (32 * b) 32) then m.flaws else bankSet [] m.flaws b [] })

/-- The correctable errors that a source's read of a range meets. -/
def correct (s : State) (n : Nat) (p : MctPort) (liv : Byte) (off len : Nat) : State :=
  forAll s (foundFor (mct s n) p liv .ce off len) (fun s b => ceEvent s n b)

/-- The uncorrectable errors that a source's read meets in these bursts. -/
def ueEvents (s : State) (n : Nat) (liv : Byte) (bs : List Nat) : State := forAll s bs (fun s b => ueEvent s n b liv false)

/-! A bank at the limit of its refresh debt (R443). -/

def bankNo (pc bank : Nat) : Nat := pc * 64 + bank

/-- The banks a range touches that serve no request until they are refreshed: debt 8. -/
def stuckBanks (m : Mct) (off len : Nat) : List Nat :=
  ((m.debt.filter (fun e => 8 ≤ e.2)).map (·.1)).filter (fun k =>
    (burstsOf off len).any (fun b => let p := bankOf m.map (32 * b); bankNo p.1 p.2 = k))

/-- A forced refresh takes a bank from debt 8 to 4 (R443). -/
def forceRefresh (m : Mct) (k : Nat) : Mct :=
  { m with debt := bankSet 0 m.debt k 4, forced := satAdd 65535 m.forced 1, frcref := true }

/-- A request of the device's own blocks waits for the forced refresh of the banks it touches and then goes on (R443). -/
def refreshFor (s : State) (n off len : Nat) : State :=
  match stuckBanks (mct s n) off len with
  | [] => s
  | l => modMct s n (fun m => l.foldl forceRefresh m)

/-! The end of a descriptor. -/

/-- An engine stands after the milepost of a command, or after the end of one cut short (R60, R382): its stores hold nothing
defined any more (R170). -/
def standAfter (s : State) (g : Nat) : State :=
  let ep := s.free
  let m : Mem := { cells := [], fill := .free ep }
  modEng (fresh s).2 g (fun e => { e with
    openCmd := false, skipSt := none, cut := false, rs := m, acc0 := m, acc1 := m, wbuf0 := m, wbuf1 := m, pref := none })

/-- The descriptor that an engine runs ends with a status: its completion stands ready, and a WAIT or halo descriptor that
ends at 0x10 or above takes the descriptors up to the next milepost with it (R162, R413). Those that have overtaken it are
reported behind it (R168, R169). The descriptor that was executing when the layover cut its command short ends that command
(R60). -/
def engDone (s : State) (g : Nat) (st : Byte) (ws : List Word) (skip : Bool) : State :=
  let last := tbit (nth ws 0) 31 || (eng s g).late.any (fun c => tbit (nth c.words 0) 31)
  let t := modEng s g (fun e => { e with
    done := e.done ++ { status := st, words := ws, ctx := e.bctx, queue := e.bqueue, head := e.headAt } :: e.late
    late := []
    waiting := none
    cur := none
    openCmd := !last
    skipSt := if last then none else if skip && 0x10 ≤ st.toNat then some st else e.skipSt
    st := if e.st = 6 || e.st = 2 then 1 else e.st })
  if (eng s g).cut then standAfter t g else t

/-- The writes that wait at the planner (08 R289, R294) and the fusion engine (09 R332). -/
def heldWrites (s : State) : List HeldWrite := s.mpl.heldOcc ++ s.mpl.heldPrim ++ s.fus.held

/-- Writes of an engine that wait for their completion: at a stack in compatibility mode (R434), at the planner or the
fusion engine. -/
def owes (s : State) (g : EngId) : Bool :=
  dieList.any (fun n => (mct s n).writes.any (fun w => w.owed && w.eng == some g)) ||
  (heldWrites s).any (fun w => w.owed && w.eng == some g)

/-- The STOREs that no acknowledgement is owed to any more complete (R434, R435). -/
def finishStores (s : State) : State :=
  forAll s (engList.filter (fun (g : EngId) => (eng s g).waiting == some .drain)) (fun s g =>
    match (eng s g).cur with
    | some ws => if owes s g then s else engDone s g stOk ws false
    | none => s)

/-- A write that waited has taken effect: it completes to its initiator. -/
def heldDone (s : State) (w : HeldWrite) : State :=
  match w.eng with
  | some _ => finishStores s
  | none => if w.owed then emit s (.fabric w.livery stOk []) else s

/-! Writes reach the stack. -/

/-- Every burst that a write has touched is stored anew with its check code; the histories of those covered whole end
(R444, R646). -/
def clearBad (m : Mct) (off len : Nat) : Mct :=
  let whole := fun b => off ≤ 32 * b && 32 * b + 32 ≤ off + len
  { m with
    flaws := m.flaws.filter (fun e => !burstIn off len e.1)
    badRead := m.badRead.filter (fun b => !whole b), scrubbed := m.scrubbed.filter (fun b => !whole b) }

/-- The acknowledgement a write owes when it drains: in compatibility mode, to its fabric initiator (R434). -/
def ackDrained (s : State) (compat : Bool) (w : PendWrite) : State :=
  if compat && w.owed && w.eng.isNone then emit s (.fabric w.livery stOk []) else s

/-- The stack after a write: where another source's write drained over the same bytes while this one waited in compatibility
mode, either stands, byte by byte (R434, Table 12-2). -/
def landWr (compat : Bool) (ep : Nat) (m : Mem) (w : PendWrite) : Mem :=
  if !compat || w.mixed = [] then applyWr m w
  else
    let open_ := fun a => w.mixed.any (fun r => r.1 ≤ a && a < r.1 + r.2)
    (w.data.zipIdx).foldl (fun m e =>
      let a := w.off + e.2
      if !open_ a || Config.seesNew ep w.seq a then memWr m a [e.1] else m) m

/-- The writes of other sources that wait over the bytes of one that drains. -/
def markMixed (m : Mct) (w : PendWrite) : Mct :=
  if m.compat then
    { m with writes := m.writes.map (fun v =>
        if !sameSource v w.port w.livery && wrOverlaps w.off w.data.length v then
          { v with mixed := (w.off, w.data.length) :: v.mixed }
        else v) }
  else m

/-- A write that the queue no longer holds reaches the stack, and its bursts are stored with fresh check codes (R444). -/
def land (s : State) (n : Nat) (w : PendWrite) : State :=
  let t := modDie s n (fun d => { d with
    hbm := landWr d.mct.compat s.free d.hbm w, mct := markMixed (clearBad d.mct w.off w.data.length) w })
  if (mct s n).compat then (fresh t).2 else t

/-- The write at an index of the queue drains, with the acknowledgement it owes. -/
def drainAt (s : State) (n idx : Nat) : State :=
  match (mct s n).writes[idx]? with
  | none => s
  | some w =>
    let s := refreshFor s n w.off w.data.length
    ackDrained (land (modMct s n (fun m => { m with writes := m.writes.eraseIdx idx })) n w) (mct s n).compat w

/-- The queue drains in order of acceptance. -/
def drainAll (s : State) (n : Nat) : State :=
  finishStores (forAll s (mct s n).writes (fun s _ => drainAt s n 0))

/-- Bursts that a write covers only in part: at most its first and its last (R646). -/
def partBursts (off len : Nat) : List Nat :=
  if len = 0 then []
  else
    let a := off / 32
    let z := (off + len - 1) / 32
    (if off % 32 ≠ 0 || off + len < 32 * a + 32 then [a] else []) ++
      (if z ≠ a && (off + len) % 32 ≠ 0 then [z] else [])

/-- The bursts with a finding that the reads of a write's read-modify-writes meet. -/
def foundPart (m : Mct) (p : MctPort) (liv : Byte) (e : EccEvent) (off len : Nat) : List Nat :=
  (partBursts off len).filter (fun b => finding (flawsOf m b) == e && !burstWaits m p liv b)

/-- The reads of a write's read-modify-writes (R425, R646), each after the forced refresh its bank is at (R443), with the errors
that they meet (R445, R446); the flag says that one stops the write. -/
def partRead (s : State) (n : Nat) (p : MctPort) (liv : Byte) (off len : Nat) : Bool × State :=
  let s := forAll s (partBursts off len) (fun s b => refreshFor s n (32 * b) 32)
  let s := forAll s (foundPart (mct s n) p liv .ce off len) (fun s b => ceEvent s n b)
  let bad := foundPart (mct s n) p liv .ue off len
  (!bad.isEmpty, ueEvents s n liv bad)

/-! Reads and writes by agents of the device. -/

/-- A read by an agent of the device: its bytes, or none where it meets an uncorrectable error (R445, R446). -/
def hbmGet (s : State) (n : Nat) (p : MctPort) (liv : Byte) (off len : Nat) : Option (List Byte) × State :=
  let s := correct (refreshFor s n off len) n p liv off len
  match foundFor (mct s n) p liv .ue off len with
  | [] => (some (memRd (hbmView s n p liv) off len), if (mct s n).compat then (fresh s).2 else s)
  | bad => (none, ueEvents s n liv bad)

/-- The bytes a read delivers when a burst fails: those of the failing bursts are not defined (R446). -/
def openBursts (ep off : Nat) (bad : List Nat) (bs : List Byte) : List Byte :=
  bs.zipIdx.map (fun e => if bad.contains ((off + e.2) / 32) then Config.openByte ep (off + e.2) else e.1)

/-- A read of a mover that goes on whatever it meets: the bytes of failing bursts are not defined (R446). -/
def hbmTake (s : State) (n : Nat) (liv : Byte) (off len : Nat) : List Byte × State :=
  let bad := foundFor (mct s n) .spine liv .ue off len
  let x := hbmGet s n .spine liv off len
  match x.1 with
  | some bs => (bs, x.2)
  | none => (openBursts x.2.free off bad (memRd (hbmView x.2 n .spine liv) off len), (fresh x.2).2)

/-- A write by an agent of the device, drained at its acceptance; earlier writes that it overlaps drain first (R433), in
compatibility mode those of its own source (R434).
`none` status: done; otherwise the read of its read-modify-write met an error and nothing changed (R646). -/
def hbmPut (s : State) (n : Nat) (liv : Byte) (off : Nat) (data : List Byte) (p : MctPort := .spine) : Option Byte × State :=
  match partRead (refreshFor s n off data.length) n p liv off data.length with
  | (true, s) => (some stBadCheck, s)
  | (false, s) =>
    let late := (mct s n).writes.any (fun w => wrOverlaps off data.length w && (!(mct s n).compat || sameSource w p liv))
    (none, land (if late then drainAll s n else s) n { port := p, livery := liv, off := off, data := data })

/-- A write by a block of the IOD core to its own tables and rings, whole, with its livery (Table 13-3). -/
def hbmSet (s : State) (n : Nat) (liv : Byte) (off : Nat) (data : List Byte) : State := (hbmPut s n liv off data).2

/-- Bursts in the write queue (R432). -/
def queuedBursts (m : Mct) : Nat := (m.writes.map (fun w => (burstsOf w.off w.data.length).length)).sum

/-- Bytes of a write that pass through the full queue into the stack before the rest stands in it (R432). -/
def overflow (off len : Nat) : Nat :=
  let k := (burstsOf off len).length
  if k ≤ 2048 then 0 else 32 * (off / 32 + (k - 2048)) - off

/-- A write accepted into the write queue of 2,048 bursts (R432); the queue makes room by draining. -/
def hbmQueue (s : State) (n : Nat) (w : PendWrite) : State :=
  let s := if 2048 < queuedBursts (mct s n) + (burstsOf w.off w.data.length).length then drainAll s n else s
  let k := overflow w.off w.data.length
  let s := if k = 0 then s else land (refreshFor s n w.off k) n { w with data := w.data.take k }
  modMct s n (fun m => { m with
    writes := m.writes ++ [{ w with off := w.off + k, data := w.data.drop k, seq := m.seq }], seq := m.seq + 1 })

/-- A write offered to the queue: none when it is accepted, or the status of a failed read-modify-write (R646). -/
def hbmOffer (s : State) (n : Nat) (w : PendWrite) : Option Byte × State :=
  match partRead s n w.port w.livery w.off w.data.length with
  | (true, s) => (some stBadCheck, s)
  | (false, s) => (none, hbmQueue s n w)

/-! MEM_COPY (R451, R646). -/

/-- The bytes that a copy of `len` bytes moves before it meets an uncorrectable error, whether it meets one, and the state with
the errors that its reads meet: in a source burst, or at the read of a part of a destination burst. -/
def copyReach (s : State) (c : MemCopy) (len : Nat) : Nat × Bool × State :=
  let sd := c.src / 2 ^ 34
  let so := c.src % 2 ^ 34
  let dd := c.dst / 2 ^ 34
  let do_ := c.dst % 2 ^ 34
  let s := refreshFor s sd so len
  let srcBad := (foundFor (mct s sd) .spine c.livery .ue so len).head?
  let n1 := srcBad.elim len (fun b => 32 * b - so)
  let atSrc := fun (s : State) => ueEvents s sd c.livery srcBad.toList
  let bad := foundPart (mct s dd) .spine c.livery .ue do_ n1
  let read := bad.head?.elim n1 (fun b => min n1 (32 * b + 32 - do_))
  let s := correct s sd .spine c.livery so read
  match bad with
  | b :: _ => (min n1 (32 * b - do_), true, ueEvents (if read = n1 then atSrc s else s) dd c.livery [b])
  | [] => (n1, srcBad.isSome, atSrc s)

/-- The first `len` bytes of a copy move, up to an uncorrectable error: how many, whether one was met. -/
def copyMove (s : State) (c : MemCopy) (len : Nat) : Nat × Bool × State :=
  let x := copyReach s c len
  let bs := memRd (hbmView x.2.2 (c.src / 2 ^ 34) .spine c.livery) (c.src % 2 ^ 34) x.1
  (x.1, x.2.1, hbmSet x.2.2 (c.dst / 2 ^ 34) c.livery (c.dst % 2 ^ 34) bs)

/-- A copy ends for its requester. -/
def dropCopy (s : State) (id : Nat) : State :=
  { s with dis := { s.dis with copies := s.dis.copies.filter (fun x => !(x.id == id)) } }

/-- A copy fails on its way: some of its bytes, how many is not stated, have moved (R28, R499, R500). -/
def failCopy (s : State) (c : MemCopy) : State :=
  let up := (mct s (c.src / 2 ^ 34)).st = 2 && (mct s (c.dst / 2 ^ 34)).st = 2
  let k := if up then Config.choice s.free % (c.len + 1) else 0
  completeDefers (copyMove (fresh (dropCopy s c.id)).2 c k).2.2 (.memCopy c.id) stInternal [execDetail]

/-! WRITE_DRAIN and MCT_HELD_READ. -/

/-- The write at an index may drain: its banks serve requests (R443), no earlier write that it overlaps waits, in
compatibility mode none of its own source (R433, R434). -/
def mayDrain (m : Mct) (idx : Nat) (w : PendWrite) : Bool :=
  (stuckBanks m w.off w.data.length).isEmpty &&
  (m.writes.take idx).all (fun e => !wrOverlaps w.off w.data.length e || (m.compat && !sameSource e w.port w.livery))

/-- A queued write's bursts reach the stack; in compatibility mode it is acknowledged now, and a STORE that waited for it may
complete (R432-R435). -/
def drainOne (s : State) (n idx : Nat) : State :=
  match (mct s n).writes[idx]? with
  | none => s
  | some w => if mayDrain (mct s n) idx w then finishStores (drainAt s n idx) else s

/-- WRITE_DRAIN: a queued write drains (R432-R435). -/
def execWriteDrain (n : DieId) (idx : Nat) (s : State) : Out := .next (drainOne s n idx)

/-- A held read has nothing left to wait for: no bank at its refresh limit (R443), no overlapping write accepted before it
(R433; in compatibility mode only its own source's writes count). -/
def readFree (m : Mct) (r : HeldRead) : Bool :=
  (stuckBanks m r.off r.len).isEmpty &&
  m.writes.all (fun w => r.seq ≤ w.seq || !wrOverlaps r.off r.len w || (m.compat && !sameSource w r.port r.livery))

/-- A read as the MCT accepts it: what it returns is settled by the writes accepted before it. -/
def acceptRead (s : State) (n : Nat) (port : MctPort) (liv : Byte) (path : List LinkId) (off len : Nat) : HeldRead × State :=
  let r : HeldRead := {
    port := port, livery := liv, path := path, off := off, len := len
    data := memRd (hbmView s n port liv) off len, bad := foundFor (mct s n) port liv .ue off len, seq := (mct s n).seq }
  (r, modMct (fresh s).2 n (fun m => { m with seq := m.seq + 1 }))

/-- A read carried out for a fabric initiator, with its completion (R445, R446). -/
def hbmAnswer (s : State) (n : Nat) (r : HeldRead) : State :=
  let s := correct (refreshFor s n r.off r.len) n r.port r.livery r.off r.len
  match r.bad with
  | [] => emit s (.fabric r.livery stOk r.data)
  | bad => emit (fresh (ueEvents s n r.livery bad)).2 (.fabric r.livery stBadCheck (openBursts s.free r.off bad r.data))

/-- MCT_HELD_READ: a read that waited on an overlapping write or on a forced refresh proceeds (R433, R443). -/
def execMctHeldRead (n : DieId) (idx : Nat) (s : State) : Out :=
  .next (match (mct s n).reads[idx]? with
    | none => s
    | some r =>
      if readFree (mct s n) r then
        hbmAnswer (modMct s n (fun m => { m with reads := m.reads.eraseIdx idx })) n r
      else s)

/-! Refresh (R441-R443). -/

/-- REFRESH_DEBT_ACCRUE: every bank of the stack gains one unit; no debt exceeds 8 (R441, R443). `flaws` are the symbols of
bursts that have gone bad in the meantime. -/
def execRefreshDebtAccrue (n : DieId) (s : State) (flaws : List (Fin 536870912 × Nat) := []) : Out :=
  .next (if (mct s n).st = 2 then
    modMct s n (fun m =>
      let d := (List.range 2048).map (fun k => (k, min 8 (bankGet 0 m.debt k + 1)))
      flaws.foldl (fun m f => addFlaws m f.1 [f.2]) { m with debt := d, peak := max m.peak ((d.map (·.2)).foldl max 0) })
  else s)

/-- No request of the die waits for a bank. -/
def bankQuiet (m : Mct) (pc bank : Nat) : Bool :=
  m.writes.all (fun w => (burstsOf w.off w.data.length).all (fun b => bankOf m.map (32 * b) != (pc, bank))) &&
  m.reads.all (fun r => (burstsOf r.off r.len).all (fun b => bankOf m.map (32 * b) != (pc, bank)))

/-- REFRESH_ISSUE: a per-bank refresh removes one unit from a bank with debt and no queued request (R441, R442); a bank at
debt 8 is refreshed by FORCED_REFRESH alone (R443). -/
def execRefreshIssue (n : DieId) (pc : Fin 32) (bank : Fin 64) (s : State) : Out :=
  .next (
    let k := bankNo pc bank
    if 1 ≤ bankGet 0 (mct s n).debt k && bankGet 0 (mct s n).debt k < 8 && bankQuiet (mct s n) pc bank then
      modMct s n (fun m => { m with debt := bankMod 0 m.debt k (fun d => d - 1) })
    else s)

/-- FORCED_REFRESH: a bank at debt 8 is refreshed down to 4 (R443). -/
def execForcedRefresh (n : DieId) (pc : Fin 32) (bank : Fin 64) (s : State) : Out :=
  .next (
    let k := bankNo pc bank
    if bankGet 0 (mct s n).debt k = 8 then
      modMct s n (fun m => forceRefresh m k)
    else s)

/-- PATROL_SCRUB: one burst, of which the symbols `flaws` have gone bad by now, is read; a correctable error is corrected
and counted, an uncorrectable one is logged (R448). -/
def execPatrolScrub (n : DieId) (burst : Fin 536870912) (flaws : List Nat) (s : State) : Out :=
  .next (
    if (mct s n).st ≠ 2 then s
    else
      let s := modMct s n (fun m => addFlaws m burst flaws)
      match finding (flawsOf (mct s n) burst) with
      | .clean => s
      | .ce => ceEvent s n burst
      | .ue => ueEvent s n burst 0x00 true)

/-- HBM_CE_NOTICE: more than 4,096 correctable errors on one die in a rolling 24 h make a notice (14, class 0x05); they are
counted anew after it. -/
def execHbmCeNotice (n : DieId) (s : State) : Out :=
  .next (if 4096 < histCount dayNs s.vtime (mct s n).ce24 then
    logF (modMct s n (fun m => { m with ce24 := [] }))
      { cls := 0x05, unit := n, sub := 0x13, detail := histCount dayNs s.vtime (mct s n).ce24 }
  else s)

/-- R503: three uncorrectable errors read within 1,000 stages, or one burst twice without a write between. -/
def ueRule (s : State) (n : Nat) : Bool :=
  (mct s n).ueLimit || 3 ≤ histCount 1000 s.stg.stage (mct s n).ueAt

/-! Commit (R428-R431). -/

def mapKeys (w : Word) : Nat × Nat := (fld w 9 8, fld w 3 0)

/-- R429 holds for the shadows. -/
def commitOk (s : State) (n : Nat) : Bool :=
  let m := mct s n
  fld m.mapSh 3 0 ≤ 8 && (mapKeys m.mapSh == mapKeys m.map || !(s.tt.active.isSome && (die s n).inService))

/-- The offset that a mapping gives a pseudo-channel, bank, row and column (R426 read backwards, R427). -/
def unmapOffset (m : Word) (q : Nat × Nat × Nat × Nat × Nat) : Nat :=
  let g := grainBits m
  let (pc, bank, row, column, byte) := q
  let low := match mapOrder m with
    | 0 => at_ bank 10 + at_ column 5
    | 1 => at_ column 11 + at_ bank 5
    | 2 => at_ (bank ^^^ (row % 64)) 10 + at_ column 5
    | _ => at_ (bank / 16) 14 + at_ (bank % 4) 12 + at_ column 7 + at_ (bank / 4 % 4) 5
  let a := at_ row 16 + low + byte
  ((a >>> g) <<< (g + 5)) + at_ pc g + a % 2 ^ g

/-- The burst number under a new mapping of the burst that has a number under the old one. -/
def moveBurst (old new : Word) (b : Nat) : Nat := unmapOffset new (mapOffset old (32 * b)) / 32

/-- Every transaction the MCT has accepted completes: writes drain, held reads are answered (R430). -/
def settleMct (s : State) (n : Nat) : State :=
  let s := drainAll s n
  forAll (modMct s n (fun m => { m with reads := [] })) (mct s n).reads (fun s r => hbmAnswer s n r)

/-- A commit: what was accepted before completes under the old values, and the new ones hold from now on (R430). After a
change of order or grain the window's contents are not defined, and since nothing is written, a burst of the stack that
holds an error keeps it, under its new number (R431, R646). A failed check discards the shadows. -/
def commitMct (s : State) (n : Nat) : State :=
  if commitOk s n then
    let s := settleMct s n
    let m := mct s n
    let put := fun (m : Mct) => { m with map := m.mapSh, compat := m.compatSh }
    if mapKeys m.mapSh == mapKeys m.map then modMct s n put
    else
      let ep := s.free
      let mv := moveBurst m.map m.mapSh
      modDie (fresh s).2 n (fun d => { d with
        hbm := { cells := [], fill := .free ep }
        mct := put { d.mct with
          flaws := d.mct.flaws.foldl (fun l e => bankSet [] l (mv e.1) e.2) []
          badRead := d.mct.badRead.map mv, scrubbed := d.mct.scrubbed.map mv } })
  else modMct s n (fun m => { m with mapSh := m.map, compatSh := m.compat, badcfg := true })

/-- Shadows of an MCT that wait for a commit. -/
def mctPending (m : Mct) : Bool := m.mapSh != m.map || m.compatSh != m.compat

/-- MCT_CTL.clrcnt: clears MCT_ECC and MCT_REFSTAT; peak goes on from the largest debt of now (Table 12-12, R456). -/
def clrMct (m : Mct) : Mct := { m with ceCnt := 0, ueCnt := 0, forced := 0, peak := (m.debt.map (·.2)).foldl max 0 }

/-- MCT_COMMIT: the named dies' shadows (Table 12-3). -/
def rowMctCommit : OpDef :=
  opDef (fixedRow 4 4 1) (fun s k =>
    let mask := parN k 0
    let named := dieList.filter (fun n => mask.testBit n.val)
    if fld (par k 0) 31 12 ≠ 0 then .refuse stBadParam 10 4
    else if named.any (fun n => (mct s n).st ≤ 1) then .refuse stNotReady 11 0xFFFF
    else if mask = 0 then .answer stOkEmpty [] s
    else
      let good := dieMask (fun n => mask.testBit n.val && commitOk s n)
      .answer (if good = mask then stOk else stOkPartial) [toW good] (forAll s named (fun s n => commitMct s n)))

end Sys2Proof.Machine
end

