-- ==== Sys2Proof/Machine/Sync.lean ====
section
/-! DEFINITION. Synchronisation objects (11): records, signals, decrements, waits, releases, and the class 0x3 opcodes. -/

namespace Sys2Proof.Machine

def defObj : SynObj := {}

def obj (s : State) (k : Nat) : SynObj := bankGet defObj s.syn.objs k
def setObj (s : State) (k : Nat) (o : SynObj) : State :=
  { s with syn := { s.syn with objs := bankSet defObj s.syn.objs k o } }
def modObj (s : State) (k : Nat) (f : SynObj → SynObj) : State := setObj s k (f (obj s k))

/-- SYN_CTXBASE and SYN_CTXSIZE of a context (Table 11-6). -/
def synBase (s : State) (c : Nat) : Nat := (bankGet (0, 0) s.syn.bases c).1
def synSize (s : State) (c : Nat) : Nat := (bankGet (0, 0) s.syn.bases c).2

/-- The physical object of a virtual identifier (R400, R401). -/
def physObj (s : State) (c v : Nat) : Option Nat := if v < synSize s c then some (synBase s c + v) else none

/-- Word 0 of an object record (Table 11-1). -/
def objWord0 (o : SynObj) : Word :=
  toW (at_ o.st 30 + flagAt o.binary 29 + flagAt o.held 28 + flagAt o.sat 27 + flagAt o.under 26 + at_ o.owner 20 +
    o.waiters.length)

/-- An object record (Table 11-1). -/
def objWords (o : SynObj) : List Word := sealW [objWord0 o, toW o.value, toW o.limit]

/-- Host waiter records in use (Table 11-4). -/
def hostWaits (s : State) : Nat := (s.dis.defers.filter (fun d => match d.what with | .synWait _ => true | _ => false)).length

/-- The WAIT of an engine ends (R413, R414). -/
def endEngWait (s : State) (g : Nat) (st : Byte) : State :=
  match (eng s g).cur with
  | some ws => engDone s g st ws true
  | none => modEng s g (fun e => { e with waiting := none })

/-- A waiter leaves its object with a status and, for a host, the object's value (R414, Table 11-2). -/
def releaseWaiter (s : State) (w : Waiter) (st : Byte) (v : Nat) : State :=
  match w with
  | .host id _ _ => completeDefers s (.synWait id) st [toW v]
  | .engine g _ => endEngWait s g st

def waiterN : Waiter → Nat
  | .host _ n _ => n
  | .engine _ n => n

/-- Waiters satisfied from the head on, with the value each leaves (R407, R408). -/
def satisfied : Nat → List Waiter → List (Waiter × Nat)
  | _, [] => []
  | v, w :: r => if waiterN w ≤ v then (w, v - waiterN w) :: satisfied (v - waiterN w) r else []

/-- The SYN releases the satisfied waiters of an object (R407, R408). -/
def serveObj (s : State) (k : Nat) : State :=
  let o := obj s k
  let go := satisfied o.value o.waiters
  let s := modObj s k (fun o => { o with
    value := (go.getLast?.map (·.2)).getD o.value, waiters := o.waiters.drop go.length })
  forAll s go (fun s e => releaseWaiter s e.1 stOk e.2)

/-- A signal of count n on an ACTIVE object (R405). -/
def signalObj (s : State) (k n : Nat) : Byte × State :=
  let o := obj s k
  let past := o.limit < o.value + n
  let v := min (o.value + n) o.limit
  let s := setObj s k { o with value := v, sat := o.sat || past }
  let s := if past then { s with syn := { s.syn with sat := true } } else s
  (if past then stSaturated else stOk, serveObj s k)

/-- A decrement of count n on an ACTIVE object (R406). -/
def decrementObj (s : State) (k n : Nat) : Byte × State :=
  let o := obj s k
  let bad := o.value < n
  let s := setObj s k { o with value := o.value - n, under := o.under || bad }
  let s := if bad then { s with syn := { s.syn with under := true } } else s
  (if bad then stUnderflow else stOk, s)

/-- A waiter queues; satisfied waiters are released at once (R407, R408). -/
def queueWaiter (s : State) (k : Nat) (w : Waiter) : State :=
  serveObj (modObj s k (fun o => { o with waiters := o.waiters ++ [w] })) k

/-- An object loses its owner: its waiters are released with ST_OWNER_LOST and its value stays (R417). -/
def orphanObj (s : State) (k : Nat) : State :=
  let o := obj s k
  let s := setObj s k { o with st := 2, waiters := [] }
  let s := { s with syn := { s.syn with orphan := true } }
  forAll s o.waiters (fun s w => releaseWaiter s w stOwnerLost o.value)

/-- The context whose range holds a physical object. -/
def ctxOfObj (s : State) (k : Nat) : Option CtxId :=
  ctxList.find? (fun c => synBase s c.val ≤ k && k < synBase s c.val + synSize s c.val)

/-- Reset, restart or loss of a die: every ACTIVE object it owns becomes ORPHANED, with one entry per context (R417). -/
def orphanDie (s : State) (n : Nat) : State :=
  let mine := (s.syn.objs.filter (fun e => e.2.st == 1 && e.2.owner == n)).map (·.1)
  let ctxs := (mine.filterMap (ctxOfObj s)).eraseDups
  let s := forAll s mine orphanObj
  forAll s ctxs (fun s c => logF s { cls := 0x15, unit := n, status := stOwnerLost, livery := ctxLivery s c.val })

/-- An object becomes UNUSED after its waiters have been released with ST_OWNER_LOST (R403, R421). -/
def freeObj (s : State) (k : Nat) : State :=
  let o := obj s k
  let s := setObj s k defObj
  forAll s o.waiters (fun s w => releaseWaiter s w stOwnerLost o.value)

/-- The record of a declared object with an owner (R403). -/
def declObj (d : ObjDecl) (owner : Nat) : SynObj :=
  { st := 1, binary := d.binary, value := d.value, limit := d.limit, owner := owner }

/-! Class 0x3 (Table 11-2). -/

/-- The object a packet names, or the refusal of its word 0 (reserved bits `rsv`; R401). -/
def pktObj (s : State) (k : Pkt) (rsv : Word) : Option Nat :=
  if par k 0 &&& rsv ≠ 0 then none else physObj s (pktCtx k) (fld (par k 0) 15 0)

/-- SYN_INIT. -/
def rowSynInit : OpDef :=
  opDef (fixedRow 3 0 3) (fun s k =>
    match pktObj s k 0xFF0E0000 with
    | none => .refuse stBadParam 10 4
    | some n =>
      let owner := fld (par k 0) 23 20
      let binary := tbit (par k 0) 16
      let v := parN k 1
      let lim := parN k 2
      if owner = 13 || owner = 14 then .refuse stBadParam 10 4
      else if 0xFFFFFF < v || lim < v then .refuse stBadParam 10 5
      else if 0xFFFFFF < lim || lim = 0 || (binary && lim ≠ 1) then .refuse stBadParam 10 6
      else if (obj s n).waiters ≠ [] then .refuse stRefusedInUse 11 0xFFFF
      else if owner < 12 && !dieInSvc s owner then .refuse stNotReady 11 0xFFFF
      else .answer stOk [objWord0 (obj s n)] (setObj s n {
        st := 1, binary := binary, held := (ctxRec s (pktCtx k)).pre, owner := owner, value := v, limit := lim
        named := true }))

/-- The order of R409 before an operation of count n on an object: UNUSED, count beyond the limit (waits), count 0. -/
def opPrecheck (o : SynObj) (n : Nat) (isWait : Bool) : Option Verdict :=
  if o.st = 0 then some (.refuse stNotReady 11 0xFFFF)
  else if isWait && o.limit < n then some (.refuse stBadParam 10 5)
  else none

/-- A signal or decrement packet (R405, R406, R409, R418). -/
def synOp (s : State) (k : Pkt) (op : State → Nat → Nat → Byte × State) : Verdict :=
  match pktObj s k 0x7FFF0000 with
  | none => .refuse stBadParam 10 4
  | some n =>
    let c := parN k 1
    if 0xFFFFFF < c then .refuse stBadParam 10 5
    else match opPrecheck (obj s n) c false with
      | some v => v
      | none =>
        if c = 0 then .answer stOkEmpty [] s
        else if (obj s n).st = 2 then .answer stOwnerLost [toW (obj s n).value] s
        else
          let r := op s n c
          .answer r.1 [toW (obj r.2 n).value] r.2

def isDecrement (k : Pkt) : Bool := tbit (par k 0) 31

/-- SYN_SIGNAL with bit 31 clear: a signal, which releases the waiters it satisfies (R405, R407). -/
def rowSynSignal : OpDef :=
  opDef { fixedRow 3 1 2 with sel := fun k => !isDecrement k } (fun s k => synOp s k signalObj)

/-- SYN_SIGNAL with bit 31 set: a decrement (R406). -/
def rowSynDecrement : OpDef :=
  opDef { fixedRow 3 1 2 with sel := isDecrement } (fun s k => synOp s k decrementObj)

/-- SYN_WAIT: a host wait (R407-R410, R418). -/
def rowSynWait : OpDef :=
  opDef (fixedRow 3 2 3) (fun s k =>
    match pktObj s k 0xFFFF0000 with
    | none => .refuse stBadParam 10 4
    | some n =>
      let o := obj s n
      let c := parN k 1
      if 0xFFFFFF < c then .refuse stBadParam 10 5
      else match opPrecheck o c true with
        | some v => v
        | none =>
          if c = 0 then .answer stOkEmpty [] s
          else if o.st = 2 then .answer stOwnerLost [toW o.value] s
          else if o.waiters.isEmpty && c ≤ o.value then
            .answer stOk [toW (o.value - c)] (setObj s n { o with value := o.value - c })
          else if 4096 ≤ hostWaits s then
            .refuseIn stNoResource 11 0xFFFF { s with syn := { s.syn with nores := true } }
          else
            let id := s.syn.nextId
            let s := modObj s n (fun o => { o with waiters := o.waiters ++ [.host id c (parN k 2)] })
            .later (.synWait id) { s with syn := { s.syn with
              nextId := id + 1, peak := max s.syn.peak (hostWaits s + 1) } })

/-- A host wait that has a timeout (Table 11-2: 0 for none). -/
def isHostWait (id : Nat) : Waiter → Bool
  | .host i _ timeout => i == id && timeout != 0
  | .engine _ _ => false

/-- SYN_WAIT_TIMEOUT: the waiter is removed and the host learns it with ST_NOT_READY (Table 11-2, R423). A head that leaves
lets those behind it be served. -/
def execSynWaitTimeout (id : Nat) (s : State) : Out :=
  .next (match s.syn.objs.find? (fun e => e.2.waiters.any (isHostWait id)) with
    | none => s
    | some e =>
      let s := modObj s e.1 (fun o => { o with
        waiters := o.waiters.filter (fun w => !isHostWait id w) })
      serveObj (completeDefers s (.synWait id) stNotReady [execDetail]) e.1)

/-- SYN_QUERY: object records (Table 11-2). -/
def rowSynQuery : OpDef :=
  opDef (fixedRow 3 3 2) (fun s k =>
    let a := parN k 0
    let c := parN k 1
    let size := synSize s (pktCtx k)
    if size < a then .refuse stBadParam 10 4
    else if 4094 < c || size < a + c then .refuse stBadParam 10 5
    else if c = 0 then .answer stOkEmpty [] s
    else .answer stOk ((List.range c).flatMap (fun i => objWords (obj s (synBase s (pktCtx k) + a + i)))) s)

end Sys2Proof.Machine
end

