-- ==== Sys2Proof/Machine/Links.lean ====
section
/-! DEFINITION. The coupling ring, routes and the link events (01 R24-R28, R40-R42; 14 R498, R499, Table 14-1). -/

namespace Sys2Proof.Machine

def fin {n : Nat} (h : 0 < n) (k : Nat) : Fin n := ⟨k % n, Nat.mod_lt k h⟩

/-- Ring position of a die (R25). -/
def ringPos (n : Nat) : Nat := if n < 6 then n else 17 - n

/-- The die at a ring position (R25). -/
def dieAt (p : Nat) : DieId := if h : p % 12 < 6 then ⟨p % 12, by omega⟩ else ⟨17 - p % 12, by omega⟩

def succDie (n : Nat) : DieId := dieAt (ringPos n + 1)
def predDie (n : Nat) : DieId := dieAt (ringPos n + 11)

/-- LNK_TOPO of a compute die of stepping B1 (Tables 1-11, 1-12). -/
def lnkTopo (n : Nat) : Word :=
  toW (at_ 1 28 + at_ (ringPos n) 16 + at_ (succDie n).val 12 + at_ (predDie n).val 8 + n)

/-- The coupling from a die to its successor is active. -/
def couplingUp (s : State) (n : Nat) : Bool := (die s n).scup

/-- Hops from one die to another in the successor direction. -/
def hopsSucc (a b : Nat) : Nat := (ringPos b + 12 - ringPos a) % 12

/-- Every coupling of the arc of `k` hops that starts at position `p` is active. -/
def arcUp (s : State) (p k : Nat) : Bool := (List.range k).all (fun i => couplingUp s (dieAt (p + i)).val)

/-- A way between two dies. -/
inductive Route where
  | succ | pred | spines
  deriving DecidableEq, Repr

def routeCode : Route → Nat
  | .succ => 0
  | .pred => 1
  | .spines => 2

/-- The arc of R26: fewer hops, and the successor direction for six. -/
def firstArc (a b : Nat) : Route := if hopsSucc a b ≤ 6 then .succ else .pred

def arcOk (s : State) (a b : Nat) : Route → Bool
  | .succ => arcUp s (ringPos a) (hopsSucc a b)
  | .pred => arcUp s (ringPos b) (hopsSucc b a)
  | .spines => true

/-- The route the links now give (R26, R27). -/
def routeNow (s : State) (a b : Nat) : Route :=
  let f := firstArc a b
  if arcOk s a b f then f
  else
    let o := match f with
      | .succ => Route.pred
      | _ => Route.succ
    if arcOk s a b o then o else .spines

/-- The route in use: it differs from R26's only after ROUTE_CHANGE (R28). -/
def routeUsed (s : State) (a b : DieId) : Route :=
  match s.iod.altRoute.find? (fun e => e.1 == a && e.2.1 == b) with
  | some e => if e.2.2 = 1 then (if firstArc a b = .succ then .pred else .succ) else .spines
  | none => firstArc a b

/-- The unit and sub codes of Table 14-6 for a link. -/
def linkUnit : LinkId → Nat × Nat
  | .spine n => (n, 0x12)
  | .coupling n => (n, 0x11)
  | .island i => (islUnit i, 0xFF)

/-- A link enters or leaves the active state at both of its ends; one that was active leaves its down flags set (Tables 1-13,
1-17). -/
def setLink (s : State) (l : LinkId) (up : Bool) : State :=
  match l with
  | .spine n =>
    let down := (die s n).spup && !up
    let s := modDie s n (fun d => { d with spup := up, spdown := d.spdown || down })
    if down then { s with iod := { s.iod with spdown := s.iod.spdown ||| BitVec.ofNat 12 (2 ^ n.val) } } else s
  | .coupling n =>
    let down := (die s n).scup && !up
    let s := modDie s n (fun d => { d with scup := up, scdown := d.scdown || down })
    modDie s (succDie n).val (fun d => { d with pcup := up, pcdown := d.pcdown || down })
  | .island i =>
    let down := (isl s i).linkUp && !up
    let s := modIsl s i (fun x => { x with linkUp := up })
    if down then { s with iod := { s.iod with isldown := s.iod.isldown ||| (match i with | .sia => 1 | .sib => 2) } } else s

/-- Both ends of a link are out of reset, so that it can train; a coupling that failed waits for the reset of a die at it (R510,
Table 14-2). -/
def linkPowered (s : State) (l : LinkId) : Bool :=
  match l with
  | .spine n => !(die s n).inReset && !s.iod.inReset
  | .coupling n => !(die s n).inReset && !(die s (succDie n).val).inReset && !(die s n).scfailed
  | .island .sia => !s.sia.inReset && !s.edgeA.inReset
  | .island .sib => !s.sib.inReset && !s.edgeB.inReset

/-- LINK_TRAINED: the up bits become 1; a retrain under way has ended (R24, after R41; R498). -/
def execLinkTrained (l : LinkId) (s : State) : Out :=
  .next (if linkPowered s l then
    let s := setLink s l true
    { s with iod := { s.iod with retrain := s.iod.retrain.filter (fun x => !(x == l)) } }
  else s)

/-- LINK_FLIT_ERROR: one retried flit sequence is counted at the end that retries (R40, R42). -/
def execLinkFlitError (l : LinkId) (e : LinkEnd) (s : State) : Out :=
  .next (match l, e with
    | .spine n, .die => modDie s n (fun d => { d with retrySp := satAdd 1023 d.retrySp 1 })
    | .spine n, .far =>
      { s with iod := { s.iod with spretry := bankMod 0 s.iod.spretry n (fun c => satAdd 1023 c 1) } }
    | .coupling n, .die => modDie s n (fun d => { d with retrySc := satAdd 1023 d.retrySc 1 })
    | .coupling n, .far => modDie s (succDie n).val (fun d => { d with retryPc := satAdd 1023 d.retryPc 1 })
    | .island _, _ => s)

/-! The way of a transaction (R26-R30). -/

/-- The die an engine belongs to. -/
def homeDie (g : EngId) : DieId := ⟨g.val / 8, by omega⟩

/-- The ring edge in which an island's link ends (R30). -/
def ownEdge : Isl → Edge
  | .sia => .a
  | .sib => .b

/-- What the IOD fabric sends an island reaches it, and what it sends the IOD arrives: over its own edge and its link (R30). -/
def hears (s : State) (i : Isl) : Bool := (isl s i).linkUp && !(edge s (ownEdge i)).inReset

/-- What a transaction passes: the links that must be active, the units that must be out of reset. -/
structure Way where
  links : List LinkId
  units : List UnitId
  deriving DecidableEq, Repr

def linkActive (s : State) : LinkId → Bool
  | .spine n => (die s n).spup
  | .coupling n => (die s n).scup
  | .island i => (isl s i).linkUp

def outOfReset (s : State) : UnitId → Bool
  | .die n => !(die s n).inReset
  | .iod => !s.iod.inReset
  | .edge e => !(edge s e).inReset
  | .island i => !(isl s i).inReset

def wayOpen (s : State) (w : Way) : Bool := w.links.all (linkActive s) && w.units.all (outOfReset s)

/-- Between two dies by a route: over the couplings of an arc, or over both spines and the IOD fabric (R26, R27). -/
def dieWay (a b : DieId) : Route → Way
  | .succ => { links := (List.range (hopsSucc a b)).map (fun i => .coupling (dieAt (ringPos a + i))), units := [] }
  | .pred => { links := (List.range (hopsSucc b a)).map (fun i => .coupling (dieAt (ringPos b + i))), units := [] }
  | .spines => { links := [.spine a, .spine b], units := [.iod] }

/-- From an initiator to the edge of the IOD fabric: an island goes over its link and its own ring edge, an engine over its
die's spine and the IOD core. -/
def upWay : Initiator → Way
  | .iod => { links := [], units := [.iod] }
  | .island i => { links := [.island i], units := [.edge (ownEdge i)] }
  | .engine g => { links := [.spine (homeDie g)], units := [.iod] }

/-- From the IOD fabric to a target. The ring edges forward island traffic to each other, so only what lies behind the IOD core
needs it out of reset (R30). -/
def downWay : FwTarget → Way
  | .iod t => { links := [], units := [if t.val = 19 then .edge .a else if t.val = 20 then .edge .b else .iod] }
  | .die n _ => { links := [.spine n], units := [.iod, .die n] }
  | .island i _ => { links := [.island i], units := [.edge (ownEdge i), .island i] }

/-- The whole way of a transaction: nothing is passed inside a die or an island. -/
def wayOf (s : State) (src : Initiator) (t : FwTarget) : Way :=
  let far : Way := { links := (upWay src).links ++ (downWay t).links, units := (upWay src).units ++ (downWay t).units }
  match src, t with
  | .engine g, .die n _ =>
    if homeDie g = n then { links := [], units := [.die n] }
    else let w := dieWay (homeDie g) n (routeUsed s (homeDie g) n); { w with units := .die n :: w.units }
  | .island i, .island j _ => if i = j then { links := [], units := [.island i] } else far
  | _, _ => far

/-- The MCT port on which a transaction arrives (12, before R432). -/
def portOf (s : State) (src : Initiator) (n : DieId) : MctPort :=
  match src with
  | .engine g =>
    if homeDie g = n then .te ⟨g.val % 8, by omega⟩
    else match routeUsed s (homeDie g) n with
      | .succ => .pred
      | .pred => .succ
      | .spines => .spine
  | _ => .spine

/-! Changes of route (R27, R28). -/

/-- The way of a halo message. -/
def flightWay (s : State) (f : EngId × DieId × Bool × HaloMsg) : Way := wayOf s (.engine f.1) (.die f.2.1 0)

/-- Transactions from one die to another are outstanding on the route in use. -/
def outstanding (s : State) (a b : DieId) : Bool :=
  let l := (dieWay a b (routeUsed s a b)).links
  (mct s b).reads.any (fun r => r.path == l) ||
  (mct s b).writes.any (fun w => (mct s b).compat && w.owed && w.path == l) ||
  s.flight.any (fun f => homeDie f.1 == a && f.2.1 == b)

/-- Once nothing is outstanding on the old route, the route of R26 and R27 is taken. -/
def settleRoute (s : State) (a b : DieId) : State :=
  let want := routeNow s a b
  if want = routeUsed s a b || outstanding s a b then s
  else
    let rest := s.iod.altRoute.filter (fun e => !(e.1 == a && e.2.1 == b))
    let alt := if want = firstArc a b then rest else rest ++ [(a, b, if want = .spines then 2 else 1)]
    { s with iod := { s.iod with altRoute := alt } }

/-- The route of a transaction that starts is settled. -/
def settleFor (s : State) (src : Initiator) (t : FwTarget) : State :=
  match src, t with
  | .engine g, .die n _ => if homeDie g = n then s else settleRoute s (homeDie g) n
  | _, _ => s

/-- ROUTE_CHANGE: once the old route has drained, the route of R26 and R27 is taken (R28). -/
def execRouteChange (src dst : DieId) (s : State) : Out := .next (settleRoute s src dst)

/-! A link leaves the active state (R498, R499). -/

/-- The target of an access to an island's memories (Table 1-10). -/
def pieceTarget (i : Isl) : FwTarget := .island i 7

/-- A descriptor whose transaction fails completes with ST_INTERNAL (R502). -/
def failDesc (s : State) (g : EngId) : State :=
  match (eng s g).cur with
  | some ws => engDone s g stInternal ws false
  | none => s

/-- Transactions that one of the two reporters of R501 has ended. -/
def noteEnded (s : State) (l : List Ended) : State :=
  { s with dis := { s.dis with ended := l.map (fun e => { e with stage := s.stg.stage }) ++ s.dis.ended } }

/-- A write at a stack that completes with ST_INTERNAL to its initiator. -/
def failWrite (s : State) (w : PendWrite) : State :=
  match w.eng with
  | some g => failDesc s g
  | none => emit s (.fabric w.livery stInternal [])

/-- The reads and the unacknowledged writes at a stack that came by a link fail. -/
def failMct (s : State) (l : LinkId) (n : DieId) : State :=
  let m := mct s n
  let gone := fun (p : List LinkId) => ({ unit := .die n, path := p, byLink := true } : Ended)
  let late := fun (w : PendWrite) => m.compat && w.owed && w.path.contains l
  let s := modMct s n (fun m => { m with
    reads := m.reads.filter (fun r => !r.path.contains l)
    writes := m.writes.map (fun w => if late w then { w with owed := false } else w) })
  let s := noteEnded s ((m.reads.filter (fun r => r.path.contains l)).map (fun r => gone r.path) ++
    (m.writes.filter late).map (fun w => gone w.path))
  let s := forAll s (m.reads.filter (fun r => r.path.contains l)) (fun s r => emit s (.fabric r.livery stInternal []))
  forAll s (m.writes.filter late) failWrite

/-- The accesses under way at an island's memories that came by a link fail. -/
def failPieces (s : State) (l : LinkId) (i : Isl) : State :=
  let way := fun (a : Access) => (wayOf s a.src (pieceTarget i)).links
  let on := fun (a : Access) => (way a).contains l
  let gone := (isl s i).pieces.filter on
  let s := noteEnded s (gone.map (fun a => { unit := .island i, path := way a, byLink := true }))
  forAll (modIsl s i (fun x => { x with pieces := x.pieces.filter (fun a => !on a) })) gone
    (fun s a => emit s (.fabric a.livery stInternal []))

/-- The halo messages under way on a link fail, and their senders' descriptors complete with ST_INTERNAL (R499, R502). -/
def failFlight (s : State) (l : LinkId) : State :=
  let way := fun (f : EngId × DieId × Bool × HaloMsg) => (flightWay s f).links
  let gone := s.flight.filter (fun f => (way f).contains l)
  let t := noteEnded { s with flight := s.flight.filter (fun f => !(way f).contains l) }
    (gone.map (fun f => { unit := .die f.2.1, path := way f, byLink := true }))
  forAll t gone (fun s f => failDesc s f.1)

/-- A write that waited at the planner or the fusion engine completes with ST_INTERNAL. -/
def failHeldWrite (s : State) (w : HeldWrite) : State :=
  match w.eng with
  | some g => failDesc s g
  | none => if w.owed then emit s (.fabric w.livery stInternal []) else s

/-- Those of them that meet `gone` wait no more. -/
def dropHeldWrites (s : State) (gone : HeldWrite → Bool) : State :=
  { s with
    mpl := { s.mpl with
      heldOcc := s.mpl.heldOcc.filter (fun w => !gone w), heldPrim := s.mpl.heldPrim.filter (fun w => !gone w) }
    fus := { s.fus with held := s.fus.held.filter (fun w => !gone w) } }

/-- Those that came by a link fail. -/
def failHeld (s : State) (l : LinkId) : State :=
  let on := fun (w : HeldWrite) => w.path.contains l
  let gone := (heldWrites s).filter on
  let s := noteEnded (dropHeldWrites s on) (gone.map (fun w => { unit := .iod, path := w.path, byLink := true }))
  forAll s gone failHeldWrite

/-- The links that a copy passes: the spines of its two stacks. -/
def copyLinks (c : MemCopy) : List LinkId :=
  [.spine (fin (by decide) (c.src / 2 ^ 34)), .spine (fin (by decide) (c.dst / 2 ^ 34))]

/-- The copies under way over a link fail. -/
def failCopies (s : State) (l : LinkId) : State :=
  let gone := s.dis.copies.filter (fun c => (copyLinks c).contains l)
  let unit := fun (c : MemCopy) => UnitId.die (fin (by decide) ((if (copyLinks c).head? = some l then c.src else c.dst) / 2 ^ 34))
  forAll (noteEnded s (gone.map (fun c => { unit := unit c, path := copyLinks c, byLink := true }))) gone failCopy

/-- Every transaction outstanding on a link completes to its initiator with ST_INTERNAL, and the link leaves the active state
(R28, R499). -/
def dropLink (s : State) (l : LinkId) : State :=
  let s := forAll s dieList (fun s n => failMct s l n)
  let s := failPieces (failPieces s l .sia) l .sib
  setLink (failCopies (failHeld (failFlight s l) l) l) l false

/-- Retry exhaustion: the link drops and retrains; class 0x07 (R498, R499). A transaction on it that a timer has reported before
makes an entry of kind consequential and has no further effect (R501). -/
def exhaust (s : State) (l : LinkId) : State :=
  let late := s.dis.ended.filter (fun e => !e.byLink && e.path.contains l)
  let fact : Fact := { cls := 0x07, unit := (linkUnit l).1, sub := (linkUnit l).2, status := stInternal }
  let s := logF { s with dis := { s.dis with ended := s.dis.ended.filter (fun e => !late.contains e) } } fact
  let s := forAll s late (fun s _ => logF s { fact with kind := some 3 })
  let s := dropLink s l
  { s with iod := { s.iod with retrain := addNew l s.iod.retrain } }

end Sys2Proof.Machine
end

