-- ==== Sys2Proof/Machine/Fabric.lean ====
section
/-! DEFINITION. The device physical address map (01 R33-R38, Tables 1-7 to 1-10) and the firewalls (13 R466-R471). -/

namespace Sys2Proof.Machine

/-- What an address reaches. -/
inductive Place where
  | hbm (n : DieId)
  | reg (t : FwTarget)
  | kpmTable
  | mplSram
  | fusMem
  | islRam (i : Isl)
  | islFlash (i : Isl)
  deriving DecidableEq, Repr

/-- An address decoded: what it reaches, the target whose firewall stands there, the target offset, and the bytes the row
holds from its start. -/
structure Spot where
  place : Place
  tgt   : FwTarget
  off   : Nat
  size  : Nat
  deriving DecidableEq, Repr

/-- A row of Tables 1-8 to 1-10: offset, size, index of the target. -/
abbrev MapRow := Nat × Nat × Nat

/-- The register blocks of Table 1-8, in the table's order (t = 0-20). -/
def iodRows : List MapRow :=
  ((List.range 8).map (fun t => (t * 0x100000, 0x100000, t))) ++
  [(0x800000, 0x40000, 8)] ++
  ((List.range 7).map (fun i => ((9 + i) * 0x100000, 0x100000, 9 + i))) ++
  ((List.range 5).map (fun i => (0x1000000 + i * 0x100000, 0x100000, 16 + i)))

/-- The memories of Table 1-8; MPL SRAM is populated for 24 MiB, FUS working memory for 8 MiB (09, Table 9-8). -/
def iodMems : List (Nat × Nat × Nat × Place) :=
  [(0x4000000, 0x1000000, 21, .kpmTable), (0x8000000, 0x1800000, 22, .mplSram), (0xC000000, 0x800000, 23, .fusMem)]

/-- Table 1-9: TE0-TE7, MCT, LNK, FWL, THM, CLK, RST are targets 0-13 of a die. -/
def dieRows : List MapRow := (List.range 14).map (fun t => (t * 0x100000, 0x100000, t))

/-- Table 1-10, register blocks. -/
def islRows : List MapRow := (List.range 7).map (fun t => (t * 0x100000, 0x100000, t))

def inRow (o : Nat) (r : MapRow) : Bool := r.1 ≤ o && o < r.1 + r.2.1

def iodSpot (o : Nat) : Option Spot :=
  match iodRows.find? (inRow o) with
  | some r => some { place := .reg (.iod (fin (by decide) r.2.2)), tgt := .iod (fin (by decide) r.2.2), off := o - r.1, size := r.2.1 }
  | none =>
    match iodMems.find? (fun r => r.1 ≤ o && o < r.1 + r.2.1) with
    | some r => some { place := r.2.2.2, tgt := .iod (fin (by decide) r.2.2.1), off := o - r.1, size := r.2.1 }
    | none => none

def dieSpot (n : DieId) (o : Nat) : Option Spot :=
  (dieRows.find? (inRow o)).map (fun r =>
    { place := .reg (.die n (fin (by decide) r.2.2)), tgt := .die n (fin (by decide) r.2.2), off := o - r.1, size := r.2.1 })

def islSpot (i : Isl) (o : Nat) : Option Spot :=
  match islRows.find? (inRow o) with
  | some r => some { place := .reg (.island i (fin (by decide) r.2.2)), tgt := .island i (fin (by decide) r.2.2), off := o - r.1, size := r.2.1 }
  | none =>
    if 0x4000000 ≤ o && o < 0x8000000 then
      some { place := .islRam i, tgt := .island i 7, off := o - 0x4000000, size := 0x4000000 }
    else if 0x8000000 ≤ o && o < 0xC000000 then
      some { place := .islFlash i, tgt := .island i 8, off := o - 0x8000000, size := 0x4000000 }
    else none

/-- Tables 1-7 to 1-10 (R33). -/
def decodeAddr (a : Nat) : Option Spot :=
  if a < 0x3000000000 then
    let n : DieId := fin (by decide) (a >>> 34)
    some { place := .hbm n, tgt := .die n 14, off := a % 2 ^ 34, size := 2 ^ 34 }
  else if 0xF000000000 ≤ a && a < 0xF010000000 then iodSpot (a - 0xF000000000)
  else if 0xF100000000 ≤ a && a < 0xF10C000000 then
    dieSpot (fin (by decide) ((a - 0xF100000000) >>> 24)) ((a - 0xF100000000) % 0x1000000)
  else if 0xF200000000 ≤ a && a < 0xF210000000 then islSpot .sia (a - 0xF200000000)
  else if 0xF210000000 ≤ a && a < 0xF220000000 then islSpot .sib (a - 0xF210000000)
  else none

/-- Whole, aligned words are asked of register space and of island memories (R35). -/
def needsWords : Place → Bool
  | .reg _ => true
  | .islRam _ => true
  | .islFlash _ => true
  | _ => false

/-- A transaction's spot, or none for a decode refusal (R35, R37). -/
def decodeRange (a len : Nat) : Option Spot :=
  match decodeAddr a with
  | none => none
  | some p =>
    if p.size < p.off + len then none
    else if needsWords p.place && (p.off % 4 ≠ 0 || len % 4 ≠ 0 || len = 0) then none
    else some p

/-! Firewalls. -/

/-- A region allows an access (R467, R468); livery 0xFF is never allowed (Table 13-10). -/
def regionAllows (r : Region) (liv : Byte) (off len : Nat) (k : Kind) : Bool :=
  r.en && r.size ≠ 0 && 4096 * r.base ≤ off && off + len ≤ 4096 * (r.base + r.size) &&
  r.allow.getLsbD liv.toNat && liv != 0xFF && (match k with | .read => r.r | .write => r.w)

/-- R468. -/
def fwAllows (s : State) (t : FwTarget) (liv : Byte) (off len : Nat) (k : Kind) : Bool :=
  (fwl s t).regions.any (fun e => regionAllows e.2 liv off len k)

/-- The unit of Table 14-6 that holds a target. -/
def tgtUnit : FwTarget → Nat
  | .iod t => if t = 19 then 0x0D else if t = 20 then 0x0E else unitIod
  | .die n _ => n
  | .island i _ => islUnit i

/-- A run of refusals has ended: its one entry, with the count of the run (R469). -/
def closeRun (s : State) (t : FwTarget) : State :=
  match (fwl s t).run with
  | none => s
  | some (liv, _, c) =>
    logF (modFwl s t (fun f => { f with run := none }))
      { cls := 0x10, unit := tgtUnit t, status := stFirewall, livery := liv, detail := c }

/-- A refusal by a firewall (R469). -/
def fwRefuse (s : State) (t : FwTarget) (liv : Byte) (off : Nat) (k : Kind) : State :=
  let same := match (fwl s t).run with
    | some (l, k', _) => l == liv && k' == k
    | none => false
  let s := if same then s else closeRun s t
  modFwl s t (fun f => { f with
    refd := true
    refcnt := satAdd 0xFFFFFFFF f.refcnt 1
    lastLo := lo32 off
    lastHi := toW (2 ^ 31 + flagAt (k == .write) 30 + at_ liv.toNat 16 + off / 2 ^ 32 % 4)
    run := some (liv, k, (match f.run with | some (_, _, c) => if same then c + 1 else 1 | none => 1)) })

/-- A decode refusal is entered with the address and the livery (R36). Which unit and sub code the entry names, inside a mapped
block too, the spec does not say: none, 0xFF (DESIGN CHOICE, log entry 144). -/
def decodeRefuse (s : State) (a : Nat) (liv : Byte) : State :=
  logF s { cls := 0x10, status := stFirewall, livery := liv, detail := a }

/-- An HBM range behind its firewall: the die, the offset, whether the livery is allowed. -/
def hbmRange (a len : Nat) : Option (DieId × Nat) :=
  match decodeRange a len with
  | some { place := .hbm n, off := o, .. } => some (n, o)
  | _ => none

/-- The targets of a state's firewalls with an open run. -/
def iodTargets : List FwTarget := (List.finRange 24).map .iod
def dieTargets : List FwTarget := dieList.flatMap (fun n => (List.finRange 15).map (fun t => .die n t))
def islTargets : List FwTarget := [Isl.sia, .sib].flatMap (fun i => (List.finRange 9).map (fun t => .island i t))
def allTargets : List FwTarget := iodTargets ++ dieTargets ++ islTargets

/-- Every run of the stage ends with it (R469). -/
def closeRuns (s : State) : State := forAll s (allTargets.filter (fun t => (fwl s t).run.isSome)) closeRun

/-- The firewalls of a die lose their regions and locks with its reset, once the runs they count have been entered (R469). -/
def dropFws (s : State) (lo n : Nat) : State :=
  let mine := fun (k : Nat) => lo ≤ k && k < lo + n
  let s := forAll s (allTargets.filter (fun t => mine (fwNum t) && (fwl s t).run.isSome)) closeRun
  { s with fws := s.fws.filter (fun e => !mine e.1) }

/-- A write to a region register: ignored with a flag while the region is enabled or locked (R471). -/
def regionWrite (f : Firewall) (off : Nat) (v : Word) : Firewall :=
  let r := (off - 0x100) / 0x40
  let o := (off - 0x100) % 0x40
  let g := bankGet defRegion f.regions r
  let put := fun g' => { f with regions := bankSet defRegion f.regions r g' }
  if off < 0x100 || 0x1100 ≤ off then f
  else if o ≠ 0 && o ≠ 4 && o ≠ 8 && o < 0x20 then f
  else if g.lock then { f with lockwr := true, busywr := f.busywr || (g.en && o ≠ 8) }
  else if o = 8 then put { g with en := tbit v 31, lock := tbit v 30, w := tbit v 1, r := tbit v 0 }
  else if g.en then { f with busywr := true }
  else if o = 0 then put { g with base := fld v 22 0 }
  else if o = 4 then put { g with size := fld v 22 0 }
  else
    let k := (o - 0x20) / 4
    let mask : Nat := (2 ^ 32 - 1) <<< (32 * k)
    put { g with allow := BitVec.ofNat 256 ((g.allow.toNat &&& (2 ^ 256 - 1 - mask)) ||| (v.toNat <<< (32 * k))) }

def islandLivery (l : Byte) : Bool := l == 0x0A || l == 0x0B

/-- The FWL block of the die that holds a target (R467). -/
def fwlBlock : FwTarget → FwTarget
  | .iod _ => .iod 12
  | .die n _ => .die n 10
  | .island i _ => .island i 6

/-- The row index of a target in its table (13, after R471). -/
def tgtIdx : FwTarget → Nat
  | .iod t => t
  | .die _ t => t
  | .island _ t => t

/-- A W1C write to FWL_STAT (Table 13-4). -/
def fwlStatClr (f : Firewall) (v : Word) : Firewall :=
  { f with busywr := f.busywr && !tbit v 2, lockwr := f.lockwr && !tbit v 1, refd := f.refd && !tbit v 0 }

end Sys2Proof.Machine
end

