-- ==== Sys2Proof/Machine/Flags.lean ====
section
/-! DEFINITION. The words of status, result and count registers, packed from the fields that State holds, and the W1C
effects of a write to a status register (00 R10). Packings that an opcode needs earlier stand with their block. -/

namespace Sys2Proof.Machine

/-! MPL (08, Tables 8-10 to 8-22). -/

/-- MPL_STAT (Table 8-10). -/
def mplStat (m : Mpl) : Word :=
  toW (flagAt m.mism 11 + flagAt m.fieldv 10 + flagAt m.busywr 9 + flagAt m.badcfg 8 + m.st)

def mplStatClr (m : Mpl) (v : Word) : Mpl :=
  { m with mism := m.mism && !tbit v 11, busywr := m.busywr && !tbit v 9, badcfg := m.badcfg && !tbit v 8 }

/-- A build runs. -/
def building (m : Mpl) : Bool := m.search.elim false (·.building)

/-- MPL_FIELD (Table 8-16). -/
def mplField (m : Mpl) : Word := toW (at_ m.gen 8 + flagAt (building m) 1 + flagAt m.front 0)

/-- MPL_RESULT (Table 8-18). -/
def mplResult (m : Mpl) : Word := toW (at_ m.sstat 24 + at_ m.gstat 16 + at_ m.cands 8 + at_ m.grank 4 + m.reason)

/-- MPL_QLOSS (Table 8-21). -/
def mplQloss (m : Mpl) : Word := toW (at_ m.evict 16 + m.drop)

/-- MPL_CKSTAT (Table 8-22). -/
def mplCkstat (m : Mpl) : Word := toW (at_ m.maxns 20 + at_ m.ckMism 12)

/-- The words of MPL_STATUS (Table 8-8). -/
def mplWords (m : Mpl) : List Word :=
  [mplStat m, mplField m] ++ two m.ref ++ [mplResult m, toW m.pops, toW m.qpeak, mplQloss m, mplCkstat m]

/-- MPL_CTL.clrck (Table 8-15). -/
def mplClrck (m : Mpl) : Mpl := { m with maxns := 0, ckMism := 0 }

/-! LNK (01, Tables 1-13 to 1-18). -/

def lnkStat (d : Die) : Word :=
  toW (flagAt d.spdown 26 + flagAt d.scdown 25 + flagAt d.pcdown 24 + flagAt d.spup 2 + flagAt d.scup 1 + flagAt d.pcup 0)

def lnkStatClr (d : Die) (v : Word) : Die :=
  { d with spdown := d.spdown && !tbit v 26, scdown := d.scdown && !tbit v 25, pcdown := d.pcdown && !tbit v 24 }

def lnkRetry (d : Die) : Word := toW (at_ d.retrySp 20 + at_ d.retrySc 10 + d.retryPc)

/-- LNK_SPUP, the IOD ends. -/
def lnkSpup (s : State) : Word :=
  toW (flagAt s.sib.linkUp 17 + flagAt s.sia.linkUp 16 + dieMask (fun n => (die s n).spup))

def lnkSpdown (x : Iod) : Word := toW (at_ x.isldown.toNat 16 + x.spdown.toNat)

def lnkSpdownClr (x : Iod) (v : Word) : Iod :=
  { x with spdown := x.spdown &&& ~~~(v.extractLsb' 0 12), isldown := x.isldown &&& ~~~(v.extractLsb' 16 2) }

/-! HPT (03, Tables 3-4, 3-8); HPT_RPEND, HPT_ALERT stand with the port. -/

def hptErrcnt (h : Hpt) : Word := toW (at_ h.stale 16 + h.badchk)

def hptStatClr (h : Hpt) (v : Word) : Hpt :=
  { h with short := h.short && !tbit v 4, ovf := h.ovf && !tbit v 3, badtx := h.badtx && !tbit v 2 }

/-! TE (04, Tables 4-12 to 4-18; 05, Table 5-9; 14, Table 14-9). -/

def teId (g : Nat) : Word := toW (at_ (dieOf g) 12 + at_ (g % 8) 8 + g)

def teStat (e : Engine) : Word :=
  toW (flagAt e.badcfg 11 + flagAt e.busywr 10 + flagAt e.halo 9 + flagAt e.wserr 8 + flagAt e.dcrc 7 + flagAt e.fwl 6 +
    flagAt e.chk 5 + e.st)

def teStatClr (e : Engine) (v : Word) : Engine :=
  { e with
    badcfg := e.badcfg && !tbit v 11, busywr := e.busywr && !tbit v 10, halo := e.halo && !tbit v 9
    wserr := e.wserr && !tbit v 8, dcrc := e.dcrc && !tbit v 7, fwl := e.fwl && !tbit v 6, chk := e.chk && !tbit v 5 }

/-- Busy for R13: RUN, CLEAR, SELFTEST and WAIT (after Table 4-13). -/
def teBusy (e : Engine) : Bool := e.st == 2 || e.st == 3 || e.st == 4 || e.st == 6

def teCfg (e : Engine) : Word := toW (flagAt e.ovl 12 + e.ftol)

/-- A write to TE_CFG (R13, R175): while the engine is busy it sets busywr alone (DESIGN CHOICE, log entry 174). -/
def teCfgSet (e : Engine) (v : Word) : Engine :=
  let f := fld v 4 0
  if teBusy e then { e with busywr := true }
  else if f < 8 || 24 < f then { e with badcfg := true }
  else { e with ovl := tbit v 12, ftol := f }

def teBind (e : Engine) : Word := toW (flagAt e.bound 31 + at_ e.bctx 20 + e.bqueue)

def teChkstat (e : Engine) : Word := toW (at_ e.wscnt 24 + at_ e.rescnt 16 + at_ e.abftcnt 8)

def teNumcnt (e : Engine) : Word := toW (at_ e.sat 16 + at_ e.nan 4)

/-- TE_STEST at a stage (Table 14-9). -/
def teStest (stage : Nat) (e : Engine) : Word :=
  toW (at_ e.stDefer 24 + at_ (min 3 (histCount 1000 stage e.mismAt)) 22 +
    at_ (min 3 (histCount 100000 stage e.wdrawAt)) 20 + at_ e.stSince 8 + at_ e.stSlice 4 + flagAt e.stFail 3 +
    flagAt e.stOut 2)

/-! KPM (07, Table 7-9). -/

def kpmStat (k : Kpm) : Word :=
  toW (flagAt k.noalloc 5 + flagAt k.dcrc 4 + flagAt k.sat 3 + flagAt k.under 2 + flagAt k.ready 0)

def kpmStatClr (k : Kpm) (v : Word) : Kpm :=
  { k with
    noalloc := k.noalloc && !tbit v 5, dcrc := k.dcrc && !tbit v 4, sat := k.sat && !tbit v 3
    under := k.under && !tbit v 2 }

/-! FUS (09, Tables 9-11 to 9-22). -/

/-- FUS_STAT: OFF until the IOD core starts it, ROUND while a round runs. -/
def fusStat (f : Fus) : Word :=
  toW (flagAt f.pub 12 + flagAt f.ovr 11 + flagAt f.abort 10 + flagAt f.busywr 9 + flagAt f.badcfg 8 + flagAt f.egoconf 7 +
    flagAt f.egohold 6 + (if !f.ready then 0 else if f.round.isSome then 2 else 1))

def fusStatClr (f : Fus) (v : Word) : Fus :=
  { f with
    ovr := f.ovr && !tbit v 11, abort := f.abort && !tbit v 10, busywr := f.busywr && !tbit v 9
    badcfg := f.badcfg && !tbit v 8 }

def fusSync (f : Fus) : Word := toW (at_ f.syncCtx 16 + f.syncObj)

/-! QMG (10, Tables 10-7 to 10-13). -/

def qmgStat (q : Qmg) : Word :=
  toW (at_ (q.rebinds.filter (fun r => !r.done)).length 8 + flagAt q.dberr 7 + flagAt q.relayab 6 + flagAt q.mirrorRun 5 +
    flagAt q.ready 0)

def qmgStatClr (q : Qmg) (v : Word) : Qmg :=
  { q with dberr := q.dberr && !tbit v 7, relayab := q.relayab && !tbit v 6 }

def qmgTable (q : Qmg) : Word := toW (at_ q.mirror 8 + q.primary)

def qmgRelay (q : Qmg) : Word := toW (flagAt q.tight 16 + at_ q.count 8 + q.interval)

/-- Bit i for engine 32 n + i of a list (Table 10-10). -/
def engMask (l : List EngId) (n : Nat) : Word :=
  toW ((List.range 32).map (fun i => flagAt (l.any (fun g => g.val == 32 * n + i)) i)).sum

def qmgOut (q : Qmg) (n : Nat) : Word := engMask q.out n

def qmgReb (q : Qmg) (n : Nat) : Word := engMask ((q.rebinds.filter (fun r => r.done)).map (fun r => r.eng)) n

def qmgCtxstat (c : CtxRec) : Word :=
  toW (flagAt c.exists_ 31 + flagAt c.pre 30 + flagAt c.ppend 29 + at_ c.livery.toNat 21 + c.qcount)

/-! SYN (11, Tables 11-3 to 11-6). -/

def synStat (y : Syn) : Word :=
  toW (flagAt y.badsig 8 + flagAt y.nores 7 + flagAt y.under 6 + flagAt y.sat 5 + flagAt y.orphan 4 + flagAt y.ready 0)

def synStatClr (y : Syn) (v : Word) : Syn :=
  { y with
    badsig := y.badsig && !tbit v 8, nores := y.nores && !tbit v 7, under := y.under && !tbit v 6
    sat := y.sat && !tbit v 5, orphan := y.orphan && !tbit v 4 }

def synHwait (s : State) : Word := toW (at_ s.syn.peak 16 + hostWaits s)

def synOrphcnt (y : Syn) : Word := toW (y.objs.filter (fun e => e.2.st == 2)).length

/-! MCT (12, Tables 12-5 to 12-12). -/

def mctStat (m : Mct) : Word :=
  toW (flagAt m.hot 8 + flagAt m.frcref 7 + flagAt m.ue 6 + flagAt m.ce 5 + flagAt m.badcfg 4 + m.st)

def mctStatClr (m : Mct) (v : Word) : Mct :=
  { m with
    frcref := m.frcref && !tbit v 7, ue := m.ue && !tbit v 6, ce := m.ce && !tbit v 5, badcfg := m.badcfg && !tbit v 4 }

def mctEcc (m : Mct) : Word := toW (at_ m.ceCnt 16 + m.ueCnt)

def mctRefstat (m : Mct) : Word := toW (at_ m.forced 16 + m.peak)

/-! FWL (13, Tables 13-4 to 13-10). -/

def fwlStat (f : Firewall) : Word := toW (flagAt f.busywr 2 + flagAt f.lockwr 1 + flagAt f.refd 0)

/-- A firewall register by its offset from the target's base. -/
def fwlRead (f : Firewall) (off : Nat) : Word :=
  if off = 0 then fwlStat f
  else if off = 4 then toW f.refcnt
  else if off = 8 then f.lastLo
  else if off = 0xC then f.lastHi
  else if off < 0x100 || 0x1100 ≤ off then 0
  else
    let r := bankGet defRegion f.regions ((off - 0x100) / 0x40)
    match (off - 0x100) % 0x40 with
    | 0 => toW r.base
    | 4 => toW r.size
    | 8 => toW (flagAt r.en 31 + flagAt r.lock 30 + flagAt r.w 1 + flagAt r.r 0)
    | o => if o < 0x20 then 0 else toW ((r.allow.toNat >>> (8 * (o - 0x20))) % 2 ^ 32)

/-! CLK, RST (16, Tables 16-14 to 16-17). -/

def clkSrcstat (c : Clk) : Word :=
  toW (flagAt (!c.ramp.isEmpty) 12 + flagAt c.hold 11 + flagAt c.auto 10 + flagAt c.xlost 5 + flagAt c.r1lost 4 +
    flagAt c.r0lost 3 + flagAt c.xready 2 + flagAt c.r1ready 1 + flagAt c.r0ready 0)

def clkSrcstatClr (c : Clk) (v : Word) : Clk :=
  { c with
    hold := c.hold && !tbit v 11, auto := c.auto && !tbit v 10, xlost := c.xlost && !tbit v 5
    r1lost := c.r1lost && !tbit v 4, r0lost := c.r0lost && !tbit v 3 }

/-- The source of a group; XREF at reset (Table 16-15). -/
def clkSrc (c : Clk) (g : Nat) : Nat := bankGet 2 c.src g

def clkSrcsel (c : Clk) : Word := toW ((List.range 13).map (fun g => at_ (clkSrc c g) (2 * g))).sum

/-- Leaves of a group (Table 16-9). -/
def leaves (g : Nat) : Nat := if g = 12 then 8 else 11

/-- CLK_GATESTATg: the open leaves (Table 16-16). -/
def gateStat (c : Clk) (g : Nat) : Word := toW (2 ^ leaves g - 1 - bankGet 0 c.gates g)

/-- A compute die is in reset or restarting until it is ready (Table 16-17). -/
def restarting (d : Die) : Bool := d.inReset || !(d.inService || d.readyRe || d.excluded)

def rstStat (s : State) : Word :=
  toW (flagAt s.sia.mgtm 23 + at_ s.iod.straps.toNat 20 + at_ s.iod.cause 16 + flagAt s.edgeB.inReset 13 +
    flagAt s.edgeA.inReset 12 + dieMask (fun n => restarting (die s n)))

/-! ORP, APH, ETH, PCE (17, Tables 17-10 to 17-17). -/

def orpStat (e : RingEdge) : Word :=
  toW (flagAt e.lost 9 + flagAt e.moved 8 + flagAt e.sync 5 + flagAt e.linkup 4 + flagAt e.txready 3 + flagAt e.rxlock 2 +
    e.bypass)

def orpStatClr (e : RingEdge) (v : Word) : RingEdge := { e with lost := e.lost && !tbit v 9, moved := e.moved && !tbit v 8 }

def orpErrcnt (e : RingEdge) : Word := toW (at_ e.fcserr 16 + e.drop)

def aphStat (x : Iod) : Word := toW (at_ x.aphDown.toNat 16 + x.aphUp.toNat)

def ethStat (x : Iod) : Word := toW (at_ x.ethDown.toNat 16 + x.ethUp.toNat)

def pceStat (x : Iod) : Word := toW (flagAt x.pceDrop 8 + at_ x.pceWidth 4 + at_ x.pceSpeed 1 + flagAt x.pceUp 0)

/-! THM (18, Tables 18-6 to 18-11). -/

def thmLid (x : Island) : Word := toW (at_ (tc 16 x.inlet) 16 + tc 16 x.outlet)

def thmFlow (x : Island) : Word := toW (flagAt x.sampleOk 31 + at_ x.dp 16 + x.flow)

def thmTj (logic hbm : Int) : Word := toW (at_ (tc 16 logic) 16 + tc 16 hbm)

def thmAge (degr hot : Nat) : Word := toW (at_ degr 16 + hot)

/-! The island blocks' own (14, Tables 14-10, 14-11). -/

def sisBook (x : Island) : Word := toW (at_ (min 255 x.pendBook.length) 24 + x.logbook.length)

end Sys2Proof.Machine
end

