-- ==== Sys2Proof/Machine/Cvu.lean ====
section
/-! DEFINITION. The check-value units (15): the CRC calculation, feeding, alive counters, ownership, the class 0x8 opcodes
and the register writes that act on a unit. -/

namespace Sys2Proof.Machine

/-! The calculation (R524-R526). -/

def cvuPoly (c : Cvu) : Nat := join64 c.polyLo c.polyHi
def cvuInit (c : Cvu) : Nat := join64 c.initLo c.initHi
def cvuWidth (c : Cvu) : Nat := fld c.cfg 6 0

/-- R524 for a width, polynomial and initial value. -/
def cvuValid (w poly init : Nat) : Bool := 8 ≤ w && w ≤ 64 && poly % 2 == 1 && poly < 2 ^ w && init < 2 ^ w

def cvuOk (c : Cvu) : Bool := cvuValid (cvuWidth c) (cvuPoly c) (cvuInit c)

/-- The low `w` bits reversed. -/
def reflectBits : Nat → Nat → Nat
  | 0, _ => 0
  | w + 1, v => (v % 2) * 2 ^ w + reflectBits w (v / 2)

/-- One bit of a fed byte (R525): bit `k - 1` is next. -/
def crcBits (w poly b : Nat) : Nat → Nat → Nat
  | 0, r => r
  | k + 1, r =>
    let top := r.testBit (w - 1) != b.testBit k
    let r := (2 * r) % 2 ^ w
    crcBits w poly b k (if top then r ^^^ poly else r)

/-- One fed byte. -/
def cvuByte (c : Cvu) (r : Nat) (b : Byte) : Nat :=
  crcBits (cvuWidth c) (cvuPoly c) (if tbit c.cfg 8 then reflectBits 8 b.toNat else b.toNat) 8 r

/-- The message register: the initial value while the unit is IDLE (R528). -/
def cvuReg (c : Cvu) : Nat := if c.opened then c.reg.toNat else cvuInit c

/-- The result over the bytes fed so far (R525); bits at and above the width read 0, and an invalid configuration, which takes no
byte, gives that over none (R526, R528). -/
def cvuRes (c : Cvu) : Nat :=
  let w := cvuWidth c
  let r := if tbit c.cfg 9 then reflectBits w (cvuReg c) else cvuReg c
  (if tbit c.cfg 10 then r ^^^ (2 ^ w - 1) else r) % 2 ^ w

def cvuResult (c : Cvu) : List Word := two (cvuRes c)

/-! Feeding (R527, R528, R531). -/

def cvuFeed (c : Cvu) (bs : List Byte) : Cvu :=
  if bs.isEmpty then c
  else if !c.opened && !cvuOk c then { c with badcfg := true }
  else { c with
    opened := true, reg := BitVec.ofNat 64 (bs.foldl (cvuByte c) (cvuReg c)), count := satAdd 0xFFFFFFFF c.count bs.length }

/-- The message ends: the register holds the initial value, the unit is IDLE (R531). -/
def cvuEnd (c : Cvu) : Cvu := { c with opened := false, reg := 0, count := 0 }

/-- A configuration write: taken in IDLE only (R530). -/
def cvuCfgWrite (c : Cvu) (f : Cvu → Cvu) : Cvu := if c.opened then { c with busywr := true } else f c

/-- CVU_CFG without its reserved bits. -/
def cvuCfgMask (w : Word) : Word := w &&& 0x0000077F

/-! Alive counters (R533, R534). -/

def cvuLoad (c : Cvu) (v : Word) : Cvu := { c with send := tbit v 8, value := BitVec.ofNat 8 (fld v 7 0) }

def cvuCheck (c : Cvu) (a : BitVec 8) : Cvu :=
  if c.send then c
  else if a = c.value then { c with value := c.value + 1, alres := 0 }
  else if a = c.value - 1 then { c with repCnt := satAdd 65535 c.repCnt 1, rep := true, alres := 1 }
  else { c with
    value := a + 1, skipCnt := satAdd 65535 c.skipCnt 1, skip := true, gap := (a - c.value).toNat, alres := 2 }

def cvuAdvance (c : Cvu) : Cvu := if c.send then { c with value := c.value + 1 } else c

/-! Register words (Tables 15-2, 15-9, 15-11). -/

def cvuStat (c : Cvu) : Word :=
  toW (at_ c.gap 16 + at_ c.alres 8 + flagAt c.skip 7 + flagAt c.rep 6 + flagAt c.busywr 5 + flagAt c.badcfg 4 + b2n c.opened)

def cvuStatClr (c : Cvu) (v : Word) : Cvu :=
  { c with
    skip := c.skip && !tbit v 7, rep := c.rep && !tbit v 6, busywr := c.busywr && !tbit v 5, badcfg := c.badcfg && !tbit v 4 }

def cvuAlive (c : Cvu) : Word := toW (flagAt c.send 8 + c.value.toNat)

def cvuAlcnt (c : Cvu) : Word := toW (at_ c.skipCnt 16 + c.repCnt)

/-- The five configuration registers (Tables 15-3, 15-4). -/
def cvuPut (reg : Nat) (v : Word) (c : Cvu) : Cvu :=
  match reg with
  | 0 => { c with cfg := cvuCfgMask v }
  | 1 => { c with polyLo := v }
  | 2 => { c with polyHi := v }
  | 3 => { c with initLo := v }
  | _ => { c with initHi := v }

/-! Ownership (R535, R536). -/

/-- The context that the active timetable gives a unit. -/
def cvuOwner (t : Option Timetable) (k : Nat) : Nat :=
  (t.bind (fun t => t.body.contexts.find? (fun d => d.cvus.any (fun u => u.val == k)))).elim 0 (fun d => d.id.val)

/-- The units at a switch: one whose owner is carried and the same in both timetables keeps its state (R536). -/
def switchCvus (s : State) (old new : Option Timetable) (carry : List CtxId) : State :=
  forAll s (List.range 64) (fun s k =>
    let a := cvuOwner old k
    let b := cvuOwner new k
    if a = b && carry.any (fun c => c.val == a) then s else setCvu s k { owner := b })

/-! Class 0x8 (Table 15-1). -/

/-- A unit named in bits 5:0 that belongs to the packet's context (R537). -/
def ownsCvu (s : State) (k : Pkt) (u : Nat) : Bool := (cvu s u).owner == pktCtx k

/-- The first word that breaks R524 or has reserved bits set. -/
def cvuCfgBad (k : Pkt) : Option Nat :=
  let w := fld (par k 1) 6 0
  let poly := par64 k 2
  let init := par64 k 4
  if par k 1 &&& 0xFFFFF880 ≠ 0 || w < 8 || 64 < w then some 5
  else if poly % 2 = 0 || 2 ^ w ≤ poly % 2 ^ 32 then some 6
  else if 2 ^ w ≤ poly then some 7
  else if 2 ^ w ≤ init % 2 ^ 32 then some 8
  else if 2 ^ w ≤ init then some 9
  else none

/-- CVU_CFG. -/
def rowCvuCfg : OpDef :=
  opDef (fixedRow 8 0 6) (fun s k =>
    let u := parN k 0
    if 63 < u then .refuse stBadParam 10 4
    else if !ownsCvu s k u then .refuse stFirewall 10 4
    else match cvuCfgBad k with
      | some i => .refuse stBadParam 10 i
      | none =>
        if (cvu s u).opened then .refuse stRefusedInUse 11 0xFFFF
        else .answer stOk [] (modCvu s u (fun c => { cvuEnd c with
          cfg := par k 1, polyLo := par k 2, polyHi := par k 3, initLo := par k 4, initHi := par k 5 })))

/-- CVU_FEED. -/
def rowCvuFeed : OpDef :=
  opDef { cls := 8, op := 1, lenIdx := 5, lenOk := fun k => pktLen k = 2 + cdiv (parN k 1) 4 } (fun s k =>
    let u := parN k 0
    let n := parN k 1
    if 63 < u then .refuse stBadParam 10 4
    else if !ownsCvu s k u then .refuse stFirewall 10 4
    else if 65508 < n then .refuse stBadParam 10 5
    else if !(cvu s u).opened && !cvuOk (cvu s u) then .refuse stBadParam 10 4
    else if n = 0 then .answer stOkEmpty [] s
    else .answer stOk [toW n] (modCvu s u (fun c => cvuFeed c ((wordsBytes (parsFrom k 2)).take n))))

/-- The result words and the count. -/
def resultVerdict (after : Cvu → Cvu) (s : State) (k : Pkt) : Verdict :=
  let u := fld (par k 0) 5 0
  if fld (par k 0) 30 6 ≠ 0 then .refuse stBadParam 10 4
  else if !ownsCvu s k u then .refuse stFirewall 10 4
  else .answer stOk (cvuResult (cvu s u) ++ [toW (cvu s u).count]) (modCvu s u after)

/-- CVU_RESULT with bit 31 clear. -/
def rowCvuResult : OpDef :=
  opDef { fixedRow 8 2 1 with sel := fun k => !tbit (par k 0) 31 } (resultVerdict id)

/-- CVU_RESULT with bit 31 set: the message then ends. -/
def rowCvuResultReset : OpDef :=
  opDef { fixedRow 8 2 1 with sel := fun k => tbit (par k 0) 31 } (resultVerdict cvuEnd)

/-- CVU_ALIVE with an operation: the mask of the second word's reserved bits, the mode it needs, its effect. -/
def aliveVerdict (rsv : Word) (ready : Cvu → Bool) (f : Cvu → Word → Cvu) (s : State) (k : Pkt) : Verdict :=
  let u := fld (par k 0) 5 0
  if par k 0 &&& 0xFFFFFCC0 ≠ 0 then .refuse stBadParam 10 4
  else if !ownsCvu s k u then .refuse stFirewall 10 4
  else if par k 1 &&& rsv ≠ 0 then .refuse stBadParam 10 5
  else if !ready (cvu s u) then .refuse stNotReady 11 0xFFFF
  else
    let c := f (cvu s u) (par k 1)
    .answer stOk [cvuAlive c, cvuStat c] (setCvu s u c)

def aliveRow (op : Nat) : OpRow := { fixedRow 8 3 2 with sel := fun k => fld (par k 0) 9 8 == op }

def rowCvuAliveRead : OpDef :=
  opDef (aliveRow 0) (aliveVerdict 0xFFFFFFFF (fun _ => true) (fun c _ => c))

def rowCvuAliveLoad : OpDef :=
  opDef (aliveRow 1) (aliveVerdict 0xFFFFFE00 (fun _ => true) cvuLoad)

/-- A check that finds a repeat or a skip answers ST_STALE_ALIVE with the two words. -/
def rowCvuAliveCheck : OpDef :=
  opDef (aliveRow 2) (fun s k =>
    match aliveVerdict 0xFFFFFF00 (fun c => !c.send) (fun c v => cvuCheck c (BitVec.ofNat 8 (fld v 7 0))) s k with
    | .answer _ data t => .answer (if (cvu t (fld (par k 0) 5 0)).alres = 0 then stOk else stStaleAlive) data t
    | v => v)

def rowCvuAliveAdvance : OpDef :=
  opDef (aliveRow 3) (aliveVerdict 0xFFFFFFFF (fun c => c.send) (fun c _ => cvuAdvance c))

end Sys2Proof.Machine
end

