-- ==== Sys2Proof/Machine/Floats.lean ====
section
/-! DEFINITION. The number formats of the compute path (05; Table 4-5): exact values, rounding, FP32 operations,
conversions and the counts of TE_NUMCNT. -/

namespace Sys2Proof.Machine

/-- An exact floating value: `fin neg m e` is ± m × 2^e, and `m = 0` is a zero with its sign. -/
inductive Fl where
  | nan
  | inf (neg : Bool)
  | fin (neg : Bool) (m : Nat) (e : Int)
  deriving DecidableEq, Repr

/-- An element as an operation reads it: an integer, a floating value, or the code of HXL8 (R187), whose zero is `fl +0`. -/
inductive Num where
  | int (v : Int)
  | fl (x : Fl)
  | log (neg : Bool) (l : Int)
  deriving DecidableEq, Repr

/-- Counts toward TE_NUMCNT (Table 5-9). -/
structure Cnt where
  sat : Nat := 0
  nan : Nat := 0
  deriving DecidableEq, Repr

def Cnt.add (a b : Cnt) : Cnt := { sat := a.sat + b.sat, nan := a.nan + b.nan }
def cnt0 : Cnt := {}
def cntSat : Cnt := { sat := 1 }
def cntNan : Cnt := { nan := 1 }

/-- Map with counts. -/
def tally {α β : Type} (f : α → β × Cnt) (l : List α) : List β × Cnt :=
  l.foldr (fun a r => let x := f a; (x.1 :: r.1, x.2.add r.2)) ([], cnt0)

def fzero : Fl := .fin false 0 0
def fone : Fl := .fin false 1 0
def flNan : Fl → Bool
  | .nan => true
  | _ => false

def flZero : Fl → Bool
  | .fin _ 0 _ => true
  | _ => false

def flNeg : Fl → Bool
  | .nan => false
  | .inf n => n
  | .fin n _ _ => n

/-! Exact arithmetic. -/

/-- ± m. -/
def sgn (neg : Bool) (m : Nat) : Int := if neg then -(m : Int) else m

/-- The signed value of `fin` in units of 2^q, `q ≤ e`. -/
def inUnits (neg : Bool) (m : Nat) (e q : Int) : Int := sgn neg (m <<< (e - q).toNat)

/-- Exact sum; opposite infinities give NaN, a cancelled sum is +0 (R184). -/
def faddX : Fl → Fl → Fl
  | .nan, _ => .nan
  | _, .nan => .nan
  | .inf a, .inf b => if a = b then .inf a else .nan
  | .inf a, .fin _ _ _ => .inf a
  | .fin _ _ _, .inf b => .inf b
  | .fin s m e, .fin t n f =>
    let q := min e f
    let v := inUnits s m e q + inUnits t n f q
    if v = 0 then .fin (s && t) 0 0 else .fin (v < 0) v.natAbs q

/-- Exact product; zero times infinity gives NaN. -/
def fmulX : Fl → Fl → Fl
  | .nan, _ => .nan
  | _, .nan => .nan
  | .inf a, .inf b => .inf (a != b)
  | .inf a, .fin s m _ => if m = 0 then .nan else .inf (a != s)
  | .fin s m _, .inf b => if m = 0 then .nan else .inf (s != b)
  | .fin s m e, .fin t n f => .fin (s != t) (m * n) (e + f)

def fneg : Fl → Fl
  | .nan => .nan
  | .inf a => .inf !a
  | .fin s m e => .fin (!s) m e

/-- `x < y` for values that are not NaN; zeros are equal. -/
def flLt : Fl → Fl → Bool
  | .nan, _ => false
  | _, .nan => false
  | .inf a, .inf b => a && !b
  | .inf a, .fin _ _ _ => a
  | .fin _ _ _, .inf b => !b
  | .fin s m e, .fin t n f => inUnits s m e (min e f) < inUnits t n f (min e f)

/-! Rounding. -/

/-- A significand and exponent brought to a quantum of 2^q, to nearest even or toward zero. -/
def toQuantum (trunc : Bool) (m : Nat) (e q : Int) : Nat × Int :=
  if q ≤ e then (m, e)
  else
    let d := (q - e).toNat
    (if trunc then m >>> d else (rhe m (2 ^ d)).toNat, q)

/-- The exponent of the leading bit. -/
def topExp (m : Nat) (e : Int) : Int := Nat.log2 m + e

/-- A floating format of Table 5-2. -/
structure FpFmt where
  ebits  : Nat
  mbits  : Nat
  bias   : Nat
  hasInf : Bool
  flush  : Bool
  nanCode : Nat

def fpE4m3 : FpFmt := { ebits := 4, mbits := 3, bias := 7, hasInf := false, flush := false, nanCode := 0x7F }
def fpE5m2 : FpFmt := { ebits := 5, mbits := 2, bias := 15, hasInf := true, flush := false, nanCode := 0x7E }
def fpF16 : FpFmt := { ebits := 5, mbits := 10, bias := 15, hasInf := true, flush := false, nanCode := 0x7E00 }
def fpBf16 : FpFmt := { ebits := 8, mbits := 7, bias := 127, hasInf := true, flush := true, nanCode := 0x7FC0 }
def fpF32 : FpFmt := { ebits := 8, mbits := 23, bias := 127, hasInf := true, flush := true, nanCode := 0x7FC00000 }

/-- The exponent of the smallest normal value. -/
def minExp (f : FpFmt) : Int := 1 - (f.bias : Int)

/-- The largest finite value as significand and exponent. -/
def maxFin (f : FpFmt) : Nat × Int :=
  if f.hasInf then (2 ^ (f.mbits + 1) - 1, (2 ^ f.ebits : Int) - 2 - f.bias - f.mbits)
  else (2 ^ (f.mbits + 1) - 2, (2 ^ f.ebits : Int) - 1 - f.bias - f.mbits)

/-- `m × 2^e` lies above the largest finite value. -/
def tooBig (f : FpFmt) (m : Nat) (e : Int) : Bool := flLt (.fin false (maxFin f).1 (maxFin f).2) (.fin false m e)

/-- A finite value rounded to a format's precision, subnormals flushed or produced under R182; no upper bound. -/
def rndFin (f : FpFmt) (trunc : Bool) (neg : Bool) (m : Nat) (e : Int) : Fl :=
  if m = 0 then .fin neg 0 0
  else
    let q := topExp m e - f.mbits
    if f.flush then
      let r := toQuantum trunc m e q
      if topExp r.1 r.2 < minExp f then .fin neg 0 0 else .fin neg r.1 r.2
    else
      let r := toQuantum trunc m e (max q (minExp f - f.mbits))
      .fin neg r.1 r.2

/-- FP32 result of an exact value, to nearest even; beyond the range an infinity (R191, R209). -/
def rnd32 : Fl → Fl
  | .nan => .nan
  | .inf a => .inf a
  | .fin s m e =>
    match rndFin fpF32 false s m e with
    | .fin s' m' e' => if tooBig fpF32 m' e' then .inf s' else .fin s' m' e'
    | x => x

/-- An FP32 operation of an exact result; a NaN made from operands that are none counts (Table 5-9). -/
def made (r : Fl) (ops : List Fl) : Fl × Cnt := (rnd32 r, if flNan r && !ops.any flNan then cntNan else cnt0)

def f32add (a b : Fl) : Fl × Cnt := made (faddX a b) [a, b]
def f32mul (a b : Fl) : Fl × Cnt := made (fmulX a b) [a, b]
/-- R209: one rounding. -/
def f32fma (a b c : Fl) : Fl × Cnt := made (faddX (fmulX a b) c) [a, b, c]

/-- R210. -/
def f32max (a b : Fl) : Fl :=
  if flNan a || flNan b then .nan
  else if flZero a && flZero b then .fin (flNeg a && flNeg b) 0 0
  else if flLt a b then b else a
def f32min (a b : Fl) : Fl :=
  if flNan a || flNan b then .nan
  else if flZero a && flZero b then .fin (flNeg a || flNeg b) 0 0
  else if flLt b a then b else a

/-! Conversion between values (R198-R202). -/

/-- To a floating format. -/
def cvtFl (f : FpFmt) (trunc : Bool) : Fl → Fl × Cnt
  | .nan => (.nan, cnt0)
  | .inf a => if f.hasInf then (.inf a, cnt0) else (.fin a (maxFin f).1 (maxFin f).2, cntSat)
  | .fin s m e =>
    match rndFin f trunc s m e with
    | .fin s' m' e' =>
      if tooBig f m' e' then (.fin s' (maxFin f).1 (maxFin f).2, cntSat) else (.fin s' m' e', cnt0)
    | x => (x, cnt0)

/-- Saturation of an integer to `n` bits (R199). -/
def satInt (n : Nat) (v : Int) : Int × Cnt :=
  let lo : Int := -(2 ^ (n - 1) : Nat)
  let hi : Int := (2 ^ (n - 1) : Nat) - 1
  if v < lo then (lo, cntSat) else if hi < v then (hi, cntSat) else (v, cnt0)

/-- To an integer of `n` bits. -/
def cvtInt (n : Nat) (trunc : Bool) : Fl → Int × Cnt
  | .nan => (0, cntNan)
  | .inf a => if a then (-(2 ^ (n - 1) : Nat), cntSat) else ((2 ^ (n - 1) : Nat) - 1, cntSat)
  | .fin s m e =>
    let r := toQuantum trunc m e 0
    satInt n (inUnits s r.1 r.2 (min r.2 0))

/-- An integer as an exact value. -/
def intFl (v : Int) : Fl := .fin (v < 0) v.natAbs 0

/-- Integer to FP32, to nearest even. -/
def intF32 (v : Int) : Fl := rnd32 (intFl v)

/-! Encodings (Tables 5-1, 5-2). -/

def fpDecode (f : FpFmt) (w : Nat) : Fl :=
  let s := w.testBit (f.ebits + f.mbits)
  let x := (w >>> f.mbits) % 2 ^ f.ebits
  let m := w % 2 ^ f.mbits
  if x = 2 ^ f.ebits - 1 && f.hasInf then (if m = 0 then .inf s else .nan)
  else if x = 2 ^ f.ebits - 1 && m = 2 ^ f.mbits - 1 then .nan
  else if x = 0 then (if m = 0 || f.flush then .fin s 0 0 else .fin s m (minExp f - f.mbits))
  else .fin s (2 ^ f.mbits + m) ((x : Int) - f.bias - f.mbits)

/-- The code of a value that the format represents; a NaN is the canonical one (R183). -/
def fpEncode (f : FpFmt) : Fl → Nat
  | .nan => f.nanCode
  | .inf s => flagAt s (f.ebits + f.mbits) + at_ (2 ^ f.ebits - 1) f.mbits
  | .fin s m e =>
    let sign := flagAt s (f.ebits + f.mbits)
    if m = 0 then sign
    else
      let t := topExp m e
      if t < minExp f then sign + (toQuantum true m e (minExp f - f.mbits)).1 <<< (e - (minExp f - f.mbits)).toNat
      else
        let x := (t + f.bias).toNat
        let k := Nat.log2 m
        let sig := if f.mbits ≤ k then m >>> (k - f.mbits) else m <<< (f.mbits - k)
        sign + at_ x f.mbits + (sig - 2 ^ f.mbits)

def f32Of (w : Word) : Fl := fpDecode fpF32 w.toNat
def f32To (x : Fl) : Word := toW (fpEncode fpF32 x)

/-! Format codes (Table 4-5). -/

abbrev fmtInt4 : Nat := 0x0
abbrev fmtInt8 : Nat := 0x1
abbrev fmtInt16 : Nat := 0x2
abbrev fmtE4m3 : Nat := 0x3
abbrev fmtE5m2 : Nat := 0x4
abbrev fmtF16 : Nat := 0x5
abbrev fmtBf16 : Nat := 0x6
abbrev fmtF32 : Nat := 0x7
abbrev fmtHxb4 : Nat := 0x8
abbrev fmtHxl8 : Nat := 0x9
abbrev fmtInt32 : Nat := 0xA

def isInt (f : Nat) : Bool := f ≤ 2 || f == 0xA
def isFp (f : Nat) : Bool := 3 ≤ f && f ≤ 7

def fpOf (f : Nat) : FpFmt :=
  match f with
  | 3 => fpE4m3
  | 4 => fpE5m2
  | 5 => fpF16
  | 6 => fpBf16
  | _ => fpF32

/-- Bits of an element; HXB4 elements are counted in blocks of 17 bytes. -/
def fmtBits (f : Nat) : Nat :=
  match f with
  | 0 => 4 | 1 => 8 | 2 => 16 | 3 => 8 | 4 => 8 | 5 => 16 | 6 => 16 | 7 => 32 | 8 => 4 | 9 => 8 | _ => 32

/-- Bytes of a row of `n` elements (R178, R179). -/
def rowBytes (f n : Nat) : Nat := if f = 8 then 17 * (n / 32) else cdiv (n * fmtBits f) 8

/-- Lines of a row of `n` elements. -/
def rowLines (f n : Nat) : Nat := cdiv (rowBytes f n) 128

/-! HXL8 (R187, R188, R205). -/

/-- T[j] = 2^(j/16) rounded to FP32, in units of 2^-23. -/
def logT : List Nat :=
  [8388608, 8760003, 9147842, 9552851, 9975792, 10417458, 10878679, 11360319, 11863283, 12388516, 12937002, 13509772,
    14107901, 14732511, 15384775, 16065917]

/-- ± T[j] × 2^i with L = 16 i + j. -/
def logFl (neg : Bool) (l : Int) : Fl := .fin neg (logT.getD (l.emod 16).toNat 0) (l.ediv 16 - 23)

/-- R205. -/
def toLog8 : Fl → Nat × Cnt
  | .nan => (0xC0, cntNan)
  | .inf s => ((if s then 0x80 else 0) + 63, cntSat)
  | .fin s m e =>
    if m = 0 then (0xC0, cnt0)
    else
      let k := topExp (m ^ 32) (32 * e)
      let l := (k + 1).ediv 2
      if l < -64 then (0xC0, cnt0)
      else if 63 < l then ((if s then 0x80 else 0) + 63, cntSat)
      else ((if s then 0x80 else 0) + tc 7 l, cnt0)

/-! HXB4 (R185, R186, R204). -/

/-- A block of an HXB4 row: its exponent byte and its 32 signed magnitudes. -/
structure Blk where
  e : Nat
  q : List Int
  deriving DecidableEq, Repr

def nibQ (n : Nat) : Int := sgn (n.testBit 3) (n % 8)

def blkOf (bs : List Byte) : Blk :=
  { e := (nthB bs 0).toNat
    q := (List.range 16).flatMap (fun i => let b := (nthB bs (1 + i)).toNat; [nibQ (b % 16), nibQ (b / 16)]) }

/-- An element's exact value; NaN in an invalid block (R185, R186). -/
def blkFl (b : Blk) (q : Int) : Fl := if b.e = 255 then .nan else .fin (q < 0) q.natAbs ((b.e : Int) - 127)

/-- The smallest e with 7 × 2^e ≥ m × 2^x (m > 0). -/
def blkExp (m : Nat) (x : Int) : Int :=
  let e0 := topExp m x - 2
  if flLt (.fin false 7 e0) (.fin false m x) then e0 + 1
  else if flLt (.fin false 7 (e0 - 1)) (.fin false m x) then e0 else e0 - 1

def absFl : Fl → Fl
  | .fin _ m e => .fin false m e
  | .inf _ => .inf false
  | .nan => .nan

/-- An HXB4 block of 17 bytes from 32 FP32 values (R204). -/
def mkBlk (xs : List Fl) : List Byte × Cnt :=
  let amax := xs.foldl (fun a x => match x with | .fin _ _ _ => if flLt a (absFl x) then absFl x else a | _ => a) fzero
  let e : Int := match amax with
    | .fin _ m x => if m = 0 then -127 else max (-127) (blkExp m x)
    | _ => -127
  let one : Fl → Nat × Cnt := fun x => match x with
    | .nan => (0, cntNan)
    | .inf s => ((if s then 0x8 else 0) + 7, cntSat)
    | .fin s m x =>
      let q := (toQuantum false m x e)
      let v := q.1 <<< (q.2 - e).toNat
      ((if s && v ≠ 0 then 0x8 else 0) + v, cnt0)
  let r := tally one xs
  (BitVec.ofNat 8 (e + 127).toNat :: (List.range 16).map (fun i =>
    BitVec.ofNat 8 (r.1.getD (2 * i) 0 + 16 * r.1.getD (2 * i + 1) 0)), r.2)

/-! Rows (R178, R179). -/

/-- The codes of a row of `n` elements of a format other than HXB4. -/
def rowCodes (f n : Nat) (bs : List Byte) : List Nat :=
  if f = 0 then (List.range n).map (fun i => ((nthB bs (i / 2)).toNat >>> (4 * (i % 2))) % 16)
  else
    let k := fmtBits f / 8
    (List.range n).map (fun i => leNat ((bs.drop (k * i)).take k))

/-- A row's bytes from its codes; the half of a last byte that holds no element is 0 (DESIGN CHOICE, log entry 175). -/
def codesRow (f : Nat) (cs : List Nat) : List Byte :=
  if f = 0 then (List.range (cdiv cs.length 2)).map (fun i =>
    BitVec.ofNat 8 (cs.getD (2 * i) 0 % 16 + 16 * (cs.getD (2 * i + 1) 0 % 16)))
  else cs.flatMap (fun c => natLe (fmtBits f / 8) c)

/-- One code as an element. -/
def codeNum (f c : Nat) : Num :=
  if isInt f then .int (sx (fmtBits f) c)
  else if f = 9 then
    let l := sx 7 c
    if c = 0xC0 then .fl fzero else .log (c.testBit 7) l
  else .fl (fpDecode (fpOf f) c)

/-- The blocks of an HXB4 row of `n` elements. -/
def rowBlks (n : Nat) (bs : List Byte) : List Blk := (List.range (n / 32)).map (fun i => blkOf ((bs.drop (17 * i)).take 17))

/-- Invalid blocks count once each (R186). -/
def badBlks (l : List Blk) : Cnt := { nan := (l.filter (fun b => b.e = 255)).length }

/-- The elements of a row. -/
def rowNums (f n : Nat) (bs : List Byte) : List Num × Cnt :=
  if f = 8 then
    let l := rowBlks n bs
    (l.flatMap (fun b => b.q.map (fun q => .fl (blkFl b q))), badBlks l)
  else ((rowCodes f n bs).map (codeNum f), cnt0)

/-- An element's exact floating value. -/
def numFl : Num → Fl
  | .int v => intFl v
  | .fl x => x
  | .log s l => logFl s l

/-- An element as FP32 arithmetic takes it (R182, R186, R188). -/
def numF32 (x : Num) : Fl := rnd32 (numFl x)

/-- An element converted to a format other than HXB4: its code (R198-R203, R205). -/
def numCode (f : Nat) (trunc : Bool) (x : Num) : Nat × Cnt :=
  if isInt f then
    let r := match x with
      | .int v => satInt (fmtBits f) v
      | y => cvtInt (fmtBits f) trunc (numFl y)
    (tc (fmtBits f) r.1, r.2)
  else if f = 9 then
    match x with
    | .log s l => ((if s then 0x80 else 0) + tc 7 l, cnt0)
    | y =>
      let v := cvtFl fpF32 false (numFl y)
      let r := toLog8 v.1
      (r.1, v.2.add r.2)
  else
    let r := cvtFl (fpOf f) trunc (numFl x)
    (fpEncode (fpOf f) r.1, r.2)

/-- The first `n` of a list and the rest, in blocks of 32. -/
def blocks32 {α : Type} : Nat → List α → List (List α)
  | 0, _ => []
  | n + 1, l => l.take 32 :: blocks32 n (l.drop 32)

/-- A row of elements converted to a format: its bytes (R203 for HXB4). -/
def numsRow (f : Nat) (trunc : Bool) (xs : List Num) : List Byte × Cnt :=
  if f = 8 then
    let v := tally (fun x => cvtFl fpF32 false (numFl x)) xs
    let b := tally mkBlk (blocks32 (xs.length / 32) v.1)
    (b.1.flatten, v.2.add b.2)
  else
    let r := tally (numCode f trunc) xs
    (codesRow f r.1, r.2)

/-! EXP, RECIP and RSQRT (R212-R215). -/

/-- e^y for y = t × 2^-400, by its series. -/
def expSeries : Nat → Nat → Int → Int → Int → Int
  | 0, _, _, _, acc => acc
  | k + 1, n, t, term, acc => expSeries k (n + 1) t (term * t / ((2 ^ 400 : Nat) * (n + 1 : Nat))) (acc + term)

def sqFix : Nat → Int → Int
  | 0, v => v
  | k + 1, v => sqFix k (v * v / (2 ^ 400 : Nat))

/-- e^x in units of 2^-400 for |x| ≤ 90; the error is below 2^-280, far below the distance of any value of e^x from a
bound of Table 5-7. -/
def expFix (s : Bool) (m : Nat) (e : Int) : Nat :=
  let t : Int := sgn s (if 0 ≤ e + 392 then m <<< (e + 392).toNat else m >>> (-(e + 392)).toNat)
  (sqFix 8 (expSeries 90 0 t (2 ^ 400 : Nat) 0)).toNat

/-- The FP32 values within reach of a value's floor: codes `c - 6` to `c + 6` that are finite and normal. -/
def codesNear (c : Nat) : List Nat := ((List.range 13).map (fun i => c + i - 6)).filter (fun k => 0x00800000 ≤ k && k < 0x7F800000)

/-- The significand and exponent of a positive normal FP32 code. -/
def codeParts (c : Nat) : Nat × Int := (2 ^ 23 + c % 2 ^ 23, (c / 2 ^ 23 : Int) - 150)

/-- |y - v| ≤ b units of 2^u for y = m × 2^e and v = n × 2^f. -/
def within (m : Nat) (e : Int) (n : Nat) (f : Int) (b : Nat) (u : Int) : Bool :=
  let q := min (min e f) u
  (inUnits false m e q - inUnits false n f q).natAbs ≤ b <<< (u - q).toNat

/-- One of the FP32 codes within `b` units in the last place of the exact value n × 2^f: which one the spec does not say
(R214, R215), the same for the same input. -/
def pickUlp (fn : Nat) (input : Nat) (n : Nat) (f : Int) (b : Nat) : Nat :=
  let t := topExp n f
  let c := fpEncode fpF32 (.fin false (toQuantum true n f (t - 23)).1 (t - 23))
  let l := (codesNear c).filter (fun k => within (codeParts k).1 (codeParts k).2 n f b (t - 23))
  l.getD (Config.vecPick fn input % max 1 l.length) c

/-- EXP of an FP32 value (Tables 5-6, 5-7). -/
def f32exp (x : Fl) : Fl × Cnt :=
  match x with
  | .nan => (.nan, cnt0)
  | .inf s => (if s then fzero else .inf false, cnt0)
  | .fin s m e =>
    if m = 0 then (fone, cnt0)
    else if flLt (.fin false 887228 0) (fmulX x (.fin false 10000 0)) then (.inf false, cnt0)
    else if flLt (fmulX x (.fin false 10000 0)) (.fin true 873365 0) then (fzero, cnt0)
    else (fpDecode fpF32 (pickUlp 6 (fpEncode fpF32 x) (expFix s m e) (-400) 2), cnt0)

/-- RECIP of an FP32 value; the quotient is taken to 200 bits below its leading one. -/
def f32recip (x : Fl) : Fl × Cnt :=
  match x with
  | .nan => (.nan, cnt0)
  | .inf s => (.fin s 0 0, cnt0)
  | .fin s m e =>
    if m = 0 then (.inf s, cnt0)
    else if flLt (.fin false 1 126) (.fin false m e) then (.fin s 0 0, cnt0)
    else
      let k := pickUlp 7 (fpEncode fpF32 x) (2 ^ 240 / m) (-240 - e) 1
      (fpDecode fpF32 (k + flagAt s 31), cnt0)

/-- RSQRT of an FP32 value; the root is taken to 200 bits. -/
def f32rsqrt (x : Fl) : Fl × Cnt :=
  match x with
  | .nan => (.nan, cnt0)
  | .inf s => if s then (.nan, cntNan) else (fzero, cnt0)
  | .fin s m e =>
    if m = 0 then (.inf s, cnt0)
    else if s then (.nan, cntNan)
    else
      let m' := if e % 2 = 0 then m else 2 * m
      let e' := if e % 2 = 0 then e else e - 1
      let k := pickUlp 8 (fpEncode fpF32 x) (isqrt (2 ^ 460 / m')) (-230 - e' / 2) 2
      (fpDecode fpF32 k, cnt0)

/-- 0.044715 and -1.5957691 of R216 as FP32. -/
def geluA : Fl := f32Of 0x3D372713
def geluB : Fl := f32Of 0xBFCC4229

/-- GELU by the steps of R216. -/
def f32gelu (x : Fl) : Fl × Cnt :=
  let a := f32mul x x
  let b := f32mul a.1 x
  let c := f32mul geluA b.1
  let u := f32add x c.1
  let z := f32mul geluB u.1
  let p := f32exp z.1
  let q := f32add fone p.1
  let r := f32recip q.1
  let y := f32mul x r.1
  (y.1, [a.2, b.2, c.2, u.2, z.2, p.2, q.2, r.2, y.2].foldl Cnt.add cnt0)

end Sys2Proof.Machine
end

