-- ==== Sys2Proof/Machine/Trig.lean ====
section
/-! DEFINITION. The cosine and sine constants of R296 and R477 in exact integer arithmetic, and the trajectory records of
Table 8-3 (08). -/

namespace Sys2Proof.Machine

/-- Power series of cosine and sine of an angle in units of 2^-p, term `n` first. -/
def trigSum (p theta : Nat) : Nat → Nat → Nat → Int → Int → Int × Int
  | 0, _, _, c, s => (c, s)
  | k + 1, n, term, c, s =>
    let term' := term * theta / 2 ^ p / (n + 1)
    match n % 4 with
    | 0 => trigSum p theta k (n + 1) term' (c + term) s
    | 1 => trigSum p theta k (n + 1) term' c (s + term)
    | 2 => trigSum p theta k (n + 1) term' (c - term) s
    | _ => trigSum p theta k (n + 1) term' c (s - term)

/-- Cosine and sine in units of 2^-64 of an angle of `k` / 131,072 turns, `k` at most an eighth turn; the constant is
2 pi 2^64. -/
def trigOct (k : Nat) : Int × Int := trigSum 64 (k * 115904311329233965478 / 131072) 24 0 (2 ^ 64) 0 0

/-- The same within the first quarter turn. -/
def trigQuad (k : Nat) : Int × Int :=
  if k ≤ 16384 then trigOct k else ((trigOct (32768 - k)).2, (trigOct (32768 - k)).1)

/-- The same for any angle. -/
def trigTurn (k : Int) : Int × Int :=
  let m := (k % 131072).toNat
  let q := trigQuad (m % 32768)
  match m / 32768 with
  | 0 => q
  | 1 => (-q.2, q.1)
  | 2 => (-q.1, -q.2)
  | _ => (q.2, -q.1)

/-- 16,384 times cosine and sine of an angle of `k` / 131,072 turns, rounded half to even (R342). -/
def cosSinHalf (k : Int) : Int × Int :=
  let q := trigTurn k
  (rhe q.1 (2 ^ 50), rhe q.2 (2 ^ 50))

/-- 16,384 times cosine and sine of a heading, rounded half to even (R296). -/
def cosSin (h : Nat) : Int × Int := cosSinHalf (2 * h)

/-- A pose (R284): cm, 1/65,536 turns, cm/s, ms. -/
structure Pose where
  x : Int
  y : Int
  h : Nat
  v : Nat
  t : Nat
  deriving DecidableEq, Repr

/-- The four words of a pose (Table 8-3). -/
def poseWords (p : Pose) : List Word :=
  [toW (at_ (tc 16 p.y) 16 + tc 16 p.x), toW (at_ (p.v % 65536) 16 + p.h % 65536), toW (p.t % 65536), 0]

def wordsPose (a b c : Word) : Pose :=
  { x := sx 16 (fld a 15 0), y := sx 16 (fld a 31 16), h := fld b 15 0, v := fld b 31 16, t := fld c 15 0 }

/-- The poses of a word list, four words each. -/
def wordsPoses : List Word → List Pose
  | a :: b :: c :: _ :: r => wordsPose a b c :: wordsPoses r
  | _ => []

/-- A trajectory record (Table 8-3). -/
structure Traj where
  rstat : Byte := 0
  rank  : Nat := 15
  g     : Nat := 0
  clr   : Int := 0
  first : Nat := 0xFF
  gen   : Nat := 0
  poses : List Pose := []
  deriving DecidableEq, Repr

def trajWords (r : Traj) : List Word :=
  [toW (at_ r.rstat.toNat 24 + at_ r.rank 8 + r.poses.length), toW r.g, toW (at_ (tc 16 r.clr) 16 + at_ r.first 8), toW r.gen] ++
    r.poses.flatMap poseWords

/-- Poses a record's header counts. -/
def trajCount (ws : List Word) : Nat := fld (nth ws 0) 7 0

/-- The words of a record that its header counts. -/
def trajUsed (ws : List Word) : List Word := ws.take (4 + 4 * trajCount ws)

def wordsTraj (ws : List Word) : Traj :=
  { rstat := BitVec.ofNat 8 (fld (nth ws 0) 31 24), rank := fld (nth ws 0) 11 8, g := (nth ws 1).toNat
    clr := sx 16 (fld (nth ws 2) 31 16), first := fld (nth ws 2) 15 8, gen := fld (nth ws 3) 23 0
    poses := wordsPoses ((trajUsed ws).drop 4) }

end Sys2Proof.Machine
end

