-- ==== Sys2Proof/Machine/Lidar.lean ====
section
/-! DEFINITION. The registration of a lidar sweep against the one before it (09 R338, R339): FP32 throughout, each operation
rounded to nearest even, in the order of the procedure's text. Where the text names a formula and not its operations, they
are done left to right and unfused (log 152). -/

namespace Sys2Proof.Machine

def fadd (a b : Fl) : Fl := (f32add a b).1
def fsub (a b : Fl) : Fl := (f32add a (fneg b)).1
def fmul (a b : Fl) : Fl := (f32mul a b).1

/-- Quotient of finite values, rounded once; 0 below the line gives none. -/
def fdiv : Fl → Fl → Fl
  | .fin s m e, .fin t n f =>
    if n = 0 then .nan
    else
      let a := m <<< 80
      rnd32 (.fin (s != t) (2 * (a / n) + b2n (a % n ≠ 0)) (e - f - 81))
  | _, _ => .nan

/-- Square root of a finite value that is not negative, rounded once. -/
def fsqrt : Fl → Fl
  | .fin s m e =>
    if m = 0 then .fin s 0 0
    else if s then .nan
    else
      let a := m <<< (80 + (e % 2).toNat)
      let r := Nat.sqrt a
      rnd32 (.fin false (2 * r + b2n (r * r ≠ a)) ((e - e % 2 - 80) / 2 - 1))
  | _ => .nan

/-- Sum of terms in index order. -/
def fsum (l : List Fl) : Fl := l.foldl fadd fzero

/-- A point of the plane in FP32. -/
abbrev FPt := Fl × Fl

/-- The rigid motion T: it maps a point of Q into the frame of P. The turn is in heading units. -/
structure Rigid where
  tx : Fl
  ty : Fl
  th : Fl
  deriving DecidableEq, Repr

/-! Cosine, sine and the turn of a vector as FP32 operations: the exact value, rounded once to nearest even (R338). They are
formed in units of 2^-320, far below the last place of any FP32 result. -/

/-- 2 pi 2^320. -/
def twoPi320 : Nat :=
  13420802360424337830311681948440006481608388178854297901454212848703426437343610760199000777828079

/-- Cosine and sine in units of 2^-320 of `k` / 2^165 turns, `k` at most an eighth turn. -/
def fineOct (k : Nat) : Int × Int := trigSum 320 (k * twoPi320 / 2 ^ 165) 80 0 (2 ^ 320) 0 0

/-- The same within the first quarter turn. -/
def fineQuad (k : Nat) : Int × Int := if k ≤ 2 ^ 162 then fineOct k else ((fineOct (2 ^ 163 - k)).2, (fineOct (2 ^ 163 - k)).1)

/-- The same for any part of a turn. -/
def fineTurn (k : Nat) : Int × Int :=
  let q := fineQuad (k % 2 ^ 163)
  match k / 2 ^ 163 % 4 with
  | 0 => q
  | 1 => (-q.2, q.1)
  | 2 => (-q.1, -q.2)
  | _ => (q.2, -q.1)

/-- A number of units of 2^-320, rounded to FP32. -/
def fineFl (v : Int) : Fl := rnd32 (.fin (v < 0) v.natAbs (-320))

/-- Cosine and sine of a turn in heading units. -/
def turnCosSin : Fl → Fl × Fl
  | .fin s m e =>
    let q := fineTurn (if 0 ≤ e + 149 then m * 2 ^ (e + 149).toNat else m / 2 ^ (-(e + 149)).toNat)
    (fineFl q.1, if m = 0 then .fin s 0 0 else fineFl (if s then -q.2 else q.2))
  | _ => (.nan, .nan)

def turnCos (th : Fl) : Fl := (turnCosSin th).1
def turnSin (th : Fl) : Fl := (turnCosSin th).2

/-- Euler's series of the arc tangent of y / x, 0 ≤ y ≤ x, in units of 2^-320. -/
def atanSum (yy rr : Nat) : Nat → Nat → Nat → Nat → Nat
  | 0, _, _, a => a
  | k + 1, n, term, a => atanSum yy rr k (n + 1) (term * (2 * n + 2) * yy / ((2 * n + 3) * rr)) (a + term)

/-- The turn of a vector of the first octant in heading units, in units of 2^-320. -/
def fineAtan (y x : Nat) : Nat :=
  let rr := x * x + y * y
  atanSum (y * y) rr 400 0 (2 ^ 320 * y * x / rr) 0 * 2 ^ 336 / twoPi320

/-- The turn of the vector (x, y), from minus to plus half a turn; none has the zero vector, which gives 0. -/
def turnOf : Fl → Fl → Fl
  | .fin s m e, .fin t n f =>
    let y := m * 2 ^ (e - min e f).toNat
    let x := n * 2 ^ (f - min e f).toNat
    if y = 0 && x = 0 then .fin s 0 0
    else
      let a : Nat := if y ≤ x then fineAtan y x else 2 ^ 334 - fineAtan x y
      let b : Nat := if t then 2 ^ 335 - a else a
      if b = 0 then .fin s 0 0 else fineFl (if s then -(b : Int) else b)
  | _, _ => .nan

/-- T(q). -/
def Rigid.map (t : Rigid) (q : FPt) : FPt :=
  let c := turnCos t.th
  let s := turnSin t.th
  (fadd (fsub (fmul c q.1) (fmul s q.2)) t.tx, fadd (fadd (fmul s q.1) (fmul c q.2)) t.ty)

def distSq (a b : FPt) : Fl :=
  let dx := fsub a.1 b.1
  let dy := fsub a.2 b.2
  fadd (fmul dx dx) (fmul dy dy)

/-- A pair: the point of Q, its nearest point of P, their distance under T. -/
structure FPair where
  q : FPt
  p : FPt
  d : Fl
  deriving DecidableEq, Repr

/-- The nearest point of P to T(q), within 100 cm; ties to the lowest index. -/
def nearest (t : Rigid) (ps : List FPt) (q : FPt) : Option FPair :=
  let m := t.map q
  ps.foldl (fun best p =>
    let d := fsqrt (distSq m p)
    if flNan d || flLt (intFl 100) d || best.elim false (fun b => !flLt d b.d) then best
    else some { q := q, p := p, d := d }) none

/-- The pairs found, less the 25 % with the largest distance; of equal distances the higher index is dropped. -/
def keepPairs (l : List FPair) : List FPair :=
  let z := l.zipIdx
  (z.filter (fun a =>
    (z.filter (fun b => flLt b.1.d a.1.d || (!flLt a.1.d b.1.d && b.2 < a.2))).length < l.length - l.length / 4)).map (·.1)

/-- The closed-form least-squares rigid transform of pairs, sums in index order. -/
def fitRigid (l : List FPair) : Rigid :=
  let n := intF32 l.length
  let mean := fun (f : FPair → Fl) => fdiv (fsum (l.map f)) n
  let qx := mean (·.q.1)
  let qy := mean (·.q.2)
  let px := mean (·.p.1)
  let py := mean (·.p.2)
  let dot := fsum (l.map (fun k =>
    fadd (fmul (fsub k.q.1 qx) (fsub k.p.1 px)) (fmul (fsub k.q.2 qy) (fsub k.p.2 py))))
  let wedge := fsum (l.map (fun k =>
    fsub (fmul (fsub k.q.1 qx) (fsub k.p.2 py)) (fmul (fsub k.q.2 qy) (fsub k.p.1 px))))
  let th := turnOf wedge dot
  let r := ({ tx := fzero, ty := fzero, th := th } : Rigid).map (qx, qy)
  { tx := fsub px r.1, ty := fsub py r.2, th := th }

/-- The 12 repetitions: T and the pairs last kept; without a pair T stands, so that none is found later either. -/
def refine (ps qs : List FPt) : Nat → Rigid → List FPair → Rigid × List FPair
  | 0, t, kept => (t, kept)
  | k + 1, t, _ =>
    let kept := keepPairs (qs.filterMap (nearest t ps))
    refine ps qs k (if kept.isEmpty then t else fitRigid kept) kept

/-- Root mean square distance of pairs under T. -/
def rmsOf (t : Rigid) (l : List FPair) : Fl :=
  fsqrt (fdiv (fsum (l.map (fun k => distSq (t.map k.q) k.p))) (intF32 l.length))

/-- A velocity as R339 rounds it: a whole number, half to even. -/
def wholeOf (x : Fl) : Int := (cvtInt 32 false x).1

/-- The registration of sweep Q against P (R338): `dns` is t - t' in ns, `start` the last combined estimate. -/
def lidarFit (q p : List (Int × Int)) (dns : Nat) (start : Int × Int × Int) : Option (Int × Int × Int) :=
  let pt := fun (k : Int × Int) => (intF32 k.1, intF32 k.2)
  let dt := fdiv (.fin false dns 0) (.fin false 1000000000 0)
  let t0 : Rigid := {
    tx := fmul (intF32 start.1) dt, ty := fmul (intF32 start.2.1) dt, th := fmul (intF32 start.2.2) dt }
  let r := refine (p.map pt) (q.map pt) 12 t0 []
  if 256 ≤ r.2.length && !flLt (intFl 15) (rmsOf r.1 r.2) && !flNan (rmsOf r.1 r.2) then
    some (wholeOf (fdiv r.1.tx dt), wholeOf (fdiv r.1.ty dt), wholeOf (fdiv r.1.th dt))
  else none

end Sys2Proof.Machine
end

