-- ==== Sys2Proof/Machine/Queues.lean ====
section
/-! DEFINITION. Hardware queues, placements, bindings, waybills' descriptors, pre-emption, re-binding, relay moves (10; 02
R55-R58). -/

namespace Sys2Proof.Machine

/-! The queue context table (R367-R372). -/

def defQueue : QueueCtx := {}
def queue (s : State) (q : Nat) : QueueCtx := bankGet defQueue s.qmg.queues q

/-- The words of a queue context (Table 10-1). -/
def queueWords (q : QueueCtx) : List Word :=
  sealW [toW (at_ q.st 30 + flagAt q.held 29 + at_ q.ctx 20 + at_ q.logsize 15 + q.eng), lo32 q.base, hi32 q.base,
    q.head, q.tail, q.mphead, q.stage]

/-- A queue context from its words. -/
def wordsQueue (ws : List Word) : QueueCtx :=
  let w := nth ws 0
  { st := fld w 31 30, held := tbit w 29, ctx := fld w 25 20, logsize := fld w 19 15, eng := fld w 6 0
    base := join64 (nth ws 1) (nth ws 2), head := nth ws 3, tail := nth ws 4, mphead := nth ws 5, stage := nth ws 6 }

/-- The place of the queue context table in a stack, as the active timetable reserves it. -/
def tableBase (s : State) (n : Nat) : Option Nat :=
  s.tt.active.bind (fun t => (t.body.perStack.find? (fun r => r.die.val == n)).map (·.qtable))

def putCopy (s : State) (n q : Nat) (bs : List Byte) : State :=
  match tableBase s n with
  | some b => if (mct s n).st = 2 then hbmSet s n 0x02 (b + 32 * q) bs else s
  | none => s

/-- The QMG writes a change to both copies before it acts on it (R368). -/
def setQueue (s : State) (q : Nat) (c : QueueCtx) : State :=
  let s := { s with qmg := { s.qmg with queues := bankSet defQueue s.qmg.queues q c } }
  let bs := wordsBytes (queueWords c)
  putCopy (putCopy s s.qmg.primary q bs) s.qmg.mirror q bs

/-- One copy of a queue context as the QMG reads it, when its check word holds. -/
def readCopy (s : State) (n q : Nat) : Option (List Word) × State :=
  match tableBase s n with
  | none => (none, s)
  | some b =>
    if (mct s n).st ≠ 2 then (none, s)
    else
    let x := hbmGet s n .spine 0x02 (b + 32 * q) 32
    (x.1.bind (fun bs => if sealOk (bytesWords bs) then some (bytesWords bs) else none), x.2)

/-- The QMG reads a queue context: a failed copy is taken from the other and rewritten; where both fail the queue enters
LOST, which rewrites both, with one entry (R371). A queue that is UNUSED or LOST is not read. -/
def syncQueue (s : State) (q : Nat) : State :=
  if s.tt.active.isNone || (queue s q).st = 0 || (queue s q).st = 3 then s
  else
    let a := readCopy s s.qmg.primary q
    let b := readCopy a.2 s.qmg.mirror q
    match a.1, b.1 with
    | some w, some _ => if wordsQueue w = queue s q then b.2 else setQueue b.2 q (wordsQueue w)
    | some w, none => setQueue b.2 q (wordsQueue w)
    | none, some w => setQueue b.2 q (wordsQueue w)
    | none, none =>
      logF (setQueue b.2 q { queue s q with st := 3 })
        { cls := 0x11, unit := unitIod, livery := ctxLivery s (queue s q).ctx }

/-- The QMG reads a queue context and writes it changed. -/
def modQueue (s : State) (q : Nat) (f : QueueCtx → QueueCtx) : State :=
  let s := syncQueue s q
  setQueue s q (f (queue s q))

def qSize (c : QueueCtx) : Nat := 2 ^ c.logsize
/-- Counts are taken modulo 2^32 (R370). -/
def qLen (c : QueueCtx) : Nat := (c.tail - c.head).toNat
def slotAddr (c : QueueCtx) (count : Word) : Nat := c.base + 64 * (count.toNat % qSize c)

/-- A doorbell moves tail backwards or beyond the ring, or names a LOST or UNUSED queue (R372). -/
def badBell (c : QueueCtx) (tail : Word) : Bool :=
  c.st = 0 || c.st = 3 || (tail - c.head).toNat < qLen c || qSize c < (tail - c.head).toNat

/-- A doorbell (R372). -/
def ringBell (s : State) (q : Nat) (tail : Word) : State :=
  let s := syncQueue s q
  let c := queue s q
  if badBell c tail then
    logF { s with qmg := { s.qmg with dberr := true } }
      { cls := 0x11, unit := unitIod, livery := ctxLivery s c.ctx }
  else setQueue s q { c with tail := tail, stage := toW (s.stg.stage % 2 ^ 32) }

/-- DOORBELL: a write to QMG_DBT; only the dispatcher's and the islands' liveries pass the firewall (10, after R371). -/
def execDoorbell (livery : Byte) (tail : Word) (s : State) : Out :=
  .next (
    if livery == 0x01 || islandLivery livery then ringBell s (fld s.qmg.dbq 19 0) tail
    else emit (fwRefuse s (.iod 3) livery 0x034 .write) (.fabric livery stFirewall []))

/-! Placements (02 R70, R71; 10 R379, R380, R393-R395; 14 R509, R515). -/

/-- Compute dies that hold no place in a placement now. -/
def diesOut (s : State) : Nat := (dieList.filter (fun n => !dieInSvc s n.val)).length

def lostDie (k : Nat) : Option DieId := if h : k < 12 then some ⟨k, h⟩ else none

/-- A queue of an attention context. -/
def attnQueue (t : Timetable) (q : Nat) : Bool :=
  t.body.contexts.any (fun d => d.role = .attention && d.qbase ≤ q && q < d.qbase + d.qcount)

/-- Engine m of a die becomes engine (m + r) mod 8 of it (R393). -/
def turnEngine (g : EngId) (r : Nat) : EngId := fin (by decide) (8 * (g.val / 8) + (g.val % 8 + r) % 8)

/-- The placement of relay position r. The queues of attention contexts stay on their dies: each runs on the engine that
position 0 gives it, turned by r, with its ring in place (R393). -/
def relayPlacement (t : Timetable) (r : Nat) : Option Placement :=
  (t.body.relay[r]?).map (fun p =>
    let attn := ((t.body.relay[0]?).elim [] (·.queues)).filter (fun e => attnQueue t e.queue)
    { p with queues := p.queues.filter (fun e => !attnQueue t e.queue) ++
      attn.map (fun e => { e with eng := turnEngine e.eng r }) })

/-- The placement in force (R379): the lean profile's for the dies lost, the single-loss placement, or the relay placement;
none while no timetable is active or with three dies out of service (R515). -/
def placement (s : State) : Option Placement :=
  match s.tt.active with
  | none => none
  | some t =>
    let a := lostDie s.stg.lossa
    let b := lostDie s.stg.lossb
    if 3 ≤ diesOut s then none
    else if s.stg.lean then
      (t.body.lean.find? (fun e => (e.1 == a && e.2.1 == b) || (e.1 == b && e.2.1 == a))).map (·.2.2)
    else match a with
      | some n => t.body.loss[n.val]?
      | none => match b with
        | some n => t.body.loss[n.val]?
        | none => relayPlacement t s.stg.relay

/-- The fields of STG_PROFILE that select the placement. -/
def placeKeyNow (s : State) : Nat × Nat × Nat × Bool := (s.stg.relay, s.stg.lossa, s.stg.lossb, s.stg.lean)

/-- A relay placement is in force. -/
def relayPlaced (s : State) : Bool := s.stg.lossa == 15 && s.stg.lossb == 15 && !s.stg.lean

/-- An engine in service: its die in service, not withdrawn. -/
def engInSvc (s : State) (g : Nat) : Bool := dieInSvc s (dieOf g) && !(eng s g).withdrawn

/-- The place the placement in force gives an engine's queue. -/
def placeOf (s : State) (g : Nat) : Option QPlace :=
  (placement s).bind (fun p => p.queues.find? (fun q => q.eng.val == g))

/-- An engine left out this stage (R380). -/
def leftOut (s : State) (g : EngId) : Bool := s.qmg.out.contains g

/-- The partner of an engine (R380): TE(m XOR 1) of its die. -/
def partner (g : EngId) : EngId := fin (by decide) (g.val ^^^ 1)

/-- A re-binding that an engine now serves under. -/
def reboundTo (s : State) (g : EngId) : Option Rebind := s.qmg.rebinds.find? (fun r => r.eng == g && r.done)

/-- The queue an engine serves of its own: a re-binding's, or the placement's. -/
def ownQueue (s : State) (g : EngId) : Option Nat :=
  match reboundTo s g with
  | some r => some r.dst
  | none => (placeOf s g.val).map (·.queue)

/-- An engine's stores are zeroed before it serves another context; the clear begins and ends inside the binding's step, so that
its state CLEAR is not seen between steps (R171). -/
def clearStores (e : Engine) : Engine :=
  { e with rs := {}, acc0 := {}, acc1 := {}, wbuf0 := {}, wbuf1 := {}, pref := none }

/-- An engine is bound to a queue: TE_BIND and the queue's engine field (R379), stores cleared for another context than the one
it served last (R171). -/
def bindEng (s : State) (g : EngId) (q : Nat) : State :=
  let s := syncQueue s q
  let c := queue s q
  let s := modEng s g (fun e =>
    let e := if e.served = some c.ctx then e else clearStores e
    { e with bound := true, bctx := c.ctx, bqueue := q, served := some c.ctx, st := if e.st = 0 then 1 else e.st })
  setQueue s q { c with eng := g, st := if c.st = 3 then 3 else 1 }

/-- An engine serves no queue any more; the queue it served becomes UNBOUND. -/
def unbindEng (s : State) (g : Nat) : State :=
  let e := eng s g
  if e.bound then
    let q := e.bqueue
    let s := syncQueue (modEng s g (fun e => { e with bound := false, bctx := 0, bqueue := 0 })) q
    if (queue s q).eng = g then modQueue s q (fun c => { c with eng := 0x7F, st := if c.st = 1 then 2 else c.st }) else s
  else s

/-- Every queue of a context's range. -/
def ctxQueues (s : State) (c : Nat) : List Nat := (List.range (ctxRec s c).qcount).map (fun i => (ctxRec s c).qbase + i)

/-- The queue of a local index (R367). -/
def globalQueue (s : State) (c i : Nat) : Option Nat :=
  if i < (ctxRec s c).qcount then some ((ctxRec s c).qbase + i) else none

/-- Rings of the placement in force: queues that moved get their new ring and become UNBOUND, and at a change of placement
LOST ones are restored (R371, R396). -/
def placeRings (s : State) (changed : Bool) : State :=
  match placement s with
  | none => s
  | some p =>
    forAll s p.queues (fun s e =>
      let s := syncQueue s e.queue
      let c := queue s e.queue
      if c.st = 0 then s
      else if c.st = 3 then
        if changed then setQueue s e.queue { c with st := 2, base := e.base, logsize := e.logsize, eng := 0x7F, head := c.tail }
        else s
      else if c.base ≠ e.base || c.logsize ≠ e.logsize then
        setQueue s e.queue { c with st := 2, base := e.base, logsize := e.logsize, eng := 0x7F, head := c.tail }
      else s)

/-- R388: re-bindings that end at a tick: hold 0, or any when the placement in force has changed. The engines are bound anew with
the placement. -/
def endRebinds (s : State) (changed : Bool) : State :=
  { s with qmg := { s.qmg with rebinds := s.qmg.rebinds.filter (fun r => !(r.done && (changed || !r.hold))) } }

/-- The place whose queue an engine is bound to: its own, or that of a left-out sibling where it has none of its own (R379,
R380). -/
def bindPlace (s : State) (g : EngId) : Option QPlace :=
  match placeOf s g.val with
  | some e => some e
  | none => if leftOut s (partner g) then placeOf s (partner g).val else none

/-- The queue an engine is to be bound to: that of a re-binding that lasts (R388), its place's, or none while it is out of service
or left out. -/
def bindTarget (s : State) (g : EngId) : Option Nat :=
  if !engInSvc s g || leftOut s g then none
  else match reboundTo s g with
    | some r => some r.dst
    | none => (bindPlace s g).map (·.queue)

/-- An engine is bound as the placement and the re-bindings have it. -/
def bindOne (s : State) (g : EngId) : State :=
  let s := modEng s g (fun e => { e with bindDue := false, turn := false })
  match bindTarget s g with
  | none => unbindEng s g
  | some q => bindEng (if (eng s g).bound && (eng s g).bqueue ≠ q then unbindEng s g else s) g q

/-- PLACEMENT_BIND (R379) of every engine; one that still executes a descriptor is bound at the milepost to come (R382). -/
def bindAll (s : State) : State :=
  forAll s engList (fun s g =>
    if (eng s g).cur.isSome then modEng s g (fun e => { e with bindDue := true }) else bindOne s g)

/-! Commands and waybills. -/

def cmdDecl (t : Timetable) (c : Nat) : Option CmdDecl := t.body.cmds.find? (fun d => d.num == c)

/-- The active timetable's declaration of a command. -/
def cmdOf (s : State) (c : Nat) : Option CmdDecl := s.tt.active.bind (fun t => cmdDecl t c)

/-- The 48-bit address of a LOAD or STORE descriptor moved by the batch address, its check word formed anew (R374). -/
def relocate (d : DescDecl) (arg : Nat) : List Word :=
  let op := fld (nth d.words 0) 7 0
  if d.reloc && (op = 9 || op = 10) then
    let w3 := nth d.words 3
    let a := ((nth d.words 2).toNat + 2 ^ 32 * fld w3 15 0 + arg) % 2 ^ 48
    let ws := (d.words.set 2 (lo32 a)).set 3 (toW (fld w3 31 16 <<< 16 + a / 2 ^ 32))
    ws.set 15 (crcW (ws.take 15))
  else d.words

/-- A descriptor is written at a queue's tail and the doorbell rung (R375). -/
def issueDesc (s : State) (work : WorkId) (q : Nat) (again : Bool) (ws : List Word) : State :=
  let c := queue s q
  let a := slotAddr c c.tail
  let s := match hbmRange a 64 with
    | some (n, o) => hbmSet s n 0x01 o (wordsBytes ws)
    | none => s
  let s := ringBell s q (c.tail + 1)
  { s with dis := { s.dis with
    issued := s.dis.issued ++ [{ work := work, queue := q, count := c.tail.toNat, again := again }] } }

def issueCmd (s : State) (work : WorkId) (q : Nat) (again : Bool) (d : CmdDecl) (arg : Nat) : State :=
  forAll s d.descs (fun s e => issueDesc s work q again (relocate e arg))

/-- The local queue of an entry within its context. -/
def entryQueue (s : State) (w : Waybill) (e : WbEntry) : Nat := (ctxRec s w.ctx).qbase + e.queue

def modWb (s : State) (id : Nat) (f : Waybill → Waybill) : State :=
  { s with dis := { s.dis with waybills := s.dis.waybills.map (fun w => if w.id = id then f w else w) } }

/-- WAYBILL_FILL (R375): one waybill's descriptors. -/
def fillOne (s : State) (w : Waybill) : State :=
  let s := forAll s w.entries.zipIdx (fun s e =>
    match cmdOf s e.1.cmd with
    | some d =>
      modWb (issueCmd s (w.id, e.2) (entryQueue s w e.1) false d e.1.arg) w.id
        (fun w => { w with written := w.written + d.descs.length })
    | none => s)
  modWb s w.id (fun w => { w with st := .running, bad := w.bad || !relayPlaced s })

/-- Every accepted waybill of the stage that opens, in the order of acceptance (R375). -/
def fillStage (s : State) : State :=
  forAll s (s.dis.waybills.filter (fun w => w.st = .held && !w.forArmed && w.stage = s.stg.stage)) fillOne

/-! Re-execution (02 R55-R58). -/

/-- A re-binding of an engine is accepted and not carried out (R385). -/
def pendingRebind (s : State) (g : EngId) : Bool := s.qmg.rebinds.any (fun r => r.eng == g && !r.done)


/-- The waybill and the entry of a command of a stage. -/
def workOf (s : State) (k : WorkId) : Option (Waybill × WbEntry) :=
  (s.dis.waybills.find? (fun w => w.id == k.1)).bind (fun w => (w.entries[k.2]?).map (fun e => (w, e)))

/-- Its declaration in the active timetable. -/
def workDecl (s : State) (k : WorkId) : Option CmdDecl := (workOf s k).bind (fun e => cmdOf s e.2.cmd)

/-- The commands of the stage that were written, in waybill and entry order. -/
def stageWork (s : State) : List WorkId :=
  (s.dis.waybills.filter (fun w => w.stage = s.stg.stage && 0 < w.written)).flatMap (fun w =>
    (List.range w.entries.length).map (fun i => (w.id, i)))

/-- The command `a` consumes the output of the command `b`. -/
def consumes (s : State) (a b : WorkId) : Bool :=
  match workDecl s a, workDecl s b with
  | some x, some y => x.consumes.contains y.num
  | _, _ => false

/-- The commands of the stage that consume the output of some of a list, and of those again. -/
def closure (s : State) : Nat → List WorkId → List WorkId
  | 0, l => l
  | n + 1, l => closure s n ((stageWork s).foldl (fun acc k => if l.any (consumes s k) then addNew k acc else acc) l)

/-- A set in an order in which every command comes after those whose output it consumes. -/
def inOrder (s : State) : Nat → List WorkId → List WorkId
  | 0, l => l
  | n + 1, l =>
    match l.find? (fun k => !l.any (fun j => j != k && consumes s k j)) with
    | some k => k :: inOrder s n (l.erase k)
    | none => l

/-- The re-execution set of a command: it and every command of the stage that consumed its output, directly or through
others (R56). Where two entries run one command, a consumer of that command counts as a consumer of both. -/
def reexecMembers (s : State) (k : WorkId) : List WorkId :=
  let n := (stageWork s).length
  inOrder s n (closure s n [k])

/-- The stage output depends on a command (R474). -/
def isOutput (s : State) (k : WorkId) : Bool := ((workDecl s k).map (·.output)).getD false

def setDis (s : State) (f : Dis → Dis) : State := { s with dis := f s.dis }

/-- A command's output is lost until its re-execution set completes (R56, R474). -/
def markBad (s : State) (l : List WorkId) : State :=
  setDis s (fun d => { d with badWork := (l.filter (isOutput s)).foldl (fun l c => addNew c l) d.badWork })

/-- A command is scheduled for re-execution on another engine in the layover (R56). -/
def scheduleReexec (s : State) (k : WorkId) (g : EngId) (other : Bool) : State :=
  let ms := reexecMembers s k
  let s := setDis (markBad s ms) (fun d => { d with reported := addNew (k, g, other) d.reported })
  if s.dis.reexec.any (fun r => r.work == k) then s
  else setDis s (fun d => { d with
    reexec := d.reexec ++ [{ work := k, left := ms, members := ms, eng := none, avoid := g, otherDie := other }] })

/-- An engine has reported a command of a set, or lies on the die that a command of it must leave (R56; 04, after R156). -/
def reportedOn (s : State) (r : Reexec) (g : EngId) : Bool :=
  s.dis.reported.any (fun x => r.members.contains x.1 && (x.2.1 == g || (x.2.2 && dieOf x.2.1 == dieOf g)))

/-- Engines on which a re-execution set may start (R56, R382). One in a self-test slice may: the slice gives way (R55). -/
def reexecEngines (s : State) (r : Reexec) : List EngId :=
  engList.filter (fun g => engInSvc s g && !reportedOn s r g && !(eng s g).hung && (eng s g).cur.isNone &&
    (eng s g).done.isEmpty && !pendingRebind s g && !s.dis.reexec.any (fun x => x.eng == some g))

/-- An engine runs a re-execution set. -/
def inReexec (s : State) (g : EngId) : Bool := s.dis.reexec.any (fun r => r.eng == some g)

/-- The global queue of a command of the stage. -/
def workQueue (s : State) (k : WorkId) : Option Nat := (workOf s k).map (fun e => entryQueue s e.1 e.2)

/-- The queues of a set's commands are not in use by a set that runs. -/
def queuesFree (s : State) (r : Reexec) : Bool :=
  !s.dis.reexec.any (fun x => x.eng.isSome && x.members.any (fun a => r.members.any (fun b => workQueue s a == workQueue s b)))

/-- The next command of a set on its engine: bound to the command's own queue, its descriptors written anew (R377). -/
def reexecNext (s : State) (r : Reexec) (g : EngId) : State :=
  match r.left with
  | [] => s
  | k :: _ =>
    match workOf s k, workDecl s k with
    | some (w, e), some d =>
      let q := entryQueue s w e
      issueCmd (bindEng (unbindEng s g) g q) k q true d e.arg
    | _, _ => s

/-- A relay or re-admission move gives way to a re-execution that runs in its layover: it is made in a later one (R55, R58,
R511). -/
def deferMoves (s : State) : State :=
  { s with qmg := { s.qmg with moveRun := false, moveDone := false, moved := [], readmit := [] } }

/-- A due set starts on an engine; which engine is not defined (R56). A slice that runs there has not run (R55). -/
def startSet (s : State) (r : Reexec) : State :=
  let l := reexecEngines s r
  match l[Config.choice s.free % max 1 l.length]? with
  | none => s
  | some g =>
    let s := modEng (deferMoves (fresh s).2) g (fun e => { e with st := if e.st = 4 then 1 else e.st })
    let s := setDis s (fun d => { d with
      reexec := d.reexec.map (fun x => if x = r then { x with eng := some g } else x)
      reexecRun := satAdd 65535 d.reexecRun 1 })
    reexecNext s r g

/-- REEXECUTION_START: every due set for which an engine and its queues are free starts (R56). -/
def startReexec (s : State) : State :=
  forAll s (s.dis.reexec.filter (fun r => r.eng.isNone)) (fun s r => if queuesFree s r then startSet s r else s)

/-- Descriptors of a set's commands still outstanding. -/
def againLeft (s : State) (r : Reexec) : Bool := s.dis.issued.any (fun i => i.again && r.members.contains i.work)

/-- REEXEC_SET_END: the set of a command has completed; its commands' outputs count again, and a due set may start (R56,
R57). -/
def execReexecSetEnd (cmd : Nat) (s : State) : Out :=
  .next (match s.dis.reexec.find? (fun r =>
      ((workOf s r.work).map (fun e => e.2.cmd)) == some cmd && r.eng.isSome && r.left.isEmpty && !againLeft s r) with
    | none => s
    | some r =>
      let s := setDis s (fun d => { d with
        reexec := d.reexec.filter (fun x => !(x == r))
        badWork := d.badWork.filter (fun c => !r.members.contains c) })
      let s := match r.eng with
        | some g => unbindEng s g
        | none => s
      if s.stg.inlay then startReexec s else s)

/-! Completions (R377, R378). -/

/-- An engine stands at a milepost: no command open, nothing running or unreported. -/
def atMilepost (e : Engine) : Bool := !e.openCmd && e.cur.isNone && e.done.isEmpty

/-- A completion record (Table 10-3). -/
def recordWords (g : Nat) (c : Completion) : List Word :=
  let w := nth c.words 0
  [toW (at_ c.status.toNat 24 + at_ (fld w 7 0) 16 + flagAt (tbit w 31) 15 + at_ g 8 + c.ctx), nth c.words 1, toW c.queue, c.head]

/-- A command reached its milepost on an engine in a re-execution: the next command of its set, if any. -/
def reexecStep (s : State) (g : EngId) (k : WorkId) : State :=
  match s.dis.reexec.find? (fun r => r.eng == some g) with
  | none => s
  | some r =>
    if r.left.head? = some k && !r.failed then
      let r' := { r with left := r.left.tail }
      let s := setDis s (fun d => { d with reexec := d.reexec.map (fun x => if x = r then r' else x) })
      reexecNext s r' g
    else s

/-- A set whose descriptor fails again does not complete (R57). -/
def failSet (s : State) (g : EngId) : State :=
  setDis s (fun d => { d with reexec := d.reexec.map (fun r => if r.eng == some g then { r with failed := true } else r) })

/-- The dispatcher takes a completion record: the descriptor's waybill counts it; a status of 0x10 or above schedules the
command's re-execution (R377). -/
def takeRecord (s : State) (g : EngId) (c : Completion) : State :=
  let count := (c.head - 1).toNat
  match s.dis.issued.find? (fun i => i.queue == c.queue && i.count == count) with
  | none => s
  | some i =>
    let bad := 0x10 ≤ c.status.toNat
    let s := setDis s (fun d => { d with issued := d.issued.filter (fun x => !(x == i)) })
    if i.again then
      let s := modWb s i.work.1 (fun w => { w with reexec := w.reexec + 1 })
      let s := if bad then failSet s g else s
      if tbit (nth c.words 0) 31 then reexecStep s g i.work else s
    else
      let s := modWb s i.work.1 (fun w => { w with completed := w.completed + 1, bad := w.bad || bad })
      if bad then scheduleReexec s i.work g false else s

/-- The milepost of a command: head is saved as mphead, the engine's stores hold nothing defined any more, and where the engine
serves two queues the other's turn comes (R170, R380, Table 10-1). -/
def milepost (s : State) (g : EngId) (q : Nat) (head : Word) : State :=
  let s := modEng (standAfter s g) g (fun e => { e with turn := decide (ownQueue s g = some q) })
  modQueue s q (fun c => { c with mphead := head })

/-- DESCRIPTOR_COMPLETE: the oldest completion of an engine goes to the dispatcher, in queue order (R168, R378), and its signal after
every write that the engine has issued has been acknowledged (R411, R435): those of a STORE that ends at a later row are waited for
here. In a layover a re-execution set that is due may start with it (R56). -/
def execDescriptorComplete (g : EngId) (s : State) : Out :=
  .next (match (eng s g).done with
    | [] => s
    | c :: r =>
      if owes s g then s else
      let s := modEng s g (fun e => { e with done := r })
      let s := syncQueue s c.queue
      let w14 := nth c.words 14
      let s := if tbit w14 31 && c.status.toNat < 0x10 then
          modEng s g (fun e => { e with sigs := e.sigs ++ [(c.ctx, fld w14 15 0)] }) else s
      let s := if tbit (nth c.words 0) 31 then milepost s g c.queue c.head else s
      let s := takeRecord (emit s (.record (recordWords g c))) g c
      let s := if (eng s g).bindDue && atMilepost (eng s g) then bindOne s g else s
      if s.stg.inlay then startReexec s else s)

/-- DESCRIPTOR_SIGNAL: the oldest signal of an engine enters the turnpike; on an UNUSED or ORPHANED object or outside the
namespace it is dropped (R411, R412). -/
def execDescriptorSignal (g : EngId) (s : State) : Out :=
  .next (match (eng s g).sigs with
    | [] => s
    | (c, v) :: r =>
      let s := modEng s g (fun e => { e with sigs := r })
      let drop := logF { s with syn := { s.syn with badsig := true } }
        { cls := 0x11, unit := dieOf g, sub := g.val % 8, livery := ctxLivery s c }
      match physObj s c v with
      | none => drop
      | some k => if (obj s k).st = 1 then (signalObj s k 1).2 else drop)

/-! Layover (02 R60-R62; 10 R376). -/

/-- Descriptors between head and tail. -/
def hasWork (s : State) (q : Nat) : Bool := qLen (queue s q) ≠ 0

/-- An engine has started a descriptor: it runs there, or its completion stands ready. -/
def startedOn (s : State) (i : Issued) (g : EngId) : Bool :=
  ((eng s g).cur.isSome && (eng s g).bqueue == i.queue && ((eng s g).headAt - 1).toNat == i.count) ||
    ((eng s g).done ++ (eng s g).late).any (fun c => c.queue == i.queue && (c.head - 1).toNat == i.count)

/-- Descriptors of main work that no engine has started. -/
def mainLeft (s : State) : List Issued := s.dis.issued.filter (fun i => !i.again && !engList.any (startedOn s i))

/-- Descriptors that will never be carried out: their waybills count them as discarded, and the stage output is incomplete when
it depends on them (R62, R376, R474). -/
def discard (s : State) (gone : List Issued) : State :=
  let s := setDis s (fun d => { d with
    issued := d.issued.filter (fun i => !gone.contains i), incomplete := d.incomplete || gone.any (fun i => isOutput s i.work) })
  forAll s gone (fun s i => modWb s i.work.1 (fun w => { w with discarded := w.discarded + 1 }))

/-- Descriptors of main work that no engine has started are discarded: head goes to tail, and their waybills count them
(R376). -/
def discardMain (s : State) : State :=
  let s := discard s (mainLeft s)
  forAll s ((s.qmg.queues.filter (fun e => hasWork s e.1)).map (·.1)) (fun s q =>
    modQueue (syncQueue s q) q (fun c => { c with head := c.tail }))

/-- Every command the stage output depends on has completed below 0x10 or been re-executed, and nothing it depends on was
lost or discarded (R474). -/
def stageComplete (s : State) : Bool :=
  !s.dis.incomplete && s.dis.badWork.isEmpty && !s.dis.issued.any (fun i => isOutput s i.work)

/-! Waybill completion (R377). -/

/-- The stage of a waybill ran under a single-loss or lean placement, or a descriptor of it failed or was discarded. -/
def wbDegraded (w : Waybill) : Bool := w.bad || 0 < w.discarded

/-- A waybill of the stage of which no placement let any descriptor be written: its work is left unissued (R61). -/
def unwritten (s : State) (w : Waybill) : Bool := w.st = .running && w.written = 0 && w.stage = s.stg.stage && (placement s).isNone

/-- WAYBILL_COMPLETE: every descriptor has completed or been discarded, and the deferred reply goes out (R377); a waybill whose
work is left unissued completes in the layover (R61). -/
def execWaybillComplete (id : Nat) (s : State) : Out :=
  .next (match s.dis.waybills.find? (fun w => w.id == id && w.st == .running) with
    | none => s
    | some w =>
      if w.completed + w.discarded < w.written || (unwritten s w && !s.stg.inlay) then s
      else
        let s := modWb s id (fun w => { w with st := .complete })
        completeDefers s (.waybill id) (if wbDegraded w then stDegraded else stOk)
          ([toW w.completed, toW w.written] ++ two w.stage))

/-! Pre-emption and re-binding (R382-R389). -/

/-- Engines serving a queue of a context. -/
def ctxEngines (s : State) (c : Nat) : List EngId := engList.filter (fun g => (eng s g).bound && (eng s g).bctx == c)

/-- The objects of a context get or lose held (R416). -/
def holdObjs (s : State) (c : Nat) (h : Bool) : State :=
  { s with syn := { s.syn with objs := s.syn.objs.map (fun e =>
      if synBase s c ≤ e.1 && e.1 < synBase s c + synSize s c then (e.1, { e.2 with held := h }) else e) } }

def holdQueues (s : State) (c : Nat) (h : Bool) : State :=
  forAll s (ctxQueues s c) (fun s q => if (queue s q).st = 0 then s else modQueue s q (fun k => { k with held := h }))

/-- CTX_PREEMPT (Table 10-6, R382). -/
def rowCtxPreempt : OpDef :=
  opDef (fixedRow 2 3 0) (fun s k =>
    let c : CtxId := fin (by decide) (pktCtx k)
    if pktCtx k = 0 then .refuse stBadParam 10 1
    else if (ctxRec s c).pre then .answer stOkEmpty [] s
    else .later (.preempt c) (modCtx s c (fun r => { r with ppend := true })))

/-- PREEMPT_COMPLETE: the last engine of the context stands at its milepost; queues and objects are held (R383, R416). -/
def execPreemptComplete (c : CtxId) (s : State) : Out :=
  .next (
    let gs := ctxEngines s c
    if (ctxRec s c).ppend && gs.all (fun g => atMilepost (eng s g) && !pendingRebind s g) then
      let s := modCtx s c (fun r => { r with pre := true, ppend := false })
      let s := holdObjs (holdQueues s c true) c true
      completeDefers s (.preempt c) stOk [toW gs.length]
    else s)

/-- CTX_RESUME (R384). -/
def rowCtxResume : OpDef :=
  opDef (fixedRow 2 4 0) (fun s k =>
    let c := pktCtx k
    let mine := ctxQueues s c
    if !(ctxRec s c).pre then .answer stOkEmpty [] s
    else if s.qmg.rebinds.any (fun r => r.done && r.ctx.val ≠ c &&
        (match placeOf s r.eng.val with | some e => mine.contains e.queue | none => false)) then
      .refuse stRefusedInUse 11 0xFFFF
    else .answer stOk [] (holdObjs (holdQueues (modCtx s c (fun r => { r with pre := false })) c false) c false))

/-- The context whose queue an engine serves, or would serve by the placement while it is left out or out of service. -/
def servedCtx (s : State) (g : EngId) : Option Nat :=
  if (eng s g).bound then some (eng s g).bctx else (placeOf s g.val).map (fun e => (queue s e.queue).ctx)

/-- CTX_REBIND (Table 10-6, R385-R387). -/
def rowCtxRebind : OpDef :=
  opDef (fixedRow 2 5 2) (fun s k =>
    let w := par k 0
    let g := fld w 22 16
    let c := fld w 5 0
    if fld w 31 28 ≠ 0 || fld w 26 23 ≠ 0 || fld w 15 6 ≠ 0 || 95 < g || c = 0 || !ctxExists s c then
      .refuse stBadParam 10 4
    else
      let e : EngId := fin (by decide) g
      if servedCtx s e ≠ some (pktCtx k) then .refuse stFirewall 10 4
      else if fld (par k 1) 31 16 ≠ 0 then .refuse stBadParam 10 5
      else match globalQueue s c (fld (par k 1) 15 0) with
        | none => .refuse stBadParam 10 5
        | some q =>
          if !engInSvc s g || leftOut s e || (ctxRec s c).pre then .refuse stNotReady 11 0xFFFF
          else if s.qmg.rebinds.any (fun r => (r.eng == e && !r.done) || (r.dst == q && (!r.done || r.eng != e))) then
            .refuse stRefusedInUse 11 0xFFFF
          else .later (.rebind e) { s with qmg := { s.qmg with
            rebinds := s.qmg.rebinds ++ [{
              eng := e, src := (eng s g).bqueue, dst := q, ctx := fin (by decide) c
              hold := tbit w 27, done := false, atTick := s.stg.inlay }] } })

/-- REBIND_MILEPOST: steps 2-7 of Table 10-4. -/
def execRebindMilepost (g : EngId) (s : State) : Out :=
  .next (match s.qmg.rebinds.find? (fun r => r.eng == g && !r.done && !r.atTick) with
    | none => s
    | some r =>
      let e := eng s g
      if !atMilepost e || e.st = 4 || inReexec s g then s
      else
        let old := e.bqueue
        let s := syncQueue s old
        let c := queue s old
        let s := unbindEng s g
        let s := { s with qmg := { s.qmg with
          rebinds := (s.qmg.rebinds.filter (fun x => !(x.eng == g))) ++ [{ r with src := old, done := true }] } }
        let s := modEng s g clearStores
        completeDefers (bindEng s g r.dst) (.rebind g) stOk [toW old, c.head, c.tail, toW r.dst])

/-- A re-binding whose engine is lost or withdrawn before it is carried out is abandoned (R389). -/
def abandonRebind (s : State) (g : EngId) : State :=
  if pendingRebind s g then
    let s := { s with qmg := { s.qmg with rebinds := s.qmg.rebinds.filter (fun r => !(r.eng == g && !r.done)) } }
    completeDefers s (.rebind g) stNotReady [execDetail]
  else s

/-! Relay and re-admission moves (R390-R392; 14 R511). -/

def relayInterval (s : State) : Nat := if s.qmg.tight then 1 else 40

/-- RELAY_MOVE_DUE: count has reached the interval (R390). -/
def execRelayMoveDue (s : State) : Out :=
  .next (if s.tt.active.isSome && s.qmg.interval ≤ s.qmg.count then { s with qmg := { s.qmg with moveDue := true } } else s)

/-- RELAY_MOVE_START, a part of the layover start: a due move starts when no re-execution runs and rotation is not
suspended, by a loss of the stage under way either (R55, R58, R70, R394); a re-admission move takes its turn before it (R511), of
a die whose root gate is open (16 R562).
-/
def startMoves (s : State) : State :=
  if s.dis.reexec.isEmpty then
    let ready := dieList.filter (fun (n : DieId) => (die s n).readyRe && !(die s n).inService &&
      !(die s n).decision && !(die s n).retired && !gateClosed s.clk n.val 0)
    let q := { s.qmg with readmit := ready.map (fun n => (n, false)) }
    if ready.isEmpty && q.moveDue && relayPlaced s && diesOut s = 0 then { s with qmg := { q with moveRun := true } }
    else { s with qmg := q }
  else s

/-- A move uses the movers of TE6 and TE7 of a die (R391, R511). -/
def moveUses (s : State) (g : EngId) : Bool :=
  6 ≤ g.val % 8 && (s.qmg.moveRun || s.qmg.readmit.any (fun e => !e.2))

/-- The QMG's mover reads regions (die, place for the copy, offset, length) one after the other. -/
def takeRegions : List (Nat × Nat × Nat × Nat) → State → List (Nat × Nat × List Byte) × State
  | [], s => ([], s)
  | (n, to_, base, len) :: r, s =>
    let x := hbmTake s n 0x02 base len
    let y := takeRegions r x.2
    ((to_, base, x.1) :: y.1, y.2)

/-- RELAY_MOVE_END: the copies of the regions for the ring successors are complete; they take their places, and relay
advances, at the next tick (R390-R392). -/
def execRelayMoveEnd (s : State) : Out :=
  .next (if s.qmg.moveRun then
    match placement s with
    | none => s
    | some p =>
      let x := takeRegions (p.regions.map (fun r => (r.die.val, (succDie r.die).val, r.base, r.len))) s
      { x.2 with qmg := { x.2.qmg with moveRun := false, moveDone := true, moved := x.1 } }
  else s)

/-- The copies of a relay move stand in their places. -/
def placeMoved (s : State) : State :=
  forAll { s with qmg := { s.qmg with moved := [] } } s.qmg.moved (fun s m => hbmSet s m.1 0x02 m.2.1 m.2.2)

/-- READMIT_MOVE_END: the persistent regions the relay placement names stand in the die again; it returns at the next tick
(R511). From which die in service the move takes each region is not stated: any of them, from the same place (DESIGN CHOICE, log
entry 38). -/
def execReadmitMoveEnd (n : DieId) (s : State) : Out :=
  .next (if s.qmg.readmit.contains (n, false) then
    let rs := match s.tt.active with
      | some t => ((t.body.relay[s.stg.relay]?).map (fun p => p.regions.filter (fun r => r.die == n))).getD []
      | none => []
    let from_ := dieList.filter (fun m => dieInSvc s m.val)
    let s := forAll s rs (fun s r =>
      match from_[Config.choice s.free % max 1 from_.length]? with
      | none => s
      | some m =>
        let x := hbmTake (fresh s).2 m 0x02 r.base r.len
        hbmSet x.2 n 0x02 r.base x.1)
    { s with qmg := { s.qmg with readmit := s.qmg.readmit.map (fun e => if e.1 = n then (n, true) else e) } }
  else s)

/-- RELAY_MOVE_ABANDON at the cut-off (R392, R511). -/
def abandonMoves (s : State) : State :=
  let one := fun (s : State) (u : Nat) => logF { s with qmg := { s.qmg with relayab := true } } { cls := 0x19, unit := u }
  let s := if s.qmg.moveRun then one { s with qmg := { s.qmg with moveRun := false } } unitModule else s
  let late := s.qmg.readmit.filter (fun e => !e.2)
  let s := { s with qmg := { s.qmg with readmit := s.qmg.readmit.filter (fun e => e.2) } }
  forAll s late (fun s e => one s e.1)

/-- The whole table as it stands is written to one stack. -/
def writeTable (s : State) (n : Nat) : State :=
  forAll s s.qmg.queues (fun s e => putCopy s n e.1 (wordsBytes (queueWords e.2)))

/-- TABLE_MIRROR_END: the copy to the new mirror's stack ends (R396). -/
def execTableMirrorEnd (s : State) : Out :=
  .next (match s.qmg.mirrorNew with
    | none => s
    | some n => writeTable { s with qmg := { s.qmg with mirror := n, mirrorNew := none, mirrorRun := false } } n)

/-- The next die in service in the successor direction, the surviving copy's die skipped (R396). -/
def nextMirror (s : State) (n keep : Nat) : Option Nat :=
  (((List.range 11).map (fun i => (dieAt (ringPos n + 1 + i)).val)).find? (fun m => dieInSvc s m && m != keep))

/-- A die that held a copy of the table, or to which one is being made, is lost: the copy that is left is the primary, and a new
mirror is copied (R396). -/
def lostTable (s : State) (n : Nat) : State :=
  let q := s.qmg
  let copy := fun (keep : Nat) =>
    let m := nextMirror s n keep
    { s with qmg := { q with primary := keep, mirrorNew := m, mirrorRun := m.isSome } }
  if q.primary = n then copy (q.mirrorNew.getD q.mirror)
  else if q.mirror = n || q.mirrorNew = some n then copy q.primary
  else s

/-- A queue in use whose ring lies on a die. -/
def onDie (c : QueueCtx) (n : Nat) : Bool := c.st ≠ 0 && c.base / 2 ^ 34 = n

/-- QUEUE_LOST: queues whose rings lie on the lost die (R396). -/
def loseQueues (s : State) (n : Nat) : State :=
  forAll s (s.qmg.queues.filter (fun e => onDie e.2 n)) (fun s e =>
    modQueue s e.1 (fun c => { c with st := 3 }))

/-- Work lost with a die: descriptors in queues that are LOST and descriptors its engines had started are discarded at the
loss, so that their waybills can complete (R377). -/
def loseWork (s : State) (mine : List EngId) : State :=
  discard s (s.dis.issued.filter (fun i => !i.again && ((queue s i.queue).st = 3 || mine.any (startedOn s i))))

/-! Waybill opcodes (Table 10-6). -/

/-- The timetable a WB_SUBMIT is checked against: the armed one when it names it (R80), else the active one. -/
def wbTimetable (s : State) (ident : Nat) : Option (Timetable × Bool) :=
  match s.tt.st, s.tt.staged with
  | .armed, some t => if ident = t.figs.ident then some (t, true) else s.tt.active.map (fun a => (a, false))
  | _, _ => s.tt.active.map (fun a => (a, false))

/-- Step 8 for a WB_SUBMIT (R80). -/
def wbCtxOk (s : State) (k : Pkt) : Bool :=
  match wbTimetable s (par64 k 2) with
  | some (t, true) => pktCtx k = 0 || (ctxDecl t (pktCtx k)).isSome
  | _ => ctxKnown s k

/-- The target stage is in range (R54, R79, R80, R549, R85). -/
def wbStageOk (s : State) (armed : Bool) (stage : Nat) : Bool :=
  if armed then
    if s.tt.ever then s.tt.target ≤ stage && stage ≤ s.stg.stage + 2 else 1 ≤ stage && stage ≤ 2
  else
    s.stg.stage < stage && stage ≤ s.stg.stage + 2

/-- A waybill for the armed stage or later names the old timetable (R79). -/
def wbOld (s : State) (armed : Bool) (stage : Nat) : Bool := !armed && s.tt.st = .armed && s.tt.ever && s.tt.target ≤ stage

/-- Entry `i` of a WB_SUBMIT: the four words from parameter 6 + 4 i on (Table 10-2). -/
def wbEntry (k : Pkt) (i : Nat) : WbEntry :=
  { cmd := fld (par k (6 + 4 * i)) 23 0, queue := fld (par k (7 + 4 * i)) 15 0
    arg := (par k (8 + 4 * i)).toNat + 2 ^ 32 * fld (par k (9 + 4 * i)) 15 0 }

/-- A livery may reach an address by the regions of a timetable (R80), read and write. -/
def declAllows (t : Timetable) (liv : Byte) (a : Nat) : Bool :=
  match decodeRange a 1 with
  | none => false
  | some p => t.body.regions.any (fun r => r.target == p.tgt && 4096 * r.base ≤ p.off && p.off < 4096 * (r.base + r.size) &&
      r.liveries.contains liv && (r.r || r.w))

/-- The context's firewalls let its livery reach a batch address (Table 10-6). -/
def batchOk (s : State) (t : Timetable) (armed : Bool) (liv : Byte) (a : Nat) : Bool :=
  a = 0 || (if armed then declAllows t liv a
    else match decodeRange a 1 with
      | none => false
      | some p => fwAllows s p.tgt liv p.off 1 .read || fwAllows s p.tgt liv p.off 1 .write)

/-- The refusal of an entry at step 10, its words in ascending order (R116, R639, Tables 10-2, 10-6). -/
def wbEntryBad (s : State) (t : Timetable) (armed : Bool) (c qcount : Nat) (liv : Byte) (k : Pkt) (i : Nat) : Option (Byte × Nat) :=
  let e := wbEntry k i
  let own := match cmdDecl t e.cmd with
    | none => false
    | some d => d.ctx.val == c
  if fld (par k (6 + 4 * i)) 31 24 ≠ 0 || !own then some (stBadParam, 10 + 4 * i)
  else if fld (par k (7 + 4 * i)) 31 16 ≠ 0 || qcount ≤ e.queue then some (stBadParam, 11 + 4 * i)
  else if !batchOk s t armed liv e.arg then some (stFirewall, 12 + 4 * i)
  else if fld (par k (9 + 4 * i)) 31 16 ≠ 0 then some (stBadParam, 13 + 4 * i)
  else none

/-- Descriptors of a list of entries for one local queue. -/
def descsFor (t : Timetable) (es : List WbEntry) (q : Nat) : Nat :=
  ((es.filter (fun e => e.queue = q)).map (fun e => ((cmdDecl t e.cmd).map (fun d => d.descs.length)).getD 0)).sum

/-- The ring of a queue: by the relay placement of an armed timetable, else by the placement in force, else as its context
stands. -/
def ringSize (s : State) (t : Timetable) (armed : Bool) (q : Nat) : Nat :=
  let place := if armed then t.body.relay[s.stg.relay]? else placement s
  ((place.bind (fun p => p.queues.find? (fun e => e.queue = q))).map (fun e => 2 ^ e.logsize)).getD
    (if armed then 0 else qSize (queue s q))

/-- WB_SUBMIT (R54, R80, Table 10-6). -/
def rowWbSubmit : OpDef := {
  form := { cls := 2, op := 0, lenIdx := 9, lenOk := fun k => pktLen k = 6 + 4 * parN k 5 }
  ctxOk := wbCtxOk
  run := fun s k =>
    let n := parN k 5
    let ident := par64 k 2
    match wbTimetable s ident with
    | none => .refuse stBadParam 10 (if wbStageOk s false (par64 k 0) then 6 else 4)
    | some (t, armed) =>
      let c := pktCtx k
      let d := ctxDecl t c
      let qcount := (d.map (·.qcount)).getD 0
      let qbase := (d.map (·.qbase)).getD 0
      let liv := (d.map (·.livery)).getD 0x01
      let stage := par64 k 0
      let es := (List.range n).map (wbEntry k)
      if !wbStageOk s armed stage then .refuse stBadParam 10 4
      else if ident ≠ t.figs.ident || wbOld s armed stage then .refuse stBadParam 10 6
      else if 4093 < n then .refuse stBadParam 10 9
      else match (List.range n).findSome? (wbEntryBad s t armed c qcount liv k) with
        | some (st, i) => .refuse st 10 i
        | none =>
          let other := s.dis.waybills.filter (fun w => w.st = .held && w.ctx.val = c && w.stage = stage && w.forArmed = armed)
          if es.any (fun e => ringSize s t armed (qbase + e.queue) <
              descsFor t es e.queue + (other.map (fun w => descsFor t w.entries e.queue)).sum) then
            .refuse stNoResource 11 0xFFFF
          else if n = 0 then .answer stOkEmpty [] s
          else
            let id := s.dis.nextId
            let w : Waybill := {
              id := id, ctx := fin (by decide) c, stage := stage, ident := ident, batch := par k 4, entries := es, prio := pktPrio k
              forArmed := armed, st := .held, written := 0, completed := 0, discarded := 0, reexec := 0, bad := false }
            .later (.waybill id) (setDis s (fun d => { d with waybills := d.waybills ++ [w], nextId := id + 1 })) }

def wbStateCode : WbState → Nat
  | .held => 0
  | .running => 1
  | .complete => 2

/-- The status of a stage's output, or ST_NOT_READY before the stage ends (Table 10-6). -/
def outputStatus (s : State) (stage : Nat) : Byte :=
  match s.dis.outputs.find? (fun e => e.1 = stage) with
  | some e => if e.2 then stFallbackHeld else stOk
  | none => stNotReady

/-- WB_STATUS (Table 10-6). -/
def rowWbStatus : OpDef :=
  opDef (fixedRow 2 1 3) (fun s k =>
    let stage := par64 k 0
    match (s.dis.waybills.filter (fun w => w.ctx.val = pktCtx k && w.stage = stage && w.batch = par k 2)).getLast? with
    | none => .refuse stBadParam 10 (if s.stg.stage < stage || stage + 16 < s.stg.stage then 4 else 6)
    | some w =>
      if stage + 16 < s.stg.stage then .refuse stBadParam 10 4
      else .answer stOk ([toW (wbStateCode w.st)] ++
        [w.completed, w.written, w.discarded, w.reexec].map toW ++ [toW (outputStatus s stage).toNat]) s)

/-- Q_QUERY (Table 10-6). -/
def rowQQuery : OpDef :=
  opDef (fixedRow 2 2 2) (fun s k =>
    let a := parN k 0
    let c := parN k 1
    let n := (ctxRec s (pktCtx k)).qcount
    if n < a then .refuse stBadParam 10 4
    else if 2040 < c || n < a + c then .refuse stBadParam 10 5
    else if c = 0 then .answer stOkEmpty [] s
    else
      let qs := (List.range c).map (fun i => (ctxRec s (pktCtx k)).qbase + a + i)
      let s := forAll s qs syncQueue
      .answer stOk (qs.flatMap (fun q => queueWords (queue s q))) s)

end Sys2Proof.Machine
end

