-- ==== Sys2Proof/Machine/Planner.lean ====
section
/-! DEFINITION. The motion planner (08): the signed distance field, the clearance check, the lattice search, the output
gate, the urgent ports and the class 0x5 opcodes. -/

namespace Sys2Proof.Machine

def setMpl (s : State) (f : Mpl → Mpl) : State := { s with mpl := f s.mpl }

/-! Configuration (Tables 8-11 to 8-14). -/

structure PlanCfg where
  tmax  : Nat
  depth : Nat
  hor   : Nat
  vstep : Nat
  hmin  : Nat
  csoft : Nat
  kc    : Nat
  infl  : Nat
  guard : Nat
  foot  : List (Int × Int × Int)   -- along, across, radius
  deriving DecidableEq, Repr

def footOf (w : Word) : Int × Int × Int := (sx 14 (fld w 31 18), sx 10 (fld w 17 8), fld w 7 0)

def planCfg (ws : List Word) : PlanCfg :=
  { tmax := fld (nth ws 0) 22 12, depth := fld (nth ws 0) 6 0, hor := fld (nth ws 1) 28 24, vstep := fld (nth ws 1) 23 16
    hmin := fld (nth ws 1) 15 0, csoft := fld (nth ws 2) 31 24, kc := fld (nth ws 2) 23 16, infl := fld (nth ws 2) 15 8
    guard := fld (nth ws 2) 7 0, foot := (ws.drop 3).map footOf }

/-- The words of the configuration registers without their reserved bits (R7). -/
def mplMask (ws : List Word) : List Word :=
  [nth ws 0 &&& 0x007FF07F, nth ws 1 &&& 0x1FFFFFFF, nth ws 2] ++ (ws.drop 3).take 8

/-- The index of the first configuration word that breaks R325. -/
def cfgBad (ws : List Word) : Option Nat :=
  let c := planCfg ws
  if c.depth = 0 || 64 < c.depth || c.tmax = 0 || 2000 < c.tmax then some 0
  else if c.hor = 0 || c.vstep = 0 then some 1
  else if c.guard < 18 then some 2
  else (c.foot.zipIdx.find? (fun e =>
    e.1.2.2 - (c.infl : Int) + c.guard < 0 || 100 < e.1.2.2 - (c.infl : Int) + c.guard)).map (fun e => 3 + e.2)

/-- A commit of the shadowed fields (R321). -/
def commitMpl (s : State) : State :=
  if (cfgBad s.mpl.shadow).isNone then setMpl s (fun m => { m with cfg := m.shadow })
  else setMpl s (fun m => { m with shadow := m.cfg, badcfg := true })

/-- What a tick found in the shadows takes effect, or is discarded; shadows written since stand for the next boundary (R11,
R321, R322). -/
def commitKept (m : Mpl) (ws : List Word) : Mpl :=
  if (cfgBad ws).isNone then { m with cfg := ws, defCommit := none }
  else { m with
    shadow := ((m.shadow.zip ws).zip m.cfg).map (fun x => if x.1.1 = x.1.2 then x.2 else x.1.1)
    badcfg := true, defCommit := none }

/-- A stage boundary's commit that fell into a search takes effect once it has ended (R322). -/
def flushMpl (s : State) : State :=
  match s.mpl.defCommit with
  | some ws => if s.mpl.search.isNone then setMpl s (fun m => commitKept m ws) else s
  | none => s

/-- MPL_CTL.commit (R321, R322). -/
def mplCommitNow (s : State) : State :=
  if s.mpl.search.isSome then setMpl s (fun m => { m with busywr := true }) else commitMpl (flushMpl s)

/-- The commit of a stage boundary: during a build or search it waits for the search's end (R322). -/
def tickMpl (s : State) : State :=
  if s.mpl.search.isSome then setMpl s (fun m => { m with defCommit := some m.shadow }) else commitMpl (flushMpl s)

/-- MPL_DEFERRED_COMMIT (R322). -/
def execMplDeferredCommit (s : State) : Out := .next (flushMpl s)

/-! The signed distance field (R285-R288). -/

/-- Offsets of Table 8-2. -/
abbrev occBase : Nat := 0x1600000
abbrev primBase : Nat := 0x1700000
def slotBase (n : Nat) : Nat := 0x1780000 + 2048 * n

/-- Cell (i, j) of slice s is occupied, by the occupancy area (R286); cells outside the grid count as free (R287). -/
def occAt (occ : Mem) (s : Nat) (i j : Int) : Bool :=
  0 ≤ i && i < 512 && 0 ≤ j && j < 512 &&
    (memByte occ (s * 32768 + i.toNat * 64 + j.toNat / 8)).toNat.testBit (j.toNat % 8)

/-- The occupied cells of a slice. -/
def occCells (occ : Mem) (s : Nat) : List (Int × Int) :=
  (occ.cells.filter (fun c => s * 32768 ≤ c.1 && c.1 < (s + 1) * 32768)).flatMap (fun c =>
    let o := c.1 - s * 32768
    ((List.range 8).filter c.2.toNat.testBit).map (fun b => ((o / 64 : Nat), (o % 64 * 8 + b : Nat))))

/-- Distance in cm along one axis from a cell's centre to the nearest point of a cell `d` cells away. -/
def axisGap (d : Int) : Nat := 20 * d.natAbs - 10

/-- Square of the distance from the centre of cell (i, j) to the square of cell (k, l). -/
def gapSq (i j k l : Int) : Nat := axisGap (i - k) ^ 2 + axisGap (j - l) ^ 2

/-- The cells at Chebyshev distance `r` from (i, j). -/
def ringCells (i j : Int) (r : Nat) : List (Int × Int) :=
  (List.range (2 * r + 1)).flatMap (fun (e : Nat) =>
    let d : Int := (e : Int) - r
    if e = 0 || e = 2 * r then (List.range (2 * r + 1)).map (fun (f : Nat) => (i + d, j + ((f : Int) - r)))
    else [(i + d, j - r), (i + d, j + r)])

def minNat (a : Option Nat) (b : Nat) : Option Nat := some (a.elim b (min b))

/-- The nearest free cell, ring by ring: no ring beyond one whose nearest point is farther than the best holds a nearer. -/
def nearestFree (occ : Mem) (s : Nat) (i j : Int) : Nat → Nat → Option Nat → Option Nat
  | 0, _, best => best
  | k + 1, r, best =>
    if best.elim false (fun b => b ≤ axisGap r ^ 2) then best
    else
      let free := (ringCells i j r).filter (fun c => !occAt occ s c.1 c.2)
      nearestFree occ s i j k (r + 1) (free.foldl (fun b c => minNat b (gapSq i j c.1 c.2)) best)

/-- The distance D of R287: infinite, or plus or minus the root of an integer. -/
inductive Dist where
  | pinf
  | ninf
  | plus (sq : Nat)
  | minus (sq : Nat)
  deriving DecidableEq, Repr

def cellDist (occ : Mem) (s i j : Nat) : Dist :=
  let cells := occCells occ s
  if occAt occ s i j then
    if cells.length = 262144 then .ninf
    else (nearestFree occ s i j 512 1 none).elim .ninf .minus
  else (cells.foldl (fun b c => minNat b (gapSq i j c.1 c.2)) none).elim .pinf .plus

/-- Values of Table 8-1. -/
def codeVal (c : Nat) : Int :=
  if c ≤ 87 then -100 - 10 * (88 - (c : Int)) else if c ≤ 138 then 4 * ((c : Int) - 113) else 100 + 10 * ((c : Int) - 138)

/-- E = D - infl lies above the middle between the values of codes c - 1 and c: strictly, so that a tie goes to the code of
smaller value (R288). -/
def aboveMid (d : Dist) (infl c : Nat) : Bool :=
  let m := (codeVal (c - 1) + codeVal c) / 2 + infl
  match d with
  | .pinf => true
  | .ninf => false
  | .plus n => m < 0 || m * m < n
  | .minus n => m < 0 && n < m * m

def codeBits (d : Dist) (infl : Nat) : Nat → Nat → Nat
  | 0, c => c
  | k + 1, c => codeBits d infl k (if aboveMid d infl (c + 2 ^ k) then c + 2 ^ k else c)

/-- The field code of a distance (R288). -/
def fieldCode (d : Dist) (infl : Nat) : Nat := codeBits d infl 8 0

/-- The field byte of a cell. -/
def fieldByte (f : Field) (s i j : Nat) : Nat := if f.built then fieldCode (cellDist f.occ s i j) f.infl else 0

def frontField (m : Mpl) : Field := if m.front then m.buf1 else m.buf0
def backField (m : Mpl) : Field := if m.front then m.buf0 else m.buf1

/-! The clearance check (R296, R297). -/

/-- Clearance of one circle, or none when it is out of field. -/
def circleClr (c : PlanCfg) (f : Field) (p : Pose) (k : Int × Int × Int) : Option Int :=
  let cs := cosSin p.h
  let cx := p.x + (k.1 * cs.1 - k.2.1 * cs.2 + 8192).fdiv 16384
  let cy := p.y + (k.1 * cs.2 + k.2.1 * cs.1 + 8192).fdiv 16384
  let j := (cx + 5120).fdiv 20
  let i := (cy + 5120).fdiv 20
  let s := (p.t + 124) / 250
  if i < 0 || 511 < i || j < 0 || 511 < j || 31 < s then none
  else some (codeVal (fieldByte f s i.toNat j.toNat) - (k.2.2 - c.infl) - c.guard)

def outOfField : Int := -32768

def minInt (l : List Int) (d : Int) : Int :=
  match l with
  | [] => d
  | a :: r => r.foldl min a

/-- Pose clearance (R296). -/
def poseClr (c : PlanCfg) (f : Field) (p : Pose) : Int :=
  let l := c.foot.map (circleClr c f p)
  if l.any (·.isNone) then outOfField else minInt (l.filterMap id) outOfField

/-- What a check reports: smallest clearance and first pose not clear, 0xFF for none (R297). -/
structure Check where
  clr   : Int
  first : Nat
  deriving DecidableEq, Repr

def checkPoses (c : PlanCfg) (f : Field) (ps : List Pose) : Check :=
  let l := ps.map (poseClr c f)
  { clr := minInt l 0, first := (l.findIdx? (fun v => v < 0)).getD 0xFF }

def Check.clear (k : Check) : Bool := k.first = 0xFF

/-- The clearance of poses against the newest field with the values in effect (R292). -/
def checkNow (s : State) (ps : List Pose) : Check := checkPoses (planCfg s.mpl.cfg) (frontField s.mpl) ps

/-- The record in a slot. -/
def slotWords (s : State) (n : Nat) : List Word := memRdW s.mpl.sram (slotBase n) 512

def putSlot (s : State) (n : Nat) (ws : List Word) : State := setMpl s (fun m => { m with sram := memWrW m.sram (slotBase n) ws })

/-- A slot cleared whole. -/
def clearSlot (s : State) (n : Nat) : State := putSlot s n (List.replicate 512 0)

/-- A lane disagreement (R300): counted, and an entry of class 0x0E (14, Table 14-1). -/
def laneMismatch (s : State) : State :=
  logF (setMpl s (fun m => { m with
    mism := true, ckMism := satAdd 255 m.ckMism 1, mismStages := histAdd 1000 s.stg.stage m.mismStages }))
    { cls := 0x0E, unit := unitIod, status := stInternal }

/-- A field byte whose word check fails (R300); Table 14-1 names no class for it, and its entry takes that of R300's row. -/
def fieldWordError (s : State) : State := logF s { cls := 0x0E, unit := unitIod, status := stBadCheck }

/-- The status of a check that an event made report not clear (R300). -/
def eventStatus : CheckEvent → Byte
  | .word => stBadCheck
  | _ => stInternal

/-- What a check's event leaves behind. -/
def checkEvent (s : State) : CheckEvent → State
  | .clean => s
  | .lanes => laneMismatch s
  | .word => fieldWordError s

/-- Word 2 of a check's answer (Table 8-5): smallest clearance, first index, count. -/
def checkWord (k : Check) (n : Nat) : Word := toW (at_ (tc 16 k.clr) 16 + at_ k.first 8 + n)

/-! The lattice search (R304-R309). -/

/-- A state of the lattice: layer, cell, heading bin, speed bin. -/
structure Lattice where
  layer : Nat
  i     : Int
  j     : Int
  hb    : Nat
  sb    : Nat
  deriving DecidableEq, Repr

def latCode (l : Lattice) : Nat :=
  (((l.layer * 2 ^ 20 + (l.i + 2 ^ 19).toNat) * 2 ^ 20 + (l.j + 2 ^ 19).toNat) * 64 + l.hb) * 32 + l.sb

/-- Centre of a cell along one axis (R285). -/
def centre (k : Int) : Int := 20 * k - 5110

/-- The pose of a state (08, after Table 8-5). -/
def latPose (c : PlanCfg) (l : Lattice) : Pose :=
  { x := centre l.j, y := centre l.i, h := l.hb * 1024, v := l.sb * c.vstep, t := 250 * l.layer }

/-- A queue entry: key, insertion sequence, state, cost, path clearance, parent record, poses of the step to it. -/
structure SEntry where
  f      : Nat
  seq    : Nat
  lat    : Lattice
  g      : Nat
  clr    : Int
  parent : Option Nat
  step   : List Pose
  deriving DecidableEq, Repr

/-- What a search holds while it runs; `nodes` newest first. -/
structure SRun where
  queue  : List SEntry := []
  count  : Nat := 0
  seq    : Nat := 0
  flight : List (Nat × List SEntry) := []
  closed : List Nat := []
  nodes  : List SEntry := []
  stored : Nat := 0
  cands  : List Nat := []     -- node records, in pop order
  pops   : Nat := 0
  exps   : Nat := 0
  peak   : Nat := 0
  evict  : Nat := 0
  drop   : Nat := 0
  deriving DecidableEq, Repr

/-- Into its place: by key, behind the entries of equal key that were inserted before. -/
def placeEntry (e : SEntry) : List SEntry → List SEntry
  | [] => [e]
  | x :: r => if x.f ≤ e.f then x :: placeEntry e r else e :: x :: r

/-- An insertion (R307). -/
def insertEntry (cap : Nat) (r : SRun) (e : SEntry) : SRun :=
  let e := { e with seq := r.seq }
  if cap ≤ r.count then
    if (r.queue.getLast?).elim true (fun l => l.f ≤ e.f) then { r with drop := r.drop + 1 }
    else { r with queue := placeEntry e r.queue.dropLast, seq := r.seq + 1, evict := r.evict + 1 }
  else
    { r with queue := placeEntry e r.queue, seq := r.seq + 1, count := r.count + 1, peak := max r.peak (r.count + 1) }

def sat32 (a b : Nat) : Nat := min 0xFFFFFFFF (a + b)

/-- Entry p of state (hb, sb) of the primitive table (Table 8-6). -/
def primitive (sram : Mem) (hb sb p : Nat) : List Word := memRdW sram (primBase + 16 * ((hb * 32 + sb) * 16 + p)) 4

/-- The successor of a popped entry through primitive p (R305, R306), none when the entry is not in use or a pose is not
clear. -/
def successor (c : PlanCfg) (f : Field) (sram : Mem) (n : SEntry) (rcd p : Nat) : Option SEntry :=
  let w := primitive sram n.lat.hb n.lat.sb p
  let x := centre n.lat.j
  let y := centre n.lat.i
  let mid : Pose := {
    x := x + sx 16 (fld (nth w 0) 15 0), y := y + sx 16 (fld (nth w 0) 31 16), h := fld (nth w 2) 15 0
    v := fld (nth w 3) 31 16, t := 250 * n.lat.layer + 125 }
  let lat : Lattice := {
    layer := n.lat.layer + 1, i := (y + sx 16 (fld (nth w 1) 31 16) + 5120).fdiv 20
    j := (x + sx 16 (fld (nth w 1) 15 0) + 5120).fdiv 20, hb := fld (nth w 2) 21 16, sb := fld (nth w 2) 26 22 }
  if !tbit (nth w 2) 31 then none
  else
    let clr := min (poseClr c f mid) (poseClr c f (latPose c lat))
    if clr < 0 then none
    else
      let g := sat32 n.g (fld (nth w 3) 15 0 + c.kc * (max 0 ((c.csoft : Int) - clr)).toNat)
      some {
        f := sat32 g ((c.hor - n.lat.layer - 1) * c.hmin), seq := 0, lat := lat, g := g, clr := min n.clr clr
        parent := some rcd, step := [mid, latPose c lat] }

/-- The pop of one cycle (R306). The state hash may leave a state unrecorded once it holds more than 8 probes' entries. -/
def popEntry (c : PlanCfg) (f : Field) (sram : Mem) (cycle : Nat) (r : SRun) (n : SEntry) : SRun :=
  let r := { r with queue := r.queue.tail, count := r.count - 1, pops := r.pops + 1 }
  let k := latCode n.lat
  if r.closed.contains k then r
  else
    let rcd := r.stored
    let lost := 8 ≤ r.closed.length && Config.hashLost r.closed k
    let r := { r with closed := if lost then r.closed else k :: r.closed, nodes := n :: r.nodes, stored := r.stored + 1 }
    if n.lat.layer = c.hor then { r with cands := r.cands ++ [rcd] }
    else
      let succ := (List.range 16).filterMap (successor c f sram n rcd)
      { r with exps := r.exps + 1, flight := r.flight ++ [(cycle + 24, succ)] }

/-- Successors whose 24 cycles are over enter the queue (R308). -/
def landAll (cap : Nat) (r : SRun) (l : List (Nat × List SEntry)) : SRun :=
  (l.flatMap (·.2)).foldl (insertEntry cap) r

/-- The end condition that holds in a cycle, in the order of Table 8-7. -/
def endReason (c : PlanCfg) (limit : Option Nat) (cycle : Nat) (r : SRun) : Option Nat :=
  if 8 ≤ r.cands.length then some 0
  else if c.tmax * 6000 ≤ cycle then some 2
  else if limit.elim false (· ≤ cycle) then some 3
  else if 262144 ≤ r.stored then some 4
  else if r.queue.isEmpty && (r.flight.flatMap (·.2)).isEmpty then some 1
  else none

/-- The cycles of a search (R306, R308, R309), `cycle` being the present one: the run, the reason and the cycle it ends in.
A search that 8 candidates or a full node store end waits for the successors in flight (08, Table 8-23). -/
def searchRun (c : PlanCfg) (f : Field) (sram : Mem) (limit : Option Nat) : Nat → Nat → SRun → SRun × Nat × Nat
  | 0, cycle, r => (r, 2, cycle)
  | k + 1, cycle, r =>
    let cap := 1024 * c.depth
    let due := r.flight.filter (fun e => e.1 ≤ cycle)
    let r := landAll cap { r with flight := r.flight.filter (fun e => cycle < e.1) } due
    match endReason c limit cycle r with
    | some 0 => (landAll cap { r with flight := [] } r.flight, 0, r.flight.foldl (fun m e => max m e.1) cycle)
    | some 4 => (landAll cap { r with flight := [] } r.flight, 4, r.flight.foldl (fun m e => max m e.1) cycle)
    | some reason => (r, reason, cycle)
    | none =>
      match r.queue with
      | [] => searchRun c f sram limit k (cycle + 1) r
      | n :: _ => searchRun c f sram limit k (cycle + 1) (popEntry c f sram cycle r n)

/-- The start state (R306). -/
def startLat (c : PlanCfg) (p : Pose) : Lattice :=
  { layer := 0, i := (p.y + 5120).fdiv 20, j := (p.x + 5120).fdiv 20, hb := (p.h + 512) / 1024 % 64
    sb := min 31 ((2 * p.v + c.vstep) / (2 * c.vstep)) }

/-- A whole search: the run, its reason, its cycles (R306, Table 8-7). -/
def searchAll (c : PlanCfg) (f : Field) (sram : Mem) (p : Pose) (limit : Option Nat) : SRun × Nat × Nat :=
  let clr := poseClr c f p
  if clr < 0 then ({}, 5, 0)
  else
    let first : SEntry := {
      f := sat32 0 (c.hor * c.hmin), seq := 0, lat := startLat c p, g := 0, clr := clr, parent := none, step := [] }
    searchRun c f sram limit (c.tmax * 6000 + 1) 0 (insertEntry (1024 * c.depth) {} first)

/-- Node record `k`. -/
def nodeAt (r : SRun) (k : Nat) : Option SEntry := r.nodes[r.stored - 1 - k]?

/-- The poses from the start to a record, the start pose first (R314). -/
def pathTo (r : SRun) (start : Pose) : Nat → Nat → List Pose
  | 0, _ => [start]
  | d + 1, k =>
    match nodeAt r k with
    | none => [start]
    | some n =>
      match n.parent with
      | none => [start]
      | some q => pathTo r start d q ++ n.step

/-- The record of R310: deepest layer, largest path clearance, least g, lowest number. -/
def bestPartial (r : SRun) : Option (Nat × SEntry) :=
  ((List.range r.stored).filterMap (fun k => (nodeAt r k).map (fun n => (k, n)))).foldl (fun b e =>
    match b with
    | none => some e
    | some a =>
      if a.2.lat.layer < e.2.lat.layer ||
        (a.2.lat.layer == e.2.lat.layer && (a.2.clr < e.2.clr || (a.2.clr == e.2.clr && e.2.g < a.2.g))) then some e
      else some a) none

/-- Candidates ranked by g, ties by pop order (R314). -/
def rankCands (r : SRun) : List (Nat × SEntry) :=
  let l := r.cands.filterMap (fun k => (nodeAt r k).map (fun n => (k, n)))
  l.foldl (fun acc e => acc.takeWhile (fun a => a.2.g ≤ e.2.g) ++ e :: acc.dropWhile (fun a => a.2.g ≤ e.2.g)) []

/-- Reply status of a search (Table 8-7). -/
def searchStatus (cands reason : Nat) : Byte :=
  if 0 < cands then stOk else if reason = 5 || reason = 1 then stNoPath else stPlanTimeout

/-! Searches as commands (R290, R291, R309-R314). -/

def startPose (q : Search) : Pose := wordsPose q.pose.1 q.pose.2 0

/-- The partial trajectory of R310; a search that has recorded no node gives the start pose alone. -/
def partialTraj (c : PlanCfg) (f : Field) (q : Search) (r : SRun) : Traj :=
  let p := startPose q
  let clr := poseClr c f p
  match bestPartial r with
  | none => { rstat := stOkPartial, clr := clr, first := if clr < 0 then 0 else 0xFF, gen := f.gen, poses := [p] }
  | some (k, n) => { rstat := stOkPartial, g := n.g, clr := n.clr, gen := f.gen, poses := pathTo r p 32 k }

/-- The summary of Table 8-9; the search time is floored to whole ns. -/
def summaryWords (r : SRun) (cands : List (Nat × SEntry)) (reason cycles gen : Nat) : List Word :=
  [toW (at_ cands.length 4 + reason), toW r.pops, toW r.exps, toW r.peak, toW (at_ (min r.evict 65535) 16 + min r.drop 65535),
    toW gen, toW (cands.head?.elim 0xFFFFFFFF (fun e => e.2.g)), toW (cycles * 5 / 3)]

/-- What the search under way comes to, with the stage deadline at a cycle or none. -/
def searchNow (s : State) (q : Search) (limit : Option Nat) : SRun × Nat × Nat :=
  searchAll (planCfg q.cfg) (frontField s.mpl) s.mpl.sram (startPose q) limit

/-- A search ends (R309, R310, R314, R315, R318): candidates or the partial in their slots, the result registers, the reply. -/
def finishSearch (s : State) (q : Search) (out : SRun × Nat × Nat) : State :=
  let c := planCfg q.cfg
  let f := frontField s.mpl
  let r := out.1
  let cands := rankCands r
  let st := searchStatus cands.length out.2.1
  let part := trajWords (partialTraj c f q r)
  let sum := summaryWords r cands out.2.1 out.2.2 f.gen
  let s := if cands.isEmpty then putSlot s 8 part
    else forAll s cands.zipIdx (fun s e => putSlot s e.2 (trajWords {
      rank := e.2, g := e.1.2.g, clr := e.1.2.clr, gen := f.gen, poses := pathTo r (startPose q) 32 e.1.1 }))
  let s := (fresh s).2
  let s := setMpl s (fun m => { m with
    st := 1, search := none, sstat := st.toNat, cands := cands.length, candsHeld := cands.length, reason := out.2.1
    pops := r.pops, qpeak := r.peak, evict := min r.evict 65535, drop := min r.drop 65535
    current := true, ended := true, gateOpen := m.gateOpen || s.stg.inlay })
  completeDefers s .search st (if cands.isEmpty then execDetail :: sum ++ part else sum)

/-- The search that runs, its build, if any, over. -/
def running (m : Mpl) : Option Search := m.search.filter (fun q => !q.waiting && !q.building)

/-- SEARCH_END: the search ends for a reason of Table 8-7 other than the stage deadline. -/
def execSearchEnd (s : State) : Out :=
  .next (match running s.mpl with
    | none => s
    | some q => finishSearch s q (searchNow s q none))

/-- SEARCH_TIME_BUDGET: the search start plus tmax is reached, reason 2 (R309). -/
def execSearchTimeBudget (s : State) : Out :=
  .next (match running s.mpl with
    | none => s
    | some q => if (searchNow s q none).2.1 = 2 then finishSearch s q (searchNow s q none) else s)

/-- SEARCH_STAGE_DEADLINE: the deadline of R311 is reached in the given cycle of the search, reason 3: for a search of the main
window before the layover starts, for one of the layover before the cut-off. -/
def execSearchStageDeadline (cycles : Nat) (s : State) : Out :=
  .next (match running s.mpl with
    | none => s
    | some q =>
      if q.layover = s.stg.inlay && !s.stg.cutoffPast && (searchNow s q (some cycles)).2.1 = 3 then
        finishSearch s q (searchNow s q (some cycles))
      else s)

/-- No search outlives its deadline (R311): one of the main window the layover start, one of the layover the cut-off. How many
cycles it had run is not stated; one whose field is not built yet ends without a node. -/
def endLate (s : State) (layover : Bool) : State :=
  match s.mpl.search with
  | none => s
  | some q =>
    if q.layover = layover then
      let limit := Config.choice s.free % (6000 * (planCfg q.cfg).tmax + 1)
      finishSearch (fresh s).2 q (if q.waiting || q.building then ({}, 3, 0) else searchNow s q (some limit))
    else s

/-- Class 0x5 is accepted on context 0 and the planning context alone (R320). -/
def planCtx (s : State) (k : Pkt) : Bool :=
  pktCtx k == 0 || s.tt.active.elim false (fun t => t.body.planning.val == pktCtx k)

/-- The checks of MPL_SEARCH at steps 10 and 11 (Table 8-8, R312); `host` where it comes in a packet. -/
def searchRefusal (s : State) (par : List Word) (host : Bool) : Option (Byte × Nat × Nat) :=
  let build := tbit (nth par 0) 0
  if fld (nth par 0) 31 1 ≠ 0 then some (stBadParam, 10, 4)
  else if !build && nth par 3 ≠ 0 then some (stBadParam, 10, 7)
  else if !build && nth par 4 ≠ 0 then some (stBadParam, 10, 8)
  else if s.mpl.search.isSome then some (stRefusedInUse, 11, 0xFFFF)
  else if (host && s.stg.inlay) || s.mpl.st = 0 || (!build && !s.mpl.fieldv) then some (stNotReady, 11, 0xFFFF)
  else none

/-- The search starts, after its build if it has one: slots 0-8 are cleared (R292, R314). -/
def startSearch (s : State) : State :=
  setMpl (fresh (forAll s (List.range 9) clearSlot)).2 (fun m => { m with
    st := 3, current := false, candsHeld := 0, searched := true })

/-- A search is accepted; with build it waits for the build (R290). -/
def beginSearch (s : State) (src : SearchSrc) (pkt : Option Pkt) (par : List Word) : State :=
  let build := tbit (nth par 0) 0
  let s := flushMpl s
  let s := if build then s else startSearch s
  setMpl s (fun m => { m with
    st := if build then 2 else 3
    search := some {
      src := src, pkt := pkt, build := build, waiting := build, building := false, pose := (nth par 1, nth par 2)
      t0 := join64 (nth par 3) (nth par 4), cfg := m.cfg, layover := s.stg.inlay } })

/-- MPL_SEARCH by packet, without or with a build. A packet of a wrong context is refused with index 1, the header word that
names the context (R320; DESIGN CHOICE, log entry 148). -/
def searchRow (build : Bool) : OpDef :=
  opDef { fixedRow 5 1 5 with sel := fun k => tbit (par k 0) 0 == build } (fun s k =>
    if !planCtx s k then .refuse stFirewall 10 1
    else match searchRefusal s (parsFrom k 0) true with
      | some r => .refuse r.1 r.2.1 r.2.2
      | none => .later .search (beginSearch s (.packet k.port) (some k) (parsFrom k 0)))

def rowMplSearch : OpDef := searchRow false
def rowMplSearchBuild : OpDef := searchRow true

/-- MPL_SEARCH by a command of the planning context, whose reply goes to the dispatcher. -/
def timetableSearch (build : Bool) (par : List Word) (s : State) : State :=
  if tbit (nth par 0) 0 = build && (searchRefusal s par false).isNone then beginSearch s (.timetable par) none par else s

def setBack (m : Mpl) (f : Field) : Mpl := if m.front then { m with buf0 := f } else { m with buf1 := f }

/-- FIELD_BUILD_START: the build reads the occupancy area as it stands now (R289, R290). A check is whole in one command of
the model, so none is reading the back buffer. -/
def execFieldBuildStart (s : State) : Out :=
  .next (match s.mpl.search with
    | none => s
    | some q =>
      if q.waiting then
        let occ : Mem := { cells := ((s.mpl.sram.cells.filter (fun c => occBase ≤ c.1 && c.1 < primBase)).map (fun c => (c.1 - occBase, c.2))) }
        setMpl s (fun m =>
          let m := setBack m { occ := occ, infl := (planCfg q.cfg).infl, built := false, t0 := q.t0, gen := 0 }
          { m with search := some { q with waiting := false, building := true } })
      else s)

/-- FIELD_PUBLISH (R291). -/
def execFieldPublish (s : State) : Out :=
  .next (match s.mpl.search with
    | none => s
    | some q =>
      if q.building then
        let gen := (s.mpl.gen + 1) % 2 ^ 24
        startSearch (setMpl s (fun m =>
          let m := setBack m { backField m with built := true, gen := gen }
          { m with
            front := !m.front, gen := gen, ref := q.t0, fieldv := true
            search := some { q with building := false } }))
      else s)

/-- The oldest held write takes effect. -/
def releaseWrite (s : State) (w : HeldWrite) : State := setMpl s (fun m => { m with sram := memWr m.sram w.addr w.data })

/-- OCCUPANCY_WRITE_RELEASE (R289). -/
def execOccupancyWriteRelease (s : State) : Out :=
  .next (match s.mpl.heldOcc with
    | [] => s
    | w :: r => if building s.mpl then s else
      heldDone (releaseWrite (setMpl s (fun m => { m with heldOcc := r })) w) w)

/-- PRIMITIVE_WRITE_RELEASE (R294). -/
def execPrimitiveWriteRelease (s : State) : Out :=
  .next (match s.mpl.heldPrim with
    | [] => s
    | w :: r => if (running s.mpl).isSome then s else
      heldDone (releaseWrite (setMpl s (fun m => { m with heldPrim := r })) w) w)

/-! Checks and the other opcodes (Table 8-8). -/

/-- MPL_CFG (R325); a wrong context is refused with index 1, the header word that names it (DESIGN CHOICE, log entry 148). -/
def rowMplCfg : OpDef :=
  opDef (fixedRow 5 0 11) (fun s k =>
    let ws := mplMask (parsFrom k 0)
    if !planCtx s k then .refuse stFirewall 10 1
    else match cfgBad ws with
      | some i => .refuse stBadParam 10 (4 + i)
      | none =>
        if s.mpl.search.isSome then .refuse stRefusedInUse 11 0xFFFF
        else .answer stOk [] (setMpl (flushMpl s) (fun m => { m with cfg := ws, shadow := ws })))

/-- The reply of a check (Table 8-8). -/
def checkReply (s : State) (k : Check) (n : Nat) : List Word :=
  [toW (b2n k.clear), checkWord k n, toW s.mpl.gen] ++ two s.mpl.ref

/-- The word with clearance and index of a check that an event made report not clear: the two fields are not stated. -/
def oddWord (ep n : Nat) : Word := toW (at_ (fld (openWord ep 0) 31 16) 16 + at_ (fld (openWord ep 0) 15 8) 8 + n)

/-- The reply of a check that an event made report not clear (R300). -/
def failReply (s : State) (n : Nat) : List Word := [0, oddWord s.free n, toW s.mpl.gen] ++ two s.mpl.ref

/-- MPL_CHECK of a slot; its number of parameters depends on parameter word 1 (Table 3-18). -/
def rowMplCheck (ev : CheckEvent) : OpDef :=
  opDef { fixedRow 5 2 1 with sel := fun k => !tbit (par k 0) 31, lenIdx := 5 } (fun s k =>
    let ws := slotWords s (fld (par k 0) 3 0)
    let n := trajCount ws
    if !planCtx s k then .refuse stFirewall 10 1
    else if fld (par k 0) 30 4 ≠ 0 || 64 < n then .refuse stBadParam 10 4
    else if !s.mpl.fieldv then .refuse stNotReady 11 0xFFFF
    else if n = 0 then .answer stOkEmpty [] s
    else if ev ≠ .clean then .answer (eventStatus ev) (failReply s n) (checkEvent (fresh s).2 ev)
    else .answer stOk (checkReply s (checkNow s (wordsTraj ws).poses) n) s)

/-- MPL_CHECK with inline poses, which replace slot 15. The status byte of that record is not stated. -/
def rowMplCheckInline (ev : CheckEvent) : OpDef :=
  opDef { cls := 5, op := 2, sel := fun k => tbit (par k 0) 31, lenIdx := 5,
            lenOk := fun k => 2 ≤ pktLen k && pktLen k == 2 + 4 * parN k 1 } (fun s k =>
    let n := parN k 1
    if !planCtx s k then .refuse stFirewall 10 1
    else if fld (par k 0) 30 4 ≠ 0 then .refuse stBadParam 10 4
    else if 64 < n then .refuse stBadParam 10 5
    else if !s.mpl.fieldv then .refuse stNotReady 11 0xFFFF
    else if n = 0 then .answer stOkEmpty [] s
    else
      let ps := wordsPoses (parsFrom k 2)
      let c := checkNow s ps
      let ep := s.free
      let rcd : Traj := {
        rstat := Config.openByte ep 0, clr := c.clr, first := c.first, gen := s.mpl.gen, poses := ps }
      if ev ≠ .clean then
        let odd := { rcd with clr := sx 16 (fld (openWord ep 0) 31 16), first := fld (openWord ep 0) 15 8 }
        .answer (eventStatus ev) (failReply s n) (checkEvent (putSlot (fresh s).2 15 (trajWords odd)) ev)
      else .answer stOk (checkReply s c n) (putSlot (fresh s).2 15 (trajWords rcd)))

/-- Candidates of the current set. -/
def currentCands (m : Mpl) : Nat := if m.current then m.candsHeld else 0

/-- MPL_CANDIDATES. -/
def rowMplCandidates : OpDef :=
  opDef (fixedRow 5 3 2) (fun s k =>
    let a := parN k 0
    let c := parN k 1
    let have_ := (List.range c).filter (fun i => a + i < currentCands s.mpl)
    if !planCtx s k then .refuse stFirewall 10 1
    else if 7 < a then .refuse stBadParam 10 4
    else if 8 < c || 8 < a + c then .refuse stBadParam 10 5
    else if have_.isEmpty then .answer stOkEmpty [] s
    else .answer (if have_.length = c then stOk else stOkPartial) (have_.flatMap (fun i => trajUsed (slotWords s (a + i)))) s)

/-- MPL_STATUS. -/
def rowMplStatus : OpDef :=
  opDef (fixedRow 5 4 0) (fun s k =>
    if !planCtx s k then .refuse stFirewall 10 1 else .answer stOk (mplWords s.mpl) s)

/-! The urgent ports (R302, R303). -/

def urgAlive (m : Mpl) : Isl → BitVec 8
  | .sia => m.urgAliveA
  | .sib => m.urgAliveB

def setUrgAlive (m : Mpl) (i : Isl) (v : BitVec 8) : Mpl :=
  match i with
  | .sia => { m with urgAliveA := v }
  | .sib => { m with urgAliveB := v }

/-- An urgent reply (Table 8-5). -/
def urgentReplyWords (req : List Word) (st : Byte) (clear : Bool) (mid : List Word) (ns : Nat) : List Word :=
  sealW ([toW (at_ st.toNat 24 + flagAt clear 8 + fld (nth req 0) 3 0), nth req 1] ++ mid ++ [toW (min ns 65535)])

/-- Words 2-5 of a reply whose check gave no value: they are not stated. -/
def openMid (ep : Nat) : List Word := (List.range 4).map (openWord ep)

/-- The checks of R303 from the alive counter on, in order. -/
def urgentFault (s : State) (i : Isl) (req : List Word) : Option (Byte × State) :=
  if fld (nth req 1) 7 0 ≠ (urgAlive s.mpl i).toNat then some (stStaleAlive, s)
  else
    let s := setMpl s (fun m => setUrgAlive m i (urgAlive m i + 1))
    if fld (nth req 0) 31 24 ≠ 1 then some (stBadOpcode, s)
    else if fld (nth req 0) 23 4 ≠ 0 || fld (nth req 1) 15 8 ≠ 0 || ((req.drop 2).take 5).any (· != 0) then some (stBadParam, s)
    else if !s.mpl.fieldv then some (stNotReady, s)
    else none

/-- A check on an urgent port that R303 lets pass. -/
def urgentServe (s : State) (i : Isl) (req : List Word) (ev : CheckEvent) (ns : Nat) : List Word × State :=
  let s := setMpl s (fun m => { setUrgAlive m i (urgAlive m i + 1) with maxns := max m.maxns (min ns 4095) })
  let ws := slotWords s (fld (nth req 0) 3 0)
  let n := trajCount ws
  let tail := [toW s.mpl.gen] ++ two s.mpl.ref
  let ep := s.free
  if 64 < n then (urgentReplyWords req stBadParam false (openMid ep) ns, (fresh s).2)
  else if n = 0 then
    (urgentReplyWords req stOkEmpty true (toW (at_ (fld (openWord ep 0) 31 16) 16 + 0xFF00) :: tail) ns, (fresh s).2)
  else if ev ≠ .clean then
    (urgentReplyWords req (eventStatus ev) false (oddWord ep n :: tail) ns, checkEvent (fresh s).2 ev)
  else
    let c := checkNow s (wordsTraj ws).poses
    (urgentReplyWords req stOk c.clear (checkWord c n :: tail) ns, s)

/-- The island's own slot (Table 8-2). -/
def ownSlot : Isl → Nat
  | .sia => 10
  | .sib => 11

/-- Word 1 of the request that is out (Table 8-5). -/
def urgTag (x : Island) : Word := toW (at_ x.urgSeq.toNat 16 + (x.aliveNext - 1).toNat)

/-- The slots an island checks in a step of Table 13-13. -/
def stepSlots (i : Isl) : IslStep → List Nat
  | .proposal | .reexpress => [ownSlot i]
  | .candidate => [9]
  | .idle => [ownSlot i, 9]

/-- An island sends each urgent check against its own slot or slot 9, and the request that is out against the slot of its step
(R478). A request that fails its check word says nothing of what was sent. -/
def asked (i : Isl) (x : Island) (req : List Word) : Bool :=
  req.length ≠ 8 || !sealOk req ||
    ((stepSlots i (if nth req 1 = urgTag x then x.step else .idle)).contains (fld (nth req 0) 3 0))

/-- URGENT_CHECK_REQUEST: a request on the urgent port of an island (R302, R303); one that no island sends does not arrive. -/
def execUrgentCheckRequest (i : Isl) (req : List Word) (ev : CheckEvent) (serviceNs : Nat) (s : State) : Out :=
  .next (
    if s.mpl.st = 0 || !hears s i || !asked i (isl s i) req then s
    else
      let r : List Word × State :=
        if req.length ≠ 8 || !sealOk req then
          (urgentReplyWords req stBadCheck false (openMid s.free) serviceNs, (fresh s).2)
        else match urgentFault s i req with
          | some (st, t) => (urgentReplyWords req st false (openMid t.free) serviceNs, (fresh t).2)
          | none => urgentServe s i req ev serviceNs
      emit (modIsl r.2 i (fun x => { x with urgReply := x.urgReply ++ [r.1] })) (.urgent i r.1))

/-! The output gate (R316-R318, R474). -/

/-- The first clear candidate in rank order, with its check. An event of R300 makes the first check report not clear. -/
def gateChoice (s : State) (ev : CheckEvent) : Option (Nat × List Word × Check) :=
  ((List.range (currentCands s.mpl)).filterMap (fun r =>
    let ws := trajUsed (slotWords s r)
    let c := checkNow s (wordsTraj ws).poses
    if c.clear && !(ev ≠ .clean && r == 0) then some (r, ws, c) else none)).head?

/-- The gate report (Table 13-12). -/
def gateReportWords (s : State) (crc : Word) : List Word :=
  sealW [toW (at_ s.mpl.gstat 24 + at_ s.mpl.grank 8 + b2n (stageComplete s)), toW s.stg.stage, toW s.mpl.gen, crc]

/-- The gate's record in slot 9: the candidate with its check results (R317). -/
def gatedWords (s : State) (ws : List Word) (c : Check) : List Word :=
  (ws.set 2 (toW (at_ (tc 16 c.clr) 16 + at_ c.first 8))).set 3 (toW s.mpl.gen)

def sendReport (s : State) (ws : List Word) : State :=
  bothIsl s (fun x => if x.linkUp then { x with reportQ := x.reportQ ++ [ws] } else x)

/-- What the gate records when no candidate is gated (R317). -/
def gateNone (s : State) : Byte :=
  if 0 < currentCands s.mpl then stCandidateLost else if s.mpl.ended then BitVec.ofNat 8 s.mpl.sstat else stNotReady

/-- The events of R316 have come. While no timetable is active no report reaches the islands (R85). -/
def gateDue (s : State) : Bool :=
  s.tt.active.isSome && s.mpl.st ≠ 0 && s.stg.inlay && s.mpl.gateOpen && s.mpl.search.isNone && s.dis.reexec.isEmpty

def execOutputGate (ev : CheckEvent) (s : State) : Out :=
  .next (
    if !gateDue s then s
    else
      let choice := gateChoice s ev
      let s := setMpl s (fun m => { m with gateOpen := false })
      let s := if 0 < currentCands s.mpl then checkEvent s ev else s
      match choice with
      | some (r, ws, c) =>
        let rcd := gatedWords s ws c
        let s := setMpl (putSlot s 9 rcd) (fun m => { m with gstat := 0, grank := r })
        sendReport s (gateReportWords s (crcW rcd))
      | none =>
        let s := setMpl s (fun m => { m with gstat := (gateNone s).toNat, grank := 15 })
        sendReport s (gateReportWords s 0))

end Sys2Proof.Machine
end

