-- ==== Sys2Proof/Machine/Fusion.lean ====
section
/-! DEFINITION. The fusion engine (09): samples and their checks, the round with ego-motion, association by auction, votes,
track update and births, the track table and the class 0x6 opcodes. -/

namespace Sys2Proof.Machine

def setFus (s : State) (f : Fus → Fus) : State := { s with fus := f s.fus }

def defStream : Stream := {}
def stream (s : State) (n : Nat) : Stream := bankGet defStream s.fus.streams n
def modStream (s : State) (n : Nat) (f : Stream → Stream) : State :=
  setFus s (fun u => { u with streams := bankSet defStream u.streams n (f (bankGet defStream u.streams n)) })

/-! Configuration (Tables 9-12 to 9-18, 9-22; R365, R366). -/

structure FusCfg where
  start    : Nat
  refoff   : Nat
  cmiss    : Nat
  gate     : Nat
  eps0     : Nat
  cscale   : Nat
  kcls     : Nat
  alpha    : Nat
  beta     : Nat
  cinc     : Nat
  cdec     : Nat
  cmask    : Nat
  cconf    : Nat
  cnew     : Nat
  cconfirm : Nat
  birth    : Nat
  maxage   : Nat
  umrounds : Nat
  ctol     : Nat
  egotol   : Nat
  maxbids  : Nat
  cov      : List Word
  deriving DecidableEq, Repr

def fusCfg (ws : List Word) : FusCfg :=
  let f := fun i hi lo => fld (nth ws i) hi lo
  { start := f 0 13 0, refoff := f 0 31 24, cmiss := f 1 31 16, gate := f 1 15 6, eps0 := f 1 4 0, cscale := f 2 31 24
    kcls := f 2 23 16, alpha := f 2 15 8, beta := f 2 7 0, cinc := f 3 31 24, cdec := f 3 23 16, cmask := f 3 15 8
    cconf := f 3 7 0, cnew := f 4 31 24, cconfirm := f 4 23 16, birth := f 4 15 8, maxage := f 5 31 24, umrounds := f 5 23 20
    ctol := f 5 15 8, egotol := f 5 7 0, maxbids := f 6 15 0, cov := (ws.drop 7).take 20 }

/-- The words of the configuration registers without their reserved bits (R7). -/
def fusMask (ws : List Word) : List Word :=
  [nth ws 0 &&& 0xFF003FFF, nth ws 1 &&& 0xFFFFFFDF, nth ws 2, nth ws 3, nth ws 4 &&& 0xFFFFFF00, nth ws 5 &&& 0xFFF0FFFF,
    nth ws 6 &&& 0x0000FFFF] ++ ((ws.drop 7).take 20).map (fun w => w &&& 0xFFFFFFF1)

/-- P - L in ns. -/
def mainNs (s : State) : Nat := periodNs s - layoverNs s

/-- The index of the first configuration word that breaks R366. -/
def fusCfgBad (s : State) (ws : List Word) : Option Nat :=
  let c := fusCfg ws
  if 200 < c.refoff || 9999 < c.start || periodNs s < 500000 * c.refoff || mainNs s < 10000 * c.start + 900000 then some 0
  else if c.cmiss = 0 || c.gate = 0 || 20 < c.eps0 then some 1
  else if c.cscale = 0 || c.alpha = 0 then some 2
  else if c.cnew = 0 || c.cconfirm = 0 then some 4
  else if c.maxage = 0 || c.umrounds = 0 || c.ctol = 0 || c.egotol = 0 then some 5
  else if c.maxbids = 0 then some 6
  else (c.cov.findIdx? (fun w => tbit w 0 && fld w 15 8 == 0)).map (· + 7)

def commitFus (s : State) : State :=
  if (fusCfgBad s s.fus.shadow).isNone then setFus s (fun u => { u with cfg := u.shadow })
  else setFus s (fun u => { u with shadow := u.cfg, badcfg := true })

/-- What a tick found in the shadows takes effect, or is discarded; shadows written since stand for the next boundary (R11,
R365). -/
def fusKept (u : Fus) (ws : List Word) (ok : Bool) : Fus :=
  if ok then { u with cfg := ws, defCommit := none }
  else { u with
    shadow := ((u.shadow.zip ws).zip u.cfg).map (fun x => if x.1.1 = x.1.2 then x.2 else x.1.1)
    badcfg := true, defCommit := none }

/-- A stage boundary's commit that fell into a round takes effect once it has ended (R365). -/
def flushFus (s : State) : State :=
  match s.fus.defCommit with
  | some ws => if s.fus.round.isNone then setFus s (fun u => fusKept u ws (fusCfgBad s ws).isNone) else s
  | none => s

/-- FUS_CTL.commit (R365). -/
def fusCommitNow (s : State) : State :=
  if s.fus.round.isSome then setFus s (fun u => { u with busywr := true }) else commitFus (flushFus s)

/-- The commit of a stage boundary (R365). -/
def tickFus (s : State) : State :=
  if s.fus.round.isSome then setFus s (fun u => { u with defCommit := some u.shadow }) else commitFus (flushFus s)

/-- FUS_DEFERRED_COMMIT (R365). -/
def execFusDeferredCommit (s : State) : Out := .next (flushFus s)

/-! Samples (R326-R329, R333). -/

/-- M of R327. -/
abbrev seqMod : Nat := 2147483646

def isLidar (n : Nat) : Bool := 16 ≤ n

/-- Offset of the detection buffer of sample q (R327, Table 9-8). -/
def detBase (n q : Nat) : Nat :=
  if isLidar n then 0x90000 + 0x4000 * (2 * (n - 16) + q % 2) else 0x10000 + 0x4000 * (2 * n + q % 2)

/-- Offset of the sweep buffer of sample q of lidar `l`. -/
def sweepBase (l q : Nat) : Nat := 0x100000 + 0x20000 * (3 * l + q % 3)

def detOf (ws : List Word) : Detection :=
  { x := sx 16 (fld (nth ws 0) 15 0), y := sx 16 (fld (nth ws 0) 31 16), width := fld (nth ws 1) 31 16
    length := fld (nth ws 1) 15 0, score := fld (nth ws 2) 31 24, cls := fld (nth ws 2) 23 16, heading := fld (nth ws 2) 15 0 }

def fusWords (s : State) (off n : Nat) : List Word := memRdW s.fus.mem off n

/-- The sample that stands in the buffers of sequence q (Tables 9-1, 9-2). -/
def sampleAt (s : State) (n q : Nat) : Sample :=
  let b := detBase n q
  let h := fusWords s b 8
  { seq := (nth h 3).toNat, tcap := join64 (nth h 1) (nth h 2), flowW := sx 32 (nth h 4).toNat, flowV := tbit (nth h 5) 31
    dets := (List.range (fld (nth h 0) 9 0)).map (fun i => detOf (fusWords s (b + 32 + 16 * i) 4))
    points := if isLidar n then
        (fusWords s (sweepBase (n - 16) q) (fld (nth h 0) 31 16)).map (fun w => (sx 16 (fld w 15 0), sx 16 (fld w 31 16)))
      else [] }

/-- Reserved fields of a sample's header and detections are 0; classes and extents lie in range (Table 9-3, step 5). -/
def sampleFieldsOk (s : State) (n q : Nat) : Bool :=
  let b := detBase n q
  let h := fusWords s b 8
  fld (nth h 0) 15 10 == 0 && fld (nth h 5) 30 0 == 0 && nth h 6 == 0 && nth h 7 == 0 &&
    (List.range (fld (nth h 0) 9 0)).all (fun i =>
      let w := fusWords s (b + 32 + 16 * i) 4
      nth w 3 == 0 && fld (nth w 2) 23 16 ≤ 15 && fld (nth w 1) 31 16 ≤ 5000 && fld (nth w 1) 15 0 ≤ 5000)

/-- The checks of Table 9-3 for a published sample of a stream. -/
def sampleOk (s : State) (n : Nat) (st : Stream) (p : Publish) : Bool :=
  let q := fld p.word 30 0
  let h := fusWords s (detBase n q) 8
  let d := fun (a : Nat) => (q + seqMod - a) % seqMod
  tbit p.word 31 && q < seqMod && st.lastQ.elim true (fun a => 1 ≤ d a && d a ≤ seqMod / 2) &&
  (nth h 3).toNat == q &&
  fld (nth h 0) 9 0 ≤ 512 && (if isLidar n then decide (fld (nth h 0) 31 16 ≤ 32768) else fld (nth h 0) 31 16 == 0) &&
  st.lastTcap.elim true (fun t => t < join64 (nth h 1) (nth h 2)) && join64 (nth h 1) (nth h 2) ≤ p.at_ + 1000000 &&
  sampleFieldsOk s n q

def mod14 (s : State) : State := logF s { cls := 0x14, unit := unitIod }

/-- One published sample is checked; a sample that fails is discarded, with an entry (R329). -/
def takeSample (n : Nat) (acc : State × Stream × Bool) (p : Publish) : State × Stream × Bool :=
  let (s, st, failed) := acc
  let q := fld p.word 30 0
  let isSeq := tbit p.word 31 && decide (q < seqMod)
  let gap := st.lastQ.elim 0 (fun a => (q + 2 * seqMod - a - 1) % seqMod)
  let late := if p.late then 1 else 0
  let st' := { st with lastQ := if isSeq then some q else st.lastQ, lateCnt := satAdd 65535 st.lateCnt late }
  if sampleOk s n st p then
    let sm := sampleAt s n q
    (s, { st' with
      prev := st.cur, cur := some sm, lastTcap := some sm.tcap, gaps := satAdd 255 st.gaps gap }, failed)
  else (mod14 s, st', true)

/-- An age is within FUS_MCFG.maxage (R331). -/
def usable (c : FusCfg) (start : Nat) (st : Stream) : Bool :=
  st.cur.elim false (fun sm => (start : Int) - sm.tcap ≤ 1000000 * (c.maxage : Int))

def setMaskBit (m k : Nat) : Nat := if m.testBit k then m else m + 2 ^ k
def clrMaskBit (m k : Nat) : Nat := if m.testBit k then m - 2 ^ k else m

def covOf (c : FusCfg) (n : Nat) : Word := nth c.cov n
def enabled (c : FusCfg) (n : Nat) : Bool := tbit (covOf c n) 0

/-- One reason of Table 9-5 in a round: set by its own event, lifted by rounds in a row with a usable sample. -/
def maskStep (umrounds k : Nat) (bad ok : Bool) (mask good : Nat) : Nat × Nat :=
  if bad then (setMaskBit mask k, 0)
  else if !ok || !mask.testBit k then (mask, 0)
  else if umrounds ≤ good + 1 then (clrMaskBit mask k, 0)
  else (mask, good + 1)

/-- Phase 1 for one stream: its samples are checked, its masks of reasons 2 and 3 set and lifted (R329, R331, R351). -/
def phaseOne (c : FusCfg) (start : Nat) (s : State) (n : Nat) : State :=
  let st := stream s n
  let st0 := { st with pubs := [], gaps := 0, lateCnt := 0 }
  if !enabled c n then
    let lastQ := st.pubs.foldl (fun a p => if tbit p.word 31 && decide (fld p.word 30 0 < seqMod) then some (fld p.word 30 0) else a) st.lastQ
    modStream s n (fun _ => { st0 with lastQ := lastQ })
  else
    let (s, st, failed) := st.pubs.foldl (takeSample n) (s, st0, false)
    let ok := usable c start st
    let s := if !ok && !st.autoMask.testBit 2 then mod14 s else s
    let m2 := maskStep c.umrounds 2 (!ok) ok st.autoMask st.goodRounds
    let m3 := maskStep c.umrounds 3 failed ok m2.1 st.goodChecks
    modStream s n (fun _ => { st with autoMask := m3.1, goodRounds := m2.2, goodChecks := m3.2 })

/-- A stream is masked for some reason. -/
def streamMasked (s : State) (n : Nat) : Bool := s.fus.hmask.getLsbD n || (stream s n).autoMask != 0

/-- The reason of lowest code, 0 for none (Table 9-5). -/
def maskReason (s : State) (n : Nat) : Nat :=
  if s.fus.hmask.getLsbD n then 1
  else if (stream s n).autoMask.testBit 2 then 2
  else if (stream s n).autoMask.testBit 3 then 3
  else if (stream s n).autoMask.testBit 4 then 4 else 0

/-- FUS_MASKST (Table 9-20). -/
def fusMaskst (s : State) : Word := toW ((List.range 20).map (fun n => flagAt (streamMasked s n) n)).sum

/-- Streams that contribute now. -/
def contributes (s : State) (c : FusCfg) (n : Nat) : Bool := enabled c n && !streamMasked s n

/-- The instant at which the round of this stage starts (R330, R336), and whether R336 moved it. -/
def roundStart (s : State) : Nat × Bool :=
  let o := 10000 * (fusCfg s.fus.cfg).start
  if mainNs s < o + 900000 then (s.stg.tick + (mainNs s - 900000), true) else (s.stg.tick + o, false)

def roundTref (s : State) : Nat := s.stg.tick + 500000 * (fusCfg s.fus.cfg).refoff

/-- The buffers that hold a sample of a stream. -/
def sampleBufs (n q : Nat) : List Nat := detBase n q :: if isLidar n then [sweepBase (n - 16) q] else []

/-- FUSION_ROUND_START: phase 1 of the round of the stage, one in each (R330-R332, R336, R364). -/
def execFusionRoundStart (now : Nat) (s : State) : Out :=
  .next (
    let s := flushFus s
    let (at_, moved) := roundStart s
    if !s.fus.ready || s.fus.round.isSome || s.stg.inlay || now < at_ || s.fus.lastRound = some s.stg.tick then s
    else
      let c := fusCfg s.fus.cfg
      let clear := s.fus.clearReq
      let s := { s with vtime := now }
      let s := setFus s (fun u => { u with
        hmask := u.hmaskReq, badcfg := u.badcfg || moved, lastTref := some (roundTref s)
        lastRound := some s.stg.tick, clearReq := false })
      let s := forAll s (List.range 20) (phaseOne c now)
      let used := (List.range 20).filterMap (fun n =>
        if contributes s c n then (stream s n).cur.map (fun sm => (n, sm)) else none)
      setFus s (fun u => { u with round := some {
        start := now, tref := roundTref s, tick := s.stg.tick, stage := s.stg.stage, used := used
        copying := used.flatMap (fun e => sampleBufs e.1 e.2.seq), clear := clear } }))

/-- The range of `len` bytes from `off` touches the buffer at `b` (Table 9-8). -/
def onBuf (off len b : Nat) : Bool := b < off + len && off < b + if b < 0x100000 then 0x4000 else 0x20000

/-- A write waits: its buffer is being copied by the round, or an earlier write to that buffer still waits (R332). -/
def inCopy (s : State) (off len : Nat) : Bool :=
  s.fus.round.elim false (fun r => r.copying.any (onBuf off len)) ||
    s.fus.held.any (fun w => w.addr < off + len && off < w.addr + w.data.length)

/-- SAMPLE_BUFFER_WRITE_RELEASE: the copy of the buffer that the oldest held write waits for has ended, and that write takes
effect (R332). -/
def execSampleBufferWriteRelease (s : State) : Out :=
  .next (match s.fus.held with
    | [] => s
    | w :: r =>
      let s := setFus s (fun u => { u with
        held := r, mem := memWr u.mem w.addr w.data
        round := u.round.map (fun x => { x with copying := x.copying.filter (fun b => !onBuf w.addr w.data.length b) }) })
      heldDone s w)

/-- A stream's publish word is written (R327): a late sample is one published after a round has started whose tcap is at or
before that round's reference instant (R333). -/
def publishWord (s : State) (n : Nat) (w : Word) (now : Nat) : State :=
  let h := fusWords s (detBase n (fld w 30 0)) 8
  let late := s.fus.lastTref.elim false (fun t => join64 (nth h 1) (nth h 2) ≤ t)
  let s := setFus s (fun u => { u with mem := memWrW u.mem (0x80 * n) [w] })
  modStream s n (fun st => { st with pubs := st.pubs ++ [{ word := w, at_ := now, late := late }] })

/-- The liveries of the writer contexts of a stream (R361). -/
def streamWriter (s : State) (n : Nat) (liv : Byte) : Bool :=
  s.tt.active.elim false (fun t => t.body.writers.any (fun e => e.1.val == n && ctxLivery s e.2.val == liv))

/-- SAMPLE_PUBLISH: the write of a publish word, past the firewall and Table 9-8. -/
def execSamplePublish (livery : Byte) (stream : Fin 20) (w : Word) (now : Nat) (s : State) : Out :=
  .next (
    let s := { s with vtime := now }
    if !fwAllows s (.iod 23) livery (0x80 * stream) 4 .write then
      emit (fwRefuse s (.iod 23) livery (0x80 * stream) .write) (.fabric livery stFirewall [])
    else if !s.fus.ready || !streamWriter s stream livery then emit s (.fabric livery stFirewall [])
    else if gateClosed s.clk 12 2 then emit s (.fabric livery stNotReady [])
    else emit (publishWord s stream w now) (.fabric livery stOk []))

/-! Ego-motion (R338-R341). -/

/-- A source of the combination: its stream for a lidar, none for the cameras, and its motion. -/
structure EgoSrc where
  lidar : Option Nat
  vx    : Int
  vy    : Int
  w     : Int
  deriving DecidableEq, Repr

/-- A number put in its place in a rising list. -/
def insertRising (x : Int) : List Int → List Int
  | [] => [x]
  | y :: r => if x ≤ y then x :: y :: r else y :: insertRising x r

/-- Element of rank floor((n - 1) / 2) in rising order. -/
def lowerMedian (l : List Int) : Int := (l.foldr insertRising []).getD ((l.length - 1) / 2) 0

/-- The estimate of a lidar (R338): at least 256 points each, a spacing of 20-500 ms, a valid registration. -/
def lidarEst (s : State) (n : Nat) (q : Sample) : Option EgoSrc :=
  (stream s n).prev.bind (fun p =>
    let dt : Int := (q.tcap : Int) - p.tcap
    if dt < 20000000 || 500000000 < dt || p.points.length < 256 || q.points.length < 256 then none
    else
      let start := if s.fus.egoValid then (s.fus.evx, s.fus.evy, s.fus.ew) else (0, 0, 0)
      (lidarFit q.points p.points dt.toNat start).map (fun e => { lidar := some n, vx := e.1, vy := e.2.1, w := e.2.2 }))

/-- The camera source (R340). -/
def cameraEst (used : List (Nat × Sample)) : Option EgoSrc :=
  let l := (used.filter (fun e => !isLidar e.1 && e.2.flowV)).map (fun e => e.2.flowW)
  if l.isEmpty then none else some { lidar := none, vx := 0, vy := 0, w := lowerMedian l }

/-- The combined estimate: motion, whether a lidar has given one, egohold, egoconf, ego outliers (R340). -/
structure Ego where
  vx    : Int
  vy    : Int
  w     : Int
  valid : Bool
  hold  : Bool
  conf  : Bool
  out   : List Nat
  deriving DecidableEq, Repr

/-- Mean of lidar sources, rounded half to even, or the previous estimate held. -/
def egoMean (u : Fus) (l : List EgoSrc) (conf : Bool) (out : List Nat) : Ego :=
  if l.isEmpty then { vx := u.evx, vy := u.evy, w := u.ew, valid := u.egoValid, hold := true, conf := conf, out := out }
  else {
    vx := rhe (l.map (·.vx)).sum l.length, vy := rhe (l.map (·.vy)).sum l.length, w := rhe (l.map (·.w)).sum l.length
    valid := true, hold := false, conf := conf, out := out }

def combineEgo (s : State) (c : FusCfg) (used : List (Nat × Sample)) : Ego :=
  let src := used.filterMap (fun e => if isLidar e.1 then lidarEst s e.1 e.2 else none) ++ (cameraEst used).toList
  let tol : Int := 16 * c.egotol
  let isL := fun (e : EgoSrc) => e.lidar.isSome
  match src with
  | [] => egoMean s.fus [] false []
  | [a] =>
    if isL a then egoMean s.fus [a] false []
    else if s.fus.egoValid then
      { vx := s.fus.evx, vy := s.fus.evy, w := a.w, valid := true, hold := false, conf := false, out := [] }
    else egoMean s.fus [] false []
  | [a, b] => egoMean s.fus (src.filter isL) (tol < (a.w - b.w).natAbs) []
  | _ =>
    let med := lowerMedian (src.map (·.w))
    let bad := fun (e : EgoSrc) => tol < ((e.w - med).natAbs : Int)
    egoMean s.fus (src.filter (fun e => isL e && !bad e)) false ((src.filter bad).filterMap (·.lidar))

/-! Carrying to the reference instant (R342-R344). -/

/-- The turn of an interval in heading units. -/
def dpsiOf (e : Ego) (dns : Int) : Int := rhe (e.w * dns) 1000000000

/-- egoT of R342 on the position (nx / den, ny / den), the interval in ns: before saturation. -/
def egoT (e : Ego) (dns nx ny : Int) (den : Nat) : Int × Int :=
  let dpsi := dpsiOf e dns
  let h := cosSinHalf dpsi
  let f := cosSinHalf (2 * dpsi)
  let tx := rhe (e.vx * dns * h.1 - e.vy * dns * h.2) (16384 * 1000000000)
  let ty := rhe (e.vx * dns * h.2 + e.vy * dns * h.1) (16384 * 1000000000)
  let px := nx - tx * den
  let py := ny - ty * den
  (rhe (px * f.1 + py * f.2) (16384 * den), rhe (-px * f.2 + py * f.1) (16384 * den))

def sat16 (v : Int) : Int := clampI (-32767) 32767 v

/-- Velocities turned; they saturate as the positions do (R342). -/
def egoTurn (e : Ego) (dns vx vy : Int) : Int × Int :=
  let f := cosSinHalf (2 * dpsiOf e dns)
  (sat16 (rhe (vx * f.1 + vy * f.2) 16384), sat16 (rhe (-vx * f.2 + vy * f.1) 16384))

def turnHeading (e : Ego) (dns : Int) (h : Nat) : Nat := (((h : Int) - dpsiOf e dns) % 65536).toNat

/-- A detection of the round: its stream, its place in its sample, compensated to t_ref. -/
structure FDet where
  stream  : Nat
  idx     : Nat
  dns     : Int      -- t_ref - tcap
  tcap    : Nat
  x       : Int
  y       : Int
  heading : Nat
  d       : Detection
  deriving DecidableEq, Repr

def compDet (e : Ego) (tref : Nat) (n : Nat) (sm : Sample) (k : Detection × Nat) : FDet :=
  let dns : Int := (tref : Int) - sm.tcap
  let p := egoT e dns k.1.x k.1.y 1
  { stream := n, idx := k.2, dns := dns, tcap := sm.tcap, x := sat16 p.1, y := sat16 p.2, heading := turnHeading e dns k.1.heading
    d := k.1 }

/-- A track in the round: its slot, the record carried to t_ref, whether it has come to an end. -/
structure FTrk where
  slot : Nat
  t    : Track
  dead : Bool
  deriving DecidableEq, Repr

def predict (e : Ego) (dns : Int) (k : Nat × Track) : FTrk :=
  let t := k.2
  let p := egoT e dns (t.x * 1000000000 + t.vx * dns) (t.y * 1000000000 + t.vy * dns) 1000000000
  let v := egoTurn e dns t.vx t.vy
  { slot := k.1, dead := 32767 < p.1.natAbs || 32767 < p.2.natAbs
    t := { t with
      x := sat16 p.1, y := sat16 p.2, vx := v.1, vy := v.2, heading := turnHeading e dns t.heading, conflict := false
      maskcov := false, x2 := 0, y2 := 0, streams := 0 } }

/-- Residual of a detection against a track (R344). -/
def residual (t : Track) (d : FDet) : Int × Int :=
  (d.x + rhe (t.vx * d.dns) 1000000000 - t.x, d.y + rhe (t.vy * d.dns) 1000000000 - t.y)

def sq2 (r : Int × Int) : Nat := (r.1 * r.1 + r.2 * r.2).toNat

/-- Cost of a pair when it is gated (R346). -/
def pairCost (c : FusCfg) (t : Track) (d : FDet) : Option Nat :=
  let d2 := sq2 (residual t d)
  let k := min 65535 (d2 / c.cscale + if t.cls = d.d.cls then 0 else c.kcls)
  if d2 ≤ c.gate * c.gate && k < c.cmiss then some k else none

/-- The span of `b` meets the span of `a` widened by `g`: some x - g lies at or below some y, and some y at or below x + g. -/
def spanMeets (g : Int) (a b : List Int) : Bool :=
  a.any (fun x => b.any (fun y => x - g ≤ y)) && a.any (fun x => b.any (fun y => y ≤ x + g))

/-- Tile (i, j) of the cost matrix is computed: the bounding box of its 64 tracks, widened by gate, meets that of its 64
detections (R347). -/
def tileMeets (c : FusCfg) (tracks : List FTrk) (cols : List FDet) (i j : Nat) : Bool :=
  let a := (tracks.drop (64 * i)).take 64
  let b := (cols.drop (64 * j)).take 64
  spanMeets c.gate (a.map (·.t.x)) (b.map (·.x)) && spanMeets c.gate (a.map (·.t.y)) (b.map (·.y))

/-- Gated pairs of a track in a block whose columns begin at `base`, among the tiles computed in the track's row, detection
and cost; beyond 32 those of least cost are kept (R346, R347). -/
def gatedPairs (c : FusCfg) (tiles : List Bool) (t : Track) (block : List FDet) (base : Nat) : List (Nat × Nat) × Nat :=
  let l := block.zipIdx.filterMap (fun e =>
    if tiles.getD ((base + e.2) / 64) false then (pairCost c t e.1).map (fun k => (e.2, k)) else none)
  let better := fun (a b : Nat × Nat) => a.2 < b.2 || (a.2 == b.2 && a.1 < b.1)
  let keep := l.filter (fun a => (l.filter (fun b => better b a)).length < 32)
  (keep, l.length - keep.length)

/-! The auction (R348-R350). -/

/-- An auction under way: prices, and the option each assigned track holds (none for miss). -/
structure Auction where
  price : Bank Int := []
  held  : List (Nat × Option Nat) := []
  deriving DecidableEq, Repr

/-- The best option: largest value, ties to the lowest detection, miss last; and the largest value of the others. -/
def bestOption (a : Auction) (opts : List (Nat × Int)) : Option Nat × Int × Int :=
  let vals := opts.map (fun o => (o.1, o.2 - bankGet 0 a.price o.1))
  let top : Option (Nat × Int) := vals.foldl (fun b v => match b with
    | none => some v
    | some x => if x.2 < v.2 then some v else some x) none
  match top with
  | none => (none, 0, 0)
  | some x =>
    if x.2 < 0 then (none, 0, 0)
    else (some x.1, x.2, (vals.filter (fun v => v.1 ≠ x.1)).foldl (fun m v => max m v.2) 0)

/-- One bid of a track. -/
def bidOnce (opts : List (List (Nat × Int))) (eps : Int) (a : Auction) (i : Nat) : Auction :=
  match bestOption a (opts.getD i []) with
  | (none, _, _) => { a with held := (i, none) :: a.held }
  | (some j, v1, v2) =>
    { price := bankSet 0 a.price j (bankGet 0 a.price j + (v1 - v2 + eps))
      held := (i, some j) :: a.held.filter (fun h => h.2 ≠ some j) }

/-- The bidding of one phase: `k` bids are left; the bids left over are returned. -/
def bidding (opts : List (List (Nat × Int))) (eps : Int) : Nat → Auction → Auction × Nat
  | 0, a => (a, 0)
  | k + 1, a =>
    match (List.range opts.length).find? (fun i => !a.held.any (fun h => h.1 == i)) with
    | none => (a, k + 1)
    | some i => bidding opts eps k (bidOnce opts eps a i)

/-- The phases of an auction as R348 writes them, epsilon falling by four to 1 and prices kept from phase to phase; with no bid
left it stops, and aborts. Where a price kept from an earlier phase makes the end dearer than R349 says, R348's steps stand
(DEDUCED, log entry 169). -/
def phases (opts : List (List (Nat × Int))) : Nat → Nat → Nat → Auction → Auction × Nat × Bool
  | 0, _, left, a => (a, left, false)
  | k + 1, eps, left, a =>
    let (a, left) := bidding opts eps left { a with held := [] }
    if left = 0 then (a, 0, true)
    else if eps = 1 then (a, left, false)
    else phases opts k (max 1 (eps / 4)) left a

/-- The auction of one block of the columns (R348): what each track takes, the bids left, abort, pairs dropped. -/
def auction (c : FusCfg) (tracks : List FTrk) (cols block : List FDet) (base left : Nat) :
    List (Option Nat) × Nat × Bool × Nat :=
  let tiles := (List.range (cdiv tracks.length 64)).map (fun i =>
    (List.range (cdiv cols.length 64)).map (tileMeets c tracks cols i))
  let pairs := tracks.zipIdx.map (fun t => gatedPairs c (tiles.getD (t.2 / 64) []) t.1.t block base)
  let drop := (pairs.map (·.2)).sum
  let n := tracks.length
  if block.isEmpty || n = 0 then ([], left, false, drop)
  else if left = 0 then ([], 0, true, drop)
  else
    let opts := pairs.map (fun p => p.1.map (fun e => (e.1, ((n : Int) + 1) * ((c.cmiss : Int) - e.2))))
    let (a, left, ab) := phases opts 12 (2 ^ c.eps0) left {}
    ((List.range n).map (fun i => (a.held.find? (fun h => h.1 == i)).bind (·.2)), left, ab, drop)

/-! Coverage (R352). -/

/-- A direction `az` 256ths of a turn from +x: exact on the multiples of an eighth turn. -/
def azDir (az : Nat) : Int × Int :=
  if az % 32 = 0 then
    [((1 : Int), (0 : Int)), (1, 1), (0, 1), (-1, 1), (-1, 0), (-1, -1), (0, -1), (1, -1)].getD (az / 32) (1, 0)
  else trigTurn (512 * az)

def cross (a b : Int × Int) : Int := a.1 * b.2 - a.2 * b.1

/-- A point lies in the coverage sector of a stream (R352). -/
def inSector (c : FusCfg) (n : Nat) (x y : Int) : Bool :=
  let w := covOf c n
  let a := azDir (fld w 31 24)
  let b := azDir (fld w 23 16)
  let sweep := (fld w 23 16 + 256 - fld w 31 24) % 256
  let p := (x, y)
  enabled c n && sq2 p ≤ (100 * fld w 15 8) ^ 2 &&
    (if sweep = 0 then true
     else if x = 0 && y = 0 then Config.originIn n
     else if sweep < 128 then 0 ≤ cross a p && 0 ≤ cross p b
     else if sweep = 128 then 0 ≤ cross a p
     else !(0 < cross b p && 0 < cross p a))

/-! Votes (R353). -/

/-- A contribution of a track: the detection and its residual. -/
abbrev Contr := FDet × (Int × Int)

/-- What the votes on a track come to. `second` some none: a second position that no rule states. -/
structure Votes where
  kept     : List Contr
  upd      : List Contr
  back     : List Contr
  outl     : List Nat
  voted    : List Nat
  drops    : Nat
  conflict : Bool
  second   : Option (Option (Int × Int))
  deriving DecidableEq, Repr

def prioOf (c : FusCfg) (n : Nat) : Nat := fld (covOf c n) 7 4

/-- The contribution of lowest prio, ties to the lower stream. -/
def leadContr (c : FusCfg) : List Contr → Option Contr
  | [] => none
  | a :: r => match leadContr c r with
    | none => some a
    | some b =>
      if prioOf c b.1.stream < prioOf c a.1.stream || (prioOf c b.1.stream = prioOf c a.1.stream && b.1.stream < a.1.stream)
      then some b else some a

def far (c : FusCfg) (a b : Int × Int) : Bool := c.ctol * c.ctol < sq2 (a.1 - b.1, a.2 - b.2)

def vote (c : FusCfg) (cover : List Nat) (l : List Contr) : Votes :=
  let present := cover.filter (fun n => l.any (fun k => k.1.stream == n))
  let absent := cover.filter (fun n => !present.contains n)
  let s := cover.length
  let minorP := 3 ≤ s && present.length < absent.length
  let minorA := 3 ≤ s && absent.length < present.length
  let tie := 2 ≤ s && present.length = absent.length
  let gone := if minorP then l.filter (fun k => present.contains k.1.stream) else []
  let l1 := if minorP then l.filter (fun k => !present.contains k.1.stream) else l
  let out1 := if minorP then present else if minorA then absent else []
  let spread := l1.any (fun a => l1.any (fun b => far c a.2 b.2))
  let med := (lowerMedian (l1.map (·.2.1)), lowerMedian (l1.map (·.2.2)))
  let base : Votes := {
    kept := l1, upd := l1, back := gone, outl := out1, voted := cover, drops := b2n tie, conflict := tie
    second := if tie then some none else none }
  if !spread then base
  else match l1 with
    | [a, b] =>
      let lead := (leadContr c l1).getD a
      let other := if lead = a then b else a
      { base with upd := [lead], drops := base.drops + 1, conflict := true, second := some (some (other.1.x, other.1.y)) }
    | _ =>
      let bad := l1.filter (fun a => far c a.2 med)
      let good := l1.filter (fun a => !far c a.2 med)
      { base with kept := good, upd := good, back := gone ++ bad, outl := out1 ++ bad.map (·.1.stream) }

/-! Track update (R355-R357). -/

/-- A value held in 16 bits; one that does not fit is not stated. -/
def fit16 (ep k : Nat) (v : Int) : Int :=
  if -32768 ≤ v && v ≤ 32767 then v else sx 16 (fld (openWord ep k) 15 0)

/-- A lowered confidence, and whether it has reached 0. -/
def lower (t : FTrk) (n : Nat) : FTrk :=
  { t with t := { t.t with conf := t.t.conf - n }, dead := t.dead || (0 < n && t.t.conf ≤ n) }

def usOf (ns : Int) : Nat := (ns / 1000).toNat

def streamBits (l : List Nat) : Nat := ((List.range 20).map (fun n => flagAt (l.contains n) n)).sum

/-- The update of one track from its votes; `dns` is the interval since the last table. -/
def updateTrack (c : FusCfg) (ep : Nat) (tref : Nat) (dns : Int) (cover : List Nat) (v : Votes) (k : FTrk) : FTrk :=
  let k := lower k (v.drops * c.cconf)
  let k := { k with t := { k.t with conflict := v.conflict } }
  let k := match v.second with
    | none => k
    | some (some p) => { k with t := { k.t with x2 := p.1, y2 := p.2 } }
    | some none => { k with t := { k.t with
        x2 := sx 16 (fld (openWord ep (8 * k.slot)) 15 0), y2 := sx 16 (fld (openWord ep (8 * k.slot)) 31 16) } }
  match v.kept, leadContr c v.kept with
  | _ :: _, some lead =>
    let n := v.upd.length
    let rx := rhe (v.upd.map (·.2.1)).sum n
    let ry := rhe (v.upd.map (·.2.2)).sum n
    let dv := fun (r : Int) => rhe (c.beta * r * 1000000000) (256 * dns.toNat)
    let first := (v.kept.map (·.1.tcap)).foldl min lead.1.tcap
    let f := fun i x => fit16 ep (8 * k.slot + i) x
    { k with t := { k.t with
        x := f 1 (k.t.x + rhe (c.alpha * rx) 256), y := f 2 (k.t.y + rhe (c.alpha * ry) 256)
        vx := f 3 (k.t.vx + dv rx), vy := f 4 (k.t.vy + dv ry)
        width := lead.1.d.width, length := lead.1.d.length, cls := lead.1.d.cls, heading := lead.1.heading
        conf := satAdd 255 k.t.conf c.cinc, hits := satAdd 255 k.t.hits 1, misses := 0
        streams := streamBits (v.kept.map (·.1.stream)), oldest := usOf ((tref : Int) - first) } }
  | _, _ =>
    let k := { k with t := { k.t with oldest := k.t.oldest + usOf dns } }
    if cover.isEmpty then k
    else
      let k := lower k c.cdec
      { k with t := { k.t with misses := satAdd 255 k.t.misses 1 } }

/-- TENTATIVE tracks whose conf has reached cconfirm are CONFIRMED (R357). -/
def confirm (c : FusCfg) (t : Track) : Track := { t with confirmed := t.confirmed || c.cconfirm ≤ t.conf }

/-- A masked stream lowers every track inside its sector (R351). -/
def underMask (c : FusCfg) (pos : List (Nat × Int × Int)) (l : List FTrk) (n : Nat) : List FTrk :=
  l.map (fun k =>
    match pos.find? (fun p => p.1 == k.slot) with
    | some p =>
      if inSector c n p.2.1 p.2.2 then
        let k := lower k c.cmask
        { k with t := { k.t with maskcov := true } }
      else k
    | none => k)

/-! Births (R358). -/

structure Births where
  tracks : List FTrk        -- all tracks, slots rising
  born   : List Nat         -- slots born in this round
  nextId : Nat
  births : Nat
  lost   : Nat
  deriving DecidableEq, Repr

def placeTrk (k : FTrk) : List FTrk → List FTrk
  | [] => [k]
  | x :: r => if x.slot < k.slot then x :: placeTrk k r else k :: x :: r

/-- The next id not in use. -/
def freeId (l : List FTrk) : Nat → Nat → Nat
  | 0, i => i % 65536
  | k + 1, i => if l.any (fun t => t.t.id == i % 65536) then freeId l k (i + 1) else i % 65536

def birthOne (c : FusCfg) (stage : Nat) (maskedN : List Nat) (b : Births) (d : FDet) : Births :=
  if d.d.score < c.birth then { b with lost := b.lost + 1 }
  else
    let costs := (b.tracks.filter (fun k => b.born.contains k.slot)).filterMap (fun k => (pairCost c k.t d).map (fun v => (k.slot, v)))
    match costs.foldl (fun (m : Option (Nat × Nat)) v => match m with
      | none => some v
      | some x => if v.2 < x.2 then some v else some x) none with
    | some (slot, _) =>
      { b with tracks := b.tracks.map (fun k => if k.slot = slot then { k with t := { k.t with
          streams := (k.t.streams ||| 2 ^ d.stream), oldest := max k.t.oldest (usOf d.dns) } } else k) }
    | none =>
      match (List.range 1024).find? (fun i => !b.tracks.any (fun k => k.slot == i)) with
      | none => { b with lost := b.lost + 1 }
      | some i =>
        let id := freeId b.tracks 1025 b.nextId
        let t : Track := {
          cls := d.d.cls, id := id, x := d.x, y := d.y, width := d.d.width, length := d.d.length, conf := c.cnew
          heading := d.heading, streams := 2 ^ d.stream, oldest := usOf d.dns, born := stage % 2 ^ 32
          maskcov := maskedN.any (fun n => inSector c n d.x d.y) }
        { b with tracks := placeTrk { slot := i, t := t, dead := false } b.tracks, born := b.born ++ [i], nextId := (id + 1) % 65536
                 births := b.births + 1 }

/-! The round's result and the publish event (R334, R335, R359, R362). -/

def pubTable (u : Fus) : TrackTable := if u.pub then u.table1 else u.table0

/-- Words of a track record (Table 9-7). -/
def trackWords (tvalid : Nat) (t : Track) : List Word :=
  sealW ([toW (at_ (if t.confirmed then 2 else 1) 30 + flagAt t.conflict 29 + flagAt t.maskcov 28 + at_ t.cls 16 + t.id),
    toW (at_ (tc 16 t.y) 16 + tc 16 t.x), toW (at_ (tc 16 t.vy) 16 + tc 16 t.vx), toW (at_ t.width 16 + t.length),
    toW (at_ t.conf 24 + at_ t.hits 16 + at_ t.misses 8), toW t.heading, toW (at_ (tc 16 t.y2) 16 + tc 16 t.x2), toW t.streams] ++
    two tvalid ++ [toW t.oldest, toW t.born, 0, 0, 0])

/-- The record of a slot: 16 zero words where it is FREE (R359). -/
def slotRecord (k : TrackTable) (i : Nat) : List Word :=
  match k.tracks.find? (fun e => e.1 == i) with
  | some e => trackWords k.tvalid e.2
  | none => List.replicate 16 0

/-- The header of a table (Table 9-6). -/
def tableHeader (k : TrackTable) : List Word :=
  sealW ([toW (at_ (k.tracks.filter (fun e => e.2.confirmed)).length 16 + k.tracks.length)] ++ two k.tvalid ++
    [toW k.stage, toW (at_ (tc 16 k.evy) 16 + tc 16 k.evx), toW (tc 32 k.ew), toW k.flags, toW k.gen] ++ List.replicate 7 0)

/-- The samples of a round within the limit of 2,048 detections: whole samples go from the highest stream down (R345). -/
def limitDets : List (Nat × Sample) → Nat → List (Nat × Sample) × Nat
  | [], _ => ([], 0)
  | e :: r, have_ =>
    if have_ + e.2.dets.length ≤ 2048 then
      let x := limitDets r (have_ + e.2.dets.length)
      (e :: x.1, x.2)
    else ([], ((e :: r).map (fun k => k.2.dets.length)).sum)

/-- The words of one stream in the report (Table 9-9). -/
def streamWords (s : State) (c : FusCfg) (start : Nat) (n used : Nat) : List Word :=
  let st := stream s n
  let state := if !enabled c n then 0 else if streamMasked s n then 3 else if st.lastUsed = st.cur.map (·.seq) then 2 else 1
  let age := if state = 1 || state = 2 then st.cur.elim 0 (fun sm => min 65535 (((start : Int) - sm.tcap) / 100000).toNat) else 0
  [toW (at_ state 28 + at_ (maskReason s n) 24 + at_ st.gaps 16 + used), toW (at_ st.lateCnt 16 + age)]

/-- A signal of the fusion engine (R335, R405, R412). -/
def fusSignal (s : State) : State :=
  if s.tt.active.isNone then s
  else
    let drop := logF { s with syn := { s.syn with badsig := true } } { cls := 0x11, unit := unitIod, livery := 0x05 }
    match physObj s s.fus.syncCtx s.fus.syncObj with
    | none => drop
    | some k => if (obj s k).st = 1 then (signalObj s k 1).2 else drop

/-- A stream is masked as an outlier (R341, R353), with an entry when the mask starts. -/
def maskOutlier (s : State) (n : Nat) : State :=
  let s := if (stream s n).autoMask.testBit 4 then s else mod14 s
  modStream s n (fun st => { st with autoMask := setMaskBit st.autoMask 4, cleanRounds := 0, egoRounds := 0, outRounds := 0 })

/-- Rounds pass for reason 4: after umrounds rounds without being an outlier it is lifted (Table 9-5). -/
def liftOutlier (c : FusCfg) (s : State) (n : Nat) : State :=
  modStream s n (fun st =>
    if st.autoMask.testBit 4 then
      if c.umrounds ≤ st.cleanRounds + 1 then { st with autoMask := clrMaskBit st.autoMask 4, cleanRounds := 0 }
      else { st with cleanRounds := st.cleanRounds + 1 }
    else st)

/-- Phases 2 and 3 up to the masks of R341: the estimate, and the state with its outliers masked. -/
def egoPhase (s : State) (c : FusCfg) (used : List (Nat × Sample)) : Ego × State :=
  let e := combineEgo s c used
  let s := forAll s ((List.range 20).filter isLidar) (fun s n =>
    let s := modStream s n (fun st => { st with egoRounds := if e.out.contains n then st.egoRounds + 1 else 0 })
    if 3 ≤ (stream s n).egoRounds then maskOutlier s n else s)
  (e, s)

/-- What the auctions so far have given: contributions by slot, bids left, abort, pairs dropped, columns passed. -/
structure Assigned where
  got   : List (Nat × FDet)
  left  : Nat
  abort : Bool
  drops : Nat
  cols  : Nat
  deriving DecidableEq, Repr

/-- The assignment of every stream block. -/
def assignAll (c : FusCfg) (tracks : List FTrk) (blocks : List (List FDet)) : Assigned :=
  blocks.foldl (fun (a : Assigned) b =>
    let r := auction c tracks blocks.flatten b a.cols a.left
    let got := (tracks.zip r.1).filterMap (fun e => e.2.bind (fun j => (b[j]?).map (fun d => (e.1.slot, d))))
    { got := a.got ++ got, left := r.2.1, abort := a.abort || r.2.2.1, drops := a.drops + r.2.2.2, cols := a.cols + b.length })
    { got := [], left := c.maxbids, abort := false, drops := 0, cols := 0 }

/-- FUSION_PUBLISH: phases 2-6 of the round and its publish event (R334, R335). -/
def publishRound (s : State) (r : Round) (now : Nat) : State :=
  let c := fusCfg s.fus.cfg
  let old := pubTable s.fus
  let ep := s.free
  let s := (fresh s).2
  let was := (List.range 20).filter (fun n => enabled c n && (stream s n).autoMask.testBit 4)
  let (e, s) := egoPhase s c r.used
  let (used, cut) := limitDets (r.used.filter (fun k => contributes s c k.1)) 0
  let dns : Int := (r.tref : Int) - old.tvalid
  let base := if r.clear then [] else old.tracks
  let tracks := base.map (predict e dns)
  let pos := tracks.map (fun k => (k.slot, k.t.x, k.t.y))
  let blocks := used.map (fun k => k.2.dets.zipIdx.map (compDet e r.tref k.1 k.2))
  let a := assignAll c tracks blocks
  let got := a.got
  -- confidence under egoconf and masked streams
  let maskedN := (List.range 20).filter (fun n => enabled c n && streamMasked s n)
  let tracks1 := maskedN.foldl (underMask c pos) (if e.conf then tracks.map (fun k => lower k c.cconf) else tracks)
  -- votes and update
  let coverOf := fun (k : FTrk) => (List.range 20).filter (fun n => contributes s c n &&
    (pos.find? (fun p => p.1 == k.slot)).elim false (fun p => inSector c n p.2.1 p.2.2))
  let voted := tracks1.map (fun k =>
    let mine := (got.filter (fun g => g.1 == k.slot)).map (fun g => (g.2, residual k.t g.2))
    (k, coverOf k, vote c (coverOf k) mine))
  let tracks2 := voted.map (fun v => updateTrack c ep r.tref dns v.2.1 v.2.2 v.1)
  -- outlier rounds of R353
  let outs := (List.range 20).filter (fun n =>
    let on := voted.filter (fun v => v.2.2.voted.contains n)
    4 ≤ on.length && on.length < 2 * (on.filter (fun v => v.2.2.outl.contains n)).length)
  let s := forAll s (List.range 20) (fun s n =>
    modStream s n (fun st => { st with outRounds := if outs.contains n then st.outRounds + 1 else 0 }))
  let newMask := (List.range 20).filter (fun n => 3 ≤ (stream s n).outRounds)
  let s := forAll s newMask maskOutlier
  let tracks3 := newMask.foldl (underMask c pos) tracks2
  -- deletions, births
  let alive := (tracks3.filter (fun k => !k.dead)).map (fun k => { k with t := confirm c k.t })
  let deleted := tracks3.length - alive.length
  let backs := voted.flatMap (fun v => v.2.2.back.map (·.1))
  let free := blocks.flatten.filter (fun d => !got.any (fun g => g.2 == d) || backs.contains d)
  let b := free.foldl (birthOne c r.stage (maskedN ++ newMask))
    { tracks := alive, born := [], nextId := if r.clear then 0 else s.fus.nextTid, births := 0, lost := 0 }
  -- the table and the report
  let flags := flagAt e.hold 0 + flagAt e.conf 1 + flagAt a.abort 2
  let gen := (s.fus.gen + 1) % 2 ^ 32
  let tab : TrackTable := {
    tvalid := r.tref, stage := r.stage % 2 ^ 32, evx := e.vx, evy := e.vy, ew := e.w, flags := flags, gen := gen
    tracks := b.tracks.map (fun k => (k.slot, k.t)) }
  let usedOf := fun n => ((blocks.flatten.filter (fun d => d.stream == n)).length)
  let rep := [toW r.stage, toW (at_ b.births 16 + deleted % 65536), toW (at_ ((cut + b.lost) % 65536) 16 + a.drops % 65536),
      toW (c.maxbids - a.left), toW (at_ (tc 16 e.vy) 16 + tc 16 e.vx), toW (tc 32 e.w), toW flags, toW (now - r.start)] ++
    (List.range 20).flatMap (fun n => streamWords s c r.start n (usedOf n))
  let s := forAll s r.used (fun s k => modStream s k.1 (fun st => { st with lastUsed := some k.2.seq }))
  let s := forAll s was (liftOutlier c)
  let s := setFus s (fun u =>
    let u := if u.pub then { u with table0 := tab } else { u with table1 := tab }
    { u with
      pub := !u.pub, anyPub := true, gen := gen, nextTid := b.nextId, round := none, report := rep
      evx := e.vx, evy := e.vy, ew := e.w, egoValid := e.valid, egohold := e.hold, egoconf := e.conf, abort := u.abort || a.abort })
  fusSignal s

def execFusionPublish (now : Nat) (s : State) : Out :=
  .next (match s.fus.round with
    | none => s
    | some r => publishRound { s with vtime := now } r now)

/-- FUSION_ROUND_STOP at the layover start (R337). -/
def stopRound (s : State) : State :=
  if s.fus.round.isSome then mod14 (setFus s (fun u => { u with round := none, ovr := true })) else s

/-! Class 0x6 (Table 9-10). -/

/-- Class 0x6 is accepted on context 0 and the fusion context alone (R363). -/
def fusCtx (s : State) (k : Pkt) : Bool :=
  pktCtx k == 0 || s.tt.active.elim false (fun t => t.body.fusion.val == pktCtx k)

/-- FUS_CFG (R366). A context of class 0x6 that R363 refuses is named by header word 1, index 1 (log 148). -/
def rowFusCfg : OpDef :=
  opDef (fixedRow 6 0 27) (fun s k =>
    let ws := fusMask (parsFrom k 0)
    if !fusCtx s k then .refuse stFirewall 10 1
    else match fusCfgBad s ws with
      | some i => .refuse stBadParam 10 (4 + i)
      | none =>
        if s.fus.round.isSome then .refuse stRefusedInUse 11 0xFFFF
        else .answer stOk [] (setFus s (fun u => { u with cfg := ws, shadow := ws, defCommit := none })))

/-- A host mask set or lifted from the next round on (R364). -/
def hostMask (set : Bool) (s : State) (k : Pkt) : Verdict :=
  let n := fld (par k 0) 4 0
  let bit : BitVec 20 := BitVec.ofNat 20 (2 ^ n)
  if !fusCtx s k then .refuse stFirewall 10 1
  else if fld (par k 0) 30 5 ≠ 0 || 19 < n then .refuse stBadParam 10 4
  else if !set && !s.fus.hmaskReq.getLsbD n then .answer stOkEmpty [] s
  else .answer stOk [fusMaskst s] (setFus s (fun u => { u with
    hmaskReq := if set then u.hmaskReq ||| bit else u.hmaskReq &&& ~~~bit }))

/-- FUS_MASK with bit 31 set. -/
def rowFusMask : OpDef :=
  opDef { fixedRow 6 1 1 with sel := fun k => tbit (par k 0) 31 } (hostMask true)

/-- FUS_MASK with bit 31 clear. -/
def rowFusUnmask : OpDef :=
  opDef { fixedRow 6 1 1 with sel := fun k => !tbit (par k 0) 31 } (hostMask false)

/-- FUS_TRACKS. -/
def rowFusTracks : OpDef :=
  opDef (fixedRow 6 2 2) (fun s k =>
    let a := parN k 0
    let c := parN k 1
    let t := pubTable s.fus
    if !fusCtx s k then .refuse stFirewall 10 1
    else if 1023 < a then .refuse stBadParam 10 4
    else if 1023 < c || 1024 < a + c then .refuse stBadParam 10 5
    else if !s.fus.anyPub then .refuse stNotReady 11 0xFFFF
    else if c = 0 then .answer stOkEmpty [] s
    else .answer stOk ((tableHeader t).take 8 ++ (List.range c).flatMap (fun i => slotRecord t (a + i))) s)

/-- A late sample shows in a report (Table 9-10). -/
def reportLate (ws : List Word) : Bool := (List.range 20).any (fun n => fld (nth ws (9 + 2 * n)) 31 16 != 0)

/-- FUS_REPORT. -/
def rowFusReport : OpDef :=
  opDef (fixedRow 6 3 0) (fun s k =>
    if !fusCtx s k then .refuse stFirewall 10 1
    else if s.fus.report.isEmpty then .refuse stNotReady 11 0xFFFF
    else .answer (if reportLate s.fus.report then stLateSample else stOk) s.fus.report s)

/-- FUS_CLEAR (R364). -/
def rowFusClear : OpDef :=
  opDef (fixedRow 6 4 0) (fun s k =>
    if !fusCtx s k then .refuse stFirewall 10 1 else .answer stOk [] (setFus s (fun u => { u with clearReq := true })))

end Sys2Proof.Machine
end

