-- ==== Sys2Proof/Machine/Engines.lean ====
section
/-! DEFINITION. What every work descriptor of a tensor engine shares: taking the next descriptor, the checks of Table 4-11,
the stores, check failures, the weight stream (04). -/

namespace Sys2Proof.Machine

/-! Counts and flags. -/

def addCnt (s : State) (g : Nat) (c : Cnt) : State :=
  modEng s g (fun e => { e with sat := satAdd 65535 e.sat c.sat, nan := satAdd 4095 e.nan c.nan })

def engLivery (s : State) (g : Nat) : Byte := ctxLivery s (eng s g).bctx

/-- The port of an engine at its own die's controller. -/
def tePort (g : Nat) : MctPort := .te (fin (by decide) g)

def tagOf (ws : List Word) : Nat := (nth ws 1).toNat

/-- An entry about an engine's descriptor. -/
def engLog (s : State) (g : Nat) (cls reaction : Nat) (st : Byte) (detail : Nat) : State :=
  logF s { cls := cls, reaction := reaction, unit := dieOf g, sub := g % 8, status := st, livery := engLivery s g, detail := detail }

/-! Fields of word 0 (Table 4-4). -/

def dOp (ws : List Word) : Nat := fld (nth ws 0) 7 0
def dSub (ws : List Word) : Nat := fld (nth ws 0) 15 8
def dFa (ws : List Word) : Nat := fld (nth ws 0) 19 16
def dFb (ws : List Word) : Nat := fld (nth ws 0) 23 20
def dFo (ws : List Word) : Nat := fld (nth ws 0) 27 24
/-- Bits of word `i`. -/
def df (ws : List Word) (i hi lo : Nat) : Nat := fld (nth ws i) hi lo

/-- Words `a` to `b` are 0. -/
def zeroWords (ws : List Word) (a b : Nat) : Bool := (List.range (b + 1 - a)).all (fun i => nth ws (a + i) == 0)

/-- Reserved bits of words 0 and 14 (R165). -/
def commonOk (ws : List Word) : Bool := df ws 0 29 28 == 0 && df ws 14 30 16 == 0

/-- Step 2: operations and sub-operations (Table 4-6, R223, R268, after Table 4-8). -/
def opDefined (ws : List Word) : Bool :=
  let op := dOp ws
  let sub := dSub ws
  if op = 3 then 1 ≤ sub && sub ≤ 3
  else if op = 4 then sub = 1
  else if op = 5 then 1 ≤ sub && sub ≤ 3
  else if op = 8 then 1 ≤ sub && sub ≤ 0x0D
  else (op = 0 || op = 1 || op = 2 || op = 9 || op = 0xA || op = 0xC || op = 0xD || op = 0xF) && sub = 0

/-! Stores. -/

/-- Lines 0-32,767 hold `n` lines from `line` on. -/
def linesIn (line n : Nat) : Bool := n = 0 || line + n ≤ 32768

/-- Rows of `w` lines, `stride` apart: the stride is at least `w`, and every line used lies in the store. -/
def rowsIn (line stride rows w : Nat) : Bool := w ≤ stride && (rows = 0 || w = 0 || linesIn line ((rows - 1) * stride + w))

/-- Planes of `rows` rows of `w` lines: the row stride is at least `w`, the plane stride at least
(rows - 1) × rstride + w (R221), and every line used lies in the store. -/
def planesIn (line pstride rstride planes rows w : Nat) : Bool :=
  w ≤ rstride && rows * rstride + w ≤ pstride + rstride &&
  (planes = 0 || rows = 0 || w = 0 || linesIn line ((planes - 1) * pstride + (rows - 1) * rstride + w))

def rsRd (s : State) (g line n : Nat) : List Byte := memRd (eng s g).rs (128 * line) n
def rsWr (s : State) (g line : Nat) (bs : List Byte) : State := modEng s g (fun e => { e with rs := memWr e.rs (128 * line) bs })
/-- A write from element `i` of a row on. -/
def rsWrAt (s : State) (g addr : Nat) (bs : List Byte) : State := modEng s g (fun e => { e with rs := memWr e.rs addr bs })

def poolSize : Nat := 2 ^ 24
def poolRd (s : State) (n off len : Nat) : List Byte := memRd (die s n).pool off len
def poolWr (s : State) (n off : Nat) (bs : List Byte) : State := modDie s n (fun d => { d with pool := memWr d.pool off bs })

/-! The next descriptor. -/

/-- The queue an engine takes its next command from: its own, or by turns that of the sibling it stands in for (R380). -/
def serveQueue (s : State) (g : EngId) : Nat :=
  let e := eng s g
  if e.openCmd || inReexec s g || !leftOut s (partner g) then e.bqueue
  else
    let own := (ownQueue s g).getD e.bqueue
    match (placeOf s (partner g).val).map (·.queue) with
    | none => own
    | some sib =>
      let a := if e.turn then sib else own
      let b := if e.turn then own else sib
      if hasWork s a then a else if hasWork s b then b else a

/-- An engine stands ready to take a descriptor (R60, R382, R505, R645). -/
def engReady (s : State) (g : EngId) : Bool :=
  let e := eng s g
  e.bound && (e.st = 1 || e.st = 2) && e.cur.isNone && e.done.isEmpty && e.late.isEmpty && !e.hung && !e.withdrawn && dieInSvc s (dieOf g) &&
  (!s.stg.inlay || inReexec s g) && (e.openCmd || inReexec s g || !pendingRebind s g)

/-- A queue whose next command may start. -/
def queueReady (s : State) (g : EngId) (q : Nat) : Bool :=
  let c := queue s q
  !c.held && qLen c ≠ 0 && c.st = 1 && ((eng s g).openCmd || !(ctxRec s c.ctx).ppend)

/-- The descriptor at the head of a queue as an engine fetches it, by the route in use and the port it comes in on there (R26,
R27): its words, whether they could be read; none where its ring cannot be reached. -/
def fetchDesc (s : State) (g : EngId) (c : QueueCtx) : Option (List Word × Bool × State) :=
  match hbmRange (slotAddr c c.head) 64 with
  | none => none
  | some (n, o) =>
    let s := settleFor s (.engine g) (.die n 14)
    if wayOpen s (wayOf s (.engine g) (.die n 14)) then
      let r := hbmGet s n (portOf s (.engine g) n) (engLivery s g) o 64
      some (bytesWords (r.1.getD (memRd (die s n).hbm o 64)), r.1.isSome, r.2)
    else none

/-- The descriptor at the head of a queue has started. -/
def startDesc (s : State) (g : EngId) (q : Nat) (ws : List Word) : State :=
  let c := queue s q
  modEng (setQueue s q { c with head := c.head + 1 }) g (fun e => { e with
    st := 2, openCmd := true, curTag := nth ws 1, headAt := c.head + 1 })

/-- The queue an engine serves next, with the engine bound to it. -/
def turnTo (s : State) (g : EngId) : Nat × State :=
  let q := serveQueue s g
  let s := syncQueue s q
  (q, if (eng s g).bqueue = q then s else bindEng (unbindEng s g) g q)

/-- The engine takes its next descriptor: its words, whether they could be read, and the state in which it runs. -/
def nextDesc (s : State) (g : EngId) : Option (List Word × Bool × State) :=
  if engReady s g then
    let (q, s) := turnTo s g
    if queueReady s g q then (fetchDesc s g (queue s q)).map (fun x => (x.1, x.2.1, startDesc x.2.2 g q x.1)) else none
  else none

/-! Ends of a descriptor. -/

def doneOk (s : State) (g : Nat) (ws : List Word) : State := engDone s g stOk ws false

/-- A firewall refusal ends the descriptor (R150, R167, Table 7-3). -/
def doneFw (s : State) (g : Nat) (ws : List Word) : State :=
  engDone (modEng s g (fun e => { e with fwl := true })) g stFirewall ws false

/-- The command whose descriptor an engine runs, where the dispatcher issued it. -/
def runningWork (s : State) (g : Nat) : Option WorkId :=
  let e := eng s g
  (s.dis.issued.find? (fun i => i.queue == e.bqueue && i.count == (e.headAt - 1).toNat)).map (·.work)

/-- A check failure (R147): TE_STAT.chk, and the command's re-execution set is due. -/
def checkFail (s : State) (g : EngId) (otherDie : Bool) : State :=
  let s := modEng s g (fun e => { e with chk := true })
  match runningWork s g with
  | some c => if inReexec s g then s else scheduleReexec s c g otherDie
  | none => s

/-- A check of the arithmetic failed: the row sum (R142-R144, R238), the residue channel (R145, R146), or both. Its counts of
TE_CHKSTAT go up, and one class 0x01 failure counts toward withdrawal (R147, R504). -/
def doneMismatch (s : State) (g : EngId) (ws : List Word) (sum res : Bool) : State :=
  let s := modEng s g (fun e => { e with
    abftcnt := satAdd 255 e.abftcnt (b2n sum), rescnt := satAdd 255 e.rescnt (b2n res)
    mismAt := histAdd 1000 s.stg.stage e.mismAt })
  engDone (engLog (checkFail s g false) g 0x01 1 stBadCheck (tagOf ws)) g stBadCheck ws false

/-- A weight-stream error (R156): class 0x02; the set runs on another die. -/
def doneStream (s : State) (g : EngId) (ws : List Word) : State :=
  let s := modEng s g (fun e => { e with wserr := true, wscnt := satAdd 255 e.wscnt 1 })
  engDone (engLog (checkFail s g true) g 0x02 1 stBadCheck (tagOf ws)) g stBadCheck ws false

/-- A check failure whose entry is made where it was found (R447, Table 7-3). -/
def doneCheck (s : State) (g : EngId) (ws : List Word) : State := engDone (checkFail s g false) g stBadCheck ws false

/-! The rows of the engine operations. -/

/-- A row: its op, its own descriptors of that op, step 3, step 4 and the execution. -/
structure EngOp where
  op    : Nat
  sub   : List Word → Bool := fun _ => true
  ok    : List Word → Bool
  empty : List Word → Bool := fun _ => false
  run   : State → EngId → List Word → State

/-- The ACLK cycles an engine spent in RUN (Table 4-18); how many a descriptor takes is not stated. -/
def addBusy (s : State) (g : Nat) : State :=
  modEng (fresh s).2 g (fun e => { e with busy := (e.busy + Config.choice s.free) % 2 ^ 64 })

/-- Table 4-11 for a descriptor that has started; a WAIT refused at step 3 takes those that follow it with it (R413). A descriptor that ends before its operation counts (steps 1 and 2, or cut
short up to the milepost under R162, R413) is completed by whichever operation row comes. -/
def runDesc (o : EngOp) (g : EngId) (s : State) (ws : List Word) (readOk : Bool) : Option State :=
  match (eng s g).skipSt with
  | some st => some (engDone s g st ws false)
  | none =>
    if !readOk || !sealOk ws then
      let s := modEng s g (fun e => { e with dcrc := true })
      some (engDone (engLog s g 0x02 1 stBadCheck (tagOf ws)) g stBadCheck ws false)
    else if !opDefined ws then some (engDone (engLog s g 0x11 0 stBadOpcode (tagOf ws)) g stBadOpcode ws false)
    else if dOp ws = o.op && o.sub ws then
      if !commonOk ws || !o.ok ws then
        some (engDone (engLog s g 0x11 0 stBadParam (tagOf ws)) g stBadParam ws (dOp ws = 0x0F))
      else if o.empty ws then some (engDone s g stOkEmpty ws false)
      else some (o.run (addBusy s g) g ws)
    else none

/-! A descriptor that overtakes a waiting one (R169). -/

/-- Rows of lines: first line, stride, rows, lines of a row; as one span. -/
def spanRows (line stride rows w : Nat) : List (Nat × Nat) := if rows = 0 || w = 0 then [] else [(line, (rows - 1) * stride + w)]

/-- The lines of the resident store that a descriptor writes, and those that it reads; none where they count as the whole
store. -/
def descLines (ws : List Word) : Option (List (Nat × Nat) × List (Nat × Nat)) :=
  let rows := spanRows (df ws 4 14 0) (df ws 4 30 16) (df ws 6 15 0) (cdiv (df ws 5 16 0) 128)
  let n := (nth ws 2).toNat
  match dOp ws with
  | 0 => some ([], [])
  | 5 =>
    let w := rowLines (dFa ws) (df ws 2 31 16)
    let t := df ws 2 15 0
    if dSub ws = 2 then some ([], spanRows (df ws 4 14 0) (df ws 4 30 16) t w ++ spanRows (df ws 5 14 0) (df ws 5 30 16) t w) else none
  | 8 =>
    if 1 ≤ dSub ws && dSub ws ≤ 0xB then
      some ([(df ws 4 14 0, rowLines (dFo ws) (if 0xA ≤ dSub ws then 1 else n))],
        [(df ws 3 14 0, rowLines (dFa ws) n), (df ws 3 30 16, rowLines (dFb ws) n)])
    else none
  | 9 => some (rows, [])
  | 0xA => some ([], rows)
  | 0xC => some ([], [(df ws 3 23 0, (nth ws 4).toNat / 128)])
  | _ => none

def spansMeet (a b : List (Nat × Nat)) : Bool := a.any (fun x => b.any (fun y => x.1 < y.1 + y.2 && y.1 < x.1 + x.2))

/-- The lines that either of two descriptors writes meet none that the other reads or writes. -/
def linesApart (a b : List Word) : Bool :=
  match descLines a, descLines b with
  | some x, some y => !spansMeet x.1 (y.1 ++ y.2) && !spansMeet y.1 (x.1 ++ x.2)
  | _, _ => false

def dFence (ws : List Word) : Bool := tbit (nth ws 0) 30

/-- The descriptor that waits may be overtaken: a HALO_SEND, a STORE or an APPEND, not fenced, not the last of its command, with no
descriptor of the next command ahead of it. -/
def mayOvertake (e : Engine) : Bool :=
  e.ovl && e.openCmd && e.done.isEmpty &&
  (match e.waiting with
    | some .haloSend => true
    | some .drain => true
    | some (.prepare _) => true
    | some .copies => true
    | _ => false) &&
  e.cur.any (fun ws => !dFence ws && !tbit (nth ws 0) 31) && !e.late.any (fun c => tbit (nth c.words 0) 31)

/-- An engine whose descriptor waits runs the one behind it where R169 lets it start; its completion stands behind that of the one
that waits. One that would wait itself does not start. -/
def overtake (g : EngId) (o : EngOp) (s : State) : State :=
  let e := eng s g
  if !mayOvertake e then s
  else match nextDesc (modEng s g (fun e => { e with cur := none, waiting := none, late := [], st := 2 })) g with
    | none => s
    | some (ws, readOk, t) =>
      if dFence ws || !linesApart (e.cur.getD []) ws || (dOp (e.cur.getD []) = 5 && dOp ws = 5) then s
      else match runDesc o g t ws readOk with
        | none => s
        | some t =>
          if (eng t g).cur.isSome then s
          else modEng t g (fun x => { x with
            done := [], late := e.late ++ x.done, cur := e.cur, waiting := e.waiting, headAt := e.headAt, curTag := e.curTag
            openCmd := true, st := e.st })

/-- An operation row for an engine: nothing happens unless the engine's next descriptor is the row's. -/
def runEng (g : EngId) (o : EngOp) (s : State) : Out :=
  .next (match nextDesc s g with
    | none => overtake g o s
    | some (ws, readOk, t) => (runDesc o g t ws readOk).getD s)

/-- NOP (Table 4-6). -/
def execNop (g : EngId) (s : State) : Out :=
  runEng g {
    op := 0
    ok := fun ws => df ws 0 27 16 = 0 && zeroWords ws 2 13
    run := fun s g ws => doneOk s g ws } s

/-! The weight stream (R150-R156). -/

/-- A weight fetch: within the window of the engine's die and its firewall (R150); an uncorrectable error breaks the stream
(R447). -/
def wFetch (s : State) (g : EngId) (addr len : Nat) : Except StreamEnd (List Byte) × State :=
  let n := dieOf g
  let liv := engLivery s g
  if addr / 2 ^ 34 ≠ n || 2 ^ 34 < addr % 2 ^ 34 + len then (.error .firewall, engLog s g 0x10 0 stFirewall addr)
  else if !fwAllows s (.die (fin (by decide) n) 14) liv (addr % 2 ^ 34) len .read then
    (.error .firewall, fwRefuse s (.die (fin (by decide) n) 14) liv (addr % 2 ^ 34) .read)
  else match hbmGet s n (tePort g) liv (addr % 2 ^ 34) len with
    | (some bs, s) => (.ok bs, s)
    | (none, s) => (.error .broken, s)

/-- Bits of a byte string, bit 0 of each byte first (R155). -/
def bitsOf (bs : List Byte) : List Bool := bs.flatMap (fun b => (List.range 8).map (fun i => b.getLsbD i))

/-- The code lengths of the 256 byte values (R153). -/
def codeLens (tab : List Byte) : List Nat := tab.flatMap (fun b => [b.toNat % 16, b.toNat / 16])

/-- Byte values present, shorter codes first and within a length by value (R154). -/
def codeOrder (lens : List Nat) : List (Nat × Nat) :=
  (List.range 15).flatMap (fun l => (lens.zipIdx.filter (fun e => e.1 = l + 1)).map (fun e => (e.1, e.2)))

/-- Canonical codes: (length, code, value) (R154). -/
def codeBook : Nat → Nat → List (Nat × Nat) → List (Nat × Nat × Nat)
  | _, _, [] => []
  | len, code, (l, v) :: r => let c := code <<< (l - len); (l, c, v) :: codeBook l (c + 1) r

/-- The code space is oversubscribed (R156). -/
def oversubscribed (lens : List Nat) : Bool := 2 ^ 15 < ((lens.filter (· ≠ 0)).map (fun l => 2 ^ (15 - l))).sum

/-- Decode up to `n` values: the values, or none where a bit sequence matches no code or bits run out; with the bits left. -/
def decodeBits (book : List (Nat × Nat × Nat)) : List Bool → Nat → Nat → Nat → List Byte → Option (List Byte × List Bool)
  | bits, 0, _, _, acc => some (acc.reverse, bits)
  | [], _ + 1, _, _, _ => none
  | b :: r, n + 1, len, code, acc =>
    let c := 2 * code + b2n b
    match book.find? (fun e => e.1 = len + 1 && e.2.1 = c) with
    | some e => decodeBits book r n 0 0 (BitVec.ofNat 8 e.2.2 :: acc)
    | none => if 15 ≤ len + 1 then none else decodeBits book r (n + 1) (len + 1) c acc

/-- A payload decoded by its mode (R152-R156): the bytes, or none for a weight-stream error. A decoded length out of range is one
(DESIGN CHOICE, log entry 171). -/
def blockBytes (mode len : Nat) (payload : List Byte) : Option (List Byte) :=
  if len = 0 || 4096 < len then none
  else if mode = 0 then (if payload.length = len then some payload else none)
  else if mode = 2 then (if payload.isEmpty then some (List.replicate len 0) else none)
  else if mode = 1 then
    let lens := codeLens (payload.take 128)
    if payload.length < 128 || 4224 < payload.length || oversubscribed lens then none
    else match decodeBits (codeBook 0 0 (codeOrder lens)) (bitsOf (payload.drop 128)) len 0 0 [] with
      | some (bs, rest) => if rest.length < 8 then some bs else none
      | none => none
  else none

/-- What a fetch of a stream came to: the bytes decoded, where its next block starts, how it ended early. -/
structure Fetched where
  bytes : List Byte
  next  : Nat
  ended : Option StreamEnd := none
  deriving DecidableEq, Repr

/-- One block of a stream (R152-R156): its bytes and the address behind it. Its header is one fetch and its payload another
(DESIGN CHOICE, log entry 172); non-zero reserved header bytes are ignored (DESIGN CHOICE, log entry 171). -/
def hxzBlock (s : State) (g : EngId) (addr : Nat) : Except StreamEnd (List Byte × Nat) × State :=
  match wFetch s g addr 8 with
  | (.error e, s) => (.error e, s)
  | (.ok h, s) =>
    let plen := leNat (h.take 2)
    let mode := (nthB h 2).toNat
    if 2 < mode || 4224 < plen then (.error .broken, s)
    else match if plen = 0 then (.ok [], s) else wFetch s g (addr + 8) plen with
      | (.error e, s) => (.error e, s)
      | (.ok p, s) =>
        match blockBytes mode (leNat ((h.drop 4).take 2)) p with
        | none => (.error .broken, s)
        | some bs => (.ok (bs, addr + 8 + 8 * cdiv plen 8), s)

/-- The stream of blocks from an address until `need` bytes are decoded. -/
def hxz (g : EngId) : Nat → State → Nat → Nat → List (List Byte) → Fetched × State
  | 0, s, addr, _, acc => ({ bytes := acc.reverse.flatten, next := addr }, s)
  | fuel + 1, s, addr, need, acc =>
    if need = 0 then ({ bytes := acc.reverse.flatten, next := addr }, s)
    else match hxzBlock s g addr with
      | (.error e, s) => ({ bytes := acc.reverse.flatten, next := addr, ended := some e }, s)
      | (.ok (bs, next), s) => hxz g fuel s next (need - bs.length) (bs :: acc)

/-- One half of the weight buffer (Table 4-1). -/
abbrev wbufHalf : Nat := 262144

/-- Decoded bytes pass through the weight buffer, its two halves by turns. -/
def fillWbuf : Nat → List Byte → Engine → Engine
  | 0, _, e => e
  | n + 1, bs, e =>
    if bs.isEmpty then e
    else
      let part := bs.take wbufHalf
      let e := if e.half then { e with wbuf1 := memWr e.wbuf1 0 part } else { e with wbuf0 := memWr e.wbuf0 0 part }
      fillWbuf n (bs.drop wbufHalf) { e with half := !e.half }

/-- The decoded weights a descriptor needs: what was fetched ahead for it, then the rest of its stream (R151); how the stream
ended early. -/
def weights (s : State) (g : EngId) (addr need : Nat) : List Byte × Option StreamEnd × State :=
  let e := eng s g
  let got : Fetched := match e.pref with
    | some p => if p.count = (e.headAt - 1).toNat && p.addr = addr then { bytes := p.bytes, next := p.next, ended := p.ended }
      else { bytes := [], next := addr }
    | none => { bytes := [], next := addr }
  let x := if got.ended.isSome then (got, s)
    else
      let y := hxz g need s got.next (need - got.bytes.length) []
      ({ y.1 with bytes := got.bytes ++ y.1.bytes }, y.2)
  let s := modEng x.2 g (fun e => fillWbuf (need / wbufHalf + 1) (x.1.bytes.drop got.bytes.length) { e with pref := none })
  (x.1.bytes.take need, if need ≤ x.1.bytes.length then none else x.1.ended, s)

/-- A stream that ends early ends the descriptor; how many rows of the tile groups received before were drained by then is
not defined (R150, R156). -/
def doneEarly (s : State) (g : EngId) (ws : List Word) (e : StreamEnd) : State :=
  match e with
  | .firewall => doneFw s g ws
  | .broken => doneStream s g ws

/-- The end of a descriptor whose stream was whole, or ended early. -/
def doneStreamed (g : EngId) (ws : List Word) (early : Option StreamEnd) (s : State) : State :=
  match early with
  | some e => doneEarly s g ws e
  | none => doneOk s g ws

/-- The descriptor that an engine's fetcher may work ahead for: the next of the open command, of main work or of a re-execution
set; nothing is fetched across a milepost (R151). One whose read would fail is left to its own fetch, which meets the error. -/
def nextWeights (s : State) (g : EngId) : Option (List Word × Nat × State) :=
  let e := eng s g
  let c := queue s e.bqueue
  let atEnd := match e.cur with
    | some ws => tbit (nth ws 0) 31
    | none => false
  if !e.bound || !e.openCmd || e.cut || atEnd || e.skipSt.isSome || qLen c = 0 || c.st ≠ 1 || !dieInSvc s (dieOf g) ||
      (s.stg.inlay && !inReexec s g) then none
  else match fetchDesc s g c with
    | some (ws, true, s) => if sealOk ws then some (ws, c.head.toNat, s) else none
    | _ => none

/-- Weights are fetched ahead into one half of the weight buffer: a stream from an address of which `need` bytes are wanted. -/
def fetchAhead (s : State) (g : EngId) (count addr need : Nat) : State :=
  let n := min need wbufHalf
  let x := hxz g n s addr n []
  modEng x.2 g (fun e => fillWbuf 1 x.1.bytes
    { e with pref := some { count := count, addr := addr, bytes := x.1.bytes, next := x.1.next, ended := x.1.ended } })

end Sys2Proof.Machine
end

