-- ==== Sys2Proof/Machine/Gemm.lean ====
section
/-! DEFINITION. The array: products, accumulation, row checks and the epilogue (04 R138-R147; 05 R189-R197), and the
operations GEMM and GEMM_AA (04, Table 4-7). -/

namespace Sys2Proof.Machine

/-- An operand row or column: its elements, and its blocks when the format is HXB4. -/
structure Vec where
  els  : List Num
  blks : List Blk

def vecOf (f n : Nat) (bs : List Byte) : Vec × Cnt :=
  let r := rowNums f n bs
  ({ els := r.1, blks := if f = 8 then rowBlks n bs else [] }, r.2)

/-! Pairs (Table 5-5). -/

/-- The permitted pairs and their tile depth. -/
def pairKt (a b : Nat) : Option Nat :=
  if a = 0 && b = 0 then some 256
  else if a = 1 && (b = 0 || b = 1) then some 128
  else if a = 2 && (b = 1 || b = 2) then some 32
  else if (a = 3 || a = 4) && (b = 3 || b = 4) then some 128
  else if a = 5 && (b = 5 || b = 3 || b = 4) then some 64
  else if a = 6 && (b = 6 || b = 3 || b = 4) then some 64
  else if a = 7 && b = 7 then some 8
  else if a = 8 && b = 8 then some 256
  else if (a = 1 || a = 3) && b = 8 then some 128
  else if a = 6 && b = 8 then some 64
  else if a = 9 && b = 9 then some 128
  else none

/-- Integer accumulation (Table 5-5). -/
def pairInt (a b : Nat) : Bool := a ≤ 2 && b ≤ 2

/-! Terms and accumulation (R190-R192). -/

/-- An exact product as FP32 takes it: an infinity or a zero outside its range. -/
def inRange32 : Fl → Fl
  | .fin s m e => if m = 0 || topExp m e < -126 then .fin s 0 0 else if tooBig fpF32 m e then .inf s else .fin s m e
  | x => x

/-- An upset of a significand product or a block sum: `err` is added to it (13, Table 13-11). -/
def bump (err : Int) : Fl → Fl
  | .fin s m e => if err = 0 then .fin s m e else .fin (sgn s m + err < 0) (sgn s m + err).natAbs e
  | x => x

/-- An element as it enters a floating product (R186). -/
def enters (x : Num) : Fl := inRange32 (numFl x)

/-- The term of one pair of elements; `err` upsets its significand product. -/
def term (fa : Nat) (err : Int) (a b : Num) : Fl × Cnt :=
  match a, b with
  | .log s l, .log t k => (bump err (logFl (s != t) (l + k)), cnt0)
  | _, _ =>
    if fa = 9 then (fzero, cnt0)
    else
      let x := enters a
      let y := enters b
      let p := bump err (fmulX x y)
      if fa = 7 then made p [x, y]
      else (inRange32 p, if flNan p && !flNan x && !flNan y then cntNan else cnt0)

/-- The term of a pair of HXB4 blocks. -/
def blkTerm (a b : Blk) : Fl :=
  if a.e = 255 || b.e = 255 then .nan
  else
    let v := ((a.q.zip b.q).map (fun x => x.1 * x.2)).sum
    .fin (v < 0) v.natAbs ((a.e : Int) + b.e - 254)

/-- Floating accumulation in ascending order. -/
def accF (start : Fl) (ts : List (Fl × Cnt)) : Fl × Cnt :=
  ts.foldl (fun a t => let r := f32add a.1 t.1; (r.1, (a.2.add t.2).add r.2)) (start, cnt0)

/-- A floating accumulator; term `k` is upset by `err k`. -/
def dotF (fa fb : Nat) (start : Fl) (err : Nat → Int) (a b : Vec) : Fl × Cnt :=
  if fa = 8 && fb = 8 then
    accF start ((a.blks.zip b.blks).zipIdx.map (fun x => (bump (err x.2) (blkTerm x.1.1 x.1.2), cnt0)))
  else accF start ((a.els.zip b.els).zipIdx.map (fun x => term fa (err x.2) x.1.1 x.1.2))

def numInt : Num → Int
  | .int v => v
  | _ => 0

/-- 48-bit two's complement. -/
def wrap48 (v : Int) : Int := sx 48 (tc 48 v)

def ints (v : Vec) : List Int := v.els.map numInt

/-- Σ a × b, exactly. -/
def dotX (a b : List Int) : Int := ((a.zip b).map (fun x => x.1 * x.2)).sum

/-- An integer accumulator, upset by `err` (R190). -/
def dotI (start err : Int) (a b : Vec) : Int := wrap48 (start + dotX (ints a) (ints b) + err)

/-! A matrix product over tile groups of 128 columns (R172). -/

structure Mat where
  integer : Bool
  fa    : Nat
  fb    : Nat
  m     : Nat
  k     : Nat
  row   : Nat → Nat → Vec        -- of row `r` against column `n`
  cols  : List Vec
  width : Nat := 128             -- columns of a group
  part  : Nat → Nat := fun _ => 0                 -- columns of one part meet the same A elements
  again : Option (Nat → Nat) := none              -- DEPTHWISE: the output column of a row, whose place is repeated (R238)
  start : Nat → Nat → Num
  fin   : Nat → Nat → Num → Num × Cnt

/-- The columns of group `j` with their numbers. -/
def Mat.group (x : Mat) (j : Nat) : List (Vec × Nat) := ((x.cols.drop (x.width * j)).take x.width).zipIdx (x.width * j)

/-! Upsets of the array. -/

/-- The error that an upset adds to the accumulator of row `r` and column `n`. -/
def accErr (u : Option Upset) (r n : Nat) : Int :=
  match u with
  | some x => if x.row = r && x.col = n && x.term.isNone then x.err else 0
  | none => 0

/-- The error that an upset adds to product `k` of row `r` and column `n`. -/
def termErr (u : Option Upset) (r n k : Nat) : Int :=
  match u with
  | some x => if x.row = r && x.col = n && x.term = some k then x.err else 0
  | none => 0

/-- An upset of an FP32 accumulator: `err` is added to its 32 bits. -/
def bumpAcc (err : Int) (x : Fl) : Fl :=
  if err = 0 then x else fpDecode fpF32 (tc 32 ((fpEncode fpF32 x : Nat) + err))

/-! The check column (R142-R144, R473). -/

/-- The row sums s_k of some columns; a column that has no element there adds nothing. -/
def rowSums (k : Nat) (cols : List (List Int)) : List Int := (List.range k).map (fun i => (cols.map (fun c => c.getD i 0)).sum)

/-- check_m of an integer row: Σ_k A[m][k] × s_k over the tiles of a group, from the accumulators' starting values on. -/
def checkInt (x : Mat) (r : Nat) (cs : List (Vec × Nat)) : Int :=
  let parts := (cs.map (fun c => x.part c.2)).eraseDups
  (cs.map (fun c => numInt (x.start r c.2))).sum + (parts.map (fun p =>
    let mine := cs.filter (fun c => x.part c.2 = p)
    dotX (ints (x.row r ((mine.head?.map (·.2)).getD 0))) (rowSums x.k (mine.map (fun c => ints c.1))))).sum

def sumX (l : List Fl) : Fl := l.foldl faddX fzero
def isFin : Fl → Bool
  | .fin _ _ _ => true
  | _ => false

/-- What the comparison of R144 comes to for a row whose columns pair `ab`, start at `st` and came to `cs`, one of them with an
error `err` in it (0 for none): a mismatch, none, or open. R473 says it for an error above its threshold, and for a row without
one where its bound holds; check_m in T_m is taken at its exact value. Between these the order in which s_k and Σ_n C are formed in
FP32, which is not stated, leaves both sides known within a bound, and between its ends the answer is open. A value that is no
finite number makes the comparison false. -/
def floatCheck (ftol k : Nat) (err : Fl) (ab : List (Vec × Vec)) (st cs : List Fl) : Option Bool :=
  let prods := ab.flatMap (fun c => (c.1.els.zip c.2.els).map (fun x => fmulX (enters x.1) (enters x.2)))
  let all := st ++ prods
  if !(all.all isFin && cs.all isFin) then some false
  else
    let r := sumX (prods.map absFl)
    let ra := sumX (all.map absFl)
    if flLt (.fin false 1 126) ra then none
    else
      let c := sumX (cs.map absFl)
      let sum := sumX all
      -- 2^-ftol T, δ = 1.004 (2 K + 252) 2^-24 R and the error, in 1/1000
      let t := fmulX (faddX c (absFl sum)) (.fin false 1000 (-(ftol : Int)))
      let del := fmulX r (.fin false (1004 * (2 * k + 252)) (-24))
      let x := fmulX (absFl err) (.fin false 1000 0)
      -- twice the bound of the sums, in 1/1000
      let e := faddX (faddX (fmulX ra (.fin false (2008 * (k + 128)) (-24))) (fmulX c (.fin false (2008 * 127) (-24))))
        (.fin false (1000 * (2 * k + 512)) (-126))
      let d := fmulX (absFl (faddX (sumX cs) (fneg sum))) (.fin false 1000 0)
      if flLt (faddX t del) x then some true
      else if flZero err && !flLt t del then some false
      else if flLt (faddX t e) d then some true
      else if !flLt t (faddX d e) then some false
      else none

/-! The residue channel (R145). -/

/-- The residue accumulated beside an integer accumulator. -/
def residue (start : Int) (a b : List Int) : Int :=
  ((a.zip b).foldl (fun r x => (r + (x.1.emod 3) * (x.2.emod 3)).emod 3) (start.emod 3))

/-! Rows. -/

/-- A row of a group: its accumulators, its counts, whether the check column and the residue channel found a mismatch. -/
structure RowOut where
  vals : List Num
  cnt  : Cnt := {}
  sum  : Bool := false
  res  : Bool := false

/-- The column whose computation the check column repeats for row `r` (R238), and its place in the group. -/
def repeated (x : Mat) (r : Nat) (cs : List (Vec × Nat)) : Option (Nat × (Vec × Nat)) :=
  match x.again with
  | none => none
  | some f => let i := f r % max 1 cs.length; (cs[i]?).map (fun c => (i, c))

def rowInt (x : Mat) (u : Option Upset) (r : Nat) (cs : List (Vec × Nat)) : RowOut :=
  let sumErr := fun n => accErr u r n + ((List.range x.k).map (termErr u r n)).sum
  let vs := cs.map (fun c => dotI (numInt (x.start r c.2)) (sumErr c.2) (x.row r c.2) c.1)
  let bad := match repeated x r cs with
    | some (i, c) => x.again.isSome && vs.getD i 0 ≠ dotI (numInt (x.start r c.2)) 0 (x.row r c.2) c.1
    | none => x.again.isNone && wrap48 vs.sum ≠ wrap48 (checkInt x r cs)
  { vals := vs.map .int, sum := bad
    res := (cs.zip vs).any (fun c => residue (numInt (x.start r c.1.2)) (ints (x.row r c.1.2)) (ints c.1.1) ≠ c.2.emod 3) }

/-- `idx` and `slot` name the free value of an answer that R144 leaves open. -/
def rowFloat (x : Mat) (u : Option Upset) (ftol idx slot r : Nat) (cs : List (Vec × Nat)) : RowOut :=
  let acc := fun (y : Option Upset) (c : Vec × Nat) =>
    let v := dotF x.fa x.fb (numFl (x.start r c.2)) (termErr y r c.2) (x.row r c.2) c.1
    (bumpAcc (accErr y r c.2) v.1, v.2)
  let v := tally (acc u) cs
  let hit := match u with
    | some y => x.m ≠ 0 && y.row = r && cs.any (fun c => c.2 = y.col)
    | none => false
  let err := sumX ((cs.zip v.1).map (fun e => faddX e.2 (fneg (acc none e.1).1)))
  let bad := match repeated x r cs with
    | some (i, c) => x.again.isSome && fpEncode fpF32 (v.1.getD i fzero) ≠ fpEncode fpF32 (acc none c).1
    | none => x.again.isNone && (floatCheck ftol x.k (if hit then err else fzero) (cs.map (fun c => (x.row r c.2, c.1)))
        (cs.map (fun c => numFl (x.start r c.2))) v.1).getD (Config.falseAlarm idx slot)
  { vals := v.1.map .fl, cnt := v.2, sum := bad
    res := match u with
      | some y => hit && y.term.any (fun k => k < (if x.fa = 8 && x.fb = 8 then x.k / 32 else x.k)) && y.err.emod 3 ≠ 0
      | none => false }

/-- Row `k % m` of group `k / m`. -/
def rowOut (x : Mat) (u : Option Upset) (ftol idx k : Nat) : RowOut :=
  let cs := x.group (k / x.m)
  if x.integer then rowInt x u (k % x.m) cs else rowFloat x u ftol idx k (k % x.m) cs

/-- What rows of the groups came to: row, group and drained values in execution order; the accumulators; the counts; which
check ended it. -/
structure MatOut where
  out : List (Nat × Nat × List Num) := []
  acc : List (Nat × Nat × List Num) := []
  cnt : Cnt := {}
  sum : Bool := false
  res : Bool := false

/-- Rows in execution order, each named by row and group. A mismatch ends the run before the row is drained (R147). -/
def runMat (x : Mat) (u : Option Upset) (ftol idx : Nat) : List Nat → MatOut → MatOut
  | [], o => o
  | k :: ks, o =>
    let r := k % x.m
    let j := k / x.m
    let g := rowOut x u ftol idx k
    let o := { o with acc := (r, j, g.vals) :: o.acc, cnt := o.cnt.add g.cnt }
    if g.sum || g.res then { o with sum := g.sum, res := g.res }
    else
      let v := tally (fun c => x.fin r (x.width * j + c.2) c.1) g.vals.zipIdx
      runMat x u ftol idx ks { o with out := (r, j, v.1) :: o.out, cnt := o.cnt.add v.2 }

/-- An accumulator as the accumulator store holds it (Table 4-1): 48 bits, or FP32 in the low 4 of its 6 bytes. -/
def accBytes : Num → List Byte
  | .int v => natLe 6 (tc 48 v)
  | y => natLe 4 (fpEncode fpF32 (numFl y))

/-- A row of a group in its half of the accumulator store; chunks of 512 rows take the halves by turns. -/
def putAcc (m : Nat) (e : Engine) (w : Nat × Nat × List Num) : Engine :=
  let put := fun (a : Mem) => w.2.2.zipIdx.foldl (fun a v => memWr a (6 * (128 * (w.1 % 512) + v.2)) (accBytes v.1)) a
  if (w.2.1 * cdiv m 512 + w.1 / 512) % 2 = 0 then { e with acc0 := put e.acc0 } else { e with acc1 := put e.acc1 }

/-- Groups of 128 columns. -/
def groupsOf (n : Nat) : Nat := cdiv n 128

/-- The rows of a product that are drained, in the order `rows` within each group: all of them, or, of those of the first
`full` groups, a number that is not defined. -/
def slots (s : State) (rows : List Nat) (groups full : Nat) (early : Bool) : List Nat :=
  let all := (List.range groups).flatMap (fun j => rows.map (fun r => j * rows.length + r))
  if early then all.take (Config.choice s.free % (full * rows.length + 1)) else all

/-! The epilogue (R193-R197). -/

structure Epi where
  integer : Bool
  bias    : Option (List Num)
  scale   : Option (List Num)
  shift   : Nat
  trunc   : Bool
  act     : Nat
  lo      : Word
  hi      : Word
  fo      : Nat

/-- The value is FP32 at its end. -/
def Epi.floating (p : Epi) : Bool := !p.integer || p.scale.isSome

def elemAt (l : List Num) (n : Nat) : Num := l.getD n (.fl fzero)

/-- R195. -/
def shiftInt (trunc : Bool) (n : Nat) (v : Int) : Int :=
  if trunc then (if v < 0 then -((-v).toNat >>> n : Nat) else (v.toNat >>> n : Nat)) else rhe v (2 ^ n)

def clampLimit (p : Epi) (w : Word) : Fl := if isInt p.fo then intF32 (sx 32 w.toNat) else f32Of w

/-- Activation of a floating value (R196, R216). -/
def actF (p : Epi) (v : Fl) : Fl × Cnt :=
  match p.act with
  | 1 => (f32max v fzero, cnt0)
  | 2 => (f32min (f32max v (clampLimit p p.lo)) (clampLimit p p.hi), cnt0)
  | 3 => f32gelu v
  | _ => (v, cnt0)

def actI (p : Epi) (v : Int) : Int :=
  match p.act with
  | 1 => max v 0
  | 2 => min (max v (sx 32 p.lo.toNat)) (sx 32 p.hi.toNat)
  | _ => v

/-- Bias, scale, shift and activation of column `n`. -/
def epilogue (p : Epi) (n : Nat) (v : Num) : Num × Cnt :=
  if p.integer then
    let v := wrap48 (numInt v + ((p.bias.map (fun l => numInt (elemAt l n))).getD 0))
    match p.scale with
    | none => (.int (actI p (shiftInt p.trunc p.shift v)), cnt0)
    | some l =>
      let x := f32mul (intF32 v) (numFl (elemAt l n))
      let y := actF p x.1
      (.fl y.1, x.2.add y.2)
  else
    let a := match p.bias with
      | none => (numFl v, cnt0)
      | some l => f32add (numFl v) (numFl (elemAt l n))
    let b := match p.scale with
      | none => (a.1, cnt0)
      | some l => f32mul a.1 (numFl (elemAt l n))
    let c := actF p b.1
    (.fl c.1, (a.2.add b.2).add c.2)

/-- lo is greater than hi in the encoding of Table 4-7. -/
def clampBad (fo : Nat) (lo hi : Word) : Bool :=
  if isInt fo then sx 32 hi.toNat < sx 32 lo.toNat else flLt (f32Of hi) (f32Of lo)

/-- R197 over the fields of an epilogue and the width N. -/
def epiOk (integer scaleEn : Bool) (shift act fo n : Nat) (lo hi : Word) : Bool :=
  let floating := !integer || scaleEn
  !(floating && shift ≠ 0) && (floating || isInt fo) && !(act = 3 && !floating) && !(act = 2 && clampBad fo lo hi) &&
  !(fo = 8 && n % 32 ≠ 0)

/-- A vector of `n` accumulator-form elements at a line: INT32 or FP32. -/
def accVec (s : State) (g : Nat) (en : Bool) (f line n : Nat) : Option (List Num) :=
  if en then some ((rowCodes f n (rsRd s g line (4 * n))).map (codeNum f)) else none

/-! GEMM and GEMM_AA (Table 4-7). -/

def gM (ws : List Word) : Nat := df ws 2 15 0
def gN (ws : List Word) : Nat := df ws 2 31 16
def gK (ws : List Word) : Nat := df ws 3 15 0
def gInt (ws : List Word) : Bool := pairInt (dFa ws) (dFb ws)
def gAcc (ws : List Word) : Bool := tbit (nth ws 9) 16
def gBias (ws : List Word) : Bool := tbit (nth ws 6) 15
def gScale (ws : List Word) : Bool := tbit (nth ws 6) 31

/-- Step 3 of what GEMM and GEMM_AA share. Values outside Table 4-7 end as the listed ones do (DESIGN CHOICE, log entry 173). -/
def gemmOk (ws : List Word) : Bool :=
  let n := gN ws
  let k := gK ws
  (pairKt (dFa ws) (dFb ws)).isSome && dFo ws ≤ 0xA && df ws 3 31 16 = 0 &&
  !tbit (nth ws 4) 31 && !tbit (nth ws 4) 15 && !tbit (nth ws 5) 31 && !tbit (nth ws 5) 15 &&
  df ws 9 31 17 = 0 && df ws 9 15 13 = 0 && df ws 9 7 6 = 0 && df ws 9 5 4 ≤ 1 && df ws 9 3 0 ≤ 3 && zeroWords ws 12 13 &&
  !((dFa ws = 8 || dFb ws = 8) && k % 32 ≠ 0) && !(gAcc ws && dFo ws ≠ fmtInt32 && dFo ws ≠ fmtF32) &&
  epiOk (gInt ws) (gScale ws) (df ws 9 12 8) (df ws 9 3 0) (dFo ws) n (nth ws 10) (nth ws 11) &&
  rowsIn (df ws 4 14 0) (df ws 4 30 16) (gM ws) (rowLines (dFa ws) k) &&
  rowsIn (df ws 5 14 0) (df ws 5 30 16) (gM ws) (rowLines (dFo ws) n) &&
  (!gScale ws || linesIn (df ws 6 30 16) (rowLines fmtF32 n)) && (!gBias ws || linesIn (df ws 6 14 0) (rowLines fmtF32 n))

def gemmEmpty (ws : List Word) : Bool := gM ws = 0 || gN ws = 0 || gK ws = 0

def gemmEpi (s : State) (g : Nat) (ws : List Word) : Epi :=
  { integer := gInt ws
    bias := accVec s g (gBias ws) (if gInt ws then fmtInt32 else fmtF32) (df ws 6 14 0) (gN ws)
    scale := accVec s g (gScale ws) fmtF32 (df ws 6 30 16) (gN ws)
    shift := df ws 9 12 8, trunc := df ws 9 5 4 = 1, act := df ws 9 3 0, lo := nth ws 10, hi := nth ws 11, fo := dFo ws }

/-- The rows of A. -/
def aRows (s : State) (g f line stride m k : Nat) : List Vec × Cnt :=
  tally (fun r => vecOf f k (rsRd s g (line + r * stride) (rowBytes f k))) (List.range m)

/-- The columns of B from K rows of N elements, or from N rows of K elements for HXB4 (R641). -/
def colsFromRows (f n k : Nat) (row : Nat → List Byte) : List Vec × Cnt :=
  if f = 8 then tally (fun c => vecOf f k (row c)) (List.range n)
  else
    let rs := tally (fun i => rowNums f n (row i)) (List.range k)
    ((List.range n).map (fun c => { els := rs.1.map (fun r => r.getD c (.fl fzero)), blks := [] }), rs.2)

/-- C's existing value as the accumulator starts from it (R190, R191). -/
def startOf (s : State) (g : Nat) (integer en : Bool) (addr : Nat → Nat → Nat) (r c : Nat) : Num :=
  if en then
    let w := leNat (memRd (eng s g).rs (addr r c) 4)
    if integer then .int (sx 32 w) else .fl (fpDecode fpF32 w)
  else if integer then .int 0 else .fl fzero

/-- The rows of a product of `m` rows are written to C, then the descriptor ends. -/
def finishMat (s : State) (g : EngId) (ws : List Word) (m : Nat) (c : Cnt) (o : MatOut) (ends : State → State)
    (put : State → Nat × Nat × List Num → State × Cnt) : State :=
  let s := modEng (fresh s).2 g (fun e => o.acc.reverse.foldl (putAcc m) e)
  let w := o.out.reverse.foldl (fun (a : State × Cnt) x => let r := put a.1 x; (r.1, a.2.add r.2)) (s, cnt0)
  let s := addCnt w.1 g ((c.add o.cnt).add w.2)
  if o.sum || o.res then doneMismatch s g ws o.sum o.res
  else ends s

/-- The address of row `r` of C. -/
def gemmAt (ws : List Word) (r : Nat) : Nat := 128 * (df ws 5 14 0 + r * df ws 5 30 16)

/-- The product of the rows of A and the columns of B. -/
def gemmMat (s : State) (g : Nat) (ws : List Word) (cols : List Vec) : Mat :=
  let a := aRows s g (dFa ws) (df ws 4 14 0) (df ws 4 30 16) (gM ws) (gK ws)
  let p := gemmEpi s g ws
  { integer := gInt ws, fa := dFa ws, fb := dFb ws, m := gM ws, k := gK ws, cols := cols
    row := fun r _ => a.1.getD r { els := [], blks := [] }
    start := startOf s g (gInt ws) (gAcc ws) (fun r c => gemmAt ws r + 4 * c)
    fin := fun _ n v => epilogue p n v }

def gemmRun (u : Option Upset) (s : State) (g : EngId) (ws : List Word) (cols : List Vec × Cnt) (full : Nat)
    (early : Option StreamEnd) : State :=
  let a := aRows s g (dFa ws) (df ws 4 14 0) (df ws 4 30 16) (gM ws) (gK ws)
  let p := gemmEpi s g ws
  let o := runMat (gemmMat s g ws cols.1) u (eng s g).ftol s.free
    (slots s (List.range (gM ws)) (groupsOf (gN ws)) full early.isSome) {}
  finishMat s g ws (gM ws) (a.2.add cols.2) o (doneStreamed g ws early) (fun s e =>
    let r := numsRow p.fo p.trunc e.2.2
    (rsWrAt s g (gemmAt ws e.1 + rowBytes p.fo (128 * e.2.1)) r.1, r.2))

/-- Bytes of one weight tile: Kt rows of 128 elements, or for HXB4 128 columns of Kt / 32 blocks (R232). -/
def tileBytes (f kt : Nat) : Nat := if f = 8 then 128 * rowBytes 8 kt else kt * rowBytes f 128

/-- Column `c` of a group from the group's tiles (R232): its elements over all tiles, `k` of them. -/
def tileCol (f kt tiles k c : Nat) (bs : List Byte) : Vec :=
  if f = 8 then
    let l := (List.range tiles).flatMap (fun t => rowBlks kt ((bs.drop (t * tileBytes f kt + c * rowBytes 8 kt)).take (rowBytes 8 kt)))
    let l := l.take (k / 32)
    { els := l.flatMap (fun b => b.q.map (fun q => .fl (blkFl b q))), blks := l }
  else
    let w := rowBytes f 128
    { els := ((List.range (tiles * kt)).take k).map (fun i =>
        codeNum f ((rowCodes f 128 ((bs.drop (i * w)).take w)).getD c 0))
      blks := [] }

/-- Bytes of the weights of one column group of a GEMM. -/
def gemmPer (ws : List Word) : Nat :=
  cdiv (gK ws) ((pairKt (dFa ws) (dFb ws)).getD 1) * tileBytes (dFb ws) ((pairKt (dFa ws) (dFb ws)).getD 1)

/-- The columns of B from the stream's bytes. -/
def gemmCols (ws : List Word) (bs : List Byte) : List Vec :=
  let kt := (pairKt (dFa ws) (dFb ws)).getD 1
  (List.range (gN ws)).map (fun n =>
    tileCol (dFb ws) kt (cdiv (gK ws) kt) (gK ws) (n % 128) ((bs.drop (n / 128 * gemmPer ws)).take (gemmPer ws)))

/-- The weights a GEMM needs. -/
def gemmWeights (s : State) (g : EngId) (ws : List Word) : List Byte × Option StreamEnd × State :=
  weights s g ((nth ws 7).toNat + 2 ^ 32 * df ws 8 15 0) (groupsOf (gN ws) * gemmPer ws)

/-- GEMM: operand B streamed from HBM, tile by tile. -/
def execGemm (g : EngId) (s : State) (u : Option Upset := none) : Out :=
  runEng g {
    op := 1
    ok := fun ws => gemmOk ws && df ws 8 31 16 = 0
    empty := gemmEmpty
    run := fun s g ws =>
      let w := gemmWeights s g ws
      let cols := gemmCols ws w.1
      let bad := if dFb ws = 8 then badBlks (cols.flatMap (·.blks)) else cnt0
      gemmRun u w.2.2 g ws (cols, bad) (w.1.length / max 1 (gemmPer ws)) w.2.1 } s

/-- Step 3 of operand B of GEMM_AA (R641). -/
def bOk (ws : List Word) : Bool :=
  let f := dFb ws
  !tbit (nth ws 7) 31 && !tbit (nth ws 7) 15 && nth ws 8 == 0 &&
  (if f = 8 then rowsIn (df ws 7 14 0) (df ws 7 30 16) (gN ws) (rowLines f (gK ws))
   else rowsIn (df ws 7 14 0) (df ws 7 30 16) (gK ws) (rowLines f (gN ws)))

/-- The columns of B in the resident store. -/
def gemmAaCols (s : State) (g : Nat) (ws : List Word) : List Vec × Cnt :=
  let w := if dFb ws = 8 then rowBytes 8 (gK ws) else rowBytes (dFb ws) (gN ws)
  colsFromRows (dFb ws) (gN ws) (gK ws) (fun i => rsRd s g (df ws 7 14 0 + i * df ws 7 30 16) w)

/-- GEMM_AA: operand B in the resident store. -/
def execGemmAa (g : EngId) (s : State) (u : Option Upset := none) : Out :=
  runEng g {
    op := 2
    ok := fun ws => gemmOk ws && bOk ws
    empty := gemmEmpty
    run := fun s g ws => gemmRun u s g ws (gemmAaCols s g ws) 0 none } s

end Sys2Proof.Machine
end

