-- ==== Sys2Proof/Machine/Kpm.lean ====
section
/-! DEFINITION. The KV page manager (07 R248-R267, R282, R283): page descriptors, the heaps, reference counts, write
preparations, the class 0x7 opcodes. -/

namespace Sys2Proof.Machine

def defPage : Page := {}
def page (s : State) (i : Nat) : Page := bankGet defPage s.kpm.pages i
def setPage (s : State) (i : Nat) (p : Page) : State := { s with kpm := { s.kpm with pages := bankSet defPage s.kpm.pages i p } }
def modPage (s : State) (i : Nat) (f : Page → Page) : State := setPage s i (f (page s i))
def setKpm (s : State) (f : Kpm → Kpm) : State := { s with kpm := f s.kpm }

/-- The page formats (R250). -/
def pageFmt (f : Nat) : Bool := f = 1 || f = 3 || f = 4 || f = 5 || f = 6 || f = 8

/-- R250 for a head dimension. -/
def headOk (f d : Nat) : Bool := 16 ≤ d && d ≤ 512 && d % 16 = 0 && !(f = 8 && d % 32 ≠ 0)

def pageBytes (z : Nat) : Nat := 4096 * 2 ^ z
/-- The row size rb (R249). -/
def pageRow (f d : Nat) : Nat := rowBytes f d
/-- Cp (R249). -/
def pageCap (z f d : Nat) : Nat := if pageRow f d = 0 then 0 else pageBytes z / 2 / pageRow f d

/-- The words of a page descriptor (Table 7-1); a FREE one reads as zeros (R253). Counts of 65,536
tokens, capacity and filled, show 0 in their 16-bit fields (DESIGN CHOICE, log entries 146 and 180). -/
def pageWords (p : Page) : List Word :=
  if p.st = 0 then List.replicate 8 0
  else
    let ws := sealW [toW (at_ p.st 30 + at_ p.size 24 + at_ p.fmt 20 + at_ p.die 16 + at_ p.ctx 8), toW (at_ p.refs 16 + p.d),
      toW (at_ (p.filled % 65536) 16 + p.capacity % 65536), lo32 p.addr, hi32 p.addr, toW (flagAt p.cow 31 + p.src), toW p.stage]
    ws.set 7 (nth ws 7 ^^^ p.flip)

/-- Descriptors not FREE, in all and of a context. -/
def usedPages (s : State) : Nat := s.kpm.pages.length
def ctxPages (s : State) (c : Nat) : Nat := (s.kpm.pages.filter (fun e => e.2.ctx = c)).length

/-! The heaps (R251). -/

/-- Blocks of a die's heap that are taken: device address and bytes. -/
def takenBlocks (s : State) (n : Nat) : List (Nat × Nat) :=
  ((s.kpm.pages.filter (fun e => e.2.die = n)).map (fun e => (e.2.addr, pageBytes e.2.size))) ++
  ((s.kpm.withheld.filter (fun w => w.1 = n)).map (fun w => (w.2.1, pageBytes w.2.2)))

/-- The free buddy blocks inside a block, in address order: a block wholly free, or those of its two halves. -/
def freeIn (taken : List (Nat × Nat)) : Nat → Nat → List (Nat × Nat)
  | 0, a => if taken.any (fun t => t.1 < a + 4096 && a < t.1 + t.2) then [] else [(a, 0)]
  | z + 1, a =>
    let size := pageBytes (z + 1)
    let mine := taken.filter (fun t => t.1 < a + size && a < t.1 + t.2)
    if mine.isEmpty then [(a, z + 1)] else freeIn mine z a ++ freeIn mine z (a + size / 2)

def heapBase (s : State) (n : Nat) : Nat := (bankGet (0, 0) s.kpm.heaps n).1
def heapSize (s : State) (n : Nat) : Nat := (bankGet (0, 0) s.kpm.heaps n).2

/-- The free blocks of a die's heap, in address order. -/
def freeBlocks (s : State) (n : Nat) : List (Nat × Nat) :=
  (List.range (heapSize s n)).flatMap (fun i => freeIn (takenBlocks s n) 9 (n * 2 ^ 34 + (heapBase s n + i) * 2 ^ 21))

/-- The address of a new page of size code z: the lowest free block of that size, else the lowest larger one (R251). -/
def heapFind (s : State) (n z : Nat) : Option Nat :=
  let l := freeBlocks s n
  match l.find? (fun b => b.2 = z) with
  | some b => some b.1
  | none => (l.find? (fun b => z < b.2)).map (·.1)

/-- KPM_FREEn (Table 7-14). -/
def heapFree (s : State) (n : Nat) : Nat := heapSize s n * 512 - ((takenBlocks s n).map (fun b => b.2 / 4096)).sum

/-- The first FREE descriptor at or after an index, around the table. -/
def freeIndex (s : State) : Nat → Nat → Nat
  | 0, i => i
  | k + 1, i => if (page s i).st = 0 then i else freeIndex s k ((i + 1) % 524288)

/-- A page is allocated: which FREE descriptor it takes is not defined. None where quota, heap or table is short. -/
def allocPage (s : State) (z f n d c : Nat) (cow : Option Nat) : Option (Nat × State) :=
  if bankGet 0 s.kpm.quotas c ≤ ctxPages s c || 524288 ≤ usedPages s then none
  else match heapFind s n z with
    | none => none
    | some a =>
      let i := freeIndex s (usedPages s) (Config.choice s.free % 524288)
      let s := setPage (fresh s).2 i {
        st := 1, size := z, fmt := f, die := n, ctx := c, refs := 1, d := d, filled := 0, capacity := pageCap z f d, addr := a
        cow := cow.isSome, src := cow.getD 0x7FFFF, stage := s.stg.stage % 2 ^ 32 }
      some (i, setKpm s (fun k => { k with hwm := max k.hwm (usedPages s) }))

/-- An allocation refused for quota or heap (Table 7-9). -/
def noAlloc (s : State) : State := setKpm s (fun k => { k with noalloc := true })

/-- A reference is given up (R254, R267): the new count and its status. -/
def dropRef (s : State) (i : Nat) : Nat × Byte × State :=
  let p := page s i
  if p.refs = 0 then (0, stUnderflow, setKpm s (fun k => { k with under := true }))
  else if p.pinned then (p.refs, stSaturated, s)
  else
    (p.refs - 1, stOk, setPage s i { p with refs := p.refs - 1, st := if p.refs = 1 && p.st = 1 then 2 else p.st })

/-- A reference is added (R267). -/
def addRef (s : State) (i : Nat) : Nat × Byte × State :=
  let p := page s i
  if 65535 ≤ p.refs then
    (p.refs, stSaturated, setKpm (setPage s i { p with pinned := true }) (fun k => { k with sat := true }))
  else (p.refs + 1, stOk, setPage s i { p with refs := p.refs + 1 })

/-- A descriptor becomes FREE; the block of a lost die's page stays withheld (R254, R255). -/
def freePage (s : State) (i : Nat) : State :=
  let p := page s i
  let s := setPage s i defPage
  if p.st = 3 && !dieInSvc s p.die then setKpm s (fun k => { k with withheld := k.withheld ++ [(p.die, p.addr, p.size)] }) else s

/-- At an accepted tick: RELEASING descriptors and LOST ones without references become FREE (R254, Table 7-2). -/
def releasePages (s : State) : State :=
  forAll s (s.kpm.pages.filter (fun e => e.2.st = 2 || (e.2.st = 3 && e.2.refs = 0))) (fun s e => freePage s e.1)

/-- A die is lost: its pages enter LOST (R255). -/
def losePages (s : State) (n : Nat) : State :=
  forAll s (s.kpm.pages.filter (fun e => e.2.die = n)) (fun s e => modPage s e.1 (fun p => { p with st := 3 }))

/-- A context starts empty (R256). -/
def emptyPages (s : State) (c : Nat) : State :=
  forAll s (s.kpm.pages.filter (fun e => e.2.ctx = c)) (fun s e => freePage s e.1)

/-! Class 0x7 (Table 7-8). -/

/-- Allocate a count of pages, all or none. -/
def allocMany (z f n d c : Nat) : Nat → State → List Nat → Option (List Nat × State)
  | 0, s, acc => some (acc.reverse, s)
  | k + 1, s, acc =>
    match allocPage s z f n d c none with
    | some (i, t) => allocMany z f n d c k t (i :: acc)
    | none => none

/-- KV_ALLOC. Size code 0 is the page size of 4 KiB (R248, Table 7-8) and no zero that R130 refuses (DESIGN CHOICE, log entry
147). -/
def rowKvAlloc : OpDef :=
  opDef (fixedRow 7 0 2) (fun s k =>
    let w := par k 1
    let z := fld w 27 24
    let f := fld w 23 20
    let n := fld w 19 16
    let d := fld w 15 0
    if 256 < parN k 0 then .refuse stBadParam 10 4
    else if fld w 31 28 ≠ 0 || 9 < z || !pageFmt f || 11 < n || !headOk f d || pageCap z f d = 0 then .refuse stBadParam 10 5
    else if !dieInSvc s n then .refuse stNotReady 11 0xFFFF
    else match allocMany z f n d (pktCtx k) (parN k 0) s [] with
      | none => .refuseIn stNoResource 11 0xFFFF (noAlloc s)
      | some (is, t) => if is.isEmpty then .answer stOkEmpty [] s else .answer stOk (is.map toW) t)

/-- The first offending index of a list: its place and status (Table 7-8). A FREE descriptor counts as one of context 0 (DESIGN
CHOICE, log entry 178). -/
def kvBad (s : State) (k : Pkt) : Option (Byte × Nat) :=
  ((parsFrom k 1).zipIdx.findSome? (fun e =>
    if 524287 < e.1.toNat then some (stBadParam, 5 + e.2)
    else if (page s e.1.toNat).ctx ≠ pktCtx k then some (stFirewall, 5 + e.2)
    else none))

/-- Each occurrence in order, with the status of R283. -/
def kvEach (s : State) (op : State → Nat → Nat × Byte × State) (is : List Word) : List Word × List Byte × State :=
  is.foldl (fun (a : List Word × List Byte × State) w =>
    let r := op a.2.2 w.toNat
    (a.1 ++ [toW r.1], a.2.1 ++ [r.2.1], r.2.2)) ([], [], s)

def kvStatus (l : List Byte) : Byte :=
  if l.contains stUnderflow then stUnderflow else if l.contains stSaturated then stSaturated else stOk

def kvList (code : Nat) (needActive : Bool) (op : State → Nat → Nat × Byte × State) : OpDef :=
  opDef { cls := 7, op := code, lenIdx := 4, lenOk := fun k => pktLen k = parN k 0 + 1 } (fun s k =>
    match kvBad s k with
    | some b => .refuse b.1 10 b.2
    | none =>
      let is := parsFrom k 1
      if needActive && is.any (fun w => (page s w.toNat).st ≠ 1) then .refuse stNotReady 11 0xFFFF
      else if is.isEmpty then .answer stOkEmpty [] s
      else
        let r := kvEach s op is
        .answer (kvStatus r.2.1) r.1 r.2.2)

/-- KV_FREE (R254, R283). -/
def rowKvFree : OpDef := kvList 1 false dropRef
/-- KV_SHARE (R267, R283). -/
def rowKvShare : OpDef := kvList 2 true addRef

/-- KV_QUERY. A range that is empty just behind the last page is in range (DESIGN CHOICE, log entry 178). -/
def rowKvQuery : OpDef :=
  opDef (fixedRow 7 3 2) (fun s k =>
    let a := parN k 0
    let c := parN k 1
    if 524288 < a then .refuse stBadParam 10 4
    else if 2047 < c || 524288 < a + c then .refuse stBadParam 10 5
    else if c = 0 then .answer stOkEmpty [] s
    else .answer stOk ((List.range c).flatMap (fun i =>
      if (page s (a + i)).ctx = pktCtx k then pageWords (page s (a + i)) else List.replicate 8 0)) s)

/-- KV_STATS. -/
def rowKvStats : OpDef :=
  opDef (fixedRow 7 4 0) (fun s k =>
    .answer stOk ([usedPages s, s.kpm.hwm, s.kpm.cow, bankGet 0 s.kpm.quotas (pktCtx k), ctxPages s (pktCtx k)].map toW ++
      (List.range 12).map (fun n => toW (heapFree s n))) s)

/-! Page lists (R257-R260). -/

/-- Entry `i` of a list: valid, descriptor index, base. -/
def listEntry (s : State) (n plist i : Nat) : Bool × Nat × Nat :=
  let b := poolRd s n (plist + 8 * i) 8
  let w := leNat (b.take 4)
  (w.testBit 31, w % 2 ^ 19, leNat ((b.drop 4).take 3))

/-- How the engine finds an entry: empty, a page, or an end of the descriptor. -/
inductive Found where
  | empty
  | page (idx base : Nat)
  | badParam
  | firewall
  | check
  | beyond               -- the entry lies beyond the pool of 16 MiB (R274)
  deriving DecidableEq, Repr

/-- Table 7-3, its first check: the descriptor as the engine fetches it holds its check word. -/
def pageSealed (p : Page) : Bool := sealOk (pageWords p)

/-- A page descriptor's check word goes bad. -/
def wear (s : State) (w : Option Wear) : State :=
  match w with
  | some x => if (page s x.page).st = 0 then s else modPage s x.page (fun p => { p with flip := p.flip ^^^ x.bits })
  | none => s

/-- The checks of Table 7-3 on a page, in order. A FREE descriptor reads as zeros (R253), whose last word is not their check
word. -/
def pageCheck (s : State) (g : Nat) (ws : List Word) (d : Nat) (wr : Bool) (idx : Nat) : Option Found :=
  let p := page s idx
  if !pageSealed p then some .check
  else if !(p.st = 1 || (p.st = 2 && !wr)) then some .firewall
  else if p.ctx ≠ (eng s g).bctx || p.die ≠ dieOf g then some .firewall
  else if p.fmt ≠ dFb ws || p.d ≠ d then some .badParam
  else none

/-- The entries of a list from its first on until one lies past `last`, is empty or ends the descriptor (R258, R259);
none behind an empty one is looked at (DESIGN CHOICE, log entry 179). `prev` is the end of the entry before, `first` the first position asked for. -/
def walkList (s : State) (g : Nat) (ws : List Word) (d plist first last : Nat) (wr : Bool) :
    Nat → Nat → Option Nat → List Found
  | 0, _, _ => []
  | k + 1, i, prev =>
    if poolSize < plist + 8 * i + 8 then [.beyond]
    else
      let e := listEntry s (dieOf g) plist i
      if !e.1 then [.empty]
      else
        let base := e.2.2
        if prev.elim (decide (first < base)) (fun q => decide (base ≠ q)) then [.badParam]
        else
          let cap := (page s e.2.1).capacity
          match pageCheck s g ws d (wr && first < base + cap) e.2.1 with
          | some f => [f]
          | none =>
            if last < base + cap then [.page e.2.1 base]
            else .page e.2.1 base :: walkList s g ws d plist first last wr k (i + 1) (some (base + cap))

/-- Entries walked to reach positions `first` to `last`. A page holds at least one token, so the walk is no longer than the
list and the positions. -/
def reach (s : State) (g : Nat) (ws : List Word) (d plist first last : Nat) (wr : Bool) : List Found :=
  walkList s g ws d plist first last wr (last + 2) 0 none

end Sys2Proof.Machine
end

