-- ==== Sys2Proof/Machine/Attention.lean ====
section
/-! DEFINITION. Attention descriptors (07 R258-R274, R279-R281): SCORE, VALUE, APPEND, COMPACT, and the KPM's write
preparations and copies. -/

namespace Sys2Proof.Machine

/-! Rows of a page (R249). -/

/-- The device address of row `i` of a page: key or value row. -/
def pageAddr (p : Page) (value : Bool) (i : Nat) : Nat :=
  p.addr + (if value then pageBytes p.size / 2 else 0) + i * pageRow p.fmt p.d

/-- The page and row of a position, among the entries walked. -/
def posAt (s : State) : List Found → Nat → Option (Nat × Nat)
  | [], _ => none
  | .page idx base :: r, p =>
    if base ≤ p && p < base + (page s idx).capacity then some (idx, p - base) else posAt s r p
  | _ :: r, p => posAt s r p

/-- How a read of K or V rows ends early. -/
inductive KvEnd where
  | badParam | firewall | check | seal | beyond
  deriving DecidableEq, Repr

/-- One row of K or V by an engine: absent, its bytes, or an end (R260, step 5 of Table 4-11, R447). -/
def kvRow (s : State) (g : EngId) (value : Bool) (fs : List Found) (p : Nat) : Except KvEnd (Option (List Byte)) × State :=
  match posAt s fs p with
  | none => (.ok none, s)
  | some (idx, i) =>
    let q := page s idx
    if q.filled ≤ i then (.ok none, s)
    else
      let a := pageAddr q value i
      let n := dieOf g
      if !fwAllows s (.die (fin (by decide) n) 14) (engLivery s g) (a % 2 ^ 34) (pageRow q.fmt q.d) .read then
        (.error .firewall, fwRefuse s (.die (fin (by decide) n) 14) (engLivery s g) (a % 2 ^ 34) .read)
      else match hbmGet s n (tePort g) (engLivery s g) (a % 2 ^ 34) (pageRow q.fmt q.d) with
        | (some bs, s) => (.ok (some bs), s)
        | (none, s) => (.error .check, s)

/-- The rows of `n` positions from `k0` on: those read, and how the reading ended. -/
def kvRows (g : EngId) (value : Bool) (fs : List Found) : Nat → State → Nat → List (Option (List Byte)) →
    List (Option (List Byte)) × Option KvEnd × State
  | 0, s, _, acc => (acc.reverse, none, s)
  | n + 1, s, p, acc =>
    match kvRow s g value fs p with
    | (.ok b, s) => kvRows g value fs n s (p + 1) (b :: acc)
    | (.error e, s) => (acc.reverse, some e, s)

/-- The end a walk came to, if any. -/
def walkEnd (fs : List Found) : Option KvEnd :=
  match fs.getLast? with
  | some .badParam => some .badParam
  | some .firewall => some .firewall
  | some .check => some .seal
  | some .beyond => some .beyond
  | _ => none

/-- The first position the walk did not reach, where it ended early. -/
def walkTo (s : State) (fs : List Found) (k0 : Nat) : Nat :=
  fs.foldl (fun p f => match f with | .page idx base => max p (base + (page s idx).capacity) | _ => p) k0

/-- How a descriptor ends: a page descriptor that fails its check word sets KPM_STAT.dcrc (Table 7-3); entries beyond the pool
fail step 3 (R274). -/
def doneKv (s : State) (g : EngId) (ws : List Word) : KvEnd → State
  | .beyond => engDone (engLog s g 0x11 0 stBadParam (tagOf ws)) g stBadParam ws false
  | .seal =>
    let s := setKpm s (fun k => { k with dcrc := true })
    engDone (engLog (checkFail s g false) g 0x02 1 stBadCheck (tagOf ws)) g stBadCheck ws false
  | .badParam => engDone s g stBadParam ws false
  | .firewall => doneFw (engLog s g 0x10 0 stFirewall (tagOf ws)) g ws
  | .check => doneCheck s g ws

/-! SCORE and VALUE (Tables 7-4, 7-6). -/

def atD (ws : List Word) : Nat := df ws 2 31 16
def atQ (ws : List Word) : Nat := df ws 2 15 0
def atK0 (ws : List Word) : Nat := df ws 3 23 0
def atN (ws : List Word) : Nat := df ws 4 15 0
def atPlist (ws : List Word) : Nat := df ws 7 23 0
def atMode (ws : List Word) : Nat := df ws 8 25 24
def atQpos (ws : List Word) : Nat := df ws 8 23 0

def scorePair (a b : Nat) : Bool :=
  (a = 5 && (b = 5 || b = 3 || b = 4)) || (a = 6 && (b = 6 || b = 3 || b = 4 || b = 8)) || (a = 3 && (b = 3 || b = 4 || b = 8)) ||
  (a = 1 && (b = 1 || b = 8))
def valuePair (a b : Nat) : Bool :=
  (a = 5 && (b = 5 || b = 3 || b = 4)) || (a = 6 && (b = 6 || b = 3 || b = 4 || b = 8)) || (a = 3 && (b = 3 || b = 4))

/-- Step 3 of what SCORE and VALUE share (R250, R269, R274). -/
def attnOk (ws : List Word) (aw cw : Nat) : Bool :=
  (atD ws = 0 || headOk (dFb ws) (atD ws)) && atQ ws ≤ 512 && dFo ws = fmtF32 && df ws 3 31 24 = 0 && df ws 4 31 16 = 0 &&
  !tbit (nth ws 5) 31 && !tbit (nth ws 5) 15 && !tbit (nth ws 6) 31 && !tbit (nth ws 6) 15 && df ws 7 31 24 = 0 &&
  atPlist ws % 8 = 0 && df ws 8 31 26 = 0 && df ws 9 30 15 = 0 && zeroWords ws 11 13 &&
  rowsIn (df ws 5 14 0) (df ws 5 30 16) (atQ ws) (rowLines (dFa ws) aw) &&
  rowsIn (df ws 6 14 0) (df ws 6 30 16) (atQ ws) (rowLines fmtF32 cw)

def attnEmpty (ws : List Word) : Bool := atD ws = 0 || atQ ws = 0 || atN ws = 0

/-- The tree record of a SCORE: the parents of its nodes (R279). -/
def treeParents (s : State) (g : Nat) (ws : List Word) : List Nat :=
  ((rsRd s g (df ws 9 14 0) 32).take (atQ ws)).map BitVec.toNat

/-- R280. -/
def treeOk (ps : List Nat) : Bool :=
  (ps.zipIdx.all (fun e => e.1 = 0xFF || e.1 < e.2)) &&
  ((List.range ps.length).filter (fun i => !ps.contains i)).length ≤ 8

/-- The ancestor sets, node by node: lists of nodes (R279). -/
def ancestors (ps : List Nat) : List (List Nat) :=
  ps.foldl (fun acc p => acc ++ [acc.length :: (acc.getD p [])]) []

/-- Key `p` is masked for query row `r` (R271). -/
def masked (ws : List Word) (anc : List (List Nat)) (r p : Nat) : Bool :=
  match atMode ws with
  | 1 => atQpos ws + r < p
  | 2 => atQpos ws + atQ ws ≤ p || (atQpos ws ≤ p && !(anc.getD r []).contains (p - atQpos ws))
  | _ => false

/-- Step 3 of SCORE (Table 7-4). -/
def scoreOk (ws : List Word) : Bool :=
  scorePair (dFa ws) (dFb ws) && attnOk ws (atD ws) (atN ws) && atMode ws ≠ 3 && !(atMode ws = 2 && 32 < atQ ws) &&
  !tbit (nth ws 9) 31 && (atMode ws = 2 || df ws 9 14 0 = 0)

/-- The entries a SCORE or VALUE walks. -/
def attnReach (s : State) (g : EngId) (ws : List Word) : List Found :=
  reach s g ws (atD ws) (atPlist ws) (atK0 ws) (atK0 ws + atN ws - 1) false

/-- The key rows as columns; an absent row has none. -/
def scoreCols (ws : List Word) (rd : List (Option (List Byte))) : List Vec × Cnt :=
  tally (fun (b : Option (List Byte)) => match b with
    | some bs => vecOf (dFb ws) (atD ws) bs
    | none => ({ els := [], blks := [] }, cnt0)) rd

/-- The product of the query rows and the key rows, scaled; a masked or absent key gives minus infinity (R260, R271). -/
def scoreMat (s : State) (g : Nat) (ws : List Word) (rd : List (Option (List Byte))) : Mat :=
  let a := aRows s g (dFa ws) (df ws 5 14 0) (df ws 5 30 16) (atQ ws) (atD ws)
  let anc := ancestors (treeParents s g ws)
  let integer := dFa ws = 1 && dFb ws = 1
  { integer := integer, fa := dFa ws, fb := dFb ws, m := atQ ws, k := atD ws, cols := (scoreCols ws rd).1
    row := fun r _ => a.1.getD r { els := [], blks := [] }
    start := fun _ _ => if integer then .int 0 else .fl fzero
    fin := fun r j v =>
      if (rd.getD j none).isNone || masked ws anc r (atK0 ws + j) then (.fl (.inf true), cnt0)
      else let y := f32mul (f32Of (nth ws 10)) (numF32 v); (.fl y.1, y.2) }

def scoreRun (u : Option Upset) (s : State) (g : EngId) (ws : List Word) : State :=
  let fs := attnReach s g ws
  if walkEnd fs = some .beyond then doneKv s g ws .beyond
  else if atMode ws = 2 && !treeOk (treeParents s g ws) then engDone s g stBadParam ws false
  else
    let stop := walkEnd fs
    let n := if stop.isSome then min (atN ws) (walkTo s fs (atK0 ws) - atK0 ws) else atN ws
    let rd := kvRows g false fs n s (atK0 ws) []
    let s := rd.2.2
    let stop := if rd.2.1.isSome then rd.2.1 else stop
    let cols := scoreCols ws rd.1
    let a := aRows s g (dFa ws) (df ws 5 14 0) (df ws 5 30 16) (atQ ws) (atD ws)
    let x := scoreMat s g ws rd.1
    let o := runMat x u (eng s g).ftol s.free
      (slots s (List.range (atQ ws)) (groupsOf (atN ws)) (rd.1.length / 128) stop.isSome) {}
    let put := fun (s : State) (e : Nat × Nat × List Num) =>
      (rsWrAt s g (128 * (df ws 6 14 0 + e.1 * df ws 6 30 16) + 512 * e.2.1) (numsRow fmtF32 false e.2.2).1, cnt0)
    finishMat s g ws x.m (a.2.add cols.2) o (match stop with
      | none => fun s => doneOk s g ws
      | some e => fun s => doneKv s g ws e) put

/-- ATTN_SCORE (R270, R271). -/
def execAttnScore (g : EngId) (s : State) (u : Option Upset := none) (w : Option Wear := none) : Out :=
  runEng g { op := 4, ok := scoreOk, empty := attnEmpty, run := scoreRun u } (wear s w)

/-- An FP32 value in the store. -/
def f32In (s : State) (g addr : Nat) : Fl := fpDecode fpF32 (leNat (memRd (eng s g).rs addr 4))

/-- The value rows as elements; an absent row reads as zeros (R260). -/
def valueRows (ws : List Word) (rd : List (Option (List Byte))) : List (List Num) × Cnt :=
  tally (fun (b : Option (List Byte)) => match b with
    | some bs =>
      let v := rowNums (dFb ws) (atD ws) bs
      (if dFb ws = 8 then v.1.map (fun x => .fl (numF32 x)) else v.1, v.2)
    | none => (List.replicate (atD ws) (.fl fzero), cnt0)) rd

/-- The address of row `r` of O. -/
def valueAt (ws : List Word) (r : Nat) : Nat := 128 * (df ws 6 14 0 + r * df ws 6 30 16)

/-- O's existing value scaled by its row's factor (R272). -/
def valueStart (s : State) (g : Nat) (ws : List Word) (r i : Nat) : Fl × Cnt :=
  f32mul (f32In s g (128 * df ws 9 14 0 + 4 * r)) (f32In s g (valueAt ws r + 4 * i))

/-- The product of P and the value rows. -/
def valueMat (s : State) (g : Nat) (ws : List Word) (rows : List (List Num)) : Mat :=
  let a := aRows s g (dFa ws) (df ws 5 14 0) (df ws 5 30 16) (atQ ws) (atN ws)
  { integer := false, fa := dFa ws, fb := dFb ws, m := atQ ws, k := atN ws
    cols := (List.range (atD ws)).map (fun i => { els := rows.map (fun r => r.getD i (.fl fzero)), blks := [] })
    row := fun r _ => a.1.getD r { els := [], blks := [] }
    start := fun r i => if tbit (nth ws 9) 31 then .fl (valueStart s g ws r i).1 else .fl fzero
    fin := fun _ _ v => (v, cnt0) }

/-- Step 3 of VALUE. -/
def valueOk (ws : List Word) : Bool :=
  valuePair (dFa ws) (dFb ws) && attnOk ws (atN ws) (atD ws) && df ws 8 25 0 = 0 && nth ws 10 == 0 &&
  (if tbit (nth ws 9) 31 then linesIn (df ws 9 14 0) (rowLines fmtF32 (atQ ws)) else df ws 9 14 0 = 0)

def valueRun (u : Option Upset) (s : State) (g : EngId) (ws : List Word) : State :=
  let fs := attnReach s g ws
  match walkEnd fs with
  | some e => doneKv s g ws e
  | none =>
    let rd := kvRows g true fs (atN ws) s (atK0 ws) []
    let s := rd.2.2
    match rd.2.1 with
    | some e => doneKv s g ws e
    | none =>
      let rows := valueRows ws rd.1
      let a := aRows s g (dFa ws) (df ws 5 14 0) (df ws 5 30 16) (atQ ws) (atN ws)
      let cs := if tbit (nth ws 9) 31 then (List.range (atQ ws)).foldl (fun c r =>
          (List.range (atD ws)).foldl (fun c i => c.add (valueStart s g ws r i).2) c) cnt0 else cnt0
      let o := runMat (valueMat s g ws rows.1) u (eng s g).ftol s.free
        (slots s (List.range (atQ ws)) (groupsOf (atD ws)) 0 false) {}
      finishMat s g ws (atQ ws) ((a.2.add rows.2).add cs) o (fun s => doneOk s g ws) (fun s e =>
        (rsWrAt s g (valueAt ws e.1 + 512 * e.2.1) (numsRow fmtF32 false e.2.2).1, cnt0))

/-- ATTN_VALUE subop VALUE (R270, R272). -/
def execAttnValue (g : EngId) (s : State) (u : Option Upset := none) (w : Option Wear := none) : Out :=
  runEng g { op := 5, sub := fun ws => dSub ws = 1, ok := valueOk, empty := attnEmpty, run := valueRun u } (wear s w)

/-! APPEND and COMPACT (Table 7-5, R262-R265, R273, R281). -/

def apD (ws : List Word) : Nat := df ws 2 31 16
def apT (ws : List Word) : Nat := df ws 2 15 0
def apPos (ws : List Word) : Nat := df ws 3 23 0
def apPlist (ws : List Word) : Nat := df ws 6 23 0
def isAppend (ws : List Word) : Bool := dSub ws = 2
/-- The nodes a COMPACT keeps, in order. -/
def kept (ws : List Word) : List Nat := (List.range (apT ws)).filter (fun i => (nth ws 4).toNat.testBit i)

/-- Positions that a descriptor writes: first and number. -/
def wrCount (ws : List Word) : Nat := if isAppend ws then apT ws else (kept ws).length

/-- The entries a descriptor walks: the positions it writes, and for COMPACT the whole tree region it reads. -/
def apReach (s : State) (g : Nat) (ws : List Word) : List Found :=
  reach s g ws (apD ws) (apPlist ws) (apPos ws) (apPos ws + apT ws - 1) true

/-- The base that the empty entry `i` gets: the first position written there (R273). -/
def newBase (s : State) (fs : List Found) (ws : List Word) : Nat :=
  max (apPos ws) (walkTo s fs (apPos ws))

/-- Set an entry of a page list. -/
def putEntry (s : State) (g plist i idx base : Nat) : State :=
  poolWr s (dieOf g) (plist + 8 * i) (wordsBytes [toW (2 ^ 31 + idx), toW base])

/-- A page holds one of the positions that the descriptor writes. -/
def writesPage (s : State) (ws : List Word) (idx base : Nat) : Bool :=
  wrCount ws ≠ 0 && apPos ws < base + (page s idx).capacity && base < apPos ws + wrCount ws

/-- The next thing a writing descriptor needs of its page list from entry `i` on: a decision of the KPM, an end, or
nothing. -/
inductive NextPrep where
  | ask (entry : Nat)
  | stop (e : KvEnd)
  | ready
  deriving DecidableEq, Repr

def nextPrep (s : State) (g : Nat) (ws : List Word) (i : Nat) : NextPrep :=
  let fs := apReach s g ws
  match (fs.zipIdx.drop i).find? (fun e => match e.1 with
    | .page idx base => writesPage s ws idx base
    | _ => true) with
  | none => .ready
  | some (.page _ _, j) => .ask j
  | some (.empty, j) => if isAppend ws then .ask j else .stop .badParam
  | some (.badParam, _) => .stop .badParam
  | some (.firewall, _) => .stop .firewall
  | some (.check, _) => .stop .seal
  | some (.beyond, _) => .stop .beyond

/-- Bytes of a row written into a page by an engine: none, or the status that ends the descriptor. -/
def kvPut (s : State) (g : EngId) (a : Nat) (bs : List Byte) : Option KvEnd × State :=
  let n := dieOf g
  if !fwAllows s (.die (fin (by decide) n) 14) (engLivery s g) (a % 2 ^ 34) bs.length .write then
    (some .firewall, fwRefuse s (.die (fin (by decide) n) 14) (engLivery s g) (a % 2 ^ 34) .write)
  else match hbmPut s n (engLivery s g) (a % 2 ^ 34) bs with
    | (none, s) => (none, s)
    | (some _, s) => (some .check, s)

/-- Writes in order until one ends the descriptor. -/
def kvPuts (g : EngId) : List (Nat × List Byte) → State → Option KvEnd × State
  | [], s => (none, s)
  | (a, bs) :: r, s =>
    match kvPut s g a bs with
    | (none, s) => kvPuts g r s
    | x => x

/-- APPEND's rows go into their pages, ascending by position; filled follows (R273). -/
def appendRows (s : State) (g : EngId) (ws : List Word) : State :=
  let fs := apReach s g ws
  let row := fun (s : State) (line stride r : Nat) =>
    let v := rowNums (dFa ws) (apD ws) (rsRd s g (line + r * stride) (rowBytes (dFa ws) (apD ws)))
    let b := numsRow (dFb ws) false v.1
    (b.1, v.2.add b.2)
  let one := fun (a : Option KvEnd × State) (r : Nat) =>
    if a.1.isSome then a
    else match posAt a.2 fs (apPos ws + r) with
      | none => (some .badParam, a.2)
      | some (idx, i) =>
        let s := a.2
        let k := row s (df ws 4 14 0) (df ws 4 30 16) r
        let v := row s (df ws 5 14 0) (df ws 5 30 16) r
        let p := page s idx
        match kvPuts g [(pageAddr p false i, k.1), (pageAddr p true i, v.1)] (addCnt s g (k.2.add v.2)) with
        | (none, s) => (none, modPage s idx (fun p => { p with filled := max p.filled (i + 1) }))
        | x => x
  let r := (List.range (apT ws)).foldl one (none, s)
  match r.1 with
  | none => doneOk r.2 g ws
  | some e => doneKv r.2 g ws e

/-- COMPACT's moves, then the filled fields (R281). -/
def compactRows (s : State) (g : EngId) (ws : List Word) : State :=
  let fs := apReach s g ws
  let ks := kept ws
  let one := fun (a : Option KvEnd × State) (e : Nat × Nat) =>
    if a.1.isSome then a
    else match posAt a.2 fs (apPos ws + e.1), posAt a.2 fs (apPos ws + e.2) with
      | some (i1, r1), some (i2, r2) =>
        if e.1 = e.2 then a
        else
          let s := a.2
          let p := page s i1
          let q := page s i2
          let n := dieOf g
          let rb := pageRow p.fmt p.d
          let k := hbmGet s n (tePort g) (engLivery s g) (pageAddr p false r1 % 2 ^ 34) rb
          let v := hbmGet k.2 n (tePort g) (engLivery s g) (pageAddr p true r1 % 2 ^ 34) rb
          match k.1, v.1 with
          | some kb, some vb => kvPuts g [(pageAddr q false r2, kb), (pageAddr q true r2, vb)] v.2
          | _, _ => (some .check, v.2)
      | _, _ => (some .badParam, a.2)
  let r := ks.zipIdx.foldl one (none, s)
  match r.1 with
  | some e => doneKv r.2 g ws e
  | none =>
    let last := apPos ws + ks.length - 1
    let s := fs.foldl (fun s f => match f with
      | .page idx base =>
        let cap := (page s idx).capacity
        if ks.isEmpty then
          if base ≤ apPos ws && apPos ws < base + cap then modPage s idx (fun p => { p with filled := apPos ws - base })
          else if apPos ws < base then modPage s idx (fun p => { p with filled := 0 }) else s
        else if base ≤ last && last < base + cap then modPage s idx (fun p => { p with filled := last - base + 1 })
        else if last < base then modPage s idx (fun p => { p with filled := 0 }) else s
      | _ => s) r.2
    doneOk s g ws

/-- The pages made for a descriptor stand. -/
def keepMade (s : State) (g : EngId) : State := setKpm s (fun k => { k with made := k.made.filter (fun x => !(x.eng == g)) })

def writeRows (s : State) (g : EngId) (ws : List Word) : State :=
  if isAppend ws then appendRows (keepMade s g) g ws else compactRows (keepMade s g) g ws

/-- The descriptor goes on from entry `i`: it asks the KPM, ends, waits for copies, or writes its rows. -/
def stepPrep (s : State) (g : EngId) (ws : List Word) (i : Nat) : State :=
  match nextPrep s g ws i with
  | .stop e => doneKv (setKpm (keepMade s g) (fun k => { k with preps := k.preps.filter (fun p => !(p.eng == g)) })) g ws e
  | .ask j => modEng s g (fun e => { e with cur := some ws, waiting := some (.prepare j) })
  | .ready =>
    if s.kpm.preps.any (fun p => p.eng == g) then modEng s g (fun e => { e with cur := some ws, waiting := some .copies })
    else writeRows s g ws

/-- Step 3 of what APPEND and COMPACT share. -/
def apOk (ws : List Word) : Bool :=
  pageFmt (dFb ws) && dFo ws = 0 && (apD ws = 0 || headOk (dFb ws) (apD ws)) && df ws 3 31 24 = 0 && df ws 6 31 24 = 0 &&
  apPlist ws % 8 = 0 && zeroWords ws 8 13
def apEmpty (ws : List Word) : Bool := apD ws = 0 || apT ws = 0

/-- Step 3 of APPEND. -/
def appendOk (ws : List Word) : Bool :=
  let w := rowLines (dFa ws) (apD ws)
  apOk ws && (dFa ws = 7 || dFa ws = 5 || dFa ws = 6 || (dFa ws = 1 && dFb ws = 1)) && apT ws ≤ 512 &&
  !tbit (nth ws 4) 31 && !tbit (nth ws 4) 15 && !tbit (nth ws 5) 31 && !tbit (nth ws 5) 15 && df ws 7 30 4 = 0 && df ws 7 3 0 ≤ 9 &&
  rowsIn (df ws 4 14 0) (df ws 4 30 16) (apT ws) w && rowsIn (df ws 5 14 0) (df ws 5 30 16) (apT ws) w

/-- The list entries that an APPEND will have used: those it walks, and behind the first empty one those of the pages it must
still allocate. -/
def entriesUsed (s : State) (g : EngId) (ws : List Word) : Nat :=
  let fs := apReach s g ws
  match fs.getLast? with
  | some .empty =>
    if isAppend ws then fs.length - 1 + cdiv (apPos ws + apT ws - newBase s fs ws) (max 1 (pageCap (df ws 7 3 0) (dFb ws) (apD ws)))
    else fs.length
  | _ => fs.length

/-- A writing descriptor starts: entries beyond 16 MiB fail its step 3 before anything is prepared (R274). -/
def apRun (s : State) (g : EngId) (ws : List Word) : State :=
  if walkEnd (apReach s g ws) = some .beyond || poolSize < apPlist ws + 8 * entriesUsed s g ws then doneKv s g ws .beyond
  else stepPrep s g ws 0

/-- APPEND (R269, R273, R274). -/
def execAppend (g : EngId) (s : State) (w : Option Wear := none) : Out :=
  runEng g { op := 5, sub := fun ws => dSub ws = 2, ok := appendOk, empty := apEmpty, run := apRun } (wear s w)

/-- Step 3 of COMPACT. -/
def compactOk (ws : List Word) : Bool :=
  apOk ws && dFa ws = 0 && apT ws ≤ 32 && nth ws 5 == 0 && nth ws 7 == 0 && (nth ws 4).toNat < 2 ^ min 32 (apT ws)

/-- COMPACT (R274, R281). -/
def execCompact (g : EngId) (s : State) (w : Option Wear := none) : Out :=
  runEng g { op := 5, sub := fun ws => dSub ws = 3, ok := compactOk, empty := apEmpty, run := apRun } (wear s w)

/-! The KPM's decisions (R262-R265). -/

/-- A copy into a page has ended or is given up: preparations that waited for it alone are answered, and engines that
waited for nothing else write their rows (R264). -/
def copyEnded (s : State) (new : Nat) : State :=
  let preps := s.kpm.preps.map (fun p => { p with waits := p.waits.filter (· ≠ new) })
  let s := setKpm s (fun k => { k with
    copies := k.copies.filter (fun c => c.1 ≠ new), preps := preps.filter (fun p => !p.waits.isEmpty) })
  forAll s engList (fun s g =>
    match (eng s g).waiting, (eng s g).cur with
    | some .copies, some ws => if s.kpm.preps.any (fun p => p.eng == g) then s else writeRows s g ws
    | _, _ => s)

/-- A page made for a descriptor is taken back: its list entry and the reference of the page it was copied from are as before; a
pinned page has not given one up (R267). -/
def unmake (s : State) (x : MadePage) : State :=
  let s := freePage (poolWr s (dieOf x.eng) x.entry x.old) x.page
  let s := match x.src with
    | none => s
    | some o =>
      if (page s o).st = 0 || (page s o).pinned then s
      else modPage (addRef s o).2.2 o (fun p => { p with st := if p.st = 2 then 1 else p.st })
  if s.kpm.copies.any (fun c => c.1 = x.page) then copyEnded s x.page else s

/-- A preparation is refused for want of a page: the descriptor has written no row, and what was prepared for it before is
taken back (R265). -/
def noPage (s : State) (g : EngId) (ws : List Word) : State :=
  let s := { s with kpm := { s.kpm with noalloc := true, preps := s.kpm.preps.filter (fun p => !(p.eng == g)) } }
  let mine := s.kpm.made.filter (fun x => x.eng == g)
  let s := forAll (keepMade s g) mine unmake
  engDone (engLog s g 0x11 0 stNoResource (tagOf ws)) g stNoResource ws false

/-- A new page stands in entry `i` of a list; the entry before and the page copied from are kept while the descriptor runs. -/
def putMade (s : State) (g : EngId) (plist i new base : Nat) (src : Option Nat) : State :=
  let place := plist + 8 * i
  let s := setKpm s (fun k => { k with
    made := { eng := g, entry := place, old := poolRd s (dieOf g) place 8, page := new, src := src } :: k.made })
  putEntry s g plist i new base

/-- The key and value rows of a page's filled tokens are copied to another page. -/
def copyPage (s : State) (a b : Nat) : State :=
  let p := page s a
  let q := page s b
  let n := p.die
  let move := fun (s : State) (v : Bool) =>
    hbmSet s n 0x03 (pageAddr q v 0 % 2 ^ 34)
      (memRd (hbmView s n .spine 0x03) (pageAddr p v 0 % 2 ^ 34) (p.filled * pageRow p.fmt p.d))
  modPage (move (move s false) true) b (fun q => { q with filled := p.filled })

/-- KV_WRITE_PREPARE: the KPM decides the preparation an engine waits for: a new page for an empty entry, the page itself,
or a copy of it. -/
def execKvWritePrepare (g : EngId) (s : State) : Out :=
  .next (match (eng s g).waiting, (eng s g).cur with
    | some (.prepare i), some ws =>
      match (apReach s g ws)[i]? with
      | some .empty =>
        match allocPage s (df ws 7 3 0) (dFb ws) (dieOf g) (apD ws) (eng s g).bctx none with
        | none => noPage s g ws
        | some (idx, t) => stepPrep (putMade t g (apPlist ws) i idx (newBase s (apReach s g ws) ws) none) g ws (i + 1)
      | some (.page idx base) =>
        let p := page s idx
        if p.refs ≤ 1 || (isAppend ws && tbit (nth ws 7) 31) then
          let ws' := (s.kpm.copies.filter (fun c => c.2 = idx)).map (·.1)
          let s := if ws'.isEmpty then s else setKpm s (fun k => { k with preps := k.preps ++ [{ eng := g, waits := ws' }] })
          stepPrep s g ws (i + 1)
        else
          match allocPage s p.size p.fmt p.die p.d p.ctx (some idx) with
          | none => noPage s g ws
          | some (new, t) =>
            let t := (dropRef (copyPage t idx new) idx).2.2
            let t := setKpm t (fun k => { k with
              cow := satAdd 0xFFFFFFFF k.cow 1, copies := k.copies ++ [(new, idx)]
              preps := k.preps ++ [{ eng := g, waits := [new] }] })
            stepPrep (putMade t g (apPlist ws) i new base (some idx)) g ws (i + 1)
      | _ => stepPrep s g ws i
    | _, _ => s)

/-- KV_COPY_END (R264). -/
def execKvCopyEnd (page : Fin 524288) (s : State) : Out :=
  .next (if s.kpm.copies.any (fun c => c.1 = page.val) then copyEnded s page else s)

end Sys2Proof.Machine
end

