-- ==== Sys2Proof/Machine/Halo.lean ====
section
/-! DEFINITION. Halo messages between ring neighbours and the WAIT descriptor (04 R159-R162, Table 4-10; 11 R407-R414). -/

namespace Sys2Proof.Machine

def hDir (ws : List Word) : Bool := tbit (nth ws 2) 16
def hTag (ws : List Word) : Nat := df ws 2 15 0
def hMode (ws : List Word) : Nat := df ws 2 18 17
def hPool (ws : List Word) : Bool := tbit (nth ws 3) 31
def hPlace (ws : List Word) : Nat := df ws 3 23 0
def hLen (ws : List Word) : Nat := (nth ws 4).toNat

/-- Step 3 of what HALO_SEND and HALO_RECV share (Tables 4-10, 4-11; the ranges: DESIGN CHOICE, log entry 173). -/
def haloOk (ws : List Word) : Bool :=
  df ws 2 31 19 = 0 && df ws 3 30 24 = 0 && hLen ws % 128 = 0 && hLen ws ≤ 262144 && zeroWords ws 5 13 &&
  (if hPool ws then hPlace ws % 128 = 0 && hPlace ws + hLen ws ≤ poolSize
   else hPlace ws < 32768 && linesIn (hPlace ws) (hLen ws / 128)) && dFb ws = 0 && dFo ws = 0

def haloEmpty (ws : List Word) : Bool := hLen ws = 0

/-- The neighbour a descriptor names, as a logical ring neighbour (R25, R159). -/
def hPeer (n : Nat) (pred : Bool) : DieId := if pred then predDie n else succDie n

def boxOf (d : Die) (pred : Bool) : List HaloMsg := if pred then d.boxPred else d.boxSucc
def setBox (d : Die) (pred : Bool) (l : List HaloMsg) : Die := if pred then { d with boxPred := l } else { d with boxSucc := l }

/-- Bytes in a mailbox. -/
def boxBytes (l : List HaloMsg) : Nat := (l.map (fun m => m.data.length)).sum

/-- The bytes of a destination as element-wise sum with a message (R161). -/
def haloSum (f : Nat) (old new : List Byte) : List Byte × Cnt :=
  let n := new.length / 4
  let a := rowCodes fmtF32 n old
  let b := rowCodes fmtF32 n new
  if f = fmtInt32 then (codesRow fmtInt32 ((a.zip b).map (fun x => (x.1 + x.2) % 2 ^ 32)), cnt0)
  else
    let r := tally (fun (x : Nat × Nat) => f32add (fpDecode fpF32 x.1) (fpDecode fpF32 x.2)) (a.zip b)
    (codesRow fmtF32 (r.1.map (fpEncode fpF32)), r.2)

/-- A message goes to its destination and HALO_RECV ends (R161). Where its length is not the descriptor's, the bytes that
the message does not fill are not defined. -/
def takeHalo (s : State) (g : EngId) (ws : List Word) (m : HaloMsg) : State :=
  let n := dieOf g
  let f := fresh s
  let s := f.2
  let data := m.data.take (hLen ws) ++
    (List.range (hLen ws - m.data.length)).map (fun i => Config.openByte f.1 i)
  let at_ := if hPool ws then hPlace ws else 128 * hPlace ws
  let old := if hPool ws then poolRd s n at_ (hLen ws) else memRd (eng s g).rs at_ (hLen ws)
  let r := if hMode ws = 1 then haloSum (dFa ws) old data else (data, cnt0)
  let s := addCnt s g r.2
  doneOk (if hPool ws then poolWr s n at_ r.1 else rsWrAt s g at_ r.1) g ws

/-- The oldest message of a tag in a mailbox, and the mailbox without it. -/
def takeTag (tag : Nat) : List HaloMsg → Option (HaloMsg × List HaloMsg)
  | [] => none
  | m :: r =>
    if m.tag = tag then some (m, r)
    else (takeTag tag r).map (fun x => (x.1, m :: x.2))

/-- HALO_RECV takes its message, or waits for it. -/
def recvRun (s : State) (g : EngId) (ws : List Word) : State :=
  let n := dieOf g
  match takeTag (hTag ws) (boxOf (die s n) (hDir ws)) with
  | some (m, rest) => takeHalo (modDie s n (fun d => setBox d (hDir ws) rest)) g ws m
  | none => modEng s g (fun e => { e with cur := some ws, waiting := some .haloRecv, st := 6 })

/-- HALO_SEND: the message sets out; the descriptor waits until the whole of it is in the mailbox (R160). -/
def execHaloSend (g : EngId) (s : State) : Out :=
  runEng g {
    op := 0xC
    ok := fun ws => haloOk ws && hMode ws = 0 && !hPool ws && dFa ws = 0
    empty := haloEmpty
    run := fun s g ws =>
      let m : HaloMsg := { tag := hTag ws, data := rsRd s g (hPlace ws) (hLen ws) }
      -- the receiver has this die on its other side
      let s := settleRoute s (homeDie g) (hPeer (dieOf g) (hDir ws))
      let s := { s with flight := s.flight ++ [(g, hPeer (dieOf g) (hDir ws), !hDir ws, m)] }
      modEng s g (fun e => { e with cur := some ws, waiting := some .haloSend, st := 6 }) } s

/-- HALO_RECV in mode 0. -/
def execHaloRecvCopy (g : EngId) (s : State) : Out :=
  runEng g {
    op := 0xD, sub := fun ws => hMode ws ≠ 1
    ok := fun ws => haloOk ws && hMode ws = 0 && dFa ws = 0
    empty := haloEmpty, run := recvRun } s

/-- HALO_RECV in mode 1. -/
def execHaloRecvAdd (g : EngId) (s : State) : Out :=
  runEng g {
    op := 0xD, sub := fun ws => hMode ws = 1
    ok := fun ws => haloOk ws && (dFa ws = fmtInt32 || dFa ws = fmtF32)
    empty := haloEmpty, run := recvRun } s

/-- Engines of a die that wait for a message of a tag in a mailbox. -/
def receivers (s : State) (n : DieId) (pred : Bool) (tag : Nat) : List EngId :=
  engList.filter (fun g => dieOf g == n.val && (eng s g).waiting == some .haloRecv &&
    ((eng s g).cur.any (fun ws => hDir ws == pred && hTag ws == tag)))

/-- A message under way: sender, receiving die, side of the mailbox, message. -/
abbrev Flight := EngId × DieId × Bool × HaloMsg

/-- Two messages of one die and livery to one mailbox, which are delivered in issue order (R28). -/
def sameOrder (s : State) (a b : Flight) : Bool :=
  homeDie a.1 == homeDie b.1 && a.2.1 == b.2.1 && a.2.2.1 == b.2.2.1 && engLivery s a.1 == engLivery s b.1

/-- The message of an engine that may land next: its way is open, no earlier one of its order is under way, the mailbox of
256 KiB has room (R28, R159, R160). -/
def landing (s : State) (g : EngId) : Option Flight :=
  match s.flight.find? (fun f => f.1 == g) with
  | none => none
  | some f =>
    if wayOpen s (flightWay s f) && (s.flight.takeWhile (fun x => x != f)).all (fun x => !sameOrder s x f) &&
      boxBytes (boxOf (die s f.2.1) f.2.2.1) + f.2.2.2.data.length ≤ 262144 then some f else none

/-- HALO_MESSAGE_ARRIVE: the message that engine `g` has under way lands whole, and HALO_SEND completes (R159, R160). Which of
several waiting engines takes it is not defined. -/
def execHaloMessageArrive (g : EngId) (s : State) : Out :=
  .next (match landing s g with
    | none => s
    | some f =>
      let n := f.2.1
      let pred := f.2.2.1
      let m := f.2.2.2
      let s := { s with flight := s.flight.erase f }
      let s := modDie s n (fun d => setBox d pred (boxOf d pred ++ [m]))
      let s := match (eng s g).cur with
        | some ws => doneOk s g ws
        | none => s
      let l := receivers s n pred m.tag
      match l[Config.choice s.free % max 1 l.length]? with
      | none => s
      | some r =>
        match (eng s r).cur with
        | some ws => recvRun (fresh s).2 r ws
        | none => s)

/-- WAIT (11 R407-R409, R413, R418): an UNUSED object decides before the count does (R409; log entry 145). -/
def execWait (g : EngId) (s : State) : Out :=
  runEng g {
    op := 0xF
    ok := fun ws => df ws 2 31 16 = 0 && zeroWords ws 4 13 && df ws 0 27 16 = 0
    run := fun s g ws =>
      let n := (nth ws 3).toNat
      match physObj s (eng s g).bctx (df ws 2 15 0) with
      | none => engDone s g stBadParam ws true
      | some k =>
        let o := obj s k
        if o.st = 0 then engDone s g stNotReady ws true
        else if o.limit < n then engDone s g stBadParam ws true
        else if n = 0 then engDone s g stOkEmpty ws false
        else if o.st = 2 then engDone s g stOwnerLost ws true
        else
          let s := modEng s g (fun e => { e with cur := some ws, waiting := some (.object k), st := 6 })
          queueWaiter s k (.engine g n) } s

/-- The engines whose descriptor of main work still waits on an object or a partner (R162). -/
def stillWaits (s : State) (g : EngId) : Bool :=
  !inReexec s g && (match (eng s g).waiting with
    | some (.object _) => true
    | some .haloSend => true
    | some .haloRecv => true
    | _ => false)

/-- One of them ends with ST_DEGRADED: its message is removed, its waiter leaves its object. -/
def endWait (s : State) (g : EngId) : State :=
  let e := eng s g
  match e.cur with
  | none => s
  | some ws =>
    let s := { s with flight := s.flight.filter (fun f => !(f.1 == g)) }
    let s := match e.waiting with
      | some (.object k) => modObj s k (fun o => { o with
          waiters := o.waiters.filter (fun x => match x with | .engine h _ => !(h == g) | _ => true) })
      | _ => s
    engDone (modEng s g (fun e => { e with halo := true })) g stDegraded ws true

/-- R162 at the layover start: all of them end, and only then are the objects they left served. -/
def endWaits (s : State) : State :=
  let gs := engList.filter (stillWaits s)
  let ks := (gs.filterMap (fun g => match (eng s g).waiting with
    | some (.object k) => some k
    | _ => none)).eraseDups
  forAll (forAll s gs endWait) ks serveObj

end Sys2Proof.Machine
end

