-- ==== Sys2Proof/Machine/Losses.lean ====
section
/-! DEFINITION. Losing engines and compute dies, engine hangs, and the self-test slices (14 R503-R509, R645; 10 R395, R396;
12 R457). -/

namespace Sys2Proof.Machine

/-! A compute die leaves service. -/

/-- The three links of a die. -/
def dieLinks (n : DieId) : List LinkId := [.spine n, .coupling n, .coupling (predDie n)]

/-- What keeps a die in reset: its temperature (18 R622), a sudden-loss hold (18 R630). -/
def dieHeld (s : State) (n : Nat) : Bool := (die s n).thermal || s.iod.sudden

/-- A latched pair of a die: its reset empties the latch (R638). -/
def ofDie (n : DieId) : PairId → Bool
  | .teBusy g => dieOf g == n.val
  | .mctErr m => m == n
  | .fwlLast (.die m _) => m == n
  | _ => false

/-- Every register and store of a die returns to its reset value and its stack is not preserved (12 R457); the links at it
are down and may train again where a coupling had failed (Table 14-2), the records of losses and withdrawals go on, and an
engine for which a decision is due stays WITHDRAWN (R510). What its junctions read stays with a die that is held for its
temperature (18 R622). A die that nothing holds starts again at once, its MCT in TRAIN. -/
def resetDie (s : State) (n : DieId) : State :=
  let s := modDie (forAll s (dieLinks n) dropLink) (predDie n).val (fun d => { d with scfailed := false })
  let s := forAll s (engList.filter (fun (g : EngId) => dieOf g.val == n.val)) (fun s g => setEng s g {
    wdrawAt := (eng s g).wdrawAt, wdrawPerm := (eng s g).wdrawPerm, retired := (eng s g).retired
    withdrawn := (eng s g).wdrawPerm || (eng s g).retired, st := if (eng s g).wdrawPerm || (eng s g).retired then 5 else 0 })
  let ep := s.free
  let s := dropFws (fresh s).2 (32 + 15 * n.val) 15
  let s := { s with
    latches := s.latches.filter (fun e => !ofDie n e.1) }
  let d := die s n
  setDie s n {
    inReset := dieHeld s n, retired := d.retired, decision := d.decision, lossAt := d.lossAt, before := d.before
    failedRetrains := d.failedRetrains, thermal := d.thermal, degrNoted := d.degrNoted
    tjLogic := if d.thermal then d.tjLogic else 0, tjHbm := if d.thermal then d.tjHbm else 0
    mct := { st := if dieHeld s n then 0 else 1 }
    hbm := { fill := .free ep }, pool := { fill := .free (ep + 1) } }

/-- A re-execution set that ran on an engine of the die is due again elsewhere (R56). -/
def requeueSets (s : State) (n : DieId) : State :=
  let mine := fun (r : Reexec) => match r.eng with
    | some g => dieOf g == n.val
    | none => false
  let cmds := (s.dis.reexec.filter mine).flatMap (·.members)
  setDis s (fun d => { d with
    reexec := d.reexec.map (fun r => if mine r then { r with eng := none, left := r.members, failed := false } else r)
    issued := d.issued.filter (fun i => !(i.again && cmds.contains i.work)) })

/-- The consequences of a loss beside the die itself (R395, R396, R417, R255, R389): re-bindings are abandoned, queues LOST,
pages LOST, objects ORPHANED, the table's copy replaced. -/
def loseState (s : State) (n : DieId) : State :=
  let mine : List EngId := engList.filter (fun (g : EngId) => dieOf g.val == n.val)
  let s := forAll s mine (fun s (g : EngId) => abandonRebind s g)
  let s := { s with kpm := { s.kpm with
    preps := s.kpm.preps.filter (fun p => !mine.contains p.eng), made := s.kpm.made.filter (fun p => !mine.contains p.eng) } }
  let s := { s with flight := s.flight.filter (fun f => !mine.contains f.1) }
  let s := orphanDie s n
  -- engines of the die leave the other objects they wait on, and a waiter behind them may be satisfied (R407)
  let dead := fun (w : Waiter) => match w with
    | .engine g _ => mine.contains g
    | .host .. => false
  let ks := (s.syn.objs.filter (fun e => e.2.waiters.any dead)).map (·.1)
  let s := { s with syn := { s.syn with objs := s.syn.objs.map (fun e => (e.1, { e.2 with
    waiters := e.2.waiters.filter (fun w => !dead w) })) } }
  let s := forAll s ks serveObj
  let lost := s.qmg.queues.any (fun e => onDie e.2 n.val && e.2.st != 3)
  let s := loseQueues s n
  -- the QMG's entry for its lost queues (R495, class 0x15)
  let s := if lost then logF s { cls := 0x15, unit := n } else s
  let s := lostTable (loseWork s mine) n
  losePages (requeueSets s n) n

/-- A compute die is lost or reset (R395, R564): `counted` toward Table 14-2. -/
def loseDie (s : State) (n : DieId) (counted : Bool) (reaction : Nat) : State :=
  let s := modDie s n (fun d => { d with
    inService := false, readyRe := false, imageOk := false
    lossAt := if counted then histAdd 100000 s.stg.stage d.lossAt else d.lossAt })
  let count := histCount 100000 s.stg.stage (die s n).lossAt
  let perm := counted && 3 ≤ count
  let s := if perm then modDie s n (fun d => { d with decision := true }) else s
  let s := if counted || reaction = 5 then
    logF s { cls := 0x0A, unit := n, reaction := reaction, kind := if perm then some 2 else none, detail := count } else s
  resetDie (loseState s n) n

/-- A die out of service is reset. One that R509 had excluded still held objects, queues and pages, which are lost with it (R417,
R564). -/
def resetOut (s : State) (n : DieId) : State :=
  resetDie (modDie (if (die s n).excluded then loseState s n else orphanDie s n) n (fun d => { d with
    readyRe := false, missed := false, excluded := false, imageOk := false })) n

/-- DIE_LOST: the turnpike accepts the loss of a die in service (R395). -/
def execDieLost (n : DieId) (s : State) : Out :=
  .next (if dieInSvc s n then loseDie s n true 5 else s)

/-- HBM_UE_LIMIT: R503 holds for a die in service. -/
def execHbmUeLimit (n : DieId) (s : State) : Out :=
  .next (if dieInSvc s n && ueRule s n then loseDie s n true 5 else s)

/-! Engine hangs and withdrawals. -/

/-- An engine is to be WITHDRAWN from the next tick (R504, Table 14-2); until then its mismatch history stands (Table 14-5). -/
def markWithdraw (s : State) (g : EngId) : State :=
  if (eng s g).withdrawn || (eng s g).wdrawNext then s
  else
    let at_ := histAdd 100000 s.stg.stage (eng s g).wdrawAt
    modEng s g (fun e => { e with
      wdrawNext := true, wdrawAt := at_
      wdrawPerm := e.wdrawPerm || 3 ≤ histCount 100000 s.stg.stage at_ })

/-- ENGINE_WITHDRAW: three class 0x01 failures within 1,000 stages (R504). -/
def execEngineWithdraw (g : EngId) (s : State) : Out :=
  .next (if 3 ≤ histCount 1000 s.stg.stage (eng s g).mismAt then markWithdraw s g else s)

/-- Descriptors up to the next milepost complete with a status without executing (R645, R162). -/
def finishRest (g : EngId) (st : Byte) : Nat → State → State
  | 0, s => s
  | k + 1, s =>
    if !(eng s g).openCmd then s
    else
      let q := (eng s g).bqueue
      let s := syncQueue s q
      if qLen (queue s q) = 0 || (queue s q).st ≠ 1 then s
      else match fetchDesc s g (queue s q) with
        | none => s
        | some (ws, _, s) =>
          let n := (queue s q).head + 1
          let s := modEng (setQueue s q { queue s q with head := n }) g (fun e => { e with headAt := n })
          finishRest g st k (engDone s g st ws false)

/-- An engine executes a command, not counting its waits (R645): one of its descriptors has started, and the next is its hung
one. -/
def executing (e : Engine) : Bool :=
  e.openCmd && (match e.waiting with | some (.object _) => false | some .haloSend => false | some .haloRecv => false | _ => true)

/-- The hung descriptor completes with ST_INTERNAL: the one under way, or the first of a command, which the engine starts. None
where no command executes. -/
def hangDesc (s : State) (g : EngId) : Option State :=
  if executing (eng s g) then
    some (match (eng s g).cur with
      | some ws => engDone s g stInternal ws false
      | none => s)
  else (nextDesc s g).map (fun x => engDone x.2.2 g stInternal x.1 false)

/-- ENGINE_HANG (R645): class 0x03, withdrawn from the next tick. -/
def execEngineHang (g : EngId) (s : State) : Out :=
  .next (match hangDesc s g with
    | none => s
    | some s =>
      let tag := (eng s g).curTag.toNat
      let s := finishRest g stInternal (qLen (queue s (eng s g).bqueue) + 1) s
      let s := modEng s g (fun e => { e with hung := true, openCmd := false, skipSt := none, cut := false })
      markWithdraw (engLog s g 0x03 3 stInternal tag) g)

/-! Self-test slices (R505-R508). -/

/-- An engine of a die that is lost, or excluded under R509 and so out of service without a reset. -/
def testable (s : State) (g : EngId) : Bool :=
  let n := dieOf g
  (dieInSvc s n || (die s n).excluded || !(die s n).inReset) && (mct s n).st = 2

/-- The engine serves a left-out sibling's queue too and has no main-window idle window (R380). -/
def standsIn (s : State) (g : EngId) : Bool := leftOut s (partner g) && (placeOf s (partner g).val).isSome

/-- A slice may start (R59, R391, R507): the engine is idle, no re-execution or move uses it, and it is the layover, or the engine is idle for the stage, or it has
an idle window of 250 us. -/
def mayTest (s : State) (g : EngId) : Bool :=
  let e := eng s g
  let free := (e.st = 1 || e.st = 5) && e.cur.isNone && !inReexec s g && !moveUses s g
  let idle := s.tt.active.isNone || (placement s).isNone || leftOut s g || e.withdrawn || !dieInSvc s (dieOf g)
  let window := !standsIn s g && !e.openCmd &&
    (((placement s).map (fun p => p.idle.any (fun w => w.eng == g && 250 ≤ w.len))).getD false)
  testable s g && free && (idle || s.stg.inlay || window)

/-- SELFTEST_SLICE: a slice of 250 us starts (R507). -/
def execSelftestSlice (g : EngId) (s : State) : Out :=
  .next (if mayTest s g then modEng s g (fun e => { e with st := 4 }) else s)

/-- SELFTEST_SLICE_END: the slice counts when it passes; a failure is class 0x04, makes the stage output incomplete and
withdraws the engine; of a WITHDRAWN one it is of kind P, and a decision is due (R504, R505, R507, R510). -/
def execSelftestSliceEnd (g : EngId) (pass : Bool) (s : State) : Out :=
  .next (
    let e := eng s g
    if e.st ≠ 4 then s
    else
      let back := if e.withdrawn then 5 else 1
      -- a set that is due may start on an engine that no slice holds any more
      let next := fun (s : State) => if s.stg.inlay then startReexec s else s
      next (if pass then
        let full := e.stSlice = 15
        modEng s g (fun e => { e with
          st := back, ranDue := true, stSlice := (e.stSlice + 1) % 16
          stDefer := if full then 0 else e.stDefer, stSince := if full then 0 else e.stSince
          outDue := if full then false else e.outDue
          backNext := e.backNext || (e.withdrawn && full && !e.wdrawPerm && !e.retired) })
      else
        let s := modEng s g (fun e => { e with st := back, stFail := true, wdrawPerm := e.wdrawPerm || e.withdrawn })
        let s := setDis s (fun d => { d with incomplete := true })
        let s := logF s {
          cls := 0x04, reaction := 3, unit := dieOf g, sub := g.val % 8, kind := if e.withdrawn then some 2 else none }
        markWithdraw s g))

/-- SELFTEST_DEFER_LIMIT: the deferral count has reached 64; the engine falls due to be left out (R508). -/
def execSelftestDeferLimit (g : EngId) (s : State) : Out :=
  .next (if 64 ≤ (eng s g).stDefer then modEng s g (fun e => { e with outDue := true }) else s)

end Sys2Proof.Machine
end

