-- ==== Sys2Proof/Machine/Crypto.lean ====
section
/-! DEFINITION. SHA-512 and ECDSA on P-521 (16 R566), as the standards the spec names define them (FIPS 180-4, FIPS 186-5). -/

namespace Sys2Proof.Machine

/-! SHA-512. The constants are computed from what the standard says they are: the first 64 bits of the fractions of the
square roots of the first 8 primes and of the cube roots of the first 80. Words are numbers below 2^64. -/

/-- `f` of a number that is worked out first; the kernel would else carry its expression along. -/
def given {α : Type} (x : Nat) (f : Nat → α) : α :=
  match x with
  | 0 => f 0
  | n + 1 => f (n + 1)

def givenAll {α : Type} : List Nat → (List Nat → α) → α
  | [], f => f []
  | x :: r, f => given x (fun x => givenAll r (fun r => f (x :: r)))

/-- The first 80 primes: a composite number below 410 has a prime divisor below 20. -/
def primes80 : List Nat :=
  (List.range 410).filter (fun p => 2 ≤ p && [2, 3, 5, 7, 11, 13, 17, 19].all (fun d => p == d || p % d != 0))

/-- The `k`-th root of `n` rounded down, by Newton's steps from a number `x` that is not below it. -/
def rootFrom (k n : Nat) : Nat → Nat → Nat
  | 0, x => x
  | i + 1, x => given (((k - 1) * x + n / x ^ (k - 1)) / k) (fun y => if y < x then rootFrom k n i y else x)

/-- 64 bits of the fraction of the `k`-th root of `p`. -/
def rootFraction (k p : Nat) : Nat := rootFrom k (p * 2 ^ (64 * k)) 70 (2 ^ 69) % 2 ^ 64

/-- A word rotated to the right: a shift of the word written twice. -/
def rotr (x n : Nat) : Nat := (x * (2 ^ 64 + 1)) >>> n % 2 ^ 64

/-- A word of the schedule from the sixteen before it, newest first. -/
def nextWord (ws : List Nat) : Nat :=
  let w := fun i => ws.getD i 0
  (w 15 + w 6 + (rotr (w 14) 1 ^^^ rotr (w 14) 8 ^^^ w 14 >>> 7) + (rotr (w 1) 19 ^^^ rotr (w 1) 61 ^^^ w 1 >>> 6)) % 2 ^ 64

/-- The schedule grown by `n` words, newest first. -/
def growWords : Nat → List Nat → List Nat
  | 0, ws => ws
  | n + 1, ws => given (nextWord ws) (fun w => growWords n (w :: ws))

/-- The rounds on the working variables, each with the sum of its constant and its word. -/
def rounds : List Nat → Nat → Nat → Nat → Nat → Nat → Nat → Nat → Nat → List Nat
  | [], a, b, c, d, e, f, g, h => [a, b, c, d, e, f, g, h]
  | kw :: r, a, b, c, d, e, f, g, h =>
    given (h + kw + (g ^^^ (e &&& (f ^^^ g))) + (rotr e 14 ^^^ rotr e 18 ^^^ rotr e 41)) (fun t =>
      given ((t + (rotr a 28 ^^^ rotr a 34 ^^^ rotr a 39) + ((a &&& (b ||| c)) ||| (b &&& c))) % 2 ^ 64) (fun u =>
        given ((d + t) % 2 ^ 64) (fun v => rounds r u a b c v e f g)))

/-- The digest words after one block of 128 bytes, by the round constants. -/
def digestBlock (ks h : List Nat) (block : List Byte) : List Nat :=
  givenAll ((List.range 16).map (fun i => beNat ((block.drop (8 * i)).take 8))) (fun first =>
    let kws := List.zipWith (· + ·) ks (growWords 64 first.reverse).reverse
    match h with
    | [a, b, c, d, e, f, g, i] => List.zipWith (fun x y => (x + y) % 2 ^ 64) h (rounds kws a b c d e f g i)
    | _ => h)

/-- Blocks of 128 bytes; the fuel is their number. -/
def digestBlocks (ks : List Nat) : Nat → List Nat → List Byte → List Nat
  | 0, h, _ => h
  | k + 1, h, bs => givenAll (digestBlock ks h (bs.take 128)) (fun h => digestBlocks ks k h (bs.drop 128))

/-- SHA-512, 64 bytes in digest order: the message padded by 0x80, zeros and its length in bits in 16 bytes. -/
def sha512 (bs : List Byte) : List Byte :=
  let zeros := (239 - bs.length % 128) % 128
  let padded := bs ++ 0x80 :: (List.replicate zeros 0 ++ natBe 16 (8 * bs.length))
  givenAll (primes80.map (rootFraction 3)) (fun ks =>
    (digestBlocks ks (padded.length / 128) ((primes80.take 8).map (rootFraction 2)) padded).flatMap (natBe 8))

/-! P-521. -/

def ecP : Nat := 2 ^ 521 - 1
def ecN : Nat :=
  0x1fffffffffffffffffffffffffffffffffffffffffffffffffffffffffffffffffa51868783bf2f966b7fcc0148f709a5d03bb5c9b8899c47aebb6fb71e91386409
def ecB : Nat :=
  0x51953eb9618e1c9a1f929a21a0b68540eea2da725b99b315f3b8b489918ef109e156193951ec7e937b1652c0bd3bb1bf073573df883d2c34f1ef451fd46b503f00
def ecGx : Nat :=
  0xc6858e06b70404e9cd9e3ecb662395b4429c648139053fb521f828af606b4d3dbaa14b5e77efe75928fe1dc127a2ffa8de3348b3c1856a429bf97e7e31c2e5bd66
def ecGy : Nat :=
  0x11839296a789a3bc0045c8a5fb42c7d1bd998f54449579b446817afbd17273e662c97ee72995ef42640c550b9013fad0761353c7086a272c24088be94769fd16650

/-- Power by squaring; the fuel is the number of bits of the exponent. -/
def powMod (m : Nat) : Nat → Nat → Nat → Nat
  | 0, _, _ => 1 % m
  | k + 1, b, e =>
    let r := powMod m k (b * b % m) (e / 2)
    if e % 2 = 1 then b * r % m else r

def invMod (m a : Nat) : Nat := powMod m 521 (a % m) (m - 2)

def subP (a b : Nat) : Nat := (a + ecP - b % ecP) % ecP

/-- A point in Jacobian coordinates; z = 0 is the point at infinity. -/
structure EcPoint where
  x : Nat
  y : Nat
  z : Nat

def ecInf : EcPoint := { x := 1, y := 1, z := 0 }

def ecDouble (q : EcPoint) : EcPoint :=
  if q.z = 0 then q
  else
    let d := q.z * q.z % ecP
    let g := q.y * q.y % ecP
    let b := q.x * g % ecP
    let a := 3 * (subP q.x d * (q.x + d)) % ecP
    let x := subP (a * a % ecP) (8 * b)
    { x := x, y := subP (a * subP (4 * b) x) (8 * (g * g % ecP)), z := 2 * (q.y * q.z) % ecP }

def ecAdd (q r : EcPoint) : EcPoint :=
  if q.z = 0 then r
  else if r.z = 0 then q
  else
    let z1 := q.z * q.z % ecP
    let z2 := r.z * r.z % ecP
    let u1 := q.x * z2 % ecP
    let u2 := r.x * z1 % ecP
    let s1 := q.y * (z2 * r.z % ecP) % ecP
    let s2 := r.y * (z1 * q.z % ecP) % ecP
    let h := subP u2 u1
    let t := subP s2 s1
    if h = 0 then (if t = 0 then ecDouble q else ecInf)
    else
      let h2 := h * h % ecP
      let h3 := h2 * h % ecP
      let v := u1 * h2 % ecP
      let x := subP (subP (t * t % ecP) h3) (2 * v)
      { x := x, y := subP (t * subP v x) (s1 * h3), z := q.z * r.z % ecP * h % ecP }

/-- Scalar multiple; the fuel is the number of bits of the scalar, the lowest bit first. -/
def ecMul : Nat → Nat → EcPoint → EcPoint
  | 0, _, _ => ecInf
  | k + 1, e, q =>
    let r := ecMul k (e / 2) (ecDouble q)
    if e % 2 = 1 then ecAdd q r else r

def ecCubic (x : Nat) : Nat := subP (x * x % ecP * x + ecB) (3 * x)

def onCurve (x y : Nat) : Bool := x < ecP && y < ecP && y * y % ecP == ecCubic x

/-- A signature r, s over a message verifies under a public point (R566). -/
def ecdsaOk (x y : Nat) (msg : List Byte) (r t : Nat) : Bool :=
  if r = 0 || ecN ≤ r || t = 0 || ecN ≤ t || !onCurve x y then false
  else
    let w := invMod ecN t
    let u1 := beNat (sha512 msg) * w % ecN
    let u2 := r * w % ecN
    let q := ecAdd (ecMul 521 u1 { x := ecGx, y := ecGy, z := 1 }) (ecMul 521 u2 { x := x, y := y, z := 1 })
    if q.z = 0 then false
    else
      let zi := invMod ecP q.z
      q.x * (zi * zi % ecP) % ecP % ecN == r

/-- A signature of 132 bytes, r then s, 66 bytes each, big-endian (R566). -/
def sigOk (x y : Nat) (msg sig : List Byte) : Bool :=
  sig.length == 132 && ecdsaOk x y msg (beNat (sig.take 66)) (beNat (sig.drop 66))

/-- A public point of 132 bytes, x then y (16, Table 16-2). -/
def pointKey (bs : List Byte) : Nat × Nat := (beNat (bs.take 66), beNat ((bs.drop 66).take 66))

/-- A public key of 67 bytes in compressed SEC1 form (16, after Table 16-3). -/
def sec1Key (bs : List Byte) : Option (Nat × Nat) :=
  let tag := (nthB bs 0).toNat
  let x := beNat ((bs.drop 1).take 66)
  let y := powMod ecP 521 (ecCubic x) ((ecP + 1) / 4)
  if (tag = 2 || tag = 3) && onCurve x y then some (x, if y % 2 = tag % 2 then y else ecP - y) else none

end Sys2Proof.Machine
end

