-- ==== Sys2Proof/Machine/Stage.lean ====
section
/-! DEFINITION. Stage timing, 802.1AS, the staging of a timetable and the class 0x1 opcodes (02; 16 R545, R548, R549). -/

namespace Sys2Proof.Machine

/-! Timing values (R48-R50) and admission (R72). -/

/-- R48-R50 hold for a word in STG_TIMING layout. -/
def timingOk (w : Word) : Bool :=
  let p := timP w
  let l := timL w
  let c := timC w
  20 ≤ p && p ≤ 200 && 2 ≤ l && l ≤ 20 && 2 * l ≤ p && 5 ≤ c && c ≤ 50 && 20 * c ≤ 500 * l

/-- R72 for declared figures, in microseconds. -/
def admits (f : TtFigures) (w : Word) : Bool :=
  let win := 500 * (timP w - timL w)
  let lay := 500 * timL w
  f.d ≤ 88 * win && f.wmin ≤ win && f.lmin ≤ lay && f.rmax ≤ lay - 10 * timC w && f.dlean ≤ 64 * win && f.wlean ≤ win

/-- A staged timetable that new timing must suit: in state VERIFIED or ARMED (R73). -/
def stagedFigs (s : State) : Option TtFigures :=
  if s.tt.st = .verified || s.tt.st = .armed then s.tt.staged.map (·.figs) else none

def suits (o : Option TtFigures) (w : Word) : Bool :=
  match o with
  | none => true
  | some f => admits f w

/-- The check of R68. -/
def timingAdmitted (s : State) (w : Word) : Bool :=
  timingOk w && suits (s.tt.active.map (·.figs)) w && suits (stagedFigs s) w

/-- STG_STAT (Table 2-7). -/
def stgStat (g : Stg) : Word :=
  toW (flagAt g.tstep 7 + flagAt g.ovr 6 + flagAt g.badcfg 5 + flagAt g.inlay 2 + flagAt g.hold 1 + flagAt g.sync 0)

/-- STG_PROFILE (Table 2-12). -/
def stgProfile (g : Stg) : Word := toW (flagAt g.lean 16 + at_ g.lossb 10 + at_ g.lossa 6 + at_ g.relay 2)

def setStg (s : State) (f : Stg → Stg) : State := { s with stg := f s.stg }

def activeIdent (s : State) : Nat := (s.tt.active.map (·.figs.ident)).getD 0

/-- STG_GET (Table 2-5). -/
def rowStgGet : OpDef :=
  opDef (fixedRow 1 0 0) (fun s _ =>
    .answer stOk (two s.stg.stage ++ two s.stg.tick ++ [s.stg.timing, stgStat s.stg] ++ two (activeIdent s) ++
      [stgProfile s.stg]) s)

/-- The bits of STG_TIMING that are not reserved (R7). -/
def timingMask (w : Word) : Word := w &&& 0x003FFFFF

/-- STG_SET: a shadowed write of an admitted value (Table 2-5, R11, R68). -/
def rowStgSet : OpDef :=
  opDef (fixedRow 1 1 1) (fun s k =>
    let w := timingMask (par k 0)
    if timingAdmitted s w then .answer stOk [] (setStg s (fun g => { g with timingSh := w })) else .refuse stBadParam 10 4)

/-! Staging (Tables 2-4, 2-5). -/

/-- The lowest-numbered compute die in service (R75). -/
def lowDie (s : State) : Option DieId := dieList.find? (fun n => dieInSvc s n.val)

/-- The staging region of a stack: offset and size (R548 while no timetable is active). -/
def stagingRegion (s : State) (n : DieId) : Option (Nat × Nat) :=
  match s.tt.active with
  | none => some (0, 2 ^ 32)
  | some t => (t.body.perStack.find? (fun r => r.die == n)).map (fun r => (r.stageBase, r.stageSize))

/-- Where an image is loaded: die, offset, size. -/
def loadPlace (s : State) : Option (DieId × Nat × Nat) :=
  (lowDie s).bind (fun n => (stagingRegion s n).map (fun r => (n, r.1, r.2)))

def setTt (s : State) (f : Tt → Tt) : State := { s with tt := f s.tt }

/-- TT_OPEN. Its two refusals of step 11 come in Table 2-5's order (log entry 10); with no compute die in service there is no
staging region, and the answer is ST_NO_RESOURCE (DESIGN CHOICE, log entry 149). -/
def rowTtOpen : OpDef :=
  opDef (fixedRow 1 2 3) (fun s k =>
    if parN k 2 = 0 then .refuse stBadParam 10 6
    else match loadPlace s with
      | none => .refuse stNoResource 11 0xFFFF
      | some (_, _, size) =>
        if size < parN k 2 then .refuse stNoResource 11 0xFFFF
        else if s.tt.st = .armed || s.tt.st = .verifying then .refuse stRefusedInUse 11 0xFFFF
        else .answer stOk [] (setTt s (fun t => { t with
          st := .loading, verErr := 0, ident := par64 k 0, len := parN k 2, staged := none, target := 0, ticksLeft := none })))

/-- TT_WRITE: bytes into the staging region of the lowest-numbered die in service (R75); with none, ST_NOT_READY (DESIGN CHOICE,
log entry 149). -/
def rowTtWrite : OpDef :=
  opDef { cls := 1, op := 3, lenIdx := 5, lenOk := fun k => pktLen k = 2 + cdiv (parN k 1) 4 } (fun s k =>
    let off := parN k 0
    let c := parN k 1
    if off % 4 ≠ 0 then .refuse stBadParam 10 4
    else if 65508 < c then .refuse stBadParam 10 5
    else if s.tt.st = .loading && s.tt.len < off + c then .refuse stBadParam 10 (if s.tt.len < off then 4 else 5)
    else if s.tt.st ≠ .loading then .refuse stNotReady 11 0xFFFF
    else if c = 0 then .answer stOkEmpty [] s
    else match loadPlace s with
      | none => .refuse stNotReady 11 0xFFFF
      | some (n, base, _) =>
        match hbmPut s n 0x01 (base + off) ((wordsBytes (parsFrom k 2)).take c) with
        | (none, s') => .answer stOk [] s'
        | (some st, s') => .answer st [execDetail] s')

/-- TT_VERIFY. -/
def rowTtVerify : OpDef :=
  opDef (fixedRow 1 4 0) (fun s _ =>
    if s.tt.st = .loading then .answer stOk [] (setTt s (fun t => { t with st := .verifying }))
    else .refuse stNotReady 11 0xFFFF)

/-! The integrator key (16 R545). -/

/-- Offsets of Table 16-3. -/
abbrev keySector : Nat := 0x3800000

def keyBytes (x : Island) (i : Nat) : List Byte := memRd x.flash (keySector + 256 * i) 256

/-- A key record: sequence and public key, where the magic and the key are right. -/
def keyRecord (bs : List Byte) : Option (Nat × Nat × Nat) :=
  if bs.take 4 = [0x48, 0x58, 0x4B, 0x59] then (sec1Key ((bs.drop 8).take 67)).map (fun k => (leNat ((bs.drop 4).take 4), k))
  else none

/-- The integrator key in force: the valid record of highest sequence (R545). -/
def keyInForce (x : Island) : Option (Nat × Nat × Nat) :=
  (List.range 256).foldl (fun best i =>
    match keyRecord (keyBytes x i), best with
    | some r, some b => if b.1 < r.1 then some r else best
    | some r, none => some r
    | none, _ => best) none

/-- The key both islands in service report as in force (R545). -/
def deviceKey (s : State) : Option (Nat × Nat × Nat) :=
  match inSvc s.sia, inSvc s.sib with
  | true, true => if keyInForce s.sia = keyInForce s.sib then keyInForce s.sia else none
  | true, false => keyInForce s.sia
  | false, true => keyInForce s.sib
  | false, false => none

/-! Verification (R69, R72, R75, R88, R381). -/

/-- The header figures of an image (Table 2-3). -/
def imageFigs (img : List Byte) : TtFigures :=
  let w := fun o => leNat ((img.drop o).take 4)
  { ident := leNat ((img.drop 8).take 8), len := w 0x10, d := w 0x14, wmin := w 0x18, lmin := w 0x1C, rmax := w 0x20
    dlean := w 0x24, wlean := w 0x28 }

/-- The directory: type, offset, length, truncated hash of each section (Table 2-3). -/
def imageDir (img : List Byte) : List (Nat × Nat × Nat × List Byte) :=
  (List.range (leNat ((img.drop 6).take 2))).map (fun i =>
    let e := (img.drop (0x30 + 16 * i)).take 16
    (leNat (e.take 4), leNat ((e.drop 4).take 4), leNat ((e.drop 8).take 4), e.drop 12))

/-- Sections every timetable has, with their counts (Table 2-2). -/
def neededSections : List (Nat × Nat) := [(1, 1), (2, 1), (3, 1), (4, 12), (5, 12), (6, 1), (8, 1)]

/-- R69 holds for a directory. -/
def dirOk (img : List Byte) : Bool :=
  let d := imageDir img
  neededSections.all (fun n => n.2 ≤ (d.filter (fun e => e.1 = n.1)).length) &&
  d.all (fun e => e.2.1 + e.2.2.1 ≤ img.length && (sha512 ((img.drop e.2.1).take e.2.2.1)).take 4 == e.2.2.2)

/-- The signature over all preceding bytes (Table 2-3). -/
def imageSigned (s : State) (img : List Byte) : Bool :=
  match deviceKey s with
  | none => false
  | some (_, x, y) => 132 ≤ img.length && sigOk x y (img.take (img.length - 132)) (img.drop (img.length - 132))

/-- The first verification error in the order 2, 4, 1, 6, 5, 3 (R88), 0 for none. -/
def verifyError (s : State) (img : List Byte) (c : TtContents) (copyFault : Bool) : Nat :=
  let f := imageFigs img
  if img.take 4 ≠ [0x48, 0x58, 0x54, 0x54] || f.len ≠ s.tt.len || f.ident ≠ s.tt.ident then 2
  else if leNat ((img.drop 4).take 2) ≠ 2 then 4
  else if !imageSigned s img then 1
  else if !dirOk img then 6
  else if copyFault then 5
  else if !admits f s.stg.timing || c.cmds.any (fun d => 1500 < d.worstUs) then 3
  else 0

/-- The dispatcher's copies into the staging regions of the other dies in service (R75). -/
def copyImage (s : State) (src : DieId) (img : List Byte) : State :=
  forAll s (dieList.filter (fun n => dieInSvc s n.val && n != src)) (fun s n =>
    match stagingRegion s n with
    | some (b, _) => hbmSet s n 0x01 b img
    | none => s)

/-- Where the image of a timetable stands in the stacks of the dies in service. -/
def imagePlaces (s : State) : List (DieId × Nat) :=
  (dieList.filter (fun n => dieInSvc s n.val)).filterMap (fun n => (stagingRegion s n).map (fun r => (n, r.1)))

/-- TT_VERIFY_END: the result of verification is recorded and HPT_ALERT.ttv is set (R88). An image that cannot be read, for want
of a die in service or for an uncorrectable error, has no signature that verifies: error 1 (DESIGN CHOICE, log entry 150). -/
def execTtVerifyEnd (c : TtContents) (copyFault : Bool) (s : State) : Out :=
  .next (
    if s.tt.st ≠ .verifying then s
    else
      let ended := fun (s : State) (f : Tt → Tt) =>
        let s := setTt s f
        setHpt s { s.hpt with aTtv := true }
      match loadPlace s with
      | none => ended s (fun t => { t with st := .loading, verErr := 1 })
      | some (n, base, _) =>
        match hbmGet s n .spine 0x01 base s.tt.len with
        | (none, s') => ended s' (fun t => { t with st := .loading, verErr := 1 })
        | (some img, s') =>
          let e := verifyError s img c copyFault
          let s' := copyImage s' n img
          if e = 0 then
            ended s' (fun t => { t with
              st := .verified, verErr := 0
              staged := some { figs := imageFigs img, body := c, image := imagePlaces s, sha := sha512 img } })
          else ended s' (fun t => { t with st := .loading, verErr := e }))

/-- TT_ARM (R77, R549, R85). -/
def rowTtArm : OpDef :=
  opDef (fixedRow 1 5 2) (fun s k =>
    let t := par64 k 0
    if t < (if s.tt.ever then s.stg.stage + 2 else 2) then .refuse stBadParam 10 4
    else if s.tt.st ≠ .verified || (!s.tt.ever && !s.stg.sync) then .refuse stNotReady 11 0xFFFF
    else .answer stOk [] (setTt s (fun x => { x with
      st := .armed, target := t, ticksLeft := if s.tt.ever then none else some t })))

/-- Waybills held for the armed timetable are discarded with a status (R79, R80). -/
def dropHeld (s : State) (st : Byte) (sel : Waybill → Bool) : State :=
  let gone := s.dis.waybills.filter (fun w => w.st = .held && sel w)
  let s := forAll s gone (fun s w => modWb s w.id (fun w => { w with st := .complete, written := 0 }))
  forAll s gone (fun s w => completeDefers s (.waybill w.id) st ([0, 0] ++ two w.stage))

/-- TT_CANCEL (Table 2-4, R80, R87). -/
def rowTtCancel : OpDef :=
  opDef (fixedRow 1 6 0) (fun s _ =>
    match s.tt.st with
    | .empty => .answer stOkEmpty [] s
    | .armed =>
      .answer stOk [] (dropHeld (setTt s (fun t => { t with st := .verified, verErr := 0, target := 0, ticksLeft := none }))
        stNotReady (fun w => w.forArmed))
    | _ => .answer stOk [] (setTt s (fun t => { t with
        st := .empty, verErr := 0, ident := 0, len := 0, target := 0, staged := none })))

def ttCode : TtState → Nat
  | .empty => 0
  | .loading => 1
  | .verifying => 2
  | .verified => 3
  | .armed => 4

/-- TT_STATUS (R644). -/
def rowTtStatus : OpDef :=
  opDef (fixedRow 1 7 0) (fun s _ =>
    .answer stOk ([toW (ttCode s.tt.st), toW s.tt.verErr] ++ two s.tt.ident ++ two s.tt.target) s)

/-- Two dies are lost: from the loss on, before the tick that enters them in STG_PROFILE (R86, R90). -/
def twoLost (s : State) : Bool := 2 ≤ diesOut s

/-- PROFILE_SET (Table 2-5, R90). -/
def rowProfileSet : OpDef :=
  opDef (fixedRow 1 8 3) (fun s k =>
    let t := par64 k 1
    if 1 < parN k 0 then .refuse stBadParam 10 4
    else if t < s.stg.stage + 2 then .refuse stBadParam 10 5
    else if parN k 0 = 0 && twoLost s then .refuse stNotReady 11 0xFFFF
    else .answer stOk [] (setStg s (fun g => { g with pendProf := some (parN k 0 = 1, t) })))

/-- The number of the stage that the next tick opens (R45, R549). -/
def nextStage (s : State) : Nat :=
  if s.tt.ever then s.stg.stage + 1 else if s.tt.st = .armed && s.tt.ticksLeft = some 1 then 1 else 0

/-- A pending PROFILE_SET reaches its target at the next tick. -/
def profileDue (s : State) : Bool :=
  match s.stg.pendProf with
  | some (_, t) => t ≤ nextStage s
  | none => false

/-- The pending profile is loaded; whichever it is, it is discarded with badcfg while two dies are lost (R90). -/
def loadProfile (s : State) : State :=
  match s.stg.pendProf with
  | some (lean, _) =>
    if twoLost s then setStg s (fun g => { g with pendProf := none, badcfg := true })
    else setStg s (fun g => { g with pendProf := none, lean := lean, leanSh := lean })
  | none => s

/-- PROFILE_APPLY. The row is a part of the target stage's tick: it may come at any time in the stage before it, and STAGE_TICK
does it where it has not (DESIGN CHOICE, log entry 151). -/
def execProfileApply (s : State) : Out := .next (if profileDue s then loadProfile s else s)

/-! 802.1AS (R67, R607). -/

def execAsSyncLost (s : State) : Out :=
  .next (
    let s := bothEdge s (fun e => { e with sync := false })
    if s.iod.inReset then s else setStg s (fun g => { g with sync := false, hold := true }))

/-- Synchronisation returns with a measured offset in ns, which STG_OFFSET holds saturated (Table 2-10). -/
def execAsSyncRegained (offset : Int) (s : State) : Out :=
  .next (
    let s := modEdge s s.stg.asPort (fun e => { e with sync := true })
    if s.iod.inReset then s
    else setStg s (fun g => { g with sync := true, hold := false, offset := clampI (-2147483647) 2147483647 offset }))

def execAsPortFailover (s : State) : Out :=
  .next (setStg (modEdge s .a (fun e => { e with sync := false })) (fun g => { g with asPort := .b }))

def execAsPortReturn (s : State) : Out :=
  .next (setStg (modEdge s .a (fun e => { e with sync := true })) (fun g => { g with asPort := .a }))

end Sys2Proof.Machine
end

