-- ==== Sys2Proof/Machine/Resets.lean ====
section
/-! DEFINITION. Resets and restarts of the islands, the ring edges and the IOD core, the trial fall-back of firmware, and
what an active timetable sets (02 R84; 03 R105; 10 R398; 11 R420, R424; 13 R462, R491, R643; 16 R576; 17 R609, R613). -/

namespace Sys2Proof.Machine

/-! What an active timetable sets (10 R398, 11 R403, R424, 12, 13 after R471, 15 R535). -/

/-- The region of a declaration (13, Tables 13-8 to 13-10). -/
def declRegion (d : RegionDecl) : Region :=
  { base := d.base, size := d.size, en := true, w := d.w, r := d.r
    allow := d.liveries.foldl (fun a l => a ||| BitVec.ofNat 256 (2 ^ l.toNat)) 0 }

/-- One declared region is loaded, unless the region is locked. -/
def loadRegion (s : State) (d : RegionDecl) : State :=
  modFwl s d.target (fun f =>
    if (bankGet defRegion f.regions d.region).lock then f
    else { f with regions := bankSet defRegion f.regions d.region (declRegion d) })

def targetDie : FwTarget → Option Nat
  | .die n _ => some n.val
  | _ => none

/-- The regions of the active timetable that `sel` names (13, after R471). -/
def loadRegions (s : State) (sel : FwTarget → Bool) : State :=
  match s.tt.active with
  | none => s
  | some t => forAll s (t.body.regions.filter (fun d => sel d.target)) loadRegion

/-- Unlocked regions of every firewall go back to their reset values before a timetable's are loaded. -/
def dropRegions (s : State) : State :=
  { s with fws := s.fws.map (fun e => (e.1, { e.2 with regions := e.2.regions.filter (fun r => r.2.lock) })) }

/-- The record of a context's declaration (10, Table 10-12). -/
def declCtx (d : CtxDecl) : CtxRec := { exists_ := true, livery := d.livery, qbase := d.qbase, qcount := d.qcount }

/-- A queue of a context that starts empty: UNBOUND until the placement binds it, its ring placed with the placement. -/
def declQueue (c : Nat) : QueueCtx := { st := 2, ctx := c }

/-- A context starts empty under its declaration: queues, objects, pages (R81, R84). -/
def startCtx (s : State) (d : CtxDecl) : State :=
  let s := modCtx s d.id (fun _ => declCtx d)
  let s := forAll s (List.range d.qcount) (fun s i => setQueue s (d.qbase + i) (declQueue d.id))
  let s := { s with syn := { s.syn with bases := bankSet (0, 0) s.syn.bases d.id (d.synBase, d.nsSize) } }
  let s := { s with kpm := { s.kpm with quotas := bankSet 0 s.kpm.quotas d.id d.kvQuota } }
  forAll s d.objs (fun s o => setObj s (d.synBase + o.id) (declObj o 15))

/-- The KV heaps of the active timetable (07, after R250). -/
def setHeaps (s : State) (t : Timetable) : State :=
  setKpm s (fun k => { k with heaps := t.body.perStack.foldl (fun h r => bankSet (0, 0) h r.die (r.heapBase, r.heapSize)) [] })

/-! Islands. -/

/-- The state record's and flash's content and what stands outside the island's registers and RAM goes through a reset. -/
def keptIsl (x : Island) (ep : Nat) : Island :=
  { rom := x.rom, flash := x.flash, flashOp := x.flashOp, logbook := x.logbook, fw := x.fw, minIsl := x.minIsl, minIod := x.minIod
    retired := x.retired, retiredEng := x.retiredEng, lvl1 := x.lvl1, lvl2 := x.lvl2, lvl3 := x.lvl3
    degrNoted := x.degrNoted, mgtm := x.mgtm, padLow := x.padLow, ram := { fill := .free ep }, st := 0, inReset := true
    counts := false }

/-- The latches of a unit's pairs are empty after its reset (R638). -/
def dropLatches (s : State) (mine : PairId → Bool) : State := { s with latches := s.latches.filter (fun e => !mine e.1) }

/-- The state records of both flashes hold a retirement, or no longer do (R514). -/
def recordDie (s : State) (n : DieId) (on : Bool) : State :=
  bothIsl s (fun x => { x with retired := if on then addNew n x.retired else x.retired.filter (fun m => m != n) })

/-- An island enters reset: OFF, its registers at their reset values, its RAM not defined (12 R454), its log empty (R517), its
management port at its start (R491), the replies of that port lost (R643). Its link goes down first, and what is outstanding
on it fails (R28). -/
def resetIsl (s : State) (i : Isl) : State :=
  let s := dropLink s (.island i)
  let ep := s.free
  let s := (fresh s).2
  let s := setIsl s i (keptIsl (isl s i) ep)
  let s := modMgt s i (fun m => { up := m.up })
  let s := setDis s (fun d => { d with defers := d.defers.filter (fun q => q.pkt.port != .mgt i) })
  let s := dropFws s (fwNum (.island i 0)) 9
  let s := dropLatches s (fun p => match p with | .fwlLast (.island j _) => j == i | _ => false)
  setMpl s (fun m => setUrgAlive m i 0)

/-- The other island's reset is ordered through the cross-monitor line; the ordering island is SOLE (R462, R463). -/
def orderIsl (s : State) (by_ : Isl) : State :=
  let s := resetIsl s (otherIsl by_)
  modIsl s by_ (fun x => if inSvc x then { x with st := 3 } else x)

/-- A class 0x0D fault on a trial slot: the unit starts again from the previous slot (R576). -/
def trialBack (f : Fw) : Fw :=
  if f.trial.isSome then
    { slotB := !f.slotB, trial := none, failedA := f.failedA || !f.slotB, failedB := f.failedB || f.slotB, recB := !f.slotB }
  else f

/-- An island fault of class 0x0D (Table 14-1, R576): FAILED, the trial ended. -/
def failIsl (s : State) (i : Isl) : State :=
  let s := logF s { cls := 0x0D, unit := islUnit i, reaction := 5 }
  modIsl s i (fun x => { x with
    st := 4, fwfail := x.fwfail || x.fw.trial.isSome, fw := trialBack x.fw })

/-- The island may order the other's reset: it is out of reset, not FAILED, and its own link is up (R462). -/
def mayOrder (x : Island) : Bool := !x.inReset && x.st != 4 && !x.beatLapsed && x.linkUp

/-- The other island orders the reset of one whose link has left the active state, unless that is FAILED or its own link is down
(R462). -/
def cutOff (s : State) (i : Isl) : State :=
  if mayOrder (isl s (otherIsl i)) && !(isl s i).inReset then
    orderIsl (failIsl s i) (otherIsl i)
  else s

/-- The entry of a link that is down (Table 14-1): of kind P and with a route change for a coupling. -/
def downFact : LinkId → Fact
  | .coupling n => { cls := 0x08, unit := n, sub := 0x11, reaction := 7, kind := some 2 }
  | .spine n => { cls := 0x08, unit := n, sub := 0x12 }
  | .island i => { cls := 0x08, unit := islUnit i }

/-- LINK_DOWN: the retrain has failed; class 0x08 (R498, Table 14-1, Table 14-2). A failed coupling stays down until a die at it
has been reset (R510). An island whose link is down is reset by the other island (R462). -/
def execLinkDown (l : LinkId) (s : State) : Out :=
  .next (
    let s := logF s (downFact l)
    let s := dropLink s l
    let s := { s with iod := { s.iod with retrain := s.iod.retrain.filter (fun x => !(x == l)) } }
    match l with
    | .coupling n => modDie s n (fun d => { d with failedRetrains := satAdd 255 d.failedRetrains 1, scfailed := true })
    | .spine _ => s
    | .island i => cutOff s i)

/-- RETRY_EXHAUSTION: the link retrains, class 0x07 (R498, Table 14-1); an island link has left the active state (R462). -/
def execRetryExhaustion (l : LinkId) (s : State) : Out :=
  .next (match l with
    | .island i => if (isl s i).linkUp then cutOff (exhaust s l) i else s
    | _ => if linkActive s l then exhaust s l else s)

/-! Ring edges. -/

/-- A bypass starts to move. -/
def moveBypass (e : RingEdge) (close : Bool) : RingEdge :=
  if e.bypass = (if close then 1 else 0) then e else { e with bypass := 2, goal := close, linkup := false, lost := e.lost || e.linkup }

/-- The island whose link ends in a ring edge (R30). -/
def islOf : Edge → Isl
  | .a => .sia
  | .b => .sib

/-- A ring edge enters reset: registers at their reset values, the bypass closes (R609), a commanded close holds (R613). Its
island's link leaves the active state, so the other island resets that island (R462). -/
def resetEdge (s : State) (e : Edge) : State :=
  let was := (isl s (islOf e)).linkUp
  let s := dropLink s (.island (islOf e))
  let s := modEdge s e (fun x => moveBypass { bypass := x.bypass, goal := x.goal, held := x.held, adopted := x.adopted } true)
  if was then cutOff s (islOf e) else s

/-! The IOD core. -/

/-- Work that a reset of the IOD core ends (R643, Table 13-27). -/
def iodWork : DefKind → Bool
  | .fwIod => true
  | .rstDie _ => true
  | .readmitDie _ => true
  | .readmitEng _ => true
  | _ => false

/-- An engine after the QMG and the dispatcher have been reset: it serves no queue. -/
def stopEngine (e : Engine) : Engine :=
  { e with
    bound := false, bctx := 0, bqueue := 0, openCmd := false, cut := false, skipSt := none, hung := false, waiting := none
    cur := none, done := [], late := [], sigs := [], turn := false, pref := none, st := if e.st = 2 || e.st = 3 || e.st = 6 then 1 else e.st }

/-- A WAIT that the restart of the IOD core ends completes with ST_OWNER_LOST, and so do the descriptors after it up to the
milepost (R413, R420); their completion records go out before the engine's queue is gone. -/
def loseWait (s : State) (g : EngId) : State :=
  match (eng s g).waiting, (eng s g).cur with
  | some (.object _), some ws =>
    let n := qLen (queue s (eng s g).bqueue) + 1
    let t := finishRest g stOwnerLost n (engDone s g stOwnerLost ws false)
    forAll t ((eng t g).done.drop (eng s g).done.length) (fun s c => emit s (.record (recordWords g c)))
  | _, _ => s

/-- A re-admission under way that the reset of the IOD core ends is not done: the die stays out of service as it was (R643). -/
def undoReadmit (s : State) (n : DieId) : State :=
  match (die s n).before with
  | none => s
  | some (dec, ret, at_) =>
    let s := modDie s n (fun d => { d with before := none, decision := dec, retired := ret, lossAt := at_ })
    if ret then recordDie s n true else s

/-- The IOD core enters reset or restart: every spine is down until it trains again (R41), engine waits end (R420), writes that
wait at the planner or the fusion engine fail (R28); the buffers,
opcodes' work, objects, queues, pages, tracks, planner state and registers are lost (R105, R319, R360, R398, R420, R424); deferred packets of the management ports whose work ends are
answered (R643); firmware slots, straps, clocks and the counts of DIAG_COUNTERS go on, and so does the reading of a junction that
holds the core (18 R623). -/
def resetIod (s : State) (cause : Nat) : State :=
  let s := forAll (forAll s dieList (fun s (n : DieId) => dropLink s (.spine n))) engList loseWait
  let s := forAll (dropHeldWrites s (fun _ => true)) (heldWrites s) failHeldWrite
  let s := forAll s dieList undoReadmit
  let ended := s.dis.defers.filter (fun d => d.pkt.port != .host && iodWork d.what)
  let kept := s.dis.defers.filter (fun d => d.pkt.port != .host && !iodWork d.what)
  let s := { s with
    hpt := { epoch := s.hpt.epoch }
    stg := {}
    tt := { ever := s.tt.ever }
    dis := {
      defers := kept, shoeStages := s.dis.shoeStages, immShoes := s.dis.immShoes, reexecRun := s.dis.reexecRun
      iodRestarts := s.dis.iodRestarts, timeouts := s.dis.timeouts, timeoutLog := s.dis.timeoutLog }
    qmg := {}
    syn := {}
    kpm := {}
    mpl := {}
    fus := {}
    cvus := []
    flight := []
    engines := s.engines.map (fun e => (e.1, stopEngine e.2))
    latches := s.latches.filter (fun e => match e.1 with
      | .teBusy _ => true
      | .mctErr _ => true
      | .fwlLast (.iod _) => false
      | .fwlLast _ => true
      | _ => false)
    iod := { s.iod with
      inReset := true, ready := false, cause := cause, fwArm := none, spdown := 0, isldown := 0, spretry := []
      tj := if s.iod.thermal then s.iod.tj else 0
      degr := 0, hot95 := 0, aphDown := 0, aphUp := 0, ethDown := 0, ethUp := 0, ethCfg := 0xF, ethCfgSh := 0xF
      pceDrop := false, pceWidth := 0, pceSpeed := 0, pceUp := false } }
  let s := bothIsl (dropFws s 0 24) (fun x => { x with urgReply := [], aliveNext := 0 })
  forAll s ended (fun s d => reply s d.pkt stNotReady [execDetail])

/-- A restart of the IOD core (R487), counted; `back`: from the previous slot, which ends the trial (R576). -/
def restartIod (s : State) (cause : Nat) (back : Bool) : State :=
  let s := setDis s (fun d => { d with iodRestarts := satAdd 65535 d.iodRestarts 1 })
  let s := if back then bothIsl s (fun x => { x with fwfail := true }) else s
  let s := resetIod s (if back then 3 else cause)
  if back then { s with iod := { s.iod with fw := trialBack s.iod.fw } } else s

/-- A class 0x0B fault: the entry, then the restart that the islands order. The entry is made while the core is out of
service, by each island itself (R516); on a trial slot the previous slot starts (R576). -/
def faultIod (s : State) : State :=
  let s := restartIod s 1 s.iod.fw.trial.isSome
  logF s { cls := 0x0B, unit := unitIod, reaction := 5 }

end Sys2Proof.Machine
end

