-- ==== Sys2Proof/Machine/Islands.lean ====
section
/-! DEFINITION. The safety islands and the choice at the ring edges (13): state messages, the steps of Table 13-13, releases
and drag shoes, the stage output message, the output cut-off and the replicas' ticks. -/

namespace Sys2Proof.Machine

/-! Paths (01 R30). -/

/-- A message of an island reaches a ring edge: over its island link and its own edge (R30). -/
def reaches (s : State) (i : Isl) (e : Edge) : Bool :=
  (isl s i).linkUp && !(edge s (ownEdge i)).inReset && !(edge s e).inReset

/-- An island reaches the planner's memory and urgent port. -/
def reachesMpl (s : State) (i : Isl) : Bool := hears s i && s.mpl.st ≠ 0

/-! State messages (R460-R463). -/

/-- The record released for the stage under way. -/
def releaseNow (x : Island) : Option Release := x.relOut.filter (fun r => r.stage == x.rep.stage)

/-- The state a message reports: FAILED once the heartbeat has lapsed (R461). -/
def reportedState (x : Island) : Nat := if x.beatLapsed then 4 else x.st

/-- The state message (Table 13-2). -/
def stateWords (x : Island) : List Word :=
  sealW [toW (at_ x.msgSeq.toNat 16 + reportedState x), toW x.rep.stage, x.shoe.elim 0 (fun k => crcW k.rcd),
    (releaseNow x).elim 0 (fun r => r.crc)]

def setSeen (e : RingEdge) (i : Isl) (st : Nat) : RingEdge :=
  match i with
  | .sia => { e with stA := st }
  | .sib => { e with stB := st }

/-- STATE_MESSAGE_SEND (R460). -/
def execStateMessageSend (i : Isl) (s : State) : Out :=
  .next (
    let x := isl s i
    if x.inReset then s
    else
      let s := emit s (.xmon i (stateWords x))
      let s := if reaches s i .a then modEdge s .a (fun e => setSeen e i (reportedState x)) else s
      let s := if reaches s i .b then modEdge s .b (fun e => setSeen e i (reportedState x)) else s
      modIsl s i (fun x => { x with msgSeq := x.msgSeq + 1 }))

/-- Distance of two stage numbers by their low words. -/
def stageGap (a b : Nat) : Nat := min ((a + 2 ^ 32 - b % 2 ^ 32) % 2 ^ 32) ((b + 2 ^ 32 - a % 2 ^ 32) % 2 ^ 32)

/-- The state of an island in service by the other's state: ACTIVE while the other is in service, else SOLE (Table 13-1). -/
def withOther (x : Island) (st : Nat) : Island :=
  if inSvc x then { x with st := if st = 2 || st = 3 then 2 else 3 } else x

/-- ISLAND_STATE_MESSAGE: the other island's message reaches island `i`; a FAILED one leads to its reset (R462, R463). -/
def execIslandStateMessage (i : Isl) (msg : List Word) (s : State) : Out :=
  .next (
    let x := isl s i
    if x.inReset || msg.length ≠ 5 || !sealOk msg then s
    else
      let st := fld (nth msg 0) 3 0
      let gap := stageGap (nth msg 1).toNat x.rep.stage
      let s := modIsl s i (fun x => withOther { x with other := st, differ := if 1 < gap then x.differ + 1 else 0 } st)
      if st = 4 && mayOrder x then orderIsl s i else s)

/-- HEARTBEAT_LAPSE (R461): SIS_CTL.beat has not been written for 200 us; every later message reports FAILED, and the island is
FAILED until its reset, in BOOT as in service (Table 13-1). -/
def execHeartbeatLapse (i : Isl) (now : Nat) (s : State) : Out :=
  .next (
    let x := isl s i
    if x.inReset || x.beatLapsed || x.beatAt.elim false (fun t => now < t + 200000) then s
    else
      failIsl (modIsl { s with vtime := max s.vtime now } i (fun x => { x with beatLapsed := true })) i)

/-- LOCKSTEP_MISMATCH: the comparator resets the island (R458, class 0x0D). -/
def execLockstepMismatch (i : Isl) (s : State) : Out :=
  .next (if (isl s i).inReset then s else orderIsl (failIsl s i) (otherIsl i))

/-- An entry whose class no rule names: the class is a free value. -/
def logOpen (s : State) (unit : Nat) : State :=
  let c := (Config.openByte s.free 0).toNat
  logF (fresh s).2 { cls := c, unit := unit }

/-- XMON_LAPSE (R463): four periods without a valid message, or two consecutive messages that differ. -/
def execXmonLapse (i : Isl) (differ : Bool) (s : State) : Out :=
  .next (
    let x := isl s i
    if x.inReset || (differ && x.differ < 2) then s
    else logOpen (modIsl s i (fun x => { x with xmerr := true })) (islUnit (otherIsl i)))

/-- SIS_CTL.beat refreshes the heartbeat (R461). -/
def beatIsl (s : State) (i : Isl) (now : Nat) : State := modIsl s i (fun x => { x with beatAt := some now })

def execSisBeat (i : Isl) (now : Nat) (s : State) : Out := .next (beatIsl { s with vtime := max s.vtime now } i now)

/-- SIS_CTL.clrcnt (Table 13-25, R494). -/
def clrSis (x : Island) : Island := { x with withheld := 0, disagree := 0, maxns := 0, timeouts := 0 }

/-- A count incremented in the cycle of the clear reads 1 (R494). -/
def execSisClrcnt (i : Isl) (s : State) (withheldHit disagreeHit timeoutHit : Bool := false) : Out :=
  .next (modIsl s i (fun x => { clrSis x with
    withheld := b2n withheldHit, disagree := b2n disagreeHit, timeouts := b2n timeoutHit }))

/-! The drag shoe (R475-R477). -/

def islSource : Isl → Nat
  | .sia => 1
  | .sib => 2

/-- Pose times strictly increase. -/
def timesRise : List Pose → Bool
  | p :: q :: r => p.t < q.t && timesRise (q :: r)
  | _ => true

/-- R475: the words are a drag shoe proposal against a generation. -/
def isProposal (ws : List Word) (gen : Nat) : Bool :=
  let ps := (wordsTraj ws).poses
  2 ≤ trajCount ws && trajCount ws ≤ 64 && timesRise ps && (ps.head?.elim false (fun p => p.t ≤ 250)) &&
    (ps.getLast?.elim false (fun p => p.v == 0)) && fld (nth ws 3) 23 0 == gen

/-- R476: the frame link in slot 13: generations, offset and heading, when its check word is right. -/
def frameLink (ws : List Word) : Option (Nat × Nat × Int × Int × Nat) :=
  let l := ws.take 5
  if sealOk l then
    some (fld (nth l 0) 23 0, fld (nth l 1) 23 0, sx 16 (fld (nth l 2) 15 0), sx 16 (fld (nth l 2) 31 16), fld (nth l 3) 15 0)
  else none

/-- A pose in the new frame, before its words are formed (R477). -/
structure RePose where
  x : Int
  y : Int
  h : Nat
  v : Nat
  t : Int
  deriving DecidableEq, Repr

def rePose (ox oy : Int) (oh : Nat) (dt : Int) (p : Pose) : RePose :=
  let cs := cosSin oh
  { x := rhe ((p.x - ox) * cs.1 + (p.y - oy) * cs.2) 16384
    y := rhe (-(p.x - ox) * cs.2 + (p.y - oy) * cs.1) 16384
    h := (p.h + 65536 - oh) % 65536, v := p.v, t := p.t - dt }

/-- The poses that remain: those with t' at least 0, or the last one stopped at 0 (R477). -/
def keepPoses (l : List RePose) : List RePose :=
  let k := l.filter (fun p => 0 ≤ p.t)
  if k.isEmpty then (l.getLast?.toList).map (fun p => { p with v := 0, t := 0 }) else k

/-- A field of 16 bits; where the number does not fit, its bits are not stated. -/
def openFit (ep k : Nat) (lo hi v : Int) : Nat := if lo ≤ v && v ≤ hi then tc 16 v else fld (openWord ep k) 15 0

def reWords (ep : Nat) (p : RePose) (k : Nat) : List Word :=
  [toW (at_ (openFit ep (3 * k) (-32768) 32767 p.y) 16 + openFit ep (3 * k + 1) (-32768) 32767 p.x), toW (at_ p.v 16 + p.h),
    toW (openFit ep (3 * k + 2) 0 65535 p.t), 0]

/-- The held record in the frame of a new generation (R477). -/
def reexpress (ep : Nat) (k : Shoe) (gen : Nat) (t0 : Nat) (ox oy : Int) (oh : Nat) : List Word :=
  let dt := rhe ((t0 : Int) - k.t0) 1000000
  let ps := keepPoses ((wordsTraj k.rcd).poses.map (rePose ox oy oh dt))
  let w0 := nth k.rcd 0
  [toW (at_ (fld w0 31 8) 8 + ps.length), nth k.rcd 1, nth k.rcd 2, toW gen] ++
    (ps.zipIdx.map (fun e => reWords ep e.1 e.2)).flatten

/-! Urgent checks (R479). -/

/-- An urgent request goes out with the next alive value. -/
def sendCheck (s : State) (i : Isl) (st : IslStep) : State :=
  modIsl s i (fun x => { x with step := st, tries := 1, urgSeq := x.urgSeq + 1, aliveNext := x.aliveNext + 1 })

/-! The steps of Table 13-13. -/

def repWord (x : Island) (k : Nat) : Word := nth (x.report.getD []) k
def repComplete (x : Island) : Bool := tbit (repWord x 0) 0
def repGated (x : Island) : Bool := fld (repWord x 0) 11 8 ≠ 15

/-- The generation a stage's steps work on: the report's, or the newest field's when no report has come. -/
def repGen (s : State) (x : Island) : Nat := if x.report.isSome then fld (repWord x 2) 23 0 else s.mpl.gen

/-- Step 5: the check of slot 9, when the stage is complete and a candidate is gated. -/
def islStep5 (s : State) (i : Isl) : State :=
  let x := isl s i
  if repComplete x && repGated x then sendCheck s i .candidate else modIsl s i (fun x => { x with step := .idle })

/-- Step 4: the record and its flags go to both ring edges. Without a report the steps end before it (R478). -/
def islStep4 (s : State) (i : Isl) : State :=
  if (isl s i).late then modIsl s i (fun x => { x with step := .idle }) else
  islStep5 (modIsl s i (fun x => match x.shoe with
    | none => x
    | some k =>
      let k := { k with stage := x.rep.stage, source := islSource i }
      { x with shoe := some k, shoeOut := some k, dsValid := true, dsRecheck := k.recheck, dsClear := k.clear }))
    i

/-- Step 3: the held record unchanged, recheck 0 and clear 0. -/
def islStep3 (s : State) (i : Isl) : State :=
  modIsl s i (fun x => match x.shoe with
    | none => { x with step := .idle }
    | some k => { x with step := .idle, shoe := some { k with recheck := false, clear := false, step := 3 }, dsStep := 3 })

/-- Step 2: the held record re-expressed and checked, or step 3. -/
def islStep2 (s : State) (i : Isl) : State :=
  let x := isl s i
  match x.shoe, frameLink (slotWords s 13) with
  | some k, some (gnew, gold, ox, oy, oh) =>
    if gnew = repGen s x && gold = k.gen && reachesMpl s i then
      let ws := reexpress s.free k gnew s.mpl.ref ox oy oh
      sendCheck (putSlot (fresh s).2 (ownSlot i) ws) i .reexpress
    else islStep4 (islStep3 s i) i
  | _, _ => islStep4 (islStep3 s i) i

/-- Step 1: a proposal is copied to the island's slot and checked. Its generation is the gate report's (R475), so without a report
there is none. -/
def islStep1 (s : State) (i : Isl) : State :=
  let ws := slotWords s 12
  if reachesMpl s i && (isl s i).report.isSome && isProposal ws (repGen s (isl s i)) then sendCheck (putSlot s (ownSlot i) (trajUsed ws)) i .proposal
  else islStep2 s i

/-- R465: a record of the island RAM that a step reads fails its check. -/
def ramFails (s : State) (i : Isl) : State := failIsl (modIsl s i (fun x => { x with hrerr := true })) i

/-- A report of the stage under way (Table 13-12). -/
def reportOk (x : Island) (r : List Word) : Bool := r.length == 5 && sealOk r && nth r 1 == toW x.rep.stage

/-- GATE_REPORT: what does not reach the island is gone; else it takes the oldest report on its way and runs its steps, or restarts at step 5 (R478, R480). -/
def execGateReport (i : Isl) (ramFault : Bool) (s : State) : Out :=
  .next (match (isl s i).reportQ with
    | [] => s
    | r :: rest =>
      let s := modIsl s i (fun x => { x with reportQ := rest })
      let x := isl s i
      if !inSvc x || !hears s i then s
      else if ramFault then ramFails s i
      else if !reportOk x r || x.cutoff then s
      else
        let take := fun (s : State) => modIsl s i (fun x => { x with report := some r })
        let again := fun (s : State) => modIsl s i (fun x => { x with mism := false, restarts := satAdd 255 x.restarts 1 })
        match x.step with
        | .idle => if x.report.isSome then islStep5 (again (take s)) i else if x.late then s else islStep1 (take s) i
        | .candidate => islStep5 (again (take s)) i
        | _ => take s)

/-- ISLAND_NO_REPORT_START: no report by the cut-off minus 50 us, so steps 1-3 run alone (R478). -/
def execIslandNoReportStart (i : Isl) (ramFault : Bool) (s : State) : Out :=
  .next (
    let x := isl s i
    if !inSvc x || x.report.isSome || x.late || x.cutoff then s
    else if ramFault then ramFails s i
    else islStep1 (modIsl s i (fun x => { x with late := true })) i)

/-- Words 2 and 3 of a record take the results of its check (Table 8-3). -/
def stamp (ws : List Word) (r : List Word) : List Word :=
  (ws.set 2 (toW (at_ (fld (nth r 2) 31 8) 8))).set 3 (toW (fld (nth r 3) 23 0))

/-- The record of the island's slot is held with the results of its check (R478). -/
def holdSlot (s : State) (i : Isl) (r : List Word) (step : Nat) (clear : Bool) : State :=
  let ws := stamp (trajUsed (slotWords s (ownSlot i))) r
  let k : Shoe := {
    rcd := ws, gen := fld (nth r 3) 23 0, t0 := join64 (nth r 4) (nth r 5), recheck := true, clear := clear, step := step
    reason := 0, source := islSource i, stage := (isl s i).rep.stage }
  modIsl s i (fun x => { x with
    shoe := some k, dsStep := step, dsGen := k.gen, clr := sx 16 (fld (nth r 2) 31 16), first := fld (nth r 2) 15 8
    count := fld (nth r 2) 7 0 })

/-- Adoption of a proposal: the island counts for releases from its next tick (R464), and the ring edges may send (R483). -/
def adoptShoe (s : State) (i : Isl) : State :=
  bothEdge (modIsl s i (fun x => { x with adopted := true })) (fun e => { e with adopted := true })

/-- The reply to the check of slot 9 equals the record's words (step 5), and the record the gate report's CRC (step 6). -/
def candidateOk (s : State) (i : Isl) (r : List Word) : Bool :=
  let ws := trajUsed (slotWords s 9)
  reachesMpl s i && tbit (nth r 0) 8 && fld (nth r 0) 31 24 == 0 && fld (nth r 2) 31 8 == fld (nth ws 2) 31 8 &&
    fld (nth r 2) 7 0 == trajCount ws && fld (nth r 3) 23 0 == fld (nth ws 3) 23 0 && crcW ws == repWord (isl s i) 3

/-- The reply to a check that is out, when it is neither late nor ST_STALE_ALIVE. -/
def checkDone (s : State) (i : Isl) (r : List Word) : State :=
  let clear := tbit (nth r 0) 8
  match (isl s i).step with
  | .idle => s
  | .proposal => if clear then islStep4 (adoptShoe (holdSlot s i r 1 true) i) i else islStep2 s i
  | .reexpress => islStep4 (holdSlot s i r 2 clear) i
  | .candidate =>
    if candidateOk s i r then
      let ws := trajUsed (slotWords s 9)
      modIsl s i (fun x => { x with
        step := .idle
        relOut := some {
          rcd := ws, crc := crcW ws, gen := fld (nth r 3) 23 0, t0 := join64 (nth r 4) (nth r 5), stage := x.rep.stage } })
    else modIsl s i (fun x => { x with step := .idle, mism := true })

/-- A check yields no reply (R479). -/
def checkLost (s : State) (i : Isl) : State :=
  let s := modIsl s i (fun x => { x with timeouts := satAdd 255 x.timeouts 1 })
  match (isl s i).step with
  | .candidate => modIsl s i (fun x => { x with step := .idle })
  | _ => islStep4 (islStep3 s i) i

/-- A further attempt with an alive value, at most 4 in all (R479). -/
def retryCheck (s : State) (i : Isl) (v : BitVec 8) : State :=
  if 4 ≤ (isl s i).tries then checkLost s i
  else modIsl s i (fun x => { x with tries := x.tries + 1, urgSeq := x.urgSeq + 1, aliveNext := v + 1 })

/-- URGENT_REPLY (R478, R479): the oldest reply on its way to an island; it is gone where the way is not open (R30). -/
def execUrgentReply (i : Isl) (roundTripNs : Nat) (s : State) (ramFault : Bool := false) : Out :=
  .next (match (isl s i).urgReply with
    | [] => s
    | r :: rest =>
      let s := modIsl s i (fun x => { x with urgReply := rest })
      let x := isl s i
      if !inSvc x || !hears s i || x.step = .idle || r.length ≠ 8 || !sealOk r || nth r 1 ≠ urgTag x then s
      else if ramFault then ramFails s i
      else
        let s := modIsl s i (fun x => { x with maxns := max x.maxns (min roundTripNs 4095) })
        if fld (nth r 0) 31 24 = stStaleAlive.toNat then retryCheck s i (x.aliveNext - 2) else checkDone s i r)

/-- URGENT_REPLY_TIMEOUT (R479). -/
def execUrgentReplyTimeout (i : Isl) (s : State) (ramFault : Bool := false) : Out :=
  .next (
    let x := isl s i
    if !inSvc x || x.step = .idle then s
    else if ramFault then ramFails s i
    else retryCheck s i x.aliveNext)

/-! At the ring edges (R481). -/

/-- RELEASE_MESSAGE: a release that arrives before the cut-off counts for its stage; a later one is discarded. -/
def execReleaseMessage (e : Edge) (i : Isl) (s : State) : Out :=
  .next (match (isl s i).relOut with
    | none => s
    | some r =>
      let x := edge s e
      if !reaches s i e || x.cutoff || r.stage ≠ x.rep.stage then s
      else modEdge s e (fun x => match i with
        | .sia => { x with relA := some r }
        | .sib => { x with relB := some r }))

/-- DRAG_SHOE_RECORD: a record that arrives after the cut-off is held for the next tick. -/
def execDragShoeRecord (e : Edge) (i : Isl) (s : State) : Out :=
  .next (match (isl s i).shoeOut with
    | none => s
    | some k =>
      let x := edge s e
      if !reaches s i e then s
      else if x.cutoff then modEdge s e (fun x => { x with late := some k })
      else if k.stage ≠ x.rep.stage then modEdge s e (fun x => { x with newest := some k })
      else modEdge s e (fun x => match i with
        | .sia => { x with shoeA := some k, newest := some k }
        | .sib => { x with shoeB := some k, newest := some k }))

/-- An island is in the release set of a ring edge (R481, R464). -/
def inSet (s : State) (e : Edge) (i : Isl) : Bool :=
  let st := match i with
    | .sia => (edge s e).stA
    | .sib => (edge s e).stB
  (isl s i).linkUp && (st == 2 || st == 3) && (isl s i).counts

/-- The reasons of Table 13-15 that apply by one island's view, lowest first. -/
def islReason (x : Island) : Nat :=
  if x.report.isNone then 5
  else if fld (repWord x 0) 31 24 ≠ 0 || !repGated x then 1
  else if !repComplete x then 2
  else if x.mism then 3
  else 4

/-- A re-execution set of the stage under way has not completed (R57). -/
def missedSets (s : State) : Bool := !s.iod.inReset && !s.dis.reexec.isEmpty

/-- The reason a drag shoe of the stage would carry: 5 in the hold of a sudden loss (R631), else the lowest by the islands in service; at most 2 while no placement exists
(R515) or a re-execution set is open (R57). -/
def stageReason (s : State) : Nat :=
  let l := ([isl s .sia, isl s .sib].filter (fun x => inSvc x && x.report.isSome)).map islReason
  if l.isEmpty || s.iod.sudden then 5
  else if (3 ≤ diesOut s && s.tt.active.isSome) || missedSets s then min 2 (l.foldl min 15)
  else l.foldl min 15

/-- What the cut-off ends in the IOD core: moves (R392, R511), a search of the layover (R311). -/
def cutIod (s : State) : State :=
  if !s.iod.inReset && s.stg.inlay && !s.stg.cutoffPast then
    endLate (abandonMoves (setStg s (fun g => { g with cutoffPast := true }))) true
  else s

/-- OUTPUT_CUTOFF: each edge takes its release set (R481), with no release while a re-execution set is open (R57); an island
counts a mismatch that stands (R480); the IOD core ends what missed the cut-off. -/
def execOutputCutoff (s : State) : Out :=
  .next (
    let reason := stageReason s
    let missed := missedSets s
    let cut := fun (s : State) (e : Edge) =>
      if (edge s e).inReset || (edge s e).cutoff then s
      else
        let a := inSet s e .sia
        let b := inSet s e .sib
        modEdge s e (fun x => { x with
          cutoff := true, setA := a, setB := b, reason := reason
          relA := if missed then none else x.relA, relB := if missed then none else x.relB })
    let judge := fun (s : State) (i : Isl) =>
      let x := isl s i
      if !inSvc x || x.cutoff then s
      else
        let s := modIsl s i (fun x => { x with cutoff := true, relOut := if missed then none else x.relOut })
        if x.mism then logOpen (modIsl s i (fun x => { x with disagree := satAdd 65535 x.disagree 1 })) (islUnit i) else s
    cutIod (judge (judge (cut (cut s .a) .b) .sia) .sib))

/-! The stage output (R482-R485, R604, R605). -/

/-- What an edge issues: status, reason, source, recheck, clear, T0, generation, record. -/
structure Output where
  st      : Byte
  reason  : Nat
  source  : Nat
  recheck : Bool
  clear   : Bool
  t0      : Nat
  gen     : Nat
  rcd     : List Word
  deriving DecidableEq, Repr

/-- The released record, when the set is not empty and every island in it delivered the same (R482). -/
def primaryOf (x : RingEdge) : Option Release :=
  match x.setA, x.setB with
  | true, true => match x.relA, x.relB with
    | some a, some b => if a.crc = b.crc then some a else none
    | _, _ => none
  | true, false => x.relA
  | false, true => x.relB
  | false, false => none

def shoeOutput (k : Shoe) (reason source : Nat) (keep : Bool) : Output :=
  { st := stFallbackHeld, reason := reason, source := source, recheck := keep && k.recheck, clear := keep && k.clear
    t0 := k.t0, gen := k.gen, rcd := k.rcd }

/-- The choice of R482; none while the edge has no record to issue. -/
def chooseOutput (x : RingEdge) : Option Output :=
  match primaryOf x with
  | some r => some {
      st := stOk, reason := 0, source := 0, recheck := true, clear := true, t0 := r.t0, gen := r.gen, rcd := r.rcd }
  | none =>
    let reason := if x.cutoff then x.reason else 5
    match (if x.setA then x.shoeA else none), (if x.setB then x.shoeB else none) with
    | some k, _ => some (shoeOutput k reason 1 true)
    | none, some k => some (shoeOutput k reason 2 true)
    | none, none => x.newest.map (fun k => shoeOutput k reason 3 false)

/-- The stage output message (Table 13-14). -/
def outputWords (o : Output) (e : Edge) (a b imm : Bool) (alive : BitVec 8) (stage : Nat) : List Word :=
  sealW ([toW (at_ o.st.toNat 24 + at_ o.reason 20 + at_ o.source 18 + flagAt o.recheck 17 + flagAt o.clear 16 +
      flagAt b 15 + flagAt a 14 + flagAt (e == .b) 13 + flagAt imm 12 + alive.toNat)] ++
    two stage ++ two o.t0 ++ [toW o.gen] ++ o.rcd)

/-- Source addresses of the ports (R605). -/
def portAddr (serial kind p : Nat) : BitVec 48 :=
  BitVec.ofNat 48 (0x024800000000 + kind * 2 ^ 24 + (2 * (serial % 2 ^ 23) + p) % 2 ^ 24)

def edgeNo : Edge → Nat
  | .a => 0
  | .b => 1

/-- The frame header of a stage output (R604): destination, source, tag, EtherType, network byte order. -/
def frameHeader (s : State) (e : Edge) : List Byte :=
  let c := (edge s e).cfg
  let f := nth c 0
  wordBytes (nth c 1) ++ (wordBytes (nth c 2)).take 2 ++ natBe 6 (portAddr (knownSerial s .host) 0x59 (edgeNo e)).toNat ++
    (if tbit f 15 then natBe 2 0x8100 ++ natBe 2 (at_ (fld f 14 12) 13 + fld f 11 0) else []) ++ natBe 2 (fld f 31 16)

/-- Frames leave a port whose bypass is open and whose downstream link is up (R611), and none in a test mode (R522). -/
def mayTransmit (s : State) (e : Edge) : Bool :=
  (edge s e).bypass = 0 && (edge s e).linkup && !(edge s e).inReset && !s.iod.testMode

def transmit (s : State) (e : Edge) (o : Output) (a b imm : Bool) (stage : Nat) : State :=
  if mayTransmit s e then
    let ws := outputWords o e a b imm (edge s e).alive stage
    let h := frameHeader s e
    let s := emit s (.ring e h ws (frameCheck (h ++ framePad h ws)))
    modEdge s e (fun x => { x with alive := x.alive + 1, txcnt := satAdd 0xFFFFFFFF x.txcnt 1 })
  else s

/-- A stage's output is noted: the count of DIAG_COUNTERS, in a restart of the IOD core too (14 R520), the alert while the core
runs, what WB_STATUS reports. The drag shoe of either edge makes the stage's output the drag shoe. -/
def noteOutput (s : State) (stage : Nat) (shoe : Bool) : State :=
  let was := s.dis.outputs.any (fun e => e.1 == stage && e.2)
  let s := setDis s (fun d => { d with
    outputs := (stage, shoe || was) :: d.outputs.filter (fun e => e.1 ≠ stage && stage < e.1 + 32)
    shoeStages := if shoe && !was then satAdd 65535 d.shoeStages 1 else d.shoeStages })
  if shoe && !s.iod.inReset then setHpt s { s.hpt with aFback := true } else s

/-- STAGE_OUTPUT (R482, R483). -/
def stageOutput (s : State) (e : Edge) : State :=
  let x := edge s e
  if !x.adopted then s
  else match chooseOutput x with
    | none => s
    | some o => noteOutput (transmit s e o x.setA x.setB false x.rep.stage) x.rep.stage (o.source ≠ 0)

/-- The stage a replica stands in after its own tick: what was pushed, else the next (R47). -/
def nextRep (rep : StageRep) (push : Option StageRep) : StageRep :=
  match push with
  | some p => p
  | none => { rep with stage := if rep.stage = 0 then 0 else rep.stage + 1 }

/-- SIS_REL and SIS_CNT take the completed stage (Tables 13-22, 13-23), and the island stands at the start of a new one. -/
def islTick (x : Island) : Island :=
  let rel := (releaseNow x).isSome
  let y := if inSvc x then { x with
      released := rel, relReason := if rel then 0 else islReason x, attempts := x.restarts, relStage := x.rep.stage % 65536
      withheld := if rel then x.withheld else satAdd 65535 x.withheld 1 } else x
  { y with
    report := none, step := .idle, late := false, mism := false, restarts := 0, cutoff := false
    counts := x.counts || x.adopted, rep := nextRep x.rep x.push, push := none }

/-- REPLICA_TICK: a replica produces its tick; a ring edge issues the output of the stage that ends (R47, R482). While the IOD
core is down, an island's tick ends the stage for the runs of refusals too (R469). -/
def execReplicaTick (r : Replica) (now : Nat) (s : State) : Out :=
  .next (match r with
    | .edge e =>
      if (edge s e).inReset then s
      else
        let s := stageOutput { s with vtime := max s.vtime now } e
        modEdge s e (fun x => { x with
          relA := none, relB := none, shoeA := none, shoeB := none, newest := x.late.orElse (fun _ => x.newest), late := none
          cutoff := false, setA := false, setB := false, reason := 5, rep := nextRep x.rep x.push, push := none
          ticked := some now })
    | .island i =>
      if (isl s i).inReset then s
      else
        let s := if iodReady s then s else closeRuns s
        modIsl { s with vtime := max s.vtime now } i (fun x => { islTick x with ticked := some now }))

/-- STAGE_REPLICA_PUSH to one replica: values for a stage the replica's own tick has opened already are in force at once, the
others with its tick (R46, R47). -/
def pushNow (rep : StageRep) (ticked : Option Nat) (p : StageRep) (now : Nat) : Bool :=
  p.stage = rep.stage || (ticked.elim false (fun t => now < t + 1000000 && t ≤ now + 1000000))

def takePush (x : StageRep × Option StageRep) (ticked : Option Nat) (p : StageRep) (now : Nat) : StageRep × Option StageRep :=
  if pushNow x.1 ticked p now then (p, none) else (x.1, some p)

/-- The STG pushes to the ring edges, and over them to the islands whose way is open (R30). -/
def pushRep (s : State) (p : StageRep) (now : Nat) : State :=
  let s := bothEdge s (fun x =>
    if x.inReset then x
    else { x with rep := (takePush (x.rep, x.push) x.ticked p now).1, push := (takePush (x.rep, x.push) x.ticked p now).2 })
  forAll s [Isl.sia, .sib] (fun s i =>
    if (isl s i).inReset || !hears s i then s
    else modIsl s i (fun x => { x with
      rep := (takePush (x.rep, x.push) x.ticked p now).1, push := (takePush (x.rep, x.push) x.ticked p now).2 }))

/-- An island orders an immediate drag shoe (R485). -/
def orderImm (s : State) (i : Isl) : State := modIsl s i (fun x => { x with imm := true, immDue := true })

/-- IMMEDIATE_DRAG_SHOE: both ring edges send the newest drag shoe they hold, imm 1 and reason 6 (R485). -/
def execImmediateDragShoe (i : Isl) (s : State) : Out :=
  .next (
    if !(isl s i).immDue then s
    else
      let s := modIsl s i (fun x => { x with immDue := false })
      let s := setDis s (fun d => { d with immShoes := satAdd 65535 d.immShoes 1 })
      let one := fun (s : State) (e : Edge) =>
        let x := edge s e
        match x.newest with
        | none => s
        | some k =>
          if reaches s i e && x.adopted then
            transmit s e (shoeOutput k 6 3 false) (inSet s e .sia) (inSet s e .sib) true x.rep.stage
          else s
      one (one s .a) .b)

/-- CLEARANCE_MISMATCH_LIMIT: three lane disagreements in 1,000 stages (class 0x0E): the islands order an IOD core restart. -/
def execClearanceMismatchLimit (s : State) : Out :=
  .next (if 3 ≤ histCount 1000 s.stg.stage s.mpl.mismStages && (inSvc s.sia || inSvc s.sib) then restartIod s 1 false else s)

/-! Island services (R493). -/

/-- SIS_STAT (Table 13-19). -/
def sisStat (x : Island) : Word :=
  toW (at_ x.other 12 + flagAt x.imm 6 + flagAt x.xmerr 5 + flagAt x.hrerr 4 + x.st)

def sisStatClr (x : Island) (v : Word) : Island :=
  { x with imm := x.imm && !tbit v 6, xmerr := x.xmerr && !tbit v 5, hrerr := x.hrerr && !tbit v 4 }

/-- SIS_DSHOE, SIS_DSCLR, SIS_REL, SIS_CNT, SIS_UCHK (Tables 13-20 to 13-24). -/
def sisDshoe (x : Island) : Word :=
  toW (flagAt x.dsValid 31 + flagAt x.dsRecheck 30 + flagAt x.dsClear 29 + at_ x.dsStep 27 + x.dsGen)
def sisDsclr (x : Island) : Word := toW (at_ (tc 16 x.clr) 16 + at_ x.first 8 + x.count)
def sisRel (x : Island) : Word := toW (flagAt x.released 31 + at_ x.relReason 24 + at_ x.attempts 16 + x.relStage)
def sisCnt (x : Island) : Word := toW (at_ x.withheld 16 + x.disagree)
def sisUchk (x : Island) : Word := toW (at_ x.maxns 20 + at_ x.timeouts 12)

def sisWords (x : Island) : List Word := [sisStat x, sisDshoe x, sisDsclr x, sisRel x, sisCnt x, sisUchk x]

/-- ST_OK, or ST_OK_PARTIAL when a unit is out of service. -/
def partialUnless (all : Bool) : Byte := if all then stOk else stOkPartial

/-- SIS_STATUS. -/
def rowSisStatus : OpDef :=
  opDef (fixedRow 0xC 3 0) (fun s _ =>
    let one := fun (x : Island) => if inSvc x then sisWords x else List.replicate 6 0
    .answer (partialUnless (inSvc s.sia && inSvc s.sib)) (one s.sia ++ one s.sib) s)

def islBit (w : Word) : Isl := if tbit w 31 then .sib else .sia

/-- The reply words of a log read: the entries of a range, newest first. -/
def logRange (l : List (Nat × Entry)) (first count : Nat) : List (Nat × Entry) := (l.drop first).take count

/-- A log read's verdict (Tables 13-18, 14-7; 13 R492). -/
def logVerdict (s : State) (k : Pkt) (i : Isl) (l : List (Nat × Entry)) (first count idx : Nat) : Verdict :=
  let es := logRange l first count
  if k.port ≠ .host && 46 < count then .refuse stBadParam 10 idx
  else if !inSvc (isl s i) then .refuse stNotReady 11 0xFFFF
  else if count = 0 then .answer stOkEmpty [] s
  else .answer (partialUnless (es.length = count)) (es.flatMap entryWords) s

/-- SIS_LOGBOOK. -/
def rowSisLogbook : OpDef :=
  opDef (fixedRow 0xC 5 2) (fun s k =>
    let w := par k 1
    if fld (par k 0) 30 0 ≠ 0 then .refuse stBadParam 10 4
    else if fld w 31 28 ≠ 0 || fld w 15 10 ≠ 0 then .refuse stBadParam 10 5
    else logVerdict s k (islBit (par k 0)) (isl s (islBit (par k 0))).logbook (fld w 27 16) (fld w 9 0) 5)

/-- LOGBOOK_PROGRAM: the oldest waiting Book entry goes into the flash logbook, whose newest 4,096 entries are readable
(R518, Table 14-11). -/
def execLogbookProgram (i : Isl) (s : State) : Out :=
  .next (modIsl s i (fun x => match x.pendBook with
    | [] => x
    | q :: r => if inSvc x then { x with pendBook := r, logbook := (q :: x.logbook).take 4096 } else x))

/-! SIS_FLASH (R493, R545). -/

abbrev integratorBase : Nat := 0x3800000
abbrev integratorSize : Nat := 0x800000

/-- A whole key record (16, after R544). -/
def wholeRecord (bs : List Byte) : Bool :=
  (keyRecord bs).isSome && nthB bs 0x4B == 0 && (bs.drop 0xD0).all (· == 0)

/-- R545: a program into the key sector is accepted. -/
def keyProgramOk (x : Island) (off : Nat) (bs : List Byte) : Bool :=
  off % 256 == 0 && bs.length == 256 && off + 256 ≤ 65536 && (keyBytes x (off / 256)).all (· == 0xFF) && wholeRecord bs &&
    (match keyRecord bs, keyInForce x with
      | some r, some k => r.1 == k.1 + 1 && sigOk k.2.1 k.2.2 (bs.take 0x4C) ((bs.drop 0x4C).take 132)
      | some r, none => r.1 == 1 && ((bs.drop 0x4C).take 132).all (· == 0) &&
          (List.range 256).all (fun i => (keyBytes x i).all (· == 0xFF))
      | none, _ => false)

/-- The parameter checks of SIS_FLASH: word 0, offset, range, count. -/
def flashBad (k : Pkt) : Option Nat :=
  let op := fld (par k 0) 1 0
  let off := parN k 1
  let n := if op = 1 then 65536 else parN k 2
  if fld (par k 0) 30 2 ≠ 0 || op = 0 || op = 3 then some 4
  else if off % (if op = 1 then 65536 else 4) ≠ 0 || integratorSize < off + n then some 5
  else if 256 < parN k 2 then some 6
  else none

def flashLen (k : Pkt) : Bool := 3 ≤ pktLen k && parN k 2 == 4 * (pktLen k - 3)

/-- Starts an operation on an island's flash. -/
def startFlash (s : State) (k : Pkt) (bs : List Byte) : Verdict :=
  let i := islBit (par k 0)
  if !inSvc (isl s i) || (isl s i).flashOp.isSome then .refuse stNotReady 11 0xFFFF
  else if fld (par k 0) 1 0 = 2 && bs.isEmpty then .answer stOkEmpty [] s
  else .later (.flash i) (modIsl s i (fun x => { x with
    flashOp := some (fld (par k 0) 1 0, integratorBase + parN k 1, bs) }))

def isErase (k : Pkt) : Bool := fld (par k 0) 1 0 == 1

/-- SIS_FLASH, erase. -/
def rowSisFlashErase : OpDef :=
  opDef { cls := 0xC, op := 4, sel := isErase, lenIdx := 6, lenOk := flashLen } (fun s k =>
    match flashBad k with
    | some i => .refuse stBadParam 10 i
    | none => if parN k 1 < 65536 then .refuse stFirewall 10 5 else startFlash s k (List.replicate 65536 0xFF))

/-- SIS_FLASH, program; operations 0 and 3 are refused here. -/
def rowSisFlashProgram : OpDef :=
  opDef { cls := 0xC, op := 4, sel := fun k => !isErase k, lenIdx := 6, lenOk := flashLen } (fun s k =>
    let bs := (wordsBytes (parsFrom k 3)).take (parN k 2)
    match flashBad k with
    | some i => .refuse stBadParam 10 i
    | none =>
      if parN k 1 < 65536 && !keyProgramOk (isl s (islBit (par k 0))) (parN k 1) bs then .refuse stFirewall 10 5
      else startFlash s k bs)

/-- FLASH_OPERATION_END: the bytes stand in the flash, and the deferred reply carries their number. -/
def execFlashOperationEnd (i : Isl) (s : State) : Out :=
  .next (match (isl s i).flashOp with
    | none => s
    | some (_, off, bs) =>
      completeDefers (modIsl s i (fun x => { x with flashOp := none, flash := memWr x.flash off bs })) (.flash i) stOk
        [toW bs.length])

end Sys2Proof.Machine
end

