-- ==== Sys2Proof/Machine/Faults.lean ====
section
/-! DEFINITION. The fault events that name a unit of the module, the notices of the management ports, and the diagnostic and
token opcodes (14 R495, R500, R512, R513, R520-R522). -/

namespace Sys2Proof.Machine

/-! Faults of units (Table 14-1). -/

/-- An island in service orders the resets of Table 14-1. -/
def anyIsl (s : State) : Bool := inSvc s.sia || inSvc s.sib

/-- IOD_CORE_FAULT: alive messages missing on both island links; the islands order the restart (class 0x0B). -/
def execIodCoreFault (s : State) : Out := .next (if !s.iod.inReset && anyIsl s then faultIod s else s)

/-- RING_EDGE_FAULT: the edge's alive messages are missing; its reset is ordered and its bypass closes (class 0x0C). -/
def execRingEdgeFault (e : Edge) (s : State) : Out :=
  .next (if (edge s e).inReset || !anyIsl s then s
    else resetEdge (logF s { cls := 0x0C, unit := edgeUnit e, reaction := 5 }) e)

/-- The settings of an ORP that the active timetable carries (17 R614): none when it carries no settings for the port. -/
def orpSettings (s : State) (e : Edge) : List Word :=
  match s.tt.active with
  | none => []
  | some t => match e with
    | .a => t.body.orpA
    | .b => t.body.orpB

/-- The ORP takes the timetable's settings again (R614). -/
def loadOrp (s : State) (e : Edge) : State :=
  if orpSettings s e = [] then s
  else modEdge s e (fun x => { x with cfg := orpSettings s e, shadow := orpSettings s e })

/-- What the STG pushes with a tick (R46, R47). -/
def pushed (g : Stg) : StageRep :=
  { period := timP g.timing, layover := timL g.timing, cutoff := timC g.timing, stage := g.stage, profile := stgProfile g }

/-- The stage a unit finds when it returns between two ticks: the STG's, or that of an island in service while the IOD core is
down (R47). -/
def repNow (s : State) : StageRep :=
  if iodReady s then pushed s.stg else if inSvc s.sia then s.sia.rep else if inSvc s.sib then s.sib.rep else {}

/-- RING_EDGE_READY: a reset edge is ready again; the replies of its reset go out. -/
def execRingEdgeReady (e : Edge) (s : State) : Out :=
  .next (if !(edge s e).inReset then s
    else completeDefers (loadOrp (modEdge s e (fun x => { x with inReset := false, rep := repNow s })) e) (.rstEdge e) stOk [])

/-- SUPPLY_FAULT: power-good of two or more dies or of the IOD core rail is lost at once (class 0x18): the immediate drag shoe,
then each unit as class 0x0A or 0x0B. -/
def execSupplyFault (dies : BitVec 12) (iod : Bool) (s : State) : Out :=
  .next (
    let named := dieList.filter (fun n => dies.getLsbD n.val)
    if !iod && named.length < 2 then s
    else
      let s := logF s { cls := 0x18, unit := unitModule, reaction := 6 }
      let s := forAll s [Isl.sia, .sib] (fun s i => if inSvc (isl s i) then orderImm s i else s)
      let s := forAll s (named.filter (fun n => dieInSvc s n.val)) (fun s n => loseDie s n true 5)
      if iod && !s.iod.inReset && anyIsl s then faultIod s else s)

/-- Timeouts of one unit in the stage under way. -/
def timeoutsOf (s : State) (u : UnitId) : Nat :=
  (s.dis.timeoutLog.filter (fun e => e.1 == u && e.2 == s.stg.stage)).length

/-- The oldest halo message to a die whose way is not open ends, and its sender's descriptor completes with ST_INTERNAL
(R502). With the links it came by. -/
def dropFlight (s : State) (n : DieId) : Option (List LinkId) × State :=
  match s.flight.find? (fun f => f.2.1 == n && !wayOpen s (flightWay s f)) with
  | none => (none, s)
  | some f => (some (flightWay s f).links, failDesc { s with flight := s.flight.erase f } f.1)

/-- An engine whose next descriptor lies in a die that its fetch cannot reach. -/
def fetchStuck (s : State) (g : EngId) (n : DieId) : Bool :=
  let q := serveQueue s g
  let t := turnTo s g
  engReady s g && (eng s g).cur.isNone && queueReady t.2 g q && (hbmRange (slotAddr (queue t.2 q) (queue t.2 q).head) 64).any (fun a =>
    a.1 == n && !wayOpen (settleFor t.2 (.engine g) (.die n 14)) (wayOf (settleFor t.2 (.engine g) (.die n 14)) (.engine g) (.die n 14)))

/-- The fetch that such an engine has waiting ends: the descriptor, of which no word has come, completes with ST_INTERNAL (R502).
Its words are then those that its ring holds. -/
def dropFetch (s : State) (n : DieId) : Option (List LinkId) × State :=
  match engList.find? (fun g => fetchStuck s g n) with
  | none => (none, s)
  | some g =>
    let (q, t) := turnTo s g
    match hbmRange (slotAddr (queue t q) (queue t q).head) 64 with
    | none => (none, s)
    | some (_, o) =>
      let ws := bytesWords (memRd (die t n).hbm o 64)
      (some (wayOf t (.engine g) (.die n 14)).links, engDone (startDesc t g q ws) g stInternal ws false)

/-- The oldest transaction that waits at a stack completes with ST_INTERNAL: a read, or a write whose acknowledgement is owed;
where none waits, a halo message or a descriptor fetch that cannot get there. -/
def dropAtDie (s : State) (n : DieId) : Option (List LinkId) × State :=
  let m := mct s n
  let read := fun (r : HeldRead) =>
    (some r.path, emit (modMct s n (fun m => { m with reads := m.reads.erase r })) (.fabric r.livery stInternal []))
  let write := fun (w : PendWrite) =>
    (some w.path, failWrite (modMct s n (fun m => { m with
      writes := m.writes.map (fun x => if x = w then { x with owed := false } else x) })) w)
  match m.reads.head?, (if m.compat then m.writes.find? (fun w => w.owed) else none) with
  | none, none => let r := dropFlight s n; if r.1.isSome then r else dropFetch s n
  | some r, none => read r
  | none, some w => write w
  | some r, some w => if r.seq < w.seq then read r else write w

/-- The oldest access under way at an island's memories completes with ST_INTERNAL. -/
def dropPiece (s : State) (i : Isl) : Option (List LinkId) × State :=
  match (isl s i).pieces with
  | [] => (none, s)
  | a :: rest => (some (wayOf s a.src (pieceTarget i)).links,
      emit (modIsl s i (fun x => { x with pieces := rest })) (.fabric a.livery stInternal []))

/-- The earlier of two held writes. -/
def elder (a : Option HeldWrite) (b : HeldWrite) : Option HeldWrite :=
  match a with
  | none => some b
  | some a => some (if b.born < a.born then b else a)

/-- The oldest write held at the planner or the fusion engine completes with ST_INTERNAL. -/
def dropHeldOne (s : State) : Option (List LinkId) × State :=
  match (heldWrites s).foldl elder none with
  | none => (none, s)
  | some w => (some w.path, failHeldWrite (dropHeldWrites s (fun x => x == w)) w)

/-- The oldest transaction that waits at a unit completes with ST_INTERNAL; with the links it came by. -/
def dropOldest (s : State) : UnitId → Option (List LinkId) × State
  | .die n => dropAtDie s n
  | .island i => dropPiece s i
  | .iod => dropHeldOne s
  | _ => (none, s)

/-- A transaction times out (R500): the entry names the target's unit; the second to one die in one stage is its loss, the
second to the IOD core its fault. -/
def timeOut (s : State) (u : UnitId) : State :=
  let s := setDis s (fun d => { d with
    timeouts := satAdd 0xFFFFFFFF d.timeouts 1, timeoutLog := (u, s.stg.stage) :: d.timeoutLog })
  let s := logF s { cls := 0x09, unit := unitNum u, status := stInternal }
  match u with
  | .die n => if 2 ≤ timeoutsOf s u && dieInSvc s n then loseDie s n true 5 else s
  | .iod => if 2 ≤ timeoutsOf s u && !s.iod.inReset && anyIsl s then faultIod s else s
  | _ => s

/-- The timer reports a transaction that the link layer has ended: an entry of kind consequential, and nothing else (R501). -/
def noteLate (s : State) (u : UnitId) (e : Ended) : State :=
  logF { s with dis := { s.dis with ended := s.dis.ended.erase e } }
    { cls := 0x09, unit := unitNum u, status := stInternal, kind := some 3 }

/-- FABRIC_TIMEOUT: the oldest transaction that waits at the unit times out (R500). Where the report is that of one which the link
layer has ended before (`late`), or none waits and there is one, it makes an entry and has no further effect (R501). -/
def execFabricTimeout (u : UnitId) (s : State) (late : Bool := false) : Out :=
  .next (
    let r := dropOldest s u
    match s.dis.ended.find? (fun e => e.byLink && e.unit == u && (late || r.1.isNone)) with
    | some e => noteLate s u e
    | none => match r with
      | (none, t) => timeOut t u
      | (some p, t) => timeOut (noteEnded t [{ unit := u, path := p, byLink := false }]) u)

/-! Notices (R512, R513). -/

/-- The words of a notice (R512). -/
def noticeWords (q : Nat × Entry) (ctr : Nat) : List Word :=
  sealW ([toW (at_ 8 16 + 0xAC), 0, toW (at_ ctr 16 + at_ q.2.status.toNat 8), 0xFFFFFFFF] ++ entryWords q)

/-- MGT_NOTICE: the oldest Book entry that has not been sent. -/
def execMgtNotice (i : Isl) (s : State) : Out :=
  .next (match (isl s i).notices with
    | [] => s
    | q :: r => if inSvc (isl s i) then mgtSend (modIsl s i (fun x => { x with notices := r })) i (noticeWords q) else s)

/-- A decision of the fault manager is due for a die or for an engine of it, or a coupling to its successor waits for the reset
of a die (R510, Table 14-2). -/
def decisionDue (s : State) (n : DieId) (link : Bool) : Option (Fin 8) → Bool
  | none => if link then (die s n).scfailed else (die s n).decision
  | some m => !link && (eng s (8 * n.val + m.val)).wdrawPerm

/-- DECISION_DUE_NOTICE: an entry of class 0x16 naming the unit, which goes out as a notice (R513). -/
def execDecisionDueNotice (u : UnitId) (te : Option (Fin 8)) (s : State) (link : Bool := false) : Out :=
  .next (match u with
    | .die n =>
      if decisionDue s n link te then
        logF s { cls := 0x16, unit := n, sub := te.elim (if link then 0x11 else 0xFF) (fun m => m.val), reaction := 8 }
      else s
    | _ => s)

/-! Diagnostic opcodes (Table 14-7). -/

/-- DIAG_LOG_READ. Where the island finds a record of its RAM that fails its check, it is no longer in service (R465). -/
def rowDiagLogRead (ramFault : Bool) : OpDef :=
  opDef (fixedRow 0xC 0 3) (fun s k =>
    if fld (par k 0) 30 0 ≠ 0 then .refuse stBadParam 10 4
    else if 16383 < parN k 1 then .refuse stBadParam 10 5
    else if 2046 < parN k 2 then .refuse stBadParam 10 6
    else
      match logVerdict s k (islBit (par k 0)) (isl s (islBit (par k 0))).flog (parN k 1) (parN k 2) 6 with
      | .answer st data t =>
        if ramFault && data ≠ [] then .answer stNotReady [execDetail] (ramFails t (islBit (par k 0))) else .answer st data t
      | v => v)

/-- The state of a die in DIAG_COUNTERS (Table 14-8). -/
def dieState (d : Die) : Nat :=
  if d.retired then 3 else if d.excluded then 4 else if d.decision then 2 else if d.inService then 0 else 1

/-- Withdrawals of a die's engines within the window. -/
def dieWithdrawals (s : State) (n : Nat) : Nat :=
  ((List.range 8).map (fun m => histCount 100000 s.stg.stage (eng s (8 * n + m)).wdrawAt)).sum

def dieWord (s : State) (n : Nat) : Word :=
  let d := die s n
  toW (at_ (dieState d) 28 + at_ (min 255 (histCount 100000 s.stg.stage d.lossAt)) 16 + at_ (min 255 (dieWithdrawals s n)) 8 +
    d.failedRetrains)

/-- The words of DIAG_COUNTERS (Table 14-8). -/
def counterWords (s : State) : List Word :=
  [lo32 s.stg.stage, toW s.sia.flogCnt, toW s.sib.flogCnt, toW (at_ s.dis.shoeStages 16 + s.dis.immShoes),
    toW (at_ s.dis.reexecRun 16 + s.dis.iodRestarts), toW s.dis.timeouts] ++
  (List.range 12).map (dieWord s) ++ (List.range 12).map (fun n => lnkRetry (die s n)) ++
  (List.range 12).map (fun n => mctEcc (mct s n)) ++ (List.range 96).map (fun g => teChkstat (eng s g))

/-- DIAG_COUNTERS. -/
def rowDiagCounters : OpDef :=
  opDef (fixedRow 0xC 1 0) (fun s k =>
    if needsIod s k then .refuse stNotReady 11 0xFFFF else .answer stOk (counterWords s) s)

/-- DIAG_SELFTEST. -/
def rowDiagSelftest : OpDef :=
  opDef (fixedRow 0xC 2 0) (fun s k =>
    if needsIod s k then .refuse stNotReady 11 0xFFFF
    else .answer (partialUnless (dieList.all (fun n => dieInSvc s n.val)))
      ((List.range 96).map (fun g => if dieInSvc s (dieOf g) then teStest s.stg.stage (eng s g) else 0)) s)

/-! SEC_TOKEN (R521, R522). -/

/-- The vendor test key of the per-unit record (Table 16-2). -/
def testKey (x : Island) : Nat × Nat := pointKey (memRd x.flash 0xA4 132)

/-- The first parameter word that differs from the one expected. -/
def firstDiff : List Word → List Word → Nat → Option Nat
  | a :: r, b :: t, i => if a = b then firstDiff r t (i + 1) else some i
  | _, _, _ => none

/-- A nonce as words. -/
def nonceWords (n : Nat) : List Word := bytesWords (natLe 16 n)

/-- The refusal of a token, or none when the device enters the test mode (R521). -/
def tokenRefusal (s : State) (k : Pkt) : Option (Byte × Nat × Nat) :=
  if parN k 0 = 0 then some (stBadParam, 10, 4)
  else match firstDiff ((parsFrom k 1).take 2) (two (knownSerial s k.port)) 5 with
    | some i => some (stFirewall, 10, i)
    | none =>
      match servingIsl s k.port with
      | none => some (stNotReady, 11, 0xFFFF)
      | some i =>
        let x := isl s i
        match x.nonce.elim (some 7) (fun n => firstDiff ((parsFrom k 3).take 4) (nonceWords n) 7) with
        | some j => some (stFirewall, 10, j)
        | none =>
          if s.sia.st ≠ 2 || s.sib.st ≠ 2 || s.tt.active.isSome then some (stNotReady, 11, 0xFFFF)
          else if sigOk (testKey x).1 (testKey x).2 (wordsBytes ((parsFrom k 0).take 7)) (wordsBytes ((parsFrom k 7).take 33)) then
            none
          else some (stBadCheck, 0, 0xFFFF)

/-- SEC_TOKEN: every token makes a class 0x17 entry; an accepted one enters the test mode, in which both bypasses close. -/
def rowSecToken : OpDef :=
  opDef (fixedRow 0xA 4 40) (fun s k =>
    let entry := fun (st : Byte) => logF s { cls := 0x17, unit := unitModule, status := st }
    match tokenRefusal s k with
    | some r => .refuseIn r.1 r.2.1 r.2.2 (entry r.1)
    | none =>
      let t := bothEdge (entry stOk) (fun e => moveBypass e true)
      .answer stOk [] { t with iod := { t.iod with testMode := true } })

end Sys2Proof.Machine
end

