-- ==== Sys2Proof/Machine/Startup.lean ====
section
/-! DEFINITION. Start-up, restarts and the resets of RST_UNIT (16 R540-R549, R563-R565, R568, R570; 14 R486, R487, R510,
R514, R515; 02 R78, R84, R85). -/

namespace Sys2Proof.Machine

/-! Pads (R541, R546). -/

/-- POWER_GOOD: PORST_N rises; the IOD core samples its straps (R541). -/
def execPowerGood (ref hptv pce : Bool) (s : State) : Out :=
  .next (if s.iod.porst then s
    else { s with iod := { s.iod with
      porst := true, cause := 0, straps := BitVec.ofNat 4 (flagAt pce 2 + flagAt hptv 1 + flagAt ref 0) } })

/-- A die held in reset from the pad: its stack and registers as after any reset. -/
def padDie (s : State) (n : DieId) : State :=
  let s := resetDie s n
  modDie s n (fun d => { d with inReset := true, mct := { d.mct with st := 0 } })

/-- LNK_STAT of a die at its reset value (Table 1-13). -/
def clearDown (s : State) (n : DieId) : State := modDie s n (fun d => { d with spdown := false, scdown := false, pcdown := false })

/-- PORST_ASSERT: the IOD core and the compute dies enter reset; the epoch, the commanded closes, the test mode and the clock
settings end (03 R105; 14 R522; 17 R613). -/
def execPorstAssert (s : State) : Out :=
  .next (
    let s := forAll (forAll s dieList (fun s n => forAll s (dieLinks n) dropLink)) dieList padDie
    let s := forAll (resetIod s 0) dieList clearDown
    let s := bothEdge s (fun e => { e with held := false })
    { s with
      hpt := {}, tt := {}, clk := { xready := s.clk.xready }
      iod := { s.iod with porst := false, testMode := false } })

/-! Islands (R540-R543, R568, R570). -/

/-- Bases of firmware slots in the flash (Table 16-3). -/
def islSlot (b : Bool) : Nat := if b then 0x900000 else 0x100000
def iodSlot (b : Bool) : Nat := if b then 0x2100000 else 0x1100000

/-- A word of a firmware image's header (Table 16-10). -/
def imageWord (x : Island) (base off : Nat) : Word := toW (leNat (memRd x.flash (base + off) 4))

/-- The vendor firmware key of the per-unit record (Table 16-2). -/
def firmwareKey (x : Island) : Nat × Nat := pointKey (memRd x.flash 0x20 132)

/-- R568 for the image in a slot of an island's flash. -/
def imageOk (x : Island) (target base len : Nat) : Bool :=
  let img := memRd x.flash base len
  let w := fun o => leNat ((img.drop o).take 4)
  img.take 4 == [0x48, 0x58, 0x46, 0x57] && leNat ((img.drop 4).take 2) == (if target = 2 then 2 else 1) &&
    leNat ((img.drop 6).take 2) == 0x0142 && w 0x10 == len && 132 ≤ len &&
    (if target = 2 then x.minIod else x.minIsl) ≤ w 8 &&
    sigOk (firmwareKey x).1 (firmwareKey x).2 (img.take (len - 132)) (img.drop (len - 132))

def slotSize (target : Nat) : Nat := if target = 2 then 0x1000000 else 0x800000

/-- R568 for the image that a slot holds, of the length its own header gives. -/
def slotOk (x : Island) (target base : Nat) : Bool :=
  let len := (imageWord x base 0x10).toNat
  len ≤ slotSize target && imageOk x target base len

/-- The slot that starts: the one the state record names, then the other; and how many have failed (R568). -/
def pickSlot (ok : Bool → Bool) (rec_ : Bool) : Option Bool × Nat :=
  if ok rec_ then (some rec_, 0) else if ok (!rec_) then (some (!rec_), 1) else (none, 2)

/-- The unit boots a slot; a trial of the slot its record names ends where that slot does not verify (R568, R576). -/
def bootFrom (f : Fw) (sl : Bool) : Fw := { (if sl = f.recB then f else trialBack f) with slotB := sl }

/-- The version of a running island image, which SYS_IDENTITY reports. -/
def setVersion (s : State) (i : Isl) (v : Word) : State :=
  { s with iod := match i with
    | .sia => { s.iod with verSia := v }
    | .sib => { s.iod with verSib := v } }

/-- The thresholds of THM_LVL are the same in both islands. -/
def shareLevels (x other : Island) : Island :=
  if inSvc other then { x with lvl1 := other.lvl1, lvl2 := other.lvl2, lvl3 := other.lvl3 } else x

/-! The per-unit data record (Table 16-2). -/

/-- Its length L. -/
def recordLen (x : Island) : Nat := 16 * leNat (memRd x.flash 6 2)

/-- R543: an island's copy verifies under a root key. -/
def recordOk (root : Nat × Nat) (x : Island) : Bool :=
  let len := recordLen x
  let bs := memRd x.flash 0 (min 65536 len)
  bs.take 4 == [0x48, 0x58, 0x55, 0x44] && leNat ((bs.drop 4).take 2) == 1 && 0x2230 + 132 ≤ len && len ≤ 65536 &&
    leNat ((bs.drop 0x10).take 2) == 0x0142 && ((bs.drop 0x12).take 14).all (· == 0) &&
    sigOk root.1 root.2 (bs.take (len - 132)) (bs.drop (len - 132))

/-- The identity public key that the record gives an island. -/
def recordIdKey (x : Island) (i : Isl) : List Byte :=
  memRd x.flash (match i with
    | .sia => 0x128
    | .sib => 0x1AC) 132

/-- An entry that an island makes while it boots reaches its own log too. -/
def logBoot (s : State) (i : Isl) (f : Fact) : State :=
  let st := (isl s i).st
  modIsl (logF (modIsl s i (fun x => { x with st := 2 })) f) i (fun x => { x with st := st })

/-- The island's own copy of the record is restored from the other's, L bytes long (R543). -/
def fixRecord (s : State) (i : Isl) : State :=
  let y := isl s (otherIsl i)
  let s := modIsl s i (fun x => { x with flash := memWr x.flash 0 (memRd y.flash 0 (recordLen y)), recfix := true })
  logBoot s i { cls := 0x0D, unit := islUnit i }

/-- The island verifies its record under the root key of its ROM, or the other's in its place. -/
def checkRecord (s : State) (i : Isl) : State :=
  let good := fun (s : State) => modIsl s i (fun x => { x with recok := true })
  let ok := recordOk (isl s i).rom
  if ok (isl s i) then good s else if ok (isl s (otherIsl i)) then good (fixRecord s i) else s

/-- The failed slots of a start: the flag and an entry for each (R568). -/
def noteSlots (s : State) (f : State → State) : Nat → State
  | 0 => s
  | n + 1 => noteSlots (f s) f n

/-- The island starts the first valid slot; a trial whose slot is not the one that starts has ended (R568, R576). -/
def bootIsl (s : State) (i : Isl) : State :=
  let x := isl s i
  let p := pickSlot (fun b => slotOk x 0 (islSlot b)) x.fw.recB
  let s := noteSlots s (fun s => logBoot (modIsl s i (fun x => { x with fwfail := true })) i { cls := 0x0D, unit := islUnit i }) p.2
  match p.1 with
  | none => modIsl s i (fun x => { x with fw := trialBack x.fw })
  | some sl =>
    let s := modIsl s i (fun x => { x with boots := true, fw := bootFrom x.fw sl })
    setVersion s i (imageWord (isl s i) (islSlot sl) 8)

/-- ISLAND_RESET_RELEASE: the island boots over its record, its identity key and a firmware slot; it stays in BOOT where one of
them does not hold. STRAP_MGTM is sampled where the reset pad rises, not after a reset by the other island (R541). -/
def execIslandResetRelease (i : Isl) (b : BootFacts) (s : State) : Out :=
  .next (
    if !(isl s i).inReset then s
    else
      let s := modIsl s i (fun x => shareLevels
        { x with inReset := false, st := 1, boots := false, mgtm := if x.padLow then b.mgtm else x.mgtm, padLow := false }
        (isl s (otherIsl i)))
      let s := checkRecord s i
      if (isl s i).recok && recordIdKey (isl s i) i == b.idKey then bootIsl s i else s)

/-- ISLAND_RESET_ASSERT: the island's reset pad falls. -/
def execIslandResetAssert (i : Isl) (s : State) : Out :=
  .next (
    let s := if (isl s i).inReset then s else modIsl (resetIsl s i) (otherIsl i) (fun x => withOther x 0)
    modIsl s i (fun x => { x with padLow := true }))

/-- The packets of an island's own management port are not answered after its reset (R643). -/
def dropOwn (s : State) (i : Isl) (k : DefKind) : State :=
  setDis s (fun d => { d with defers := d.defers.filter (fun q => !(q.what == k && q.pkt.port == .mgt i)) })

/-- ISLAND_ACTIVE: the verified firmware runs (Table 16-4, step 2; R464); the replies that waited for it go out, that of
SEC_FW_ACTIVATE with ST_BAD_CHECK where the new slot did not boot. -/
def execIslandActive (i : Isl) (s : State) : Out :=
  .next (
    let x := isl s i
    if x.inReset || !x.boots || x.st ≠ 1 then s
    else
      let s := modIsl s i (fun x => { x with
        st := if inSvc (isl s (otherIsl i)) then 2 else 3, rep := if x.rep.stage = 0 then repNow s else x.rep })
      let s := completeDefers s (.rstIsl i) stOk []
      let s := dropOwn s i (.fwIsl i)
      if x.fw.trial.isSome then completeDefers s (.fwIsl i) stOk [] else completeDefers s (.fwIsl i) stBadCheck [execDetail])

/-! The IOD core (Table 16-4, steps 3 and 6). -/

/-- The island that loads the IOD image: SIA, or SIB when SIA is not in service. -/
def loadIsl (s : State) : Option Isl := servingIsl s .host

/-- The QMG and the SYN read READY: neither in reset nor restarting (R398, R424). -/
def readyCores (s : State) : State :=
  { s with qmg := { s.qmg with ready := true }, syn := { s.syn with ready := true } }

/-- Every island in service verifies the IOD slot in its own flash, and finds the SHA-512 of the image that is loaded equal to
that of its own (step 3, R568). -/
def iodSlotOk (s : State) (loader : Isl) (b : Bool) : Bool :=
  let img := fun (x : Island) => sha512 (memRd x.flash (iodSlot b) (imageWord x (iodSlot b) 0x10).toNat)
  [isl s .sia, isl s .sib].all (fun x => !inSvc x || (slotOk x 2 (iodSlot b) && img x == img (isl s loader)))

/-- The IOD core leaves reset with the image of a slot. At power-good the ring edges leave reset with it and every clock group
runs from XREF. -/
def startIod (s : State) (i : Isl) (sl : Bool) : State :=
  let x := isl s i
  let s := { s with iod := { s.iod with
    inReset := false, running := true, serial := recordSerial x
    verIod := imageWord x (iodSlot sl) 8, fw := bootFrom s.iod.fw sl } }
  if s.iod.cause = 0 then
    bothEdge (readyCores { s with clk := { s.clk with src := [] } }) (fun e => { e with inReset := false })
  else s

/-- IOD_RESET_RELEASE: the islands in service have verified a slot, the one the state record names first, and loaded it (R568).
A slot that fails is entered; with none valid a trial has ended and the core stays in reset (R576). -/
def execIodResetRelease (slotB : Bool) (s : State) : Out :=
  .next (
    if !s.iod.inReset || !s.iod.porst || s.iod.sudden || s.iod.thermal then s
    else match loadIsl s with
      | none => s
      | some i =>
        let p := pickSlot (iodSlotOk s i) s.iod.fw.recB
        if p.1.elim false (fun b => b != slotB) then s
        else
          let s := noteSlots s (fun s => logF (bothIsl s (fun x => if inSvc x then { x with fwfail := true } else x))
            { cls := 0x0B, unit := unitIod }) p.2
          match p.1 with
          | none => { s with iod := { s.iod with fw := trialBack s.iod.fw } }
          | some sl => startIod s i sl)

/-- COMPUTE_PAIR_RELEASE: CDi and CD(i + 6) leave reset together (step 4); their controllers train. -/
def execComputePairRelease (i : Fin 6) (s : State) : Out :=
  .next (if s.iod.inReset then s
    else forAll s [(i.val : Nat), i.val + 6] (fun s n =>
      if (die s n).inReset && !dieHeld s n then
        modDie s n (fun d => { d with inReset := false, mct := { d.mct with st := 1 } })
      else s))

/-- MCT_TRAINING_END: the stack is trained, written with zeros, and the MCT is READY. -/
def execMctTrainingEnd (n : DieId) (s : State) : Out :=
  .next (if (die s n).inReset || (mct s n).st ≠ 1 then s
    else modDie s n (fun d => { d with
      hbm := {}, mct := { d.mct with st := 2, writes := [], reads := [], flaws := [], badRead := [], scrubbed := [] } }))

/-- Where the active timetable's image lies in a stack. -/
def imageBase (t : Timetable) (n : DieId) : Option Nat :=
  ((t.image.find? (fun e => e.1 == n)).map (·.2)).orElse (fun _ => (t.body.perStack.find? (fun r => r.die == n)).map (·.image))

/-- The active timetable's image is copied into a die's stack from the next stack in service along the ring (R78, R486). -/
def restoreImage (s : State) (n : DieId) : State :=
  let s := modDie s n (fun d => { d with imageOk := true })
  match s.tt.active with
  | none => s
  | some t =>
    match ((List.range 11).map (fun i => dieAt (ringPos n + 1 + i))).find? (fun m => dieInSvc s m.val) with
    | none => s
    | some m =>
      match imageBase t m, imageBase t n with
      | some a, some b =>
        let r := hbmTake s m 0x01 a t.figs.len
        hbmSet r.2 n 0x01 b r.1
      | _, _ => s

/-- The engines of a die that has passed its full self-test stand idle. -/
def wakeEngines (s : State) (n : DieId) : State :=
  forAll s (engList.filter (fun (g : EngId) => dieOf g.val == n.val)) (fun s g =>
    modEng s g (fun e => { e with st := if e.retired then 5 else if e.st = 0 then 1 else e.st, withdrawn := e.withdrawn || e.retired }))

/-- Start-up has not ended: the first opening of the host port since power-on is still to come. -/
def startingUp (s : State) : Bool := !s.iod.ready && s.iod.cause == 0

/-- A coupling has trained, or cannot: its other die is in reset, or it has failed and waits for a reset (Table 14-2). -/
def linkSettled (s : State) (l : LinkId) : Bool := linkActive s l || !linkPowered s l

/-- DIE_READY: PLLs locked, MCT READY, the engines' full self-test passed, spine and couplings trained (step 5). During
start-up the die enters service unless it is retired (14 R514), or misses its bound with an entry of class 0x0A; later it is
ready for re-admission (R486), or, where its self-test has not passed, a decision is due for it (R510). -/
def execDieReady (n : DieId) (ok : Bool) (s : State) : Out :=
  .next (
    let d := die s n
    if d.inReset || d.inService || d.readyRe || d.missed || d.excluded || (startingUp s && s.iod.inReset) then s
    else if !ok then
      if startingUp s then logF (modDie s n (fun d => { d with missed := true })) { cls := 0x0A, unit := n, reaction := 4 }
      else modDie s n (fun d => { d with decision := true })
    else if d.mct.st ≠ 2 || !d.spup || !(linkSettled s (.coupling n) && linkSettled s (.coupling (predDie n))) then s
    else
      let s := wakeEngines s n
      if startingUp s then modDie s n (fun d => { d with inService := !d.retired, readyRe := d.retired })
      else completeDefers (restoreImage (modDie s n (fun d => { d with readyRe := true })) n) (.rstDie n) stOk [])

/-- The port becomes ready (03 R105) and the blocks of the IOD core accept work; QMG and SYN do so before it (10 R398, 11
R424). -/
def openPort (s : State) : State :=
  let s := readyCores s
  let s := { s with
    iod := { s.iod with ready := true, running := true }
    mpl := { s.mpl with st := 1 }, fus := { s.fus with ready := true }, kpm := { s.kpm with ready := true } }
  setHpt s { s.hpt with ready := true, epoch := s.hpt.epoch + 1, alive := [], replies := 0, aReady := true }

/-! Clock groups (R555-R557). -/

/-- The first ready source in the order REC0, REC1, XREF; 3 for none (R556, R557). -/
def firstReady (c : Clk) : Nat := if c.r0ready then 0 else if c.r1ready then 1 else if c.xready then 2 else 3

def groupList : List (Fin 13) := List.finRange 13

/-- A group's source changes: its ramp starts, or starts again (R555). A group that goes into holdover holds its PLLs; a ramp
that runs goes on to its end. -/
def moveGroup (c : Clk) (g : Fin 13) (src : Nat) : Clk :=
  if clkSrc c g = src then c
  else { c with
    src := bankSet 2 c.src g src
    ramp := if src = 3 then c.ramp else addNew g c.ramp }

/-- The IOD firmware moves every group to the first ready source before the port is ready (step 6); with none ready nothing
moves. -/
def settleClocks (c : Clk) : Clk := if firstReady c = 3 then c else groupList.foldl (fun c g => moveGroup c g (firstReady c)) c

/-- PORT_READY: every die is ready or out of service, and HPT_STAT.ready becomes 1 (step 6). -/
def execPortReady (s : State) : Out :=
  .next (if s.iod.inReset || !startingUp s then s
    else if dieList.all (fun n => (die s n).inService || (die s n).missed || (die s n).retired || dieHeld s n) then
      openPort { s with clk := settleClocks s.clk }
    else s)

/-! What a timetable sets when it becomes active. -/

/-- The dies that hold the copies of the queue context table: the registers' reset values, or the next die in service. -/
def seatTable (s : State) : State :=
  let seat := fun (n keep : Nat) => if dieInSvc s n then n else (nextMirror s n keep).getD n
  let a := seat 0 12
  { s with qmg := { s.qmg with primary := a, mirror := seat 11 a } }

/-- The settings outside the contexts that a timetable carries. -/
def loadSettings (s : State) (t : Timetable) : State :=
  let s := setHeaps s t
  let s := { s with fus := { s.fus with syncCtx := t.body.fusSync.1.val, syncObj := t.body.fusSync.2 } }
  let s := loadRegions (dropRegions s) (fun _ => true)
  loadOrp (loadOrp s .a) .b

/-- The header of an image in a stack names the timetable the islands recorded (R84). -/
def headerOk (bs : List Byte) (ident : Nat) : Bool :=
  bs.take 4 == [0x48, 0x58, 0x54, 0x54] && leNat ((bs.drop 4).take 2) == 2 && leNat ((bs.drop 8).take 8) == ident

/-- The check of R84 on the islands' record: the timetable that is reactivated, or none. -/
def reactivated (s : State) (x : Island) : Option Timetable :=
  match x.ttSaved, lowDie s with
  | some t, some n =>
    match imageBase t n with
    | none => none
    | some b =>
      match (hbmGet s n .spine 0x01 b 0x30).1 with
      | none => none
      | some h =>
        if headerOk h x.ttIdent && (hbmGet s n .spine 0x01 b (0x30 + 16 * leNat ((h.drop 6).take 2))).1.isSome then some t else none
  | _, _ => none

/-- The die of the engine that the placement in force binds to a queue, 15 for none. -/
def ownerOf (s : State) (q : Nat) : Nat :=
  ((placement s).bind (fun p => p.queues.find? (fun e => e.queue == q))).elim 15 (fun e => dieOf e.eng)

/-- Owners of declared objects follow their signalling queues (R404); ORPHANED ones start anew (R419). Without a placement no
queue has an engine, and nothing changes. -/
def ownObjects (s : State) : State :=
  match s.tt.active, placement s with
  | some t, some _ => forAll s (t.body.contexts.flatMap (fun d => d.objs.map (fun o => (d, o)))) (fun s e =>
    let k := e.1.synBase + e.2.id
    let w := ownerOf s (e.1.qbase + e.2.queue)
    let o := obj s k
    if o.st = 2 then setObj s k { declObj e.2 w with held := (ctxRec s e.1.id).pre }
    else if o.st = 1 && !o.named then setObj s k { o with owner := w }
    else s)
  | _, _ => s

/-- Every context of the timetable starts empty, its objects owned as the placement in force gives (R84, R403, R404). -/
def reactivate (s : State) (t : Timetable) : State :=
  let s := { s with tt := { s.tt with active := some t } }
  let s := forAll (seatTable s) t.body.contexts startCtx
  let s := ownObjects (switchCvus (loadSettings s t) none (some t) [])
  let mine := fun (i : Island) => { i with ttIdent := t.figs.ident, ttSaved := some t, ttImage := t.image }
  bothIsl s (fun x => if inSvc x then mine x else x)

/-- The stage number, STG_TIMING and STG_PROFILE come from a replica and its island's record (R84). -/
def stgFrom (x : Island) : Stg :=
  let r := x.rep
  let w := toW (at_ r.cutoff 16 + at_ r.layover 8 + r.period)
  let p := r.profile
  { timing := w, timingSh := w, stage := r.stage, tick := x.ticked.getD 0, lean := tbit p 16, leanSh := tbit p 16
    lossb := fld p 13 10, lossa := fld p 9 6, relay := fld p 5 2, length := r.period * 500000, curLay := r.layover * 500000
    hold := true }

/-- IOD_CORE_READY: after a restart the dispatcher reactivates the timetable before the port is ready (R84), or leaves none
active with an entry of class 0x0B (R85). An island whose record of it fails its check is reset and gives none (R465). -/
def execIodCoreReady (s : State) (ramFault : Bool := false) : Out :=
  .next (
    if s.iod.inReset || s.iod.ready || startingUp s then s
    else match loadIsl s with
      | none => s
      | some i =>
        if ramFault && (isl s i).ttSaved.isSome then ramFails s i else
        let y := isl s (otherIsl i)
        let x := if (isl s i).ttSaved.isNone && inSvc y && y.ttSaved.isSome then y else isl s i
        let s := { s with stg := stgFrom x }
        let s := if x.ttSaved.isNone then s
          else match reactivated s x with
            | some t => reactivate s t
            | none =>
              logF (bothIsl s (fun x => { x with ttSaved := none, ttIdent := 0, ttImage := [] })) { cls := 0x0B, unit := unitIod }
        completeDefers (openPort s) .rstIod stOk [])

/-- IOD_CORE_RESET: the islands reset the core outside the fault classes (R487). -/
def execIodCoreReset (s : State) : Out := .next (if s.iod.inReset || !anyIsl s then s else restartIod s 1 false)

/-! RST_UNIT (R563-R565, R510, R514, R515, Table 16-12). -/

def rstOp (k : Pkt) : Nat := fld (par k 0) 31 28
def rstUnit (k : Pkt) : Nat := fld (par k 0) 23 16
def rstEng (k : Pkt) : Nat := fld (par k 0) 15 8

/-- What a unit code of Table 14-6 names. -/
def unitOf (u : Nat) : Option UnitId :=
  if h : u < 12 then some (.die ⟨u, h⟩)
  else match u with
    | 0x0C => some .iod
    | 0x0D => some (.edge .a)
    | 0x0E => some (.edge .b)
    | 0x0F => some (.island .sia)
    | 0x10 => some (.island .sib)
    | _ => none

def isDie : UnitId → Bool
  | .die _ => true
  | _ => false

/-- The parameter word is malformed (step 10): reserved bits, operations 3-15, codes that are not in Table 14-6, an engine
number where no engine can stand. -/
def rstBad (k : Pkt) : Bool :=
  fld (par k 0) 27 24 ≠ 0 || fld (par k 0) 7 0 ≠ 0 || 2 < rstOp k || (0x11 < rstUnit k && rstUnit k ≠ 0xFF) ||
  !(rstEng k = 0xFF || (rstUnit k < 12 && rstEng k < 8))

/-- R563. -/
def rstAllowed (k : Pkt) : Bool :=
  match k.port with
  | .host => rstOp k = 0 && rstUnit k < 12 && rstEng k = 0xFF
  | .mgt i => !(rstOp k = 0 && unitOf (rstUnit k) == some (.island i))

/-- The checks every RST_UNIT passes through; then the operation. The module and "none" of Table 14-6 name no unit that could be
reset, re-admitted or retired, so there is nothing to do for them. -/
def rstRun (f : State → Pkt → UnitId → Option EngId → Verdict) (s : State) (k : Pkt) : Verdict :=
  if rstBad k then .refuse stBadParam 10 4
  else if !rstAllowed k then .refuse stFirewall 10 4
  else match unitOf (rstUnit k) with
    | none => .answer stOkEmpty [] s
    | some u =>
      if rstOp k = 2 && !isDie u then .refuse stBadParam 10 4   -- R515
      else
        let needs := isDie u && rstOp k ≤ 1
        if needs && needsIod s k then .refuse stNotReady 11 0xFFFF
        else if needs && (bankGet 0 s.clk.gates (rstUnit k)).testBit 0 then .refuse stNotReady 11 0xFFFF   -- R562
        else f s k u (if rstEng k = 0xFF then none else some (fin (by decide) (8 * rstUnit k + rstEng k)))

/-- A compute die reset by RST_UNIT (R564); one that has left service keeps no ACTIVE objects either (R417). -/
def rstDie (s : State) (n : DieId) : State :=
  if dieInSvc s n then loseDie s n false 5
  else logF (resetOut s n) { cls := 0x0A, unit := n, reaction := 5 }

/-- An engine that the fault manager resets leaves service at the next tick and returns after its self-test, without counting
toward Table 14-2. -/
def rstEngine (s : State) (g : EngId) : State :=
  modEng s g (fun e => { e with wdrawNext := e.wdrawNext || !(e.withdrawn || e.retired) })

/-- RST_UNIT, operation 0. -/
def rowRstUnitReset : OpDef :=
  opDef { fixedRow 9 3 1 with sel := fun k => rstOp k == 0 } (rstRun (fun s _ u g =>
    match u, g with
    | .die _, some g => .answer stOk [] (rstEngine s g)
    | .die n, none => .later (.rstDie n) (rstDie s n)
    | .iod, _ => .later .rstIod (restartIod s 2 false)
    | .edge e, _ => .later (.rstEdge e) (resetEdge s e)
    | .island i, _ =>
      if (isl s (otherIsl i)).st ≠ 2 then .refuse stRefusedInUse 11 0xFFFF
      else .later (.rstIsl i) (orderIsl s (otherIsl i))))

/-- A decision of the fault manager has arrived (class 0x16): reaction 9 re-admitted, 10 retired. -/
def decided (s : State) (n : DieId) (g : Option EngId) (reaction : Nat) : State :=
  logF s { cls := 0x16, unit := n, sub := g.elim 0xFF (fun g => g.val % 8), reaction := reaction }

def recordEng (s : State) (g : EngId) (on : Bool) : State :=
  bothIsl s (fun x => { x with retiredEng := if on then addNew g x.retiredEng else x.retiredEng.filter (fun m => m != g) })

/-- A re-admitted die: its counts are cleared and it returns as after a transient fault. -/
def readmitDie (s : State) (n : DieId) : State :=
  let s := recordDie (decided s n none 9) n false
  let s := modDie s n (fun d => { d with
    before := d.before.orElse (fun _ => some (d.decision, d.retired, d.lossAt)), lossAt := [], decision := false, retired := false })
  if (die s n).missed then resetDie (modDie s n (fun d => { d with missed := false })) n
  else if (die s n).inReset && !dieHeld s n then
    modDie s n (fun d => { d with inReset := false, mct := { d.mct with st := 1 } })
  else s

/-- RST_UNIT, operation 1. -/
def rowRstUnitReadmit : OpDef :=
  opDef { fixedRow 9 3 1 with sel := fun k => rstOp k == 1 } (rstRun (fun s _ u g =>
    match u, g with
    | .die n, none => if dieInSvc s n then .answer stOkEmpty [] s else .later (.readmitDie n) (readmitDie s n)
    | .die n, some g =>
      if !(eng s g).withdrawn && !(eng s g).retired then .answer stOkEmpty [] s
      else .later (.readmitEng g) (modEng (recordEng (decided s n (some g) 9) g false) g (fun e => { e with
        wdrawAt := [], wdrawPerm := false, retired := false }))
    | .iod, _ => if iodReady s then .answer stOkEmpty [] s else .later .rstIod s
    | .edge e, _ => if edgeInSvc s e then .answer stOkEmpty [] s else .later (.rstEdge e) s
    | .island i, _ => if inSvc (isl s i) then .answer stOkEmpty [] s else .later (.rstIsl i) s))

/-- RST_UNIT, operation 2 and the operations that are refused (R514). -/
def rowRstUnitRetire : OpDef :=
  opDef { fixedRow 9 3 1 with sel := fun k => 2 ≤ rstOp k } (rstRun (fun s _ u g =>
    match u, g with
    | .die n, none =>
      let s := recordDie (decided s n none 10) n true
      let s := modDie s n (fun d => { d with retired := true, decision := false, before := none })
      .answer stOk [] (if dieInSvc s n then loseDie s n false 0
        else modDie { s with qmg := { s.qmg with readmit := s.qmg.readmit.filter (fun e => e.1 != n) } } n (fun d => { d with
          readyRe := d.readyRe || d.excluded, excluded := false }))
    | .die n, some g =>
      .answer stOk [] (modEng (recordEng (decided s n (some g) 10) g true) g (fun e => { e with
        retired := true, wdrawPerm := false, backNext := false, wdrawNext := e.wdrawNext || !e.withdrawn }))
    | _, _ => .refuse stBadParam 10 4))

end Sys2Proof.Machine
end

