-- ==== Sys2Proof/Machine/Clocks.lean ====
section
/-! DEFINITION. Clock sources and gates (16 R551-R562) and the class 0x9 clock opcodes (Table 16-12). -/

namespace Sys2Proof.Machine

def srcCode : ClkSrc → Nat
  | .rec0 => 0
  | .rec1 => 1
  | .xref => 2

def srcReady (c : Clk) : ClkSrc → Bool
  | .rec0 => c.r0ready
  | .rec1 => c.r1ready
  | .xref => c.xready

def setClk (s : State) (f : Clk → Clk) : State := { s with clk := f s.clk }

/-- The recovered source of a ring edge (Table 16-6). -/
def edgeRec : Edge → ClkSrc
  | .a => .rec0
  | .b => .rec1

/-- CLOCK_SOURCE_LOST (R553, R556, R557): groups on the source go to the first ready one, or into holdover, with one class
0x13 entry; a ring edge falls back to XREF. -/
def execClockSourceLost (c : ClkSrc) (s : State) : Out :=
  .next (
    if !srcReady s.clk c then s
    else
      let k := match c with
        | .rec0 => { s.clk with r0ready := false, r0lost := true }
        | .rec1 => { s.clk with r1ready := false, r1lost := true }
        | .xref => { s.clk with xready := false, xlost := true }
      let mine := groupList.filter (fun (g : Fin 13) => clkSrc k g == srcCode c)
      let dst := firstReady k
      let k := mine.foldl (fun k g => moveGroup k g dst) k
      let k := if mine.isEmpty then k else if dst = 3 then { k with hold := true } else { k with auto := true }
      let k := { k with
        edgeA := if c = .rec0 then .xref else k.edgeA, edgeB := if c = .rec1 then .xref else k.edgeB }
      let s := setClk s (fun _ => k)
      if mine.isEmpty then s else logF s { cls := 0x13, unit := unitModule })

/-- CLOCK_SOURCE_READY: the ready flag is set, never for REC0 and REC1 with STRAP_REF high; groups in holdover change to the
source (R557), and the source's ring edge returns to it (R556). -/
def execClockSourceReady (c : ClkSrc) (s : State) : Out :=
  .next (
    if srcReady s.clk c || (c ≠ .xref && s.iod.straps.getLsbD 0) then s
    else
      let k := match c with
        | .rec0 => { s.clk with r0ready := true, edgeA := .rec0 }
        | .rec1 => { s.clk with r1ready := true, edgeB := .rec1 }
        | .xref => { s.clk with xready := true }
      let held := groupList.filter (fun (g : Fin 13) => clkSrc k g == 3)
      setClk s (fun _ => held.foldl (fun k g => moveGroup k g (srcCode c)) k))

/-- CLOCK_RAMP_END (R555). -/
def execClockRampEnd (grp : Fin 13) (s : State) : Out :=
  .next (setClk s (fun c => { c with ramp := c.ramp.filter (fun g => g != grp) }))

/-! Opcodes (Table 16-12). -/

/-- CLK_STATUS. -/
def rowClkStatus : OpDef :=
  opDef (fixedRow 9 0 0) (fun s k =>
    if needsIod s k then .refuse stNotReady 11 0xFFFF
    else .answer stOk ([clkSrcstat s.clk, clkSrcsel s.clk] ++ (List.range 13).map (gateStat s.clk)) s)

/-- A source by its code. -/
def codeSrc : Nat → ClkSrc
  | 0 => .rec0
  | 1 => .rec1
  | _ => .xref

/-- CLK_SELECT (R554). -/
def rowClkSelect : OpDef :=
  opDef (fixedRow 9 1 1) (fun s k =>
    let w := par k 0
    let src := fld w 17 16
    let mask := fld w 12 0
    if fld w 31 18 ≠ 0 || fld w 15 13 ≠ 0 || src = 3 then .refuse stBadParam 10 4
    else if !srcReady s.clk (codeSrc src) then .refuse stNotReady 11 0xFFFF
    else if mask = 0 then .answer stOkEmpty [] s
    else
      let s := setClk s (fun c => (groupList.filter (fun g => mask.testBit g.val)).foldl (fun c g => moveGroup c g src) c)
      .answer stOk [clkSrcsel s.clk] s)

def gateGroup (k : Pkt) : Nat := fld (par k 0) 11 8
def gateLeaf (k : Pkt) : Nat := fld (par k 0) 3 0
def isOpen (k : Pkt) : Bool := tbit (par k 0) 31

/-- A gate word is malformed, or closes the IOD core root. -/
def gateBad (k : Pkt) : Bool :=
  fld (par k 0) 30 12 ≠ 0 || fld (par k 0) 7 4 ≠ 0 || 12 < gateGroup k || leaves (gateGroup k) ≤ gateLeaf k ||
  (!isOpen k && gateGroup k = 12 && gateLeaf k = 0)

/-- A leaf is in use (Table 16-9); a root while one of its leaves is open (R561). -/
def gateInUse (s : State) (g l : Nat) : Bool :=
  if g = 12 then
    match l with
    | 1 => s.tt.active.isSome
    | 2 => s.tt.active.isSome
    | 3 => s.tt.active.isSome
    | 4 => s.cvus.any (fun e => e.2.opened)
    | 5 => s.iod.pceUp
    | 6 => s.iod.aphUp ≠ 0
    | 7 => s.iod.ethUp ≠ 0
    | _ => true
  else if l = 0 then (List.range 10).any (fun i => !gateClosed s.clk g (i + 1))
  else if l ≤ 8 then dieInSvc s g && !(eng s (8 * g + (l - 1))).withdrawn
  else dieInSvc s g

def setGate (s : State) (g l : Nat) (closed : Bool) : State :=
  setClk s (fun c =>
    let old := bankGet 0 c.gates g
    if old.testBit l = closed then c
    else { c with gates := bankSet 0 c.gates g (if closed then old + 2 ^ l else old - 2 ^ l) })

/-- CLK_GATE, open. The root of a die that is held stays closed (18 R622). -/
def rowClkGateOpen : OpDef :=
  opDef { fixedRow 9 2 1 with sel := isOpen } (fun s k =>
    let g := gateGroup k
    let l := gateLeaf k
    if gateBad k then .refuse stBadParam 10 4
    else if l ≠ 0 && gateClosed s.clk g 0 then .refuse stNotReady 11 0xFFFF
    else if !gateClosed s.clk g l then .answer stOkEmpty [] s
    else if l = 0 && dieHeld s g then .refuse stNotReady 11 0xFFFF
    else
      let s := setGate s g l false
      .answer stOk [gateStat s.clk g] s)

/-- CLK_GATE, close. -/
def rowClkGateClose : OpDef :=
  opDef { fixedRow 9 2 1 with sel := fun k => !isOpen k } (fun s k =>
    let g := gateGroup k
    let l := gateLeaf k
    if gateBad k then .refuse stBadParam 10 4
    else if gateInUse s g l then .refuse stRefusedInUse 11 0xFFFF
    else if gateClosed s.clk g l then .answer stOkEmpty [] s
    else
      let s := setGate s g l true
      .answer stOk [gateStat s.clk g] s)

end Sys2Proof.Machine
end

