-- ==== Sys2Proof/Machine/Trust.lean ====
section
/-! DEFINITION. Attestation and firmware updates (16 R566-R578): the class 0xA opcodes, the switch of an IOD image, trials.
-/

namespace Sys2Proof.Machine

/-! SEC_ATTEST (R571, Table 16-11). -/

/-- SHA-512 of the image in a slot, its length taken from its header. -/
def imageSha (x : Island) (base : Nat) : List Word :=
  bytesWords (sha512 (memRd x.flash base (min 0x1000000 (imageWord x base 0x10).toNat)))

/-- The timetable that an island knows to be active: that of the IOD core while it is ready, else its own record's. -/
def knownTt (s : State) (x : Island) : Option Timetable := if iodReady s then s.tt.active else x.ttSaved

def knownStage (s : State) (x : Island) : Nat := if iodReady s then s.stg.stage else x.rep.stage

/-- Words 0-86 of the report, with a nonce. -/
def reportWords (s : State) (i : Isl) (challenge : List Word) (nonce : Nat) : List Word :=
  let x := isl s i
  [toW (at_ 1 16 + flagAt (i == .sib) 0)] ++ two (recordSerial x) ++ [idWord1] ++ two s.vtime ++ two (knownStage s x) ++
    challenge ++ nonceWords nonce ++ [s.iod.verSia, s.iod.verSib, s.iod.verIod] ++
    [toW (at_ (dieMask (fun n => x.retired.contains n)) 16 + (unitsWord s).toNat)] ++
    imageSha s.sia (islSlot s.sia.fw.slotB) ++ imageSha s.sib (islSlot s.sib.fw.slotB) ++ imageSha x (iodSlot s.iod.fw.slotB) ++
    two ((knownTt s x).elim 0 (fun t => t.figs.ident)) ++ (knownTt s x).elim (List.replicate 16 0) (fun t => bytesWords t.sha) ++
    [toW ((keyInForce x).elim 0 (fun k => k.1))]

/-- A 128-bit free value. -/
def openNonce (ep : Nat) : Nat := leNat ((List.range 16).map (Config.openByte ep))

/-- SEC_ATTEST: the report with a fresh nonce and the serving island's signature, whose value the spec leaves to ECDSA's
random number: a free value. -/
def rowSecAttest : OpDef :=
  opDef (fixedRow 0xA 0 4) (fun s k =>
    match servingIsl s k.port with
    | none => .refuse stNotReady 11 0xFFFF
    | some i =>
      let ep := s.free
      let n := openNonce ep
      let ws := reportWords s i (parsFrom k 0) n
      let t := (fresh (fresh s).2).2
      .answer stOk (ws ++ (List.range 33).map (openWord (ep + 1))) (modIsl t i (fun x => { x with nonce := some n })))

/-! Firmware loads (R572-R575). -/

def targetIsl (target : Nat) : Isl := if target = 1 then .sib else .sia

/-- The recorded minimum version of a target. -/
def minVersion (s : State) (target : Nat) : Nat :=
  match target with
  | 0 => s.sia.minIsl
  | 1 => s.sib.minIsl
  | _ => max s.sia.minIod s.sib.minIod

/-- The slot that a load writes: the one that does not run. -/
def loadSlot (s : State) (target : Nat) : Nat :=
  match target with
  | 0 => islSlot (!s.sia.fw.slotB)
  | 1 => islSlot (!s.sib.fw.slotB)
  | _ => iodSlot (!s.iod.fw.slotB)

/-- The islands whose flash a load writes. -/
def loadIsls (target : Nat) : List Isl := if target = 2 then [.sia, .sib] else [targetIsl target]

def onTrial (s : State) : Bool := s.sia.fw.trial.isSome || s.sib.fw.trial.isSome || s.iod.fw.trial.isSome

def activating (s : State) : Bool :=
  s.iod.fwArm.isSome || s.dis.defers.any (fun d => match d.what with | .fwIsl _ => true | .fwIod => true | _ => false)

/-- The islands a target asks for: the other island ACTIVE, or both in service (R572). -/
def targetReady (s : State) (target : Nat) : Bool :=
  if target = 2 then inSvc s.sia && inSvc s.sib else (isl s (otherIsl (targetIsl target))).st == 2

def badTarget (k : Pkt) : Bool := fld (par k 0) 31 2 ≠ 0 || fld (par k 0) 1 0 = 3

/-- SEC_FW_OPEN. -/
def rowSecFwOpen : OpDef :=
  opDef (fixedRow 0xA 1 3) (fun s k =>
    let t := fld (par k 0) 1 0
    if badTarget k then .refuse stBadParam 10 4
    else if parN k 1 = 0 then .refuse stBadParam 10 5
    else if parN k 2 < minVersion s t then .refuse stBadParam 10 6
    else if slotSize t < parN k 1 then .refuse stNoResource 11 0xFFFF
    else if s.iod.load.isSome || activating s || onTrial s then .refuse stRefusedInUse 11 0xFFFF
    else if !targetReady s t then .refuse stNotReady 11 0xFFFF
    else .answer stOk [] { s with iod := { s.iod with
      load := some { target := t, len := parN k 1, version := par k 2, done := 0 } } })

/-- Sectors whose first byte lies in a range. -/
def sectorsIn (off n : Nat) : List Nat := ((List.range (n / 65536 + 2)).map (fun i => off / 65536 + i)).filter (fun k =>
  off ≤ 65536 * k && 65536 * k < off + n)

/-- A write of a load: each sector is erased before its first byte is programmed (R573). -/
def programLoad (m : Mem) (base off : Nat) (bs : List Byte) : Mem :=
  memWr ((sectorsIn off bs.length).foldl (fun m k => memWr m (base + 65536 * k) (List.replicate 65536 0xFF)) m) (base + off) bs

/-- SEC_FW_WRITE. -/
def rowSecFwWrite : OpDef :=
  opDef { cls := 0xA, op := 2, lenIdx := 5, lenOk := fun k => 2 ≤ pktLen k && parN k 1 == 4 * (pktLen k - 2) } (fun s k =>
    let off := parN k 0
    let n := parN k 1
    if s.iod.load.elim false (fun l => off ≠ l.done || l.len < off) then .refuse stBadParam 10 4
    else if 4096 < n || s.iod.load.elim false (fun l => l.len < off + n) then .refuse stBadParam 10 5
    else match s.iod.load with
      | none => .refuse stNotReady 11 0xFFFF
      | some l =>
        if n = 0 then .answer stOkEmpty [] s
        else
          let bs := wordsBytes (parsFrom k 2)
          let t := forAll s (loadIsls l.target) (fun s i =>
            modIsl s i (fun x => { x with flash := programLoad x.flash (loadSlot s l.target) off bs }))
          .answer stOk [] { t with iod := { t.iod with load := some { l with done := off + n } } })

/-- A slot newly named active is on trial from a stage on (R576). -/
def startTrial (f : Fw) (stage : Nat) : Fw :=
  { slotB := !f.slotB, trial := some stage, failedA := f.failedA && !f.slotB, failedB := f.failedB && f.slotB, recB := !f.slotB }

def markFailed (f : Fw) : Fw := { f with failedA := f.failedA || f.slotB, failedB := f.failedB || !f.slotB }

/-- The loaded slot does not verify: it is marked failed in each flash it was loaded into, SEC_STAT.fwfail is set (R568), and the
load has ended. -/
def failLoad (s : State) (t : Nat) : State :=
  let s := if t = 2 then { s with iod := { s.iod with fw := markFailed s.iod.fw } }
    else modIsl s (targetIsl t) (fun x => { x with fw := markFailed x.fw })
  let s := forAll s (loadIsls t) (fun s i => modIsl s i (fun x => { x with fwfail := true }))
  { s with iod := { s.iod with load := none } }

/-- SEC_FW_ACTIVATE (R574, R575). -/
def rowSecFwActivate : OpDef :=
  opDef (fixedRow 0xA 3 3) (fun s k =>
    let t := fld (par k 0) 1 0
    let at_ := par64 k 1
    if badTarget k then .refuse stBadParam 10 4
    else if (t = 2 && at_ < s.stg.stage + 2) || (t ≠ 2 && at_ ≠ 0) then .refuse stBadParam 10 5
    else if t = 2 && needsIod s k then .refuse stNotReady 11 0xFFFF
    else match s.iod.load with
      | none => .refuse stNotReady 11 0xFFFF
      | some l =>
        if l.target ≠ t || l.done < l.len || (t = 2 && !targetReady s t) then .refuse stNotReady 11 0xFFFF
        else if t ≠ 2 && !targetReady s t then .refuse stRefusedInUse 11 0xFFFF
        else if !(loadIsls t).all (fun i => imageOk (isl s i) t (loadSlot s t) l.len) then
          .refuseIn stBadCheck 0 0xFFFF (failLoad s t)
        else
          let s := { s with iod := { s.iod with load := none } }
          if t = 2 then .later .fwIod { s with iod := { s.iod with fwArm := some at_ } }
          else
            let i := targetIsl t
            let s := modIsl s i (fun x => { x with fw := startTrial x.fw (knownStage s x) })
            .later (.fwIsl i) (orderIsl s (otherIsl i)))

/-- FW_SWITCH: at tick s the IOD core goes on with the new image, everything else unchanged (R575). -/
def execFwSwitch (s : State) : Out :=
  .next (match s.iod.fwArm with
    | none => s
    | some at_ =>
      if s.stg.stage < at_ || !iodReady s then s
      else
        let f := startTrial s.iod.fw s.stg.stage
        let v := (loadIsl s).elim s.iod.verIod (fun i => imageWord (isl s i) (iodSlot f.slotB) 8)
        completeDefers { s with iod := { s.iod with fwArm := none, fw := f, verIod := v } } .fwIod stOk [])

/-- 1,000 stages have run since a slot was activated. -/
def trialOver (stage : Nat) (f : Fw) : Bool := f.trial.elim false (fun t => t + 1000 ≤ stage)

/-- FW_TRIAL_CONFIRM: the slot is confirmed, and the minimum version of its target becomes the image's (R569, R576). -/
def execFwTrialConfirm (u : UnitId) (s : State) : Out :=
  .next (match u with
    | .iod =>
      if trialOver s.stg.stage s.iod.fw then
        let low := fun (x : Island) => max x.minIod (imageWord x (iodSlot s.iod.fw.slotB) 0xC).toNat
        let s := bothIsl s (fun x => { x with minIod := low x })
        { s with iod := { s.iod with fw := { s.iod.fw with trial := none } } }
      else s
    | .island i =>
      if trialOver (knownStage s (isl s i)) (isl s i).fw then
        modIsl s i (fun x => { x with
          minIsl := max x.minIsl (imageWord x (islSlot x.fw.slotB) 0xC).toNat, fw := { x.fw with trial := none } })
      else s
    | _ => s)

/-! SEC registers (Tables 16-18, 16-19). -/

def secStat (s : State) (x : Island) : Word :=
  toW (flagAt s.iod.fw.trial.isSome 19 + flagAt x.fw.trial.isSome 18 + flagAt s.iod.fw.slotB 17 + flagAt x.fw.slotB 16 +
    flagAt x.recfix 7 + flagAt x.fwfail 6 + flagAt (keyInForce x).isSome 5 + flagAt x.recok 4)

def secStatClr (x : Island) (v : Word) : Island := { x with recfix := x.recfix && !tbit v 7, fwfail := x.fwfail && !tbit v 6 }

end Sys2Proof.Machine
end

