-- ==== Sys2Proof/Machine/Ports.lean ====
section
/-! DEFINITION. The ring ports and their optical bypasses, the management ports' frames, PCIe, link events of the sensor ports
and sensor data (17 R592-R613). -/

namespace Sys2Proof.Machine

/-! Optical bypass (R609-R613). -/

def byPort (k : Pkt) : Edge := if tbit (par k 0) 0 then .b else .a
def byBad (k : Pkt) : Bool := fld (par k 0) 30 1 ≠ 0
def byClose (k : Pkt) : Bool := tbit (par k 0) 31

/-- ORP_BYPASS, close. -/
def rowOrpBypassClose : OpDef :=
  opDef { fixedRow 9 4 1 with sel := byClose } (fun s k =>
    let e := byPort k
    let o := edge s (otherEdge e)
    if byBad k then .refuse stBadParam 10 4
    else if (edge s e).bypass = 1 then .answer stOkEmpty [orpStat (edge s e)] s
    else if o.bypass = 1 || o.bypass = 2 || o.held then .refuse stRefusedInUse 11 0xFFFF
    else .later (.bypass e true) (modEdge s e (fun x => moveBypass { x with held := true } true)))

/-- The port is trained (R610). -/
def trained (e : RingEdge) : Bool := e.rxlock && e.txready && !e.inReset

/-- ORP_BYPASS, open; in a test mode both bypasses stay closed (14 R522). -/
def rowOrpBypassOpen : OpDef :=
  opDef { fixedRow 9 4 1 with sel := fun k => !byClose k } (fun s k =>
    let e := byPort k
    if byBad k then .refuse stBadParam 10 4
    else if (edge s e).bypass = 0 then .answer stOkEmpty [orpStat (edge s e)] s
    else if !trained (edge s e) || s.iod.testMode then .refuse stNotReady 11 0xFFFF
    else .later (.bypass e false) (modEdge s e (fun x => moveBypass { x with held := false } false)))

/-- BYPASS_AUTO_CLOSE: low rails, a reset of the ring edge, a test mode (R609). -/
def execBypassAutoClose (e : Edge) (s : State) : Out := .next (modEdge s e (fun x => moveBypass x true))

/-- BYPASS_AUTO_OPEN: the port is trained; its bypass opens unless a commanded close holds it (R610). -/
def execBypassAutoOpen (e : Edge) (s : State) : Out :=
  .next (
    if (edge s e).inReset then s
    else
      let s := modEdge s e (fun x => { x with rxlock := true, txready := true })
      if (edge s e).bypass = 1 && !(edge s e).held && !s.iod.testMode then modEdge s e (fun x => moveBypass x false) else s)

/-- A bypass or its link has failed (R612). -/
def bypassFault (s : State) (e : Edge) (close : Bool) : State :=
  completeDefers (logF s { cls := 0x0C, unit := edgeUnit e, status := stInternal }) (.bypass e close) stInternal [execDetail]

/-- A command that the opposite one has overtaken does not reach its position (R120, R612; log 154). -/
def overtaken (s : State) (e : Edge) (goal : Bool) : State :=
  if s.dis.defers.any (fun d => d.what == .bypass e (!goal)) then bypassFault s e (!goal) else s

/-- BYPASS_MOVE_END: the position is reached, or has not been reached within 8 ms (R612). -/
def execBypassMoveEnd (e : Edge) (ok : Bool) (s : State) : Out :=
  .next (
    let x := edge s e
    if x.bypass ≠ 2 then s
    else
      let s := overtaken s e x.goal
      if !ok then bypassFault (modEdge s e (fun x => { x with bypass := 3 })) e x.goal
      else
        let s := modEdge s e (fun x => { x with bypass := if x.goal then 1 else 0, moved := true })
        if x.goal then completeDefers s (.bypass e true) stOk [orpStat (edge s e)] else s)

/-- DOWNSTREAM_LINK_UP (R611, R612). -/
def execDownstreamLinkUp (e : Edge) (s : State) : Out :=
  .next (
    if (edge s e).bypass ≠ 0 || (edge s e).inReset then s
    else
      let s := modEdge s e (fun x => { x with linkup := true })
      completeDefers s (.bypass e false) stOk [orpStat (edge s e)])

/-- DOWNSTREAM_LINK_TIMEOUT: the link is not up 20 ms after a commanded open (R612). -/
def execDownstreamLinkTimeout (e : Edge) (s : State) : Out :=
  .next (if (edge s e).bypass = 0 && !(edge s e).linkup && s.dis.defers.any (fun d => d.what == .bypass e false) then
    bypassFault s e false
  else s)

/-! Frames (R602-R608). -/

/-- Bytes of a frame on the wire without its preamble. -/
def frameBytes (f : Frame) : Nat := f.payload.length + 18

/-- The receive ring takes a frame: the layout of its bytes is not given, nor which of the device's liveries they come with, so
these are free values. -/
def deliverRing (s : State) : State :=
  match s.tt.active.bind (fun t => t.body.rxRing) with
  | none => s
  | some (_, base, size) =>
    match hbmRange base size with
    | none => s
    | some (n, o) =>
      let ep := s.free
      hbmSet (fresh s).2 n (someLivery s ep) o ((List.range size).map (fun i => Config.openByte ep i))

/-- R606: 802.1AS frames, and those of ORP_RXETYPE, which go to the receive ring too. -/
def deliverFrame (s : State) (e : Edge) (f : Frame) : State :=
  let w := nth (edge s e).cfg 3
  let ring := tbit w 31 && f.etype.toNat == fld w 15 0 && iodReady s
  let s := if f.etype = 0x88F7 || ring then emit s (.deliver e f) else s
  if ring then deliverRing s else s

/-- The port receives: over its open bypass, or through the monitor tap of a closed one (R606, R610). -/
def receives (x : RingEdge) : Bool := !x.inReset && (x.bypass == 0 || (x.bypass == 1 && x.rxlock))

/-- What an open port passes on: nothing before its downstream link is up (R611), and nothing beyond the 64 KiB that wait behind an
output frame (R603). -/
def passOn (s : State) (e : Edge) (f : Frame) (waiting : Nat) : State :=
  let x := edge s e
  if x.bypass ≠ 0 || !x.linkup then s
  else if 65536 < waiting + frameBytes f then modEdge s e (fun x => { x with drop := satAdd 65535 x.drop 1 })
  else emit s (.forward e f)

/-- RING_FRAME_RECEIVE: an open port forwards the frame, removes its own and damaged ones, drops what exceeds what may wait; the
port delivers what the IOD core asks for. -/
def execRingFrameReceive (e : Edge) (f : Frame) (waiting : Nat) (s : State) : Out :=
  .next (
    if !receives (edge s e) then s
    else if !f.fcsOk then
      if (edge s e).bypass = 0 then modEdge s e (fun x => { x with fcserr := satAdd 65535 x.fcserr 1 }) else s
    else if f.source = portAddr (knownSerial s .host) 0x59 (edgeNo e) then s
    else deliverFrame (passOn s e f waiting) e f)

/-- The bytes of the packet a payload begins with; a payload too short for the length it declares stands whole. -/
def payloadPkt (bs : List Byte) : List Byte := bs.take (4 * (fld (nth (bytesWords (bs.take 4)) 0) 31 16 + 5))

def islNo : Isl → Nat
  | .sia => 0
  | .sib => 1

/-- MGT_FRAME_RECEIVE (R608): frames to the island with EtherType 0x88B6 that begin with a packet, which is checked in its order
of arrival (R491); every other is discarded. -/
def execMgtFrameReceive (i : Isl) (f : Frame) (s : State) : Out :=
  .next (
    if !(mgt s i).up || !inSvc (isl s i) || !f.fcsOk || f.etype ≠ mgtType || f.dest ≠ portAddr (recordSerial (isl s i)) 0x58 (islNo i) ||
      f.payload.length < 20 then s
    else mgtIntake (modMgt s i (fun m => { m with
      requester := some f.source, inbound := m.inbound ++ [payloadPkt f.payload] })) i)

/-! PCIe (R593-R595). -/

/-- PCIE_POSTED_WRITE. -/
def execPciePostedWrite (bar : Fin 6) (off : Nat) (data : List Byte) (s : State) : Out :=
  .next (
    if !s.iod.pceUp || s.iod.inReset || (bar.val ≠ 0 && bar.val ≠ 2) then s
    else
      let drop := { s with iod := { s.iod with pceDrop := true } }
      if bar.val = 0 && s.tt.st = .loading && off + data.length ≤ s.tt.len then
        match loadPlace s with
        | some (n, base, _) => (hbmPut s n 0x07 (base + off) data).2
        | none => drop
      else drop)

/-- The bytes of a fault log as BAR2 shows it; beyond the entries held they are not stated. -/
def logBytes (l : List (Nat × Entry)) (ep off len : Nat) : List Byte :=
  let first := off / 32
  let held := (logRange l first (len / 32 + 2)).flatMap (fun q => wordsBytes (entryWords q))
  (List.range len).map (fun j => (held[off % 32 + j]?).getD (Config.openByte ep (off + j)))

/-- PCIE_READ: BAR0 shows staging bytes, BAR2 the fault log of the island that serves SEC_ATTEST; a record that fails its check in
the island's RAM gives no data (R465). -/
def execPcieRead (bar : Fin 6) (off len : Nat) (s : State) (ramFault : Bool := false) : Out :=
  .next (
    if !s.iod.pceUp || s.iod.inReset then s
    else if bar.val = 0 then
      match loadPlace s with
      | none => emit s (.pcie false [])
      | some (n, base, size) =>
        if 2 ^ 32 < off + len || size < off + len then emit s (.pcie false [])
        else match hbmGet s n .spine 0x07 (base + off) len with
          | (some bs, t) => emit t (.pcie true bs)
          | (none, t) => emit t (.pcie false [])
    else if bar.val = 2 then
      if 0x80000 < off + len then emit s (.pcie false [])
      else
        match servingIsl s .host, ramFault with
        | some i, true => emit (ramFails s i) (.pcie false [])
        | some i, false => emit (fresh s).2 (.pcie true (logBytes (isl s i).flog s.free off len))
        | none, _ => emit (fresh s).2 (.pcie true (logBytes [] s.free off len))
    else emit s (.pcie false []))

/-! Links of the sensor, PCIe and management ports (16 R560; 17, Tables 17-15 to 17-17). -/

/-- A width and speed of PCE_STAT. -/
def pcieCode (width speed : Nat) : Bool := (width = 1 || width = 2 || width = 4) && 1 ≤ speed && speed ≤ 5

def setIod (s : State) (f : Iod → Iod) : State := { s with iod := f s.iod }

/-- PORT_LINK_UP; the PCE identifies itself (R593). -/
def execPortLinkUp (l : ExtLink) (s : State) : Out :=
  .next (match l with
    | .aph n => if s.iod.inReset || gateClosed s.clk 12 6 then s
      else setIod s (fun x => { x with aphUp := x.aphUp ||| BitVec.ofNat 16 (2 ^ n.val) })
    | .eth n => if s.iod.inReset || gateClosed s.clk 12 7 then s
      else setIod s (fun x => { x with ethUp := x.ethUp ||| BitVec.ofNat 4 (2 ^ n.val) })
    | .pcie w v =>
      if s.iod.inReset || gateClosed s.clk 12 5 || !s.iod.straps.getLsbD 2 || !pcieCode w v then s
      else emit (setIod s (fun x => { x with pceUp := true, pceWidth := w, pceSpeed := v })) (.pcieId s.iod.pceDev)
    | .mgt i => if (isl s i).inReset then s else modMgt s i (fun m => { m with up := true })
    | .ringDown _ => s)

/-- PORT_LINK_DOWN. -/
def execPortLinkDown (l : ExtLink) (s : State) : Out :=
  .next (match l with
    | .aph n =>
      if s.iod.aphUp.getLsbD n.val then
        setIod s (fun x => { x with
          aphUp := x.aphUp &&& ~~~(BitVec.ofNat 16 (2 ^ n.val)), aphDown := x.aphDown ||| BitVec.ofNat 16 (2 ^ n.val) })
      else s
    | .eth n =>
      if s.iod.ethUp.getLsbD n.val then
        setIod s (fun x => { x with
          ethUp := x.ethUp &&& ~~~(BitVec.ofNat 4 (2 ^ n.val)), ethDown := x.ethDown ||| BitVec.ofNat 4 (2 ^ n.val) })
      else s
    | .pcie _ _ => setIod s (fun x => { x with pceUp := false, pceWidth := 0, pceSpeed := 0 })
    | .mgt i => modMgt s i (fun m => { m with up := false })
    | .ringDown e => modEdge s e (fun x => { x with linkup := false, lost := x.lost || x.linkup }))

/-- The link that carries a stream is up: cameras on A-PHY, lidars on Ethernet. -/
def streamUp (s : State) (n : Nat) : Bool := if n < 16 then s.iod.aphUp.getLsbD n else s.iod.ethUp.getLsbD (n - 16)

/-- SENSOR_DATA_RECEIVE: a stream's bytes land in its landing buffer; where in it, and with which of the device's liveries, is not
stated (log 155). -/
def execSensorDataReceive (stream : Fin 20) (data : List Byte) (s : State) : Out :=
  .next (match s.tt.active.bind (fun t => t.body.landing.find? (fun l => l.stream == stream)) with
    | none => s
    | some l =>
      if !iodReady s || !streamUp s stream || !dieInSvc s l.die then s
      else
        let bs := data.take l.size
        let off := Config.choice s.free % (l.size - bs.length + 1)
        hbmSet (fresh (fresh s).2).2 l.die (someLivery s (s.free + 1)) (l.base + off) bs)

end Sys2Proof.Machine
end

