-- ==== Sys2Proof/Machine/Thermal.lean ====
section
/-! DEFINITION. Coolant, junctions, the levels of slow loss, the hold of a sudden loss and the class 0xB opcodes (18). -/

namespace Sys2Proof.Machine

/-! Sensor sets (R618-R620). -/

/-- A sample is valid (R620). -/
def sampleValid (x : LidSample) : Bool :=
  let temp := fun (t : Int) => -800 ≤ t && t ≤ 2080
  temp x.inlet && temp x.outlet && 0 ≤ x.dp && x.dp ≤ 30000 && x.inlet - x.outlet ≤ 32

/-- A root gate opens or closes with what holds its die (R622, R630). -/
def rootGate (s : State) (g : Nat) (closed : Bool) : State := setGate s g 0 closed

/-- No gate report, and no release made from one, outlives the start of a hold: every tick issues the held drag shoe with reason
5 (R631). -/
def dropReports (s : State) : State :=
  bothEdge (bothIsl s (fun x => { x with
    report := none, reportQ := [], relOut := none, step := .idle, mism := false })) (fun e => { e with
    relA := none, relB := none, reason := 5 })

/-- The hold of R630: every compute die and the IOD core in reset, every root gate closed; it does not count toward
Table 14-2. Work in progress is abandoned (R631). -/
def holdAll (s : State) : State :=
  if s.iod.sudden then s
  else
    let s := dropReports (restartIod { s with iod := { s.iod with sudden := true } } 1 false)
    let s := forAll s dieList resetDie
    forAll s (List.range 13) (fun s g => rootGate s g true)

/-- An island declares a sudden loss (R628, R629); the 10 s of R632 are counted from then. -/
def declareSudden (s : State) (i : Isl) : State :=
  let s := logF s { cls := 0x12, unit := unitModule, reaction := 6 }
  holdAll (orderImm (modIsl (bothIsl s (fun x => { x with calm := 0 })) i (fun x => { x with sudden := true })) i)

/-- The run of a condition. -/
def runOf (c : Bool) (n : Nat) : Nat := if c then n + 1 else 0

/-- A set is invalid after 10 invalid samples in a row, until 1,000 valid ones (R620); nothing is counted from it till then. -/
def setinvNow (was : Bool) (bad good : Nat) : Bool := if 10 ≤ bad then true else if 1000 ≤ good then false else was

/-- LID_SENSOR_SAMPLE (R618, R620, R628). -/
def execLidSensorSample (i : Isl) (x : LidSample) (s : State) : Out :=
  .next (
    if (isl s i).inReset || !(isl s i).boots then s
    else
      let ok := sampleValid x
      let was := (isl s i).setinv
      let s := modIsl s i (fun y =>
        let bad := if ok then 0 else satAdd 1000 y.badRun 1
        let good := if ok then satAdd 1000 y.goodRun 1 else 0
        { y with
          inlet := x.inlet, outlet := x.outlet, dp := tc 15 x.dp, flow := min 65535 x.flow, sampleOk := ok
          outs := (x.outlet :: y.outs).take 501, badRun := bad, goodRun := good
          setinv := setinvNow y.setinv bad good
          lowFlow := runOf (ok && !setinvNow y.setinv bad good && x.flow < 25) y.lowFlow })
      let y := isl s i
      let s := if !was && y.setinv then logF s { cls := 0x12, unit := islUnit i } else s
      if !y.setinv && y.lowFlow = 3 then declareSudden s i else s)

/-- The outlet slope in 1/256 C/s: the change over 500 samples of 100 us, in 1/16 C, times 320 (R619). -/
def slopeOf (l : List Int) : Int :=
  match l.head?, l[500]? with
  | some a, some b => (a - b) * 320
  | _, _ => 0

/-- OUTLET_SLOPE_EVAL (R619, R628). -/
def execOutletSlopeEval (i : Isl) (s : State) : Out :=
  .next (
    if (isl s i).inReset || !(isl s i).boots then s
    else
      let s := modIsl s i (fun y =>
        let v := slopeOf y.outs
        { y with slope := v, highSlope := runOf (!y.setinv && 1024 < v) y.highSlope })
      let y := isl s i
      if !y.setinv && y.highSlope = 3 then declareSudden s i else s)

/-! Levels of slow loss (R624-R627). -/

/-- The module level (R624, R625). -/
def moduleLevel (s : State) : Nat :=
  let m := max s.sia.level s.sib.level
  if s.sia.setinv && s.sib.setinv then max 3 m else m

/-- Logic junctions and stack temperatures as last reported. -/
def logicTemps (s : State) : List Int := dieList.map (fun (n : DieId) => (die s n.val).tjLogic) ++ [s.iod.tj, s.sia.tj, s.sib.tj]
def stackTemps (s : State) : List Int := dieList.map (fun (n : DieId) => (die s n.val).tjHbm)

/-- A junction or a stack meets a level's condition. -/
def junctionHolds (s : State) (w : Word) : Bool :=
  (logicTemps s).any (fun t => 16 * (fld w 23 16 : Int) < t) || (stackTemps s).any (fun t => 16 * (fld w 15 8 : Int) < t)

/-- A condition of a level holds, for its thresholds in THM_LVL layout (Table 18-3). -/
def levelHolds (s : State) (x : Island) (w : Word) : Bool :=
  junctionHolds s w || x.flow < 2 * fld w 31 24 || 16 * (fld w 7 0 : Int) < x.inlet

def lvlWord (x : Island) (n : Nat) : Word := if n = 1 then x.lvl1 else if n = 2 then x.lvl2 else x.lvl3

/-- The highest level above the present one whose conditions have held for 100 evaluations. -/
def raisedTo (level : Nat) (runs : List Nat) : Nat :=
  ((List.range 3).filter (fun k => 100 ≤ runs.getD k 0)).foldl (fun m k => max m (k + 1)) level

/-- A level with the runs of evaluations that raise and lower it. -/
structure LevelRun where
  level : Nat
  up    : List Nat
  down  : Nat
  deriving DecidableEq, Repr

/-- One evaluation of a level by the conditions that hold now (R624). -/
def stepLevel (r : LevelRun) (holds : List Bool) : LevelRun :=
  let runs := (List.range 3).map (fun k => min 100 (runOf (holds.getD k false) (r.up.getD k 0)))
  let up := raisedTo r.level runs
  let down := if r.level = 0 || holds.getD (r.level - 1) false then 0 else r.down + 1
  if r.level < up then { level := up, up := runs, down := 0 }
  else if 10000 ≤ down then { level := r.level - 1, up := runs, down := 0 }
  else { level := r.level, up := runs, down := down }

/-- One evaluation of an island's level (R624): an island out of service, or with an invalid set, takes the level that the
junctions alone have given all along. -/
def evalLevel (s : State) (x : Island) : Island :=
  let ws := [x.lvl1, x.lvl2, x.lvl3]
  let j := stepLevel { level := x.jLevel, up := x.jUp, down := x.jDown } (ws.map (junctionHolds s))
  let l := if inSvc x && !x.setinv then stepLevel { level := x.level, up := x.upRun, down := x.downRun } (ws.map (levelHolds s x)) else j
  { x with
    jLevel := j.level, jUp := j.up, jDown := j.down, level := l.level, upRun := l.up, downRun := l.down
    calm := min 10000 (runOf (200 ≤ x.flow && x.slope < 256) x.calm) }

/-- THERMAL_LEVEL_EVAL: a rise of the module level above the one last acted on, be it by an invalid set (R625), makes an entry
and sets HPT_ALERT.thm; level 3 requests the lean profile (Table 18-3, R627). -/
def execThermalLevelEval (i : Isl) (s : State) : Out :=
  .next (
    let was := max s.sia.seen s.sib.seen
    let s := setIsl s i (evalLevel s (isl s i))
    let now := moduleLevel s
    let s := bothIsl s (fun x => { x with leanreq := decide (3 ≤ now), seen := now })
    if was < now then
      let s := logF s { cls := 0x12, unit := unitModule, detail := now }
      if s.iod.inReset then s else setHpt s { s.hpt with aThm := true }
    else s)

/-! Junctions (R621-R623, R633). -/

def ageNote (s : State) (unit : Nat) : State := logF s { cls := 0x12, unit := unit, kind := some 0 }

/-- JUNCTION_REPORT: the words of THM_TJ and THM_AGE; a die at a limit leaves service and is held, the IOD core is restarted
and held; doubled refresh above 85 C; the first frequency loss above 3.00 % is noted. -/
def execJunctionReport (u : ThmUnit) (logic hbm : Int) (degr hot : Nat) (s : State) : Out :=
  .next (
    let dg := min 65535 degr
    let ht := min 65535 hot
    match u with
    | .die n =>
      let s := if 300 < dg && !(die s n).degrNoted then
        ageNote (modDie s n (fun d => { d with degrNoted := true })) n else s
      let put := fun (s : State) => modDie s n (fun d => { d with
        tjLogic := logic, tjHbm := hbm, degr := dg, hot95 := ht, mct := { d.mct with hot := decide (1360 < hbm) } })
      if (1680 ≤ logic || 1520 ≤ hbm) && !(die s n).inReset then
        let s := logF s { cls := 0x12, unit := n, reaction := 4 }
        let s := modDie s n (fun d => { d with thermal := true })
        put (rootGate (if gateClosed s.clk n.val 0 then s else if dieInSvc s n then loseDie s n false 4 else resetOut s n) n true)
      else put s
    | .iod =>
      let s := if 300 < dg && !s.iod.degrNoted then ageNote (setIod s (fun x => { x with degrNoted := true })) unitIod else s
      let put := fun (s : State) => setIod s (fun x => { x with tj := logic, degr := dg, hot95 := ht })
      if 1680 ≤ logic && !s.iod.inReset then
        let s := logF s { cls := 0x12, unit := unitIod, reaction := 5 }
        put (restartIod (setIod s (fun x => { x with thermal := true })) 1 false)
      else put s
    | .island i =>
      let s := if 300 < dg && !(isl s i).degrNoted then
        ageNote (modIsl s i (fun x => { x with degrNoted := true })) (islUnit i) else s
      modIsl s i (fun x => { x with tj := logic, degr := dg, hot95 := ht }))

/-- A die that nothing holds any more starts again. -/
def releaseDie (s : State) (n : DieId) : State :=
  if (die s n).inReset && !dieHeld s n then
    modDie s n (fun d => { d with inReset := false, mct := { d.mct with st := 1 } })
  else s

/-- THERMAL_DIE_RESTART (R622). -/
def execThermalDieRestart (n : DieId) (s : State) : Out :=
  .next (
    let d := die s n
    if d.thermal && d.tjLogic < 1440 && d.tjHbm < 1360 then
      let s := modDie s n (fun d => { d with thermal := false })
      releaseDie (if s.iod.sudden then s else rootGate s n false) n
    else s)

/-- IOD_THERMAL_RELEASE (R623). -/
def execIodThermalRelease (s : State) : Out :=
  .next (if s.iod.thermal && s.iod.tj < 1440 then setIod s (fun x => { x with thermal := false }) else s)

/-- A set within R632's limits now and for the 10 s before. -/
def calmNow (x : Island) : Bool := 10000 ≤ x.calm && 200 ≤ x.flow && decide (x.slope < 256)

/-- SUDDEN_LOSS_HOLD_END: flow and slope have stayed within R632's limits for 10 s on every valid set. -/
def execSuddenLossHoldEnd (s : State) : Out :=
  .next (
    let sets := [s.sia, s.sib].filter (fun x => inSvc x && !x.setinv)
    if s.iod.sudden && !sets.isEmpty && sets.all calmNow then
      let s := setIod s (fun x => { x with sudden := false })
      let s := rootGate s 12 false
      forAll s dieList (fun s n =>
        if (die s n).thermal then s else releaseDie (rootGate s n false) n)
    else s)

/-! Class 0xB (Table 18-5). -/

/-- The level a THM_STAT shows: 4 while the hold lasts (Table 18-6). -/
def shownLevel (s : State) : Nat := if s.iod.sudden then 4 else moduleLevel s

/-- THM_STAT (Table 18-6). A slope beyond the field is not stated there. -/
def thmStat (s : State) (x : Island) : Word :=
  toW (at_ (openFit s.free 0 (-32768) 32767 x.slope) 16 + flagAt x.sudden 7 + flagAt x.setinv 6 + flagAt (2 ≤ shownLevel s) 5 +
    flagAt x.leanreq 4 + shownLevel s)

/-- The thresholds, as an island in service holds them. -/
def lvlWords (s : State) : List Word :=
  match servingIsl s .host with
  | none => [0, 0, 0]
  | some i => [(isl s i).lvl1, (isl s i).lvl2, (isl s i).lvl3]

/-- On a management port the words of the IOD core and the dies need the IOD core (13 R492). -/
def coreSeen (s : State) (k : Pkt) : Bool := !needsIod s k

/-- THM_STATUS. -/
def rowThmStatus : OpDef :=
  opDef (fixedRow 0xB 0 0) (fun s k =>
    let one := fun (x : Island) => if inSvc x then [thmStat s x, thmLid x, thmFlow x] else [0, 0, 0]
    let see := coreSeen s k
    let all := see && dieList.all (fun n => dieInSvc s n.val) && inSvc s.sia && inSvc s.sib
    .answer (partialUnless all) (one s.sia ++ one s.sib ++ lvlWords s ++
      (dieList.map (fun (n : DieId) => if see && dieInSvc s n.val then thmTj (die s n.val).tjLogic (die s n.val).tjHbm else 0)) ++
      [if see then thmTj s.iod.tj 0 else 0]) (fresh s).2)

/-- THM_AGEING. -/
def rowThmAgeing : OpDef :=
  opDef (fixedRow 0xB 2 0) (fun s k =>
    let see := coreSeen s k
    let all := see && dieList.all (fun n => dieInSvc s n.val) && inSvc s.sia && inSvc s.sib
    let one := fun (x : Island) => if inSvc x then thmAge x.degr x.hot95 else 0
    .answer (partialUnless all)
      ((dieList.map (fun (n : DieId) => if see && dieInSvc s n.val then thmAge (die s n.val).degr (die s n.val).hot95 else 0)) ++
        [if see then thmAge s.iod.degr s.iod.hot95 else 0, one s.sia, one s.sib]) s)

/-- A word of THM_LIMITS by itself: no zero field, the limits of logic and stack fields, level 3's flow. -/
def lvlBad (w : Word) (n : Nat) : Bool :=
  fld w 31 24 = 0 || fld w 23 16 = 0 || fld w 15 8 = 0 || fld w 7 0 = 0 || 104 < fld w 23 16 || 94 < fld w 15 8 ||
  (n = 3 && fld w 31 24 < 0x0D)

/-- Flow falls and temperatures rise strictly from one level's word to the next. -/
def lvlStep (a b : Word) : Bool :=
  fld b 31 24 < fld a 31 24 && fld a 23 16 < fld b 23 16 && fld a 15 8 < fld b 15 8 && fld a 7 0 < fld b 7 0

/-- THM_LIMITS (R635). -/
def rowThmLimits : OpDef :=
  opDef (fixedRow 0xB 1 3) (fun s k =>
    let a := par k 0
    let b := par k 1
    let c := par k 2
    if lvlBad a 1 then .refuse stBadParam 10 4
    else if lvlBad b 2 || !lvlStep a b then .refuse stBadParam 10 5
    else if lvlBad c 3 || !lvlStep b c then .refuse stBadParam 10 6
    else if !anyIsl s then .refuse stNotReady 11 0xFFFF
    else .answer stOk [a, b, c] (bothIsl s (fun x => { x with lvl1 := a, lvl2 := b, lvl3 := c })))

end Sys2Proof.Machine
end

