-- ==== Sys2Proof/Machine/Regs.lean ====
section
/-! DEFINITION. Register space (00 R6-R13, R638): what every register of every block reads as, what a write does to it by
its access type, the latched pairs, and the rows that write one field. -/

namespace Sys2Proof.Machine

/-- The index of an offset in an array of `n` registers `step` bytes apart. -/
def slotAt (o base step n : Nat) : Option Nat :=
  if base ≤ o && o < base + step * n && (o - base) % step = 0 then some ((o - base) / step) else none

/-- Register `i` of an array, 0 where the offset names none. -/
def arrayReg (o base step n : Nat) (f : Nat → Word) : Word := (slotAt o base step n).elim 0 f

/-! Reads, by block: the IOD core (Table 1-8). -/

def stgReg (s : State) : Nat → Word
  | 0x00 => s.stg.timing
  | 0x08 => stgStat s.stg
  | 0x0C => lo32 s.stg.stage
  | 0x10 => hi32 s.stg.stage
  | 0x14 => lo32 s.stg.tick
  | 0x18 => hi32 s.stg.tick
  | 0x1C => toW (tc 32 s.stg.offset)
  | 0x20 => toW s.stg.ovrcnt
  | 0x24 => stgProfile s.stg
  | _ => 0

def qmgReg (s : State) (o : Nat) : Word :=
  match o with
  | 0x00 => qmgStat s.qmg
  | 0x04 => qmgTable s.qmg
  | 0x08 => qmgRelay s.qmg
  | _ =>
    arrayReg o 0x10 4 3 (qmgOut s.qmg) + arrayReg o 0x20 4 3 (qmgReb s.qmg) +
      arrayReg o 0x100 4 64 (fun n => qmgCtxstat (ctxRec s n)) + arrayReg o 0x200 4 64 (fun n => toW (ctxRec s n).qbase)

def synReg (s : State) (o : Nat) : Word :=
  match o with
  | 0x00 => synStat s.syn
  | 0x04 => synHwait s
  | 0x08 => synOrphcnt s.syn
  | _ => arrayReg o 0x100 8 64 (fun n => toW (synBase s n)) + arrayReg o 0x104 8 64 (fun n => toW (synSize s n))

def kpmReg (s : State) (o : Nat) : Word :=
  match o with
  | 0x00 => kpmStat s.kpm
  | 0x04 => toW (usedPages s)
  | 0x08 => toW s.kpm.hwm
  | 0x0C => toW s.kpm.cow
  | _ =>
    arrayReg o 0x100 4 12 (fun n => toW (at_ (heapSize s n) 16 + heapBase s n)) +
      arrayReg o 0x140 4 12 (fun n => toW (heapFree s n)) +
      arrayReg o 0x200 8 64 (fun n => toW (bankGet 0 s.kpm.quotas n)) + arrayReg o 0x204 8 64 (fun n => toW (ctxPages s n))

def mplReg (s : State) (o : Nat) : Word :=
  match o with
  | 0x00 => mplStat s.mpl
  | 0x34 => mplField s.mpl
  | 0x38 => lo32 s.mpl.ref
  | 0x3C => hi32 s.mpl.ref
  | 0x40 => mplResult s.mpl
  | 0x44 => toW s.mpl.pops
  | 0x48 => toW s.mpl.qpeak
  | 0x4C => mplQloss s.mpl
  | 0x50 => mplCkstat s.mpl
  | _ => arrayReg o 0x04 4 11 (nth s.mpl.cfg)

def fusReg (s : State) (o : Nat) : Word :=
  match o with
  | 0x00 => fusStat s.fus
  | 0x20 => fusSync s.fus
  | 0x24 => fusMaskst s
  | 0x28 => toW s.fus.hmask.toNat
  | _ => arrayReg o 0x04 4 7 (nth s.fus.cfg) + arrayReg o 0x100 4 20 (fun n => nth s.fus.cfg (7 + n))

def cvuReg32 (s : State) (k : Nat) : Nat → Word
  | 0x00 => cvuStat (cvu s k)
  | 0x04 => (cvu s k).cfg
  | 0x08 => (cvu s k).polyLo
  | 0x0C => (cvu s k).polyHi
  | 0x10 => (cvu s k).initLo
  | 0x14 => (cvu s k).initHi
  | 0x18 => nth (cvuResult (cvu s k)) 0
  | 0x1C => nth (cvuResult (cvu s k)) 1
  | 0x20 => toW (cvu s k).count
  | 0x34 => cvuAlive (cvu s k)
  | 0x3C => cvuAlcnt (cvu s k)
  | 0x40 => toW (cvu s k).owner
  | _ => 0

def clkReg (s : State) (o : Nat) : Word :=
  match o with
  | 0x00 => clkSrcstat s.clk
  | 0x04 => clkSrcsel s.clk
  | _ => arrayReg o 0x100 4 13 (gateStat s.clk)

def lnkIodReg (s : State) (o : Nat) : Word :=
  match o with
  | 0x00 => lnkSpup s
  | 0x04 => lnkSpdown s.iod
  | _ => arrayReg o 0x100 4 12 (fun n => toW (bankGet 0 s.iod.spretry n))

def hptReg (s : State) : Nat → Word
  | 0x00 => hptStat s.hpt
  | 0x04 => toW (inFree s.hpt)
  | 0x08 => hptRpend s.hpt
  | 0x0C => toW (hptAlert s.hpt)
  | 0x10 => toW s.hpt.alertEn.toNat
  | 0x14 => hptErrcnt s.hpt
  | _ => 0

def orpReg (x : RingEdge) : Nat → Word
  | 0x00 => orpStat x
  | 0x04 => nth x.cfg 0
  | 0x08 => nth x.cfg 1
  | 0x0C => nth x.cfg 2
  | 0x10 => nth x.cfg 3
  | 0x14 => toW x.txcnt
  | 0x18 => orpErrcnt x
  | _ => 0

def thmReg (logic hbm : Int) (degr hot : Nat) : Nat → Word
  | 0x00 => thmTj logic hbm
  | 0x04 => thmAge degr hot
  | _ => 0

/-- The firewall registers of a die's FWL block: 0x4000 bytes a target (13, after R471). -/
def fwlReg (s : State) (n : Nat) (t : Nat → FwTarget) (o : Nat) : Word :=
  if o / 0x4000 < n then fwlRead (fwl s (t (o / 0x4000))) (o % 0x4000) else 0

def iodTgt (k : Nat) : FwTarget := .iod (fin (by decide) k)
def dieTgt (n : DieId) (k : Nat) : FwTarget := .die n (fin (by decide) k)
def islTgt (i : Isl) (k : Nat) : FwTarget := .island i (fin (by decide) k)

/-- Blocks of Table 1-8 by their row; DIS, TPK and SEC hold no register. -/
def iodReg (s : State) (t o : Nat) : Word :=
  match t with
  | 2 => stgReg s o
  | 3 => qmgReg s o
  | 4 => synReg s o
  | 5 => kpmReg s o
  | 6 => mplReg s o
  | 7 => fusReg s o
  | 8 => cvuReg32 s (o / 0x1000) (o % 0x1000)
  | 9 => clkReg s o
  | 10 => if o = 0 then rstStat s else 0
  | 12 => fwlReg s 24 iodTgt o
  | 13 => lnkIodReg s o
  | 14 => thmReg s.iod.tj 0 s.iod.degr s.iod.hot95 o
  | 15 => hptReg s o
  | 16 => if o = 0 then pceStat s.iod else 0
  | 17 => if o = 0 then aphStat s.iod else 0
  | 18 => if o = 0 then ethStat s.iod else if o = 4 then toW s.iod.ethCfg.toNat else 0
  | 19 => orpReg s.edgeA o
  | 20 => orpReg s.edgeB o
  | _ => 0

/-! Compute dies (Table 1-9). -/

def teReg (s : State) (g : Nat) : Nat → Word
  | 0x00 => teId g
  | 0x04 => teStat (eng s g)
  | 0x08 => teCfg (eng s g)
  | 0x0C => teBind (eng s g)
  | 0x10 => (eng s g).curTag
  | 0x14 => teChkstat (eng s g)
  | 0x18 => lo32 (eng s g).busy
  | 0x1C => hi32 (eng s g).busy
  | 0x20 => teNumcnt (eng s g)
  | 0x24 => teStest s.stg.stage (eng s g)
  | _ => 0

def mctReg (m : Mct) : Nat → Word
  | 0x00 => mctStat m
  | 0x04 => m.map
  | 0x08 => toW (b2n m.compat)
  | 0x10 => mctEcc m
  | 0x14 => m.errLo
  | 0x18 => m.errHi
  | 0x1C => mctRefstat m
  | _ => 0

def lnkReg (s : State) (n : Nat) : Nat → Word
  | 0x00 => lnkTopo n
  | 0x04 => lnkStat (die s n)
  | 0x08 => lnkRetry (die s n)
  | _ => 0

def dieReg (s : State) (n : DieId) (t o : Nat) : Word :=
  if t < 8 then teReg s (8 * n.val + t) o
  else match t with
    | 8 => mctReg (mct s n) o
    | 9 => lnkReg s n o
    | 10 => fwlReg s 15 (dieTgt n) o
    | 11 => thmReg (die s n).tjLogic (die s n).tjHbm (die s n).degr (die s n).hot95 o
    | 12 => if o = 0 then gateStat s.clk n.val else 0
    | _ => 0

/-! Islands (Table 1-10); MGT, CLK and RST hold no register. -/

def sisReg (x : Island) (o : Nat) : Word :=
  match o with
  | 0x1C => toW x.flogCnt
  | 0x20 => sisBook x
  | _ => arrayReg o 0 4 6 (nth (sisWords x))

/-- SEC registers; the values of the state record read 0 until it has been read (after Table 16-19). -/
def secReg (s : State) (x : Island) : Nat → Word
  | 0x00 => secStat s x
  | 0x04 => toW (if x.recok then x.minIsl else 0)
  | 0x08 => toW (if x.recok then x.minIod else 0)
  | 0x0C => toW (if x.recok then (keyInForce x).elim 0 (·.1) else 0)
  | _ => 0

def thmIslReg (s : State) (x : Island) : Nat → Word
  | 0x00 => thmStat s x
  | 0x04 => thmLid x
  | 0x08 => thmFlow x
  | 0x0C => x.lvl1
  | 0x10 => x.lvl2
  | 0x14 => x.lvl3
  | 0x18 => thmTj x.tj 0
  | 0x1C => thmAge x.degr x.hot95
  | _ => 0

def islReg (s : State) (i : Isl) (t o : Nat) : Word :=
  match t with
  | 0 => sisReg (isl s i) o
  | 2 => secReg s (isl s i) o
  | 3 => thmIslReg s (isl s i) o
  | 6 => fwlReg s 9 (islTgt i) o
  | _ => 0

/-- The word a register holds: the value in effect (R9, R12), 0 for WO fields and unassigned offsets (R7, R8). -/
def regWord (s : State) (t : FwTarget) (o : Nat) : Word :=
  match t with
  | .iod k => iodReg s k o
  | .die n k => dieReg s n k o
  | .island i k => islReg s i k o

/-! Latched pairs (R638). -/

/-- The block and offset of a pair's LO register; its HI register is the next word. -/
def pairPlace : PairId → FwTarget × Nat
  | .stage => (.iod 2, 0x0C)
  | .tick => (.iod 2, 0x14)
  | .mplRef => (.iod 6, 0x38)
  | .teBusy g => (dieTgt (homeDie g) (g.val % 8), 0x18)
  | .mctErr n => (.die n 8, 0x14)
  | .fwlLast t => (fwlBlock t, 0x4000 * tgtIdx t + 8)
  | .cvuRes k => (.iod 8, 0x1000 * k.val + 0x18)

/-- The pair a register belongs to, and whether it is its HI register. -/
def pairOf (t : FwTarget) (o : Nat) : Option (PairId × Bool) :=
  let fwPair := fun (n : Nat) (f : Nat → FwTarget) =>
    if o / 0x4000 < n && o % 0x4000 = 8 then some (PairId.fwlLast (f (o / 0x4000)), false)
    else if o / 0x4000 < n && o % 0x4000 = 0xC then some (.fwlLast (f (o / 0x4000)), true)
    else none
  let one := fun (lo : Nat) (p : PairId) => if o = lo then some (p, false) else if o = lo + 4 then some (p, true) else none
  match t with
  | .iod k =>
    if k.val = 2 then (one 0x0C .stage).orElse (fun _ => one 0x14 .tick)
    else if k.val = 6 then one 0x38 .mplRef
    else if k.val = 8 then one (o / 0x1000 * 0x1000 + 0x18) (.cvuRes (fin (by decide) (o / 0x1000)))
    else if k.val = 12 then fwPair 24 iodTgt
    else none
  | .die n k =>
    if k.val < 8 then one 0x18 (.teBusy (fin (by decide) (8 * n.val + k.val)))
    else if k.val = 8 then one 0x14 (.mctErr n)
    else if k.val = 10 then fwPair 15 (dieTgt n)
    else none
  | .island i k => if k.val = 6 then fwPair 9 (islTgt i) else none

/-- A read of a pair's LO register: its word, and the HI word of the same instant in the latch. -/
def readLo (s : State) (p : PairId) : Word × State :=
  let a := pairPlace p
  (regWord s a.1 a.2, (fresh (latchSet s p (regWord s a.1 (a.2 + 4)))).2)

/-- A read of a pair's HI register: the latched word, which empties the latch, or the word of now. -/
def readHi (s : State) (p : PairId) : Word × State :=
  let a := pairPlace p
  match latched s p with
  | some w => (w, latchClear s p)
  | none => (regWord s a.1 (a.2 + 4), s)

/-- The unit of a target. -/
def targetUnit : FwTarget → UnitId
  | .iod t => if t.val = 19 then .edge .a else if t.val = 20 then .edge .b else .iod
  | .die n _ => .die n
  | .island i _ => .island i

/-- The clock gate of a target is closed (Table 16-9, R562). -/
def gated (s : State) (t : FwTarget) : Bool :=
  match t with
  | .iod t =>
    (match t.val with
    | 6 => gateClosed s.clk 12 1
    | 22 => gateClosed s.clk 12 1
    | 7 => gateClosed s.clk 12 2
    | 23 => gateClosed s.clk 12 2
    | 5 => gateClosed s.clk 12 3
    | 21 => gateClosed s.clk 12 3
    | 8 => gateClosed s.clk 12 4
    | 16 => gateClosed s.clk 12 5
    | 17 => gateClosed s.clk 12 6
    | 18 => gateClosed s.clk 12 7
    | _ => false)
  | .die n t =>
    gateClosed s.clk n.val 0 ||
    (if t.val < 8 then gateClosed s.clk n.val (t.val + 1)
     else if t.val = 8 || t.val = 14 then gateClosed s.clk n.val 9
     else if t.val = 9 then gateClosed s.clk n.val 10 else false)
  | .island _ _ => false

/-- A register of a target answers: the unit is out of reset and its clock gate open (R562). -/
def opened (s : State) (t : FwTarget) : Bool := outOfReset s (targetUnit t) && !gated s t

def execLatchedLoRead (pair : PairId) (s : State) : Out :=
  .next (if opened s (pairPlace pair).1 then let r := readLo s pair; emit r.2 (.reg r.1) else s)

def execLatchedHiRead (pair : PairId) (s : State) : Out :=
  .next (if opened s (pairPlace pair).1 then let r := readHi s pair; emit r.2 (.reg r.1) else s)

/-- A read of one register. -/
def readReg (s : State) (t : FwTarget) (o : Nat) : Word × State :=
  match pairOf t o with
  | some (p, false) => readLo s p
  | some (p, true) => readHi s p
  | none => (regWord s t o, s)

/-! Writes. -/

def stgStatClr (g : Stg) (v : Word) : Stg :=
  { g with tstep := g.tstep && !tbit v 7, ovr := g.ovr && !tbit v 6, badcfg := g.badcfg && !tbit v 5 }

/-- A write to STG_PROFILE (Table 2-12): a 0 in lean while two dies are lost is discarded (R90). -/
def profileWrite (s : State) (v : Word) : State :=
  if !tbit v 16 && twoLost s then setStg s (fun g => { g with badcfg := true })
  else setStg s (fun g => { g with leanSh := tbit v 16 })

def writeStg (s : State) (o : Nat) (v : Word) : State :=
  match o with
  | 0x00 => setStg s (fun g => { g with timingSh := timingMask v })
  | 0x08 => setStg s (fun g => stgStatClr g v)
  | 0x24 => profileWrite s v
  | _ => s

def writeQmg (s : State) (o : Nat) (v : Word) : State :=
  match o with
  | 0x00 => { s with qmg := qmgStatClr s.qmg v }
  | 0x30 => { s with qmg := { s.qmg with dbq := v } }
  | 0x34 => ringBell s (fld s.qmg.dbq 19 0) v
  | _ => s

def clrHwm (s : State) : State := setKpm s (fun k => { k with hwm := usedPages s })

def writeKpm (s : State) (o : Nat) (v : Word) : State :=
  match o with
  | 0x00 => setKpm s (fun k => kpmStatClr k v)
  | 0x10 => if tbit v 0 then clrHwm s else s
  | _ => s

def writeMpl (s : State) (o : Nat) (v : Word) : State :=
  match o with
  | 0x00 => setMpl s (fun m => mplStatClr m v)
  | 0x30 =>
    let s := if tbit v 1 then setMpl s mplClrck else s
    if tbit v 0 then mplCommitNow s else s
  | _ => (slotAt o 0x04 4 11).elim s (fun i => setMpl s (fun m => { m with shadow := mplMask (m.shadow.set i v) }))

def writeFus (s : State) (o : Nat) (v : Word) : State :=
  let put := fun i => setFus s (fun u => { u with shadow := fusMask (u.shadow.set i v) })
  match o with
  | 0x00 => setFus s (fun u => fusStatClr u v)
  | 0x2C => if tbit v 0 then fusCommitNow s else s
  | _ => match slotAt o 0x04 4 7, slotAt o 0x100 4 20 with
    | some i, _ => put i
    | none, some n => put (7 + n)
    | none, none => s

def writeCvu (c : Cvu) (o : Nat) (v : Word) : Cvu :=
  match o with
  | 0x00 => cvuStatClr c v
  | 0x04 => cvuCfgWrite c (cvuPut 0 v)
  | 0x08 => cvuCfgWrite c (cvuPut 1 v)
  | 0x0C => cvuCfgWrite c (cvuPut 2 v)
  | 0x10 => cvuCfgWrite c (cvuPut 3 v)
  | 0x14 => cvuCfgWrite c (cvuPut 4 v)
  | 0x24 =>
    let c := if tbit v 2 then { c with skipCnt := 0, repCnt := 0 } else c
    let c := if tbit v 1 then cvuAdvance c else c
    if tbit v 0 then cvuEnd c else c
  | 0x28 => cvuFeed c ((wordBytes v).take 1)
  | 0x2C => cvuFeed c ((wordBytes v).take 2)
  | 0x30 => cvuFeed c (wordBytes v)
  | 0x34 => cvuLoad c v
  | 0x38 => cvuCheck c (BitVec.ofNat 8 (fld v 7 0))
  | _ => c

def writeHpt (s : State) (o : Nat) (v : Word) : State :=
  match o with
  | 0x00 => { s with hpt := hptStatClr s.hpt v }
  | 0x0C => { s with hpt := clrAlert s.hpt v }
  | 0x10 => setHpt s { s.hpt with alertEn := BitVec.ofNat 8 (fld v 7 0) &&& 0xFB }
  | _ => s

/-- The shadowed registers of a ring port, without their reserved bits (Tables 17-11 to 17-13). -/
def writeOrp (x : RingEdge) (o : Nat) (v : Word) : RingEdge :=
  match o with
  | 0x00 => orpStatClr x v
  | 0x04 => { x with shadow := x.shadow.set 0 v }
  | 0x08 => { x with shadow := x.shadow.set 1 v }
  | 0x0C => { x with shadow := x.shadow.set 2 (v &&& 0x0000FFFF) }
  | 0x10 => { x with shadow := x.shadow.set 3 (v &&& 0x8000FFFF) }
  | _ => x

/-- A firewall register of a die's FWL block. -/
def writeFwl (s : State) (n : Nat) (t : Nat → FwTarget) (o : Nat) (v : Word) : State :=
  if o / 0x4000 < n then
    modFwl s (t (o / 0x4000)) (fun f => if o % 0x4000 = 0 then fwlStatClr f v else regionWrite f (o % 0x4000) v)
  else s

def aphClr (x : Iod) (v : Word) : Iod := { x with aphDown := x.aphDown &&& ~~~(v.extractLsb' 16 16) }
def ethClr (x : Iod) (v : Word) : Iod := { x with ethDown := x.ethDown &&& ~~~(v.extractLsb' 16 4) }

def writeIod (s : State) (t o : Nat) (v : Word) : State :=
  match t with
  | 2 => writeStg s o v
  | 3 => writeQmg s o v
  | 4 => if o = 0 then { s with syn := synStatClr s.syn v } else s
  | 5 => writeKpm s o v
  | 6 => writeMpl s o v
  | 7 => writeFus s o v
  | 8 => modCvu s (o / 0x1000) (fun c => writeCvu c (o % 0x1000) v)
  | 9 => if o = 0 then setClk s (fun c => clkSrcstatClr c v) else s
  | 12 => writeFwl s 24 iodTgt o v
  | 13 => if o = 4 then setIod s (fun x => lnkSpdownClr x v) else s
  | 15 => writeHpt s o v
  | 16 => if o = 0 then setIod s (fun x => { x with pceDrop := x.pceDrop && !tbit v 8 }) else s
  | 17 => if o = 0 then setIod s (fun x => aphClr x v) else s
  | 18 =>
    if o = 0 then setIod s (fun x => ethClr x v)
    else if o = 4 then setIod s (fun x => { x with ethCfgSh := v.extractLsb' 0 4 }) else s
  | 19 => modEdge s .a (fun x => writeOrp x o v)
  | 20 => modEdge s .b (fun x => writeOrp x o v)
  | _ => s

/-- LNK_CTL.clrcnt of die n (R40, R42): LNK_RETRY and LNK_SPRETRYn. -/
def lnkClr (s : State) (n : DieId) : State :=
  let s := modDie s n (fun d => { d with retrySp := 0, retrySc := 0, retryPc := 0 })
  { s with iod := { s.iod with spretry := bankSet 0 s.iod.spretry n 0 } }

def clrChk (e : Engine) : Engine := { e with wscnt := 0, rescnt := 0, abftcnt := 0 }
def clrNum (e : Engine) : Engine := { e with sat := 0, nan := 0 }

def writeTe (e : Engine) (o : Nat) (v : Word) : Engine :=
  match o with
  | 0x04 => teStatClr e v
  | 0x08 => teCfgSet e v
  | 0x14 => if tbit v 0 then clrChk e else e
  | 0x20 => if tbit v 0 then clrNum e else e
  | 0x24 => { e with stFail := e.stFail && !tbit v 3 }
  | _ => e

def writeMct (s : State) (n : DieId) (o : Nat) (v : Word) : State :=
  match o with
  | 0x00 => modMct s n (fun m => mctStatClr m v)
  | 0x04 => modMct s n (fun m => { m with mapSh := v &&& 0x0000030F })
  | 0x08 => modMct s n (fun m => { m with compatSh := tbit v 0 })
  | 0x0C =>
    let s := if tbit v 1 then modMct s n clrMct else s
    if tbit v 0 then commitMct s n else s
  | _ => s

def writeDie (s : State) (n : DieId) (t o : Nat) (v : Word) : State :=
  if t < 8 then modEng s (8 * n.val + t) (fun e => writeTe e o v)
  else match t with
    | 8 => writeMct s n o v
    | 9 => if o = 4 then modDie s n (fun d => lnkStatClr d v) else if o = 0xC && tbit v 0 then lnkClr s n else s
    | 10 => writeFwl s 15 (dieTgt n) o v
    | _ => s

def writeIsl (s : State) (i : Isl) (t o : Nat) (v : Word) : State :=
  match t with
  | 0 =>
    if o = 0 then modIsl s i (fun x => sisStatClr x v)
    else if o = 0x18 then
      let s := if tbit v 1 then modIsl s i clrSis else s
      if tbit v 0 then beatIsl s i s.vtime else s
    else s
  | 2 => if o = 0 then modIsl s i (fun x => secStatClr x v) else s
  | 3 => if o = 0 then modIsl s i (fun x => { x with sudden := x.sudden && !tbit v 7 }) else s
  | 6 => writeFwl s 9 (islTgt i) o v
  | _ => s

/-- A write of one register, by the access types of its fields (R9); RO fields, reserved bits and unassigned offsets take
nothing (R7, R8). -/
def writeReg (s : State) (t : FwTarget) (o : Nat) (v : Word) : State :=
  match t with
  | .iod k => writeIod s k o v
  | .die n k => writeDie s n k o v
  | .island i k => writeIsl s i k o v

/-! The rows of one field. A unit in reset or behind a closed gate takes none of them (R562). -/

/-- What a write does to a target that answers. -/
def atOpen (s : State) (t : FwTarget) (f : State → State) : Out := .next (if opened s t then f s else s)

/-- The register space of an engine. -/
def teTarget (g : EngId) : FwTarget := .die (homeDie g) (fin (by decide) (g.val % 8))

/-- LNK_CTL.clrcnt; a retry counted in the write's cycle stands: at the die's end of the spine, of its couplings, and at the
IOD's end of the spine (R40, R41). -/
def execLnkClrcnt (n : DieId) (s : State) (spHit scHit pcHit iodHit : Bool := false) : Out :=
  atOpen s (.die n 9) (fun s =>
    let s := modDie (lnkClr s n) n (fun d => { d with retrySp := b2n spHit, retrySc := b2n scHit, retryPc := b2n pcHit })
    { s with iod := { s.iod with spretry := bankSet 0 s.iod.spretry n (b2n iodHit) } })

/-- TE_CFG (R13, R175). -/
def execTeCfgWrite (g : EngId) (v : Word) (s : State) : Out := atOpen s (teTarget g) (fun s => modEng s g (fun e => teCfgSet e v))

/-- TE_CHKSTAT.clr; a count incremented in the write's cycle reads 1 (R176). -/
def execTeChkstatClr (g : EngId) (s : State) (wsHit resHit abftHit : Bool := false) : Out :=
  atOpen s (teTarget g) (fun s =>
    modEng s g (fun e => { clrChk e with wscnt := b2n wsHit, rescnt := b2n resHit, abftcnt := b2n abftHit }))

/-- TE_NUMCNT.clr; a count incremented in the write's cycle reads 1 (R219). -/
def execTeNumcntClr (g : EngId) (s : State) (satHit nanHit : Bool := false) : Out :=
  atOpen s (teTarget g) (fun s => modEng s g (fun e => { clrNum e with sat := b2n satHit, nan := b2n nanHit }))

/-- KPM_CTL.clrhwm (Table 7-12). -/
def execKpmClrhwm (s : State) : Out := atOpen s (.iod 5) clrHwm

/-- MPL_CTL.commit (R321, R322). -/
def execMplCommit (s : State) : Out := atOpen s (.iod 6) mplCommitNow

/-- MPL_CTL.clrck (Table 8-15); a mismatch counted in the write's cycle reads 1 (R324). -/
def execMplClrck (s : State) (mismHit : Bool := false) : Out :=
  atOpen s (.iod 6) (fun s => setMpl s (fun m => { mplClrck m with ckMism := b2n mismHit }))

/-- FUS_CTL.commit (R365). -/
def execFusCommit (s : State) : Out := atOpen s (.iod 7) fusCommitNow

/-- MCT_CTL.commit (Table 12-8, R429). -/
def execMctCtlCommit (n : DieId) (s : State) : Out := atOpen s (.die n 8) (fun s => commitMct s n)

/-- MCT_CTL.clrcnt; a count incremented in the write's cycle reads 1 (R456). -/
def execMctClrcnt (n : DieId) (s : State) (ceHit ueHit forcedHit : Bool := false) : Out :=
  atOpen s (.die n 8) (fun s =>
    modMct s n (fun m => { clrMct m with ceCnt := b2n ceHit, ueCnt := b2n ueHit, forced := b2n forcedHit }))

/-! The registers of a check-value unit (15). -/

/-- A write to a unit's registers. -/
def atCvu (s : State) (k : CvuId) (f : Cvu → Cvu) : Out := atOpen s (.iod 8) (fun s => modCvu s k f)

/-- CVU_FEED8 feeds bits 7:0. -/
def execCvuFeed8 (k : CvuId) (v : Word) (s : State) : Out := atCvu s k (fun c => cvuFeed c ((wordBytes v).take 1))

/-- CVU_FEED16 feeds bits 7:0, then 15:8. -/
def execCvuFeed16 (k : CvuId) (v : Word) (s : State) : Out := atCvu s k (fun c => cvuFeed c ((wordBytes v).take 2))

/-- CVU_FEED32 feeds the four bytes in ascending order. -/
def execCvuFeed32 (k : CvuId) (v : Word) (s : State) : Out := atCvu s k (fun c => cvuFeed c (wordBytes v))

/-- CVU_CONFIG_WRITE (R530): 0 CVU_CFG, 1 and 2 the polynomial, 3 and 4 the initial value. -/
def execCvuConfigWrite (k : CvuId) (reg : Fin 5) (v : Word) (s : State) : Out := atCvu s k (fun c => cvuCfgWrite c (cvuPut reg v))

def execCvuAliveWrite (k : CvuId) (v : Word) (s : State) : Out := atCvu s k (fun c => cvuLoad c v)

def execCvuAlchkWrite (k : CvuId) (v : Word) (s : State) : Out := atCvu s k (fun c => cvuCheck c (BitVec.ofNat 8 (fld v 7 0)))

def execCvuReset (k : CvuId) (s : State) : Out := atCvu s k cvuEnd

def execCvuAdvance (k : CvuId) (s : State) : Out := atCvu s k cvuAdvance

/-- CVU_CTL.clrcnt; a count incremented in the write's cycle reads 1 (R539). -/
def execCvuClrcnt (k : CvuId) (s : State) (skipHit repHit : Bool := false) : Out :=
  atCvu s k (fun c => { c with skipCnt := b2n skipHit, repCnt := b2n repHit })

end Sys2Proof.Machine
end

