-- ==== Sys2Proof/Machine/Access.lean ====
section
/-! DEFINITION. Fabric transactions (01 R33-R38; 12 R425-R454, R646, R648; 13 R466-R471; 16 R562; 08 R293; 09 R361; 07
R253), single register writes, the memory opcodes of class 0x4, and the pieces of an access to an island's memories. -/

namespace Sys2Proof.Machine

/-! Who may reach what. -/

def anyOverlap (a n b m : Nat) : Bool := a < b + m && b < a + n

/-- Bytes of [a, a + n) that lie in [b, b + m). -/
def overlapLen (a n b m : Nat) : Nat := min (a + n) (b + m) - max a b

/-- A row of Tables 8-2 and 9-8 as one livery sees it: base, size, may write, may read. -/
abbrev AccRow := Nat × Nat × Bool × Bool

/-- Every byte of a range lies in a row that allows the access. -/
def rowsAllow (rows : List AccRow) (off len : Nat) (k : Kind) : Bool :=
  let hit := rows.filter (fun r => anyOverlap off len r.1 r.2.1)
  hit.all (fun r => match k with | .write => r.2.2.1 | .read => r.2.2.2) &&
    (hit.map (fun r => overlapLen off len r.1 r.2.1)).sum = len

/-- The livery of the planning context (08 R320). -/
def isPlanning (s : State) (liv : Byte) : Bool := s.tt.active.elim false (fun t => ctxLivery s t.body.planning == liv)

/-- A livery of a context that the timetable names a reader of the track tables. -/
def isReader (s : State) (liv : Byte) : Bool := s.tt.active.elim false (fun t => t.body.readers.any (fun c => ctxLivery s c == liv))

/-- Table 8-2. -/
def mplRows (s : State) (liv : Byte) : List AccRow :=
  let pl := isPlanning s liv
  let isl := islandLivery liv
  [(0, 0x1000000, false, pl || isl), (0x1000000, 0x400000, false, pl), (0x1400000, 0x200000, false, false),
    (0x1600000, 0x100000, pl, pl), (0x1700000, 0x80000, pl, pl)] ++
  (List.range 16).map (fun n => (slotBase n, 2048,
    (if n = 10 then liv == 0x0A else if n = 11 then liv == 0x0B else 12 ≤ n && n ≤ 14 && pl), pl || isl))

/-- Table 9-8. -/
def fusRows (s : State) (liv : Byte) : List AccRow :=
  (List.range 20).flatMap (fun n =>
    let w := streamWriter s n liv
    [(0x80 * n, 4, w, w), (detBase n 0, 0x4000, w, w), (detBase n 1, 0x4000, w, w)] ++
    (if isLidar n then (List.range 3).map (fun q => (sweepBase (n - 16) q, 0x20000, w, w)) else [])) ++
  [(0x400000, 65600, false, isReader s liv), (0x420000, 65600, false, isReader s liv), (0x440000, 256, false, isReader s liv)]

/-- The owner of a check-value unit, and the dispatcher and the islands, reach it (15 R535). -/
def cvuAllows (s : State) (liv : Byte) (off len : Nat) : Bool :=
  liv == 0x01 || islandLivery liv ||
    (List.range 64).all (fun k => !anyOverlap off len (0x1000 * k) 0x1000 || ctxLivery s (cvu s k).owner == liv)

/-- What the firewall in front of a block lets pass whatever its regions allow: the FWL and SIS blocks take writes from the
islands alone (13 R471; 13, Table 13-19), the ports' blocks and the doorbell from the dispatcher and the islands (17; 10). -/
def blockAllows (s : State) (t : FwTarget) (liv : Byte) (off len : Nat) (k : Kind) : Bool :=
  match t, k with
  | .iod n, .write =>
    if n.val = 12 then islandLivery liv
    else if 16 ≤ n.val && n.val ≤ 20 then liv == 0x01 || islandLivery liv
    else if n.val = 3 && anyOverlap off len 0x30 8 then liv == 0x01 || islandLivery liv
    else if n.val = 8 then cvuAllows s liv off len
    else true
  | .iod n, .read => if n.val = 8 then cvuAllows s liv off len else true
  | .die _ n, .write => n.val ≠ 10 || islandLivery liv
  | .island _ n, .write => (n.val ≠ 0 && n.val ≠ 6) || islandLivery liv
  | _, .read => true

/-- What a target itself allows: the descriptor table has no writer on the fabric (R253), Tables 8-2 and 9-8, the flash window
is read-only (R38). -/
def placeAllows (s : State) (p : Spot) (liv : Byte) (len : Nat) (k : Kind) : Bool :=
  match p.place with
  | .kpmTable => k == .read
  | .mplSram => rowsAllow (mplRows s liv) p.off len k
  | .fusMem => rowsAllow (fusRows s liv) p.off len k
  | .islFlash _ => k == .read
  | _ => true

/-- The initiator that a livery of Table 13-3 names, where it is not an engine: an island or a block of the IOD core. -/
def livSource (liv : Byte) : Initiator :=
  if liv == 0x0A then .island .sia else if liv == 0x0B then .island .sib else .iod

/-- A transaction gets to its target: every link and unit of its way serves it (R26-R30), a stack's MCT is READY. -/
def reachable (s : State) (p : Spot) (src : Initiator) : Bool :=
  wayOpen s (wayOf s src p.tgt) && (match p.place with | .hbm n => (mct s n).st == 2 | _ => true)

/-- What decoding and the checks on the way come to. -/
inductive Admit where
  | refused (st : Byte) (s : State)
  | spot (p : Spot) (s : State)

/-- What the firewall (R468, R469) and the target's own table say of an access: the state after a refusal. -/
def firewalled (s : State) (p : Spot) (liv : Byte) (len : Nat) (k : Kind) : Option State :=
  if !fwAllows s p.tgt liv p.off len k || !blockAllows s p.tgt liv p.off len k then some (fwRefuse s p.tgt liv p.off k)
  else if !placeAllows s p liv len k then some s
  else none

/-- Decoding (R35-R37), the way by the route in use (R26-R30), the firewall, the target's own table, its clock (R562). -/
def grants (s : State) (liv : Byte) (addr len : Nat) (k : Kind) (src : Initiator) : Admit :=
  match decodeRange addr len with
  | none => .refused stFirewall (decodeRefuse s addr liv)
  | some p =>
    let s := settleFor s src p.tgt
    if !reachable s p src then .refused stInternal (timeOut s (targetUnit p.tgt))
    else match firewalled s p liv len k with
      | some t => .refused stFirewall t
      | none => if gated s p.tgt then .refused stNotReady s else .spot p s

/-! Reads. -/

/-- Registers in ascending order, one 32-bit access each (R6, R450). -/
def readRegs (s : State) (t : FwTarget) : Nat → Nat → List Word × State
  | 0, _ => ([], s)
  | n + 1, o =>
    let r := readReg s t o
    let x := readRegs r.2 t n (o + 4)
    (r.1 :: x.1, x.2)

/-- A byte of MPL SRAM: the field buffers as built; the node store and the state hash cleared until a search has run (R319), then
with bytes that the spec does not define (Table 8-2). -/
def mplByte (s : State) (ep a : Nat) : Byte :=
  let cell := fun (f : Field) (o : Nat) => BitVec.ofNat 8 (fieldByte f (o / 0x40000) (o % 0x40000 / 512) (o % 512))
  if a < 0x800000 then cell s.mpl.buf0 a
  else if a < 0x1000000 then cell s.mpl.buf1 (a - 0x800000)
  else if a < 0x1600000 then (if s.mpl.searched then Config.openByte ep a else 0)
  else memByte s.mpl.sram a

def tableBytes (k : TrackTable) : List Byte :=
  wordsBytes (tableHeader k ++ (List.range 1024).flatMap (slotRecord k))

/-- Bytes of the FUS working memory: tables and report as published, the rest as written; behind the report's 192 bytes the
spec states none. -/
def fusBytes (s : State) (ep off len : Nat) : List Byte :=
  if 0x440000 ≤ off then
    (List.range len).map (fun i => ((wordsBytes s.fus.report)[off - 0x440000 + i]?).getD (Config.openByte ep i))
  else if 0x420000 ≤ off then ((tableBytes s.fus.table1).drop (off - 0x420000)).take len
  else if 0x400000 ≤ off then ((tableBytes s.fus.table0).drop (off - 0x400000)).take len
  else memRd s.fus.mem off len

def kpmBytes (s : State) (off len : Nat) : List Byte :=
  ((wordsBytes ((List.range (len / 32 + 2)).flatMap (fun i => pageWords (page s (off / 32 + i))))).drop (off % 32)).take len

/-- Bytes of an island's flash. The state record and the logbook, whose bytes the spec does not lay out and which the island
rewrites by itself (Table 16-3), are free at every read. -/
def flashBytes (x : Island) (ep off len : Nat) : List Byte :=
  (memRd x.flash off len).zipIdx.map (fun e =>
    if 0x10000 ≤ off + e.2 && off + e.2 < 0x60000 then Config.openByte ep e.2 else e.1)

/-- What a read of a spot outside the stacks delivers. -/
def readSpot (s : State) (p : Spot) (len : Nat) : List Byte × State :=
  match p.place with
  | .reg t => let r := readRegs s t (len / 4) p.off; (wordsBytes r.1, r.2)
  | .kpmTable => (kpmBytes s p.off len, s)
  | .mplSram => ((List.range len).map (fun i => mplByte s s.free (p.off + i)), (fresh s).2)
  | .fusMem => (fusBytes s s.free p.off len, (fresh s).2)
  | .islRam i => (memRd (isl s i).ram p.off len, s)
  | .islFlash i => (flashBytes (isl s i) s.free p.off len, (fresh s).2)
  | .hbm _ => ([], s)

/-! Writes. -/

def writeRegs (s : State) (t : FwTarget) : Nat → List Word → State
  | _, [] => s
  | o, w :: r => writeRegs (writeReg s t o w) t (o + 4) r

/-- A write to MPL SRAM: to the occupancy area it waits for a build, to the primitive table for a search that runs (R289, R294).
The flag says that it took effect at once. -/
def writeMplMem (s : State) (w : HeldWrite) : Bool × State :=
  let occ := anyOverlap w.addr w.data.length occBase 0x100000
  let prim := anyOverlap w.addr w.data.length primBase 0x80000
  if occ && (building s.mpl || !s.mpl.heldOcc.isEmpty) then (false, setMpl s (fun m => { m with heldOcc := m.heldOcc ++ [w] }))
  else if prim && ((running s.mpl).isSome || !s.mpl.heldPrim.isEmpty) then
    (false, setMpl s (fun m => { m with heldPrim := m.heldPrim ++ [w] }))
  else (true, releaseWrite s w)

/-- A write to the FUS working memory: a publish word is a sample's publish (R327); a buffer being copied makes it wait
(R332). -/
def writeFusMem (s : State) (w : HeldWrite) : Bool × State :=
  if w.addr < 0x10000 then
    let m := memWr s.fus.mem w.addr w.data
    (true, publishWord s (w.addr / 0x80) (nth (memRdW m (w.addr / 0x80 * 0x80) 1) 0) s.vtime)
  else if inCopy s w.addr w.data.length then (false, setFus s (fun u => { u with held := u.held ++ [w] }))
  else (true, setFus s (fun u => { u with mem := memWr u.mem w.addr w.data }))

/-- The engine of an initiator. -/
def srcEng : Initiator → Option EngId
  | .engine g => some g
  | _ => none

/-- A write to a spot outside the stacks, by an initiator that waits for its completion or (`owed` false) has its answer. -/
def writeSpot (s : State) (p : Spot) (src : Initiator) (owed : Bool) (liv : Byte) (data : List Byte) : Bool × State :=
  let w : HeldWrite := {
    addr := p.off, data := data, livery := liv, path := (wayOf s src p.tgt).links, born := s.vtime, owed := owed
    eng := srcEng src }
  match p.place with
  | .reg t => (true, writeRegs s t p.off (bytesWords data))
  | .mplSram => writeMplMem s w
  | .fusMem => writeFusMem s w
  | .islRam i => (true, modIsl s i (fun x => { x with ram := memWr x.ram p.off data }))
  | _ => (true, s)

/-! Island memories in pieces (R453, R648). -/

def isFlash (a : Access) : Bool := a.addr.toNat / 0x4000000 % 4 == 2

/-- The next piece of an access: the island after it, and the access as it goes on. A read's bytes gather in `data`; a write's
leave it. `ep` numbers the free bytes of a read. -/
def pieceOf (x : Island) (ep : Nat) (a : Access) : Island × Access :=
  let off := a.addr.toNat % 0x4000000
  match a.kind with
  | .read =>
    let got := a.data.length
    let n := min 32 (a.len - got)
    (x, { a with data := a.data ++ if isFlash a then flashBytes x ep (off + got) n else memRd x.ram (off + got) n })
  | .write =>
    let n := min 32 a.data.length
    ({ x with ram := memWr x.ram off (a.data.take n) }, { a with addr := a.addr + BitVec.ofNat 48 n, data := a.data.drop n })

def pieceDone (a : Access) : Bool :=
  match a.kind with
  | .read => a.len ≤ a.data.length
  | .write => a.data.isEmpty

/-- One piece of the oldest access to an island's memories is served; the access completes with its last piece. -/
def servePiece (s : State) (i : Isl) : State :=
  match (isl s i).pieces with
  | [] => s
  | a :: r =>
    let k := pieceOf (isl s i) s.free a
    let s := if isFlash a then (fresh s).2 else s
    if pieceDone k.2 then
      emit (setIsl s i { k.1 with pieces := r }) (.fabric a.livery stOk (if a.kind = .read then k.2.data else []))
    else setIsl s i { k.1 with pieces := k.2 :: r }

/-- ISLAND_MEM_PIECE. -/
def execIslandMemPiece (i : Isl) (s : State) : Out := .next (servePiece s i)

/-- Pieces left of an access. -/
def piecesLeft (a : Access) : Nat :=
  match a.kind with
  | .read => (a.len - a.data.length) / 32 + 1
  | .write => a.data.length / 32 + 1

/-- Every access under way at an island's memories is served to its end. -/
def servePieces (s : State) (i : Isl) : State :=
  (List.range ((isl s i).pieces.map piecesLeft).sum).foldl (fun s _ => servePiece s i) s

/-! FABRIC_ACCESS. -/

/-- The links that a transaction of an initiator with a stack passes. -/
def linksTo (s : State) (src : Initiator) (n : DieId) : List LinkId := (wayOf s src (.die n 14)).links

/-- A transaction at a stack (R432-R435, R445, R446, R646); the symbols that have gone bad by then are those of its first
burst. -/
def hbmAccess (s : State) (n : DieId) (off : Nat) (a : Access) : State :=
  let s := modMct s n (fun m => addFlaws m (off / 32) a.flaws)
  let port := portOf s a.src n
  let path := linksTo s a.src n
  match a.kind with
  | .read =>
    let r := acceptRead s n port a.livery path off a.len
    if readFree (mct r.2 n) r.1 then hbmAnswer r.2 n r.1 else modMct r.2 n (fun m => { m with reads := m.reads ++ [r.1] })
  | .write =>
    let compat := (mct s n).compat
    match hbmOffer s n { port := port, livery := a.livery, off := off, data := a.data, path := path, owed := compat } with
    | (some st, t) => emit t (.fabric a.livery st [])
    | (none, t) => if compat then t else emit t (.fabric a.livery stOk [])

/-- The bytes a transaction spans: a write carries its own. -/
def accLen (a : Access) : Nat :=
  match a.kind with
  | .read => a.len
  | .write => a.data.length

/-- FABRIC_ACCESS: a transaction reaches its target. -/
def execFabricAccess (a : Access) (s : State) : Out :=
  .next (match grants s a.livery a.addr.toNat (accLen a) a.kind a.src with
    | .refused st t => emit t (.fabric a.livery st [])
    | .spot p s =>
      match p.place with
      | .hbm n => hbmAccess s n p.off a
      | .islRam i => modIsl s i (fun x => { x with pieces := x.pieces ++ [if a.kind = .read then { a with data := [] } else a] })
      | .islFlash i => modIsl s i (fun x => { x with pieces := x.pieces ++ [{ a with data := [] }] })
      | _ =>
        match a.kind with
        | .read => let r := readSpot s p a.len; emit r.2 (.fabric a.livery stOk r.1)
        | .write =>
          let r := writeSpot s p a.src true a.livery a.data
          if r.1 then emit r.2 (.fabric a.livery stOk []) else r.2)

/-- REGISTER_WRITE: one register is written by its access types (R9-R13). -/
def execRegisterWrite (livery : Byte) (addr : BitVec 48) (v : Word) (s : State) : Out :=
  .next (match grants s livery addr.toNat 4 .write (livSource livery) with
    | .refused st t => emit t (.fabric livery st [])
    | .spot p s =>
      match p.place with
      | .reg t => emit (writeReg s t p.off v) (.fabric livery stOk [])
      | _ => s)

/-- The device physical address of a register in the FWL block of a target (Tables 1-8 to 1-10; 13 R467). -/
def fwlAddr (t : FwTarget) (off : Nat) : Nat :=
  (match t with
  | .iod _ => 0xF000C00000
  | .die n _ => 0xF100A00000 + 0x1000000 * n
  | .island .sia _ => 0xF200600000
  | .island .sib _ => 0xF210600000) + 0x4000 * tgtIdx t + off

/-- FWL_REGION_WRITE: a firewall register of a target, by the islands alone (R471); whole, aligned words (R35). -/
def execFwlRegionWrite (livery : Byte) (t : FwTarget) (off : Fin 16384) (v : Word) (s : State) : Out :=
  .next (
    let b := fwlBlock t
    if off.val % 4 ≠ 0 then emit (decodeRefuse s (fwlAddr t off) livery) (.fabric livery stFirewall [])
    else if !wayOpen s (wayOf s (livSource livery) b) then emit (timeOut s (targetUnit b)) (.fabric livery stInternal [])
    else if islandLivery livery then
      if gated s b then emit s (.fabric livery stNotReady [])
      else emit (modFwl s t (fun f => if off.val = 0 then fwlStatClr f v else regionWrite f off v)) (.fabric livery stOk [])
    else emit (fwRefuse s b livery (0x4000 * tgtIdx t + off) .write) (.fabric livery stFirewall []))

/-! Class 0x4 (Table 12-3). -/

/-- A range named by a packet of the IOD core. A count of 0 makes no transaction: decoding and the firewalls alone can refuse it
(R131). -/
def admitPkt (s : State) (k : Pkt) (addr len : Nat) (kind : Kind) : Admit :=
  let liv := ctxLivery s (pktCtx k)
  if len ≠ 0 then grants s liv addr len kind .iod
  else match decodeRange addr 4 with
    | none => .refused stFirewall (decodeRefuse s addr liv)
    | some p => (firewalled s p liv 4 kind).elim (.spot p s) (.refused stFirewall)

/-- The refusal of a named range: a firewall's at step 10 with the range's word; an unreachable or gated unit in execution. -/
def refusedAt (st : Byte) (idx : Nat) (s : State) : Verdict :=
  if st = stFirewall then .refuseIn st 10 idx s else .answer st [execDetail] s

/-- What decoding and the firewall say of a range that parameter word `idx` names, or of its first word where its length is
malformed (step 10 goes word by word, R116). -/
def namedRange (s : State) (k : Pkt) (addr len : Nat) (ok : Bool) (kind : Kind) (idx : Nat) : Option Verdict :=
  let liv := ctxLivery s (pktCtx k)
  let n := if ok && len ≠ 0 then len else 4
  match decodeRange addr n with
  | none => some (.refuseIn stFirewall 10 idx (decodeRefuse s addr liv))
  | some p => (firewalled s p liv n kind).map (fun t => .refuseIn stFirewall 10 idx t)

/-- MEM_READ (R449, R450). -/
def rowMemRead : OpDef :=
  opDef (fixedRow 4 0 3) (fun s k =>
    let a := par64 k 0
    let n := parN k 2
    let ok := n % 4 = 0 && n ≤ 65516
    if a % 4 ≠ 0 then .refuse stBadParam 10 4
    else match namedRange s k a n ok .read 4 with
    | some v => v
    | none =>
      if !ok then .refuse stBadParam 10 6
      else match admitPkt s k a n .read with
        | .refused st t => refusedAt st 4 t
        | .spot q s =>
          if n = 0 then .answer stOkEmpty [] s
          else
            let s := match q.place with
              | .islRam i => servePieces s i
              | .islFlash i => servePieces s i
              | _ => s
            match q.place with
            | .hbm d =>
              match hbmGet s d .spine (ctxLivery s (pktCtx k)) q.off n with
              | (some bs, t) => .answer stOk (bytesWords bs) t
              | (none, t) => .answer stBadCheck [execDetail] t
            | _ => let r := readSpot s q n; .answer stOk (bytesWords r.1) r.2)

/-- What the IOD core writes for a packet. -/
def putRange (s : State) (k : Pkt) (q : Spot) (data : List Byte) : Verdict :=
  let liv := ctxLivery s (pktCtx k)
  match q.place with
  | .hbm d =>
    match hbmPut s d liv q.off data with
    | (none, t) => .answer stOk [] t
    | (some st, t) => .answer st [execDetail] t
  | .islRam i => .answer stOk [] (writeSpot (servePieces s i) q .iod false liv data).2
  | _ => .answer stOk [] (writeSpot s q .iod false liv data).2

/-- MEM_WRITE (R449, R450). -/
def rowMemWrite : OpDef :=
  opDef { cls := 4, op := 1, lenIdx := 6, lenOk := fun k => pktLen k == parN k 2 + 3 } (fun s k =>
    let a := par64 k 0
    let n := 4 * parN k 2
    if a % 4 ≠ 0 then .refuse stBadParam 10 4
    else match namedRange s k a n true .write 4 with
    | some v => v
    | none =>
      match admitPkt s k a n .write with
      | .refused st t => refusedAt st 4 t
      | .spot q s => if n = 0 then .answer stOkEmpty [] s else putRange s k q (wordsBytes (parsFrom k 3)))

/-- The first address past the HBM windows (Table 1-7). -/
abbrev hbmEnd : Nat := 0x3000000000

/-- MEM_FILL (R450, R451). -/
def rowMemFill : OpDef :=
  opDef (fixedRow 4 2 5) (fun s k =>
    let a := par64 k 0
    let n := par64 k 2
    let ok := n % 4 = 0 && n ≤ 2 ^ 24
    if a % 4 ≠ 0 || hbmEnd ≤ a || (ok && hbmEnd < a + n) then .refuse stBadParam 10 4
    else match namedRange s k a n ok .write 4 with
    | some v => v
    | none =>
      if !ok then .refuse stBadParam 10 6
      else match admitPkt s k a n .write with
        | .refused st t => refusedAt st 4 t
        | .spot q s =>
          if n = 0 then .answer stOkEmpty [] s
          else putRange s k q (List.replicate (n / 4) (wordBytes (par k 4))).flatten)

/-- MEM_COPY: both ranges are checked whole before the first byte moves; the reply is deferred (R451). Which parameter word
ranges that overlap offend in is not stated: the refusal names none, 0xFFFF (DESIGN CHOICE, log entry 156). -/
def rowMemCopy : OpDef :=
  opDef (fixedRow 4 3 6) (fun s k =>
    let a := par64 k 0
    let b := par64 k 2
    let n := par64 k 4
    let ok := n % 4 = 0 && n ≤ 2 ^ 34
    if a % 4 ≠ 0 || hbmEnd ≤ a || (ok && hbmEnd < a + n) then .refuse stBadParam 10 4
    else match namedRange s k a n ok .read 4 with
    | some v => v
    | none =>
    if b % 4 ≠ 0 || hbmEnd ≤ b || (ok && hbmEnd < b + n) then .refuse stBadParam 10 6
    else match namedRange s k b n ok .write 6 with
    | some v => v
    | none =>
    if !ok then .refuse stBadParam 10 8
    else if anyOverlap a n b n then .refuse stBadParam 10 0xFFFF
    else match admitPkt s k a n .read with
      | .refused st t => refusedAt st 4 t
      | .spot _ s =>
        match admitPkt s k b n .write with
        | .refused st t => refusedAt st 6 t
        | .spot _ s =>
          if n = 0 then .answer stOkEmpty [] s
          else
            let id := s.dis.nextId
            .later (.memCopy id) (setDis s (fun d => { d with
              nextId := id + 1
              copies := d.copies ++ [{ id := id, src := a, dst := b, len := n, livery := ctxLivery s (pktCtx k) }] })))

/-- The stacks of a copy serve it still. -/
def copyUp (s : State) (c : MemCopy) : Option DieId :=
  [c.src, c.dst].findSome? (fun a =>
    let n : DieId := fin (by decide) (a / 2 ^ 34)
    if (mct s n).st = 2 && wayOpen s (wayOf s .iod (.die n 14)) then none else some n)

/-- MEM_COPY_END: the bytes stand at the destination and the deferred reply is sent (R451). -/
def execMemCopyEnd (id : Nat) (s : State) : Out :=
  .next (match s.dis.copies.find? (fun c => c.id == id) with
    | none => s
    | some c =>
      match copyUp s c with
      | some n => failCopy (timeOut s (.die n)) c
      | none =>
        let x := copyMove (dropCopy s id) c c.len
        completeDefers x.2.2 (.memCopy id) (if x.2.1 then stBadCheck else stOk) (two x.1))

end Sys2Proof.Machine
end

