-- ==== Sys2Proof/Machine/Commands.lean ====
section
/-! DEFINITION. The opcode list (03, Tables 3-13 to 3-15) and the rows that carry out one packet: the packets that wait at a port
are checked in their order of arrival against the list, and the one that R123 chooses is carried out by the row of its
opcode. -/

namespace Sys2Proof.Machine

/-! The list, by subject. -/

/-- System, stage and timetable (classes 0x0, 0x1). -/
def sysRows : List OpDef :=
  [rowSysIdentity, rowSysEcho, rowSysAliveSync, rowSysAlertEn, rowStgGet, rowStgSet, rowTtOpen, rowTtWrite,
    rowTtVerify, rowTtArm, rowTtCancel, rowTtStatus, rowProfileSet]

/-- Waybills, queues, contexts and objects (classes 0x2, 0x3). -/
def queueRows : List OpDef :=
  [rowWbSubmit, rowWbStatus, rowQQuery, rowCtxPreempt, rowCtxResume, rowCtxRebind, rowSynInit, rowSynSignal,
    rowSynDecrement, rowSynWait, rowSynQuery]

/-- Memory and the KV cache (classes 0x4, 0x7). -/
def memRows : List OpDef :=
  [rowMemRead, rowMemWrite, rowMemFill, rowMemCopy, rowMctCommit, rowKvAlloc, rowKvFree, rowKvShare,
    rowKvQuery, rowKvStats]

/-- The planner and the fusion engine (classes 0x5, 0x6). -/
def planRows : List OpDef :=
  [rowMplCfg, rowMplCandidates, rowMplStatus, rowFusCfg, rowFusMask, rowFusUnmask, rowFusTracks,
    rowFusReport, rowFusClear, rowMplSearch, rowMplSearchBuild, rowMplCheck .clean, rowMplCheckInline .clean]

/-- Check-value units, diagnostics and the islands' services (classes 0x8, 0xC). -/
def checkRows : List OpDef :=
  [rowCvuCfg, rowCvuFeed, rowCvuResult, rowCvuResultReset, rowCvuAliveRead, rowCvuAliveLoad,
    rowCvuAliveCheck, rowCvuAliveAdvance, rowDiagLogRead false, rowDiagCounters, rowDiagSelftest, rowSisStatus,
    rowSisFlashErase, rowSisFlashProgram, rowSisLogbook]

/-- Clocks, resets and bypasses, trust, thermal (classes 0x9, 0xA, 0xB). -/
def platRows : List OpDef :=
  [rowSecToken, rowSecAttest, rowSecFwOpen, rowSecFwWrite, rowSecFwActivate, rowClkStatus, rowClkSelect,
    rowClkGateOpen, rowClkGateClose, rowRstUnitReset, rowRstUnitReadmit, rowRstUnitRetire, rowOrpBypassClose,
    rowOrpBypassOpen, rowThmStatus, rowThmLimits, rowThmAgeing]

/-- Every opcode that is defined (Table 3-15). -/
def opTable : List OpDef := sysRows ++ queueRows ++ memRows ++ planRows ++ checkRows ++ platRows

/-- The row of a packet's opcode: none where the opcode is not defined (step 5 of Table 3-10). -/
def rowOf (k : Pkt) : Option OpDef := opTable.find? (fun o => ofRow o k)

/-- One packet of a row at a port. -/
def onPort (o : OpDef) (p : Port) (s : State) : Out := .next (runRow rowOf o p s)

/-! The rows. -/

/-- The dispatcher's turn for a port at which a packet of an undefined opcode has arrived: it is refused (step 5 of Table 3-10). -/
def execUndefinedOpcode (p : Port) (s : State) : Out :=
  .next (if present s p (fun k => (rowOf k).isNone) then turn rowOf p (arrivals s p) s else s)
def execSysIdentity (p : Port) (s : State) : Out := onPort rowSysIdentity p s
def execSysEcho (p : Port) (s : State) : Out := onPort rowSysEcho p s
def execSysAliveSync (p : Port) (s : State) : Out := onPort rowSysAliveSync p s
def execSysAlertEn (p : Port) (s : State) : Out := onPort rowSysAlertEn p s
def execStgGet (p : Port) (s : State) : Out := onPort rowStgGet p s
def execStgSet (p : Port) (s : State) : Out := onPort rowStgSet p s
def execTtOpen (p : Port) (s : State) : Out := onPort rowTtOpen p s
def execTtWrite (p : Port) (s : State) : Out := onPort rowTtWrite p s
def execTtVerify (p : Port) (s : State) : Out := onPort rowTtVerify p s
def execTtArm (p : Port) (s : State) : Out := onPort rowTtArm p s
def execTtCancel (p : Port) (s : State) : Out := onPort rowTtCancel p s
def execTtStatus (p : Port) (s : State) : Out := onPort rowTtStatus p s
def execProfileSet (p : Port) (s : State) : Out := onPort rowProfileSet p s
def execWbSubmit (p : Port) (s : State) : Out := onPort rowWbSubmit p s
def execWbStatus (p : Port) (s : State) : Out := onPort rowWbStatus p s
def execQQuery (p : Port) (s : State) : Out := onPort rowQQuery p s
def execCtxPreempt (p : Port) (s : State) : Out := onPort rowCtxPreempt p s
def execCtxResume (p : Port) (s : State) : Out := onPort rowCtxResume p s
def execCtxRebind (p : Port) (s : State) : Out := onPort rowCtxRebind p s
def execSynInit (p : Port) (s : State) : Out := onPort rowSynInit p s
def execSynSignal (p : Port) (s : State) : Out := onPort rowSynSignal p s
def execSynDecrement (p : Port) (s : State) : Out := onPort rowSynDecrement p s
def execSynWait (p : Port) (s : State) : Out := onPort rowSynWait p s
def execSynQuery (p : Port) (s : State) : Out := onPort rowSynQuery p s
def execMemRead (p : Port) (s : State) : Out := onPort rowMemRead p s
def execMemWrite (p : Port) (s : State) : Out := onPort rowMemWrite p s
def execMemFill (p : Port) (s : State) : Out := onPort rowMemFill p s
def execMemCopy (p : Port) (s : State) : Out := onPort rowMemCopy p s
def execMctCommit (p : Port) (s : State) : Out := onPort rowMctCommit p s
def execKvAlloc (p : Port) (s : State) : Out := onPort rowKvAlloc p s
def execKvFree (p : Port) (s : State) : Out := onPort rowKvFree p s
def execKvShare (p : Port) (s : State) : Out := onPort rowKvShare p s
def execKvQuery (p : Port) (s : State) : Out := onPort rowKvQuery p s
def execKvStats (p : Port) (s : State) : Out := onPort rowKvStats p s
def execMplCfg (p : Port) (s : State) : Out := onPort rowMplCfg p s
def execMplCandidates (p : Port) (s : State) : Out := onPort rowMplCandidates p s
def execMplStatus (p : Port) (s : State) : Out := onPort rowMplStatus p s
def execFusCfg (p : Port) (s : State) : Out := onPort rowFusCfg p s
def execFusMask (p : Port) (s : State) : Out := onPort rowFusMask p s
def execFusUnmask (p : Port) (s : State) : Out := onPort rowFusUnmask p s
def execFusTracks (p : Port) (s : State) : Out := onPort rowFusTracks p s
def execFusReport (p : Port) (s : State) : Out := onPort rowFusReport p s
def execFusClear (p : Port) (s : State) : Out := onPort rowFusClear p s
def execCvuCfg (p : Port) (s : State) : Out := onPort rowCvuCfg p s
def execCvuFeed (p : Port) (s : State) : Out := onPort rowCvuFeed p s
def execCvuResult (p : Port) (s : State) : Out := onPort rowCvuResult p s
def execCvuResultReset (p : Port) (s : State) : Out := onPort rowCvuResultReset p s
def execCvuAliveRead (p : Port) (s : State) : Out := onPort rowCvuAliveRead p s
def execCvuAliveLoad (p : Port) (s : State) : Out := onPort rowCvuAliveLoad p s
def execCvuAliveCheck (p : Port) (s : State) : Out := onPort rowCvuAliveCheck p s
def execCvuAliveAdvance (p : Port) (s : State) : Out := onPort rowCvuAliveAdvance p s
def execDiagLogRead (p : Port) (s : State) (ramFault : Bool := false) : Out := onPort (rowDiagLogRead ramFault) p s
def execDiagCounters (p : Port) (s : State) : Out := onPort rowDiagCounters p s
def execDiagSelftest (p : Port) (s : State) : Out := onPort rowDiagSelftest p s
def execSisStatus (p : Port) (s : State) : Out := onPort rowSisStatus p s
def execSisFlashErase (p : Port) (s : State) : Out := onPort rowSisFlashErase p s
def execSisFlashProgram (p : Port) (s : State) : Out := onPort rowSisFlashProgram p s
def execSisLogbook (p : Port) (s : State) : Out := onPort rowSisLogbook p s
def execSecToken (p : Port) (s : State) : Out := onPort rowSecToken p s
def execSecAttest (p : Port) (s : State) : Out := onPort rowSecAttest p s
def execSecFwOpen (p : Port) (s : State) : Out := onPort rowSecFwOpen p s
def execSecFwWrite (p : Port) (s : State) : Out := onPort rowSecFwWrite p s
def execSecFwActivate (p : Port) (s : State) : Out := onPort rowSecFwActivate p s
def execClkStatus (p : Port) (s : State) : Out := onPort rowClkStatus p s
def execClkSelect (p : Port) (s : State) : Out := onPort rowClkSelect p s
def execClkGateOpen (p : Port) (s : State) : Out := onPort rowClkGateOpen p s
def execClkGateClose (p : Port) (s : State) : Out := onPort rowClkGateClose p s
def execRstUnitReset (p : Port) (s : State) : Out := onPort rowRstUnitReset p s
def execRstUnitReadmit (p : Port) (s : State) : Out := onPort rowRstUnitReadmit p s
def execRstUnitRetire (p : Port) (s : State) : Out := onPort rowRstUnitRetire p s
def execOrpBypassClose (p : Port) (s : State) : Out := onPort rowOrpBypassClose p s
def execOrpBypassOpen (p : Port) (s : State) : Out := onPort rowOrpBypassOpen p s
def execThmStatus (p : Port) (s : State) : Out := onPort rowThmStatus p s
def execThmLimits (p : Port) (s : State) : Out := onPort rowThmLimits p s
def execThmAgeing (p : Port) (s : State) : Out := onPort rowThmAgeing p s
def execMplCheck (p : Port) (ev : CheckEvent) (s : State) : Out := onPort (rowMplCheck ev) p s
def execMplCheckInline (p : Port) (ev : CheckEvent) (s : State) : Out := onPort (rowMplCheckInline ev) p s

/-- MPL_SEARCH without a build, from a port or from a command of the planning context (08, Table 8-8). -/
def execMplSearch (src : SearchSrc) (s : State) : Out :=
  match src with
  | .packet p => onPort rowMplSearch p s
  | .timetable par => .next (timetableSearch false par s)

/-- MPL_SEARCH with a build. -/
def execMplSearchBuild (src : SearchSrc) (s : State) : Out :=
  match src with
  | .packet p => onPort rowMplSearchBuild p s
  | .timetable par => .next (timetableSearch true par s)

end Sys2Proof.Machine
end

