-- ==== Sys2Proof/Machine/Conv.lean ====
section
/-! DEFINITION. Convolution (06 R220-R241): DENSE, GROUPED and DEPTHWISE over planes in the resident store. -/

namespace Sys2Proof.Machine

/-- The fields of Table 6-1. -/
structure ConvDesc where
  inW : Nat
  inH : Nat
  outW : Nat
  outH : Nat
  cout : Nat
  cin : Nat
  aR : Nat
  aL : Nat
  aP : Nat
  cL : Nat
  cP : Nat
  cR : Nat
  pEn : Bool
  pR : Nat
  pL : Nat
  padL : Int
  padT : Int
  dilX : Nat
  dilY : Nat
  strX : Nat
  strY : Nat
  kw : Nat
  kh : Nat
  wAddr : Nat
  stepX : Nat
  stepY : Nat
  phX : Nat
  phY : Nat
  rgOut : Bool
  f : Nat          -- regroup factor, 1 for none
  scaleEn : Bool
  scaleL : Nat
  biasEn : Bool
  biasL : Nat
  gout : Nat
  gin : Nat
  shift : Nat
  rnd : Nat
  act : Nat
  fa : Nat
  fb : Nat
  fo : Nat

def convDesc (ws : List Word) : ConvDesc :=
  { inW := df ws 2 31 16, inH := df ws 2 15 0, outW := df ws 3 31 16, outH := df ws 3 15 0
    cout := df ws 4 31 16, cin := df ws 4 15 0, aR := df ws 5 30 16, aL := df ws 5 14 0, aP := df ws 6 30 16
    cL := df ws 6 14 0, cP := df ws 7 30 16, cR := df ws 7 14 0, pEn := tbit (nth ws 8) 31, pR := df ws 8 30 16
    pL := df ws 8 14 0, padL := sx 6 (df ws 9 31 26), padT := sx 6 (df ws 9 25 20), dilX := df ws 9 19 17 + 1
    dilY := df ws 9 16 14 + 1, strX := df ws 9 13 11 + 1, strY := df ws 9 10 8 + 1, kw := df ws 9 5 3 + 1
    kh := df ws 9 2 0 + 1, wAddr := (nth ws 10).toNat + 2 ^ 32 * df ws 11 15 0, stepX := df ws 11 31 29 + 1
    stepY := df ws 11 28 26 + 1, phX := df ws 11 25 23, phY := df ws 11 22 20, rgOut := tbit (nth ws 11) 19
    f := 2 ^ df ws 11 18 17, scaleEn := tbit (nth ws 12) 31, scaleL := df ws 12 30 16, biasEn := tbit (nth ws 12) 15
    biasL := df ws 12 14 0, gout := df ws 13 31 24, gin := df ws 13 23 16, shift := df ws 13 12 8, rnd := df ws 13 5 4
    act := df ws 13 3 0, fa := dFa ws, fb := dFb ws, fo := dFo ws }

def convInt (d : ConvDesc) : Bool := pairInt d.fa d.fb
def convKt (d : ConvDesc) : Nat := (pairKt d.fa d.fb).getD 1

/-- Channels of the plane the filter sees (R233, R239). -/
def cinSeen (d : ConvDesc) : Nat := if d.f ≠ 1 && !d.rgOut then d.cin * d.f ^ 2 else d.cin

/-- The place in C of an output: plane, row, column (R226, R240). -/
def cPlace (d : ConvDesc) (co i j : Nat) : Nat × Nat × Nat :=
  if d.f ≠ 1 && d.rgOut then
    let q := co % d.f ^ 2
    (co / d.f ^ 2, i * d.f + q / d.f, j * d.f + q % d.f)
  else (co, d.phY + i * d.stepY, d.phX + j * d.stepX)

/-- Planes, rows and row width of C up to the last output. -/
def cPlanes (d : ConvDesc) : Nat := if d.f ≠ 1 && d.rgOut then d.cout / d.f ^ 2 else d.cout
def cRows (d : ConvDesc) : Nat :=
  if d.outH = 0 then 0 else if d.f ≠ 1 && d.rgOut then d.outH * d.f else d.phY + (d.outH - 1) * d.stepY + 1
def cWidth (d : ConvDesc) : Nat :=
  if d.outW = 0 then 0 else if d.f ≠ 1 && d.rgOut then d.outW * d.f else d.phX + (d.outW - 1) * d.stepX + 1

/-- The lines of planes of rows as a mask: bit l for line l. -/
def planeMask (line pstride rstride planes : Nat) (rows : List Nat) (w : Nat) : Nat :=
  (List.range planes).foldl (fun m p => rows.foldl (fun m r => m ||| ((2 ^ w - 1) <<< (line + p * pstride + r * rstride))) m) 0

/-- Lines of a row of `n` elements of C; HXB4 rows in whole blocks. -/
def cLines (f n : Nat) : Nat := if f = 8 then cdiv (17 * cdiv n 32) 128 else rowLines f n

/-- R228, over the rows of C that an output addresses (DESIGN CHOICE, log entry 176). -/
def convOverlapOk (d : ConvDesc) : Bool :=
  let a := planeMask d.aL d.aP d.aR d.cin (List.range d.inH) (rowLines d.fa d.inW)
  let rows := (List.range d.outH).flatMap (fun i =>
    if d.f ≠ 1 && d.rgOut then (List.range d.f).map (fun y => i * d.f + y) else [d.phY + i * d.stepY])
  let c := planeMask d.cL d.cP d.cR (cPlanes d) rows (cLines d.fo (cWidth d))
  let p := if d.pEn then planeMask d.pL (d.outH * d.pR) d.pR d.cout (List.range d.outH) (rowLines fmtF32 d.outW) else 0
  let same := d.fo = (if convInt d then fmtInt32 else fmtF32) && d.pL = d.cL && d.pR = d.cR && d.cP = d.outH * d.pR &&
    d.stepX = 1 && d.stepY = 1 && d.phX = 0 && d.phY = 0
  (a &&& c) = 0 && (a &&& p) = 0 && ((p &&& c) = 0 || same)

/-- No dimension is zero (R231). -/
def convEmpty (ws : List Word) : Bool :=
  let d := convDesc ws
  d.inW = 0 || d.inH = 0 || d.outW = 0 || d.outH = 0 || d.cin = 0 || d.cout = 0

/-- Step 3 of every CONV (R221, R228, R230, R231, R197). -/
def convOk (ws : List Word) : Bool :=
  let d := convDesc ws
  (pairKt d.fa d.fb).isSome && d.fa ≠ 8 && d.fo ≤ 0xA &&
  !tbit (nth ws 5) 31 && !tbit (nth ws 5) 15 && !tbit (nth ws 6) 31 && !tbit (nth ws 6) 15 && !tbit (nth ws 7) 31 &&
  !tbit (nth ws 7) 15 && !tbit (nth ws 8) 15 && df ws 9 7 6 = 0 && !tbit (nth ws 11) 16 && df ws 13 15 13 = 0 && df ws 13 7 6 = 0 &&
  d.rnd ≤ 1 && d.kh ≤ 7 && d.kw ≤ 7 && (d.act ≤ 1 || d.act = 3) && d.phY < d.stepY && d.phX < d.stepX &&
  epiOk (convInt d) d.scaleEn d.shift d.act d.fo d.cout 0 0 &&
  planesIn d.aL d.aP d.aR d.cin d.inH (rowLines d.fa d.inW) &&
  planesIn d.cL d.cP d.cR (cPlanes d) (cRows d) (cLines d.fo (cWidth d)) &&
  (!d.pEn || planesIn d.pL (d.outH * d.pR) d.pR d.cout d.outH (rowLines fmtF32 d.outW)) &&
  (!d.scaleEn || linesIn d.scaleL (rowLines fmtF32 d.cout)) && (!d.biasEn || linesIn d.biasL (rowLines fmtF32 d.cout)) &&
  convOverlapOk d

/-- An element of A as the filter sees it: channel, row, column (R225, R239). -/
def aElem (d : ConvDesc) (plane : Nat → Nat → List Num) (c : Nat) (y x : Int) : Num :=
  let zero : Num := if isInt d.fa then .int 0 else .fl fzero
  let rg := d.f ≠ 1 && !d.rgOut
  let h := if rg then d.inH / d.f else d.inH
  let w := if rg then d.inW / d.f else d.inW
  if y < 0 || x < 0 || (h : Int) ≤ y || (w : Int) ≤ x then zero
  else if rg then
    let q := c % d.f ^ 2
    (plane (c / d.f ^ 2) (y.toNat * d.f + q / d.f)).getD (x.toNat * d.f + q % d.f) zero
  else (plane c y.toNat).getD x.toNat zero

/-- The taps in the order of R229. -/
def taps (d : ConvDesc) : List (Nat × Nat) := (List.range d.kh).flatMap (fun ky => (List.range d.kw).map (fun kx => (ky, kx)))

/-- What an output pixel reads for a list of channels, tap by tap. -/
def pixelRow (d : ConvDesc) (plane : Nat → Nat → List Num) (chs : List Nat) (r : Nat) : Vec :=
  let i := r / d.outW
  let j := r % d.outW
  { els := (taps d).flatMap (fun t => chs.map (fun c => aElem d plane c
      ((i * d.strY + t.1 * d.dilY : Nat) - d.padT) ((j * d.strX + t.2 * d.dilX : Nat) - d.padL)))
    blks := [] }

/-- The address of element `x` of a row of C. -/
def cAddr (d : ConvDesc) (p : Nat × Nat × Nat) : Nat := 128 * (d.cL + p.1 * d.cP + p.2.1 * d.cR)

/-- One element of a row is written. -/
def putElem (s : State) (g f addr x c : Nat) : State :=
  if f = 0 then
    let a := addr + x / 2
    let old := (memByte (eng s g).rs a).toNat
    let v := if x % 2 = 0 then old / 16 * 16 + c % 16 else old % 16 + 16 * (c % 16)
    rsWrAt s g a [BitVec.ofNat 8 v]
  else
    let k := fmtBits f / 8
    rsWrAt s g (addr + k * x) (natLe k c)

/-- A byte of a partly written HXB4 block: byte 0 is the shared exponent, byte 1 + k holds the codes of elements 2k and 2k + 1
(Table 5-3). The exponent and the codes of the places that are written are free, every other code stays (R226). -/
def partByte (places : List Nat) (old : Byte) (free : Byte) (i : Nat) : Byte :=
  let low := places.contains (2 * (i - 1))
  let high := places.contains (2 * (i - 1) + 1)
  if i = 0 then free
  else (if low then free else old) % 16 + 16 * ((if high then free else old) / 16)

/-- One block of a row of C in HXB4: with all of its 32 places written it is formed under R204; with only some, the spec does
not say what their shared exponent becomes, and what is written is free. -/
def putBlk (addr : Nat) (mine : List (Nat × Num)) (a : EngId × State × Cnt) (b : Nat) : EngId × State × Cnt :=
  let xs := (List.range 32).filterMap (fun i => (mine.find? (fun v => v.1 = 32 * b + i)).map (·.2))
  if xs.isEmpty then a
  else if xs.length = 32 then
    let r := numsRow 8 false xs
    (a.1, rsWrAt a.2.1 a.1.val (addr + 17 * b) r.1, a.2.2.add r.2)
  else
    let f := fresh a.2.1
    let places := (List.range 32).filter (fun i => mine.any (fun v => v.1 = 32 * b + i))
    let old := memRd (eng a.2.1 a.1).rs (addr + 17 * b) 17
    (a.1, rsWrAt f.2 a.1.val (addr + 17 * b) (old.zipIdx.map (fun e => partByte places e.1 (Config.openByte f.1 e.2) e.2)), a.2.2)

/-- Output rows in HXB4, block by block; a block of which no place is addressed stays (R226). -/
def putHxb4 (s : State) (g : EngId) (d : ConvDesc) (vals : List ((Nat × Nat × Nat) × Num)) : State × Cnt :=
  let rows := (vals.map (fun v => (v.1.1, v.1.2.1))).eraseDups
  (rows.foldl (fun (a : EngId × State × Cnt) r =>
    let mine := (vals.filter (fun v => v.1.1 = r.1 && v.1.2.1 = r.2)).map (fun v => (v.1.2.2, v.2))
    (List.range (cdiv (cWidth d) 32)).foldl (putBlk (cAddr d (r.1, r.2, 0)) mine) a) (g, s, cnt0)).2

/-- The rows of A, channel by channel. -/
def convIn (s : State) (g : Nat) (d : ConvDesc) : List (List Num) × Cnt :=
  tally (fun i => rowNums d.fa d.inW (rsRd s g (d.aL + i / d.inH * d.aP + i % d.inH * d.aR) (rowBytes d.fa d.inW)))
    (List.range (d.cin * d.inH))

/-- How a CONV maps its work: bytes of a column group, groups, columns of a group, the input channels of an output channel,
the columns from the stream's bytes, the columns that meet the same A elements, the order in which a group's output pixels
drain, and for DEPTHWISE the output column of a pixel. -/
structure ConvPlan where
  per    : Nat
  groups : Nat
  wide   : Nat := 128
  chans  : Nat → List Nat
  cols   : List Byte → List Vec
  part   : Nat → Nat := fun _ => 0
  order  : List Nat
  again  : Option (Nat → Nat) := none

/-- The product of the pixels and the columns. -/
def convMat (s : State) (g : Nat) (ws : List Word) (p : ConvPlan) (cols : List Vec) : Mat :=
  let d := convDesc ws
  let rowsRead := (convIn s g d).1
  let plane := fun c y => rowsRead.getD (c * d.inH + y) []
  let integer := convInt d
  let acc := if integer then fmtInt32 else fmtF32
  let e : Epi := {
    integer := integer, bias := accVec s g d.biasEn acc d.biasL d.cout, scale := accVec s g d.scaleEn fmtF32 d.scaleL d.cout
    shift := d.shift, trunc := d.rnd = 1, act := d.act, lo := 0, hi := 0, fo := d.fo }
  { integer := integer, fa := d.fa, fb := d.fb, m := d.outH * d.outW, k := ((cols.map (fun c => c.els.length)).foldl max 0)
    row := fun r n => pixelRow d plane (p.chans n) r
    cols := cols, width := p.wide, part := p.part, again := p.again
    start := startOf s g integer d.pEn (fun r c => 128 * (d.pL + c * (d.outH * d.pR) + r / d.outW * d.pR) + 4 * (r % d.outW))
    fin := fun _ n v => epilogue e n v }

/-- A convolution over its columns; `full` groups were received whole. -/
def convRun (u : Option Upset) (s : State) (g : EngId) (ws : List Word) (p : ConvPlan) (cols : List Vec) (full : Nat)
    (early : Option StreamEnd) : State :=
  let d := convDesc ws
  let cnt := (convIn s g d).2
  let x := convMat s g ws p cols
  let o := runMat x u (eng s g).ftol s.free (slots s p.order p.groups full early.isSome) {}
  let place := fun (e : Nat × Nat × List Num) =>
    e.2.2.zipIdx.map (fun v => (cPlace d (p.wide * e.2.1 + v.2) (e.1 / d.outW) (e.1 % d.outW), v.1))
  if d.fo = 8 then
    let w := putHxb4 s g d (o.out.reverse.flatMap place)
    finishMat w.1 g ws x.m (cnt.add w.2) { o with out := [] } (doneStreamed g ws early) (fun s _ => (s, cnt0))
  else
    finishMat s g ws x.m cnt o (doneStreamed g ws early) (fun s e =>
      (place e).foldl (fun (a : State × Cnt) v =>
        let c := numCode d.fo (d.rnd = 1) v.2
        (putElem a.1 g d.fo (cAddr d v.1) v.1.2.2 c.1, a.2.add c.2)) (s, cnt0))

/-- The output pixels in raster order (R233). -/
def raster (d : ConvDesc) : List Nat := List.range (d.outH * d.outW)

/-- DENSE: tap by tap, tiles of `Kt` channels (R232, R233). -/
def densePlan (d : ConvDesc) : ConvPlan :=
  let kt := convKt d
  let c' := cinSeen d
  let blocks := cdiv c' kt
  let tap := blocks * tileBytes d.fb kt
  let per := d.kh * d.kw * tap
  { per := per, groups := groupsOf d.cout, chans := fun _ => List.range c', order := raster d
    cols := fun bs => (List.range d.cout).map (fun n =>
      let l := (List.range (d.kh * d.kw)).map (fun t => tileCol d.fb kt blocks c' (n % 128) ((bs.drop (n / 128 * per + t * tap)).take tap))
      { els := l.flatMap (·.els), blks := l.flatMap (·.blks) : Vec }) }

/-- GROUPED: as many groups side by side as a tile holds (R234). -/
def groupedPlan (d : ConvDesc) : ConvPlan :=
  let kt := convKt d
  let b := min (kt / d.gin) (128 / d.gout)
  let tile := tileBytes d.fb kt
  let per := d.kh * d.kw * tile
  let wr := rowBytes d.fb 128
  { per := per, groups := cdiv (d.cin / d.gin) b, wide := b * d.gout, part := fun n => n / d.gout, order := raster d
    chans := fun n => (List.range d.gin).map (fun i => n / d.gout * d.gin + i)
    cols := fun l => (List.range d.cout).map (fun n =>
      let q := n / d.gout
      let bs := (l.drop (q / b * per)).take per
      { els := (List.range (d.kh * d.kw)).flatMap (fun t => (List.range d.gin).map (fun i =>
          codeNum d.fb ((rowCodes d.fb 128 ((bs.drop (t * tile + (q % b * d.gin + i) * wr)).take wr)).getD
            (q % b * d.gout + n % d.gout) 0)))
        blks := [] : Vec }) }

/-- Output rows stacked in a pass, kernel rows of a group, groups of kernel rows (R235). -/
def depthStack (d : ConvDesc) : Nat × Nat × Nat :=
  let s := if d.kh * d.kw ≤ convKt d then (min 4 (convKt d / (d.kh * d.kw)), d.kh) else (1, convKt d / d.kw)
  (s.1, s.2, cdiv d.kh s.2)

/-- The cell of a column that holds a tap of a stacked row (R235). -/
def depthCell (d : ConvDesc) (t ky kx : Nat) : Nat :=
  t * (depthStack d).2.1 * d.kw + ky % (depthStack d).2.1 * d.kw + kx

/-- The output pixels strip by strip (R237): an input column passes every stacked row at once, so an output column of all of
them completes together. -/
def strips (d : ConvDesc) : List Nat :=
  let s := (depthStack d).1
  (List.range (cdiv d.outH s)).flatMap (fun p => (List.range d.outW).flatMap (fun x =>
    ((List.range s).filter (fun t => p * s + t < d.outH)).map (fun t => (p * s + t) * d.outW + x)))

/-- DEPTHWISE: one row of 128 channels for each tap (R235-R238). -/
def depthPlan (d : ConvDesc) : ConvPlan :=
  let wr := rowBytes d.fb 128
  let per := d.kh * d.kw * wr
  { per := per, groups := groupsOf d.cout, chans := fun n => [n], order := strips d, again := some (fun r => r % d.outW)
    cols := fun bs => (List.range d.cout).map (fun n =>
      { els := (List.range (d.kh * d.kw)).map (fun t =>
          codeNum d.fb ((rowCodes d.fb 128 ((bs.drop (n / 128 * per + t * wr)).take wr)).getD (n % 128) 0))
        blks := [] : Vec }) }

/-- The weights of a CONV. -/
def convWeights (s : State) (g : EngId) (ws : List Word) (p : ConvPlan) : List Byte × Option StreamEnd × State :=
  weights s g (convDesc ws).wAddr (p.groups * p.per)

def convOp (plan : ConvDesc → ConvPlan) (u : Option Upset) (s : State) (g : EngId) (ws : List Word) : State :=
  let p := plan (convDesc ws)
  let w := convWeights s g ws p
  let cols := p.cols w.1
  let s := addCnt w.2.2 g (badBlks (cols.flatMap (·.blks)))
  convRun u s g ws p cols (w.1.length / max 1 p.per) w.2.1

/-- Step 3 of CONV_DENSE (R233, R239, R240). -/
def denseOk (ws : List Word) : Bool :=
  let d := convDesc ws
  convOk ws && d.gin = 0 && d.gout = 0 && !(d.f ≠ 1 && (d.stepX ≠ 1 || d.stepY ≠ 1 || d.phX ≠ 0 || d.phY ≠ 0)) &&
  !(d.f ≠ 1 && !d.rgOut && (d.inH % d.f ≠ 0 || d.inW % d.f ≠ 0)) && !(d.f ≠ 1 && d.rgOut && d.cout % d.f ^ 2 ≠ 0) &&
  !(d.fb = 8 && cinSeen d % 32 ≠ 0)

/-- Step 3 of CONV_GROUPED (R234). -/
def groupedOk (ws : List Word) : Bool :=
  let d := convDesc ws
  convOk ws && d.fb ≠ 8 && d.f = 1 && d.gin ≠ 0 && d.gout ≠ 0 && d.gin ≤ convKt d && d.gout ≤ 128 &&
  d.cin % d.gin = 0 && d.cout % d.gout = 0 && d.cin / d.gin = d.cout / d.gout

/-- Step 3 of CONV_DEPTHWISE (R235-R237). -/
def depthOk (ws : List Word) : Bool :=
  let d := convDesc ws
  convOk ws && d.fb ≠ 8 && d.f = 1 && d.gin = 0 && d.gout = 0 && d.cin = d.cout

/-- CONV_DENSE (R232, R233, R239, R240). -/
def execConvDense (g : EngId) (s : State) (u : Option Upset := none) : Out :=
  runEng g { op := 3, sub := fun ws => dSub ws = 1, ok := denseOk, empty := convEmpty, run := convOp densePlan u } s

/-- CONV_GROUPED (R234). -/
def execConvGrouped (g : EngId) (s : State) (u : Option Upset := none) : Out :=
  runEng g { op := 3, sub := fun ws => dSub ws = 2, ok := groupedOk, empty := convEmpty, run := convOp groupedPlan u } s

/-- CONV_DEPTHWISE (R235-R238). -/
def execConvDepthwise (g : EngId) (s : State) (u : Option Upset := none) : Out :=
  runEng g { op := 3, sub := fun ws => dSub ws = 3, ok := depthOk, empty := convEmpty, run := convOp depthPlan u } s

/-- The weight stream of a GEMM or a CONV: its address and its length once decoded. -/
def streamOf (ws : List Word) : Option (Nat × Nat) :=
  let p := fun (plan : ConvDesc → ConvPlan) =>
    let c := plan (convDesc ws)
    some ((convDesc ws).wAddr, c.groups * c.per)
  match dOp ws, dSub ws with
  | 1, 0 => if commonOk ws && gemmOk ws && !gemmEmpty ws
      then some ((nth ws 7).toNat + 2 ^ 32 * df ws 8 15 0, groupsOf (gN ws) * gemmPer ws) else none
  | 3, 1 => if commonOk ws && denseOk ws && !convEmpty ws then p densePlan else none
  | 3, 2 => if commonOk ws && groupedOk ws && !convEmpty ws then p groupedPlan else none
  | 3, 3 => if commonOk ws && depthOk ws && !convEmpty ws then p depthPlan else none
  | _, _ => none

/-- WEIGHT_FETCH: the fetcher starts on the weights of the engine's next descriptor (R151). -/
def execWeightFetch (g : EngId) (s : State) : Out :=
  .next (match nextWeights s g with
    | none => s
    | some (ws, count, t) => match streamOf ws with
      | none => s
      | some (addr, need) => if (eng s g).pref.any (fun p => p.count = count) then s else fetchAhead t g count addr need)

end Sys2Proof.Machine
end

