-- ==== Sys2Proof/Machine/Moves.lean ====
section
/-! DEFINITION. LOAD and STORE (04, Table 4-9, R157, R158, R167, R647; 12 R447): rows between an engine's resident store and
the die pool or any device physical address. -/

namespace Sys2Proof.Machine

/-! Fields of Table 4-9. -/

def mPool (ws : List Word) : Bool := tbit (nth ws 3) 31
def mAddr (ws : List Word) : Nat := (nth ws 2).toNat + 2 ^ 32 * df ws 3 15 0
def mStride (ws : List Word) : Nat := df ws 4 30 16
def mLine (ws : List Word) : Nat := df ws 4 14 0
def mBytes (ws : List Word) : Nat := df ws 5 16 0
def mRows (ws : List Word) : Nat := df ws 6 15 0
def mGap (ws : List Word) : Nat := (nth ws 7).toNat

/-- Nothing is to move (step 4). -/
def moveEmpty (ws : List Word) : Bool := mBytes ws = 0 || mRows ws = 0

/-- Step 3 of Table 4-11 for LOAD and STORE, the ranges of Table 4-9 with it (DESIGN CHOICE, log entry 173). -/
def moveOk (ws : List Word) : Bool :=
  df ws 0 27 16 = 0 && df ws 3 30 16 = 0 && df ws 4 31 31 = 0 && df ws 4 15 15 = 0 && df ws 5 31 17 = 0 && mBytes ws ≤ 65536 &&
  df ws 6 31 16 = 0 && zeroWords ws 8 13 && !(mPool ws && df ws 3 15 0 ≠ 0) &&
  (mBytes ws = 0 || rowsIn (mLine ws) (mStride ws) (mRows ws) (cdiv (mBytes ws) 128)) &&
  (!mPool ws || moveEmpty ws || mAddr ws + (mRows ws - 1) * mGap ws + mBytes ws ≤ poolSize)

/-- A row's access that ends the descriptor: a firewall's refusal (R167), or the status its transaction completes with. -/
def moveRefused (s : State) (g : EngId) (ws : List Word) (st : Byte) : State :=
  if st = stFirewall then doneFw s g ws else engDone s g st ws false

/-- The moves a fabric access to an island's memories waits for. -/
def settlePlace (s : State) (p : Place) : State :=
  match p with
  | .islRam i => servePieces s i
  | .islFlash i => servePieces s i
  | _ => s

/-- Row `r` of a LOAD: `error` where the descriptor ends with it. A read of a stack has the bytes of every write accepted before it
(R433). -/
def loadRow (g : EngId) (ws : List Word) (s : State) (r : Nat) : Except State State :=
  let a := mAddr ws + r * mGap ws
  let n := mBytes ws
  let line := mLine ws + r * mStride ws
  if mPool ws then .ok (rsWr s g line (poolRd s (dieOf g) a n))
  else match grants s (engLivery s g) a n .read (.engine g) with
    | .refused st t => .error (moveRefused t g ws st)
    | .spot p s =>
      match p.place with
      | .hbm d =>
        match hbmGet s d (portOf s (.engine g) d) (engLivery s g) p.off n with
        | (some bs, t) => .ok (rsWr t g line bs)
        | (none, t) => .error (doneCheck t g ws)
      | q => let x := readSpot (settlePlace s q) p n; .ok (rsWr x.2 g line x.1)

/-- Row `r` of a STORE. -/
def storeRow (g : EngId) (ws : List Word) (s : State) (r : Nat) : Except State State :=
  let a := mAddr ws + r * mGap ws
  let n := mBytes ws
  let bs := rsRd s g (mLine ws + r * mStride ws) n
  if mPool ws then .ok (poolWr s (dieOf g) a bs)
  else match grants s (engLivery s g) a n .write (.engine g) with
    | .refused st t => .error (moveRefused t g ws st)
    | .spot p s =>
      match p.place with
      | .hbm d =>
        match hbmOffer s d {
            port := portOf s (.engine g) d, livery := engLivery s g, off := p.off, data := bs, path := linksTo s (.engine g) d
            owed := (mct s d).compat, eng := some g } with
        | (none, t) => .ok t
        | (some _, t) => .error (doneCheck t g ws)
      | q => .ok (writeSpot (settlePlace s q) p (.engine g) true (engLivery s g) bs).2

/-- Rows in ascending order until one ends the descriptor (R647, R167). -/
def moveRows (one : State → Nat → Except State State) : Nat → Nat → State → Except State State
  | 0, _, s => .ok s
  | n + 1, r, s =>
    match one s r with
    | .ok t => moveRows one n (r + 1) t
    | .error t => .error t

def loadRun (s : State) (g : EngId) (ws : List Word) : State :=
  match moveRows (loadRow g ws) (mRows ws) 0 s with
  | .ok t => doneOk t g ws
  | .error t => t

/-- LOAD: memory to resident store. -/
def execLoad (g : EngId) (s : State) : Out :=
  runEng g { op := 9, ok := moveOk, empty := moveEmpty, run := loadRun } s

/-- A STORE whose rows are all accepted completes once every one is acknowledged (R434, R435). -/
def storeRun (s : State) (g : EngId) (ws : List Word) : State :=
  match moveRows (storeRow g ws) (mRows ws) 0 s with
  | .ok t => if owes t g then modEng t g (fun e => { e with cur := some ws, waiting := some .drain }) else doneOk t g ws
  | .error t => t

/-- STORE: resident store to memory. -/
def execStore (g : EngId) (s : State) : Out :=
  runEng g { op := 0xA, ok := moveOk, empty := moveEmpty, run := storeRun } s

end Sys2Proof.Machine
end

