-- ==== Sys2Proof/Machine/Switch.lean ====
section
/-! DEFINITION. The switch to an armed timetable (02 R77-R83; 07 R256; 09 R360; 10 R398; 11 R403, R421, R424; 15 R535, R536;
16 R549). -/

namespace Sys2Proof.Machine

/-- The tick that comes is the armed timetable's (R77, R549). -/
def switchDue (s : State) : Bool :=
  s.tt.st = .armed && s.tt.staged.isSome && (if s.tt.ever then s.tt.target = s.stg.stage + 1 else s.tt.ticksLeft = some 1)

/-- Contexts whose state is taken over: in the carry-over map, and declared by both timetables (R81). -/
def carried (old : Option Timetable) (t : Timetable) : List CtxId :=
  t.body.carry.filter (fun c => (ctxDecl t c).isSome && (old.bind (fun o => ctxDecl o c)).isSome)

/-- The contexts whose check-value units keep their state (15 R536): those carried, and context 0, which needs no declaration,
where the map names it. -/
def carriedUnits (old : Option Timetable) (t : Timetable) : List CtxId :=
  carried old t ++ t.body.carry.filter (fun c => old.isSome && c.val == 0)

/-- What is kept of a carried context: its queues and objects by local number. -/
structure Kept where
  ctx    : CtxId
  pre    : Bool
  ppend  : Bool
  queues : List QueueCtx
  base   : Nat
  objs   : List SynObj
  deriving DecidableEq, Repr

def keptOf (s : State) (c : CtxId) : Kept :=
  { ctx := c, pre := (ctxRec s c).pre, ppend := (ctxRec s c).ppend, queues := (ctxQueues s c).map (queue s), base := synBase s c
    objs := (List.range (synSize s c)).map (fun i => obj s (synBase s c + i)) }

/-- A context that starts empty gives up its waiters, its pages and what was asked of it; every engine stands at a milepost at
a tick, so a pre-emption that was still out has come to its end (R81, R256, R376). -/
def endCtx (s : State) (c : CtxId) : State :=
  let s := forAll s ((s.syn.objs.filter (fun e => synBase s c ≤ e.1 && e.1 < synBase s c + synSize s c)).map (·.1)) freeObj
  let s := emptyPages s c
  let s := if (ctxRec s c).ppend then completeDefers s (.preempt c) stOk [toW (ctxEngines s c).length] else s
  forAll s (engList.filter (fun g => pendingRebind s g && s.qmg.rebinds.any (fun r => r.eng == g && !r.done &&
    (r.ctx == c || (queue s r.src).ctx == c.val)))) abandonRebind

/-- The declaration of a carried context: its queues at their new numbers, its objects at their new places (R81, R421), objects
it did not have before as declared (R403), held like the others of a pre-empted context (Table 11-1); a pre-emption that is still
out goes on (R120). -/
def resumeCtx (s : State) (k : Kept) (d : CtxDecl) : State :=
  let s := modCtx s d.id (fun _ => { declCtx d with pre := k.pre, ppend := k.ppend })
  let s := forAll s (List.range d.qcount) (fun s i =>
    setQueue s (d.qbase + i) (((k.queues)[i]?).getD { declQueue d.id with held := k.pre }))
  let s := { s with
    syn := { s.syn with bases := bankSet (0, 0) s.syn.bases d.id (d.synBase, d.nsSize) }
    kpm := { s.kpm with quotas := bankSet 0 s.kpm.quotas d.id d.kvQuota } }
  let s := forAll s (k.objs.zipIdx) (fun s e => if e.2 < d.nsSize then setObj s (d.synBase + e.2) e.1 else s)
  let s := forAll s (d.objs.filter (fun o => k.objs.length ≤ o.id)) (fun s o =>
    setObj s (d.synBase + o.id) { declObj o 15 with held := k.pre })
  -- engines of a re-execution that wait on a moved object
  { s with engines := s.engines.map (fun e => (e.1, { e.2 with
    waiting := match e.2.waiting with
      | some (.object p) =>
        if k.base ≤ p && p < k.base + k.objs.length then some (.object (d.synBase + (p - k.base))) else some (.object p)
      | w => w })) }

/-- Tracks survive only when the fusion context is carried (R81, R360). -/
def dropTracks (s : State) : State :=
  setFus s (fun u => { u with table0 := { u.table0 with tracks := [] }, table1 := { u.table1 with tracks := [] } })

/-- The islands' record of the active timetable (R84). -/
def recordActive (s : State) (t : Timetable) : State :=
  bothIsl s (fun x => if inSvc x then { x with ttIdent := t.figs.ident, ttSaved := some t, ttImage := t.image } else x)

/-- Waybills at the switch: those of the old timetable for the stages that follow are discarded with ST_BAD_PARAM (R79), those
held for the armed one are its own (R80). -/
def switchHeld (s : State) : State :=
  let first := nextStage s
  let s := dropHeld s stBadParam (fun w => !w.forArmed && first ≤ w.stage)
  setDis s (fun d => { d with waybills := d.waybills.map (fun w => { w with forArmed := false }) })

/-- The new timetable is active. -/
def switchTo (s : State) (t : Timetable) : State :=
  let old := s.tt.active
  let keep := carried old t
  let kept := keep.map (keptOf s)
  let s := switchHeld s
  let s := forAll s (ctxList.filter (fun c => !keep.contains c)) endCtx
  -- every queue context of the old timetable becomes UNUSED, in both copies (R368)
  let s := forAll s (s.qmg.queues.map (·.1)) (fun s q => setQueue s q defQueue)
  let s := { s with
    tt := { active := some t, ever := true }
    qmg := { s.qmg with queues := [], ctxs := [], placeKey := (12, 15, 15, false) }
    syn := { s.syn with objs := [], bases := [] }
    kpm := { s.kpm with quotas := [] } }
  let s := if old.isNone then seatTable s else s
  let s := forAll s t.body.contexts (fun s d =>
    match kept.find? (fun k => k.ctx == d.id) with
    | some k => resumeCtx s k d
    | none => startCtx s d)
  let s := switchCvus (loadSettings s t) old (some t) (carriedUnits old t)
  let s := if keep.contains t.body.fusion then s else dropTracks s
  -- a die that is out gets the new image before it returns (R78)
  let s := forAll s (dieList.filter (fun n => !dieInSvc s n.val)) (fun s n => modDie s n (fun d => { d with imageOk := false }))
  recordActive s t

/-- The switch at the armed stage's tick. -/
def ttSwitch (s : State) : State :=
  if switchDue s then
    match s.tt.staged with
    | some t => switchTo s t
    | none => s
  else s

/-- TT_SWITCH: part of the tick of the armed stage; it comes right before that tick's STAGE_TICK, which makes the switch itself
where it has not been made. -/
def execTtSwitch (s : State) : Out := .next (if iodReady s then ttSwitch s else s)

end Sys2Proof.Machine
end

