-- ==== Sys2Proof/Machine/Tick.lean ====
section
/-! DEFINITION. The stage boundary and the layover start (02 R43-R47, R55-R66, R68, R70, R71; 10 R375-R380, R386, R388, R390,
R394, R396; 11 R404, R419; 14 R503-R509, R511, R515; 18 R626). -/

namespace Sys2Proof.Machine

/-! Stage timing. -/

/-- The smallest multiple of `p` that is at least `t`. -/
def nextMultiple (p t : Nat) : Nat := cdiv t p * p

/-- A tick may come: the port is ready, vehicle time has gone on, and where the stage clock stands on vehicle time it is a
multiple of the period at which the stage has run its length (R43). -/
def tickDue (s : State) (now : Nat) : Bool :=
  iodReady s && s.stg.tick < now &&
    (!s.stg.sync || s.stg.offset ≠ 0 || (now % periodNs s = 0 && s.stg.tick + s.stg.length ≤ now))

/-- STG_TIMING_CHECK: a pending value takes effect, or is discarded with badcfg (R68). -/
def commitTiming (s : State) : State :=
  if s.stg.timingSh = s.stg.timing then s
  else if timingAdmitted s s.stg.timingSh then setStg s (fun g => { g with timing := g.timingSh })
  else setStg s (fun g => { g with timingSh := g.timing, badcfg := true })

/-- A correction of at most `limit` in the direction of the offset: positive lengthens the stage (R64). -/
def towards (off : Int) (limit : Nat) : Int := clampI (-(limit : Int)) limit off

/-- TRANSITIONAL_STAGE and OFFSET_CORRECTION: the length and layover of the stage that opens, and the offset left (R63-R66).
How much of an offset of up to 50 us one stage takes up is not stated beyond its bound. -/
def openStage (s : State) (changed : Bool) (now : Nat) : State :=
  let p := periodNs s
  let l := layoverNs s
  let off := if s.stg.sync then s.stg.offset else 0
  let step := decide (1000000 < off.natAbs)
  if step || changed then
    let s := setStg s (fun g => { g with
      length := nextMultiple p (now + p) - now, curLay := l
      offset := if g.sync then 0 else g.offset, tstep := g.tstep || step })
    if step then logF s { cls := 0x13, unit := unitIod } else s
  else if 50000 < off.natAbs then
    let a := towards off 50000
    setStg s (fun g => { g with length := ((p : Int) + a).toNat, curLay := ((l : Int) + a).toNat, offset := off - a })
  else
    let a := towards off (Config.choice s.free % 1001)
    setStg (fresh s).2 (fun g => { g with length := ((p : Int) + a).toNat, curLay := l, offset := g.offset - a })

/-! Shadowed fields (R11). -/

/-- The ports' shadowed fields; an Ethernet port whose role changes retrains (17 R614, Table 17-16). -/
def commitPorts (s : State) : State :=
  let s := bothEdge s (fun x => if x.inReset then x else { x with cfg := x.shadow })
  let moved := s.iod.ethUp &&& (s.iod.ethCfg ^^^ s.iod.ethCfgSh)
  { s with iod := { s.iod with
    ethCfg := s.iod.ethCfgSh, ethUp := s.iod.ethUp &&& ~~~moved, ethDown := s.iod.ethDown ||| moved } }

/-- SHADOW_COMMIT but for the STG's own fields. -/
def commitShadows (s : State) : State :=
  let s := forAll s (dieList.filter (fun (n : DieId) => mctPending (mct s n.val))) (fun s (n : DieId) => commitMct s n.val)
  commitPorts (tickFus (tickMpl s))

/-! Engines: withdrawals, re-admissions, self-test (14 R504-R509). -/

/-- A single-loss placement is in force. -/
def singleLoss (s : State) : Bool := !s.stg.lean && ((s.stg.lossa ≠ 15) != (s.stg.lossb ≠ 15))

/-- A die holds a withdrawn engine. -/
def anyWithdrawn (s : State) (n : Nat) : Bool := (List.range 8).any (fun m => (eng s (8 * n + m)).withdrawn)

/-- The stage that ends counts a deferral for an engine whose due slice did not run (R507); stages since the last full test
count. -/
def countDefer (s : State) (g : EngId) : State :=
  if (die s (dieOf g)).inReset then s else
  let accrue := s.tt.active.isSome && (placement s).isSome && engInSvc s g && !(eng s g).ranDue
  modEng s g (fun e => { e with
    stDefer := if accrue then satAdd 255 e.stDefer 1 else e.stDefer
    stSince := satAdd 1023 e.stSince 1, ranDue := false, hung := false })

/-- An engine is re-admitted after its full test (R505); the last withdrawn engine of an excluded die makes the die ready to
return (R509). -/
def readmitEngine (s : State) (g : EngId) : State :=
  if (eng s g).backNext then
    let s := modEng s g (fun e => { e with
      withdrawn := false, backNext := false, wdrawNext := false, st := 1, stSlice := 0, stDefer := 0, outDue := false })
    let s := completeDefers s (.readmitEng g) stOk []
    let n := dieOf g
    if (die s n).excluded && !anyWithdrawn s n then modDie s n (fun d => { d with readyRe := true }) else s
  else s

/-- A die leaves the placement without a reset, named in lossb (R509). -/
def excludeDie (s : State) (n : DieId) : State :=
  let s := modDie s n (fun d => { d with inService := false, readyRe := false, excluded := true })
  setStg s (fun g => { g with lossa := if g.lossa = 15 then g.lossb else g.lossa, lossb := n })

/-- An engine is WITHDRAWN from this tick: the second of its die takes the die with it (R508), one under a single-loss placement
its die out of the placement (R509). -/
def withdrawEngine (s : State) (g : EngId) : State :=
  if (eng s g).wdrawNext then
    let n := homeDie g
    let second := anyWithdrawn s n
    let s := abandonRebind (unbindEng s g) g
    let s := modEng s g (fun e => { e with
      withdrawn := true, wdrawNext := false, mismAt := [], st := 5, stSlice := 0, backNext := false, outDue := false })
    if second && (dieInSvc s n || (die s n).excluded) then loseDie s n true 5
    else if dieInSvc s n && singleLoss s then excludeDie s n
    else s
  else s

/-- The engine of a die that is left out: a withdrawn one (R505), or the one due for its test with the highest count (R506,
R508, R509). -/
def leftOutOf (s : State) (n : DieId) : List EngId :=
  let mine : List EngId := engList.filter (fun (g : EngId) => dieOf g.val == n.val)
  let gone : List EngId := mine.filter (fun g => (eng s g).withdrawn)
  if !dieInSvc s n then []
  else if !gone.isEmpty then gone
  else if !relayPlaced s || s.tt.active.isNone then []
  else ((mine.filter (fun (g : EngId) => (eng s g).outDue || 64 ≤ (eng s g).stDefer)).foldl (fun (best : Option EngId) (g : EngId) =>
      match best with
      | none => some g
      | some b => if (eng s b).stDefer < (eng s g).stDefer then some g else some b) none).toList

def chooseOut (s : State) : State :=
  let out := dieList.flatMap (leftOutOf s)
  let s := { s with qmg := { s.qmg with out := out } }
  forAll s engList (fun s g => if (eng s g).stOut = out.contains g then s else modEng s g (fun e => { e with stOut := out.contains g }))

/-! Compute dies: returns and losses (02 R70, R71, R78; 14 R509, R511). -/

/-- A die returns at the tick after its re-admission move (R511): its regions are those of the timetable, its heap blocks are
released (R255). -/
def returnDie (s : State) (n : DieId) : State :=
  let excluded := (die s n).excluded
  let s := if (die s n).imageOk then s else restoreImage s n
  let s := modDie s n (fun d => { d with inService := true, readyRe := false, excluded := false, before := none })
  let s := setKpm s (fun k => { k with withheld := k.withheld.filter (fun b => b.1 != n.val) })
  let s := loadRegions s (fun t => targetDie t = some n.val)
  let s := if excluded then s else logF s { cls := 0x0A, unit := n, reaction := 9 }
  completeDefers s (.readmitDie n) stOk []

/-- The dies whose move has ended return; one whose root gate is closed is not re-admitted (R511, R562). -/
def returnDies (s : State) : State :=
  let back := (s.qmg.readmit.filter (fun e => e.2 && (die s e.1).readyRe && !(die s e.1).inService && !gateClosed s.clk e.1.val 0)).map (·.1)
  forAll { s with qmg := { s.qmg with readmit := [] } } back returnDie

/-- STG_PROFILE names the dies out of service: the first and the second lost; two of them select the lean profile (R70, R71,
R90), three leave no placement to enter (14, after R514). -/
def noteLosses (s : State) : State :=
  let back := fun (k : Nat) => if k < 12 && dieInSvc s k then 15 else k
  let s := setStg s (fun g => { g with lossa := back g.lossa, lossb := back g.lossb })
  let s := forAll s (dieList.filter (fun n => !dieInSvc s n.val)) (fun s (n : DieId) =>
    if s.stg.lossa = n.val || s.stg.lossb = n.val then s
    else if s.stg.lossa = 15 then setStg s (fun g => { g with lossa := n.val })
    else if s.stg.lossb = 15 then setStg s (fun g => { g with lossb := n.val })
    else s)
  if twoLost s && diesOut s < 3 then setStg s (fun g => { g with lean := true, leanSh := true }) else s

/-! Relay rotation (10 R390, R394; 18 R626). -/

/-- The stage that opens is counted up to the interval while rotation is not suspended (R390, R394, Table 10-9). -/
def countRelay (s : State) : State :=
  if s.tt.active.isSome && relayPlaced s && s.qmg.count < s.qmg.interval then
    { s with qmg := { s.qmg with count := s.qmg.count + 1 } }
  else s

/-- A completed move's copies take their places, the position advances and the count restarts, so that the stage that opens is
the first since the move (R390, R392, R626). A loss of the stage that ends has suspended rotation: the copies are dropped,
the position stays as held at the loss and the move is still due (R70, R394). -/
def advanceRelay (s : State) : State :=
  if !s.qmg.moveDone then countRelay s
  else if relayPlaced s then
    let s := placeMoved { s with qmg := { s.qmg with count := 0, moveDone := false, moveDue := false } }
    countRelay (setStg s (fun g => { g with relay := (g.relay + 1) % 12 }))
  else { s with qmg := { s.qmg with moveDone := false, moved := [] } }

/-- The tightened rotation follows the module level (R626). -/
def tightenRelay (s : State) : State :=
  let t := decide (2 ≤ moduleLevel s)
  { s with qmg := { s.qmg with
    tight := t, interval := if t then 1 else 40, count := if s.qmg.tight && !t then 0 else s.qmg.count } }

/-! Placement. -/

/-- What the bindings of the stage that opens are made for; relay 12 where no placement is in force. -/
def placeNow (s : State) : Nat × Nat × Nat × Bool := if (placement s).isSome then placeKeyNow s else (12, 15, 15, false)

/-- PLACEMENT_BIND for the stage that opens: rings and owners where the placement changes, the end of re-bindings, the bindings,
the re-bindings accepted in the layover (R371, R379, R386, R388, R396, R404, R419). -/
def place (s : State) : State :=
  let changed := decide (s.qmg.placeKey ≠ placeNow s)
  let s := endRebinds (placeRings s changed) changed
  let s := if changed then ownObjects s else s
  let s := bindAll s
  { s with qmg := { s.qmg with
    placeKey := placeNow s, rebinds := s.qmg.rebinds.map (fun r => { r with atTick := false }) } }

/-- The dispatcher at the start of a stage: its record of the stage before is gone, and the stage's waybills are written
(R375). Without a placement nothing can be written, and the output is not complete (R515). -/
def openWork (s : State) : State :=
  let none_ := s.tt.active.isSome && (placement s).isNone
  let s := setDis s (fun d => { d with
    incomplete := none_, badWork := [], reported := [], timeoutLog := []
    ended := d.ended.filter (fun e => s.stg.stage ≤ e.stage + 1) })
  if (placement s).isSome then fillStage s
  else setDis s (fun d => { d with waybills := d.waybills.map (fun w =>
    if w.st = .held && !w.forArmed && w.stage = s.stg.stage then { w with st := .running, bad := true } else w) })

/-- Commands cut short by a wait that ended under R162 complete up to their milepost; every other open command's rest is
discarded, and its engine stands as after a milepost once the descriptor it executes has completed (R60, R162, R170). -/
def closeCommands (s : State) : State :=
  forAll s engList (fun s g =>
    let e := eng s g
    if !e.openCmd || inReexec s g then s
    else match e.skipSt with
      | some st => finishRest g st (qLen (queue s e.bqueue) + 1) s
      | none =>
        if e.cur.isSome then modEng s g (fun e => { e with cut := true }) else standAfter s g)

/-- What a stage left of its work ends with it: a re-execution set that has not completed has missed its cut-off (R57), and every
queue of main work is empty at a tick (R376). -/
def endWork (s : State) : State :=
  let s := discardMain (closeCommands (endWaits (setDis s (fun d => { d with reexec := [] }))))
  setDis s (fun d => { d with issued := d.issued.filter (fun i => !i.again) })

/-- The steps of a tick, in order. Of a field write of STG_PROFILE.lean and a PROFILE_SET that fall due at one tick the
PROFILE_SET is loaded last (DESIGN CHOICE, log entry 170). -/
def stageTick (s : State) (now : Nat) : State :=
  let s := { s with vtime := max s.vtime now }
  let s := forAll (endWork (abandonMoves (closeRuns s))) engList countDefer
  let was := timP s.stg.timing
  let s := commitTiming s
  let num := nextStage s
  let prof := profileDue s
  let s := if switchDue s then ttSwitch s
    else setTt s (fun t => { t with ticksLeft := t.ticksLeft.map (· - 1) })
  let s := setStg s (fun g => { g with stage := num, lean := g.leanSh })
  let s := noteLosses (returnDies (forAll s engList readmitEngine))
  let s := noteLosses (forAll s engList withdrawEngine)
  let s := if prof then loadProfile s else s
  let s := tightenRelay (advanceRelay s)
  let s := commitShadows s
  let s := setStg s (fun g => { g with tick := now, inlay := false, cutoffPast := false })
  let s := openStage s (timP s.stg.timing != was) now
  let s := place (chooseOut s)
  let s := releasePages s
  let s := setMpl s (fun m => { m with current := false, ended := false, gateOpen := false })
  let s := openWork s
  let s := match s.tt.active with
    | some t => recordActive s t
    | none => s
  let p := pushed s.stg
  emit (pushRep s p now) (.replica p.period p.layover p.cutoff p.stage)

/-- STAGE_TICK (R43). -/
def execStageTick (now : Nat) (s : State) : Out := .next (if tickDue s now then stageTick s now else s)

/-! The layover start. -/

/-- Main work of the stage is still queued or running: descriptors of it that have not completed (R60), or waybills of which no
placement let any be written (R61). -/
def overruns (s : State) : Bool :=
  let completed := fun (i : Issued) => engList.any (fun g =>
    ((eng s g).done ++ (eng s g).late).any (fun c => c.queue == i.queue && (c.head - 1).toNat == i.count))
  s.dis.issued.any (fun i => !i.again && !completed i) || s.dis.waybills.any (unwritten s)

/-- STAGE_OVERRUN (R61); the stage's output is the drag shoe when it depends on work left unissued (R62). -/
def noteOverrun (s : State) (was : Bool) : State :=
  if was then
    logF (setStg s (fun g => { g with ovr := true, ovrcnt := satAdd 65535 g.ovrcnt 1 }))
      { cls := 0x0F, unit := unitIod, reaction := if s.dis.incomplete then 2 else 0, status := stDegraded }
  else s

/-- Bursts of the timetable image that patrol scrub has found damaged in a stack. -/
def imageBursts (s : State) (n : DieId) : List Nat :=
  match s.tt.active with
  | none => []
  | some t =>
    match imageBase t n with
    | none => []
    | some b => (mct s n).scrubbed.filter (fun k => b ≤ 32 * k && 32 * k < b + t.figs.len)

/-- They are repaired from the same offset of the ring successor's stack (R503). -/
def repairImage (s : State) (n : DieId) : State :=
  let m := succDie n
  if (mct s m).st ≠ 2 || !dieInSvc s m then s
  else forAll s (imageBursts s n) (fun s k =>
    match hbmGet s m .spine 0x01 (32 * k) 32 with
    | (some bs, s) => hbmSet s n 0x01 (32 * k) bs
    | (none, s) => s)

/-- LAYOVER_START (R60). -/
def layoverStart (s : State) : State :=
  let was := overruns s
  let s := noteOverrun (discardMain (closeCommands (endWaits (endLate s false)))) was
  let s := setStg s (fun g => { g with inlay := true })
  let s := startMoves s
  let s := startReexec s
  let s := stopRound s
  let s := forAll s dieList repairImage
  setMpl s (fun m => { m with gateOpen := true })

def execLayoverStart (s : State) : Out := .next (if iodReady s && !s.stg.inlay then layoverStart s else s)

end Sys2Proof.Machine
end

