-- ==== Sys2Proof/Machine/Vector.lean ====
section
/-! DEFINITION. The vector unit (04, Table 4-8; 05 R206-R216; 06 R242-R246; 07 R275-R277): the VEC sub-operations. -/

namespace Sys2Proof.Machine

def vCount (ws : List Word) : Nat := (nth ws 2).toNat
def vSrc1 (ws : List Word) : Nat := df ws 3 14 0
def vSrc2 (ws : List Word) : Nat := df ws 3 30 16
def vDst (ws : List Word) : Nat := df ws 4 14 0
def vSc (ws : List Word) : Bool := tbit (nth ws 6) 0

/-- Reserved bits of words 3, 4 and 6 and the range of count (Table 4-8; DESIGN CHOICE, log entry 173). -/
def vecCommon (ws : List Word) : Bool :=
  vCount ws ≤ 4194304 && !tbit (nth ws 3) 31 && !tbit (nth ws 3) 15 && df ws 4 31 15 = 0 && df ws 6 31 1 = 0

/-- The formats of R207. -/
def vecFmt (f : Nat) : Bool := f = 1 || f = 2 || f = 0xA || isFp f

def vEmpty (ws : List Word) : Bool := vCount ws = 0

def vRead (s : State) (g f line n : Nat) : List Num × Cnt := rowNums f n (rsRd s g line (rowBytes f n))

/-! Upsets (R146): an error that is no multiple of 3 in an integer result or a significand product is found; any other leaves
the element open. The check covers the operations on integer formats and the products of MUL, FMA, the bilinear resize and
SOFTMAX_FINAL; it does not cover floating additions and comparisons, EXP, RECIP and RSQRT (13, after Table 13-11). -/

/-- The element an upset meets among `n`, and whether the residue check finds it, in an operation that it covers or not. -/
def vHit (chk : Bool) (u : Option Upset) (n : Nat) : Option (Nat × Bool) :=
  match u with
  | some x => if x.row < n && x.err ≠ 0 then some (x.row, chk && x.err.emod 3 ≠ 0) else none
  | none => none

/-- An element that an error has left open. -/
def openNum (fo idx : Nat) : Num :=
  if isInt fo then .int (sx 32 (Config.choice idx % 2 ^ 32)) else .fl (fpDecode fpF32 (Config.choice idx % 2 ^ 32))

/-- A row with the element that an unfound error left open; `first` is the row's first element. -/
def withOpen (hit : Option (Nat × Bool)) (fo idx first : Nat) (xs : List Num) : List Num :=
  match hit with
  | some (e, _) => if first ≤ e then xs.set (e - first) (openNum fo idx) else xs
  | none => xs

/-- The rows of an operation, `width` elements each; it stops before the row in which an error is found (R147). -/
def vRows (chk : Bool) (u : Option Upset) (g : EngId) (ws : List Word) (count width : Nat)
    (row : Option (Nat × Bool) → Nat → State → Nat → State) (s : State) : State :=
  let idx := s.free
  let s := (fresh s).2
  let hit := vHit chk u (count * width)
  match hit with
  | some (e, true) => doneMismatch ((List.range (e / width)).foldl (row none idx) s) g ws false true
  | _ => doneOk ((List.range count).foldl (row hit idx) s) g ws

/-- Results are converted to fmt_out and written from the destination's first line on. How many elements stand written when
an error is found is not stated. -/
def vFinish (chk : Bool) (u : Option Upset) (s : State) (g : EngId) (ws : List Word) (c : Cnt) (xs : List Num) : State :=
  let hit := vHit chk u xs.length
  let idx := s.free
  let s := (fresh s).2
  let r := numsRow (dFo ws) false (withOpen hit (dFo ws) idx 0 xs)
  match hit with
  | some (e, true) =>
    let n := Config.choice idx % (e + 1)
    doneMismatch (rsWr (addCnt s g c) g (vDst ws) (r.1.take (n * fmtBits (dFo ws) / 8))) g ws false true
  | _ => doneOk (rsWr (addCnt s g (c.add r.2)) g (vDst ws) r.1) g ws

/-- An error at any element that is reduced meets the one result. -/
def reduced (u : Option Upset) (n : Nat) : Option Upset :=
  match u with
  | some x => if x.row < n then some { x with row := 0 } else none
  | none => none

/-! ADD, MUL, FMA, MAX, MIN (R207-R210). -/

def vecBinOk (ws : List Word) : Bool :=
  let n := vCount ws
  vecCommon ws && zeroWords ws 7 13 && vecFmt (dFa ws) && vecFmt (dFb ws) && vecFmt (dFo ws) &&
  linesIn (vSrc1 ws) (rowLines (dFa ws) n) && (vSc ws || linesIn (vSrc2 ws) (rowLines (dFb ws) n)) &&
  linesIn (vDst ws) (rowLines (dFo ws) n)

/-- All formats are integer (R208). -/
def vecInt (ws : List Word) : Bool := isInt (dFa ws) && isInt (dFb ws) && isInt (dFo ws)

/-- Source 2, or the scalar in its place (R208). -/
def vOperand2 (s : State) (g : Nat) (ws : List Word) : List Num × Cnt :=
  if vSc ws then
    let x := f32Of (nth ws 5)
    if vecInt ws then
      let v := cvtInt 32 false x
      (List.replicate (vCount ws) (.int v.1), v.2)
    else (List.replicate (vCount ws) (.fl x), cnt0)
  else vRead s g (dFb ws) (vSrc2 ws) (vCount ws)

/-- An element-wise operation of two sources and the destination's old elements. -/
def vecBin (sub : Nat) (opI : Int → Int → Int → Int) (opF : Fl → Fl → Fl → Fl × Cnt) (g : EngId) (u : Option Upset) (s : State) : Out :=
  runEng g {
    op := 8, sub := fun ws => dSub ws = sub
    ok := vecBinOk, empty := vEmpty
    run := fun s g ws =>
      let n := vCount ws
      let a := vRead s g (dFa ws) (vSrc1 ws) n
      let b := vOperand2 s g ws
      let d := (vRead s g (dFo ws) (vDst ws) n).1
      let abd := a.1.zip (b.1.zip d)
      if vecInt ws then
        vFinish true u s g ws (a.2.add b.2) (abd.map (fun x => .int (opI (numInt x.1) (numInt x.2.1) (numInt x.2.2))))
      else
        let r := tally (fun (x : Num × Num × Num) => opF (numF32 x.1) (numF32 x.2.1) (numF32 x.2.2)) abd
        vFinish (sub = 2 || sub = 3) u s g ws ((a.2.add b.2).add r.2) (r.1.map .fl) } s

def execVecAdd (g : EngId) (s : State) (u : Option Upset := none) : Out := vecBin 1 (fun a b _ => a + b) (fun a b _ => f32add a b) g u s
def execVecMul (g : EngId) (s : State) (u : Option Upset := none) : Out := vecBin 2 (fun a b _ => a * b) (fun a b _ => f32mul a b) g u s
def execVecFma (g : EngId) (s : State) (u : Option Upset := none) : Out := vecBin 3 (fun a b d => a * b + d) (fun a b d => f32fma a b d) g u s
def execVecMax (g : EngId) (s : State) (u : Option Upset := none) : Out := vecBin 4 (fun a b _ => max a b) (fun a b _ => (f32max a b, cnt0)) g u s
def execVecMin (g : EngId) (s : State) (u : Option Upset := none) : Out := vecBin 5 (fun a b _ => min a b) (fun a b _ => (f32min a b, cnt0)) g u s

/-! EXP, RECIP, RSQRT, CONVERT, the reductions. -/

/-- Step 3 of a sub-operation of one source whose destination holds `m` elements. -/
def vecUnOk (fmtOk : Nat → Bool) (m : List Word → Nat) (ws : List Word) : Bool :=
  vecCommon ws && zeroWords ws 7 13 && dFb ws = 0 && fmtOk (dFa ws) && fmtOk (dFo ws) &&
  linesIn (vSrc1 ws) (rowLines (dFa ws) (vCount ws)) && linesIn (vDst ws) (rowLines (dFo ws) (m ws))

def vecUn (sub : Nat) (f : Fl → Fl × Cnt) (g : EngId) (u : Option Upset) (s : State) : Out :=
  runEng g {
    op := 8, sub := fun ws => dSub ws = sub
    ok := vecUnOk isFp vCount, empty := vEmpty
    run := fun s g ws =>
      let a := vRead s g (dFa ws) (vSrc1 ws) (vCount ws)
      let r := tally (fun x => f (numF32 x)) a.1
      vFinish false u s g ws (a.2.add r.2) (r.1.map .fl) } s

def execVecExp (g : EngId) (s : State) (u : Option Upset := none) : Out := vecUn 6 f32exp g u s
def execVecRecip (g : EngId) (s : State) (u : Option Upset := none) : Out := vecUn 7 f32recip g u s
def execVecRsqrt (g : EngId) (s : State) (u : Option Upset := none) : Out := vecUn 8 f32rsqrt g u s

/-- An element of an invalid HXB4 block reads as 0 for an integer target (R186). -/
def readsAs (fo : Nat) (x : Num) : Num := if isInt fo && x = .fl .nan then .int 0 else x

/-- Step 3 of CONVERT. -/
def convertOk (ws : List Word) : Bool :=
  vecUnOk (fun f => f ≤ 0xA) vCount ws && !((dFa ws = 8 || dFo ws = 8) && vCount ws % 32 ≠ 0)

/-- CONVERT (R206). -/
def execVecConvert (g : EngId) (s : State) (u : Option Upset := none) : Out :=
  runEng g {
    op := 8, sub := fun ws => dSub ws = 9
    ok := convertOk, empty := vEmpty
    run := fun s g ws =>
      let a := vRead s g (dFa ws) (vSrc1 ws) (vCount ws)
      vFinish (isInt (dFa ws) && isInt (dFo ws)) u s g ws a.2 (if dFa ws = 8 then a.1.map (readsAs (dFo ws)) else a.1) } s

/-- Every `k`-th element from `j` on. -/
def laneOf {α : Type} (l : List α) (j k : Nat) : List α := (l.zipIdx.filter (fun x => x.2 % k = j)).map (·.1)

def foldAdd (l : List Fl) : Fl × Cnt :=
  match l with
  | [] => (fzero, cnt0)
  | x :: r => r.foldl (fun a y => let z := f32add a.1 y; (z.1, a.2.add z.2)) (x, cnt0)

/-- One level of the tree: lanes 2i and 2i + 1. -/
def treeLevel : List (Fl × Cnt) → List (Fl × Cnt)
  | a :: b :: r => (let z := f32add a.1 b.1; (z.1, (a.2.add b.2).add z.2)) :: treeLevel r
  | l => l

/-- REDUCE_SUM in FP32 (R211). A lane without an element holds +0. -/
def reduceSum (l : List Fl) : Fl × Cnt :=
  let lanes := (List.range 128).map (fun j => foldAdd (laneOf l j 128))
  (((List.range 7).foldl (fun x _ => treeLevel x) lanes).head?).getD (fzero, cnt0)

/-- REDUCE_MAX in FP32 (R210). -/
def reduceMax (l : List Fl) : Fl :=
  match l with
  | [] => .inf true
  | x :: r => r.foldl f32max x

def vecReduce (sub : Nat) (opI : List Int → Int) (opF : List Fl → Fl × Cnt) (g : EngId) (u : Option Upset) (s : State) : Out :=
  runEng g {
    op := 8, sub := fun ws => dSub ws = sub
    ok := vecUnOk vecFmt (fun _ => 1), empty := vEmpty
    run := fun s g ws =>
      let a := vRead s g (dFa ws) (vSrc1 ws) (vCount ws)
      if isInt (dFa ws) && isInt (dFo ws) then vFinish true (reduced u (vCount ws)) s g ws a.2 [.int (opI (a.1.map numInt))]
      else
        let r := opF (a.1.map numF32)
        vFinish false (reduced u (vCount ws)) s g ws (a.2.add r.2) [.fl r.1] } s

def execVecReduceSum (g : EngId) (s : State) (u : Option Upset := none) : Out := vecReduce 0xA List.sum reduceSum g u s
def execVecReduceMax (g : EngId) (s : State) (u : Option Upset := none) : Out :=
  vecReduce 0xB (fun l => l.foldl max (l.headD 0)) (fun l => (reduceMax l, cnt0)) g u s

/-! Pooling and resizing (06 R242-R246). -/

structure PoolDesc where
  mode : Nat
  kw : Nat
  kh : Nat
  strX : Nat
  strY : Nat
  padL : Nat
  padT : Nat
  inW : Nat
  inH : Nat
  outW : Nat
  outH : Nat
  sP : Nat
  sR : Nat
  dP : Nat
  dR : Nat
  scaleY : Nat
  scaleX : Nat

def poolDesc (ws : List Word) : PoolDesc :=
  { mode := df ws 7 31 28, kw := df ws 7 23 21 + 1, kh := df ws 7 20 18 + 1, strX := df ws 7 17 15 + 1, strY := df ws 7 14 12 + 1
    padL := df ws 7 11 9, padT := df ws 7 8 6, inW := df ws 8 31 16, inH := df ws 8 15 0, outW := df ws 9 31 16, outH := df ws 9 15 0
    sP := df ws 10 30 16, sR := df ws 10 14 0, dP := df ws 11 30 16, dR := df ws 11 14 0
    scaleY := (nth ws 12).toNat, scaleX := (nth ws 13).toNat }

/-- Lines that planes take up, as a mask. -/
def planesMask (line pstride rstride planes h f w : Nat) : Nat :=
  (List.range planes).foldl (fun m p => (List.range h).foldl (fun m r =>
    m ||| ((2 ^ rowLines f w - 1) <<< (line + p * pstride + r * rstride))) m) 0

/-- Step 3 of subop 0x0C (R242, R246). -/
def poolOk (ws : List Word) : Bool :=
  let d := poolDesc ws
  let resize := d.mode = 4 || d.mode = 5
  vecCommon ws && vecFmt (dFa ws) && vecFmt (dFo ws) && dFb ws = 0 && vSrc2 ws = 0 && nth ws 5 == 0 && nth ws 6 == 0 &&
  1 ≤ d.mode && d.mode ≤ 5 && df ws 7 27 24 = 0 && df ws 7 5 0 = 0 &&
  !tbit (nth ws 10) 31 && !tbit (nth ws 10) 15 && !tbit (nth ws 11) 31 && !tbit (nth ws 11) 15 &&
  (if resize then df ws 7 23 6 = 0 && d.scaleX ≠ 0 && d.scaleY ≠ 0 else zeroWords ws 12 13) &&
  planesIn (vSrc1 ws) d.sP d.sR (vCount ws) d.inH (rowLines (dFa ws) d.inW) &&
  planesIn (vDst ws) d.dP d.dR (vCount ws) d.outH (rowLines (dFo ws) d.outW) &&
  (planesMask (vSrc1 ws) d.sP d.sR (vCount ws) d.inH (dFa ws) d.inW &&&
    planesMask (vDst ws) d.dP d.dR (vCount ws) d.outH (dFo ws) d.outW) = 0

def poolEmpty (ws : List Word) : Bool :=
  let d := poolDesc ws
  vCount ws = 0 || d.inW = 0 || d.inH = 0 || d.outW = 0 || d.outH = 0

/-- The elements of a pooling window inside the plane (R243). -/
def windowOf (d : PoolDesc) (row : Nat → List Num) (i j : Nat) : List Num :=
  (List.range d.kh).flatMap (fun ky => (List.range d.kw).filterMap (fun kx =>
    let y : Int := (i * d.strY + ky : Nat) - d.padT
    let x : Int := (j * d.strX + kx : Nat) - d.padL
    if 0 ≤ y && 0 ≤ x && y < d.inH && x < d.inW then (row y.toNat)[x.toNat]? else none))

/-- An exact quotient by a positive number, close enough below that every rounding of it is the quotient's own. -/
def divSticky (x : Fl) (den : Nat) : Fl :=
  match x with
  | .fin s m e =>
    let t := m <<< (64 + Nat.log2 den + 1)
    let q := t / den
    .fin s (2 * q + b2n (t % den ≠ 0)) (e - (64 + Nat.log2 den + 1 : Nat) - 1)
  | y => y

/-- A weighted sum formed exactly; NaN and infinities as R245 has them. -/
def exactSum (xs : List (Nat × Fl)) : Fl × Cnt :=
  match xs with
  | [] => (fzero, cnt0)
  | x :: r =>
    let p := fun (a : Nat × Fl) => fmulX (.fin false a.1 0) a.2
    let v := r.foldl (fun a y => faddX a (p y)) (p x)
    (v, if flNan v && !xs.any (fun a => flNan a.2) then cntNan else cnt0)

/-- The greatest of the elements of a window (R210); infinities of both signs are compared like any values (DESIGN CHOICE, log
entry 177). -/
def poolMax (l : List Num) : Num :=
  match l with
  | [] => .int 0
  | x :: r => r.foldl (fun a y =>
      match a, y with
      | .int u, .int v => .int (max u v)
      | _, _ => .fl (f32max (numFl a) (numFl y))) x

def poolAvg (l : List Num) (den : Nat) : Num × Cnt :=
  match l with
  | [] => (.int 0, cnt0)
  | _ =>
    let v := exactSum (l.map (fun x => (1, numFl x)))
    (.fl (divSticky v.1 den), v.2)

/-- The source index of a nearest-neighbour resize, and index and fraction of a bilinear one (R244). -/
def nearestAt (scale j n : Nat) : Nat :=
  let x : Int := ((2 * j + 1) * scale : Nat) - 65536
  (clampI 0 (n - 1 : Nat) ((x + 65536).fdiv 131072)).toNat
def bilinearAt (scale j n : Nat) : Nat × Nat :=
  let x : Int := ((2 * j + 1) * scale : Nat) - 65536
  if x < 0 then (0, 0)
  else
    let x0 := x.toNat / 131072
    if n ≤ x0 + 1 then (n - 1, 0) else (x0, x.toNat % 131072)

/-- The elements of nonzero weight among four, weights in units of 2^-34. -/
def bilinear (d : PoolDesc) (row : Nat → List Num) (i j : Nat) : Num × Cnt :=
  let y := bilinearAt d.scaleY i d.inH
  let x := bilinearAt d.scaleX j d.inW
  let l := [(0, 0), (0, 1), (1, 0), (1, 1)].map (fun (p : Nat × Nat) =>
    ((if p.1 = 0 then 131072 - y.2 else y.2) * (if p.2 = 0 then 131072 - x.2 else x.2), (y.1 + p.1, x.1 + p.2)))
  let v := exactSum ((l.filter (fun e => e.1 ≠ 0)).map (fun e => (e.1, numFl ((row e.2.1).getD e.2.2 (.int 0)))))
  (.fl (fmulX v.1 (.fin false 1 (-34))), v.2)

/-- Subop 0x0C: one value per output position. The rows own their modes; a reserved mode is the first row's. -/
def poolOp (mine : Nat → Bool) (value : PoolDesc → (Nat → List Num) → Nat → Nat → Num × Cnt) (g : EngId) (u : Option Upset) (s : State) : Out :=
  runEng g {
    op := 8, sub := fun ws => dSub ws = 0xC && mine (df ws 7 31 28)
    ok := poolOk, empty := poolEmpty
    run := fun s g ws =>
      let d := poolDesc ws
      let src := (List.range (vCount ws)).map (fun c => (List.range d.inH).map (fun y =>
        (vRead s g (dFa ws) (vSrc1 ws + c * d.sP + y * d.sR) d.inW).1))
      vRows (isInt (dFa ws) && isInt (dFo ws) || df ws 7 31 28 = 5) u g ws (vCount ws * d.outH) d.outW (fun hit idx s k =>
        let row := fun y => (src.getD (k / d.outH) []).getD y []
        let v := tally (value d row (k % d.outH)) (List.range d.outW)
        let b := numsRow (dFo ws) false (withOpen hit (dFo ws) idx (k * d.outW) v.1)
        rsWr (addCnt s g (v.2.add b.2)) g (vDst ws + k / d.outH * d.dP + k % d.outH * d.dR) b.1) s } s

def execMaxPool (g : EngId) (s : State) (u : Option Upset := none) : Out :=
  poolOp (fun m => m = 1 || m = 0 || 5 < m) (fun d row i j => (poolMax (windowOf d row i j), cnt0)) g u s
def execAveragePoolPaddingCounted (g : EngId) (s : State) (u : Option Upset := none) : Out :=
  poolOp (· = 2) (fun d row i j => poolAvg (windowOf d row i j) (d.kh * d.kw)) g u s
def execAveragePoolPaddingNotCounted (g : EngId) (s : State) (u : Option Upset := none) : Out :=
  poolOp (· = 3) (fun d row i j => poolAvg (windowOf d row i j) (windowOf d row i j).length) g u s
def execNearestNeighbourResize (g : EngId) (s : State) (u : Option Upset := none) : Out :=
  poolOp (· = 4) (fun d row i j => ((row (nearestAt d.scaleY i d.inH)).getD (nearestAt d.scaleX j d.inW) (.int 0), cnt0)) g u s
def execBilinearResize (g : EngId) (s : State) (u : Option Upset := none) : Out := poolOp (· = 5) bilinear g u s

/-! SOFTMAX_STEP (07 R275-R277). -/

def smRows (ws : List Word) : Nat := df ws 7 15 0
def smD (ws : List Word) : Nat := df ws 11 15 0

/-- Step 3 of subop 0x0D in FIRST and STEP, and in FINAL. -/
def softmaxOk (ws : List Word) : Bool :=
  let n := vCount ws
  let r := smRows ws
  vecCommon ws && dFa ws = fmtF32 && dFb ws = 0 && vSrc2 ws = 0 && nth ws 5 == 0 && nth ws 6 == 0 && df ws 7 27 16 = 0 && r ≤ 512 &&
  !tbit (nth ws 8) 31 && !tbit (nth ws 8) 15 && !tbit (nth ws 9) 31 && !tbit (nth ws 9) 15 && zeroWords ws 12 13 &&
  linesIn (df ws 9 14 0) (cdiv (8 * r) 128) &&
  (if df ws 7 31 28 = 3 then
    isFp (dFo ws) && !tbit (nth ws 10) 31 && !tbit (nth ws 10) 15 && df ws 11 31 16 = 0 &&
    rowsIn (df ws 10 14 0) (df ws 10 30 16) r (rowLines fmtF32 (smD ws)) &&
    rowsIn (vDst ws) (df ws 8 14 0) r (rowLines (dFo ws) (smD ws))
  else
    (df ws 7 31 28 = 1 || df ws 7 31 28 = 2) && (dFo ws = 5 || dFo ws = 6 || dFo ws = 3) && zeroWords ws 10 11 &&
    rowsIn (vSrc1 ws) (df ws 8 30 16) r (rowLines fmtF32 n) && rowsIn (vDst ws) (df ws 8 14 0) r (rowLines (dFo ws) n) &&
    linesIn (df ws 9 30 16) (rowLines fmtF32 r))

def softmaxEmpty (ws : List Word) : Bool := vCount ws = 0 || smRows ws = 0 || (df ws 7 31 28 = 3 && smD ws = 0)

/-- An FP32 value in the store. -/
def f32At (s : State) (g addr : Nat) : Fl := fpDecode fpF32 (leNat (memRd (eng s g).rs addr 4))

/-- One row of FIRST or STEP: m, l, c, the row of P in fmt_out, the counts. -/
def softmaxRow (first : Bool) (fo : Nat) (m l : Fl) (xs : List Fl) : Fl × Fl × Fl × List Byte × Cnt :=
  let m := if first then .inf true else m
  let l := if first then fzero else l
  let mNew := f32max m (reduceMax xs)
  if flNan mNew then (.nan, .nan, .nan, (numsRow fo false (xs.map (fun _ => .fl .nan))).1, cnt0)
  else if mNew = .inf true then
    (mNew, l, if first then fzero else fone, (numsRow fo false (xs.map (fun _ => .fl fzero))).1, cnt0)
  else
    let dm := f32add m (fneg mNew)
    let c := f32exp dm.1
    let ps := tally (fun x =>
      let a := f32add x (fneg mNew)
      let e := f32exp a.1
      let p := cvtFl (fpOf fo) false e.1
      (p.1, (a.2.add e.2).add p.2)) xs
    let sum := reduceSum (ps.1.map rnd32)
    let lc := f32mul l c.1
    let l' := f32add lc.1 sum.1
    (mNew, l'.1, if first then fzero else c.1, codesRow fo (ps.1.map (fpEncode (fpOf fo))),
      [dm.2, c.2, ps.2, sum.2, lc.2, l'.2].foldl Cnt.add cnt0)

def softmaxScan (mine : Nat → Bool) (first : Bool) (g : EngId) (u : Option Upset) (s : State) : Out :=
  runEng g {
    op := 8, sub := fun ws => dSub ws = 0xD && mine (df ws 7 31 28)
    ok := softmaxOk, empty := softmaxEmpty
    run := fun s g ws =>
      let st := 128 * df ws 9 14 0
      vRows false u g ws (smRows ws) (vCount ws) (fun hit idx s r =>
        let xs := ((vRead s g fmtF32 (vSrc1 ws + r * df ws 8 30 16) (vCount ws)).1).map numFl
        let o := softmaxRow first (dFo ws) (f32At s g (st + 8 * r)) (f32At s g (st + 8 * r + 4)) xs
        let ps := (rowCodes (dFo ws) (vCount ws) o.2.2.2.1).map (codeNum (dFo ws))
        let p := (numsRow (dFo ws) false (withOpen hit (dFo ws) idx (r * vCount ws) ps)).1
        let s := rsWr (addCnt s g o.2.2.2.2) g (vDst ws + r * df ws 8 14 0) p
        let s := rsWrAt s g (st + 8 * r) (wordsBytes [f32To o.1, f32To o.2.1])
        rsWrAt s g (128 * df ws 9 30 16 + 4 * r) (wordBytes (f32To o.2.2.1))) s } s

/-- SOFTMAX_FIRST; a reserved mode is this row's. -/
def execSoftmaxFirst (g : EngId) (s : State) (u : Option Upset := none) : Out := softmaxScan (fun m => m = 1 || m = 0 || 3 < m) true g u s
def execSoftmaxStep (g : EngId) (s : State) (u : Option Upset := none) : Out := softmaxScan (· = 2) false g u s

/-- SOFTMAX_FINAL (R277). -/
def execSoftmaxFinal (g : EngId) (s : State) (u : Option Upset := none) : Out :=
  runEng g {
    op := 8, sub := fun ws => dSub ws = 0xD && df ws 7 31 28 = 3
    ok := softmaxOk, empty := softmaxEmpty
    run := fun s g ws =>
      vRows true u g ws (smRows ws) (smD ws) (fun hit idx s r =>
        let l := f32At s g (128 * df ws 9 14 0 + 8 * r + 4)
        let xs := ((vRead s g fmtF32 (df ws 10 14 0 + r * df ws 10 30 16) (smD ws)).1).map numFl
        let k := f32recip l
        let v := if flZero l then (xs.map (fun _ => fzero), cnt0) else tally (fun x => f32mul x k.1) xs
        let b := numsRow (dFo ws) false (withOpen hit (dFo ws) idx (r * smD ws) (v.1.map .fl))
        rsWr (addCnt s g ((k.2.add v.2).add b.2)) g (vDst ws + r * df ws 8 14 0) b.1) s } s

end Sys2Proof.Machine
end

