-- ==== Sys2Proof/Machine/Dispatch.lean ====
section
/-! DEFINITION. One arm per constructor of `Instr`: one direct call of its meaning. -/

namespace Sys2Proof.Machine

def exec (i : Instr) (s : State) : Host.Outcome State Fault Refusal :=
  match i with
  | .powerGood ref hptv pce => Sys2Proof.Machine.execPowerGood ref hptv pce s
  | .porstAssert => Sys2Proof.Machine.execPorstAssert s
  | .islandResetRelease u b => Sys2Proof.Machine.execIslandResetRelease u b s
  | .islandResetAssert u => Sys2Proof.Machine.execIslandResetAssert u s
  | .islandActive u => Sys2Proof.Machine.execIslandActive u s
  | .iodResetRelease slotB => Sys2Proof.Machine.execIodResetRelease slotB s
  | .computePairRelease u => Sys2Proof.Machine.execComputePairRelease u s
  | .mctTrainingEnd n => Sys2Proof.Machine.execMctTrainingEnd n s
  | .linkTrained l => Sys2Proof.Machine.execLinkTrained l s
  | .dieReady n ok => Sys2Proof.Machine.execDieReady n ok s
  | .portReady => Sys2Proof.Machine.execPortReady s
  | .iodCoreReady ramFault => Sys2Proof.Machine.execIodCoreReady s ramFault
  | .iodCoreReset => Sys2Proof.Machine.execIodCoreReset s
  | .htPut len bytes => Sys2Proof.Machine.execHtPut len bytes s
  | .htGet len clocked => Sys2Proof.Machine.execHtGet len clocked s
  | .htReget len clocked => Sys2Proof.Machine.execHtReget len clocked s
  | .htStat => Sys2Proof.Machine.execHtStat s
  | .htClr bytes => Sys2Proof.Machine.execHtClr bytes s
  | .htInvalid code second lenLo lenHi => Sys2Proof.Machine.execHtInvalid code second lenLo s lenHi
  | .undefinedOpcode p => Sys2Proof.Machine.execUndefinedOpcode p s
  | .sysIdentity p => Sys2Proof.Machine.execSysIdentity p s
  | .sysEcho p => Sys2Proof.Machine.execSysEcho p s
  | .sysAliveSync p => Sys2Proof.Machine.execSysAliveSync p s
  | .sysAlertEn p => Sys2Proof.Machine.execSysAlertEn p s
  | .stgGet p => Sys2Proof.Machine.execStgGet p s
  | .stgSet p => Sys2Proof.Machine.execStgSet p s
  | .ttOpen p => Sys2Proof.Machine.execTtOpen p s
  | .ttWrite p => Sys2Proof.Machine.execTtWrite p s
  | .ttVerify p => Sys2Proof.Machine.execTtVerify p s
  | .ttVerifyEnd c copyFault => Sys2Proof.Machine.execTtVerifyEnd c copyFault s
  | .ttArm p => Sys2Proof.Machine.execTtArm p s
  | .ttCancel p => Sys2Proof.Machine.execTtCancel p s
  | .ttStatus p => Sys2Proof.Machine.execTtStatus p s
  | .profileSet p => Sys2Proof.Machine.execProfileSet p s
  | .profileApply => Sys2Proof.Machine.execProfileApply s
  | .ttSwitch => Sys2Proof.Machine.execTtSwitch s
  | .stageTick now => Sys2Proof.Machine.execStageTick now s
  | .replicaTick r now => Sys2Proof.Machine.execReplicaTick r now s
  | .layoverStart => Sys2Proof.Machine.execLayoverStart s
  | .outputCutoff => Sys2Proof.Machine.execOutputCutoff s
  | .reexecSetEnd cmd => Sys2Proof.Machine.execReexecSetEnd cmd s
  | .relayMoveDue => Sys2Proof.Machine.execRelayMoveDue s
  | .relayMoveEnd => Sys2Proof.Machine.execRelayMoveEnd s
  | .readmitMoveEnd n => Sys2Proof.Machine.execReadmitMoveEnd n s
  | .asSyncLost => Sys2Proof.Machine.execAsSyncLost s
  | .asSyncRegained offset => Sys2Proof.Machine.execAsSyncRegained offset s
  | .asPortFailover => Sys2Proof.Machine.execAsPortFailover s
  | .asPortReturn => Sys2Proof.Machine.execAsPortReturn s
  | .wbSubmit p => Sys2Proof.Machine.execWbSubmit p s
  | .waybillComplete id => Sys2Proof.Machine.execWaybillComplete id s
  | .wbStatus p => Sys2Proof.Machine.execWbStatus p s
  | .qQuery p => Sys2Proof.Machine.execQQuery p s
  | .ctxPreempt p => Sys2Proof.Machine.execCtxPreempt p s
  | .preemptComplete c => Sys2Proof.Machine.execPreemptComplete c s
  | .ctxResume p => Sys2Proof.Machine.execCtxResume p s
  | .ctxRebind p => Sys2Proof.Machine.execCtxRebind p s
  | .rebindMilepost g => Sys2Proof.Machine.execRebindMilepost g s
  | .doorbell livery tail => Sys2Proof.Machine.execDoorbell livery tail s
  | .tableMirrorEnd => Sys2Proof.Machine.execTableMirrorEnd s
  | .synInit p => Sys2Proof.Machine.execSynInit p s
  | .synSignal p => Sys2Proof.Machine.execSynSignal p s
  | .synDecrement p => Sys2Proof.Machine.execSynDecrement p s
  | .synWait p => Sys2Proof.Machine.execSynWait p s
  | .synWaitTimeout id => Sys2Proof.Machine.execSynWaitTimeout id s
  | .synQuery p => Sys2Proof.Machine.execSynQuery p s
  | .descriptorSignal g => Sys2Proof.Machine.execDescriptorSignal g s
  | .memRead p => Sys2Proof.Machine.execMemRead p s
  | .memWrite p => Sys2Proof.Machine.execMemWrite p s
  | .memFill p => Sys2Proof.Machine.execMemFill p s
  | .memCopy p => Sys2Proof.Machine.execMemCopy p s
  | .memCopyEnd id => Sys2Proof.Machine.execMemCopyEnd id s
  | .mctCommit p => Sys2Proof.Machine.execMctCommit p s
  | .fabricAccess a => Sys2Proof.Machine.execFabricAccess a s
  | .writeDrain n idx => Sys2Proof.Machine.execWriteDrain n idx s
  | .mctHeldRead n idx => Sys2Proof.Machine.execMctHeldRead n idx s
  | .hbmUeLimit n => Sys2Proof.Machine.execHbmUeLimit n s
  | .hbmCeNotice n => Sys2Proof.Machine.execHbmCeNotice n s
  | .refreshDebtAccrue n flaws => Sys2Proof.Machine.execRefreshDebtAccrue n s flaws
  | .refreshIssue n pc bank => Sys2Proof.Machine.execRefreshIssue n pc bank s
  | .forcedRefresh n pc bank => Sys2Proof.Machine.execForcedRefresh n pc bank s
  | .patrolScrub n burst flaws => Sys2Proof.Machine.execPatrolScrub n burst flaws s
  | .islandMemPiece u => Sys2Proof.Machine.execIslandMemPiece u s
  | .linkFlitError l e => Sys2Proof.Machine.execLinkFlitError l e s
  | .retryExhaustion l => Sys2Proof.Machine.execRetryExhaustion l s
  | .linkDown l => Sys2Proof.Machine.execLinkDown l s
  | .routeChange src dst => Sys2Proof.Machine.execRouteChange src dst s
  | .fabricTimeout u late => Sys2Proof.Machine.execFabricTimeout u s late
  | .nop g => Sys2Proof.Machine.execNop g s
  | .gemm g u => Sys2Proof.Machine.execGemm g s u
  | .gemmAa g u => Sys2Proof.Machine.execGemmAa g s u
  | .convDense g u => Sys2Proof.Machine.execConvDense g s u
  | .convGrouped g u => Sys2Proof.Machine.execConvGrouped g s u
  | .convDepthwise g u => Sys2Proof.Machine.execConvDepthwise g s u
  | .attnScore g u w => Sys2Proof.Machine.execAttnScore g s u w
  | .attnValue g u w => Sys2Proof.Machine.execAttnValue g s u w
  | .append g w => Sys2Proof.Machine.execAppend g s w
  | .compact g w => Sys2Proof.Machine.execCompact g s w
  | .vecAdd g u => Sys2Proof.Machine.execVecAdd g s u
  | .vecMul g u => Sys2Proof.Machine.execVecMul g s u
  | .vecFma g u => Sys2Proof.Machine.execVecFma g s u
  | .vecMax g u => Sys2Proof.Machine.execVecMax g s u
  | .vecMin g u => Sys2Proof.Machine.execVecMin g s u
  | .vecExp g u => Sys2Proof.Machine.execVecExp g s u
  | .vecRecip g u => Sys2Proof.Machine.execVecRecip g s u
  | .vecRsqrt g u => Sys2Proof.Machine.execVecRsqrt g s u
  | .vecConvert g u => Sys2Proof.Machine.execVecConvert g s u
  | .vecReduceSum g u => Sys2Proof.Machine.execVecReduceSum g s u
  | .vecReduceMax g u => Sys2Proof.Machine.execVecReduceMax g s u
  | .maxPool g u => Sys2Proof.Machine.execMaxPool g s u
  | .averagePoolPaddingCounted g u => Sys2Proof.Machine.execAveragePoolPaddingCounted g s u
  | .averagePoolPaddingNotCounted g u => Sys2Proof.Machine.execAveragePoolPaddingNotCounted g s u
  | .nearestNeighbourResize g u => Sys2Proof.Machine.execNearestNeighbourResize g s u
  | .bilinearResize g u => Sys2Proof.Machine.execBilinearResize g s u
  | .softmaxFirst g u => Sys2Proof.Machine.execSoftmaxFirst g s u
  | .softmaxStep g u => Sys2Proof.Machine.execSoftmaxStep g s u
  | .softmaxFinal g u => Sys2Proof.Machine.execSoftmaxFinal g s u
  | .load g => Sys2Proof.Machine.execLoad g s
  | .store g => Sys2Proof.Machine.execStore g s
  | .haloSend g => Sys2Proof.Machine.execHaloSend g s
  | .haloMessageArrive g => Sys2Proof.Machine.execHaloMessageArrive g s
  | .haloRecvCopy g => Sys2Proof.Machine.execHaloRecvCopy g s
  | .haloRecvAdd g => Sys2Proof.Machine.execHaloRecvAdd g s
  | .wait g => Sys2Proof.Machine.execWait g s
  | .descriptorComplete g => Sys2Proof.Machine.execDescriptorComplete g s
  | .weightFetch g => Sys2Proof.Machine.execWeightFetch g s
  | .engineHang g => Sys2Proof.Machine.execEngineHang g s
  | .engineWithdraw g => Sys2Proof.Machine.execEngineWithdraw g s
  | .selftestSlice g => Sys2Proof.Machine.execSelftestSlice g s
  | .selftestSliceEnd g pass => Sys2Proof.Machine.execSelftestSliceEnd g pass s
  | .selftestDeferLimit g => Sys2Proof.Machine.execSelftestDeferLimit g s
  | .kvAlloc p => Sys2Proof.Machine.execKvAlloc p s
  | .kvFree p => Sys2Proof.Machine.execKvFree p s
  | .kvShare p => Sys2Proof.Machine.execKvShare p s
  | .kvQuery p => Sys2Proof.Machine.execKvQuery p s
  | .kvStats p => Sys2Proof.Machine.execKvStats p s
  | .kvWritePrepare g => Sys2Proof.Machine.execKvWritePrepare g s
  | .kvCopyEnd page => Sys2Proof.Machine.execKvCopyEnd page s
  | .mplCfg p => Sys2Proof.Machine.execMplCfg p s
  | .mplSearch src => Sys2Proof.Machine.execMplSearch src s
  | .mplSearchBuild src => Sys2Proof.Machine.execMplSearchBuild src s
  | .fieldBuildStart => Sys2Proof.Machine.execFieldBuildStart s
  | .fieldPublish => Sys2Proof.Machine.execFieldPublish s
  | .searchTimeBudget => Sys2Proof.Machine.execSearchTimeBudget s
  | .searchStageDeadline cycles => Sys2Proof.Machine.execSearchStageDeadline cycles s
  | .searchEnd => Sys2Proof.Machine.execSearchEnd s
  | .mplCheck p ev => Sys2Proof.Machine.execMplCheck p ev s
  | .mplCheckInline p ev => Sys2Proof.Machine.execMplCheckInline p ev s
  | .mplCandidates p => Sys2Proof.Machine.execMplCandidates p s
  | .mplStatus p => Sys2Proof.Machine.execMplStatus p s
  | .urgentCheckRequest u req ev serviceNs => Sys2Proof.Machine.execUrgentCheckRequest u req ev serviceNs s
  | .outputGate ev => Sys2Proof.Machine.execOutputGate ev s
  | .occupancyWriteRelease => Sys2Proof.Machine.execOccupancyWriteRelease s
  | .primitiveWriteRelease => Sys2Proof.Machine.execPrimitiveWriteRelease s
  | .mplDeferredCommit => Sys2Proof.Machine.execMplDeferredCommit s
  | .samplePublish livery stream w now => Sys2Proof.Machine.execSamplePublish livery stream w now s
  | .sampleBufferWriteRelease => Sys2Proof.Machine.execSampleBufferWriteRelease s
  | .fusionRoundStart now => Sys2Proof.Machine.execFusionRoundStart now s
  | .fusionPublish now => Sys2Proof.Machine.execFusionPublish now s
  | .fusDeferredCommit => Sys2Proof.Machine.execFusDeferredCommit s
  | .fusCfg p => Sys2Proof.Machine.execFusCfg p s
  | .fusMask p => Sys2Proof.Machine.execFusMask p s
  | .fusUnmask p => Sys2Proof.Machine.execFusUnmask p s
  | .fusTracks p => Sys2Proof.Machine.execFusTracks p s
  | .fusReport p => Sys2Proof.Machine.execFusReport p s
  | .fusClear p => Sys2Proof.Machine.execFusClear p s
  | .cvuCfg p => Sys2Proof.Machine.execCvuCfg p s
  | .cvuFeed p => Sys2Proof.Machine.execCvuFeed p s
  | .cvuResult p => Sys2Proof.Machine.execCvuResult p s
  | .cvuResultReset p => Sys2Proof.Machine.execCvuResultReset p s
  | .cvuAliveRead p => Sys2Proof.Machine.execCvuAliveRead p s
  | .cvuAliveLoad p => Sys2Proof.Machine.execCvuAliveLoad p s
  | .cvuAliveCheck p => Sys2Proof.Machine.execCvuAliveCheck p s
  | .cvuAliveAdvance p => Sys2Proof.Machine.execCvuAliveAdvance p s
  | .cvuFeed8 k v => Sys2Proof.Machine.execCvuFeed8 k v s
  | .cvuFeed16 k v => Sys2Proof.Machine.execCvuFeed16 k v s
  | .cvuFeed32 k v => Sys2Proof.Machine.execCvuFeed32 k v s
  | .cvuConfigWrite k reg v => Sys2Proof.Machine.execCvuConfigWrite k reg v s
  | .cvuAliveWrite k v => Sys2Proof.Machine.execCvuAliveWrite k v s
  | .cvuAlchkWrite k v => Sys2Proof.Machine.execCvuAlchkWrite k v s
  | .cvuReset k => Sys2Proof.Machine.execCvuReset k s
  | .cvuAdvance k => Sys2Proof.Machine.execCvuAdvance k s
  | .cvuClrcnt k skipHit repHit => Sys2Proof.Machine.execCvuClrcnt k s skipHit repHit
  | .latchedLoRead pair => Sys2Proof.Machine.execLatchedLoRead pair s
  | .latchedHiRead pair => Sys2Proof.Machine.execLatchedHiRead pair s
  | .registerWrite livery addr v => Sys2Proof.Machine.execRegisterWrite livery addr v s
  | .lnkClrcnt n spHit scHit pcHit iodHit => Sys2Proof.Machine.execLnkClrcnt n s spHit scHit pcHit iodHit
  | .teCfgWrite g v => Sys2Proof.Machine.execTeCfgWrite g v s
  | .teChkstatClr g wsHit resHit abftHit => Sys2Proof.Machine.execTeChkstatClr g s wsHit resHit abftHit
  | .teNumcntClr g satHit nanHit => Sys2Proof.Machine.execTeNumcntClr g s satHit nanHit
  | .kpmClrhwm => Sys2Proof.Machine.execKpmClrhwm s
  | .mplCommit => Sys2Proof.Machine.execMplCommit s
  | .mplClrck mismHit => Sys2Proof.Machine.execMplClrck s mismHit
  | .fusCommit => Sys2Proof.Machine.execFusCommit s
  | .mctCtlCommit n => Sys2Proof.Machine.execMctCtlCommit n s
  | .mctClrcnt n ceHit ueHit forcedHit => Sys2Proof.Machine.execMctClrcnt n s ceHit ueHit forcedHit
  | .sisBeat u now => Sys2Proof.Machine.execSisBeat u now s
  | .sisClrcnt u withheldHit disagreeHit timeoutHit => Sys2Proof.Machine.execSisClrcnt u s withheldHit disagreeHit timeoutHit
  | .fwlRegionWrite livery t off v => Sys2Proof.Machine.execFwlRegionWrite livery t off v s
  | .stateMessageSend u => Sys2Proof.Machine.execStateMessageSend u s
  | .islandStateMessage u msg => Sys2Proof.Machine.execIslandStateMessage u msg s
  | .heartbeatLapse u now => Sys2Proof.Machine.execHeartbeatLapse u now s
  | .xmonLapse u differ => Sys2Proof.Machine.execXmonLapse u differ s
  | .lockstepMismatch u => Sys2Proof.Machine.execLockstepMismatch u s
  | .gateReport u ramFault => Sys2Proof.Machine.execGateReport u ramFault s
  | .islandNoReportStart u ramFault => Sys2Proof.Machine.execIslandNoReportStart u ramFault s
  | .urgentReply u roundTripNs ramFault => Sys2Proof.Machine.execUrgentReply u roundTripNs s ramFault
  | .urgentReplyTimeout u ramFault => Sys2Proof.Machine.execUrgentReplyTimeout u s ramFault
  | .releaseMessage e u => Sys2Proof.Machine.execReleaseMessage e u s
  | .dragShoeRecord e u => Sys2Proof.Machine.execDragShoeRecord e u s
  | .immediateDragShoe u => Sys2Proof.Machine.execImmediateDragShoe u s
  | .dieLost n => Sys2Proof.Machine.execDieLost n s
  | .iodCoreFault => Sys2Proof.Machine.execIodCoreFault s
  | .ringEdgeFault e => Sys2Proof.Machine.execRingEdgeFault e s
  | .ringEdgeReady e => Sys2Proof.Machine.execRingEdgeReady e s
  | .supplyFault dies iod => Sys2Proof.Machine.execSupplyFault dies iod s
  | .clearanceMismatchLimit => Sys2Proof.Machine.execClearanceMismatchLimit s
  | .mgtNotice u => Sys2Proof.Machine.execMgtNotice u s
  | .logbookProgram u => Sys2Proof.Machine.execLogbookProgram u s
  | .decisionDueNotice u te link => Sys2Proof.Machine.execDecisionDueNotice u te s link
  | .diagLogRead p ramFault => Sys2Proof.Machine.execDiagLogRead p s ramFault
  | .diagCounters p => Sys2Proof.Machine.execDiagCounters p s
  | .diagSelftest p => Sys2Proof.Machine.execDiagSelftest p s
  | .sisStatus p => Sys2Proof.Machine.execSisStatus p s
  | .sisFlashErase p => Sys2Proof.Machine.execSisFlashErase p s
  | .sisFlashProgram p => Sys2Proof.Machine.execSisFlashProgram p s
  | .flashOperationEnd u => Sys2Proof.Machine.execFlashOperationEnd u s
  | .sisLogbook p => Sys2Proof.Machine.execSisLogbook p s
  | .secToken p => Sys2Proof.Machine.execSecToken p s
  | .secAttest p => Sys2Proof.Machine.execSecAttest p s
  | .secFwOpen p => Sys2Proof.Machine.execSecFwOpen p s
  | .secFwWrite p => Sys2Proof.Machine.execSecFwWrite p s
  | .secFwActivate p => Sys2Proof.Machine.execSecFwActivate p s
  | .fwSwitch => Sys2Proof.Machine.execFwSwitch s
  | .fwTrialConfirm u => Sys2Proof.Machine.execFwTrialConfirm u s
  | .clkStatus p => Sys2Proof.Machine.execClkStatus p s
  | .clkSelect p => Sys2Proof.Machine.execClkSelect p s
  | .clkGateOpen p => Sys2Proof.Machine.execClkGateOpen p s
  | .clkGateClose p => Sys2Proof.Machine.execClkGateClose p s
  | .clockSourceLost c => Sys2Proof.Machine.execClockSourceLost c s
  | .clockSourceReady c => Sys2Proof.Machine.execClockSourceReady c s
  | .clockRampEnd grp => Sys2Proof.Machine.execClockRampEnd grp s
  | .rstUnitReset p => Sys2Proof.Machine.execRstUnitReset p s
  | .rstUnitReadmit p => Sys2Proof.Machine.execRstUnitReadmit p s
  | .rstUnitRetire p => Sys2Proof.Machine.execRstUnitRetire p s
  | .orpBypassClose p => Sys2Proof.Machine.execOrpBypassClose p s
  | .orpBypassOpen p => Sys2Proof.Machine.execOrpBypassOpen p s
  | .bypassAutoClose e => Sys2Proof.Machine.execBypassAutoClose e s
  | .bypassAutoOpen e => Sys2Proof.Machine.execBypassAutoOpen e s
  | .bypassMoveEnd e ok => Sys2Proof.Machine.execBypassMoveEnd e ok s
  | .downstreamLinkUp e => Sys2Proof.Machine.execDownstreamLinkUp e s
  | .ringFrameReceive e f waiting => Sys2Proof.Machine.execRingFrameReceive e f waiting s
  | .mgtFrameReceive u f => Sys2Proof.Machine.execMgtFrameReceive u f s
  | .pciePostedWrite bar off data => Sys2Proof.Machine.execPciePostedWrite bar off data s
  | .pcieRead bar off len ramFault => Sys2Proof.Machine.execPcieRead bar off len s ramFault
  | .thmStatus p => Sys2Proof.Machine.execThmStatus p s
  | .thmLimits p => Sys2Proof.Machine.execThmLimits p s
  | .thmAgeing p => Sys2Proof.Machine.execThmAgeing p s
  | .lidSensorSample u x => Sys2Proof.Machine.execLidSensorSample u x s
  | .outletSlopeEval u => Sys2Proof.Machine.execOutletSlopeEval u s
  | .thermalLevelEval u => Sys2Proof.Machine.execThermalLevelEval u s
  | .junctionReport u logic hbm degr hot => Sys2Proof.Machine.execJunctionReport u logic hbm degr hot s
  | .thermalDieRestart n => Sys2Proof.Machine.execThermalDieRestart n s
  | .iodThermalRelease => Sys2Proof.Machine.execIodThermalRelease s
  | .suddenLossHoldEnd => Sys2Proof.Machine.execSuddenLossHoldEnd s
  | .portLinkUp l => Sys2Proof.Machine.execPortLinkUp l s
  | .portLinkDown l => Sys2Proof.Machine.execPortLinkDown l s
  | .downstreamLinkTimeout e => Sys2Proof.Machine.execDownstreamLinkTimeout e s
  | .sensorDataReceive stream data => Sys2Proof.Machine.execSensorDataReceive stream data s

end Sys2Proof.Machine
end

