-- ==== Sys2Proof/Safety.lean ====
section
/-! DEFINITION. The terms the statements use: when a port's next packet is an opcode's and passes the checks of its header
(03, Table 3-10), what taking and answering it does, when a descriptor is an engine's next, and the forms that every memory of
the device keeps. -/

namespace Sys2Proof.Safety

open Sys2Proof.Machine

/-! Packets. -/

/-- `k` has passed steps 1-4 at port `p` and waits there alone, with nothing behind it. -/
structure Alone (s : State) (p : Port) (k : Pkt) : Prop where
  only : waiting s p = [k]
  port : k.port = p
  fate : k.fate = .arrived
  free : (match p with | .host => s.hpt.inbound | .mgt i => (mgt s i).inbound) = []

/-- `k` is the packet that port `p` checks and carries out next: it waits there alone, is of opcode `o` of class `c` with `n`
parameter words, and steps 6-9 of Table 3-10 let it pass. -/
structure Ready (s : State) (p : Port) (c o n : Nat) (k : Pkt) : Prop where
  alone : Alone s p k
  cls  : pktCls k = c
  op   : pktOp k = o
  len  : pktLen k = n
  size : k.words.length = n + 5
  head : badHeader k = none
  ctx  : ctxExists s (pktCtx k) = true
  own  : deviceWide c = true → pktCtx k = 0
  mgt  : p ≠ .host → mgtOp c o = true ∧ pktCtx k = 0

/-- The state with the packet taken out of its port's queue. -/
def took (s : State) (p : Port) (k : Pkt) : State := setWaiting s p ((waiting s p).erase k)

/-- The state after a packet is answered from `t`: the reply has left, and the host port goes on with its intake (R124). -/
def answered (p : Port) (k : Pkt) (st : Byte) (data : List Word) (t : State) : State := afterPkt (reply t k st data) p

/-- The state after a packet is refused from `t`, with the detail word of Table 3-12. -/
def refused (p : Port) (k : Pkt) (st : Byte) (step idx : Nat) (t : State) : State := afterPkt (refuse t k st step 0 idx) p

/-- The state after a packet's reply is deferred from `t` until the work `w` ends. -/
def deferred (p : Port) (k : Pkt) (w : DefKind) (t : State) : State :=
  afterPkt (setDis t (fun d => { d with defers := d.defers ++ [{ pkt := k, what := w }] })) p

/-- The reply of a host packet is the next in the reply FIFO (R123); with no packet behind it whose reply waits for its own or whose
checks it held up (R124, R126), it is the last. -/
def replied (s t : State) (k : Pkt) (st : Byte) (data : List Word) : Prop :=
  ∃ more, t.hpt.fifo = s.hpt.fifo ++ replyWords k s.hpt.replies.toNat st data :: more ∧
    (s.hpt.inbound = [] → (∀ q ∈ s.hpt.wait, q.fate = .arrived) → more = [])

/-- The packets that waited for the work `w` have drawn their replies: the deferred packets are gone, and the one of a host
packet stands in the reply FIFO. -/
def drew (s t : State) (w : DefKind) (st : Byte) (data : List Word) : Prop :=
  t.dis.defers = s.dis.defers.filter (fun d => !(d.what == w)) ∧
  ∀ d, s.dis.defers.filter (fun d => d.what == w) = [d] → d.pkt.port = .host → replied s t d.pkt st data

/-! Engines. -/

/-- The engine's next descriptor is `ws`, taken in `t`: read well, not cut short (R162), and past steps 1 and 2 and the
reserved bits of Table 4-11, with operation `op`. -/
structure DescReady (s : State) (g : EngId) (op : Nat) (ws : List Word) (t : State) : Prop where
  next : nextDesc s g = some (ws, true, t)
  skip : (eng t g).skipSt = none
  sealed : sealOk ws = true
  defd : opDefined ws = true
  op   : dOp ws = op
  common : commonOk ws = true
  whole : (eng t g).cut = false

/-- From `t` on, only engine `g` and the count of free values differ. -/
structure OnlyEngine (t u : State) (g : EngId) : Prop where
  rest   : u = { t with engines := u.engines, free := u.free }
  others : ∀ h : EngId, h ≠ g → eng u h = eng t h

/-- The engine waits for nothing, and one completion of its descriptor stands ready with a status. -/
def ended (u : State) (g : EngId) (ws : List Word) (st : Byte) : Prop :=
  (eng u g).cur = none ∧ (eng u g).waiting = none ∧ ∃ c, (eng u g).done = [c] ∧ c.words = ws ∧ c.status = st

/-- The descriptor was carried out: it ended with a status, and only its engine has changed. -/
def ran (t u : State) (g : EngId) (ws : List Word) (st : Byte) : Prop := OnlyEngine t u g ∧ ended u g ws st

/-- The check column and the residue channel find no mismatch in any row of a product, however what R144 leaves open comes out. -/
def quiet (x : Mat) (ftol : Nat) : Prop :=
  ∀ idx k, (rowOut x none ftol idx k).sum = false ∧ (rowOut x none ftol idx k).res = false

/-- The INT32 value and the INT8 value at an address of a store. -/
def int32At (m : Mem) (a : Nat) : Int := sx 32 (leNat (memRd m a 4))
def int8At (m : Mem) (a : Nat) : Int := sx 8 (memByte m a).toNat

/-- Saturated to INT32 (R199). -/
def sat32 (v : Int) : Int := clampI (-2147483648) 2147483647 v

/-- Bytes outside `n` bytes from `a` on are the same in two stores. -/
def sameOutside (m m' : Mem) (a n : Nat) : Prop := ∀ b, b < a ∨ a + n ≤ b → memByte m' b = memByte m b

/-- The rows of the engine operations (Table 4-6), with the upset that may come while they run. -/
def engineRows (g : EngId) (u : Option Upset) : List Instr :=
  [.nop g, .gemm g u, .gemmAa g u, .convDense g u, .convGrouped g u, .convDepthwise g u, .attnScore g u none,
    .attnValue g u none, .append g none, .compact g none, .vecAdd g u, .vecMul g u, .vecFma g u, .vecMax g u, .vecMin g u, .vecExp g u, .vecRecip g u,
    .vecRsqrt g u, .vecConvert g u, .vecReduceSum g u, .vecReduceMax g u, .maxPool g u, .averagePoolPaddingCounted g u,
    .averagePoolPaddingNotCounted g u, .nearestNeighbourResize g u, .bilinearResize g u, .softmaxFirst g u, .softmaxStep g u,
    .softmaxFinal g u, .load g, .store g, .haloSend g, .haloRecvCopy g, .haloRecvAdd g, .wait g]

/-! The planner. -/

/-- From `s`, a search has been accepted in `u` (R290, R292, R314): it holds the configuration in effect; without a build it starts
at once, which clears slots 0 to 8, and with one the planner's memory stays until the build is published; nothing but the planner
and the count of free values has changed. -/
structure SearchBegun (s u : State) (src : SearchSrc) (pkt : Option Pkt) (par : List Word) : Prop where
  search : u.mpl.search = some {
    src := src, pkt := pkt, build := tbit (nth par 0) 0, waiting := tbit (nth par 0) 0, building := false
    pose := (nth par 1, nth par 2), t0 := join64 (nth par 3) (nth par 4), cfg := s.mpl.cfg, layover := s.stg.inlay }
  st     : u.mpl.st = if tbit (nth par 0) 0 then 2 else 3
  slots  : tbit (nth par 0) 0 = false → ∀ b, slotBase 0 ≤ b → b < slotBase 9 → memByte u.mpl.sram b = 0
  other  : sameOutside s.mpl.sram u.mpl.sram (slotBase 0) (9 * 2048)
  kept   : tbit (nth par 0) 0 = true → u.mpl.sram = s.mpl.sram
  rest   : u = { s with mpl := u.mpl, free := u.free }
  mpl    : u.mpl = { s.mpl with
    search := u.mpl.search, st := u.mpl.st, sram := u.mpl.sram, current := s.mpl.current && tbit (nth par 0) 0
    candsHeld := if tbit (nth par 0) 0 then s.mpl.candsHeld else 0, searched := s.mpl.searched || !tbit (nth par 0) 0 }

/-! The islands' log. -/

/-- The newest entry of an island's log, of which something holds (R516, R517). -/
def logged (t : State) (i : Isl) (c : Entry → Prop) : Prop := ∃ q, (isl t i).flog.head? = some q ∧ c q.2

/-- The frame in which a ring edge sends a message: header, words, check sequence (R604). -/
def ringFrame (s : State) (e : Edge) (ws : List Word) : Emit :=
  .ring e (frameHeader s e) ws (frameCheck (frameHeader s e ++ framePad (frameHeader s e) ws))

/-- From `s` on, only check-value unit `k` differs. -/
def OnlyCvu (s t : State) (k : Nat) : Prop := t = { s with cvus := t.cvus } ∧ ∀ j, j ≠ k → cvu t j = cvu s j

/-! Memories. -/

/-- Every memory whose bytes commands write holds its cells in the canonical form, and a byte of the planner's SRAM that is
not listed reads as zero. -/
structure MemoriesCanonical (s : State) : Prop where
  dies    : ∀ e ∈ s.dies, memWf e.2.hbm = true ∧ memWf e.2.pool = true
  engines : ∀ e ∈ s.engines, memWf e.2.rs = true ∧ memWf e.2.acc0 = true ∧ memWf e.2.acc1 = true ∧ memWf e.2.wbuf0 = true ∧
    memWf e.2.wbuf1 = true
  ram     : ∀ i, memWf (isl s i).ram = true
  flash   : ∀ i, memWf (isl s i).flash = true
  sram    : memWf s.mpl.sram = true ∧ s.mpl.sram.fill = .byte 0
  field   : memWf s.mpl.buf0.occ = true ∧ memWf s.mpl.buf1.occ = true
  fusion  : memWf s.fus.mem = true

end Sys2Proof.Safety
end

