-- ==== Sys2Proof/Certificates/Slice0/Obligations.lean ====
section
/-! DEFINITION. The statements for the provers. -/

open Sys2Proof Sys2Proof.Machine Sys2Proof.Safety

/-! The queue of commands and what every step keeps. -/

/-- The command at the front is carried out with the rest of the queue. -/
def Obligations.StepRunsFront : Prop :=
  ∀ (s : State) (c : Instr) (rest : List Instr), s.pending = c :: rest → step s = exec c { s with pending := rest }

/-- Every step that runs takes exactly the front command off the queue: no command's effect adds, drops or reorders commands.
With no command waiting the block idles, which is the model's choice (log entry 1). -/
def Obligations.StepTakesOneCommand : Prop :=
  (∀ s : State, s.pending = [] → step s = .next s) ∧
  (∀ s t : State, step s = .next t → t.pending = s.pending.tail)

/-- Every step keeps every memory in its canonical form. -/
def Obligations.MemoriesStayCanonical : Prop :=
  ∀ s t : State, MemoriesCanonical s → step s = .next t → MemoriesCanonical t

/-- The memories of the state after reset are in canonical form. -/
def Obligations.ResetMemoriesCanonical : Prop :=
  MemoriesCanonical State.reset

/-- What reset leaves in the stage timer (Table 2-6), the host port (Tables 3-4 to 3-8), a memory controller (Table 12-5) and a
firewall region (Table 13-8), and that nothing waits. -/
def Obligations.ResetRegisters : Prop :=
  State.reset.pending = [] ∧ State.reset.stg.timing = 0x000A0632 ∧ stgProfile State.reset.stg = 0x00003FC0 ∧
  State.reset.stg.stage = 0 ∧ hptAlert State.reset.hpt = 0 ∧ State.reset.hpt.alertEn = 0xFB ∧ State.reset.hpt.ready = false ∧
  (∀ n : DieId, (mct State.reset n).map = 0x204 ∧ (mct State.reset n).st = 0) ∧
  (∀ t : FwTarget, (fwl State.reset t).regions = []) ∧ (∀ k : CvuId, (cvu State.reset k).cfg = 0x720) ∧
  State.reset.mpl.st = 0 ∧ State.reset.sia.st = 1 ∧ State.reset.sib.st = 1

/-! Pads, start-up and restarts (16, Table 16-4). -/

/-- POWER_GOOD samples the straps; PORST_ASSERT and IOD_CORE_RESET reset the IOD core, the first every die as well;
IOD_RESET_RELEASE starts the core from the first slot that the islands in service have verified (R568). -/
def Obligations.PadsAndIodCore : Prop :=
  (∀ (s : State) (ref hptv pce : Bool), s.iod.porst = false →
    exec (.powerGood ref hptv pce) s = .next { s with iod := { s.iod with
      porst := true, cause := 0, straps := BitVec.ofNat 4 (flagAt pce 2 + flagAt hptv 1 + flagAt ref 0) } }) ∧
  (∀ s : State, ∃ t, exec .porstAssert s = .next t ∧ t.iod.inReset = true ∧ t.iod.porst = false ∧ t.iod.testMode = false ∧
    t.hpt = {} ∧ t.tt = {} ∧ t.stg = {} ∧ (∀ e, (edge t e).held = false) ∧ (∀ n : DieId, (die t n).inReset = true)) ∧
  (∀ (s : State) (i : Isl) (sl : Bool), s.iod.inReset = true → s.iod.porst = true → s.iod.sudden = false →
    s.iod.thermal = false → loadIsl s = some i → iodSlotOk s i sl = true → (sl = s.iod.fw.recB ∨ iodSlotOk s i s.iod.fw.recB = false) →
    ∃ t, exec (.iodResetRelease sl) s = .next t ∧
      t.iod = { s.iod with
        inReset := false, running := true, serial := recordSerial (isl s i)
        verIod := imageWord (isl s i) (iodSlot sl) 8, fw := bootFrom s.iod.fw sl } ∧
      (s.iod.cause = 0 → ∀ e, (edge t e).inReset = false) ∧ (s.iod.cause ≠ 0 → t.edgeA = s.edgeA ∧ t.edgeB = s.edgeB) ∧
      t.dies = s.dies ∧ t.engines = s.engines ∧ (sl = s.iod.fw.recB → t.sia = s.sia ∧ t.sib = s.sib)) ∧
  (∀ s : State, s.iod.inReset = false → (inSvc s.sia || inSvc s.sib) = true → ∃ t, exec .iodCoreReset s = .next t ∧
    t.iod.inReset = true ∧ t.iod.cause = 1 ∧ t.hpt = { epoch := s.hpt.epoch } ∧ t.tt = { ever := s.tt.ever } ∧ t.mpl = {} ∧
    t.dis.iodRestarts = min 65535 (s.dis.iodRestarts + 1) ∧ t.edgeA = s.edgeA ∧ t.edgeB = s.edgeB ∧
    (∀ n : DieId, (die t n).spup = false ∧ (die t n).inReset = (die s n).inReset ∧ (die t n).inService = (die s n).inService ∧
      (die t n).pool = (die s n).pool))

/-- An island leaves its reset in BOOT, enters it with flash kept and link down, and becomes ACTIVE beside an island in service
and SOLE alone (Table 13-1, R464, R541-R543, R568). -/
def Obligations.IslandsStartAndStop : Prop :=
  (∀ (s : State) (i : Isl) (b : BootFacts), (isl s i).inReset = true → recordOk (isl s i).rom (isl s i) = true →
    recordIdKey (isl s i) i = b.idKey → slotOk (isl s i) 0 (islSlot (isl s i).fw.recB) = true →
    ∃ t, exec (.islandResetRelease i b) s = .next t ∧
      (isl t i).inReset = false ∧ (isl t i).st = 1 ∧ (isl t i).recok = true ∧ (isl t i).boots = true ∧
      (isl t i).mgtm = (if (isl s i).padLow then b.mgtm else (isl s i).mgtm) ∧ (isl t i).fw.slotB = (isl s i).fw.recB ∧ (isl t i).flash = (isl s i).flash ∧
      isl t (otherIsl i) = isl s (otherIsl i) ∧ t.dies = s.dies ∧ t.hpt = s.hpt) ∧
  (∀ (s : State) (i : Isl), (isl s i).inReset = false → ∃ t, exec (.islandResetAssert i) s = .next t ∧
      (isl t i).inReset = true ∧ (isl t i).st = 0 ∧ (isl t i).linkUp = false ∧ (isl t i).flog = [] ∧
      (isl t i).flash = (isl s i).flash ∧ (mgt t i).wait = [] ∧ (mgt t i).requester = none ∧
      (∀ n : DieId, (die t n).hbm = (die s n).hbm ∧ (die t n).inService = (die s n).inService) ∧
      (inSvc (isl s (otherIsl i)) = true → (isl t (otherIsl i)).st = 3)) ∧
  (∀ (s : State) (i : Isl), (isl s i).inReset = false → (isl s i).boots = true → (isl s i).st = 1 →
    ∃ t, exec (.islandActive i) s = .next t ∧ (isl t i).st = (if inSvc (isl s (otherIsl i)) then 2 else 3) ∧
      isl t (otherIsl i) = isl s (otherIsl i) ∧ t.dies = s.dies ∧ t.stg = s.stg)

/-- The dies' part of the start-up order: a pair leaves reset and its controllers train, a stack is trained and zeroed, links
come up, a ready die enters service, and a die that returns later is ready for re-admission only (Table 16-4, R486). The host
port opens once every die is ready or out of service: HPT_STAT.ready and HPT_ALERT.ready, a new epoch, counters of alive values
and replies at 0 (R105); after a restart the stage count goes on from a replica, and the timetable of the island's record is
active again where it stands in a stack (R84). An island whose record fails its check is FAILED (R465). -/
def Obligations.DiesStartAndPortOpens : Prop :=
  (∀ (s : State) (i : Fin 6) (n : DieId), s.iod.inReset = false → (n.val = i.val ∨ n.val = i.val + 6) →
    (die s n).inReset = true → dieHeld s n = false → ∃ t, exec (.computePairRelease i) s = .next t ∧
      (die t n).inReset = false ∧ (mct t n).st = 1 ∧ (die t n).inService = (die s n).inService ∧ t.engines = s.engines ∧
      t.iod = s.iod) ∧
  (∀ (s : State) (n : DieId), (die s n).inReset = false → (mct s n).st = 1 → ∃ t, exec (.mctTrainingEnd n) s = .next t ∧
      (mct t n).st = 2 ∧ (die t n).hbm = {} ∧ (∀ a k, memRd (die t n).hbm a k = List.replicate k 0) ∧
      (mct t n).writes = [] ∧ (mct t n).map = (mct s n).map ∧ (∀ m : DieId, m ≠ n → die t m = die s m) ∧ t.engines = s.engines) ∧
  (∀ (s : State) (n : DieId), (die s n).inReset = false → s.iod.inReset = false →
    ∃ t, exec (.linkTrained (.spine n)) s = .next t ∧ (die t n).spup = true ∧ (die t n).spdown = (die s n).spdown ∧
      (die t n).hbm = (die s n).hbm ∧ t.iod.retrain = s.iod.retrain.filter (fun x => !(x == .spine n))) ∧
  (∀ (s : State) (n : DieId), (die s n).inReset = false → (die s (succDie n)).inReset = false → (die s n).scfailed = false →
    ∃ t, exec (.linkTrained (.coupling n)) s = .next t ∧ (die t n).scup = true ∧ (die t (succDie n)).pcup = true) ∧
  (∀ (s : State) (n : DieId), (die s n).inReset = false → (die s n).inService = false → (die s n).readyRe = false →
    (die s n).missed = false → (die s n).excluded = false → s.iod.inReset = false → (mct s n).st = 2 → (die s n).spup = true →
    linkSettled s (.coupling n) = true → linkSettled s (.coupling (predDie n)) = true → s.iod.ready = false → s.iod.cause = 0 → ∃ t, exec (.dieReady n true) s = .next t ∧ (die t n).inService = !(die s n).retired ∧
      (die t n).hbm = (die s n).hbm ∧ t.stg = s.stg ∧ t.hpt = s.hpt) ∧
  (∀ (s : State) (n : DieId), (die s n).inReset = false → (die s n).inService = false → (die s n).readyRe = false →
    (die s n).missed = false → (die s n).excluded = false → s.iod.inReset = false → (mct s n).st = 2 → (die s n).spup = true →
    linkSettled s (.coupling n) = true → linkSettled s (.coupling (predDie n)) = true → s.iod.ready = true → ∃ t, exec (.dieReady n true) s = .next t ∧ (die t n).inService = false ∧ (die t n).readyRe = true) ∧
  (∀ s : State, s.iod.inReset = false → s.iod.ready = false → s.iod.cause = 0 →
    (∀ n ∈ dieList, ((die s n).inService || (die s n).missed || (die s n).retired || dieHeld s n) = true) → ∃ t, exec .portReady s = .next t ∧
      t.iod.ready = true ∧ t.hpt.ready = true ∧ t.hpt.aReady = true ∧ t.hpt.epoch = s.hpt.epoch + 1 ∧ t.hpt.alive = [] ∧
      t.hpt.replies = 0 ∧ t.mpl.st = 1 ∧ t.dies = s.dies ∧ t.stg = s.stg) ∧
  (∀ (s : State) (i : Isl), s.iod.inReset = false → s.iod.ready = false → s.iod.cause ≠ 0 → loadIsl s = some i →
    (∀ j, (isl s j).ttSaved = none) → ∃ t, exec .iodCoreReady s = .next t ∧ t.iod.ready = true ∧ t.hpt.ready = true ∧
      t.hpt.epoch = s.hpt.epoch + 1 ∧ t.stg.stage = (isl s i).rep.stage ∧ t.tt.active = s.tt.active ∧ t.dies = s.dies) ∧
  (∀ (s : State) (i : Isl) (x : Timetable), s.iod.inReset = false → s.iod.ready = false → s.iod.cause ≠ 0 → loadIsl s = some i →
    (isl s i).ttSaved ≠ none → reactivated { s with stg := stgFrom (isl s i) } (isl s i) = some x →
    ∃ t, exec .iodCoreReady s = .next t ∧ t.iod.ready = true ∧ t.hpt.ready = true ∧ t.tt.active = some x ∧
      t.stg.stage = (isl s i).rep.stage) ∧
  (∀ (s : State) (i : Isl), s.iod.inReset = false → s.iod.ready = false → s.iod.cause ≠ 0 → loadIsl s = some i →
    (isl s i).ttSaved ≠ none → ∃ t, exec (.iodCoreReady true) s = .next t ∧ (isl t i).st = 4 ∧ (isl t i).hrerr = true ∧
      t.iod = s.iod ∧ t.tt = s.tt ∧ t.dies = s.dies)

/-! The host port (03). -/

/-- HT_PUT of a packet that fits enters the inbound buffer; one that does not sets ovf and HPT_ALERT.ovf; a length outside the
range of the code and HT_INVALID set badtx: a command phase of four bytes (code, complement, length low and high) calls for a
transaction only with a code of Table 3-2, its complement and a length in its range (R93, R94, R99-R101). HT_GET hands out whole
replies from the head of the reply FIFO padded with zeros, which HT_REGET hands out again; HT_STAT drives the four status words;
HT_CLR clears the bits of HPT_ALERT that are written 1 (R102, R104, Table 3-7). -/
def Obligations.HostTransactions : Prop :=
  (∀ (s : State) (len : Nat) (bytes : List Byte), 5 ≤ len → len ≤ 16384 → bytes.length = 4 * len → s.hpt.ready = true →
    len ≤ inFree s.hpt →
    exec (.htPut len bytes) s = .next (intake { s with hpt := { s.hpt with inbound := s.hpt.inbound ++ [bytes] } })) ∧
  (∀ (s : State) (len : Nat) (bytes : List Byte), 5 ≤ len → len ≤ 16384 → (s.hpt.ready = false ∨ inFree s.hpt < len) →
    ∃ t, exec (.htPut len bytes) s = .next t ∧ t.hpt = { s.hpt with ovf := true, aOvf := true }) ∧
  (∀ (s : State) (len : Nat) (bytes : List Byte), (len < 5 ∨ 16384 < len) →
    exec (.htPut len bytes) s = .next { s with hpt := { s.hpt with badtx := true } }) ∧
  (∀ (s : State) (code second lo hi : Byte), (second ≠ ~~~code ∨ ∀ a b, txRange code = some (a, b) →
      leNat [lo, hi] < a ∨ b < leNat [lo, hi]) →
    exec (.htInvalid code second lo hi) s = .next { s with hpt := { s.hpt with badtx := true } }) ∧
  (∀ (s : State) (len : Nat) (r : List Word) (rest : List (List Word)), 1 ≤ len → len ≤ 16384 → s.hpt.fifo = r :: rest →
    fitting len s.hpt.fifo = [r] → s.hpt.inbound = [] → ∃ t, exec (.htGet len len) s = .next t ∧
      t.out = .dq (wordsBytes (r ++ List.replicate (len - r.length) 0)) :: s.out ∧
      t.hpt = { s.hpt with fifo := rest, lastRead := [r], short := s.hpt.short || decide (len < r.length) } ∧
      t.stg = s.stg ∧ t.dies = s.dies) ∧
  (∀ (s : State) (len : Nat) (r : List Word), 1 ≤ len → len ≤ 16384 → s.hpt.lastRead = [r] → r.length ≤ len →
    exec (.htReget len len) s = .next { s with out := .dq (wordsBytes (r ++ List.replicate (len - r.length) 0)) :: s.out }) ∧
  (∀ s : State, exec .htStat s = .next { s with
    out := .dq (wordsBytes [hptStat s.hpt, toW (inFree s.hpt), hptRpend s.hpt, toW (hptAlert s.hpt)]) :: s.out }) ∧
  (∀ (s : State) (a b c d : Byte), ∃ t, exec (.htClr [a, b, c, d]) s = .next t ∧
    t.hpt.aThm = (s.hpt.aThm && !a.getLsbD 7) ∧ t.hpt.aFback = (s.hpt.aFback && !a.getLsbD 6) ∧
    t.hpt.aFault = (s.hpt.aFault && !a.getLsbD 5) ∧ t.hpt.aTtv = (s.hpt.aTtv && !a.getLsbD 4) ∧
    t.hpt.aOvf = (s.hpt.aOvf && !a.getLsbD 3) ∧ t.hpt.aReady = (s.hpt.aReady && !a.getLsbD 0) ∧
    t.hpt.fifo = s.hpt.fifo ∧ t.stg = s.stg)

/-- A host packet whose check word fails, or whose alive value is not its context's, is refused and changes no alive counter; a
good one waits for execution and moves its context's counter on by one (R112-R115). A packet that waits alone is accepted where
steps 5-12 let it pass, and refused where one of steps 5-9 does not (Table 3-10). Every message the device forms with a check
word passes the check of R110, and its words come back from its bytes. -/
def Obligations.HostPacketChecks : Prop :=
  (∀ (s : State) (bs : List Byte), bs.length % 4 = 0 → 5 ≤ (bytesWords bs).length → (bytesWords bs).length ≤ 16384 →
    sealOk (bytesWords bs) = false → (arrive s .host bs).hpt.alive = s.hpt.alive ∧
      (arrive s .host bs).hpt.badchk = min 65535 (s.hpt.badchk + 1) ∧
      (s.hpt.wait = [] → (arrive s .host bs).hpt.wait = [] ∧ (arrive s .host bs).hpt.fifo.length = s.hpt.fifo.length + 1)) ∧
  (∀ (s : State) (p : Pkt), p.port = .host → p.fate = .arrived → 5 ≤ p.words.length → p.words.length ≤ 16384 →
    sealOk p.words = true → pktLen p + 5 = p.words.length → isAliveSync p = false →
    ((bankGet 0 s.hpt.alive (pktCtx p)).toNat = pktAlive p →
      (arrive s .host (wordsBytes p.words)).hpt.wait = s.hpt.wait ++ [p] ∧
      bankGet 0 (arrive s .host (wordsBytes p.words)).hpt.alive (pktCtx p) = bankGet 0 s.hpt.alive (pktCtx p) + 1 ∧
      ∀ c, c ≠ pktCtx p → bankGet 0 (arrive s .host (wordsBytes p.words)).hpt.alive c = bankGet 0 s.hpt.alive c) ∧
    ((bankGet 0 s.hpt.alive (pktCtx p)).toNat ≠ pktAlive p →
      (arrive s .host (wordsBytes p.words)).hpt.alive = s.hpt.alive ∧
      (arrive s .host (wordsBytes p.words)).hpt.stale = min 65535 (s.hpt.stale + 1) ∧
      (s.hpt.wait = [] → (arrive s .host (wordsBytes p.words)).hpt.wait = []))) ∧
  (∀ (s : State) (p : Port) (k : Pkt) (o : OpDef), Alone s p k → rowOf k = some o →
    (∀ r, gate s o k = some r → checkAll rowOf s p = refused p k r.1 r.2.1 r.2.2 (setWaiting s p [])) ∧
    (gate s o k = none → (∀ st step idx, o.run s k ≠ .refuse st step idx) →
      (∀ st step idx t, o.run s k ≠ .refuseIn st step idx t) →
      checkAll rowOf s p = setWaiting s p [{ k with fate := .accepted }])) ∧
  (∀ ws : List Word, sealOk (sealW ws) = true) ∧ (∀ ws : List Word, bytesWords (wordsBytes ws) = ws) ∧
  (∀ ws : List Word, ∀ n k : Nat, join64 (lo32 n) (hi32 n) = n % 2 ^ 64 ∧ nth (ws ++ two k) ws.length = lo32 k)

/-! System opcodes (Table 3-14). -/

/-- SYS_IDENTITY, SYS_ECHO, SYS_ALIVE_SYNC and SYS_ALERT_EN carried out, and an undefined opcode refused at step 5. -/
def Obligations.SystemOpcodes : Prop :=
  (∀ (s : State) (p : Port) (k : Pkt), Ready s p 0 0 0 k → exec (.sysIdentity p) s = .next (answered p k stOk
    (([0x00021296, 0x00020142] : List Word) ++ two (match p with | .host => s.iod.serial | .mgt i => recordSerial (isl s i)) ++
      [s.iod.verIod, s.iod.verSia, s.iod.verSib, unitsWord s]) (took s p k))) ∧
  (∀ (s : State) (p : Port) (k : Pkt), Ready s p 0 1 (parN k 0 + 1) k → (p = .host ∨ parN k 0 ≤ 370) →
    exec (.sysEcho p) s = .next (if parN k 0 = 0 then answered p k stOkEmpty [] (took s p k)
      else answered p k stOk (parsFrom k 1) (took s p k))) ∧
  (∀ (s : State) (k : Pkt), Ready s .host 0 2 1 k → fld (par k 0) 31 14 = 0 →
    exec (.sysAliveSync .host) s = .next (answered .host k stOk [toW (bankGet 0 s.hpt.alive (fld (par k 0) 13 8)).toNat]
      { took s .host k with hpt := { (took s .host k).hpt with
        alive := bankSet 0 s.hpt.alive (fld (par k 0) 13 8) (BitVec.ofNat 8 (fld (par k 0) 7 0)) } })) ∧
  (∀ (s : State) (i : Isl) (k : Pkt), Ready s (.mgt i) 0 2 1 k → fld (par k 0) 31 8 = 0 →
    exec (.sysAliveSync (.mgt i)) s = .next (answered (.mgt i) k stOk [toW (mgt s i).alive.toNat]
      (modMgt (took s (.mgt i) k) i (fun m => { m with alive := BitVec.ofNat 8 (fld (par k 0) 7 0) })))) ∧
  (∀ (s : State) (k : Pkt), Ready s .host 0 3 1 k → fld (par k 0) 31 8 = 0 →
    exec (.sysAlertEn .host) s = .next (answered .host k stOk [] (setHpt (took s .host k)
      { (took s .host k).hpt with alertEn := BitVec.ofNat 8 (parN k 0) &&& 0xFB }))) ∧
  (∀ (s : State) (p : Port) (k : Pkt), Alone s p k → definedOp (pktCls k) (pktOp k) = false →
    exec (.undefinedOpcode p) s = .next (refused p k stBadOpcode 5 0 (setWaiting s p [])))

/-! Stages and timetables (02). -/

/-- The staging of a timetable: TT_OPEN starts loading, TT_VERIFY hands over to verification, TT_VERIFY_END records the result
and raises HPT_ALERT.ttv, TT_ARM names the stage of a verified one, TT_CANCEL goes back one state, TT_STATUS reports it (Tables
2-4, 2-5, R77, R87, R88). -/
def Obligations.TimetableStaging : Prop :=
  (∀ (s : State) (k : Pkt) (n : DieId) (base size : Nat), Ready s .host 1 2 3 k → parN k 2 ≠ 0 → s.tt.st ≠ .armed →
    s.tt.st ≠ .verifying → loadPlace s = some (n, base, size) → parN k 2 ≤ size →
    exec (.ttOpen .host) s = .next (answered .host k stOk [] (setTt (took s .host k) (fun t => { t with
      st := .loading, verErr := 0, ident := par64 k 0, len := parN k 2, staged := none, target := 0, ticksLeft := none })))) ∧
  (∀ (s : State) (k : Pkt), Ready s .host 1 4 0 k → s.tt.st = .loading →
    exec (.ttVerify .host) s = .next (answered .host k stOk [] (setTt (took s .host k) (fun t => { t with st := .verifying })))) ∧
  (∀ (s : State) (c : TtContents) (copyFault : Bool) (n : DieId) (base size : Nat) (img : List Byte), s.tt.st = .verifying →
    loadPlace s = some (n, base, size) → (hbmGet s n .spine 0x01 base s.tt.len).1 = some img →
    ∃ t, exec (.ttVerifyEnd c copyFault) s = .next t ∧ t.hpt.aTtv = true ∧ t.tt.verErr = verifyError s img c copyFault ∧
      t.tt.st = (if verifyError s img c copyFault = 0 then .verified else .loading) ∧ t.tt.active = s.tt.active ∧
      t.stg = s.stg) ∧
  (∀ (s : State) (k : Pkt), Ready s .host 1 5 2 k → s.tt.st = .verified →
    (if s.tt.ever then s.stg.stage + 2 ≤ par64 k 0 else 2 ≤ par64 k 0 ∧ s.stg.sync = true) →
    exec (.ttArm .host) s = .next (answered .host k stOk [] (setTt (took s .host k) (fun x => { x with
      st := .armed, target := par64 k 0, ticksLeft := if s.tt.ever then none else some (par64 k 0) })))) ∧
  (∀ (s : State) (k : Pkt), Ready s .host 1 6 0 k → s.tt.st = .verified →
    exec (.ttCancel .host) s = .next (answered .host k stOk [] (setTt (took s .host k) (fun t => { t with
      st := .empty, verErr := 0, ident := 0, len := 0, target := 0, staged := none })))) ∧
  (∀ (s : State) (k : Pkt), Ready s .host 1 7 0 k → exec (.ttStatus .host) s = .next (answered .host k stOk
    ([toW (ttCode s.tt.st), toW s.tt.verErr] ++ two s.tt.ident ++ two s.tt.target) (took s .host k)))

/-- STG_GET reports the stage timer, STG_SET shadows a timing that R48-R50 and R72 allow, TT_WRITE stores bytes of the image in
the staging region, PROFILE_SET notes a profile that PROFILE_APPLY loads at its tick (Table 2-5, R11, R68, R90). -/
def Obligations.StageOpcodes : Prop :=
  (∀ (s : State) (k : Pkt), Ready s .host 1 0 0 k → exec (.stgGet .host) s = .next (answered .host k stOk
    (two s.stg.stage ++ two s.stg.tick ++ [s.stg.timing, stgStat s.stg] ++ two (activeIdent s) ++ [stgProfile s.stg])
    (took s .host k))) ∧
  (∀ (s : State) (k : Pkt), Ready s .host 1 1 1 k → timingAdmitted s (par k 0 &&& 0x003FFFFF) = true →
    exec (.stgSet .host) s = .next (answered .host k stOk []
      (setStg (took s .host k) (fun g => { g with timingSh := par k 0 &&& 0x003FFFFF })))) ∧
  (∀ (s u : State) (k : Pkt) (n : DieId) (base size : Nat), Ready s .host 1 3 (2 + cdiv (parN k 1) 4) k → parN k 0 % 4 = 0 →
    1 ≤ parN k 1 → parN k 1 ≤ 65508 → s.tt.st = .loading → parN k 0 + parN k 1 ≤ s.tt.len →
    loadPlace s = some (n, base, size) →
    hbmPut (took s .host k) n 0x01 (base + parN k 0) ((wordsBytes (parsFrom k 2)).take (parN k 1)) = (none, u) →
    exec (.ttWrite .host) s = .next (answered .host k stOk [] u)) ∧
  (∀ (s : State) (k : Pkt), Ready s .host 1 8 3 k → parN k 0 ≤ 1 → s.stg.stage + 2 ≤ par64 k 1 →
    (parN k 0 = 1 ∨ twoLost s = false) → exec (.profileSet .host) s = .next (answered .host k stOk []
      (setStg (took s .host k) (fun g => { g with pendProf := some (decide (parN k 0 = 1), par64 k 1) })))) ∧
  (∀ (s : State) (lean : Bool) (target : Nat), s.stg.pendProf = some (lean, target) → target ≤ nextStage s →
    exec .profileApply s = .next (setStg s (fun g =>
      if twoLost s then { g with pendProf := none, badcfg := true }
      else { g with pendProf := none, lean := lean, leanSh := lean })))

/-- A timing is admitted only within R48-R50, where P and L are counted in half milliseconds and C in tens of microseconds;
reset leaves P 25 ms, L 3 ms and C 100 µs. -/
def Obligations.AdmittedTimingInRange : Prop :=
  (∀ (s : State) (w : Word), timingAdmitted s w = true →
    20 ≤ timP w ∧ timP w ≤ 200 ∧ 2 ≤ timL w ∧ timL w ≤ 20 ∧ 2 * timL w ≤ timP w ∧ 5 ≤ timC w ∧ timC w ≤ 50 ∧
    20 * timC w ≤ 500 * timL w) ∧
  timP State.reset.stg.timing = 50 ∧ timL State.reset.stg.timing = 6 ∧ timC State.reset.stg.timing = 10

/-- The stage boundary: a tick opens the stage that comes and pushes it to the replicas, an armed timetable becomes the active
one, a replica takes over what was pushed, a layover starts once (R43, R46, R47, R60, R77). 802.1AS (R67, R607): the stage clock
holds over without synchronisation and takes the saturated offset with it; ring edge B takes over from A and gives back. -/
def Obligations.StageBoundary : Prop :=
  (∀ (s : State) (now : Nat), tickDue s now = true → ∃ t, exec (.stageTick now) s = .next t ∧ t.stg.stage = nextStage s ∧
    t.stg.tick = now ∧ t.stg.inlay = false ∧ t.stg.cutoffPast = false ∧
    ∃ p l c o, t.out = .replica p l c (nextStage s) :: o) ∧
  (∀ (s : State) (x : Timetable), iodReady s = true → switchDue s = true → s.tt.staged = some x →
    ∃ t, exec .ttSwitch s = .next t ∧ t.tt = { active := some x, ever := true } ∧ t.stg = s.stg ∧
      (∀ d ∈ x.body.contexts, (∀ d' ∈ x.body.contexts, d'.id = d.id → d' = d) → ctxExists t d.id = true)) ∧
  (∀ (s : State) (e : Edge) (now : Nat), (edge s e).inReset = false → ∃ t, exec (.replicaTick (.edge e) now) s = .next t ∧
    (edge t e).rep = (match (edge s e).push with
      | some r => r
      | none => { (edge s e).rep with stage := if (edge s e).rep.stage = 0 then 0 else (edge s e).rep.stage + 1 }) ∧
    (edge t e).push = none ∧ (edge t e).cutoff = false ∧ (edge t e).relA = none ∧ (edge t e).relB = none ∧
    edge t (otherEdge e) = edge s (otherEdge e) ∧ t.stg = s.stg) ∧
  (∀ (s : State) (i : Isl) (now : Nat), (isl s i).inReset = false → ∃ t, exec (.replicaTick (.island i) now) s = .next t ∧
    (isl t i).rep = (match (isl s i).push with
      | some r => r
      | none => { (isl s i).rep with stage := if (isl s i).rep.stage = 0 then 0 else (isl s i).rep.stage + 1 }) ∧
    (isl t i).report = none ∧ (isl t i).cutoff = false ∧ (iodReady s = true → isl t (otherIsl i) = isl s (otherIsl i)) ∧
    t.stg = s.stg) ∧
  (∀ s : State, iodReady s = true → s.stg.inlay = false → ∃ t, exec .layoverStart s = .next t ∧ t.stg.inlay = true ∧
    t.mpl.gateOpen = true ∧ t.stg.stage = s.stg.stage) ∧
  (∀ s : State, s.iod.inReset = false → ∃ t, exec .asSyncLost s = .next t ∧ t.stg = { s.stg with sync := false, hold := true } ∧
    (∀ e, edge t e = { edge s e with sync := false }) ∧ t.dies = s.dies) ∧
  (∀ (s : State) (off : Int), s.iod.inReset = false → ∃ t, exec (.asSyncRegained off) s = .next t ∧
    t.stg.sync = true ∧ t.stg.hold = false ∧ -2147483647 ≤ t.stg.offset ∧ t.stg.offset ≤ 2147483647 ∧
    (-2147483647 ≤ off → off ≤ 2147483647 → t.stg.offset = off) ∧ t.stg.stage = s.stg.stage ∧
    (edge t s.stg.asPort).sync = true) ∧
  (∀ s : State, ∃ t, exec .asPortFailover s = .next t ∧ t.stg = { s.stg with asPort := .b } ∧ t.edgeA = { s.edgeA with sync := false } ∧
    t.edgeB = s.edgeB) ∧
  (∀ s : State, ∃ t, exec .asPortReturn s = .next t ∧ t.stg = { s.stg with asPort := .a } ∧ t.edgeA = { s.edgeA with sync := true } ∧
    t.edgeB = s.edgeB)

/-! The layover's moves, waybills, queues (02, 10). -/

/-- OUTPUT_CUTOFF: each edge out of reset takes its release set once (R481), and what arrived stays, but for the releases while
a re-execution set is open (R57). RELAY_MOVE_DUE and RELAY_MOVE_END: a move falls due at the interval; at its end the regions'
bytes are held for the ring successors, where they stand from the tick on (R390-R392). READMIT_MOVE_END lets the die return at
the next tick (R511). REEXEC_SET_END: the outputs of a completed set count again (R56). -/
def Obligations.CutoffAndMoves : Prop :=
  (∀ (s : State) (e : Edge), (edge s e).inReset = false → (edge s e).cutoff = false → ∃ t, exec .outputCutoff s = .next t ∧
    edge t e = { edge s e with
      cutoff := true, setA := inSet s e .sia, setB := inSet s e .sib, reason := stageReason s
      relA := if missedSets s then none else (edge s e).relA, relB := if missedSets s then none else (edge s e).relB } ∧
    t.stg.stage = s.stg.stage ∧ t.tt = s.tt ∧ t.dies = s.dies) ∧
  (∀ s : State, s.tt.active.isSome = true → s.qmg.interval ≤ s.qmg.count →
    exec .relayMoveDue s = .next { s with qmg := { s.qmg with moveDue := true } }) ∧
  (∀ (s : State) (p : Placement), s.qmg.moveRun = true → placement s = some p →
    ∃ t, exec .relayMoveEnd s = .next t ∧ t.qmg = { s.qmg with moveRun := false, moveDone := true, moved := t.qmg.moved } ∧
      t.qmg.moved.map (fun m => (m.1, m.2.1, m.2.2.length)) = p.regions.map (fun r => ((succDie r.die).val, r.base, r.len)) ∧
      (∀ n : DieId, (die t n).hbm = (die s n).hbm) ∧ t.engines = s.engines ∧ t.stg = s.stg) ∧
  (∀ (s : State) (p : Placement), s.qmg.moveRun = true → placement s = some p →
    (∀ r ∈ p.regions, (mct s r.die).flaws = [] ∧ (mct s r.die).debt = [] ∧ (mct s r.die).writes = [] ∧ (mct s r.die).compat = false) →
    exec .relayMoveEnd s = .next { s with qmg := { s.qmg with
      moveRun := false, moveDone := true
      moved := p.regions.map (fun r => ((succDie r.die).val, r.base, memRd (die s r.die).hbm r.base r.len)) } }) ∧
  (∀ (s : State) (n : DieId) (b : Nat) (bs : List Byte), s.qmg.moved = [(n.val, b, bs)] → (mct s n).flaws = [] →
    memRd (die (placeMoved s) n).hbm b bs.length = bs ∧ (placeMoved s).qmg = { s.qmg with moved := [] } ∧
    ∀ m : DieId, m ≠ n → die (placeMoved s) m = die s m) ∧
  (∀ (s : State) (n : DieId), (n, false) ∈ s.qmg.readmit → ∃ t, exec (.readmitMoveEnd n) s = .next t ∧ (n, true) ∈ t.qmg.readmit ∧
    t.stg = s.stg ∧ t.tt = s.tt ∧ ∀ m : DieId, m ≠ n → (die t m).hbm = (die s m).hbm ∧ (die t m).inService = (die s m).inService) ∧
  (∀ (s : State) (r : Reexec) (g : EngId) (w : Waybill) (e : WbEntry), s.dis.reexec = [r] → r.eng = some g → r.left = [] →
    againLeft s r = false → workOf s r.work = some (w, e) →
    ∃ t, exec (.reexecSetEnd e.cmd) s = .next t ∧ t.dis.reexec = [] ∧ t.stg = s.stg ∧
      t.dis.badWork = s.dis.badWork.filter (fun c => !r.members.contains c))

/-- WB_SUBMIT keeps a good waybill for its stage and defers its reply; WAYBILL_COMPLETE answers it with its counts once every
descriptor has completed or been discarded; WB_STATUS and Q_QUERY report (R54, R377, Table 10-6). -/
def Obligations.WaybillOpcodes : Prop :=
  (∀ (s : State) (k : Pkt) (t : Timetable), Ready s .host 2 0 (6 + 4 * parN k 5) k → 1 ≤ parN k 5 → parN k 5 ≤ 4093 →
    s.tt.active = some t → s.tt.st ≠ .armed → par64 k 2 = t.figs.ident → s.stg.stage < par64 k 0 →
    par64 k 0 ≤ s.stg.stage + 2 → (∀ d, ctxDecl t (pktCtx k) = some d →
      (∀ i, i < parN k 5 → wbEntryBad s t false (pktCtx k) d.qcount d.livery k i = none ∧
        descsFor t ((List.range (parN k 5)).map (wbEntry k)) (wbEntry k i).queue +
          ((s.dis.waybills.filter (fun w => w.st = .held && w.ctx.val = pktCtx k && w.stage = par64 k 0 && w.forArmed = false)).map
            (fun w => descsFor t w.entries (wbEntry k i).queue)).sum ≤ ringSize s t false (d.qbase + (wbEntry k i).queue)) →
      exec (.wbSubmit .host) s = .next (deferred .host k (.waybill s.dis.nextId) (setDis (took s .host k) (fun x => { x with
        nextId := s.dis.nextId + 1
        waybills := s.dis.waybills ++ [{
          id := s.dis.nextId, ctx := fin (by decide) (pktCtx k), stage := par64 k 0, ident := par64 k 2, batch := par k 4
          entries := (List.range (parN k 5)).map (wbEntry k), prio := pktPrio k, forArmed := false, st := .held
          written := 0, completed := 0, discarded := 0, reexec := 0, bad := false }] }))))) ∧
  (∀ (s : State) (id : Nat) (w : Waybill), s.dis.waybills.find? (fun w => w.id == id && w.st == .running) = some w →
    w.written ≤ w.completed + w.discarded → (unwritten s w = false ∨ s.stg.inlay = true) →
    ∃ t, exec (.waybillComplete id) s = .next t ∧ (∀ x ∈ t.dis.waybills, x.id = id → x.st = .complete) ∧
      drew s t (.waybill id) (if w.bad = true ∨ 0 < w.discarded then stDegraded else stOk)
        ([toW w.completed, toW w.written] ++ two w.stage) ∧ t.qmg = s.qmg ∧ t.stg = s.stg) ∧
  (∀ (s : State) (k : Pkt) (w : Waybill), Ready s .host 2 1 3 k → s.stg.stage ≤ par64 k 0 + 16 →
    (s.dis.waybills.filter (fun w => w.ctx.val = pktCtx k && w.stage = par64 k 0 && w.batch = par k 2)).getLast? = some w →
    exec (.wbStatus .host) s = .next (answered .host k stOk ([toW (wbStateCode w.st), toW w.completed, toW w.written,
      toW w.discarded, toW w.reexec, toW (outputStatus s (par64 k 0)).toNat]) (took s .host k))) ∧
  (∀ (s : State) (k : Pkt), Ready s .host 2 2 2 k → 1 ≤ parN k 1 → parN k 1 ≤ 2040 →
    parN k 0 + parN k 1 ≤ (ctxRec s (pktCtx k)).qcount → ∃ t,
      t = forAll (took s .host k) ((List.range (parN k 1)).map (fun i => (ctxRec s (pktCtx k)).qbase + parN k 0 + i)) syncQueue ∧
      exec (.qQuery .host) s = .next (answered .host k stOk
        (((List.range (parN k 1)).map (fun i => (ctxRec s (pktCtx k)).qbase + parN k 0 + i)).flatMap
          (fun q => queueWords (queue t q))) t) ∧ t.stg = s.stg ∧
      ((∀ n : DieId, (mct s n).writes = []) → t.engines = s.engines))

/-- CTX_PREEMPT, PREEMPT_COMPLETE and CTX_RESUME: a context is pre-empted once its engines stand at their mileposts, its queues
are then held, and a resume lets them go (R382-R384). CTX_REBIND and REBIND_MILEPOST: an accepted re-binding waits for the
engine's milepost; there the engine serves the target queue, and the reply gives the old queue, its counts and the new one
(R385-R387, Table 10-4). -/
def Obligations.PreemptionAndRebinding : Prop :=
  (∀ (s : State) (k : Pkt), Ready s .host 2 3 0 k → pktCtx k ≠ 0 → (ctxRec s (pktCtx k)).pre = false →
    exec (.ctxPreempt .host) s = .next (deferred .host k (.preempt (fin (by decide) (pktCtx k)))
      (modCtx (took s .host k) (fin (by decide) (pktCtx k) : CtxId) (fun r => { r with ppend := true })))) ∧
  (∀ (s : State) (c : CtxId), (ctxRec s c).ppend = true →
    (∀ g ∈ ctxEngines s c, atMilepost (eng s g) = true ∧ pendingRebind s g = false) →
    ∃ t, exec (.preemptComplete c) s = .next t ∧ (ctxRec t c).pre = true ∧ (ctxRec t c).ppend = false ∧
      drew s t (.preempt c) stOk [toW (ctxEngines s c).length] ∧
      (∀ q ∈ ctxQueues s c, (queue s q).st ≠ 0 → (queue t q).held = true ∧
        (s.tt.active = none → queue t q = { queue s q with held := true })) ∧
      ((∀ n : DieId, (mct s n).writes = []) → t.engines = s.engines)) ∧
  (∀ (s : State) (k : Pkt), Ready s .host 2 4 0 k → (ctxRec s (pktCtx k)).pre = true → s.qmg.rebinds = [] →
    ∃ t, exec (.ctxResume .host) s = .next t ∧ (ctxRec t (pktCtx k)).pre = false ∧ replied s t k stOk [] ∧
      (∀ q ∈ ctxQueues s (pktCtx k), (queue s q).st ≠ 0 → (queue t q).held = false ∧
        (s.tt.active = none → queue t q = { queue s q with held := false })) ∧
      ((∀ n : DieId, (mct s n).writes = []) → t.engines = s.engines)) ∧
  (∀ (s : State) (k : Pkt) (q : Nat), Ready s .host 2 5 2 k → fld (par k 0) 31 28 = 0 → fld (par k 0) 26 23 = 0 →
    fld (par k 0) 15 6 = 0 → fld (par k 0) 22 16 ≤ 95 → fld (par k 0) 5 0 ≠ 0 → ctxExists s (fld (par k 0) 5 0) = true →
    servedCtx s (fin (by decide) (fld (par k 0) 22 16)) = some (pktCtx k) → fld (par k 1) 31 16 = 0 →
    globalQueue s (fld (par k 0) 5 0) (fld (par k 1) 15 0) = some q → engInSvc s (fld (par k 0) 22 16) = true →
    leftOut s (fin (by decide) (fld (par k 0) 22 16)) = false → (ctxRec s (fld (par k 0) 5 0)).pre = false →
    s.qmg.rebinds = [] → ∃ t, exec (.ctxRebind .host) s = .next t ∧
      t.qmg = { s.qmg with rebinds := [{
        eng := fin (by decide) (fld (par k 0) 22 16), src := (eng s (fld (par k 0) 22 16)).bqueue, dst := q
        ctx := fin (by decide) (fld (par k 0) 5 0), hold := tbit (par k 0) 27, done := false, atTick := s.stg.inlay }] } ∧
      t.dis.defers = s.dis.defers ++ [{ pkt := k, what := .rebind (fin (by decide) (fld (par k 0) 22 16)) }] ∧
      t.engines = s.engines) ∧
  (∀ (s : State) (g : EngId) (r : Rebind), s.qmg.rebinds.find? (fun r => r.eng == g && !r.done && !r.atTick) = some r →
    atMilepost (eng s g) = true → (eng s g).st ≠ 4 → inReexec s g = false → ∃ t, exec (.rebindMilepost g) s = .next t ∧
      (eng t g).bound = true ∧ (eng t g).bqueue = r.dst ∧ (eng t g).bctx = (queue t r.dst).ctx ∧ (queue t r.dst).eng = g ∧
      (eng t g).rs = {} ∧
      (∀ c, c = queue (syncQueue s (eng s g).bqueue) (eng s g).bqueue →
        drew s t (.rebind g) stOk [toW (eng s g).bqueue, c.head, c.tail, toW r.dst]) ∧
      ((∀ n : DieId, (mct s n).writes = []) → ∀ h : EngId, h ≠ g → eng t h = eng s h))

/-- DOORBELL by an allowed livery moves the tail and notes the stage, or counts as bad; any other livery is refused and reaches
no queue (R372; 10, after R371). TABLE_MIRROR_END: the new die holds the mirror (R396). -/
def Obligations.Doorbells : Prop :=
  (∀ (s : State) (livery : Byte) (tail : Word), (livery = 0x01 ∨ islandLivery livery = true) →
    badBell (queue (syncQueue s (fld s.qmg.dbq 19 0)) (fld s.qmg.dbq 19 0)) tail = false →
    ∃ t, exec (.doorbell livery tail) s = .next t ∧ queue t (fld s.qmg.dbq 19 0) =
      { queue (syncQueue s (fld s.qmg.dbq 19 0)) (fld s.qmg.dbq 19 0) with tail := tail, stage := toW (s.stg.stage % 2 ^ 32) } ∧
      t.stg = s.stg ∧ ((∀ n : DieId, (mct s n).writes = []) → t.engines = s.engines)) ∧
  (∀ (s : State) (livery : Byte) (tail : Word), (livery = 0x01 ∨ islandLivery livery = true) →
    badBell (queue (syncQueue s (fld s.qmg.dbq 19 0)) (fld s.qmg.dbq 19 0)) tail = true →
    ∃ t, exec (.doorbell livery tail) s = .next t ∧ t.qmg.dberr = true ∧
      t.qmg.queues = (syncQueue s (fld s.qmg.dbq 19 0)).qmg.queues) ∧
  (∀ (s : State) (livery : Byte) (tail : Word), livery ≠ 0x01 → islandLivery livery = false →
    ∃ t, exec (.doorbell livery tail) s = .next t ∧ t.qmg = s.qmg ∧ t.engines = s.engines ∧ t.dies = s.dies ∧
      (∃ o, t.out = .fabric livery stFirewall [] :: o)) ∧
  (∀ (s : State) (n : Nat), s.qmg.mirrorNew = some n → ∃ t, exec .tableMirrorEnd s = .next t ∧
    t.qmg = { s.qmg with mirror := n, mirrorNew := none, mirrorRun := false } ∧ t.stg = s.stg ∧
    ((∀ k : DieId, (mct s k).writes = []) → t.engines = s.engines))

/-! Synchronisation (11). -/

/-- SYN_INIT makes a record, SYN_SIGNAL adds and saturates at the limit, each answering with the value, SYN_QUERY reports (R405,
Table 11-2). Waiters are served from the head on while the value suffices: what is left is the value less what the released
waiters took, the waiters released are the first ones, and the next does not find enough (R407, R408). -/
def Obligations.SynchronisationValues : Prop :=
  (∀ (s : State) (k : Pkt) (n : Nat), Ready s .host 3 0 3 k → pktObj s k 0xFF0E0000 = some n → fld (par k 0) 23 20 ≠ 13 →
    fld (par k 0) 23 20 ≠ 14 → (fld (par k 0) 23 20 < 12 → dieInSvc s (fld (par k 0) 23 20) = true) → parN k 1 ≤ parN k 2 →
    1 ≤ parN k 2 → parN k 2 ≤ 0xFFFFFF → (tbit (par k 0) 16 = true → parN k 2 = 1) → (obj s n).waiters = [] →
    ∃ t, exec (.synInit .host) s = .next t ∧ replied s t k stOk [objWord0 (obj s n)] ∧ obj t n = {
      st := 1, binary := tbit (par k 0) 16, held := (ctxRec s (pktCtx k)).pre, owner := fld (par k 0) 23 20, value := parN k 1
      limit := parN k 2, named := true } ∧ ∀ m, m ≠ n → obj t m = obj s m) ∧
  (∀ (s : State) (k : Pkt) (n : Nat), Ready s .host 3 1 2 k → isDecrement k = false → pktObj s k 0x7FFF0000 = some n →
    1 ≤ parN k 1 → parN k 1 ≤ 0xFFFFFF → (obj s n).st = 1 → (obj s n).waiters = [] →
    ∃ t, exec (.synSignal .host) s = .next t ∧ obj t n = { obj s n with
        value := min ((obj s n).value + parN k 1) (obj s n).limit
        sat := (obj s n).sat || decide ((obj s n).limit < (obj s n).value + parN k 1) } ∧
      replied s t k (if (obj s n).limit < (obj s n).value + parN k 1 then stSaturated else stOk) [toW (obj t n).value] ∧
      ∀ m, m ≠ n → obj t m = obj s m) ∧
  (∀ (s : State) (k : Pkt), Ready s .host 3 3 2 k → 1 ≤ parN k 1 → parN k 1 ≤ 4094 →
    parN k 0 + parN k 1 ≤ synSize s (pktCtx k) → exec (.synQuery .host) s = .next (answered .host k stOk
      ((List.range (parN k 1)).flatMap (fun i => objWords (obj s (synBase s (pktCtx k) + parN k 0 + i)))) (took s .host k))) ∧
  (∀ (v : Nat) (ws : List Waiter),
    ((satisfied v ws).map (fun e => waiterN e.1)).sum + ((satisfied v ws).getLast?.map (·.2)).getD v = v ∧
    (satisfied v ws).map (·.1) = ws.take (satisfied v ws).length ∧
    ∀ w, (ws.drop (satisfied v ws).length).head? = some w → ((satisfied v ws).getLast?.map (·.2)).getD v < waiterN w)

/-- SYN_SIGNAL with bit 31: a decrement subtracts, stops at 0 with under and ST_UNDERFLOW, never waits, and touches no other
object (R406). -/
def Obligations.Decrements : Prop :=
  ∀ (s : State) (k : Pkt) (n : Nat), Ready s .host 3 1 2 k → isDecrement k = true → pktObj s k 0x7FFF0000 = some n →
    1 ≤ parN k 1 → parN k 1 ≤ 0xFFFFFF → (obj s n).st = 1 →
    ∃ t, exec (.synDecrement .host) s = .next t ∧ obj t n = { obj s n with
        value := (obj s n).value - parN k 1, under := (obj s n).under || decide ((obj s n).value < parN k 1) } ∧
      replied s t k (if (obj s n).value < parN k 1 then stUnderflow else stOk) [toW (obj t n).value] ∧
      ∀ m, m ≠ n → obj t m = obj s m

/-- SYN_WAIT is answered at once where the value suffices and nobody waits, and queues otherwise; its time-out, where it has
one, removes it with ST_NOT_READY; a descriptor's signal counts 1, and is dropped with an entry where the object is not ACTIVE
(R407-R412, R423). -/
def Obligations.Waits : Prop :=
  (∀ (s : State) (k : Pkt) (n : Nat), Ready s .host 3 2 3 k → pktObj s k 0xFFFF0000 = some n → 1 ≤ parN k 1 →
    parN k 1 ≤ 0xFFFFFF → (obj s n).st = 1 → parN k 1 ≤ (obj s n).limit → (obj s n).waiters = [] →
    parN k 1 ≤ (obj s n).value → ∃ t, exec (.synWait .host) s = .next t ∧
      replied s t k stOk [toW ((obj s n).value - parN k 1)] ∧
      obj t n = { obj s n with value := (obj s n).value - parN k 1 } ∧ t.dis = s.dis) ∧
  (∀ (s : State) (k : Pkt) (n : Nat), Ready s .host 3 2 3 k → pktObj s k 0xFFFF0000 = some n → 1 ≤ parN k 1 →
    parN k 1 ≤ 0xFFFFFF → (obj s n).st = 1 → parN k 1 ≤ (obj s n).limit → (obj s n).value < parN k 1 → hostWaits s < 4096 →
    ∃ t, exec (.synWait .host) s = .next t ∧
      obj t n = { obj s n with waiters := (obj s n).waiters ++ [.host s.syn.nextId (parN k 1) (parN k 2)] } ∧
      t.dis.defers = s.dis.defers ++ [{ pkt := k, what := .synWait s.syn.nextId }]) ∧
  (∀ (s : State) (n id c timeout : Nat) (o : SynObj), s.syn.objs = [(n, o)] → o.waiters = [.host id c timeout] → timeout ≠ 0 →
    ∃ t, exec (.synWaitTimeout id) s = .next t ∧ obj t n = { o with waiters := [] } ∧
      drew s t (.synWait id) stNotReady [execDetail]) ∧
  (∀ (s : State) (g : EngId) (c v n : Nat) (r : List (Nat × Nat)), (eng s g).sigs = (c, v) :: r → physObj s c v = some n →
    (obj s n).st = 1 → (obj s n).waiters = [] → ∃ t, exec (.descriptorSignal g) s = .next t ∧ (eng t g).sigs = r ∧
      (obj t n).value = min ((obj s n).value + 1) (obj s n).limit ∧ t.qmg = s.qmg) ∧
  (∀ (s : State) (g : EngId) (c v n : Nat) (r : List (Nat × Nat)), (eng s g).sigs = (c, v) :: r → physObj s c v = some n →
    (obj s n).st ≠ 1 → ∃ t, exec (.descriptorSignal g) s = .next t ∧ (eng t g).sigs = r ∧ t.syn.badsig = true ∧
      t.syn.objs = s.syn.objs)

/-! Memory (12) and the fabric (01, 13). -/

/-- A firewall allows an access when one enabled region covers it, has its livery and allows its kind (livery 0xFF is not
issued). A transaction that decodes and reaches its target but that no region allows is refused with ST_FIREWALL: the firewall
records it, and nothing behind it changes (R468, R469). -/
def Obligations.FirewallRefuses : Prop :=
  (∀ (s : State) (g : FwTarget) (l : Byte) (off n : Nat) (k : Kind), fwAllows s g l off n k = true ↔
    ∃ e ∈ (fwl s g).regions, e.2.en = true ∧ e.2.size ≠ 0 ∧ 4096 * e.2.base ≤ off ∧ off + n ≤ 4096 * (e.2.base + e.2.size) ∧
      e.2.allow.getLsbD l.toNat = true ∧ l ≠ 0xFF ∧ (k = .read → e.2.r = true) ∧ (k = .write → e.2.w = true)) ∧
  (∀ (s : State) (a : Access) (p : Spot), decodeRange a.addr.toNat (accLen a) = some p →
    reachable (settleFor s a.src p.tgt) p a.src = true → fwAllows s p.tgt a.livery p.off (accLen a) a.kind = false →
    ∃ t, exec (.fabricAccess a) s = .next t ∧ (∃ o, t.out = .fabric a.livery stFirewall [] :: o) ∧
      (fwl t p.tgt).refd = true ∧ (fwl t p.tgt).refcnt = min 0xFFFFFFFF ((fwl s p.tgt).refcnt + 1) ∧
      (fwl t p.tgt).regions = (fwl s p.tgt).regions ∧ t.dies = s.dies ∧ t.engines = s.engines ∧ t.stg = s.stg ∧ t.tt = s.tt ∧
      t.qmg = s.qmg ∧ t.syn = s.syn ∧ t.kpm = s.kpm ∧ t.mpl = s.mpl ∧ t.fus = s.fus ∧ t.cvus = s.cvus ∧ t.clk = s.clk ∧
      t.edgeA = s.edgeA ∧ t.edgeB = s.edgeB ∧ (∀ i, (isl t i).ram = (isl s i).ram ∧ (isl t i).flash = (isl s i).flash))

/-- FABRIC_ACCESS at a stack: an accepted write waits in the queue and is read back from every port and livery; a read that
overlaps no waiting write delivers the bytes of every write accepted before (R432, R433). WRITE_DRAIN: the queued write reaches
the stack, and in the strict mode no byte that any source reads changes by it (R433). -/
def Obligations.StackAccess : Prop :=
  (∀ (s u : State) (a : Access) (p : Spot) (n : DieId), a.kind = .read → a.flaws = [] →
    grants s a.livery a.addr.toNat a.len .read a.src = .spot p u → p.place = .hbm n → stuckBanks (mct u n) p.off a.len = [] →
    (∀ w ∈ (mct u n).writes, wrOverlaps p.off a.len w = false) → badIn (mct u n) p.off a.len = none →
    ∃ t, exec (.fabricAccess a) s = .next t ∧
      t.out = .fabric a.livery stOk (memRd (hbmView u n (portOf u a.src n) a.livery) p.off a.len) :: s.out ∧
      (die t n).hbm = (die s n).hbm ∧ (mct t n).writes = (mct s n).writes ∧ ∀ m : DieId, m ≠ n → die t m = die s m) ∧
  (∀ (s u : State) (a : Access) (p : Spot) (n : DieId), a.kind = .write → a.flaws = [] →
    grants s a.livery a.addr.toNat a.data.length .write a.src = .spot p u → p.place = .hbm n → (mct s n).flaws = [] →
    (mct s n).compat = false → queuedBursts (mct s n) + (burstsOf p.off a.data.length).length ≤ 2048 →
    ∃ t, exec (.fabricAccess a) s = .next t ∧ t.out = .fabric a.livery stOk [] :: s.out ∧ (die t n).hbm = (die s n).hbm ∧
      (mct t n).writes = (mct s n).writes ++ [{
        port := portOf u a.src n, livery := a.livery, off := p.off, data := a.data, path := linksTo u a.src n, owed := false
        seq := (mct s n).seq }] ∧
      (∀ q l, memRd (hbmView t n q l) p.off a.data.length = a.data) ∧ ∀ m : DieId, m ≠ n → die t m = die s m) ∧
  (∀ (s : State) (n : DieId) (i : Nat) (w : PendWrite), (mct s n).writes[i]? = some w → mayDrain (mct s n) i w = true →
    (mct s n).compat = false → ∃ t, exec (.writeDrain n i) s = .next t ∧ (mct t n).writes = (mct s n).writes.eraseIdx i ∧
      (die t n).hbm = memWr (die s n).hbm w.off w.data ∧ t.out = s.out ∧
      ∀ q l b, memByte (hbmView t n q l) b = memByte (hbmView s n q l) b)

/-- A write changes the bytes it covers and no other, whatever the memory. -/
def Obligations.ReadAfterWrite : Prop :=
  ∀ (m : Mem) (a : Nat) (bs : List Byte), memRd (memWr m a bs) a bs.length = bs ∧
    (∀ b, b < a ∨ a + bs.length ≤ b → memByte (memWr m a bs) b = memByte m b) ∧
    (∀ i, (h : i < bs.length) → memByte (memWr m a bs) (a + i) = bs[i])

/-- MCT_HELD_READ delivers the bytes as they stood at its acceptance, the limits of uncorrectable and correctable errors (R433,
R503, class 0x05), and patrol scrub, which finds an error of one symbol correctable and of more uncorrectable (R444, R448). -/
def Obligations.StackErrors : Prop :=
  (∀ (s : State) (n : DieId) (i : Nat) (r : HeldRead), (mct s n).reads[i]? = some r → readFree (mct s n) r = true →
    r.bad = [] → ∃ t, exec (.mctHeldRead n i) s = .next t ∧ t.out = .fabric r.livery stOk r.data :: s.out ∧
      (mct t n).reads = (mct s n).reads.eraseIdx i ∧ (die t n).hbm = (die s n).hbm) ∧
  (∀ (s : State) (n : DieId), dieInSvc s n = true → ueRule s n = true → ∃ t, exec (.hbmUeLimit n) s = .next t ∧
    (die t n).inService = false ∧ (mct t n).flaws = [] ∧ (∀ q, (queue s q).st ≠ 0 → (queue s q).base / 2 ^ 34 = n.val →
      (queue t q).st = 3)) ∧
  (∀ (s : State) (n : DieId), 4096 < histCount dayNs s.vtime (mct s n).ce24 → ∃ t, exec (.hbmCeNotice n) s = .next t ∧
    (mct t n).ce24 = [] ∧
    (die t n).hbm = (die s n).hbm ∧ (inSvc s.sia = true → ∃ q, t.sia.flog.head? = some q ∧ q.2.cls = 5 ∧ q.2.unit = n.val)) ∧
  (∀ (s : State) (n : DieId) (b : Fin 536870912) (l : List Nat), (mct s n).st = 2 →
    finding (flawsOf (addFlaws (mct s n) b l) b) = .ue → ∃ t, exec (.patrolScrub n b l) s = .next t ∧
    (mct t n).ueCnt = min 65535 ((mct s n).ueCnt + 1) ∧ (mct t n).ue = true ∧ isBad (mct t n) b = true ∧
    b.val ∈ (mct t n).scrubbed ∧ (mct t n).ueAt = (mct s n).ueAt ∧ (die t n).hbm = (die s n).hbm) ∧
  (∀ (s : State) (n : DieId) (b : Fin 536870912) (l : List Nat), (mct s n).st = 2 →
    finding (flawsOf (addFlaws (mct s n) b l) b) = .ce → ∃ t, exec (.patrolScrub n b l) s = .next t ∧
    (mct t n).ceCnt = min 65535 ((mct s n).ceCnt + 1) ∧ (mct t n).ce = true ∧ (mct t n).ueCnt = (mct s n).ueCnt ∧
    (die t n).hbm = (die s n).hbm)

/-- Shadows of a memory controller are committed together, what was accepted before completing first, or dropped with badcfg
(R428-R431); clrcnt clears the counts but for what is counted in its cycle (R456); a die in reset or behind a closed gate takes
neither (R562). Refresh: each interval gives every bank of a ready stack one unit of debt up to 8, a refresh takes one off, a
bank at 8 is refreshed down to 4 by a forced refresh alone; the stack's bytes stay (R441-R443). -/
def Obligations.RefreshAndCommit : Prop :=
  (∀ (s : State) (n : DieId), opened s (.die n 8) = true → commitOk s n = true → ∃ t, exec (.mctCtlCommit n) s = .next t ∧ (mct t n).map = (mct s n).mapSh ∧
    (mct t n).compat = (mct s n).compatSh ∧ (mct t n).writes = [] ∧ (mct t n).reads = [] ∧
    (mapKeys (mct s n).mapSh = mapKeys (mct s n).map → (mct s n).compat = false → (die t n).hbm = (mct s n).writes.foldl applyWr (die s n).hbm) ∧
    ∀ m : DieId, m ≠ n → die t m = die s m) ∧
  (∀ (s : State) (n : DieId), opened s (.die n 8) = true → commitOk s n = false → ∃ t, exec (.mctCtlCommit n) s = .next t ∧ (mct t n).map = (mct s n).map ∧
    (mct t n).mapSh = (mct s n).map ∧ (mct t n).badcfg = true ∧ (die t n).hbm = (die s n).hbm) ∧
  (∀ (s : State) (n : DieId) (ce ue forced : Bool), opened s (.die n 8) = true →
    ∃ t, exec (.mctClrcnt n ce ue forced) s = .next t ∧ (mct t n).ceCnt = b2n ce ∧ (mct t n).ueCnt = b2n ue ∧
    (mct t n).forced = b2n forced ∧ (mct t n).debt = (mct s n).debt ∧ (die t n).hbm = (die s n).hbm ∧
    ∀ m : DieId, m ≠ n → die t m = die s m) ∧
  (∀ (s : State) (n : DieId) (r : Instr), (r = .mctCtlCommit n ∨ ∃ a b c, r = .mctClrcnt n a b c) → opened s (.die n 8) = false →
    exec r s = .next s) ∧
  (∀ (s : State) (k : Pkt) (n : DieId), Ready s .host 4 4 1 k → par k 0 = toW (2 ^ n.val) → 2 ≤ (mct s n).st → commitOk s n = true →
    ∃ t, exec (.mctCommit .host) s = .next t ∧ replied s t k stOk [toW (2 ^ n.val)] ∧ (mct t n).map = (mct s n).mapSh ∧
      (mct t n).compat = (mct s n).compatSh ∧ ∀ m : DieId, m ≠ n → die t m = die s m) ∧
  (∀ (s : State) (n : DieId) (l : List (Fin 536870912 × Nat)), (mct s n).st = 2 → ∃ t, exec (.refreshDebtAccrue n l) s = .next t ∧
    (∀ k, k < 2048 → bankGet 0 (mct t n).debt k = min 8 (bankGet 0 (mct s n).debt k + 1)) ∧ (die t n).hbm = (die s n).hbm) ∧
  (∀ (s : State) (n : DieId) (pc : Fin 32) (b : Fin 64), 1 ≤ bankGet 0 (mct s n).debt (bankNo pc b) →
    bankGet 0 (mct s n).debt (bankNo pc b) < 8 →
    bankQuiet (mct s n) pc b = true → ∃ t, exec (.refreshIssue n pc b) s = .next t ∧
      bankGet 0 (mct t n).debt (bankNo pc b) = bankGet 0 (mct s n).debt (bankNo pc b) - 1 ∧
      (∀ k, k ≠ bankNo pc b → bankGet 0 (mct t n).debt k = bankGet 0 (mct s n).debt k) ∧ (die t n).hbm = (die s n).hbm) ∧
  (∀ (s : State) (n : DieId) (pc : Fin 32) (b : Fin 64), bankGet 0 (mct s n).debt (bankNo pc b) = 8 →
    ∃ t, exec (.forcedRefresh n pc b) s = .next t ∧ bankGet 0 (mct t n).debt (bankNo pc b) = 4 ∧
      (mct t n).forced = min 65535 ((mct s n).forced + 1) ∧ (mct t n).frcref = true ∧ (die t n).hbm = (die s n).hbm)

/-- MEM_READ, MEM_WRITE, MEM_FILL on a stack: the range's bytes are read, or take the packet's, and no other byte changes
(R449-R451, Table 12-3). MEM_COPY is deferred when both ranges pass; at its end the destination holds the source's bytes (R451).
-/
def Obligations.MemoryOpcodes : Prop :=
  (∀ (s u : State) (k : Pkt) (q : Spot) (d : DieId), Ready s .host 4 0 3 k → par64 k 0 % 4 = 0 → parN k 2 % 4 = 0 →
    1 ≤ parN k 2 → parN k 2 ≤ 65516 → admitPkt (took s .host k) k (par64 k 0) (parN k 2) .read = .spot q u → q.place = .hbm d →
    badIn (mct s d) q.off (parN k 2) = none → exec (.memRead .host) s = .next (answered .host k stOk
      (bytesWords (memRd (hbmView s d .spine (ctxLivery s (pktCtx k))) q.off (parN k 2)))
      (hbmGet u d .spine (ctxLivery s (pktCtx k)) q.off (parN k 2)).2) ∧ u = took s .host k) ∧
  (∀ (s u : State) (k : Pkt) (q : Spot) (d : DieId) (bs : List Byte), Ready s .host 4 1 (parN k 2 + 3) k → par64 k 0 % 4 = 0 →
    1 ≤ parN k 2 → bs = wordsBytes (parsFrom k 3) →
    admitPkt (took s .host k) k (par64 k 0) (4 * parN k 2) .write = .spot q u → q.place = .hbm d → (mct s d).flaws = [] →
    (mct s d).writes = [] → ∃ t, exec (.memWrite .host) s = .next t ∧ replied s t k stOk [] ∧
      memRd (die t d).hbm q.off bs.length = bs ∧
      (∀ b, b < q.off ∨ q.off + bs.length ≤ b → memByte (die t d).hbm b = memByte (die s d).hbm b) ∧
      ∀ m : DieId, m ≠ d → die t m = die s m) ∧
  (∀ (s u : State) (k : Pkt) (q : Spot) (d : DieId) (bs : List Byte), Ready s .host 4 2 5 k → par64 k 0 % 4 = 0 →
    par64 k 2 % 4 = 0 → 1 ≤ par64 k 2 → par64 k 2 ≤ 2 ^ 24 → par64 k 0 + par64 k 2 ≤ hbmEnd →
    bs = (List.replicate (par64 k 2 / 4) (wordBytes (par k 4))).flatten →
    admitPkt (took s .host k) k (par64 k 0) (par64 k 2) .write = .spot q u → q.place = .hbm d → (mct s d).flaws = [] →
    (mct s d).writes = [] → ∃ t, exec (.memFill .host) s = .next t ∧ replied s t k stOk [] ∧
      memRd (die t d).hbm q.off bs.length = bs ∧
      (∀ b, b < q.off ∨ q.off + bs.length ≤ b → memByte (die t d).hbm b = memByte (die s d).hbm b) ∧
      ∀ m : DieId, m ≠ d → die t m = die s m) ∧
  (∀ (s u v : State) (k : Pkt) (q r : Spot), Ready s .host 4 3 6 k → par64 k 0 % 4 = 0 → par64 k 2 % 4 = 0 → par64 k 4 % 4 = 0 →
    1 ≤ par64 k 4 → par64 k 4 ≤ 2 ^ 34 → par64 k 0 + par64 k 4 ≤ hbmEnd → par64 k 2 + par64 k 4 ≤ hbmEnd →
    anyOverlap (par64 k 0) (par64 k 4) (par64 k 2) (par64 k 4) = false →
    admitPkt (took s .host k) k (par64 k 0) (par64 k 4) .read = .spot q u →
    admitPkt u k (par64 k 2) (par64 k 4) .write = .spot r v → exec (.memCopy .host) s = .next (deferred .host k
      (.memCopy s.dis.nextId) (setDis (took s .host k) (fun d => { d with
        nextId := s.dis.nextId + 1
        copies := s.dis.copies ++ [{ id := s.dis.nextId, src := par64 k 0, dst := par64 k 2, len := par64 k 4
                                     livery := ctxLivery s (pktCtx k) }] })))) ∧
  (∀ (s : State) (id : Nat) (c : MemCopy), s.dis.copies.find? (fun c => c.id == id) = some c → copyUp s c = none →
    (mct s (c.src / 2 ^ 34)).flaws = [] → (mct s (c.dst / 2 ^ 34)).flaws = [] → ∃ t, exec (.memCopyEnd id) s = .next t ∧
      drew s t (.memCopy id) stOk (two c.len) ∧ (∀ x ∈ t.dis.copies, x.id ≠ id) ∧
      memRd (die t (c.dst / 2 ^ 34)).hbm (c.dst % 2 ^ 34) c.len =
        memRd (hbmView s (c.src / 2 ^ 34) .spine c.livery) (c.src % 2 ^ 34) c.len)

/-- An access to an island's memories is served in pieces; one of up to 32 bytes ends with its first piece (R453, R648). The
bytes of the state record and the logbook in the flash are not stated (the model's choice, log entry 90). -/
def Obligations.IslandMemories : Prop :=
  (∀ (s : State) (i : Isl) (a : Access), (isl s i).pieces = [a] → a.kind = .read → a.data = [] → a.len ≤ 32 →
    (isFlash a = true → 0x60000 ≤ a.addr.toNat % 0x4000000 ∨ a.addr.toNat % 0x4000000 + a.len ≤ 0x10000) →
    ∃ t, exec (.islandMemPiece i) s = .next t ∧ (isl t i).pieces = [] ∧ (isl t i).ram = (isl s i).ram ∧
      t.out = .fabric a.livery stOk (memRd (if isFlash a then (isl s i).flash else (isl s i).ram) (a.addr.toNat % 0x4000000) a.len) ::
        s.out) ∧
  (∀ (s : State) (i : Isl) (a : Access), (isl s i).pieces = [a] → a.kind = .read → a.data = [] → a.len ≤ 32 →
    ∃ t bs, exec (.islandMemPiece i) s = .next t ∧ (isl t i).pieces = [] ∧ t.out = .fabric a.livery stOk bs :: s.out ∧
      bs.length = a.len ∧ (isl t i).flash = (isl s i).flash) ∧
  (∀ (s : State) (i : Isl) (a : Access), (isl s i).pieces = [a] → a.kind = .write → a.data.length ≤ 32 →
    ∃ t, exec (.islandMemPiece i) s = .next t ∧ (isl t i).pieces = [] ∧ (isl t i).flash = (isl s i).flash ∧
      (isl t i).ram = memWr (isl s i).ram (a.addr.toNat % 0x4000000) a.data ∧ t.out = .fabric a.livery stOk [] :: s.out)

/-! Links (01, 14). -/

/-- A retried flit is counted at its end (R40, R42); retry exhaustion takes the link out of the active state and retrains it
(R498); a failed retrain counts against a coupling (Table 14-1). ROUTE_CHANGE takes the route of R26 and R27 once the old one
has drained, for that pair of dies alone (R28); a fabric timeout ends the oldest held read of the die and is counted (R500). -/
def Obligations.LinkFaults : Prop :=
  (∀ (s : State) (n : DieId), (∃ t, exec (.linkFlitError (.spine n) .die) s = .next t ∧
      (die t n).retrySp = min 1023 ((die s n).retrySp + 1)) ∧
    (∃ t, exec (.linkFlitError (.coupling n) .die) s = .next t ∧ (die t n).retrySc = min 1023 ((die s n).retrySc + 1)) ∧
    (∃ t, exec (.linkFlitError (.coupling n) .far) s = .next t ∧
      (die t (succDie n)).retryPc = min 1023 ((die s (succDie n)).retryPc + 1)) ∧
    ∃ t, exec (.linkFlitError (.spine n) .far) s = .next t ∧ t.dies = s.dies ∧
      bankGet 0 t.iod.spretry n = min 1023 (bankGet 0 s.iod.spretry n + 1)) ∧
  (∀ (s : State) (n : DieId), (die s n).spup = true → ∃ t, exec (.retryExhaustion (.spine n)) s = .next t ∧
    (die t n).spup = false ∧ (die t n).spdown = true ∧ LinkId.spine n ∈ t.iod.retrain ∧
    (∀ m : DieId, ∀ r ∈ (mct t m).reads, LinkId.spine n ∉ r.path) ∧ (s.dis.copies = [] → (die t n).hbm = (die s n).hbm)) ∧
  (∀ (s : State) (n : DieId), (die s n).scup = true → ∃ t, exec (.retryExhaustion (.coupling n)) s = .next t ∧
    (die t n).scup = false ∧
    (die t (succDie n)).pcup = false ∧ LinkId.coupling n ∈ t.iod.retrain) ∧
  (∀ (s : State) (n : DieId), ∃ t, exec (.linkDown (.coupling n)) s = .next t ∧ (die t n).scup = false ∧
    (die t n).failedRetrains = min 255 ((die s n).failedRetrains + 1) ∧ (die t n).scfailed = true ∧ LinkId.coupling n ∉ t.iod.retrain) ∧
  (∀ (s : State) (a b : DieId), outstanding s a b = false → ∃ t, exec (.routeChange a b) s = .next t ∧
    routeUsed t a b = routeNow s a b ∧ (∀ x y : DieId, (x ≠ a ∨ y ≠ b) → routeUsed t x y = routeUsed s x y) ∧
    t.dies = s.dies) ∧
  (∀ (s : State) (n : DieId) (r : HeldRead) (rest : List HeldRead), (mct s n).reads = r :: rest →
    ((mct s n).compat = true → ∀ w ∈ (mct s n).writes, w.owed = true → r.seq < w.seq) → timeoutsOf s (.die n) = 0 →
    ∃ t, exec (.fabricTimeout (.die n)) s = .next t ∧ (mct t n).reads = rest ∧
      t.dis.timeouts = min 0xFFFFFFFF (s.dis.timeouts + 1) ∧ (die t n).inService = (die s n).inService ∧
      (∃ e, Emit.fabric r.livery stInternal [] = e ∧ e ∈ t.out)) ∧
  (∀ (s : State) (n : DieId), 1 ≤ timeoutsOf s (.die n) → dieInSvc s n = true →
    ((dropOldest s (.die n)).1.isSome = true ∨ ∀ e ∈ s.dis.ended, e.byLink = false) →
    ∃ t, exec (.fabricTimeout (.die n)) s = .next t ∧ (die t n).inService = false) ∧
  (∀ (s : State) (u : UnitId) (e : Ended) (late : Bool), ((dropOldest s u).1 = none ∨ late = true) →
    s.dis.ended.find? (fun e => e.byLink && e.unit == u) = some e →
    ∃ t, exec (.fabricTimeout u late) s = .next t ∧ t.dis.ended = s.dis.ended.erase e ∧ t.dis.timeouts = s.dis.timeouts ∧
      t.dies = s.dies ∧ (inSvc s.sia = true → ∃ q r, t.sia.flog = q :: r ∧ q.2.cls = 0x09 ∧ q.2.kind = 3))

/-! Tensor engines (04-07). -/

/-- The first steps of Table 4-11, whichever operation row comes: a descriptor that cannot be read or fails its check ends with
ST_BAD_CHECK and dcrc, an undefined operation with ST_BAD_OPCODE, and a command cut short goes on with its status (R162). -/
def Obligations.DescriptorChecks : Prop :=
  ∀ (s : State) (g : EngId) (x : Option Upset) (r : Instr) (ws : List Word) (ok : Bool) (t : State), r ∈ engineRows g x →
    nextDesc s g = some (ws, ok, t) → (eng t g).cut = false →
    (∀ st, (eng t g).skipSt = some st → ∃ u, exec r s = .next u ∧ ran t u g ws st) ∧
    ((eng t g).skipSt = none → (ok = false ∨ sealOk ws = false) → ∃ u, exec r s = .next u ∧ ended u g ws stBadCheck ∧
      (eng u g).dcrc = true ∧ (eng u g).rs = (eng t g).rs ∧ u.dies = t.dies) ∧
    ((eng t g).skipSt = none → ok = true → sealOk ws = true → opDefined ws = false → ∃ u, exec r s = .next u ∧
      ended u g ws stBadOpcode ∧ (eng u g).rs = (eng t g).rs ∧ u.dies = t.dies)

/-- NOP changes no store. ADD, MUL, FMA, MAX and MIN: in every format the destination's bytes alone are written; in INT32 each
element is the exact result, saturated, of the elements as they stood before; an error in an integer result, or in a product of
MUL or FMA, that the residue check finds ends them with ST_BAD_CHECK, and a floating ADD, MAX or MIN has no such check
(R145-R147, R199, R207-R209). -/
def Obligations.VectorArithmetic : Prop :=
  (∀ (s : State) (g : EngId) (ws : List Word) (t : State), DescReady s g 0 ws t → df ws 0 27 16 = 0 → zeroWords ws 2 13 = true →
    ∃ u, exec (.nop g) s = .next u ∧ ran t u g ws stOk ∧ (eng u g).rs = (eng t g).rs) ∧
  (∀ (s : State) (g : EngId) (ws : List Word) (t : State) (sub : Nat) (r : Instr) (f : Int → Int → Int → Int),
    (sub, r, f) ∈ [(1, Instr.vecAdd g none, fun a b _ => a + b), (2, .vecMul g none, fun a b _ => a * b), (3, .vecFma g none, fun a b d => a * b + d),
      (4, .vecMax g none, fun a b _ => max a b), (5, .vecMin g none, fun a b _ => min a b)] →
    DescReady s g 8 ws t → dSub ws = sub → vecBinOk ws = true → vCount ws ≠ 0 →
    ∃ u, exec r s = .next u ∧ ran t u g ws stOk ∧
      sameOutside (eng t g).rs (eng u g).rs (128 * vDst ws) (rowBytes (dFo ws) (vCount ws)) ∧
      (memWf (eng t g).rs = true → dFa ws = fmtInt32 → dFb ws = fmtInt32 → dFo ws = fmtInt32 → vSc ws = false → ∀ i, i < vCount ws →
        int32At (eng u g).rs (128 * vDst ws + 4 * i) = sat32 (f (int32At (eng t g).rs (128 * vSrc1 ws + 4 * i))
          (int32At (eng t g).rs (128 * vSrc2 ws + 4 * i)) (int32At (eng t g).rs (128 * vDst ws + 4 * i))))) ∧
  (∀ (s : State) (g : EngId) (ws : List Word) (t : State) (x : Upset) (sub : Nat) (r : Instr),
    (sub, r) ∈ [(1, Instr.vecAdd g x), (2, .vecMul g x), (3, .vecFma g x), (4, .vecMax g x), (5, .vecMin g x)] →
    DescReady s g 8 ws t → dSub ws = sub → vecBinOk ws = true → (vecInt ws = true ∨ sub = 2 ∨ sub = 3) → x.row < vCount ws →
    x.err.emod 3 ≠ 0 →
    ∃ u, exec r s = .next u ∧ ended u g ws stBadCheck ∧ (eng u g).rescnt = min 255 ((eng t g).rescnt + 1) ∧
      (eng u g).abftcnt = min 255 (eng t g).abftcnt ∧ (eng u g).chk = true ∧
      sameOutside (eng t g).rs (eng u g).rs (128 * vDst ws) (rowBytes (dFo ws) (vCount ws))) ∧
  (∀ (s : State) (g : EngId) (ws : List Word) (t : State) (x : Upset) (sub : Nat) (r : Instr),
    (sub, r) ∈ [(1, Instr.vecAdd g x), (4, .vecMax g x), (5, .vecMin g x)] →
    DescReady s g 8 ws t → dSub ws = sub → vecBinOk ws = true → vecInt ws = false → vCount ws ≠ 0 →
    ∃ u, exec r s = .next u ∧ ran t u g ws stOk ∧ (eng u g).rescnt = (eng t g).rescnt)

/-- EXP, RECIP, RSQRT, CONVERT and the reductions complete and write their destination's bytes alone; in INT32, REDUCE_SUM gives
the saturated sum and REDUCE_MAX the greatest element (R206, R210, R211). -/
def Obligations.VectorFunctions : Prop :=
  (∀ (s : State) (g : EngId) (ws : List Word) (t : State) (sub : Nat) (r : Instr),
    (sub, r) ∈ [(6, Instr.vecExp g none), (7, .vecRecip g none), (8, .vecRsqrt g none)] → DescReady s g 8 ws t → dSub ws = sub →
    vecUnOk isFp vCount ws = true → vCount ws ≠ 0 → ∃ u, exec r s = .next u ∧ ran t u g ws stOk ∧
      sameOutside (eng t g).rs (eng u g).rs (128 * vDst ws) (rowBytes (dFo ws) (vCount ws))) ∧
  (∀ (s : State) (g : EngId) (ws : List Word) (t : State), DescReady s g 8 ws t → dSub ws = 9 → convertOk ws = true →
    vCount ws ≠ 0 → ∃ u, exec (.vecConvert g none) s = .next u ∧ ran t u g ws stOk ∧
      sameOutside (eng t g).rs (eng u g).rs (128 * vDst ws) (rowBytes (dFo ws) (vCount ws)) ∧
      (memWf (eng t g).rs = true → dFa ws = 1 → dFo ws = fmtInt32 → ∀ i, i < vCount ws →
        int32At (eng u g).rs (128 * vDst ws + 4 * i) = int8At (eng t g).rs (128 * vSrc1 ws + i))) ∧
  (∀ (s : State) (g : EngId) (ws : List Word) (t : State) (sub : Nat) (r : Instr),
    (sub, r) ∈ [(0xA, Instr.vecReduceSum g none), (0xB, .vecReduceMax g none)] → DescReady s g 8 ws t → dSub ws = sub →
    vecUnOk vecFmt (fun _ => 1) ws = true → vCount ws ≠ 0 → ∃ u, exec r s = .next u ∧ ran t u g ws stOk ∧
      sameOutside (eng t g).rs (eng u g).rs (128 * vDst ws) (rowBytes (dFo ws) 1) ∧
      (memWf (eng t g).rs = true → dFa ws = fmtInt32 → dFo ws = fmtInt32 →
        (sub = 0xA → int32At (eng u g).rs (128 * vDst ws) =
          sat32 ((List.range (vCount ws)).map (fun i => int32At (eng t g).rs (128 * vSrc1 ws + 4 * i))).sum) ∧
        (sub = 0xB → (∃ i, i < vCount ws ∧ int32At (eng u g).rs (128 * vDst ws) = int32At (eng t g).rs (128 * vSrc1 ws + 4 * i)) ∧
          ∀ i, i < vCount ws → int32At (eng t g).rs (128 * vSrc1 ws + 4 * i) ≤ int32At (eng u g).rs (128 * vDst ws))))

/-- Pooling, resizing and the softmax steps complete, and change no byte of the store outside the rows they write (R242-R246,
R275-R277). -/
def Obligations.PoolingAndSoftmax : Prop :=
  (∀ (s : State) (g : EngId) (ws : List Word) (t : State) (mode : Nat) (r : Instr),
    (mode, r) ∈ [(1, Instr.maxPool g none), (2, .averagePoolPaddingCounted g none), (3, .averagePoolPaddingNotCounted g none),
      (4, .nearestNeighbourResize g none), (5, .bilinearResize g none)] → DescReady s g 8 ws t → dSub ws = 0xC → (poolDesc ws).mode = mode →
    poolOk ws = true → poolEmpty ws = false → ∃ u, exec r s = .next u ∧ ran t u g ws stOk ∧
      ∀ b, (∀ c i, c < vCount ws → i < (poolDesc ws).outH →
          b < 128 * (vDst ws + c * (poolDesc ws).dP + i * (poolDesc ws).dR) ∨
          128 * (vDst ws + c * (poolDesc ws).dP + i * (poolDesc ws).dR) + rowBytes (dFo ws) (poolDesc ws).outW ≤ b) →
        memByte (eng u g).rs b = memByte (eng t g).rs b) ∧
  (∀ (s : State) (g : EngId) (ws : List Word) (t : State) (mode : Nat) (r : Instr),
    (mode, r) ∈ [(1, Instr.softmaxFirst g none), (2, .softmaxStep g none)] → DescReady s g 8 ws t → dSub ws = 0xD → df ws 7 31 28 = mode →
    softmaxOk ws = true → softmaxEmpty ws = false → ∃ u, exec r s = .next u ∧ ran t u g ws stOk ∧
      ∀ b, (∀ i, i < smRows ws →
          (b < 128 * (vDst ws + i * df ws 8 14 0) ∨ 128 * (vDst ws + i * df ws 8 14 0) + rowBytes (dFo ws) (vCount ws) ≤ b) ∧
          (b < 128 * df ws 9 14 0 + 8 * i ∨ 128 * df ws 9 14 0 + 8 * i + 8 ≤ b) ∧
          (b < 128 * df ws 9 30 16 + 4 * i ∨ 128 * df ws 9 30 16 + 4 * i + 4 ≤ b)) →
        memByte (eng u g).rs b = memByte (eng t g).rs b) ∧
  (∀ (s : State) (g : EngId) (ws : List Word) (t : State), DescReady s g 8 ws t → dSub ws = 0xD → df ws 7 31 28 = 3 →
    softmaxOk ws = true → softmaxEmpty ws = false → ∃ u, exec (.softmaxFinal g none) s = .next u ∧ ran t u g ws stOk ∧
      ∀ b, (∀ i, i < smRows ws → b < 128 * (vDst ws + i * df ws 8 14 0) ∨
          128 * (vDst ws + i * df ws 8 14 0) + rowBytes (dFo ws) (smD ws) ≤ b) →
        memByte (eng u g).rs b = memByte (eng t g).rs b)

/-- GEMM, GEMM_AA and the convolutions complete with ST_OK where the weight stream does not end early and no check finds a
mismatch, as without an upset none of an integer pair does whose accumulators stay within 48 bits; an upset that changes an
integer accumulator is found by the check column (R138-R147, R232-R238, R473). -/
def Obligations.MatrixProducts : Prop :=
  (∀ (s : State) (g : EngId) (ws : List Word) (t T V : State) (bs : List Byte), T = addBusy t g → DescReady s g 1 ws t →
    gemmOk ws = true → df ws 8 31 16 = 0 → gemmEmpty ws = false → gemmWeights T g ws = (bs, none, V) →
    quiet (gemmMat V g ws (gemmCols ws bs)) (eng V g).ftol →
    ∃ u, exec (.gemm g none) s = .next u ∧ ran V u g ws stOk ∧ (eng u g).abftcnt = (eng t g).abftcnt) ∧
  (∀ (s : State) (g : EngId) (ws : List Word) (t T : State), T = addBusy t g → DescReady s g 2 ws t → gemmOk ws = true →
    bOk ws = true → gemmEmpty ws = false → quiet (gemmMat T g ws (gemmAaCols T g ws).1) (eng T g).ftol →
    ∃ u, exec (.gemmAa g none) s = .next u ∧ ran t u g ws stOk ∧ (eng u g).abftcnt = (eng t g).abftcnt) ∧
  (∀ (s : State) (g : EngId) (ws : List Word) (t T V : State) (bs : List Byte) (sub : Nat) (r : Instr) (ok : List Word → Bool)
    (plan : ConvDesc → ConvPlan), (sub, r, ok, plan) ∈ [(1, Instr.convDense g none, denseOk, densePlan),
      (2, .convGrouped g none, groupedOk, groupedPlan), (3, .convDepthwise g none, depthOk, depthPlan)] →
    T = addBusy t g → DescReady s g 3 ws t → dSub ws = sub → ok ws = true → convEmpty ws = false →
    convWeights T g ws (plan (convDesc ws)) = (bs, none, V) →
    quiet (convMat V g ws (plan (convDesc ws)) ((plan (convDesc ws)).cols bs)) (eng V g).ftol →
    ∃ u, exec r s = .next u ∧ ran V u g ws stOk ∧ (eng u g).abftcnt = (eng t g).abftcnt) ∧
  (∀ (s : State) (g : EngId) (ws : List Word) (bs : List Byte) (ftol : Nat), gInt ws = true →
    quiet (gemmMat s g ws (gemmCols ws bs)) ftol ∧ quiet (gemmMat s g ws (gemmAaCols s g ws).1) ftol) ∧
  (∀ (s : State) (g : EngId) (ws : List Word) (bs : List Byte) (ftol : Nat) (plan : ConvDesc → ConvPlan),
    plan ∈ [densePlan, groupedPlan, depthPlan] → convInt (convDesc ws) = true →
    (convMat s g ws (plan (convDesc ws)) ((plan (convDesc ws)).cols bs)).k ≤ 131069 →
    quiet (convMat s g ws (plan (convDesc ws)) ((plan (convDesc ws)).cols bs)) ftol) ∧
  (∀ (s : State) (g : EngId) (ws : List Word) (t : State) (x : Upset), DescReady s g 2 ws t → gemmOk ws = true →
    bOk ws = true → gemmEmpty ws = false → gInt ws = true → x.row < gM ws → x.col < gN ws → x.term = none →
    x.err.emod (2 ^ 48) ≠ 0 → ∃ u, exec (.gemmAa g x) s = .next u ∧ ended u g ws stBadCheck ∧
      (eng u g).abftcnt = min 255 ((eng t g).abftcnt + 1) ∧ (eng u g).chk = true)

/-- GEMM_AA on INT8 operands with an INT32 result and an empty epilogue: every element of C is the sum over K of the products of
A's row and B's column, in 48-bit accumulation, saturated (R138, R189, R193, R199). -/
def Obligations.IntegerProduct : Prop :=
  ∀ (s : State) (g : EngId) (ws : List Word) (t : State), DescReady s g 2 ws t → gemmOk ws = true → bOk ws = true →
    gemmEmpty ws = false → dFa ws = 1 → dFb ws = 1 → dFo ws = fmtInt32 → gAcc ws = false → gBias ws = false → gScale ws = false →
    df ws 9 12 8 = 0 → df ws 9 3 0 = 0 → memWf (eng t g).rs = true → ∃ u, exec (.gemmAa g none) s = .next u ∧ ran t u g ws stOk ∧
      ∀ r c, r < gM ws → c < gN ws → int32At (eng u g).rs (128 * (df ws 5 14 0 + r * df ws 5 30 16) + 4 * c) =
        sat32 (wrap48 ((List.range (gK ws)).map (fun i =>
          int8At (eng t g).rs (128 * (df ws 4 14 0 + r * df ws 4 30 16) + i) *
          int8At (eng t g).rs (128 * (df ws 7 14 0 + i * df ws 7 30 16) + c))).sum)

/-- SCORE and VALUE complete where the walk of the page list and the rows read end well and no check finds a mismatch. APPEND
and COMPACT ask the KPM to prepare the page of the first row they write; the KPM's decision for a page that needs no copy lets
the descriptor go on, and the end of a copy answers what waited for it alone; a page descriptor may come to each of them with
its check word gone bad (R258-R265, R270-R274, R281, Table 7-3). -/
def Obligations.Attention : Prop :=
  (∀ (s : State) (g : EngId) (ws : List Word) (t T V : State) (rd : List (Option (List Byte))), T = addBusy t g →
    DescReady s g 4 ws t → scoreOk ws = true → attnEmpty ws = false → (atMode ws = 2 → treeOk (treeParents T g ws) = true) →
    walkEnd (attnReach T g ws) = none → kvRows g false (attnReach T g ws) (atN ws) T (atK0 ws) [] = (rd, none, V) →
    quiet (scoreMat V g ws rd) (eng V g).ftol → ∃ u, exec (.attnScore g none none) s = .next u ∧ ran V u g ws stOk) ∧
  (∀ (s : State) (g : EngId) (ws : List Word) (t T V : State) (rd : List (Option (List Byte))), T = addBusy t g →
    DescReady s g 5 ws t → dSub ws = 1 → valueOk ws = true → attnEmpty ws = false →
    walkEnd (attnReach T g ws) = none → kvRows g true (attnReach T g ws) (atN ws) T (atK0 ws) [] = (rd, none, V) →
    quiet (valueMat V g ws (valueRows ws rd).1) (eng V g).ftol →
    ∃ u, exec (.attnValue g none none) s = .next u ∧ ran V u g ws stOk) ∧
  (∀ (s : State) (g : EngId) (ws : List Word) (t : State) (sub : Nat) (r : Instr) (ok : List Word → Bool) (j : Nat),
    (sub, r, ok) ∈ [(2, Instr.append g none, appendOk), (3, .compact g none, compactOk)] → DescReady s g 5 ws t → dSub ws = sub →
    ok ws = true → apEmpty ws = false → walkEnd (apReach t g ws) ≠ some .beyond →
    apPlist ws + 8 * entriesUsed t g ws ≤ poolSize → nextPrep t g ws 0 = .ask j →
    ∃ u, exec r s = .next u ∧ OnlyEngine t u g ∧ (eng u g).cur = some ws ∧ (eng u g).waiting = some (.prepare j) ∧
      (eng u g).rs = (eng t g).rs) ∧
  (∀ (s : State) (g : EngId) (ws : List Word) (i idx base : Nat), (eng s g).waiting = some (.prepare i) → (eng s g).cur = some ws →
    (apReach s g ws)[i]? = some (.page idx base) → (page s idx).refs ≤ 1 → s.kpm.copies = [] → (∀ p ∈ s.kpm.preps, p.eng ≠ g) →
    (∀ j, nextPrep s g ws (i + 1) = .ask j → ∃ u, exec (.kvWritePrepare g) s = .next u ∧ OnlyEngine s u g ∧
      (eng u g).waiting = some (.prepare j) ∧ (eng u g).cur = some ws) ∧
    (nextPrep s g ws (i + 1) = .ready → exec (.kvWritePrepare g) s = .next (writeRows s g ws))) ∧
  (∀ (s : State) (n : Fin 524288) (a : Nat) (g : EngId) (ws : List Word), s.kpm.copies = [(n.val, a)] →
    s.kpm.preps = [{ eng := g, waits := [n.val] }] → (eng s g).waiting = some .copies → (eng s g).cur = some ws →
    (∀ h : EngId, h ≠ g → (eng s h).waiting ≠ some .copies) →
    exec (.kvCopyEnd n) s = .next (writeRows { s with kpm := { s.kpm with copies := [], preps := [] } } g ws)) ∧
  (∀ (s : State) (g : EngId) (x : Option Upset) (w : Wear), (page s w.page).st ≠ 0 →
    page (wear s w) w.page = { page s w.page with flip := (page s w.page).flip ^^^ w.bits } ∧
    exec (.attnScore g x w) s = exec (.attnScore g x none) (wear s w) ∧
    exec (.attnValue g x w) s = exec (.attnValue g x none) (wear s w) ∧
    exec (.append g w) s = exec (.append g none) (wear s w) ∧ exec (.compact g w) s = exec (.compact g none) (wear s w))

/-- LOAD and STORE between the resident store and the die pool: every row arrives, and no byte outside the rows changes; a LOAD
of one row from a stack brings the stack's bytes as the port reads them, and a STORE of one row to a stack waits in its write
queue (R157, R158, R432, R433, R647). -/
def Obligations.LoadsAndStores : Prop :=
  (∀ (s : State) (g : EngId) (ws : List Word) (t : State), DescReady s g 9 ws t → moveOk ws = true → moveEmpty ws = false →
    mPool ws = true → ∃ u, exec (.load g) s = .next u ∧ ran t u g ws stOk ∧
      (∀ r, r < mRows ws → memRd (eng u g).rs (128 * (mLine ws + r * mStride ws)) (mBytes ws) =
        poolRd t (dieOf g) (mAddr ws + r * mGap ws) (mBytes ws)) ∧
      ∀ b, (∀ r, r < mRows ws → b < 128 * (mLine ws + r * mStride ws) ∨ 128 * (mLine ws + r * mStride ws) + mBytes ws ≤ b) →
        memByte (eng u g).rs b = memByte (eng t g).rs b) ∧
  (∀ (s : State) (g : EngId) (ws : List Word) (t : State), DescReady s g 0xA ws t → moveOk ws = true → moveEmpty ws = false →
    mPool ws = true → mBytes ws ≤ mGap ws → owes t g = false → ∃ u, exec (.store g) s = .next u ∧ ended u g ws stOk ∧ (eng u g).rs = (eng t g).rs ∧
      (∀ r, r < mRows ws → poolRd u (dieOf g) (mAddr ws + r * mGap ws) (mBytes ws) =
        rsRd t g (mLine ws + r * mStride ws) (mBytes ws)) ∧ (die u (dieOf g)).hbm = (die t (dieOf g)).hbm ∧
      (∀ b, (∀ r, r < mRows ws → b < mAddr ws + r * mGap ws ∨ mAddr ws + r * mGap ws + mBytes ws ≤ b) →
        memByte (die u (dieOf g)).pool b = memByte (die t (dieOf g)).pool b) ∧
      ∀ m : DieId, m.val ≠ dieOf g → die u m = die t m) ∧
  (∀ (s : State) (g : EngId) (ws : List Word) (t T U : State) (p : Spot) (d : DieId), T = addBusy t g → DescReady s g 9 ws t →
    moveOk ws = true → moveEmpty ws = false → mPool ws = false → mRows ws = 1 →
    grants T (engLivery T g) (mAddr ws) (mBytes ws) .read (.engine g) = .spot p U → p.place = .hbm d →
    badIn (mct U d) p.off (mBytes ws) = none → ∃ u, exec (.load g) s = .next u ∧ ended u g ws stOk ∧
      (eng u g).rs = memWr (eng t g).rs (128 * mLine ws)
        (memRd (hbmView U d (portOf U (.engine g) d) (engLivery T g)) p.off (mBytes ws)) ∧
      (∀ m : DieId, (die u m).hbm = (die t m).hbm) ∧ ∀ h : EngId, h ≠ g → eng u h = eng t h) ∧
  (∀ (s : State) (g : EngId) (ws : List Word) (t T U : State) (p : Spot) (d : DieId), T = addBusy t g →
    DescReady s g 0xA ws t → moveOk ws = true → moveEmpty ws = false → mPool ws = false → mRows ws = 1 →
    grants T (engLivery T g) (mAddr ws) (mBytes ws) .write (.engine g) = .spot p U → p.place = .hbm d →
    (mct U d).flaws = [] → (mct U d).compat = false → owes U g = false →
    queuedBursts (mct U d) + (burstsOf p.off (mBytes ws)).length ≤ 2048 → ∃ u, exec (.store g) s = .next u ∧
      ended u g ws stOk ∧ (eng u g).rs = (eng t g).rs ∧
      (mct u d).writes = (mct U d).writes ++ [{
        port := portOf U (.engine g) d, livery := engLivery T g, off := p.off, data := rsRd T g (mLine ws) (mBytes ws)
        path := linksTo U (.engine g) d, owed := false, seq := (mct U d).seq, eng := some g }] ∧
      (∀ q l, memRd (hbmView u d q l) p.off (mBytes ws) = rsRd T g (mLine ws) (mBytes ws)) ∧
      (∀ m : DieId, (die u m).hbm = (die t m).hbm) ∧ ∀ h : EngId, h ≠ g → eng u h = eng t h)

/-- HALO_SEND puts its message under way and waits; HALO_MESSAGE_ARRIVE lands it in the neighbour's mailbox and ends the sender;
HALO_RECV takes the oldest message of its tag, or waits; WAIT takes its count from the object at once where the value suffices
and nobody waits (R159-R161, R407). -/
def Obligations.HaloAndWait : Prop :=
  (∀ (s : State) (g : EngId) (ws : List Word) (t : State), DescReady s g 0xC ws t → haloOk ws = true → hMode ws = 0 →
    hPool ws = false → dFa ws = 0 → haloEmpty ws = false → ∃ u, exec (.haloSend g) s = .next u ∧
      u.flight = t.flight ++ [(g, hPeer (dieOf g) (hDir ws), !hDir ws, { tag := hTag ws, data := rsRd t g (hPlace ws) (hLen ws) })] ∧
      (eng u g).waiting = some .haloSend ∧ (eng u g).cur = some ws ∧ (eng u g).rs = (eng t g).rs ∧ u.dies = t.dies) ∧
  (∀ (s : State) (g : EngId) (n : DieId) (p : Bool) (m : HaloMsg) (ws : List Word), s.flight = [(g, n, p, m)] →
    (eng s g).cur = some ws → (eng s g).done = [] → (eng s g).late = [] → boxBytes (boxOf (die s n) p) + m.data.length ≤ 262144 →
    wayOpen s (flightWay s (g, n, p, m)) = true →
    (∀ h : EngId, (eng s h).waiting ≠ some .haloRecv) → ∃ u, exec (.haloMessageArrive g) s = .next u ∧ u.flight = [] ∧
      boxOf (die u n) p = boxOf (die s n) p ++ [m] ∧ boxOf (die u n) (!p) = boxOf (die s n) (!p) ∧ ended u g ws stOk ∧
      (∀ d : DieId, d ≠ n → die u d = die s d) ∧ ∀ h : EngId, h ≠ g → eng u h = eng s h) ∧
  (∀ (s : State) (g : EngId) (ws : List Word) (t : State) (mode : Nat) (r : Instr) (m : HaloMsg) (rest : List HaloMsg),
    (mode, r) ∈ [(0, Instr.haloRecvCopy g), (1, .haloRecvAdd g)] → DescReady s g 0xD ws t → haloOk ws = true → haloEmpty ws = false →
    hMode ws = mode → (mode = 0 → dFa ws = 0) → (mode = 1 → dFa ws = fmtInt32 ∨ dFa ws = fmtF32) →
    takeTag (hTag ws) (boxOf (die t (dieOf g)) (hDir ws)) = some (m, rest) → m.data.length = hLen ws → hPool ws = false →
    ∃ u, exec r s = .next u ∧ ended u g ws stOk ∧ boxOf (die u (dieOf g)) (hDir ws) = rest ∧
      (eng u g).rs = memWr (eng t g).rs (128 * hPlace ws) (if mode = 0 then m.data else
        (haloSum (dFa ws) (memRd (eng t g).rs (128 * hPlace ws) (hLen ws)) m.data).1) ∧
      (die u (dieOf g)).pool = (die t (dieOf g)).pool ∧ ∀ h : EngId, h ≠ g → eng u h = eng t h) ∧
  (∀ (s : State) (g : EngId) (ws : List Word) (t : State) (k : Nat), DescReady s g 0xF ws t → df ws 2 31 16 = 0 →
    zeroWords ws 4 13 = true → df ws 0 27 16 = 0 → nth ws 3 ≠ 0 → physObj t (eng t g).bctx (df ws 2 15 0) = some k →
    (obj t k).st = 1 → (nth ws 3).toNat ≤ (obj t k).limit → (obj t k).waiters = [] →
    ((nth ws 3).toNat ≤ (obj t k).value → ∃ u, exec (.wait g) s = .next u ∧ ended u g ws stOk ∧
      obj u k = { obj t k with value := (obj t k).value - (nth ws 3).toNat } ∧ ∀ h : EngId, h ≠ g → eng u h = eng t h) ∧
    ((obj t k).value < (nth ws 3).toNat → ∃ u, exec (.wait g) s = .next u ∧ (eng u g).waiting = some (.object k) ∧
      (eng u g).cur = some ws ∧ obj u k = { obj t k with waiters := [.engine g (nth ws 3).toNat] }))

/-- DESCRIPTOR_COMPLETE reports the oldest completion, once every write of the engine has been acknowledged; at a milepost the
stores hold nothing defined any more and head is saved. WEIGHT_FETCH starts on the next descriptor of the open command; hangs
and repeated mismatches withdraw an engine from the next tick; the self-test slices (R151, R168, R170, R378, R411, R504, R505,
R507, R508, R645). -/
def Obligations.EngineEvents : Prop :=
  (∀ (s : State) (g : EngId) (c : Completion) (r : List Completion), (eng s g).done = c :: r → (eng s g).cur = none → owes s g = false →
    (eng s g).bindDue = false → s.dis.issued = [] → s.stg.inlay = false → ∃ u, exec (.descriptorComplete g) s = .next u ∧ (eng u g).done = r ∧
      .record (recordWords g c) ∈ u.out ∧ (tbit (nth c.words 14) 31 = true → c.status.toNat < 0x10 →
        (eng u g).sigs = (eng s g).sigs ++ [(c.ctx, fld (nth c.words 14) 15 0)]) ∧
      (tbit (nth c.words 14) 31 = false ∨ 0x10 ≤ c.status.toNat → (eng u g).sigs = (eng s g).sigs) ∧
      (tbit (nth c.words 0) 31 = true → (queue u c.queue).mphead = c.head ∧ ∃ ep, (eng u g).rs = { cells := [], fill := .free ep }) ∧
      (tbit (nth c.words 0) 31 = false → (eng u g).rs = (eng s g).rs) ∧
      ((∀ n : DieId, (mct s n).writes = []) → ∀ h : EngId, h ≠ g → eng u h = eng s h)) ∧
  (∀ (s : State) (g : EngId) (c : Completion) (r : List Completion), (eng s g).done = c :: r → owes s g = true →
    exec (.descriptorComplete g) s = .next s) ∧
  (∀ (s t : State) (g : EngId) (ws : List Word) (count addr need : Nat), nextWeights s g = some (ws, count, t) →
    streamOf ws = some (addr, need) → (eng s g).pref = none → ∃ u, exec (.weightFetch g) s = .next u ∧
      (∃ f, (eng u g).pref = some f ∧ f.count = count ∧ f.addr = addr ∧
        (f.ended = none → min need 262144 ≤ f.bytes.length)) ∧ (eng u g).rs = (eng s g).rs ∧
      ∀ h : EngId, h ≠ g → eng u h = eng s h) ∧
  (∀ (s : State) (g : EngId), executing (eng s g) = true → (eng s g).withdrawn = false → (eng s g).cut = false → ∃ u, exec (.engineHang g) s = .next u ∧
    (eng u g).hung = true ∧ (eng u g).wdrawNext = true ∧ (eng u g).openCmd = false ∧ (eng u g).rs = (eng s g).rs ∧
    (inSvc s.sia = true → ∃ q, u.sia.flog.head? = some q ∧ q.2.cls = 3 ∧ q.2.unit = dieOf g ∧ q.2.sub = g.val % 8)) ∧
  (∀ (s : State) (g : EngId) (x : List Word × Bool × State), executing (eng s g) = false → nextDesc s g = some x →
    ∃ u, exec (.engineHang g) s = .next u ∧ (eng u g).hung = true ∧ (eng u g).wdrawNext = true ∧ (eng u g).openCmd = false ∧
      ∃ c ∈ (eng u g).done, c.words = x.1 ∧ c.status = stInternal) ∧
  (∀ (s : State) (g : EngId), 3 ≤ histCount 1000 s.stg.stage (eng s g).mismAt → (eng s g).withdrawn = false →
    (eng s g).wdrawNext = false → ∃ u, exec (.engineWithdraw g) s = .next u ∧ (eng u g).wdrawNext = true ∧ (eng u g).mismAt = (eng s g).mismAt ∧
      (eng u g).wdrawAt = histAdd 100000 s.stg.stage (eng s g).wdrawAt ∧ ∀ h : EngId, h ≠ g → eng u h = eng s h) ∧
  (∀ (s : State) (g : EngId), mayTest s g = true →
    exec (.selftestSlice g) s = .next (modEng s g (fun e => { e with st := 4 }))) ∧
  (∀ (s : State) (g : EngId), (eng s g).st = 4 → s.dis.reexec = [] → ∃ u, exec (.selftestSliceEnd g true) s = .next u ∧
    (eng u g).stSlice = ((eng s g).stSlice + 1) % 16 ∧ (eng u g).ranDue = true ∧ (eng u g).stFail = (eng s g).stFail ∧
    ((eng s g).stSlice = 15 → (eng u g).stDefer = 0 ∧ (eng u g).stSince = 0) ∧ u.dis = s.dis ∧
    ∀ h : EngId, h ≠ g → eng u h = eng s h) ∧
  (∀ (s : State) (g : EngId), (eng s g).st = 4 → (eng s g).withdrawn = false → s.dis.reexec = [] → ∃ u,
    exec (.selftestSliceEnd g false) s = .next u ∧
    (eng u g).stFail = true ∧ (eng u g).wdrawNext = true ∧ u.dis.incomplete = true ∧ (eng u g).stSlice = (eng s g).stSlice) ∧
  (∀ (s : State) (g : EngId), 64 ≤ (eng s g).stDefer →
    exec (.selftestDeferLimit g) s = .next (modEng s g (fun e => { e with outDue := true })))

/-! The page manager (07) and the motion planner (08). -/

/-- KV_ALLOC takes FREE descriptors, all or none; KV_FREE and KV_SHARE count references, with RELEASING at 0, underflow and the
saturated, pinned page; KV_QUERY and KV_STATS report; clrhwm sets the high-water mark to the pages in use (R254, R267, R282,
Table 7-8). -/
def Obligations.PageManager : Prop :=
  (∀ (s : State) (p : Port) (k : Pkt) (is : List Nat) (t : State), Ready s p 7 0 2 k → parN k 0 ≤ 256 → fld (par k 1) 31 28 = 0 →
    fld (par k 1) 27 24 ≤ 9 → pageFmt (fld (par k 1) 23 20) = true → fld (par k 1) 19 16 ≤ 11 →
    headOk (fld (par k 1) 23 20) (fld (par k 1) 15 0) = true →
    pageCap (fld (par k 1) 27 24) (fld (par k 1) 23 20) (fld (par k 1) 15 0) ≠ 0 → dieInSvc s (fld (par k 1) 19 16) = true →
    allocMany (fld (par k 1) 27 24) (fld (par k 1) 23 20) (fld (par k 1) 19 16) (fld (par k 1) 15 0) (pktCtx k) (parN k 0)
      (took s p k) [] = some (is, t) → is ≠ [] →
    exec (.kvAlloc p) s = .next (answered p k stOk (is.map toW) t) ∧ t = { took s p k with kpm := t.kpm, free := t.free } ∧
      is.length = parN k 0 ∧ is.Nodup ∧ (∀ i ∈ is, i < 524288 ∧ (page s i).st = 0 ∧ (page t i).st = 1 ∧ (page t i).refs = 1 ∧
        (page t i).filled = 0 ∧ (page t i).ctx = pktCtx k ∧ (page t i).die = fld (par k 1) 19 16) ∧
      ∀ i, i ∉ is → page t i = page s i) ∧
  (∀ (s : State) (p : Port) (k : Pkt), Ready s p 7 0 2 k → 1 ≤ parN k 0 → parN k 0 ≤ 256 → fld (par k 1) 31 28 = 0 →
    fld (par k 1) 27 24 ≤ 9 → pageFmt (fld (par k 1) 23 20) = true → fld (par k 1) 19 16 ≤ 11 →
    headOk (fld (par k 1) 23 20) (fld (par k 1) 15 0) = true →
    pageCap (fld (par k 1) 27 24) (fld (par k 1) 23 20) (fld (par k 1) 15 0) ≠ 0 → dieInSvc s (fld (par k 1) 19 16) = true →
    bankGet 0 s.kpm.quotas (pktCtx k) ≤ ctxPages s (pktCtx k) →
    exec (.kvAlloc p) s = .next (refused p k stNoResource 11 0xFFFF
      { took s p k with kpm := { s.kpm with noalloc := true } })) ∧
  (∀ (s : State) (p : Port) (k : Pkt) (r : Page), Ready s p 7 1 2 k → parN k 0 = 1 → parN k 1 < 524288 → page s (parN k 1) = r →
    r.ctx = pktCtx k →
    (r.refs = 0 → exec (.kvFree p) s = .next (answered p k stUnderflow [0]
      { took s p k with kpm := { s.kpm with under := true } })) ∧
    (r.refs ≠ 0 → r.pinned = true → exec (.kvFree p) s = .next (answered p k stSaturated [toW r.refs] (took s p k))) ∧
    (r.refs ≠ 0 → r.pinned = false → exec (.kvFree p) s = .next (answered p k stOk [toW (r.refs - 1)]
      (setPage (took s p k) (parN k 1) { r with
        refs := r.refs - 1, st := if r.refs = 1 ∧ r.st = 1 then 2 else r.st })))) ∧
  (∀ (s : State) (p : Port) (k : Pkt) (r : Page), Ready s p 7 2 2 k → parN k 0 = 1 → parN k 1 < 524288 → page s (parN k 1) = r →
    r.ctx = pktCtx k →
    (r.st ≠ 1 → exec (.kvShare p) s = .next (refused p k stNotReady 11 0xFFFF (took s p k))) ∧
    (r.st = 1 → r.refs < 65535 → exec (.kvShare p) s = .next (answered p k stOk [toW (r.refs + 1)]
      (setPage (took s p k) (parN k 1) { r with refs := r.refs + 1 }))) ∧
    (r.st = 1 → r.refs = 65535 → ∃ t, exec (.kvShare p) s = .next (answered p k stSaturated [0xFFFF] t) ∧ t.kpm.sat = true ∧
      page t (parN k 1) = { r with pinned := true } ∧ ∀ i, i ≠ parN k 1 → page t i = page s i)) ∧
  (∀ (s : State) (p : Port) (k : Pkt) (c o n : Nat) (r : Instr), (o, n, r) ∈ [(1, 2, Instr.kvFree p), (2, 2, .kvShare p)] → c = 7 →
    Ready s p c o n k → parN k 0 = 1 → parN k 1 < 524288 → (page s (parN k 1)).ctx ≠ pktCtx k →
    exec r s = .next (refused p k stFirewall 10 5 (took s p k))) ∧
  (∀ (s : State) (p : Port) (k : Pkt), Ready s p 7 3 2 k → parN k 0 + parN k 1 ≤ 524288 → 1 ≤ parN k 1 → parN k 1 ≤ 2047 →
    exec (.kvQuery p) s = .next (answered p k stOk ((List.range (parN k 1)).flatMap (fun i =>
      if (page s (parN k 0 + i)).ctx = pktCtx k then pageWords (page s (parN k 0 + i)) else List.replicate 8 0)) (took s p k))) ∧
  (∀ (s : State) (p : Port) (k : Pkt), Ready s p 7 4 0 k →
    exec (.kvStats p) s = .next (answered p k stOk ([toW (usedPages s), toW s.kpm.hwm, toW s.kpm.cow,
      toW (bankGet 0 s.kpm.quotas (pktCtx k)), toW (ctxPages s (pktCtx k))] ++ (List.range 12).map (fun n => toW (heapFree s n)))
      (took s p k))) ∧
  (∀ s : State, opened s (.iod 5) = true → exec .kpmClrhwm s = .next { s with kpm := { s.kpm with hwm := usedPages s } })

/-- A commit of the planner's configuration takes a good set of shadows and drops a bad one whole; during a search an explicit
commit is ignored, and that of a stage boundary takes the shadows as the boundary found them once the search has ended (R11,
R321, R322). A mismatch counted in the cycle of clrck reads 1 (R324). MPL_CFG writes values and shadows; class 0x5 is refused on
other contexts (R320); held writes reach the planner's memory when the build or search has ended (R289, R294). -/
def Obligations.PlannerConfiguration : Prop :=
  (∀ s : State, opened s (.iod 6) = true → (s.mpl.search = none → s.mpl.defCommit = none → cfgBad s.mpl.shadow = none →
      exec .mplCommit s = .next { s with mpl := { s.mpl with cfg := s.mpl.shadow } }) ∧
    (s.mpl.search = none → s.mpl.defCommit = none → cfgBad s.mpl.shadow ≠ none →
      exec .mplCommit s = .next { s with mpl := { s.mpl with shadow := s.mpl.cfg, badcfg := true } }) ∧
    (s.mpl.search ≠ none → exec .mplCommit s = .next { s with mpl := { s.mpl with busywr := true } })) ∧
  (∀ (s : State) (ws : List Word), s.mpl.defCommit = some ws → s.mpl.search = none →
    (cfgBad ws = none → exec .mplDeferredCommit s = .next { s with mpl := { s.mpl with defCommit := none, cfg := ws } }) ∧
    (cfgBad ws ≠ none → ws.length = 11 → s.mpl.shadow.length = 11 → s.mpl.cfg.length = 11 → ∃ t, exec .mplDeferredCommit s = .next t ∧
      t = { s with mpl := { s.mpl with defCommit := none, shadow := t.mpl.shadow, badcfg := true } } ∧
      ∀ i, i < 11 → nth t.mpl.shadow i = if nth s.mpl.shadow i = nth ws i then nth s.mpl.cfg i else nth s.mpl.shadow i)) ∧
  (∀ (s : State) (hit : Bool), opened s (.iod 6) = true →
    exec (.mplClrck hit) s = .next { s with mpl := { s.mpl with maxns := 0, ckMism := b2n hit } }) ∧
  (∀ (s : State) (r : Instr), (r = .mplCommit ∨ ∃ hit, r = .mplClrck hit) → opened s (.iod 6) = false → exec r s = .next s) ∧
  (∀ (s : State) (p : Port) (k : Pkt), Ready s p 5 0 11 k → planCtx s k = true → cfgBad (mplMask (parsFrom k 0)) = none →
    s.mpl.search = none → s.mpl.defCommit = none → exec (.mplCfg p) s = .next (answered p k stOk [] { took s p k with
      mpl := { s.mpl with cfg := mplMask (parsFrom k 0), shadow := mplMask (parsFrom k 0) } })) ∧
  (∀ (s : State) (p : Port) (k : Pkt) (ev : CheckEvent) (o n : Nat) (r : Instr),
    (o, n, r) ∈ [(0, 11, Instr.mplCfg p), (1, 5, .mplSearch (.packet p)), (2, 1, .mplCheck p ev), (3, 2, .mplCandidates p),
      (4, 0, .mplStatus p)] → Ready s p 5 o n k → (o = 1 → tbit (par k 0) 0 = false) → (o = 2 → tbit (par k 0) 31 = false) →
    planCtx s k = false → exec r s = .next (refused p k stFirewall 10 1 (took s p k))) ∧
  (∀ (s : State) (p : Port) (k : Pkt), Ready s p 5 4 0 k → planCtx s k = true →
    exec (.mplStatus p) s = .next (answered p k stOk (mplWords s.mpl) (took s p k))) ∧
  (∀ (s : State) (p : Port) (k : Pkt), Ready s p 5 3 2 k → planCtx s k = true → 1 ≤ parN k 1 → parN k 0 + parN k 1 ≤ 8 →
    parN k 0 + parN k 1 ≤ currentCands s.mpl → exec (.mplCandidates p) s = .next (answered p k stOk
      ((List.range (parN k 1)).flatMap (fun i => trajUsed (slotWords s (parN k 0 + i)))) (took s p k))) ∧
  (∀ (s : State) (w : HeldWrite) (r : List HeldWrite), s.mpl.heldOcc = w :: r → building s.mpl = false → w.eng = none →
    exec .occupancyWriteRelease s = .next { s with
      mpl := { s.mpl with heldOcc := r, sram := memWr s.mpl.sram w.addr w.data }
      out := if w.owed then .fabric w.livery stOk [] :: s.out else s.out }) ∧
  (∀ (s : State) (w : HeldWrite) (r : List HeldWrite), s.mpl.heldPrim = w :: r → running s.mpl = none → w.eng = none →
    exec .primitiveWriteRelease s = .next { s with
      mpl := { s.mpl with heldPrim := r, sram := memWr s.mpl.sram w.addr w.data }
      out := if w.owed then .fabric w.livery stOk [] :: s.out else s.out }) ∧
  (∀ (s : State) (w : HeldWrite) (r : List HeldWrite) (g : EngId), w.eng = some g →
    (s.mpl.heldOcc = w :: r → building s.mpl = false → ∃ t, exec .occupancyWriteRelease s = .next t ∧
      t.mpl = { s.mpl with heldOcc := r, sram := memWr s.mpl.sram w.addr w.data } ∧ t.out = s.out ∧ t.dies = s.dies) ∧
    (s.mpl.heldPrim = w :: r → running s.mpl = none → ∃ t, exec .primitiveWriteRelease s = .next t ∧
      t.mpl = { s.mpl with heldPrim := r, sram := memWr s.mpl.sram w.addr w.data } ∧ t.out = s.out ∧ t.dies = s.dies))

/-- A search takes its configuration when it is accepted, and clears slots 0 to 8 when it starts (R292, R314); a build reads the
occupancy area as it starts (R289) and is published as a whole, upon which its search starts (R291); a search ends for its
reason with its candidates ranked by cost (R309, R314), by the stage deadline of its own part of the stage (R311). -/
def Obligations.Searches : Prop :=
  (∀ (s : State) (p : Port) (k : Pkt), Ready s p 5 1 5 k → planCtx s k = true → fld (par k 0) 31 1 = 0 →
    (tbit (par k 0) 0 = false → par k 3 = 0 ∧ par k 4 = 0 ∧ s.mpl.fieldv = true) → s.mpl.search = none → s.stg.inlay = false →
    s.mpl.st ≠ 0 → ∃ u, SearchBegun (flushMpl (took s p k)) u (.packet p) (some k) (parsFrom k 0) ∧
      exec (if tbit (par k 0) 0 then .mplSearchBuild (.packet p) else .mplSearch (.packet p)) s = .next (deferred p k .search u)) ∧
  (∀ (s : State) (ps : List Word), fld (nth ps 0) 31 1 = 0 →
    (tbit (nth ps 0) 0 = false → nth ps 3 = 0 ∧ nth ps 4 = 0 ∧ s.mpl.fieldv = true) → s.mpl.search = none →
    s.mpl.st ≠ 0 → ∃ u, SearchBegun (flushMpl s) u (.timetable ps) none ps ∧
      exec (if tbit (nth ps 0) 0 then .mplSearchBuild (.timetable ps) else .mplSearch (.timetable ps)) s = .next u) ∧
  (∀ (s : State) (q : Search), s.mpl.search = some q → q.waiting = true → s.mpl.sram.fill = .byte 0 →
    ∃ t, exec .fieldBuildStart s = .next t ∧ t.mpl.search = some { q with waiting := false, building := true } ∧
      frontField t.mpl = frontField s.mpl ∧ (∀ b, b < 0x100000 → memByte (backField t.mpl).occ b = memByte s.mpl.sram (0x1600000 + b)) ∧
      (backField t.mpl).infl = (planCfg q.cfg).infl ∧ t.mpl.sram = s.mpl.sram ∧ t = { s with mpl := t.mpl }) ∧
  (∀ (s : State) (q : Search), s.mpl.search = some q → q.building = true →
    ∃ t, exec .fieldPublish s = .next t ∧ t.mpl.front = !s.mpl.front ∧ t.mpl.gen = (s.mpl.gen + 1) % 2 ^ 24 ∧
      t.mpl.ref = q.t0 ∧ t.mpl.fieldv = true ∧ t.mpl.search = some { q with building := false } ∧
      frontField t.mpl = { backField s.mpl with built := true, gen := (s.mpl.gen + 1) % 2 ^ 24 } ∧
      backField t.mpl = frontField s.mpl ∧ t.mpl.st = 3 ∧ t.mpl.current = false ∧
      (∀ b, slotBase 0 ≤ b → b < slotBase 9 → memByte t.mpl.sram b = 0) ∧
      sameOutside s.mpl.sram t.mpl.sram (slotBase 0) (9 * 2048) ∧ t = { s with mpl := t.mpl, free := t.free }) ∧
  (∀ (s : State) (q : Search) (lim : Option Nat) (r : Instr) (o : SRun × Nat × Nat), running s.mpl = some q →
    searchNow s q lim = o → (r = .searchEnd ∧ lim = none ∨ r = .searchTimeBudget ∧ lim = none ∧ o.2.1 = 2 ∨
      ∃ c, r = .searchStageDeadline c ∧ lim = some c ∧ o.2.1 = 3 ∧ q.layover = s.stg.inlay ∧ s.stg.cutoffPast = false) →
    ∃ t, exec r s = .next t ∧ t.mpl = { s.mpl with
        st := 1, search := none, sstat := (searchStatus (rankCands o.1).length o.2.1).toNat, cands := (rankCands o.1).length
        candsHeld := (rankCands o.1).length, reason := o.2.1, pops := o.1.pops, qpeak := o.1.peak, evict := min o.1.evict 65535
        drop := min o.1.drop 65535, current := true, ended := true, gateOpen := s.mpl.gateOpen || s.stg.inlay
        sram := t.mpl.sram } ∧
      (rankCands o.1).Pairwise (fun a b => a.2.g ≤ b.2.g) ∧ t.stg = s.stg ∧ t.tt = s.tt ∧ t.dies = s.dies ∧ t.fus = s.fus ∧
      (s.hpt.inbound = [] → t.sia = s.sia ∧ t.sib = s.sib) ∧
      (rankCands o.1 ≠ [] → drew s t .search stOk (summaryWords o.1 (rankCands o.1) o.2.1 o.2.2 (frontField s.mpl).gen)))

/-- A trajectory is clear when every pose has a clearance of 0 or more; a check reports the smallest clearance and the first
pose whose clearance is negative, or 0xFF for none (R297). -/
def Obligations.TrajectoryClear : Prop :=
  ∀ (c : PlanCfg) (f : Field) (ps : List Pose), ps.length ≤ 64 →
    ((checkPoses c f ps).clear = true ↔ ∀ q ∈ ps, 0 ≤ poseClr c f q) ∧
    (∀ q ∈ ps, (checkPoses c f ps).clr ≤ poseClr c f q) ∧ (ps ≠ [] → ∃ q ∈ ps, poseClr c f q = (checkPoses c f ps).clr) ∧
    ((∃ q ∈ ps, poseClr c f q < 0) → (∃ q, ps[(checkPoses c f ps).first]? = some q ∧ poseClr c f q < 0) ∧
      ∀ i, i < (checkPoses c f ps).first → ∀ q, ps[i]? = some q → 0 ≤ poseClr c f q) ∧
    ((∀ q ∈ ps, 0 ≤ poseClr c f q) → (checkPoses c f ps).first = 0xFF)

/-- MPL_CHECK reports the check of a slot, MPL_CHECK_INLINE that of inline poses, which go to slot 15 (R292, Table 8-8); an
event of R300 makes the check report not clear. -/
def Obligations.ClearanceChecks : Prop :=
  (∀ (s : State) (p : Port) (k : Pkt) (ws : List Word), Ready s p 5 2 1 k → fld (par k 0) 31 4 = 0 → planCtx s k = true →
    s.mpl.fieldv = true → slotWords s (fld (par k 0) 3 0) = ws → 1 ≤ trajCount ws → trajCount ws ≤ 64 →
    exec (.mplCheck p .clean) s = .next (answered p k stOk
      ([toW (b2n (checkNow s (wordsTraj ws).poses).clear), checkWord (checkNow s (wordsTraj ws).poses) (trajCount ws), toW s.mpl.gen]
        ++ two s.mpl.ref) (took s p k)) ∧
    ∀ ev, ev ≠ .clean → ∃ data t, exec (.mplCheck p ev) s = .next (answered p k (if ev = .word then stBadCheck else stInternal) data t) ∧
      data.head? = some 0 ∧ t.mpl.sram = s.mpl.sram ∧ (ev = .lanes → t.mpl.mism = true ∧ t.mpl.ckMism = min 255 (s.mpl.ckMism + 1))) ∧
  (∀ (s : State) (p : Port) (k : Pkt) (n : Nat), Ready s p 5 2 (2 + 4 * n) k → parN k 1 = n → tbit (par k 0) 31 = true →
    fld (par k 0) 30 4 = 0 → planCtx s k = true → s.mpl.fieldv = true → 1 ≤ n → n ≤ 64 →
    ∃ t, exec (.mplCheckInline p .clean) s = .next (answered p k stOk
        ([toW (b2n (checkNow s (wordsPoses (parsFrom k 2))).clear), checkWord (checkNow s (wordsPoses (parsFrom k 2))) n,
          toW s.mpl.gen] ++ two s.mpl.ref) t) ∧
      t = { took s p k with mpl := { s.mpl with sram := t.mpl.sram }, free := t.free } ∧
      sameOutside s.mpl.sram t.mpl.sram (slotBase 15) (16 + 16 * n))

/-- The urgent ports answer a good request with its slot's check, count the alive value on, and refuse a wrong check word or
alive value without a check (R302, R303); an island asks for no slot but its own and slot 9 (R478). The output gate takes the
first clear candidate in rank order, copies it with its results into slot 9 and reports it to both islands; without one it
records why (R317). -/
def Obligations.UrgentChecksAndOutputGate : Prop :=
  (∀ (s : State) (i : Isl) (req : List Word) (ns : Nat) (ws : List Word), s.mpl.st ≠ 0 → hears s i = true →
    asked i (isl s i) req = true → req.length = 8 → sealOk req = true → fld (nth req 1) 7 0 = (urgAlive s.mpl i).toNat → fld (nth req 0) 31 4 = 0x100000 →
    fld (nth req 1) 15 8 = 0 → ((req.drop 2).take 5).any (· != 0) = false → s.mpl.fieldv = true →
    slotWords s (fld (nth req 0) 3 0) = ws → 1 ≤ trajCount ws → trajCount ws ≤ 64 →
    ∃ t m, exec (.urgentCheckRequest i req .clean ns) s = .next t ∧
      m = urgentReplyWords req stOk (checkNow s (wordsTraj ws).poses).clear
        (checkWord (checkNow s (wordsTraj ws).poses) (trajCount ws) :: [toW s.mpl.gen] ++ two s.mpl.ref) ns ∧
      t.out = .urgent i m :: s.out ∧ isl t i = { isl s i with urgReply := (isl s i).urgReply ++ [m] } ∧
      isl t (otherIsl i) = isl s (otherIsl i) ∧ urgAlive t.mpl i = urgAlive s.mpl i + 1 ∧
      urgAlive t.mpl (otherIsl i) = urgAlive s.mpl (otherIsl i) ∧ t.mpl.sram = s.mpl.sram ∧
      t.mpl.maxns = max s.mpl.maxns (min ns 4095)) ∧
  (∀ (s : State) (i : Isl) (req : List Word) (ev : CheckEvent) (ns : Nat) (st : Byte), s.mpl.st ≠ 0 → hears s i = true →
    asked i (isl s i) req = true → (st = stBadCheck ∧ (req.length ≠ 8 ∨ sealOk req = false) ∨
      st = stStaleAlive ∧ req.length = 8 ∧ sealOk req = true ∧ fld (nth req 1) 7 0 ≠ (urgAlive s.mpl i).toNat) →
    ∃ t mid, exec (.urgentCheckRequest i req ev ns) s = .next t ∧
      t.out = .urgent i (urgentReplyWords req st false mid ns) :: s.out ∧ t.mpl = s.mpl ∧
      isl t (otherIsl i) = isl s (otherIsl i)) ∧
  (∀ (s : State) (i : Isl) (req : List Word) (ev : CheckEvent) (ns : Nat), req.length = 8 → sealOk req = true →
    fld (nth req 0) 3 0 ≠ ownSlot i → fld (nth req 0) 3 0 ≠ 9 → exec (.urgentCheckRequest i req ev ns) s = .next s) ∧
  (∀ (s : State) (r : Nat), gateDue s = true → r < currentCands s.mpl →
    (checkNow s (wordsTraj (trajUsed (slotWords s r))).poses).clear = true →
    (∀ q, q < r → (checkNow s (wordsTraj (trajUsed (slotWords s q))).poses).clear = false) →
    ∃ t w, exec (.outputGate .clean) s = .next t ∧
      w = gatedWords s (trajUsed (slotWords s r)) (checkNow s (wordsTraj (trajUsed (slotWords s r))).poses) ∧
      t.mpl = { s.mpl with gateOpen := false, gstat := 0, grank := r, sram := memWrW s.mpl.sram (slotBase 9) w } ∧
      (∀ i, isl t i = if (isl s i).linkUp then { isl s i with
          reportQ := (isl s i).reportQ ++ [sealW [toW (at_ 0 24 + at_ r 8 + b2n (stageComplete s)), toW s.stg.stage, toW s.mpl.gen,
            crcW w]] } else isl s i) ∧
      t.stg = s.stg ∧ t.dis = s.dis ∧ t.out = s.out) ∧
  (∀ s : State, gateDue s = true →
    (∀ q, q < currentCands s.mpl → (checkNow s (wordsTraj (trajUsed (slotWords s q))).poses).clear = false) →
    ∃ t, exec (.outputGate .clean) s = .next t ∧ t.mpl.grank = 15 ∧ t.mpl.gateOpen = false ∧ t.mpl.sram = s.mpl.sram ∧
      (0 < currentCands s.mpl → t.mpl.gstat = stCandidateLost.toNat) ∧
      (currentCands s.mpl = 0 → s.mpl.ended = true → t.mpl.gstat = s.mpl.sstat % 256) ∧
      (currentCands s.mpl = 0 → s.mpl.ended = false → t.mpl.gstat = stNotReady.toNat) ∧
      (∀ i, (isl s i).linkUp = true → ∃ w, (isl t i).reportQ = (isl s i).reportQ ++ [w] ∧ fld (nth w 0) 11 8 = 15) ∧
      t.stg = s.stg ∧ t.dis = s.dis ∧ t.out = s.out) ∧
  (∀ (s : State) (ev : CheckEvent), gateDue s = true → 0 < currentCands s.mpl → ev ≠ .clean →
    ∃ t, exec (.outputGate ev) s = .next t ∧ t.mpl.gateOpen = false ∧ t.mpl.grank ≠ 0)

/-! The safety islands and the ring edges (13); losses and resets (14, 16, 18). -/

/-- State messages go out and come in, a lapsed heartbeat and a lockstep mismatch fail an island, a FAILED island is reset by
the other one, which becomes SOLE; a lapse of the cross-monitor link alone changes no state (R460-R463). -/
def Obligations.IslandMessages : Prop :=
  (∀ (s : State) (i : Isl), (isl s i).inReset = false → ∃ t, exec (.stateMessageSend i) s = .next t ∧
    t.out = .xmon i (stateWords (isl s i)) :: s.out ∧ isl t i = { isl s i with msgSeq := (isl s i).msgSeq + 1 } ∧
    isl t (otherIsl i) = isl s (otherIsl i) ∧
    (∀ e, edge t e = if reaches s i e then setSeen (edge s e) i (reportedState (isl s i)) else edge s e) ∧
    t = { s with out := t.out, edgeA := t.edgeA, edgeB := t.edgeB, sia := t.sia, sib := t.sib }) ∧
  (∀ (s : State) (i : Isl) (m : List Word) (st : Nat), (isl s i).inReset = false → m.length = 5 → sealOk m = true →
    fld (nth m 0) 3 0 = st → (st ≠ 4 ∨ mayOrder (isl s i) = false) →
    ∃ t, exec (.islandStateMessage i m) s = .next t ∧ (isl t i).other = st ∧
      (isl t i).st = (if inSvc (isl s i) then (if st = 2 ∨ st = 3 then 2 else 3) else (isl s i).st) ∧
      (isl t i).differ = (if 1 < stageGap (nth m 1).toNat (isl s i).rep.stage then (isl s i).differ + 1 else 0) ∧
      isl t (otherIsl i) = isl s (otherIsl i) ∧ t = { s with sia := t.sia, sib := t.sib }) ∧
  (∀ (s : State) (i : Isl) (m : List Word), (isl s i).inReset = false → m.length = 5 → sealOk m = true →
    fld (nth m 0) 3 0 = 4 → mayOrder (isl s i) = true →
    ∃ t, exec (.islandStateMessage i m) s = .next t ∧ (isl t i).st = (if inSvc (isl s i) then 3 else (isl s i).st) ∧ (isl t (otherIsl i)).inReset = true ∧
      (isl t (otherIsl i)).st = 0 ∧ (isl t (otherIsl i)).flash = (isl s (otherIsl i)).flash ∧ t.hpt = s.hpt ∧ t.stg = s.stg ∧
      ∀ n : DieId, (die t n).inService = (die s n).inService ∧ (die t n).hbm = (die s n).hbm) ∧
  (∀ (s : State) (i : Isl) (now : Nat), (isl s i).inReset = false → (isl s i).beatLapsed = false →
    (∀ b, (isl s i).beatAt = some b → b + 200000 ≤ now) → ∃ t, exec (.heartbeatLapse i now) s = .next t ∧
      (isl t i).beatLapsed = true ∧ (isl t i).st = 4 ∧
      (isl t (otherIsl i)).st = (isl s (otherIsl i)).st ∧ t.dies = s.dies ∧ t.edgeA = s.edgeA ∧ t.edgeB = s.edgeB ∧
      (inSvc (isl s (otherIsl i)) = true → logged t (otherIsl i) (fun q => q.cls = 0x0D ∧ q.unit = islUnit i))) ∧
  (∀ (s : State) (i : Isl) (d : Bool), (isl s i).inReset = false → (d = true → 2 ≤ (isl s i).differ) →
    ∃ t, exec (.xmonLapse i d) s = .next t ∧ (isl t i).xmerr = true ∧ (∀ j, (isl t j).st = (isl s j).st ∧
      (isl t j).inReset = (isl s j).inReset) ∧ t.dies = s.dies ∧
      (inSvc (isl s i) = true → logged t i (fun q => q.unit = islUnit (otherIsl i)))) ∧
  (∀ (s : State) (i : Isl), (isl s i).inReset = false → ∃ t, exec (.lockstepMismatch i) s = .next t ∧
    (isl t i).inReset = true ∧ (isl t i).st = 0 ∧ (isl t i).flash = (isl s i).flash ∧
    (isl t (otherIsl i)).st = (if inSvc (isl s (otherIsl i)) then 3 else (isl s (otherIsl i)).st) ∧
    ∀ n : DieId, (die t n).inService = (die s n).inService ∧ (die t n).hbm = (die s n).hbm) ∧
  (∀ (s : State) (i : Isl) (now : Nat), ∃ t, exec (.sisBeat i now) s = .next t ∧ isl t i = { isl s i with beatAt := some now } ∧
    isl t (otherIsl i) = isl s (otherIsl i) ∧ t = { s with vtime := t.vtime, sia := t.sia, sib := t.sib }) ∧
  (∀ (s : State) (i : Isl) (w d to_ : Bool), ∃ t, exec (.sisClrcnt i w d to_) s = .next t ∧
    isl t i = { isl s i with withheld := b2n w, disagree := b2n d, maxns := 0, timeouts := b2n to_ } ∧
    isl t (otherIsl i) = isl s (otherIsl i) ∧ t = { s with sia := t.sia, sib := t.sib })

/-- The steps of Table 13-13: a gate report with a proposal starts the check of step 1, a report at step 5 restarts it (R480),
no report starts at step 2, and where no frame link of the held record stands leaves step 3; a clear check holds the proposal as
the drag shoe, a good check of slot 9 sends the release, a check without reply is sent four times (R478, R479); a record of the
island RAM that fails its check fails the island (R465). -/
def Obligations.IslandSteps : Prop :=
  (∀ (s : State) (i : Isl) (r : List Word) (q : List (List Word)), (isl s i).reportQ = r :: q → inSvc (isl s i) = true →
    reportOk (isl s i) r = true → (isl s i).cutoff = false → (isl s i).step = .idle → (isl s i).report = none →
    (isl s i).late = false → reachesMpl s i = true → isProposal (slotWords s 12) (fld (nth r 2) 23 0) = true →
    ∃ t, exec (.gateReport i false) s = .next t ∧ isl t i = { isl s i with
        reportQ := q, report := some r, step := .proposal, tries := 1, urgSeq := (isl s i).urgSeq + 1
        aliveNext := (isl s i).aliveNext + 1 } ∧
      t.mpl = { s.mpl with sram := memWrW s.mpl.sram (slotBase (ownSlot i)) (trajUsed (slotWords s 12)) } ∧
      isl t (otherIsl i) = isl s (otherIsl i) ∧ t = { s with sia := t.sia, sib := t.sib, mpl := t.mpl }) ∧
  (∀ (s : State) (i : Isl) (r : List Word) (q : List (List Word)), (isl s i).reportQ = r :: q → inSvc (isl s i) = true →
    hears s i = true → reportOk (isl s i) r = true → (isl s i).cutoff = false → (isl s i).step = .candidate → tbit (nth r 0) 0 = true →
    fld (nth r 0) 11 8 ≠ 15 → ∃ t, exec (.gateReport i false) s = .next t ∧ isl t i = { isl s i with
        reportQ := q, report := some r, mism := false, restarts := min 255 ((isl s i).restarts + 1), tries := 1
        urgSeq := (isl s i).urgSeq + 1, aliveNext := (isl s i).aliveNext + 1 } ∧
      isl t (otherIsl i) = isl s (otherIsl i) ∧ t = { s with sia := t.sia, sib := t.sib }) ∧
  (∀ (s : State) (i : Isl) (r : List Word) (q : List (List Word)), (isl s i).reportQ = r :: q → inSvc (isl s i) = true →
    hears s i = true → ∃ t, exec (.gateReport i true) s = .next t ∧ (isl t i).st = 4 ∧ (isl t i).hrerr = true ∧ (isl t i).reportQ = q ∧
      (isl t (otherIsl i)).st = (isl s (otherIsl i)).st ∧ t.mpl = s.mpl ∧ t.dies = s.dies) ∧
  (∀ (s : State) (i : Isl), inSvc (isl s i) = true → (isl s i).report = none → (isl s i).late = false →
    (isl s i).cutoff = false →
    ((isl s i).shoe = none ∨ frameLink (slotWords s 13) = none ∨ reachesMpl s i = false) →
    ∃ t, exec (.islandNoReportStart i false) s = .next t ∧
      (∀ k, (isl s i).shoe = some k → isl t i = { isl s i with
        late := true, step := .idle, shoe := some { k with recheck := false, clear := false, step := 3 }, dsStep := 3 }) ∧
      ((isl s i).shoe = none → isl t i = { isl s i with late := true, step := .idle }) ∧
      isl t (otherIsl i) = isl s (otherIsl i) ∧ t = { s with sia := t.sia, sib := t.sib }) ∧
  (∀ (s : State) (i : Isl) (k : Shoe) (ox oy : Int) (oh : Nat), inSvc (isl s i) = true → (isl s i).report = none →
    (isl s i).late = false → (isl s i).cutoff = false → (isl s i).shoe = some k → reachesMpl s i = true →
    frameLink (slotWords s 13) = some (s.mpl.gen, k.gen, ox, oy, oh) →
    ∃ t, exec (.islandNoReportStart i false) s = .next t ∧ isl t i = { isl s i with
        late := true, step := .reexpress, tries := 1, urgSeq := (isl s i).urgSeq + 1, aliveNext := (isl s i).aliveNext + 1 } ∧
      t.mpl = { s.mpl with
        sram := memWrW s.mpl.sram (slotBase (ownSlot i)) (reexpress s.free k s.mpl.gen s.mpl.ref ox oy oh) } ∧
      isl t (otherIsl i) = isl s (otherIsl i) ∧ t = { s with sia := t.sia, sib := t.sib, mpl := t.mpl, free := t.free }) ∧
  (∀ (s : State) (i : Isl) (r : List Word) (q : List (List Word)) (ns : Nat), (isl s i).urgReply = r :: q →
    inSvc (isl s i) = true → hears s i = true → r.length = 8 → sealOk r = true → nth r 1 = urgTag (isl s i) →
    ∃ t, exec (.urgentReply i ns false) s = .next t ∧ t.dies = s.dies ∧ t.stg = s.stg ∧
      (fld (nth r 0) 31 24 ≠ stStaleAlive.toNat → (isl s i).step = .candidate → candidateOk s i r = true → isl t i = { isl s i with
        urgReply := q, maxns := max (isl s i).maxns (min ns 4095), step := .idle
        relOut := some {
          rcd := trajUsed (slotWords s 9), crc := crcW (trajUsed (slotWords s 9)), gen := fld (nth r 3) 23 0
          t0 := join64 (nth r 4) (nth r 5), stage := (isl s i).rep.stage } } ∧ isl t (otherIsl i) = isl s (otherIsl i)) ∧
      (fld (nth r 0) 31 24 ≠ stStaleAlive.toNat → (isl s i).step = .candidate → candidateOk s i r = false → isl t i = { isl s i with
        urgReply := q, maxns := max (isl s i).maxns (min ns 4095), step := .idle, mism := true }) ∧
      (fld (nth r 0) 31 24 ≠ stStaleAlive.toNat → (isl s i).step = .proposal → tbit (nth r 0) 8 = true → ∃ k,
        (isl t i).shoe = some k ∧ k.rcd = stamp (trajUsed (slotWords s (ownSlot i))) r ∧
        k.recheck = true ∧ k.clear = true ∧ k.step = 1 ∧ k.source = islSource i ∧ (isl t i).adopted = true ∧
        (if (isl s i).late then (isl t i).shoeOut = (isl s i).shoeOut else (isl t i).shoeOut = some k ∧ (isl t i).dsValid = true) ∧
        ∀ e, (edge t e).adopted = true) ∧
      (fld (nth r 0) 31 24 = stStaleAlive.toNat → (isl s i).step ≠ .idle → (isl s i).tries < 4 → isl t i = { isl s i with
        urgReply := q, maxns := max (isl s i).maxns (min ns 4095), tries := (isl s i).tries + 1
        urgSeq := (isl s i).urgSeq + 1, aliveNext := (isl s i).aliveNext - 1 })) ∧
  (∀ (s : State) (i : Isl), inSvc (isl s i) = true → (isl s i).step ≠ .idle →
    ∃ t, exec (.urgentReplyTimeout i false) s = .next t ∧ isl t (otherIsl i) = isl s (otherIsl i) ∧ t.mpl.front = s.mpl.front ∧
      ((isl s i).tries < 4 → isl t i = { isl s i with
        tries := (isl s i).tries + 1, urgSeq := (isl s i).urgSeq + 1, aliveNext := (isl s i).aliveNext + 1 }) ∧
      (4 ≤ (isl s i).tries → (isl t i).timeouts = min 255 ((isl s i).timeouts + 1) ∧
        ((isl s i).step = .candidate → (isl t i).step = .idle ∧ (isl t i).shoe = (isl s i).shoe) ∧
        ((isl s i).step ≠ .candidate → ∀ k, (isl t i).shoe = some k → k.recheck = false ∧ k.clear = false ∧ k.step = 3))) ∧
  (∀ (s : State) (i : Isl) (r : Instr), inSvc (isl s i) = true → (isl s i).step ≠ .idle →
    (r = .urgentReplyTimeout i true ∨ ∃ w q ns, r = .urgentReply i ns true ∧ hears s i = true ∧ (isl s i).urgReply = w :: q ∧ w.length = 8 ∧
      sealOk w = true ∧ nth w 1 = urgTag (isl s i)) →
    ∃ t, exec r s = .next t ∧ (isl t i).st = 4 ∧ (isl t i).hrerr = true ∧ (isl t i).shoe = (isl s i).shoe ∧
      (isl t i).step = (isl s i).step ∧ (isl t (otherIsl i)).st = (isl s (otherIsl i)).st ∧ t.mpl = s.mpl ∧ t.dies = s.dies)

/-- Releases and drag shoe records count for their stage before the cut-off, a record after it at the next tick (R481). The
choice of R482: the record that every island of a release set that is not empty released with the same CRC-32C, else the drag
shoe. A ring edge whose bypass is open sends it at its tick, and the newest drag shoe when an immediate one is ordered (R485).
-/
def Obligations.StageOutput : Prop :=
  (∀ (s : State) (e : Edge) (i : Isl) (r : Release), (isl s i).relOut = some r → reaches s i e = true →
    (edge s e).cutoff = false → r.stage = (edge s e).rep.stage → ∃ t, exec (.releaseMessage e i) s = .next t ∧
      edge t e = (match i with | .sia => { edge s e with relA := some r } | .sib => { edge s e with relB := some r }) ∧
      edge t (otherEdge e) = edge s (otherEdge e) ∧ t = { s with edgeA := t.edgeA, edgeB := t.edgeB }) ∧
  (∀ (s : State) (e : Edge) (i : Isl) (r : Release), (isl s i).relOut = some r → (edge s e).cutoff = true →
    exec (.releaseMessage e i) s = .next s) ∧
  (∀ (s : State) (e : Edge) (i : Isl) (k : Shoe), (isl s i).shoeOut = some k → reaches s i e = true →
    ∃ t, exec (.dragShoeRecord e i) s = .next t ∧ edge t e =
        (if (edge s e).cutoff then { edge s e with late := some k }
        else if k.stage ≠ (edge s e).rep.stage then { edge s e with newest := some k }
        else match i with
          | .sia => { edge s e with shoeA := some k, newest := some k }
          | .sib => { edge s e with shoeB := some k, newest := some k }) ∧
      edge t (otherEdge e) = edge s (otherEdge e) ∧ t = { s with edgeA := t.edgeA, edgeB := t.edgeB }) ∧
  (∀ (x : RingEdge) (o : Output), chooseOutput x = some o →
    (o.source = 0 → o.st = stOk ∧ o.reason = 0 ∧ (x.setA || x.setB) = true ∧
      (x.setA = true → x.relA.map (·.rcd) = some o.rcd) ∧ (x.setA = false → x.relB.map (·.rcd) = some o.rcd) ∧
      (x.setA = true → x.setB = true → ∃ a b, x.relA = some a ∧ x.relB = some b ∧ a.crc = b.crc)) ∧
    (o.source ≠ 0 → o.st = stFallbackHeld ∧ (o.source = 1 → ∃ k, x.shoeA = some k ∧ o.rcd = k.rcd ∧ x.setA = true) ∧
      (o.source = 2 → ∃ k, x.shoeB = some k ∧ o.rcd = k.rcd ∧ x.setB = true) ∧
      (o.source = 3 → o.recheck = false ∧ o.clear = false ∧ ∃ k, x.newest = some k ∧ o.rcd = k.rcd))) ∧
  (∀ (x : RingEdge) (a b : Release), x.setA = true → x.setB = true → x.relA = some a → x.relB = some b →
    (a.crc = b.crc → ∃ o, chooseOutput x = some o ∧ o.source = 0 ∧ o.rcd = a.rcd ∧ o.gen = a.gen ∧ o.t0 = a.t0 ∧ o.recheck = true ∧
      o.clear = true) ∧
    (a.crc ≠ b.crc → ∀ o, chooseOutput x = some o → o.source ≠ 0)) ∧
  (∀ (s : State) (e : Edge) (now : Nat) (o : Output), (edge s e).adopted = true → chooseOutput (edge s e) = some o →
    mayTransmit s e = true → ∃ t, exec (.replicaTick (.edge e) now) s = .next t ∧
      t.out = ringFrame s e (outputWords o e (edge s e).setA (edge s e).setB false (edge s e).alive (edge s e).rep.stage) :: s.out ∧
      (edge t e).alive = (edge s e).alive + 1 ∧ (edge t e).txcnt = min 0xFFFFFFFF ((edge s e).txcnt + 1) ∧
      (s.iod.inReset = false → o.source ≠ 0 → t.hpt.aFback = true)) ∧
  (∀ (s : State) (e : Edge) (now : Nat), (edge s e).inReset = false →
    ((edge s e).adopted = false ∨ (edge s e).linkup = false ∨ (edge s e).bypass ≠ 0) →
    ∃ t, exec (.replicaTick (.edge e) now) s = .next t ∧ t.out = s.out ∧ (edge t e).alive = (edge s e).alive) ∧
  (∀ (s : State) (i : Isl), (isl s i).immDue = true → ∃ t, exec (.immediateDragShoe i) s = .next t ∧
    isl t i = { isl s i with immDue := false } ∧ isl t (otherIsl i) = isl s (otherIsl i) ∧
    t.dis = { s.dis with immShoes := min 65535 (s.dis.immShoes + 1) } ∧ t.stg = s.stg ∧ t.dies = s.dies ∧
    ∀ e k, (edge s e).newest = some k → reaches s i e = true → (edge s e).adopted = true → mayTransmit s e = true →
      ringFrame s e (outputWords (shoeOutput k 6 3 false) e (inSet s e .sia) (inSet s e .sib) true (edge s e).alive
        (edge s e).rep.stage) ∈ t.out ∧ (edge t e).alive = (edge s e).alive + 1)

/-- A lost die leaves service with its stack, its queues LOST and its pages LOST (R255, R395, R396); the IOD core and the ring
edges are reset by the islands and come back, and the island whose link ends in that edge is reset by the other (R462, R487,
Table 14-1); RST_UNIT resets, re-admits and retires (R514, R563, R564); the restarts of temperature (R622, R623). -/
def Obligations.LossesAndResets : Prop :=
  (∀ (s : State) (n : DieId), dieInSvc s n = true → ∃ t, exec (.dieLost n) s = .next t ∧ (die t n).inService = false ∧
    (die t n).lossAt = histAdd 100000 s.stg.stage (die s n).lossAt ∧ (mct t n).writes = [] ∧ (mct t n).reads = [] ∧
    (∀ q, (queue s q).st ≠ 0 → (queue s q).base / 2 ^ 34 = n.val → (queue t q).st = 3) ∧
    (∀ i, (page s i).st ≠ 0 → (page s i).die = n.val → (page t i).st = 3 ∧ (page t i).refs = (page s i).refs) ∧
    (∀ m : DieId, m ≠ n → (die t m).inService = (die s m).inService ∧ (die t m).pool = (die s m).pool ∧
      (m.val ≠ s.qmg.primary → m.val ≠ s.qmg.mirror → s.dis.copies = [] → (die t m).hbm = (die s m).hbm)) ∧ t.stg = s.stg ∧ t.tt = s.tt) ∧
  (∀ s : State, s.iod.inReset = false → anyIsl s = true → ∃ t, exec .iodCoreFault s = .next t ∧ t.iod.inReset = true ∧
    t.dis.iodRestarts = min 65535 (s.dis.iodRestarts + 1) ∧ t.edgeA = s.edgeA ∧ t.edgeB = s.edgeB ∧
    (∀ n : DieId, (die t n).inService = (die s n).inService ∧ (die t n).inReset = (die s n).inReset ∧
      (die t n).pool = (die s n).pool ∧ (die t n).spup = false) ∧
    ∀ i, inSvc (isl s i) = true → logged t i (fun q => q.cls = 0x0B ∧ q.unit = 0x0C)) ∧
  (∀ (s : State) (e : Edge), (edge s e).inReset = false → anyIsl s = true → ∃ t, exec (.ringEdgeFault e) s = .next t ∧
    (edge t e).inReset = true ∧ (edge t e).bypass = (if (edge s e).bypass = 1 then 1 else 2) ∧ (edge t e).held = (edge s e).held ∧
    edge t (otherEdge e) = edge s (otherEdge e) ∧
    (∀ n : DieId, (die t n).inService = (die s n).inService ∧ (die t n).hbm = (die s n).hbm) ∧
    let cut : Prop := (isl s (islOf e)).linkUp = true ∧ (isl s (islOf e)).inReset = false ∧ mayOrder (isl s (otherIsl (islOf e))) = true
    (cut → (isl t (islOf e)).inReset = true ∧ (inSvc (isl s (otherIsl (islOf e))) = true →
      logged t (otherIsl (islOf e)) (fun q => q.cls = 0x0D ∧ q.unit = islUnit (islOf e)))) ∧
    (¬ cut → ∀ i, inSvc (isl s i) = true → logged t i (fun q => q.cls = 0x0C ∧ q.unit = edgeUnit e))) ∧
  (∀ (s : State) (e : Edge), (edge s e).inReset = true → ∃ t, exec (.ringEdgeReady e) s = .next t ∧ (edge t e).inReset = false ∧
    (orpSettings s e ≠ [] → (edge t e).cfg = orpSettings s e) ∧ edge t (otherEdge e) = edge s (otherEdge e) ∧ t.dies = s.dies ∧
    drew s t (.rstEdge e) stOk []) ∧
  (∀ (s : State) (m : BitVec 12) (a b : DieId), a ≠ b → m.getLsbD a.val = true → m.getLsbD b.val = true →
    ∃ t, exec (.supplyFault m false) s = .next t ∧
      (∀ n : DieId, m.getLsbD n.val = true → dieInSvc s n = true → (die t n).inService = false) ∧
      (∀ i, inSvc (isl s i) = true → (isl t i).immDue = true ∧ (isl t i).imm = true) ∧ t.stg = s.stg ∧ t.tt = s.tt) ∧
  (∀ s : State, 3 ≤ histCount 1000 s.stg.stage s.mpl.mismStages → anyIsl s = true → ∃ t, exec .clearanceMismatchLimit s = .next t ∧
    t.iod.inReset = true ∧ t.iod.cause = 1 ∧ t.dis.iodRestarts = min 65535 (s.dis.iodRestarts + 1) ∧
    ∀ n : DieId, (die t n).inService = (die s n).inService ∧ (die t n).pool = (die s n).pool) ∧
  (∀ (s : State) (p : Port) (k : Pkt) (n : DieId), Ready s p 9 3 1 k → rstBad k = false → rstOp k = 0 → rstEng k = 0xFF →
    unitOf (rstUnit k) = some (.die n) → (p ≠ .host → iodReady s = true) → (bankGet 0 s.clk.gates (rstUnit k)).testBit 0 = false →
    ∃ u, exec (.rstUnitReset p) s = .next (deferred p k (.rstDie n) u) ∧ (die u n).inService = false ∧ (mct u n).writes = [] ∧
      (∀ m : DieId, m ≠ n → (die u m).inService = (die s m).inService) ∧ u.stg = s.stg ∧ u.tt = s.tt) ∧
  (∀ (s : State) (k : Pkt) (r : Instr), Ready s .host 9 3 1 k → rstBad k = false →
    (rstOp k = 0 ∧ r = .rstUnitReset .host ∧ (12 ≤ rstUnit k ∨ rstEng k ≠ 0xFF) ∨ rstOp k = 1 ∧ r = .rstUnitReadmit .host ∨
      rstOp k = 2 ∧ r = .rstUnitRetire .host) → exec r s = .next (refused .host k stFirewall 10 4 (took s .host k))) ∧
  (∀ (s : State) (i : Isl) (k : Pkt) (r : Instr), Ready s (.mgt i) 9 3 1 k → rstBad k = false → unitOf (rstUnit k) = none →
    (rstOp k = 0 ∧ r = .rstUnitReset (.mgt i) ∨ rstOp k = 1 ∧ r = .rstUnitReadmit (.mgt i) ∨
      rstOp k = 2 ∧ r = .rstUnitRetire (.mgt i)) → exec r s = .next (answered (.mgt i) k stOkEmpty [] (took s (.mgt i) k))) ∧
  (∀ (s : State) (i : Isl) (k : Pkt) (g : EngId), Ready s (.mgt i) 9 3 1 k → rstBad k = false → rstOp k = 0 →
    rstUnit k = dieOf g → rstEng k = g.val % 8 → iodReady s = true → (bankGet 0 s.clk.gates (rstUnit k)).testBit 0 = false →
    ∃ u, exec (.rstUnitReset (.mgt i)) s = .next (answered (.mgt i) k stOk [] u) ∧ OnlyEngine (took s (.mgt i) k) u g ∧
      eng u g = { eng s g with wdrawNext := (eng s g).wdrawNext || !((eng s g).withdrawn || (eng s g).retired) }) ∧
  (∀ (s : State) (i : Isl) (k : Pkt) (n : DieId), Ready s (.mgt i) 9 3 1 k → rstBad k = false → rstOp k = 1 → rstEng k = 0xFF →
    unitOf (rstUnit k) = some (.die n) → iodReady s = true → (bankGet 0 s.clk.gates (rstUnit k)).testBit 0 = false →
    (dieInSvc s n = true → exec (.rstUnitReadmit (.mgt i)) s = .next (answered (.mgt i) k stOkEmpty [] (took s (.mgt i) k))) ∧
    (dieInSvc s n = false → ∃ u, exec (.rstUnitReadmit (.mgt i)) s = .next (deferred (.mgt i) k (.readmitDie n) u) ∧
      (die u n).retired = false ∧ (die u n).decision = false ∧ (die u n).lossAt = [] ∧ n ∉ u.sia.retired ∧ n ∉ u.sib.retired ∧
      u.stg = s.stg ∧ ∀ m : DieId, m ≠ n → (die u m).inService = (die s m).inService)) ∧
  (∀ (s : State) (i : Isl) (k : Pkt) (n : DieId), Ready s (.mgt i) 9 3 1 k → rstBad k = false → rstOp k = 2 → rstEng k = 0xFF →
    unitOf (rstUnit k) = some (.die n) → ∃ u, exec (.rstUnitRetire (.mgt i)) s = .next (answered (.mgt i) k stOk [] u) ∧
      (die u n).retired = true ∧ (die u n).inService = false ∧ n ∈ u.sia.retired ∧ n ∈ u.sib.retired ∧
      ∀ m : DieId, m ≠ n → (die u m).inService = (die s m).inService) ∧
  (∀ (s : State) (n : DieId), (die s n).thermal = true → (die s n).tjLogic < 1440 → (die s n).tjHbm < 1360 →
    ∃ t, exec (.thermalDieRestart n) s = .next t ∧ (die t n).thermal = false ∧
      (s.iod.sudden = false → (die t n).inReset = false) ∧ t.stg = s.stg ∧
      ∀ m : DieId, m ≠ n → die t m = die s m) ∧
  (∀ s : State, s.iod.thermal = true → s.iod.tj < 1440 →
    exec .iodThermalRelease s = .next { s with iod := { s.iod with thermal := false } })

/-! The fusion engine (09), the check-value units (15), registers and firewalls (00, 13). -/

/-- A published sample waits in its stream and its word stands in the sample buffers, for a writer of the stream alone (R327,
R361); a round starts with the host's masks and clear request (R330, R364) and publishes one new table while the other buffer
keeps the one before (R334); a write held by R332 takes effect at its release; a stage boundary's commit that fell into a round
takes the shadows as the boundary found them (R11, R365). -/
def Obligations.FusionRounds : Prop :=
  (∀ (s : State) (l : Byte) (n : Fin 20) (w : Word) (now : Nat), fwAllows s (.iod 23) l (0x80 * n.val) 4 .write = true →
    s.fus.ready = true → streamWriter s n.val l = true → gateClosed s.clk 12 2 = false →
    ∃ t, exec (.samplePublish l n w now) s = .next t ∧
      t.out = .fabric l stOk [] :: s.out ∧
      (∃ late, (stream t n.val).pubs = (stream s n.val).pubs ++ [{ word := w, at_ := now, late := late }] ∧
        (s.fus.lastTref = none → late = false)) ∧
      (∀ m, m ≠ n.val → stream t m = stream s m) ∧ memRdW t.fus.mem (0x80 * n.val) 1 = [w] ∧
      sameOutside s.fus.mem t.fus.mem (0x80 * n.val) 4 ∧ t.fus.round = s.fus.round ∧ pubTable t.fus = pubTable s.fus ∧
      t = { s with fus := t.fus, out := t.out, vtime := t.vtime }) ∧
  (∀ (s : State) (l : Byte) (n : Fin 20) (w : Word) (now : Nat), fwAllows s (.iod 23) l (0x80 * n.val) 4 .write = true →
    streamWriter s n.val l = false → ∃ t, exec (.samplePublish l n w now) s = .next t ∧
      t.out = .fabric l stFirewall [] :: s.out ∧ t.fus = s.fus) ∧
  (∀ (s : State) (w : HeldWrite) (r : List HeldWrite), s.fus.held = w :: r → ∃ t, exec .sampleBufferWriteRelease s = .next t ∧
    t.fus = { s.fus with held := r, mem := memWr s.fus.mem w.addr w.data, round := t.fus.round } ∧
    t.out = (if w.eng = none ∧ w.owed = true then .fabric w.livery stOk [] :: s.out else s.out) ∧ t.dies = s.dies ∧
    (w.eng = none → t = { s with fus := t.fus, out := t.out })) ∧
  (∀ (s : State) (now : Nat), s.fus.ready = true → s.fus.round = none → s.stg.inlay = false → (roundStart s).1 ≤ now →
    s.fus.lastRound ≠ some s.stg.tick → s.fus.defCommit = none → ∃ t r, exec (.fusionRoundStart now) s = .next t ∧ t.fus.round = some r ∧
      r.start = now ∧ r.tref = s.stg.tick + 500000 * fld (nth s.fus.cfg 0) 31 24 ∧ r.stage = s.stg.stage ∧
      r.clear = s.fus.clearReq ∧ t.fus.clearReq = false ∧ t.fus.hmask = s.fus.hmaskReq ∧ t.fus.gen = s.fus.gen ∧
      t.fus.lastRound = some s.stg.tick ∧ t.fus.lastTref = some r.tref ∧
      (∀ b, b ∈ r.copying ↔ ∃ e ∈ r.used, b ∈ sampleBufs e.1 e.2.seq) ∧
      pubTable t.fus = pubTable s.fus ∧ t.fus.mem = s.fus.mem ∧ t.stg = s.stg ∧ t.dies = s.dies ∧
      ∀ e ∈ r.used, s.fus.hmaskReq.getLsbD e.1 = false) ∧
  (∀ (s : State) (r : Round) (now : Nat), s.fus.round = some r → ∃ t, exec (.fusionPublish now) s = .next t ∧
    t.fus.round = none ∧ t.fus.pub = !s.fus.pub ∧ t.fus.anyPub = true ∧ t.fus.gen = (s.fus.gen + 1) % 2 ^ 32 ∧
    (pubTable t.fus).tvalid = r.tref ∧ (pubTable t.fus).gen = (s.fus.gen + 1) % 2 ^ 32 ∧
    (if s.fus.pub then t.fus.table1 else t.fus.table0) = pubTable s.fus ∧ t.fus.mem = s.fus.mem ∧ t.stg = s.stg ∧ t.mpl = s.mpl ∧
    t.dies = s.dies) ∧
  (∀ s : State, opened s (.iod 7) = false → exec .fusCommit s = .next s) ∧
  (∀ s : State, opened s (.iod 7) = true → (s.fus.round = none → s.fus.defCommit = none → fusCfgBad s s.fus.shadow = none →
      exec .fusCommit s = .next { s with fus := { s.fus with cfg := s.fus.shadow } }) ∧
    (s.fus.round = none → s.fus.defCommit = none → fusCfgBad s s.fus.shadow ≠ none →
      exec .fusCommit s = .next { s with fus := { s.fus with shadow := s.fus.cfg, badcfg := true } }) ∧
    (s.fus.round ≠ none → exec .fusCommit s = .next { s with fus := { s.fus with busywr := true } })) ∧
  (∀ (s : State) (ws : List Word), s.fus.defCommit = some ws → s.fus.round = none →
    (fusCfgBad s ws = none → exec .fusDeferredCommit s = .next { s with fus := { s.fus with defCommit := none, cfg := ws } }) ∧
    (fusCfgBad s ws ≠ none → ws.length = 27 → s.fus.shadow.length = 27 → s.fus.cfg.length = 27 →
      ∃ t, exec .fusDeferredCommit s = .next t ∧
      t = { s with fus := { s.fus with defCommit := none, shadow := t.fus.shadow, badcfg := true } } ∧
      ∀ i, i < 27 → nth t.fus.shadow i = if nth s.fus.shadow i = nth ws i then nth s.fus.cfg i else nth s.fus.shadow i))

/-- Class 0x6 (R363, R364, R366, Table 9-10). -/
def Obligations.FusionOpcodes : Prop :=
  (∀ (s : State) (p : Port) (k : Pkt), Ready s p 6 0 27 k → fusCtx s k = true → fusCfgBad s (fusMask (parsFrom k 0)) = none →
    s.fus.round = none → exec (.fusCfg p) s = .next (answered p k stOk [] { took s p k with
      fus := { s.fus with cfg := fusMask (parsFrom k 0), shadow := fusMask (parsFrom k 0), defCommit := none } })) ∧
  (∀ (s : State) (p : Port) (k : Pkt) (n : Fin 20), Ready s p 6 1 1 k → fusCtx s k = true → fld (par k 0) 30 5 = 0 →
    fld (par k 0) 4 0 = n.val →
    (tbit (par k 0) 31 = true → ∃ t, exec (.fusMask p) s = .next (answered p k stOk [fusMaskst s] t) ∧
      t = { took s p k with fus := { s.fus with hmaskReq := t.fus.hmaskReq } } ∧
      ∀ j : Fin 20, t.fus.hmaskReq.getLsbD j.val = (decide (j = n) || s.fus.hmaskReq.getLsbD j.val)) ∧
    (tbit (par k 0) 31 = false → s.fus.hmaskReq.getLsbD n.val = true →
      ∃ t, exec (.fusUnmask p) s = .next (answered p k stOk [fusMaskst s] t) ∧
        t = { took s p k with fus := { s.fus with hmaskReq := t.fus.hmaskReq } } ∧
        ∀ j : Fin 20, t.fus.hmaskReq.getLsbD j.val = (decide (j ≠ n) && s.fus.hmaskReq.getLsbD j.val)) ∧
    (tbit (par k 0) 31 = false → s.fus.hmaskReq.getLsbD n.val = false →
      exec (.fusUnmask p) s = .next (answered p k stOkEmpty [] (took s p k)))) ∧
  (∀ (s : State) (p : Port) (k : Pkt), Ready s p 6 2 2 k → fusCtx s k = true → s.fus.anyPub = true → parN k 0 ≤ 1023 →
    1 ≤ parN k 1 → parN k 1 ≤ 1023 → parN k 0 + parN k 1 ≤ 1024 →
    exec (.fusTracks p) s = .next (answered p k stOk ((tableHeader (pubTable s.fus)).take 8 ++
      (List.range (parN k 1)).flatMap (fun i => slotRecord (pubTable s.fus) (parN k 0 + i))) (took s p k))) ∧
  (∀ (s : State) (p : Port) (k : Pkt), Ready s p 6 3 0 k → fusCtx s k = true →
    (s.fus.report = [] → exec (.fusReport p) s = .next (refused p k stNotReady 11 0xFFFF (took s p k))) ∧
    (s.fus.report ≠ [] → exec (.fusReport p) s = .next (answered p k (if reportLate s.fus.report then stLateSample else stOk)
      s.fus.report (took s p k)))) ∧
  (∀ (s : State) (p : Port) (k : Pkt), Ready s p 6 4 0 k → fusCtx s k = true →
    exec (.fusClear p) s = .next (answered p k stOk [] { took s p k with fus := { s.fus with clearReq := true } })) ∧
  (∀ (s : State) (p : Port) (k : Pkt) (o n : Nat) (r : Instr),
    (o, n, r) ∈ [(0, 27, Instr.fusCfg p), (2, 2, .fusTracks p), (3, 0, .fusReport p), (4, 0, .fusClear p)] → Ready s p 6 o n k →
    fusCtx s k = false → exec r s = .next (refused p k stFirewall 10 1 (took s p k)))

/-- Bytes fed in parts give what they give whole (R528); the first byte opens a message and an invalid configuration sets badcfg
alone (R524, R528); configuration is written in IDLE only (R530); alive counters find repeats and skips (R533, R534); a command
acts on its own unit alone, and an opcode on units of its context (R537); a count incremented in the cycle of clrcnt reads 1
(R539), and behind a closed gate a register takes no write (R562). -/
def Obligations.CheckValueUnits : Prop :=
  (∀ (c : Cvu) (a b : List Byte), cvuOk c = true → cvuFeed (cvuFeed c a) b = cvuFeed c (a ++ b)) ∧
  (∀ (s : State) (k : CvuId) (v : Word) (n : Nat) (r : Instr),
    (n, r) ∈ [(1, Instr.cvuFeed8 k v), (2, .cvuFeed16 k v), (4, .cvuFeed32 k v)] → opened s (.iod 8) = true → ∃ t, exec r s = .next t ∧ OnlyCvu s t k.val ∧
    (cvuOk (cvu s k.val) = true → (cvu t k.val).opened = true ∧
      (cvu t k.val).reg = BitVec.ofNat 64 (((wordBytes v).take n).foldl (cvuByte (cvu s k.val)) (cvuReg (cvu s k.val))) ∧
      (cvu t k.val).count = min 0xFFFFFFFF ((cvu s k.val).count + n) ∧ (cvu t k.val).cfg = (cvu s k.val).cfg) ∧
    (cvuOk (cvu s k.val) = false → (cvu s k.val).opened = false → cvu t k.val = { cvu s k.val with badcfg := true })) ∧
  (∀ (s : State) (k : CvuId) (v : Word) (r : Instr) (f : Cvu → Cvu),
    (r, f) ∈ [(Instr.cvuConfigWrite k 0 v, fun c => if c.opened then { c with busywr := true } else { c with cfg := v &&& 0x77F }),
      (.cvuConfigWrite k 1 v, fun c => if c.opened then { c with busywr := true } else { c with polyLo := v }),
      (.cvuConfigWrite k 2 v, fun c => if c.opened then { c with busywr := true } else { c with polyHi := v }),
      (.cvuConfigWrite k 3 v, fun c => if c.opened then { c with busywr := true } else { c with initLo := v }),
      (.cvuConfigWrite k 4 v, fun c => if c.opened then { c with busywr := true } else { c with initHi := v }),
      (.cvuAliveWrite k v, fun c => { c with send := tbit v 8, value := BitVec.ofNat 8 (fld v 7 0) }),
      (.cvuReset k, fun c => { c with opened := false, reg := 0, count := 0 }),
      (.cvuAdvance k, fun c => if c.send then { c with value := c.value + 1 } else c),
      (.cvuClrcnt k false false, fun c => { c with skipCnt := 0, repCnt := 0 }),
      (.cvuClrcnt k true false, fun c => { c with skipCnt := 1, repCnt := 0 }),
      (.cvuClrcnt k false true, fun c => { c with skipCnt := 0, repCnt := 1 }),
      (.cvuClrcnt k true true, fun c => { c with skipCnt := 1, repCnt := 1 }),
      (.cvuAlchkWrite k v, fun c => if c.send then c else
        if BitVec.ofNat 8 (fld v 7 0) = c.value then { c with value := c.value + 1, alres := 0 }
        else if BitVec.ofNat 8 (fld v 7 0) = c.value - 1 then { c with repCnt := min 65535 (c.repCnt + 1), rep := true, alres := 1 }
        else { c with
          value := BitVec.ofNat 8 (fld v 7 0) + 1, skipCnt := min 65535 (c.skipCnt + 1), skip := true
          gap := (BitVec.ofNat 8 (fld v 7 0) - c.value).toNat, alres := 2 })] → opened s (.iod 8) = true →
    ∃ t, exec r s = .next t ∧ OnlyCvu s t k.val ∧ cvu t k.val = f (cvu s k.val)) ∧
  (∀ (s : State) (k : CvuId) (v : Word) (reg : Fin 5) (a b : Bool) (r : Instr),
    r ∈ [Instr.cvuFeed8 k v, .cvuFeed16 k v, .cvuFeed32 k v, .cvuConfigWrite k reg v, .cvuAliveWrite k v, .cvuAlchkWrite k v,
      .cvuReset k, .cvuAdvance k, .cvuClrcnt k a b] → opened s (.iod 8) = false → exec r s = .next s) ∧
  (∀ (s : State) (p : Port) (k : Pkt), Ready s p 8 0 6 k → parN k 0 ≤ 63 → (cvu s (parN k 0)).owner = pktCtx k →
    cvuCfgBad k = none → (cvu s (parN k 0)).opened = false → ∃ t, exec (.cvuCfg p) s = .next (answered p k stOk [] t) ∧
      OnlyCvu (took s p k) t (parN k 0) ∧ cvu t (parN k 0) = { cvu s (parN k 0) with
        opened := false, reg := 0, count := 0, cfg := par k 1, polyLo := par k 2, polyHi := par k 3, initLo := par k 4
        initHi := par k 5 }) ∧
  (∀ (s : State) (p : Port) (k : Pkt) (n : Nat), Ready s p 8 1 (2 + cdiv n 4) k → parN k 0 ≤ 63 → parN k 1 = n → 1 ≤ n → n ≤ 65508 →
    (cvu s (parN k 0)).owner = pktCtx k → cvuOk (cvu s (parN k 0)) = true →
    ∃ t, exec (.cvuFeed p) s = .next (answered p k stOk [toW n] t) ∧ OnlyCvu (took s p k) t (parN k 0) ∧
      cvu t (parN k 0) = cvuFeed (cvu s (parN k 0)) ((wordsBytes (parsFrom k 2)).take n)) ∧
  (∀ (s : State) (p : Port) (k : Pkt) (u : Nat), Ready s p 8 2 1 k → fld (par k 0) 30 6 = 0 → fld (par k 0) 5 0 = u →
    (cvu s u).owner = pktCtx k → cvuOk (cvu s u) = true →
    ∃ t, exec (if tbit (par k 0) 31 then .cvuResultReset p else .cvuResult p) s =
        .next (answered p k stOk (two (cvuRes (cvu s u)) ++ [toW (cvu s u).count]) t) ∧
      cvu t u = (if tbit (par k 0) 31 then { cvu s u with opened := false, reg := 0, count := 0 } else cvu s u) ∧
      (∀ j, j ≠ u → cvu t j = cvu s j) ∧ t = { took s p k with cvus := t.cvus, free := t.free }) ∧
  (∀ (s : State) (p : Port) (k : Pkt) (u : Nat) (c : Cvu), Ready s p 8 3 2 k → fld (par k 0) 5 0 = u → cvu s u = c →
    c.owner = pktCtx k →
    (par k 0 = toW u → par k 1 = 0 → ∃ t, exec (.cvuAliveRead p) s = .next (answered p k stOk [cvuAlive c, cvuStat c] t) ∧
      OnlyCvu (took s p k) t u ∧ cvu t u = c) ∧
    (par k 0 = toW (0x100 + u) → par k 1 &&& 0xFFFFFE00 = 0 → ∃ t d, exec (.cvuAliveLoad p) s = .next (answered p k stOk d t) ∧
      OnlyCvu (took s p k) t u ∧ cvu t u = { c with
        send := tbit (par k 1) 8, value := BitVec.ofNat 8 (fld (par k 1) 7 0) }) ∧
    (par k 0 = toW (0x200 + u) → par k 1 &&& 0xFFFFFF00 = 0 → c.send = false → ∃ t d,
      exec (.cvuAliveCheck p) s = .next (answered p k (if BitVec.ofNat 8 (fld (par k 1) 7 0) = c.value then stOk else stStaleAlive)
        d t) ∧ OnlyCvu (took s p k) t u ∧ (BitVec.ofNat 8 (fld (par k 1) 7 0) = c.value → (cvu t u).value = c.value + 1)) ∧
    (par k 0 = toW (0x300 + u) → par k 1 = 0 → c.send = true → ∃ t d, exec (.cvuAliveAdvance p) s =
      .next (answered p k stOk d t) ∧ OnlyCvu (took s p k) t u ∧ cvu t u = { c with value := c.value + 1 })) ∧
  (∀ (s : State) (p : Port) (k : Pkt) (o n : Nat) (r : Instr), (o, n, r) ∈ [(0, 6, Instr.cvuCfg p), (2, 1, .cvuResult p)] →
    Ready s p 8 o n k → parN k 0 ≤ 63 → (cvu s (parN k 0)).owner ≠ pktCtx k →
    exec r s = .next (refused p k stFirewall 10 4 (took s p k)))

/-- A read of a LO register latches its HI word, and the next read of the HI register takes the latched word (R638).
LNK_CTL.clrcnt, TE_CFG, TE_CHKSTAT.clr and TE_NUMCNT.clr act on their own die or engine alone, and a count incremented in the
cycle of the clear reads 1 (R13, R40-R42, R175, R176, R219); a unit in reset or behind a closed gate answers none of them
(R562). -/
def Obligations.RegisterFields : Prop :=
  (∀ (s : State) (p : PairId), opened s (pairPlace p).1 = true → ∃ t, exec (.latchedLoRead p) s = .next t ∧
    t.out = .reg (regWord s (pairPlace p).1 (pairPlace p).2) :: s.out ∧
    latched t p = some (regWord s (pairPlace p).1 ((pairPlace p).2 + 4)) ∧ (∀ q, q ≠ p → latched t q = latched s q) ∧
    t = { s with out := t.out, latches := t.latches, free := t.free }) ∧
  (∀ (s : State) (p : PairId), opened s (pairPlace p).1 = true → ∃ t, exec (.latchedHiRead p) s = .next t ∧ latched t p = none ∧
    (∀ q, q ≠ p → latched t q = latched s q) ∧
    t.out = .reg ((latched s p).getD (regWord s (pairPlace p).1 ((pairPlace p).2 + 4))) :: s.out ∧
    t = { s with out := t.out, latches := t.latches }) ∧
  (∀ (s t : State) (p : PairId), opened s (pairPlace p).1 = true → exec (.latchedLoRead p) s = .next t → ∃ u, exec (.latchedHiRead p) t = .next u ∧
    u.out.head? = some (.reg (regWord s (pairPlace p).1 ((pairPlace p).2 + 4)))) ∧
  (∀ (s : State) (n : DieId) (sp sc pc far : Bool), opened s (.die n 9) = true →
    ∃ t, exec (.lnkClrcnt n sp sc pc far) s = .next t ∧
    die t n = { die s n with retrySp := b2n sp, retrySc := b2n sc, retryPc := b2n pc } ∧ bankGet 0 t.iod.spretry n.val = b2n far ∧
    (∀ m : DieId, m ≠ n → die t m = die s m ∧ bankGet 0 t.iod.spretry m.val = bankGet 0 s.iod.spretry m.val) ∧
    t = { s with dies := t.dies, iod := { s.iod with spretry := t.iod.spretry } }) ∧
  (∀ (s : State) (g : EngId) (v : Word), opened s (teTarget g) = true → ∃ t, exec (.teCfgWrite g v) s = .next t ∧ OnlyEngine s t g ∧
    eng t g = (if teBusy (eng s g) then { eng s g with busywr := true }
      else if fld v 4 0 < 8 ∨ 24 < fld v 4 0 then { eng s g with badcfg := true }
      else { eng s g with ovl := tbit v 12, ftol := fld v 4 0 })) ∧
  (∀ (s : State) (g : EngId) (ws res abft : Bool), opened s (teTarget g) = true →
    ∃ t, exec (.teChkstatClr g ws res abft) s = .next t ∧ OnlyEngine s t g ∧
    eng t g = { eng s g with wscnt := b2n ws, rescnt := b2n res, abftcnt := b2n abft }) ∧
  (∀ (s : State) (g : EngId) (sat nan : Bool), opened s (teTarget g) = true →
    ∃ t, exec (.teNumcntClr g sat nan) s = .next t ∧ OnlyEngine s t g ∧ eng t g = { eng s g with sat := b2n sat, nan := b2n nan }) ∧
  (∀ (s : State) (r : Instr) (g : FwTarget),
    (∃ p, g = (pairPlace p).1 ∧ (r = .latchedLoRead p ∨ r = .latchedHiRead p)) ∨
      (∃ n a b c d, g = .die n 9 ∧ r = .lnkClrcnt n a b c d) ∨
      (∃ e v a b c, g = teTarget e ∧ (r = .teCfgWrite e v ∨ r = .teChkstatClr e a b c ∨ r = .teNumcntClr e a b)) →
    opened s g = false → exec r s = .next s)

/-- A register write passes the firewall and acts by its access types (R9); a refused one changes nothing at its target (R469).
Firewall regions are written by the islands' liveries alone, not while enabled and never when locked (R471); a write that no
path reaches times out (R499, R500), one that is no aligned word decodes to no register (R35, R36), and a unit behind a closed
gate answers ST_NOT_READY (R562). -/
def Obligations.RegisterWrites : Prop :=
  (∀ (s u : State) (l : Byte) (a : BitVec 48) (v : Word) (p : Spot) (g : FwTarget),
    grants s l a.toNat 4 .write (livSource l) = .spot p u → p.place = .reg g → ∃ t, exec (.registerWrite l a v) s = .next t ∧
    t = emit (writeReg u g p.off v) (.fabric l stOk []) ∧
    (g = .iod 5 → p.off = 0 → t.kpm = { u.kpm with
      noalloc := u.kpm.noalloc && !tbit v 5, dcrc := u.kpm.dcrc && !tbit v 4, sat := u.kpm.sat && !tbit v 3
      under := u.kpm.under && !tbit v 2 }) ∧
    (g = .iod 2 → p.off = 0 → t.stg = { u.stg with timingSh := v &&& 0x003FFFFF }) ∧
    (∀ n, g = .die n 8 → p.off = 4 → (mct t n).map = (mct u n).map ∧ (mct t n).mapSh = v &&& 0x30F) ∧
    (g = .iod 5 → p.off = 4 → t.kpm = u.kpm) ∧ (g = .iod 5 → t.mpl = u.mpl ∧ t.fus = u.fus ∧ t.dies = u.dies ∧ t.qmg = u.qmg)) ∧
  (∀ (s u : State) (l : Byte) (a : BitVec 48) (v : Word) (st : Byte), grants s l a.toNat 4 .write (livSource l) = .refused st u →
    ∃ t, exec (.registerWrite l a v) s = .next t ∧ t = { u with out := .fabric l st [] :: u.out } ∧
    (st = stFirewall → t.dies = s.dies ∧ t.engines = s.engines ∧ t.stg = s.stg ∧ t.qmg = s.qmg ∧ t.syn = s.syn ∧ t.kpm = s.kpm ∧
      t.mpl = s.mpl ∧ t.fus = s.fus ∧ t.cvus = s.cvus ∧ t.clk = s.clk)) ∧
  (∀ (s : State) (l : Byte) (g : FwTarget) (r : Fin 64) (o : Nat) (v : Word) (off : Fin 16384), off.val = 0x100 + 0x40 * r.val + o →
    o = 0 ∨ o = 4 ∨ o = 8 ∨ 0x20 ≤ o ∧ o < 0x40 → off.val % 4 = 0 → l = 0x0A ∨ l = 0x0B →
    wayOpen s (wayOf s (livSource l) (fwlBlock g)) = true → gated s (fwlBlock g) = false →
    ∃ t, exec (.fwlRegionWrite l g off v) s = .next t ∧ t = { s with fws := t.fws, out := .fabric l stOk [] :: s.out } ∧
      (∀ h, fwNum h ≠ fwNum g → fwl t h = fwl s h) ∧
      (∀ q, q ≠ r.val → bankGet defRegion (fwl t g).regions q = bankGet defRegion (fwl s g).regions q) ∧
      ((bankGet defRegion (fwl s g).regions r.val).lock = true → fwl t g = { fwl s g with
        lockwr := true, busywr := (fwl s g).busywr || ((bankGet defRegion (fwl s g).regions r.val).en && o != 8) }) ∧
      ((bankGet defRegion (fwl s g).regions r.val).lock = false → (bankGet defRegion (fwl s g).regions r.val).en = true →
        o ≠ 8 → fwl t g = { fwl s g with busywr := true }) ∧
      ((bankGet defRegion (fwl s g).regions r.val).lock = false → o = 8 → bankGet defRegion (fwl t g).regions r.val =
        { bankGet defRegion (fwl s g).regions r.val with en := tbit v 31, lock := tbit v 30, w := tbit v 1, r := tbit v 0 }) ∧
      ((bankGet defRegion (fwl s g).regions r.val).lock = false → (bankGet defRegion (fwl s g).regions r.val).en = false →
        o = 0 → bankGet defRegion (fwl t g).regions r.val = { bankGet defRegion (fwl s g).regions r.val with base := fld v 22 0 })) ∧
  (∀ (s : State) (l : Byte) (g : FwTarget) (v : Word) (off : Fin 16384), off.val % 4 = 0 → l = 0x0A ∨ l = 0x0B →
    wayOpen s (wayOf s (livSource l) (fwlBlock g)) = true → gated s (fwlBlock g) = true →
    exec (.fwlRegionWrite l g off v) s = .next { s with out := .fabric l stNotReady [] :: s.out }) ∧
  (∀ (s : State) (l : Byte) (g : FwTarget) (v : Word) (off : Fin 16384), off.val % 4 ≠ 0 →
    ∃ t, exec (.fwlRegionWrite l g off v) s = .next t ∧ t.out.head? = some (.fabric l stFirewall []) ∧
      (∀ h, (fwl t h).regions = (fwl s h).regions) ∧ t.dies = s.dies ∧ t.mpl = s.mpl) ∧
  (∀ (s : State) (l : Byte) (g : FwTarget) (v : Word) (off : Fin 16384), l ≠ 0x0A → l ≠ 0x0B →
    wayOpen s (wayOf s (livSource l) (fwlBlock g)) = true →
    ∃ t, exec (.fwlRegionWrite l g off v) s = .next t ∧ t.out.head? = some (.fabric l stFirewall []) ∧
      (∀ h, (fwl t h).regions = (fwl s h).regions) ∧ t.dies = s.dies ∧ t.mpl = s.mpl) ∧
  (∀ (s : State) (l : Byte) (g : FwTarget) (v : Word) (off : Fin 16384), off.val % 4 = 0 →
    wayOpen s (wayOf s (livSource l) (fwlBlock g)) = false →
    ∃ t, exec (.fwlRegionWrite l g off v) s = .next t ∧ t.out.head? = some (.fabric l stInternal []) ∧
      t = emit (timeOut s (targetUnit (fwlBlock g))) (.fabric l stInternal []))

/-! Temperature, clocks, ports, trust, diagnostics (14, 16, 17, 18). -/

/-- Sensor samples and slopes, with the third low flow declaring a sudden loss that holds every die and the IOD core in reset
(R618-R620, R628, R630); levels and the lean request (R624, R627); a die or the IOD core at its junction limit leaves service
(R622, R623); the hold ends when flow and slope have stayed calm (R632); the opcodes of Table 18-5 (R635). -/
def Obligations.ThermalProtection : Prop :=
  (∀ (s : State) (i : Isl) (x : LidSample), (isl s i).inReset = false → (isl s i).boots = true → sampleValid x = true → 25 ≤ x.flow →
    ∃ t, exec (.lidSensorSample i x) s = .next t ∧ (isl t i).inlet = x.inlet ∧ (isl t i).outlet = x.outlet ∧
      (isl t i).flow = min 65535 x.flow ∧ (isl t i).lowFlow = 0 ∧ (isl t i).badRun = 0 ∧
      (isl t i).outs = (x.outlet :: (isl s i).outs).take 501 ∧
      (isl t i).setinv = ((isl s i).setinv && decide ((isl s i).goodRun + 1 < 1000)) ∧
      isl t (otherIsl i) = isl s (otherIsl i) ∧ t = { s with sia := t.sia, sib := t.sib }) ∧
  (∀ (s : State) (i : Isl) (x : LidSample), (isl s i).inReset = false → (isl s i).boots = true → sampleValid x = false →
    ∃ t, exec (.lidSensorSample i x) s = .next t ∧ (isl t i).badRun = min 1000 ((isl s i).badRun + 1) ∧ (isl t i).lowFlow = 0 ∧
      (9 ≤ (isl s i).badRun → (isl t i).setinv = true) ∧ ((isl s i).badRun < 9 → (isl t i).setinv = (isl s i).setinv) ∧
      t.iod.sudden = s.iod.sudden ∧ t.dies = s.dies) ∧
  (∀ (s : State) (i : Isl) (x : LidSample), (isl s i).inReset = false → (isl s i).boots = true → sampleValid x = true → x.flow < 25 →
    (isl s i).lowFlow = 2 → (isl s i).setinv = false → s.iod.sudden = false → ∃ t, exec (.lidSensorSample i x) s = .next t ∧
      t.iod.sudden = true ∧ t.iod.inReset = true ∧ (isl t i).sudden = true ∧ (isl t i).immDue = true ∧
      (∀ n : DieId, (die t n).inReset = true ∧ (die t n).inService = false ∧ gateClosed t.clk n.val 0 = true)) ∧
  (∀ (s : State) (i : Isl), (isl s i).inReset = false → (isl s i).boots = true → slopeOf (isl s i).outs ≤ 1024 →
    ∃ t, exec (.outletSlopeEval i) s = .next t ∧
      isl t i = { isl s i with slope := slopeOf (isl s i).outs, highSlope := 0 } ∧
      isl t (otherIsl i) = isl s (otherIsl i) ∧ t = { s with sia := t.sia, sib := t.sib }) ∧
  (∀ (s : State) (i : Isl), ∃ t, exec (.thermalLevelEval i) s = .next t ∧ (isl t i).level = (evalLevel s (isl s i)).level ∧
    (isl t (otherIsl i)).level = (isl s (otherIsl i)).level ∧ (∀ j, (isl t j).leanreq = decide (3 ≤ moduleLevel t)) ∧
    (∀ j, (isl t j).seen = moduleLevel t) ∧
    (max s.sia.seen s.sib.seen < moduleLevel t → (s.iod.inReset = false → t.hpt.aThm = true) ∧
      ∀ j, inSvc (isl s j) = true → logged t j (fun q => q.cls = 0x12 ∧ q.unit = unitModule)) ∧ t.dies = s.dies ∧ t.stg = s.stg) ∧
  (∀ (s : State) (n : DieId) (a b : Int) (dg ht : Nat), dg ≤ 300 →
    (a < 1680 → b < 1520 → ∃ t, exec (.junctionReport (.die n) a b dg ht) s = .next t ∧ die t n = { die s n with
        tjLogic := a, tjHbm := b, degr := dg, hot95 := min 65535 ht, mct := { (die s n).mct with hot := decide (1360 < b) } } ∧
      (∀ m : DieId, m ≠ n → die t m = die s m) ∧ t = { s with dies := t.dies }) ∧
    (1680 ≤ a ∨ 1520 ≤ b → (die s n).inReset = false → gateClosed s.clk n.val 0 = false → ∃ t, exec (.junctionReport (.die n) a b dg ht) s = .next t ∧
      (die t n).thermal = true ∧ (die t n).inReset = true ∧ (die t n).inService = false ∧ (die t n).tjLogic = a ∧
      gateClosed t.clk n.val 0 = true ∧ ∀ m : DieId, m ≠ n → (die t m).inService = (die s m).inService)) ∧
  (∀ (s : State) (a b : Int) (dg ht : Nat), dg ≤ 300 → 1680 ≤ a → s.iod.inReset = false →
    ∃ t, exec (.junctionReport .iod a b dg ht) s = .next t ∧ t.iod.thermal = true ∧ t.iod.inReset = true ∧ t.iod.tj = a ∧
      ∀ n : DieId, (die t n).inService = (die s n).inService ∧ (die t n).inReset = (die s n).inReset) ∧
  (∀ s : State, s.iod.sudden = true → (∃ i, inSvc (isl s i) = true ∧ (isl s i).setinv = false) →
    (∀ i, inSvc (isl s i) = true → (isl s i).setinv = false → calmNow (isl s i) = true) →
    ∃ t, exec .suddenLossHoldEnd s = .next t ∧ t.iod.sudden = false ∧
      (∀ n : DieId, (die s n).thermal = false → (die t n).inReset = false ∧
        gateClosed t.clk n.val 0 = false) ∧
      (∀ n : DieId, (die s n).thermal = true → die t n = die s n) ∧ t.sia = s.sia ∧ t.sib = s.sib) ∧
  (∀ (s : State) (i : Isl), inSvc (isl s i) = true → (isl s i).setinv = false → calmNow (isl s i) = false →
    exec .suddenLossHoldEnd s = .next s) ∧
  (∀ (s : State) (p : Port) (k : Pkt), Ready s p 11 0 0 k → ∃ st d, exec (.thmStatus p) s =
      .next (answered p k st d (fresh (took s p k)).2) ∧ d.length = 22 ∧ (d.drop 6).take 3 = lvlWords s ∧
      ((∀ n : DieId, dieInSvc s n = true) → (p ≠ .host → iodReady s = true) → inSvc s.sia = true → inSvc s.sib = true → st = stOk)) ∧
  (∀ (s : State) (p : Port) (k : Pkt), Ready s p 11 2 0 k → ∃ st d, exec (.thmAgeing p) s = .next (answered p k st d (took s p k)) ∧
    d.length = 15 ∧ (inSvc s.sia = true → nth d 13 = thmAge s.sia.degr s.sia.hot95)) ∧
  (∀ (s : State) (p : Port) (k : Pkt), Ready s p 11 1 3 k →
    (lvlBad (par k 0) 1 = false → lvlBad (par k 1) 2 = false → lvlBad (par k 2) 3 = false → lvlStep (par k 0) (par k 1) = true →
      lvlStep (par k 1) (par k 2) = true → anyIsl s = true →
      ∃ t, exec (.thmLimits p) s = .next (answered p k stOk [par k 0, par k 1, par k 2] t) ∧
        (∀ j, isl t j = { isl s j with lvl1 := par k 0, lvl2 := par k 1, lvl3 := par k 2 }) ∧
        t = { took s p k with sia := t.sia, sib := t.sib }) ∧
    (lvlBad (par k 0) 1 = true → exec (.thmLimits p) s = .next (refused p k stBadParam 10 4 (took s p k))))

/-- Lost and ready clock sources move their groups (R553, R556, R557), CLK_SELECT and the gates act on what they name alone, and
the root of a held die stays closed (R554, R561, R622). -/
def Obligations.ClocksAndGates : Prop :=
  (∀ (s : State) (c : ClkSrc), srcReady s.clk c = true → ∃ t, exec (.clockSourceLost c) s = .next t ∧ srcReady t.clk c = false ∧
    (∀ d, d ≠ c → srcReady t.clk d = srcReady s.clk d) ∧
    (∀ g : Fin 13, clkSrc t.clk g.val = if clkSrc s.clk g.val = srcCode c then firstReady t.clk else clkSrc s.clk g.val) ∧
    (c = .rec0 → t.clk.edgeA = .xref) ∧ (c = .rec1 → t.clk.edgeB = .xref) ∧ t.dies = s.dies ∧ t.stg = s.stg) ∧
  (∀ (s : State) (c : ClkSrc), srcReady s.clk c = false → (c = .xref ∨ s.iod.straps.getLsbD 0 = false) →
    ∃ t, exec (.clockSourceReady c) s = .next t ∧ srcReady t.clk c = true ∧
    (∀ g : Fin 13, clkSrc t.clk g.val = if clkSrc s.clk g.val = 3 then srcCode c else clkSrc s.clk g.val) ∧
    t = { s with clk := t.clk }) ∧
  (∀ (s : State) (g : Fin 13), exec (.clockRampEnd g) s =
    .next { s with clk := { s.clk with ramp := s.clk.ramp.filter (fun h => h != g) } }) ∧
  (∀ (s : State) (p : Port) (k : Pkt), Ready s p 9 0 0 k → (p ≠ .host → iodReady s = true) → exec (.clkStatus p) s =
    .next (answered p k stOk ([clkSrcstat s.clk, clkSrcsel s.clk] ++ (List.range 13).map (gateStat s.clk)) (took s p k))) ∧
  (∀ (s : State) (p : Port) (k : Pkt) (c : ClkSrc), Ready s p 9 1 1 k → fld (par k 0) 31 18 = 0 → fld (par k 0) 15 13 = 0 →
    fld (par k 0) 17 16 = srcCode c →
    (srcReady s.clk c = false → exec (.clkSelect p) s = .next (refused p k stNotReady 11 0xFFFF (took s p k))) ∧
    (srcReady s.clk c = true → fld (par k 0) 12 0 ≠ 0 → ∃ t, exec (.clkSelect p) s = .next (answered p k stOk [clkSrcsel t.clk] t) ∧
      (∀ g : Fin 13, clkSrc t.clk g.val = if tbit (par k 0) g.val then srcCode c else clkSrc s.clk g.val) ∧
      t = { took s p k with clk := t.clk })) ∧
  (∀ (s : State) (p : Port) (k : Pkt), Ready s p 9 2 1 k → gateBad k = false → isOpen k = true →
    (gateLeaf k ≠ 0 → gateClosed s.clk (gateGroup k) 0 = false) → gateClosed s.clk (gateGroup k) (gateLeaf k) = true →
    (gateLeaf k = 0 → dieHeld s (gateGroup k) = false) → ∃ t, exec (.clkGateOpen p) s = .next (answered p k stOk [gateStat t.clk (gateGroup k)] t) ∧
      (∀ g l, gateClosed t.clk g l = (gateClosed s.clk g l && !(g == gateGroup k && l == gateLeaf k))) ∧
      t = { took s p k with clk := t.clk }) ∧
  (∀ (s : State) (p : Port) (k : Pkt), Ready s p 9 2 1 k → gateBad k = false → isOpen k = true → gateLeaf k = 0 →
    gateClosed s.clk (gateGroup k) 0 = true → dieHeld s (gateGroup k) = true →
    exec (.clkGateOpen p) s = .next (refused p k stNotReady 11 0xFFFF (took s p k))) ∧
  (∀ (s : State) (p : Port) (k : Pkt), Ready s p 9 2 1 k → gateBad k = false → isOpen k = false →
    (gateInUse s (gateGroup k) (gateLeaf k) = true → exec (.clkGateClose p) s = .next (refused p k stRefusedInUse 11 0xFFFF
      (took s p k))) ∧
    (gateInUse s (gateGroup k) (gateLeaf k) = false → gateClosed s.clk (gateGroup k) (gateLeaf k) = false →
      ∃ t, exec (.clkGateClose p) s = .next (answered p k stOk [gateStat t.clk (gateGroup k)] t) ∧
        (∀ g l, gateClosed t.clk g l = (gateClosed s.clk g l || (g == gateGroup k && l == gateLeaf k))) ∧
        t = { took s p k with clk := t.clk }))

/-- The optical bypasses (R609-R613), frames at the ring and management ports (R602-R608), PCIe (R593, R594), link events of the
sensor ports and the bytes they bring. -/
def Obligations.Ports : Prop :=
  (∀ (s : State) (p : Port) (k : Pkt) (e : Edge), Ready s p 9 4 1 k → byBad k = false → byPort k = e →
    (byClose k = true → (edge s e).bypass ≠ 1 → (edge s (otherEdge e)).bypass ≠ 1 → (edge s (otherEdge e)).bypass ≠ 2 →
      (edge s (otherEdge e)).held = false → ∃ u, exec (.orpBypassClose p) s = .next (deferred p k (.bypass e true) u) ∧
        edge u e = { edge s e with
          held := true, bypass := 2, goal := true, linkup := false, lost := (edge s e).lost || (edge s e).linkup } ∧
        edge u (otherEdge e) = edge s (otherEdge e) ∧ u = { took s p k with edgeA := u.edgeA, edgeB := u.edgeB }) ∧
    (byClose k = true → (edge s e).bypass ≠ 1 → (edge s (otherEdge e)).bypass = 1 →
      exec (.orpBypassClose p) s = .next (refused p k stRefusedInUse 11 0xFFFF (took s p k))) ∧
    (byClose k = true → (edge s e).bypass = 1 →
      exec (.orpBypassClose p) s = .next (answered p k stOkEmpty [orpStat (edge s e)] (took s p k))) ∧
    (byClose k = false → (edge s e).bypass = 0 →
      exec (.orpBypassOpen p) s = .next (answered p k stOkEmpty [orpStat (edge s e)] (took s p k))) ∧
    (byClose k = false → (edge s e).bypass ≠ 0 → trained (edge s e) = true → s.iod.testMode = false →
      ∃ u, exec (.orpBypassOpen p) s = .next (deferred p k (.bypass e false) u) ∧ (edge u e).held = false ∧
        (edge u e).bypass = 2 ∧ (edge u e).goal = false ∧ edge u (otherEdge e) = edge s (otherEdge e) ∧
        u = { took s p k with edgeA := u.edgeA, edgeB := u.edgeB })) ∧
  (∀ (s : State) (e : Edge), ∃ t, exec (.bypassAutoClose e) s = .next t ∧
    (edge t e).bypass = (if (edge s e).bypass = 1 then 1 else 2) ∧ ((edge s e).bypass ≠ 1 → (edge t e).goal = true) ∧
    (edge t e).held = (edge s e).held ∧ edge t (otherEdge e) = edge s (otherEdge e) ∧
    t = { s with edgeA := t.edgeA, edgeB := t.edgeB }) ∧
  (∀ (s : State) (e : Edge), (edge s e).inReset = false → (edge s e).bypass = 1 → ∃ t, exec (.bypassAutoOpen e) s = .next t ∧
    (edge t e).bypass = (if (edge s e).held || s.iod.testMode then 1 else 2) ∧ (edge t e).rxlock = true ∧
    edge t (otherEdge e) = edge s (otherEdge e) ∧ t = { s with edgeA := t.edgeA, edgeB := t.edgeB }) ∧
  (∀ (s : State) (e : Edge), (edge s e).bypass = 2 →
    s.dis.defers.any (fun d => d.what == .bypass e (!(edge s e).goal)) = false →
    (∃ t, exec (.bypassMoveEnd e true) s = .next t ∧
      edge t e = { edge s e with bypass := if (edge s e).goal then 1 else 0, moved := true } ∧
      edge t (otherEdge e) = edge s (otherEdge e) ∧ t.dies = s.dies ∧
      ((edge s e).goal = true → drew s t (.bypass e true) stOk [orpStat (edge t e)]) ∧
      ((edge s e).goal = false → t.dis = s.dis ∧ t.hpt = s.hpt)) ∧
    ∃ t, exec (.bypassMoveEnd e false) s = .next t ∧ edge t e = { edge s e with bypass := 3 } ∧
      (∀ i, inSvc (isl s i) = true → logged t i (fun q => q.cls = 0x0C ∧ q.status = stInternal)) ∧
      edge t (otherEdge e) = edge s (otherEdge e) ∧ t.dies = s.dies ∧ drew s t (.bypass e (edge s e).goal) stInternal [execDetail]) ∧
  (∀ (s : State) (e : Edge), (edge s e).bypass = 0 → (edge s e).inReset = false → ∃ t, exec (.downstreamLinkUp e) s = .next t ∧
    edge t e = { edge s e with linkup := true } ∧ edge t (otherEdge e) = edge s (otherEdge e) ∧ t.dies = s.dies ∧
    drew s t (.bypass e false) stOk [orpStat (edge t e)]) ∧
  (∀ (s : State) (e : Edge), (edge s e).bypass = 0 → (edge s e).linkup = false →
    s.dis.defers.any (fun d => d.what == .bypass e false) = true → ∃ t, exec (.downstreamLinkTimeout e) s = .next t ∧
      drew s t (.bypass e false) stInternal [execDetail] ∧ t.edgeA = s.edgeA ∧ t.edgeB = s.edgeB ∧ t.dies = s.dies) ∧
  (∀ (s : State) (e : Edge) (f : Frame) (w : Nat), (edge s e).bypass = 0 → (edge s e).inReset = false →
    (f.fcsOk = false → ∃ t, exec (.ringFrameReceive e f w) s = .next t ∧
      edge t e = { edge s e with fcserr := min 65535 ((edge s e).fcserr + 1) } ∧ t.out = s.out) ∧
    (f.fcsOk = true → f.source = portAddr (knownSerial s .host) 0x59 (edgeNo e) → exec (.ringFrameReceive e f w) s = .next s) ∧
    (f.fcsOk = true → f.source ≠ portAddr (knownSerial s .host) 0x59 (edgeNo e) → (edge s e).linkup = true → ∃ t, exec (.ringFrameReceive e f w) s = .next t ∧
      (w + f.payload.length + 18 ≤ 65536 → .forward e f ∈ t.out ∧ (edge t e).drop = (edge s e).drop) ∧
      (65536 < w + f.payload.length + 18 → (edge t e).drop = min 65535 ((edge s e).drop + 1)) ∧
      (f.etype = 0x88F7 → .deliver e f ∈ t.out) ∧
      (f.etype = 0x88F7 → tbit (nth (edge s e).cfg 3) 31 = false → t.out.head? = some (.deliver e f) ∧ t.dies = s.dies) ∧
      edge t (otherEdge e) = edge s (otherEdge e) ∧ t.stg = s.stg)) ∧
  (∀ (s : State) (e : Edge) (f : Frame) (w : Nat), (edge s e).inReset = false →
    ((edge s e).bypass = 0 ∧ (edge s e).linkup = false ∨ (edge s e).bypass = 1 ∧ (edge s e).rxlock = true) → f.fcsOk = true →
    f.source ≠ portAddr (knownSerial s .host) 0x59 (edgeNo e) → tbit (nth (edge s e).cfg 3) 31 = false →
    exec (.ringFrameReceive e f w) s = .next (if f.etype = 0x88F7 then { s with out := .deliver e f :: s.out } else s)) ∧
  (∀ (s : State) (i : Isl) (f : Frame) (q : Pkt), (mgt s i).up = true → inSvc (isl s i) = true → f.fcsOk = true →
    f.etype = 0x88B6 → f.dest = portAddr (recordSerial (isl s i)) 0x58 (islNo i) → (mgt s i).inbound = [] →
    aliveSettled s (.mgt i) = true → 20 ≤ f.payload.length →
    q = { port := .mgt i, words := bytesWords (payloadPkt f.payload) } → (payloadPkt f.payload).length % 4 = 0 →
    5 ≤ q.words.length → q.words.length ≤ 16384 → sealOk q.words = true → pktLen q + 5 = q.words.length → isAliveSync q = false →
    (mgt s i).alive.toNat = pktAlive q → ∃ t, exec (.mgtFrameReceive i f) s = .next t ∧
      mgt t i = { mgt s i with requester := some f.source, alive := (mgt s i).alive + 1, wait := (mgt s i).wait ++ [q] } ∧
      mgt t (otherIsl i) = mgt s (otherIsl i) ∧ t = { s with mgtA := t.mgtA, mgtB := t.mgtB }) ∧
  (∀ (s : State) (i : Isl) (f : Frame), f.etype ≠ 0x88B6 ∨ f.fcsOk = false ∨ (mgt s i).up = false →
    exec (.mgtFrameReceive i f) s = .next s) ∧
  (∀ (s : State) (b : Fin 6) (off : Nat) (data : List Byte), s.iod.pceUp = true → s.iod.inReset = false → (b.val = 0 ∨ b.val = 2) →
    (∀ n base size, b.val = 0 → s.tt.st = .loading → off + data.length ≤ s.tt.len → loadPlace s = some (n, base, size) →
      (mct s n).flaws = [] → (mct s n).writes = [] → ∃ t, exec (.pciePostedWrite b off data) s = .next t ∧
        (die t n).hbm = memWr (die s n).hbm (base + off) data ∧ (∀ m : DieId, m ≠ n → die t m = die s m) ∧
        t = { s with dies := t.dies, free := t.free }) ∧
    (b.val = 2 ∨ s.tt.st ≠ .loading ∨ s.tt.len < off + data.length →
      exec (.pciePostedWrite b off data) s = .next { s with iod := { s.iod with pceDrop := true } })) ∧
  (∀ (s : State) (b : Fin 6) (off len : Nat) (rf : Bool), s.iod.pceUp = true → s.iod.inReset = false →
    (∀ n base size, b.val = 0 → loadPlace s = some (n, base, size) → off + len ≤ size → off + len ≤ 2 ^ 32 →
      badIn (mct s n) (base + off) len = none → ∃ t, exec (.pcieRead b off len rf) s = .next t ∧
        t.out = .pcie true (memRd (hbmView s n .spine 0x07) (base + off) len) :: s.out ∧ (∀ m : DieId, (die t m).hbm = (die s m).hbm) ∧
        t = { s with dies := t.dies, out := t.out, free := t.free }) ∧
    (∀ j, b.val = 2 → off + len ≤ 0x80000 → servingIsl s .host = some j → rf = true → ∃ t, exec (.pcieRead b off len rf) s = .next t ∧
      t.out = .pcie false [] :: s.out ∧ (isl t j).st = 4 ∧ (isl t j).hrerr = true) ∧
    (b.val ≠ 0 → b.val ≠ 2 → exec (.pcieRead b off len rf) s = .next { s with out := .pcie false [] :: s.out })) ∧
  (∀ (s : State) (n : Fin 16), s.iod.inReset = false → gateClosed s.clk 12 6 = false →
    exec (.portLinkUp (.aph n)) s = .next { s with iod := { s.iod with aphUp := s.iod.aphUp ||| BitVec.ofNat 16 (2 ^ n.val) } }) ∧
  (∀ (s : State) (n : Fin 4), s.iod.inReset = false → gateClosed s.clk 12 7 = false →
    exec (.portLinkUp (.eth n)) s = .next { s with iod := { s.iod with ethUp := s.iod.ethUp ||| BitVec.ofNat 4 (2 ^ n.val) } }) ∧
  (∀ (s : State) (w v : Fin 8), s.iod.inReset = false → gateClosed s.clk 12 5 = false → s.iod.straps.getLsbD 2 = true →
    pcieCode w.val v.val = true → exec (.portLinkUp (.pcie w v)) s =
      .next { s with
        iod := { s.iod with pceUp := true, pceWidth := w.val, pceSpeed := v.val }, out := .pcieId s.iod.pceDev :: s.out }) ∧
  (∀ (s : State) (i : Isl), ((isl s i).inReset = false → ∃ t, exec (.portLinkUp (.mgt i)) s = .next t ∧
      mgt t i = { mgt s i with up := true } ∧ mgt t (otherIsl i) = mgt s (otherIsl i) ∧ t = { s with mgtA := t.mgtA, mgtB := t.mgtB }) ∧
    ∃ t, exec (.portLinkDown (.mgt i)) s = .next t ∧ mgt t i = { mgt s i with up := false } ∧
      mgt t (otherIsl i) = mgt s (otherIsl i) ∧ t = { s with mgtA := t.mgtA, mgtB := t.mgtB }) ∧
  (∀ (s : State) (e : Edge), ∃ t, exec (.portLinkDown (.ringDown e)) s = .next t ∧
    edge t e = { edge s e with linkup := false, lost := (edge s e).lost || (edge s e).linkup } ∧
    edge t (otherEdge e) = edge s (otherEdge e) ∧ t = { s with edgeA := t.edgeA, edgeB := t.edgeB }) ∧
  (∀ (s : State) (w v : Fin 8), exec (.portLinkDown (.pcie w v)) s =
    .next { s with iod := { s.iod with pceUp := false, pceWidth := 0, pceSpeed := 0 } }) ∧
  (∀ (s : State) (n : Fin 4), s.iod.ethUp.getLsbD n.val = true → ∃ t, exec (.portLinkDown (.eth n)) s = .next t ∧
    t.iod.ethUp.getLsbD n.val = false ∧ t.iod.ethDown.getLsbD n.val = true ∧
    t = { s with iod := { s.iod with ethUp := t.iod.ethUp, ethDown := t.iod.ethDown } }) ∧
  (∀ (s : State) (n : Fin 16), s.iod.aphUp.getLsbD n.val = true → ∃ t, exec (.portLinkDown (.aph n)) s = .next t ∧
    t.iod.aphUp.getLsbD n.val = false ∧ t.iod.aphDown.getLsbD n.val = true ∧
    t = { s with iod := { s.iod with aphUp := t.iod.aphUp, aphDown := t.iod.aphDown } }) ∧
  (∀ (s : State) (n : Fin 20) (data : List Byte) (l : Landing) (t : Timetable), s.tt.active = some t →
    t.body.landing.find? (fun x => x.stream == n) = some l → iodReady s = true → streamUp s n.val = true →
    dieInSvc s l.die = true → data.length ≤ l.size → (mct s l.die).flaws = [] → (mct s l.die).writes = [] →
    ∃ u off, exec (.sensorDataReceive n data) s = .next u ∧ off + data.length ≤ l.size ∧
      (die u l.die).hbm = memWr (die s l.die).hbm (l.base + off) data ∧ (∀ m : DieId, m ≠ l.die → die u m = die s m) ∧
      u = { s with dies := u.dies, free := u.free })

/-- Tokens, attestation and firmware updates (R521, R522, R571-R576). -/
def Obligations.Trust : Prop :=
  (∀ (s : State) (p : Port) (k : Pkt), Ready s p 10 4 40 k →
    (tokenRefusal (took s p k) k = none → ∃ t, exec (.secToken p) s = .next (answered p k stOk [] t) ∧ t.iod.testMode = true ∧
      (∀ e, (edge t e).bypass = (if (edge s e).bypass = 1 then 1 else 2)) ∧ t.dies = s.dies ∧
      ∀ i, inSvc (isl s i) = true → logged t i (fun q => q.cls = 0x17 ∧ q.status = stOk)) ∧
    (∀ st a b, tokenRefusal (took s p k) k = some (st, a, b) → ∃ t, exec (.secToken p) s = .next (refused p k st a b t) ∧
      t.iod = s.iod ∧ t.edgeA = s.edgeA ∧ t.edgeB = s.edgeB ∧ t.dies = s.dies ∧
      ∀ i, inSvc (isl s i) = true → logged t i (fun q => q.cls = 0x17 ∧ q.status = st))) ∧
  (∀ (s : State) (p : Port) (k : Pkt) (i : Isl), Ready s p 10 0 4 k → servingIsl s p = some i →
    ∃ d t n, exec (.secAttest p) s = .next (answered p k stOk d t) ∧ (d.drop 8).take 4 = parsFrom k 0 ∧
      (d.drop 12).take 4 = nonceWords n ∧ isl t i = { isl s i with nonce := some n } ∧ isl t (otherIsl i) = isl s (otherIsl i)) ∧
  (∀ (s : State) (p : Port) (k : Pkt) (g : Nat), Ready s p 10 1 3 k → badTarget k = false → fld (par k 0) 1 0 = g → parN k 1 ≠ 0 →
    parN k 1 ≤ slotSize g → minVersion s g ≤ parN k 2 → s.iod.load = none → activating s = false → onTrial s = false →
    targetReady s g = true → exec (.secFwOpen p) s = .next (answered p k stOk [] { took s p k with
      iod := { s.iod with load := some { target := g, len := parN k 1, version := par k 2, done := 0 } } })) ∧
  (∀ (s : State) (p : Port) (k : Pkt) (l : FwLoad) (m : Nat), Ready s p 10 2 (2 + m) k → parN k 1 = 4 * m → 1 ≤ m → m ≤ 1024 →
    s.iod.load = some l → parN k 0 = l.done → l.done + 4 * m ≤ l.len →
    ∃ t, exec (.secFwWrite p) s = .next (answered p k stOk [] t) ∧ t.iod = { s.iod with load := some { l with done := l.done + 4 * m } } ∧
      (∀ i, isl t i = if i ∈ loadIsls l.target then { isl s i with
          flash := programLoad (isl s i).flash (loadSlot s l.target) l.done (wordsBytes (parsFrom k 2)) } else isl s i) ∧
      t.dies = s.dies) ∧
  (∀ (s : State) (p : Port) (k : Pkt) (l : FwLoad) (i : Isl), Ready s p 10 3 3 k → badTarget k = false → targetIsl l.target = i →
    l.target ≤ 1 → fld (par k 0) 1 0 = l.target → par64 k 1 = 0 → s.iod.load = some l → l.len ≤ l.done →
    (isl s (otherIsl i)).st = 2 →
    (imageOk (isl s i) l.target (loadSlot s l.target) l.len = true → ∃ u, exec (.secFwActivate p) s = .next (deferred p k (.fwIsl i) u) ∧
      (isl u i).inReset = true ∧ (isl u i).fw.slotB = !(isl s i).fw.slotB ∧ (isl u i).fw.trial = some (knownStage s (isl s i)) ∧
      (isl u i).flash = (isl s i).flash ∧ u.iod.load = none ∧ (isl u (otherIsl i)).st = 3) ∧
    (imageOk (isl s i) l.target (loadSlot s l.target) l.len = false → ∃ u, exec (.secFwActivate p) s =
      .next (refused p k stBadCheck 0 0xFFFF u) ∧ u.iod.load = none ∧ (isl u i).fw.slotB = (isl s i).fw.slotB ∧
      (isl u i).inReset = (isl s i).inReset)) ∧
  (∀ (s : State) (p : Port) (k : Pkt) (l : FwLoad), Ready s p 10 3 3 k → badTarget k = false → fld (par k 0) 1 0 = 2 →
    s.stg.stage + 2 ≤ par64 k 1 → (p ≠ .host → iodReady s = true) → s.iod.load = some l → l.target = 2 → l.len ≤ l.done →
    inSvc s.sia = true → inSvc s.sib = true → (∀ i, imageOk (isl s i) 2 (loadSlot s 2) l.len = true) →
    exec (.secFwActivate p) s = .next (deferred p k .fwIod { took s p k with
      iod := { s.iod with load := none, fwArm := some (par64 k 1) } })) ∧
  (∀ (s : State) (a : Nat), s.iod.fwArm = some a → a ≤ s.stg.stage → iodReady s = true → ∃ t, exec .fwSwitch s = .next t ∧
    t.iod.fwArm = none ∧ t.iod.fw.slotB = !s.iod.fw.slotB ∧ t.iod.fw.trial = some s.stg.stage ∧ drew s t .fwIod stOk [] ∧
    t.stg = s.stg ∧ t.tt = s.tt ∧ t.dies = s.dies ∧ t.mpl = s.mpl) ∧
  (∀ s : State, trialOver s.stg.stage s.iod.fw = true → ∃ t, exec (.fwTrialConfirm .iod) s = .next t ∧
    t.iod = { s.iod with fw := { s.iod.fw with trial := none } } ∧
    (∀ j, isl t j = { isl s j with minIod := max (isl s j).minIod (imageWord (isl s j) (iodSlot s.iod.fw.slotB) 0xC).toNat }) ∧
    t = { s with iod := t.iod, sia := t.sia, sib := t.sib }) ∧
  (∀ (s : State) (i : Isl), trialOver (knownStage s (isl s i)) (isl s i).fw = true → ∃ t, exec (.fwTrialConfirm (.island i)) s = .next t ∧
    isl t i = { isl s i with
      minIsl := max (isl s i).minIsl (imageWord (isl s i) (islSlot (isl s i).fw.slotB) 0xC).toNat
      fw := { (isl s i).fw with trial := none } } ∧ isl t (otherIsl i) = isl s (otherIsl i) ∧ t = { s with sia := t.sia, sib := t.sib })

/-- Notices and the flash logbook take what waits, in order (R512, R518); decisions that are due are entered (R513); the log and
counter opcodes report (Table 14-7), and a record of the island RAM that fails its check fails the island (R465); flash
operations run and draw their replies (R493, R545). -/
def Obligations.LogsAndFlash : Prop :=
  (∀ (s : State) (i : Isl) (q : Nat × Entry) (r : List (Nat × Entry)), (isl s i).notices = q :: r → inSvc (isl s i) = true →
    ∃ t, exec (.mgtNotice i) s = .next t ∧ isl t i = { isl s i with notices := r } ∧
      mgt t i = { mgt s i with replies := (mgt s i).replies + 1 } ∧
      t.out = .mgt i ((mgt s i).requester.getD broadcast) 0x88B6 (noticeWords q (mgt s i).replies.toNat) :: s.out ∧
      isl t (otherIsl i) = isl s (otherIsl i) ∧ t.hpt = s.hpt ∧ t.dies = s.dies) ∧
  (∀ (s : State) (i : Isl) (q : Nat × Entry) (r : List (Nat × Entry)), (isl s i).pendBook = q :: r → inSvc (isl s i) = true →
    ∃ t, exec (.logbookProgram i) s = .next t ∧
      isl t i = { isl s i with pendBook := r, logbook := (q :: (isl s i).logbook).take 4096 } ∧
      isl t (otherIsl i) = isl s (otherIsl i) ∧ t = { s with sia := t.sia, sib := t.sib }) ∧
  (∀ (s : State) (n : DieId) (m : Option (Fin 8)) (link : Bool), decisionDue s n link m = true →
    ∃ t, exec (.decisionDueNotice (.die n) m link) s = .next t ∧
    t.dies = s.dies ∧ t.engines = s.engines ∧ ∀ i, inSvc (isl s i) = true → logged t i (fun q => q.cls = 0x16 ∧ q.unit = n.val)) ∧
  (∀ (s : State) (p : Port) (k : Pkt) (i : Isl), Ready s p 12 0 3 k → fld (par k 0) 30 0 = 0 → islBit (par k 0) = i →
    parN k 1 ≤ 16383 → 1 ≤ parN k 2 → parN k 2 ≤ 2046 → (p ≠ .host → parN k 2 ≤ 46) → inSvc (isl s i) = true →
    (parN k 1 < (isl s i).flog.length → exec (.diagLogRead p true) s = .next (answered p k stNotReady [execDetail] (ramFails (took s p k) i))) ∧
    exec (.diagLogRead p false) s = .next (answered p k
      (if (((isl s i).flog.drop (parN k 1)).take (parN k 2)).length = parN k 2 then stOk else stOkPartial)
      ((((isl s i).flog.drop (parN k 1)).take (parN k 2)).flatMap entryWords) (took s p k))) ∧
  (∀ (s : State) (p : Port) (k : Pkt) (i : Isl), Ready s p 12 5 2 k → fld (par k 0) 30 0 = 0 → islBit (par k 0) = i →
    fld (par k 1) 31 28 = 0 → fld (par k 1) 15 10 = 0 → 1 ≤ fld (par k 1) 9 0 → (p ≠ .host → fld (par k 1) 9 0 ≤ 46) →
    inSvc (isl s i) = true →
    exec (.sisLogbook p) s = .next (answered p k
      (if (((isl s i).logbook.drop (fld (par k 1) 27 16)).take (fld (par k 1) 9 0)).length = fld (par k 1) 9 0 then stOk else stOkPartial)
      ((((isl s i).logbook.drop (fld (par k 1) 27 16)).take (fld (par k 1) 9 0)).flatMap entryWords) (took s p k))) ∧
  (∀ (s : State) (p : Port) (k : Pkt), Ready s p 12 1 0 k → (p ≠ .host → iodReady s = true) →
    exec (.diagCounters p) s = .next (answered p k stOk (counterWords s) (took s p k))) ∧
  (∀ (s : State) (p : Port) (k : Pkt), Ready s p 12 2 0 k → (p ≠ .host → iodReady s = true) →
    ∃ st d, exec (.diagSelftest p) s = .next (answered p k st d (took s p k)) ∧ d.length = 96 ∧
      ((∀ n : DieId, dieInSvc s n = true) → st = stOk) ∧
      ∀ g : EngId, dieInSvc s (dieOf g) = true → nth d g.val = teStest s.stg.stage (eng s g)) ∧
  (∀ (s : State) (p : Port) (k : Pkt), Ready s p 12 3 0 k →
    exec (.sisStatus p) s = .next (answered p k (if inSvc s.sia && inSvc s.sib then stOk else stOkPartial)
      ((if inSvc s.sia then sisWords s.sia else List.replicate 6 0) ++ if inSvc s.sib then sisWords s.sib else List.replicate 6 0)
      (took s p k))) ∧
  (∀ (s : State) (p : Port) (k : Pkt) (i : Isl), Ready s p 12 4 3 k → parN k 2 = 0 → flashBad k = none → fld (par k 0) 1 0 = 1 →
    islBit (par k 0) = i → 65536 ≤ parN k 1 → inSvc (isl s i) = true → (isl s i).flashOp = none →
    ∃ u, exec (.sisFlashErase p) s = .next (deferred p k (.flash i) u) ∧
      isl u i = { isl s i with flashOp := some (1, 0x3800000 + parN k 1, List.replicate 65536 0xFF) } ∧
      isl u (otherIsl i) = isl s (otherIsl i) ∧ u = { took s p k with sia := u.sia, sib := u.sib }) ∧
  (∀ (s : State) (p : Port) (k : Pkt), Ready s p 12 4 3 k → parN k 2 = 0 → flashBad k = none → fld (par k 0) 1 0 = 1 →
    parN k 1 < 65536 → exec (.sisFlashErase p) s = .next (refused p k stFirewall 10 5 (took s p k))) ∧
  (∀ (s : State) (p : Port) (k : Pkt) (i : Isl) (m : Nat), Ready s p 12 4 (3 + m) k → parN k 2 = 4 * m → 1 ≤ m → flashBad k = none →
    fld (par k 0) 1 0 = 2 → islBit (par k 0) = i →
    (65536 ≤ parN k 1 ∨ keyProgramOk (isl s i) (parN k 1) ((wordsBytes (parsFrom k 3)).take (4 * m)) = true) →
    inSvc (isl s i) = true → (isl s i).flashOp = none → ∃ u, exec (.sisFlashProgram p) s = .next (deferred p k (.flash i) u) ∧
      isl u i = { isl s i with flashOp := some (2, 0x3800000 + parN k 1, (wordsBytes (parsFrom k 3)).take (4 * m)) } ∧
      isl u (otherIsl i) = isl s (otherIsl i) ∧ u = { took s p k with sia := u.sia, sib := u.sib }) ∧
  (∀ (s : State) (i : Isl) (o off : Nat) (bs : List Byte), (isl s i).flashOp = some (o, off, bs) →
    ∃ t, exec (.flashOperationEnd i) s = .next t ∧ isl t i = { isl s i with flashOp := none, flash := memWr (isl s i).flash off bs } ∧
      isl t (otherIsl i) = isl s (otherIsl i) ∧ t.dies = s.dies ∧ drew s t (.flash i) stOk [toW bs.length])
end

