-- ==== Sys2Proof/Laws/Memory.lean ====
section
/-! SUPPORT. Banks of numbered units, and the canonical form of memories. -/

namespace Sys2Proof.Laws

open Sys2Proof.Machine Sys2Proof.Safety

/-! Banks. -/

theorem find_filter_of_imp {α : Type} (p q : α → Bool) (l : List α) (h : ∀ x, q x = true → p x = true) :
    (l.filter p).find? q = l.find? q := by
  induction l with
  | nil => rfl
  | cons x r ih =>
    cases hp : p x with
    | true => simp [hp, List.find?_cons, ih]
    | false =>
      have hq : q x = false := by
        cases hq : q x with
        | false => rfl
        | true => simp [h x hq] at hp
      simp [hp, hq, ih]

theorem find_filter_none {α : Type} (p q : α → Bool) (l : List α) (h : ∀ x, q x = true → p x = false) :
    (l.filter p).find? q = none := by
  simp only [List.find?_eq_none, List.mem_filter]
  rintro x ⟨_, hp⟩ hq
  simp [h x hq] at hp

/-- A unit that has been set reads as it was set. -/
@[simp] theorem bankGet_bankSet_self {α : Type} [DecidableEq α] (d : α) (m : Bank α) (k : Nat) (v : α) :
    bankGet d (bankSet d m k v) k = v := by
  unfold bankGet bankSet
  rw [List.find?_append, List.find?_append, find_filter_none, find_filter_none]
  · by_cases h : v = d <;> simp [h]
  · intro x hx; simp at hx; simp [hx]
  · intro x hx; simp at hx; simp [hx]

/-- The others stay. -/
theorem bankGet_bankSet_ne {α : Type} [DecidableEq α] (d : α) (m : Bank α) {k j : Nat} (v : α) (h : j ≠ k) :
    bankGet d (bankSet d m k v) j = bankGet d m j := by
  unfold bankGet bankSet
  rw [List.find?_append, List.find?_append]
  have hm : (if v = d then [] else [(k, v)] : List (Nat × α)).find? (fun e => e.1 == j) = none := by
    by_cases hv : v = d <;> simp [hv, Ne.symm h]
  rw [hm]
  rcases Nat.lt_or_gt_of_ne h with hl | hl
  · rw [find_filter_of_imp, find_filter_none]
    · simp
    · intro x hx; simp at hx; simp; omega
    · intro x hx; simp at hx; simp; omega
  · rw [find_filter_none, find_filter_of_imp]
    · simp
    · intro x hx; simp at hx; simp; omega
    · intro x hx; simp at hx; simp; omega

theorem mem_bankSet {α : Type} [DecidableEq α] {d : α} {m : Bank α} {k : Nat} {v : α} {e : Nat × α}
    (h : e ∈ bankSet d m k v) : e ∈ m ∨ e = (k, v) := by
  unfold bankSet at h
  simp only [List.mem_append, List.mem_filter] at h
  rcases h with (⟨h, _⟩ | h) | ⟨h, _⟩
  · exact .inl h
  · by_cases hv : v = d <;> simp [hv] at h
    exact .inr h
  · exact .inl h

theorem bankGet_mem {α : Type} (d : α) (m : Bank α) (k : Nat) : bankGet d m k = d ∨ (∃ e ∈ m, e.1 = k ∧ e.2 = bankGet d m k) := by
  unfold bankGet
  cases h : m.find? (fun e => e.1 == k) with
  | none => exact .inl rfl
  | some e =>
    have := List.find?_some h
    exact .inr ⟨e, List.mem_of_find?_eq_some h, by simpa using this, rfl⟩

/-! Units by number. -/

@[simp] theorem die_setDie_self (s : State) (n : Nat) (d : Die) : die (setDie s n d) n = d := bankGet_bankSet_self _ _ _ _
theorem die_setDie_ne (s : State) {n m : Nat} (d : Die) (h : m ≠ n) : die (setDie s n d) m = die s m := bankGet_bankSet_ne _ _ _ h
@[simp] theorem die_modDie_self (s : State) (n : Nat) (f : Die → Die) : die (modDie s n f) n = f (die s n) := die_setDie_self _ _ _
theorem die_modDie_ne (s : State) {n m : Nat} (f : Die → Die) (h : m ≠ n) : die (modDie s n f) m = die s m := die_setDie_ne _ _ h
@[simp] theorem mct_modMct_self (s : State) (n : Nat) (f : Mct → Mct) : mct (modMct s n f) n = f (mct s n) := by
  simp [mct, modMct]
@[simp] theorem eng_setEng_self (s : State) (g : Nat) (e : Engine) : eng (setEng s g e) g = e := bankGet_bankSet_self _ _ _ _
theorem eng_setEng_ne (s : State) {g h : Nat} (e : Engine) (k : h ≠ g) : eng (setEng s g e) h = eng s h := bankGet_bankSet_ne _ _ _ k
@[simp] theorem eng_modEng_self (s : State) (g : Nat) (f : Engine → Engine) : eng (modEng s g f) g = f (eng s g) :=
  eng_setEng_self _ _ _
theorem eng_modEng_ne (s : State) {g h : Nat} (f : Engine → Engine) (k : h ≠ g) : eng (modEng s g f) h = eng s h :=
  eng_setEng_ne _ _ k
@[simp] theorem cvu_modCvu_self (s : State) (k : Nat) (f : Cvu → Cvu) : cvu (modCvu s k f) k = f (cvu s k) := bankGet_bankSet_self _ _ _ _
theorem cvu_modCvu_ne (s : State) {k j : Nat} (f : Cvu → Cvu) (h : j ≠ k) : cvu (modCvu s k f) j = cvu s j := bankGet_bankSet_ne _ _ _ h
@[simp] theorem isl_modIsl_self (s : State) (i : Isl) (f : Island → Island) : isl (modIsl s i f) i = f (isl s i) := by cases i <;> rfl
@[simp] theorem isl_modIsl_other (s : State) (i : Isl) (f : Island → Island) : isl (modIsl s i f) (otherIsl i) = isl s (otherIsl i) := by
  cases i <;> rfl
@[simp] theorem edge_modEdge_self (s : State) (e : Edge) (f : RingEdge → RingEdge) : edge (modEdge s e f) e = f (edge s e) := by
  cases e <;> rfl
@[simp] theorem edge_modEdge_other (s : State) (e : Edge) (f : RingEdge → RingEdge) :
    edge (modEdge s e f) (otherEdge e) = edge s (otherEdge e) := by cases e <;> rfl
@[simp] theorem fwl_modFwl_self (s : State) (t : FwTarget) (f : Firewall → Firewall) : fwl (modFwl s t f) t = f (fwl s t) :=
  bankGet_bankSet_self _ _ _ _

/-! The canonical form. -/

theorem rising_mono {l : List Host.Cell} {n m : Nat} (h : risingFrom n l = true) (hm : m ≤ n) : risingFrom m l = true := by
  cases l with
  | nil => rfl
  | cons c r => simp only [risingFrom, Bool.and_eq_true, decide_eq_true_eq] at h ⊢; exact ⟨by omega, h.2⟩

theorem rising_ge {l : List Host.Cell} {n : Nat} (h : risingFrom n l = true) : ∀ c ∈ l, n ≤ c.1 := by
  induction l generalizing n with
  | nil => simp
  | cons c r ih =>
    simp only [risingFrom, Bool.and_eq_true, decide_eq_true_eq] at h
    intro x hx
    rcases List.mem_cons.1 hx with rfl | hx
    · exact h.1
    · have := ih h.2 x hx; omega

theorem rising_filter {l : List Host.Cell} {n : Nat} (p : Host.Cell → Bool) (h : risingFrom n l = true) :
    risingFrom n (l.filter p) = true := by
  induction l generalizing n with
  | nil => rfl
  | cons c r ih =>
    simp only [risingFrom, Bool.and_eq_true, decide_eq_true_eq] at h
    cases hp : p c with
    | true => simp only [List.filter_cons, hp, if_true, risingFrom, Bool.and_eq_true, decide_eq_true_eq]; exact ⟨h.1, ih h.2⟩
    | false => simp only [List.filter_cons, hp]; exact ih (rising_mono h.2 (by omega))

theorem rising_append {l r : List Host.Cell} {n a : Nat} (hl : risingFrom n l = true) (hb : ∀ c ∈ l, c.1 < a)
    (hn : n ≤ a) (hr : risingFrom a r = true) : risingFrom n (l ++ r) = true := by
  induction l generalizing n with
  | nil => exact rising_mono hr hn
  | cons c t ih =>
    simp only [risingFrom, Bool.and_eq_true, decide_eq_true_eq] at hl
    have hc := hb c (by simp)
    simp only [List.cons_append, risingFrom, Bool.and_eq_true, decide_eq_true_eq]
    exact ⟨hl.1, ih hl.2 (fun x hx => hb x (by simp [hx])) (by omega)⟩

theorem cellsFrom_rising (f : Fill) (a : Nat) (bs : List Byte) :
    risingFrom a (cellsFrom f a bs) = true ∧ ∀ c ∈ cellsFrom f a bs, c.1 < a + bs.length := by
  induction bs generalizing a with
  | nil => simp [cellsFrom, risingFrom]
  | cons b r ih =>
    have h := ih (a + 1)
    by_cases hf : f = .byte b
    · simp only [cellsFrom, hf, if_true]
      subst hf
      exact ⟨rising_mono h.1 (by omega), fun c hc => by have := h.2 c hc; simp only [List.length_cons]; omega⟩
    · simp only [cellsFrom, hf, if_false, risingFrom, Bool.and_eq_true, decide_eq_true_eq]
      refine ⟨⟨by omega, h.1⟩, fun c hc => ?_⟩
      rcases List.mem_cons.1 hc with rfl | hc
      · simp
      · have := h.2 c hc; simp only [List.length_cons]; omega

theorem cellsFrom_fill (f : Fill) (a : Nat) (bs : List Byte) : ∀ c ∈ cellsFrom f a bs, ¬ f = .byte c.2 := by
  induction bs generalizing a with
  | nil => simp [cellsFrom]
  | cons b r ih =>
    by_cases hf : f = .byte b
    · simp only [cellsFrom, hf, if_true]; subst hf; exact ih (a + 1)
    · simp only [cellsFrom, hf, if_false]
      intro c hc
      rcases List.mem_cons.1 hc with rfl | hc
      · exact hf
      · exact ih (a + 1) c hc

theorem memWf_iff (m : Mem) : memWf m = true ↔ risingFrom 0 m.cells = true ∧ ∀ c ∈ m.cells, ¬ m.fill = .byte c.2 := by
  simp [memWf]

/-- A write keeps the canonical form. -/
theorem memWf_memWr (m : Mem) (a : Nat) (bs : List Byte) (h : memWf m = true) : memWf (memWr m a bs) = true := by
  rw [memWf_iff] at h ⊢
  have hc := cellsFrom_rising m.fill a bs
  have hr := rising_filter (fun c => decide (c.1 < a)) h.1
  have hlt : ∀ c ∈ m.cells.filter (fun c => decide (c.1 < a)), c.1 < a := by
    intro c hc; simpa using (List.mem_filter.1 hc).2
  have hge : risingFrom (a + bs.length) (m.cells.filter (fun c => decide (a + bs.length ≤ c.1))) = true := by
    have hall : ∀ l : List Host.Cell, ∀ n, risingFrom n l = true → (∀ c ∈ l, a + bs.length ≤ c.1) →
        risingFrom (a + bs.length) l = true := by
      intro l n hl hb
      cases l with
      | nil => rfl
      | cons c r =>
        simp only [risingFrom, Bool.and_eq_true, decide_eq_true_eq] at hl ⊢
        exact ⟨hb c (by simp), hl.2⟩
    exact hall _ 0 (rising_filter _ h.1) (fun c hc => by simpa using (List.mem_filter.1 hc).2)
  refine ⟨?_, ?_⟩
  · show risingFrom 0 (m.cells.filter _ ++ cellsFrom m.fill a bs ++ m.cells.filter _) = true
    rw [List.append_assoc]
    exact rising_append hr hlt (by omega) (rising_append hc.1 hc.2 (by omega) hge)
  · intro c hx
    have hx : c ∈ m.cells.filter (fun c => decide (c.1 < a)) ++ cellsFrom m.fill a bs ++
        m.cells.filter (fun c => decide (a + bs.length ≤ c.1)) := hx
    simp only [List.mem_append, List.mem_filter] at hx
    show ¬ m.fill = .byte c.2
    rcases hx with (⟨hx, _⟩ | hx) | ⟨hx, _⟩
    · exact h.2 c hx
    · exact cellsFrom_fill _ _ _ c hx
    · exact h.2 c hx

/-- So does a write of words. -/
theorem memWf_memWrW (m : Mem) (a : Nat) (ws : List Word) (h : memWf m = true) : memWf (memWrW m a ws) = true :=
  memWf_memWr m a _ h

@[simp] theorem memWr_fill (m : Mem) (a : Nat) (bs : List Byte) : (memWr m a bs).fill = m.fill := rfl

/-- A memory with nothing listed is in canonical form, whatever an unlisted byte reads as. -/
@[simp] theorem memWf_empty (f : Fill) : memWf { cells := [], fill := f } = true := rfl

end Sys2Proof.Laws
end

