-- ==== Sys2Proof/Laws/State.lean ====
section
/-! SUPPORT. Beside State: for each update of one part, the fields it writes and the fields it leaves. -/

namespace Sys2Proof.Laws

open Sys2Proof.Machine

@[simp] theorem setDie_dies (s : State) (n : Nat) (d : Die) : (setDie s n d).dies = bankSet defDie s.dies n d := rfl
@[simp] theorem setDie_pending (s : State) (n : Nat) (d : Die) : (setDie s n d).pending = s.pending := rfl
@[simp] theorem setDie_free (s : State) (n : Nat) (d : Die) : (setDie s n d).free = s.free := rfl
@[simp] theorem setDie_vtime (s : State) (n : Nat) (d : Die) : (setDie s n d).vtime = s.vtime := rfl
@[simp] theorem setDie_out (s : State) (n : Nat) (d : Die) : (setDie s n d).out = s.out := rfl
@[simp] theorem setDie_hpt (s : State) (n : Nat) (d : Die) : (setDie s n d).hpt = s.hpt := rfl
@[simp] theorem setDie_mgtA (s : State) (n : Nat) (d : Die) : (setDie s n d).mgtA = s.mgtA := rfl
@[simp] theorem setDie_mgtB (s : State) (n : Nat) (d : Die) : (setDie s n d).mgtB = s.mgtB := rfl
@[simp] theorem setDie_stg (s : State) (n : Nat) (d : Die) : (setDie s n d).stg = s.stg := rfl
@[simp] theorem setDie_tt (s : State) (n : Nat) (d : Die) : (setDie s n d).tt = s.tt := rfl
@[simp] theorem setDie_dis (s : State) (n : Nat) (d : Die) : (setDie s n d).dis = s.dis := rfl
@[simp] theorem setDie_qmg (s : State) (n : Nat) (d : Die) : (setDie s n d).qmg = s.qmg := rfl
@[simp] theorem setDie_syn (s : State) (n : Nat) (d : Die) : (setDie s n d).syn = s.syn := rfl
@[simp] theorem setDie_kpm (s : State) (n : Nat) (d : Die) : (setDie s n d).kpm = s.kpm := rfl
@[simp] theorem setDie_mpl (s : State) (n : Nat) (d : Die) : (setDie s n d).mpl = s.mpl := rfl
@[simp] theorem setDie_fus (s : State) (n : Nat) (d : Die) : (setDie s n d).fus = s.fus := rfl
@[simp] theorem setDie_cvus (s : State) (n : Nat) (d : Die) : (setDie s n d).cvus = s.cvus := rfl
@[simp] theorem setDie_engines (s : State) (n : Nat) (d : Die) : (setDie s n d).engines = s.engines := rfl
@[simp] theorem setDie_flight (s : State) (n : Nat) (d : Die) : (setDie s n d).flight = s.flight := rfl
@[simp] theorem setDie_fws (s : State) (n : Nat) (d : Die) : (setDie s n d).fws = s.fws := rfl
@[simp] theorem setDie_sia (s : State) (n : Nat) (d : Die) : (setDie s n d).sia = s.sia := rfl
@[simp] theorem setDie_sib (s : State) (n : Nat) (d : Die) : (setDie s n d).sib = s.sib := rfl
@[simp] theorem setDie_edgeA (s : State) (n : Nat) (d : Die) : (setDie s n d).edgeA = s.edgeA := rfl
@[simp] theorem setDie_edgeB (s : State) (n : Nat) (d : Die) : (setDie s n d).edgeB = s.edgeB := rfl
@[simp] theorem setDie_clk (s : State) (n : Nat) (d : Die) : (setDie s n d).clk = s.clk := rfl
@[simp] theorem setDie_iod (s : State) (n : Nat) (d : Die) : (setDie s n d).iod = s.iod := rfl
@[simp] theorem setDie_latches (s : State) (n : Nat) (d : Die) : (setDie s n d).latches = s.latches := rfl

@[simp] theorem modDie_pending (s : State) (n : Nat) (f : Die → Die) : (modDie s n f).pending = s.pending := rfl
@[simp] theorem modDie_free (s : State) (n : Nat) (f : Die → Die) : (modDie s n f).free = s.free := rfl
@[simp] theorem modDie_vtime (s : State) (n : Nat) (f : Die → Die) : (modDie s n f).vtime = s.vtime := rfl
@[simp] theorem modDie_out (s : State) (n : Nat) (f : Die → Die) : (modDie s n f).out = s.out := rfl
@[simp] theorem modDie_hpt (s : State) (n : Nat) (f : Die → Die) : (modDie s n f).hpt = s.hpt := rfl
@[simp] theorem modDie_mgtA (s : State) (n : Nat) (f : Die → Die) : (modDie s n f).mgtA = s.mgtA := rfl
@[simp] theorem modDie_mgtB (s : State) (n : Nat) (f : Die → Die) : (modDie s n f).mgtB = s.mgtB := rfl
@[simp] theorem modDie_stg (s : State) (n : Nat) (f : Die → Die) : (modDie s n f).stg = s.stg := rfl
@[simp] theorem modDie_tt (s : State) (n : Nat) (f : Die → Die) : (modDie s n f).tt = s.tt := rfl
@[simp] theorem modDie_dis (s : State) (n : Nat) (f : Die → Die) : (modDie s n f).dis = s.dis := rfl
@[simp] theorem modDie_qmg (s : State) (n : Nat) (f : Die → Die) : (modDie s n f).qmg = s.qmg := rfl
@[simp] theorem modDie_syn (s : State) (n : Nat) (f : Die → Die) : (modDie s n f).syn = s.syn := rfl
@[simp] theorem modDie_kpm (s : State) (n : Nat) (f : Die → Die) : (modDie s n f).kpm = s.kpm := rfl
@[simp] theorem modDie_mpl (s : State) (n : Nat) (f : Die → Die) : (modDie s n f).mpl = s.mpl := rfl
@[simp] theorem modDie_fus (s : State) (n : Nat) (f : Die → Die) : (modDie s n f).fus = s.fus := rfl
@[simp] theorem modDie_cvus (s : State) (n : Nat) (f : Die → Die) : (modDie s n f).cvus = s.cvus := rfl
@[simp] theorem modDie_engines (s : State) (n : Nat) (f : Die → Die) : (modDie s n f).engines = s.engines := rfl
@[simp] theorem modDie_flight (s : State) (n : Nat) (f : Die → Die) : (modDie s n f).flight = s.flight := rfl
@[simp] theorem modDie_fws (s : State) (n : Nat) (f : Die → Die) : (modDie s n f).fws = s.fws := rfl
@[simp] theorem modDie_sia (s : State) (n : Nat) (f : Die → Die) : (modDie s n f).sia = s.sia := rfl
@[simp] theorem modDie_sib (s : State) (n : Nat) (f : Die → Die) : (modDie s n f).sib = s.sib := rfl
@[simp] theorem modDie_edgeA (s : State) (n : Nat) (f : Die → Die) : (modDie s n f).edgeA = s.edgeA := rfl
@[simp] theorem modDie_edgeB (s : State) (n : Nat) (f : Die → Die) : (modDie s n f).edgeB = s.edgeB := rfl
@[simp] theorem modDie_clk (s : State) (n : Nat) (f : Die → Die) : (modDie s n f).clk = s.clk := rfl
@[simp] theorem modDie_iod (s : State) (n : Nat) (f : Die → Die) : (modDie s n f).iod = s.iod := rfl
@[simp] theorem modDie_latches (s : State) (n : Nat) (f : Die → Die) : (modDie s n f).latches = s.latches := rfl

@[simp] theorem modMct_pending (s : State) (n : Nat) (f : Mct → Mct) : (modMct s n f).pending = s.pending := rfl
@[simp] theorem modMct_free (s : State) (n : Nat) (f : Mct → Mct) : (modMct s n f).free = s.free := rfl
@[simp] theorem modMct_vtime (s : State) (n : Nat) (f : Mct → Mct) : (modMct s n f).vtime = s.vtime := rfl
@[simp] theorem modMct_out (s : State) (n : Nat) (f : Mct → Mct) : (modMct s n f).out = s.out := rfl
@[simp] theorem modMct_hpt (s : State) (n : Nat) (f : Mct → Mct) : (modMct s n f).hpt = s.hpt := rfl
@[simp] theorem modMct_mgtA (s : State) (n : Nat) (f : Mct → Mct) : (modMct s n f).mgtA = s.mgtA := rfl
@[simp] theorem modMct_mgtB (s : State) (n : Nat) (f : Mct → Mct) : (modMct s n f).mgtB = s.mgtB := rfl
@[simp] theorem modMct_stg (s : State) (n : Nat) (f : Mct → Mct) : (modMct s n f).stg = s.stg := rfl
@[simp] theorem modMct_tt (s : State) (n : Nat) (f : Mct → Mct) : (modMct s n f).tt = s.tt := rfl
@[simp] theorem modMct_dis (s : State) (n : Nat) (f : Mct → Mct) : (modMct s n f).dis = s.dis := rfl
@[simp] theorem modMct_qmg (s : State) (n : Nat) (f : Mct → Mct) : (modMct s n f).qmg = s.qmg := rfl
@[simp] theorem modMct_syn (s : State) (n : Nat) (f : Mct → Mct) : (modMct s n f).syn = s.syn := rfl
@[simp] theorem modMct_kpm (s : State) (n : Nat) (f : Mct → Mct) : (modMct s n f).kpm = s.kpm := rfl
@[simp] theorem modMct_mpl (s : State) (n : Nat) (f : Mct → Mct) : (modMct s n f).mpl = s.mpl := rfl
@[simp] theorem modMct_fus (s : State) (n : Nat) (f : Mct → Mct) : (modMct s n f).fus = s.fus := rfl
@[simp] theorem modMct_cvus (s : State) (n : Nat) (f : Mct → Mct) : (modMct s n f).cvus = s.cvus := rfl
@[simp] theorem modMct_engines (s : State) (n : Nat) (f : Mct → Mct) : (modMct s n f).engines = s.engines := rfl
@[simp] theorem modMct_flight (s : State) (n : Nat) (f : Mct → Mct) : (modMct s n f).flight = s.flight := rfl
@[simp] theorem modMct_fws (s : State) (n : Nat) (f : Mct → Mct) : (modMct s n f).fws = s.fws := rfl
@[simp] theorem modMct_sia (s : State) (n : Nat) (f : Mct → Mct) : (modMct s n f).sia = s.sia := rfl
@[simp] theorem modMct_sib (s : State) (n : Nat) (f : Mct → Mct) : (modMct s n f).sib = s.sib := rfl
@[simp] theorem modMct_edgeA (s : State) (n : Nat) (f : Mct → Mct) : (modMct s n f).edgeA = s.edgeA := rfl
@[simp] theorem modMct_edgeB (s : State) (n : Nat) (f : Mct → Mct) : (modMct s n f).edgeB = s.edgeB := rfl
@[simp] theorem modMct_clk (s : State) (n : Nat) (f : Mct → Mct) : (modMct s n f).clk = s.clk := rfl
@[simp] theorem modMct_iod (s : State) (n : Nat) (f : Mct → Mct) : (modMct s n f).iod = s.iod := rfl
@[simp] theorem modMct_latches (s : State) (n : Nat) (f : Mct → Mct) : (modMct s n f).latches = s.latches := rfl

@[simp] theorem setEng_engines (s : State) (g : Nat) (e : Engine) : (setEng s g e).engines = bankSet defEngine s.engines g e := rfl
@[simp] theorem setEng_pending (s : State) (g : Nat) (e : Engine) : (setEng s g e).pending = s.pending := rfl
@[simp] theorem setEng_free (s : State) (g : Nat) (e : Engine) : (setEng s g e).free = s.free := rfl
@[simp] theorem setEng_vtime (s : State) (g : Nat) (e : Engine) : (setEng s g e).vtime = s.vtime := rfl
@[simp] theorem setEng_out (s : State) (g : Nat) (e : Engine) : (setEng s g e).out = s.out := rfl
@[simp] theorem setEng_hpt (s : State) (g : Nat) (e : Engine) : (setEng s g e).hpt = s.hpt := rfl
@[simp] theorem setEng_mgtA (s : State) (g : Nat) (e : Engine) : (setEng s g e).mgtA = s.mgtA := rfl
@[simp] theorem setEng_mgtB (s : State) (g : Nat) (e : Engine) : (setEng s g e).mgtB = s.mgtB := rfl
@[simp] theorem setEng_stg (s : State) (g : Nat) (e : Engine) : (setEng s g e).stg = s.stg := rfl
@[simp] theorem setEng_tt (s : State) (g : Nat) (e : Engine) : (setEng s g e).tt = s.tt := rfl
@[simp] theorem setEng_dis (s : State) (g : Nat) (e : Engine) : (setEng s g e).dis = s.dis := rfl
@[simp] theorem setEng_qmg (s : State) (g : Nat) (e : Engine) : (setEng s g e).qmg = s.qmg := rfl
@[simp] theorem setEng_syn (s : State) (g : Nat) (e : Engine) : (setEng s g e).syn = s.syn := rfl
@[simp] theorem setEng_kpm (s : State) (g : Nat) (e : Engine) : (setEng s g e).kpm = s.kpm := rfl
@[simp] theorem setEng_mpl (s : State) (g : Nat) (e : Engine) : (setEng s g e).mpl = s.mpl := rfl
@[simp] theorem setEng_fus (s : State) (g : Nat) (e : Engine) : (setEng s g e).fus = s.fus := rfl
@[simp] theorem setEng_cvus (s : State) (g : Nat) (e : Engine) : (setEng s g e).cvus = s.cvus := rfl
@[simp] theorem setEng_dies (s : State) (g : Nat) (e : Engine) : (setEng s g e).dies = s.dies := rfl
@[simp] theorem setEng_flight (s : State) (g : Nat) (e : Engine) : (setEng s g e).flight = s.flight := rfl
@[simp] theorem setEng_fws (s : State) (g : Nat) (e : Engine) : (setEng s g e).fws = s.fws := rfl
@[simp] theorem setEng_sia (s : State) (g : Nat) (e : Engine) : (setEng s g e).sia = s.sia := rfl
@[simp] theorem setEng_sib (s : State) (g : Nat) (e : Engine) : (setEng s g e).sib = s.sib := rfl
@[simp] theorem setEng_edgeA (s : State) (g : Nat) (e : Engine) : (setEng s g e).edgeA = s.edgeA := rfl
@[simp] theorem setEng_edgeB (s : State) (g : Nat) (e : Engine) : (setEng s g e).edgeB = s.edgeB := rfl
@[simp] theorem setEng_clk (s : State) (g : Nat) (e : Engine) : (setEng s g e).clk = s.clk := rfl
@[simp] theorem setEng_iod (s : State) (g : Nat) (e : Engine) : (setEng s g e).iod = s.iod := rfl
@[simp] theorem setEng_latches (s : State) (g : Nat) (e : Engine) : (setEng s g e).latches = s.latches := rfl

@[simp] theorem modEng_pending (s : State) (g : Nat) (f : Engine → Engine) : (modEng s g f).pending = s.pending := rfl
@[simp] theorem modEng_free (s : State) (g : Nat) (f : Engine → Engine) : (modEng s g f).free = s.free := rfl
@[simp] theorem modEng_vtime (s : State) (g : Nat) (f : Engine → Engine) : (modEng s g f).vtime = s.vtime := rfl
@[simp] theorem modEng_out (s : State) (g : Nat) (f : Engine → Engine) : (modEng s g f).out = s.out := rfl
@[simp] theorem modEng_hpt (s : State) (g : Nat) (f : Engine → Engine) : (modEng s g f).hpt = s.hpt := rfl
@[simp] theorem modEng_mgtA (s : State) (g : Nat) (f : Engine → Engine) : (modEng s g f).mgtA = s.mgtA := rfl
@[simp] theorem modEng_mgtB (s : State) (g : Nat) (f : Engine → Engine) : (modEng s g f).mgtB = s.mgtB := rfl
@[simp] theorem modEng_stg (s : State) (g : Nat) (f : Engine → Engine) : (modEng s g f).stg = s.stg := rfl
@[simp] theorem modEng_tt (s : State) (g : Nat) (f : Engine → Engine) : (modEng s g f).tt = s.tt := rfl
@[simp] theorem modEng_dis (s : State) (g : Nat) (f : Engine → Engine) : (modEng s g f).dis = s.dis := rfl
@[simp] theorem modEng_qmg (s : State) (g : Nat) (f : Engine → Engine) : (modEng s g f).qmg = s.qmg := rfl
@[simp] theorem modEng_syn (s : State) (g : Nat) (f : Engine → Engine) : (modEng s g f).syn = s.syn := rfl
@[simp] theorem modEng_kpm (s : State) (g : Nat) (f : Engine → Engine) : (modEng s g f).kpm = s.kpm := rfl
@[simp] theorem modEng_mpl (s : State) (g : Nat) (f : Engine → Engine) : (modEng s g f).mpl = s.mpl := rfl
@[simp] theorem modEng_fus (s : State) (g : Nat) (f : Engine → Engine) : (modEng s g f).fus = s.fus := rfl
@[simp] theorem modEng_cvus (s : State) (g : Nat) (f : Engine → Engine) : (modEng s g f).cvus = s.cvus := rfl
@[simp] theorem modEng_dies (s : State) (g : Nat) (f : Engine → Engine) : (modEng s g f).dies = s.dies := rfl
@[simp] theorem modEng_flight (s : State) (g : Nat) (f : Engine → Engine) : (modEng s g f).flight = s.flight := rfl
@[simp] theorem modEng_fws (s : State) (g : Nat) (f : Engine → Engine) : (modEng s g f).fws = s.fws := rfl
@[simp] theorem modEng_sia (s : State) (g : Nat) (f : Engine → Engine) : (modEng s g f).sia = s.sia := rfl
@[simp] theorem modEng_sib (s : State) (g : Nat) (f : Engine → Engine) : (modEng s g f).sib = s.sib := rfl
@[simp] theorem modEng_edgeA (s : State) (g : Nat) (f : Engine → Engine) : (modEng s g f).edgeA = s.edgeA := rfl
@[simp] theorem modEng_edgeB (s : State) (g : Nat) (f : Engine → Engine) : (modEng s g f).edgeB = s.edgeB := rfl
@[simp] theorem modEng_clk (s : State) (g : Nat) (f : Engine → Engine) : (modEng s g f).clk = s.clk := rfl
@[simp] theorem modEng_iod (s : State) (g : Nat) (f : Engine → Engine) : (modEng s g f).iod = s.iod := rfl
@[simp] theorem modEng_latches (s : State) (g : Nat) (f : Engine → Engine) : (modEng s g f).latches = s.latches := rfl

@[simp] theorem setCvu_cvus (s : State) (k : Nat) (c : Cvu) : (setCvu s k c).cvus = bankSet defCvu s.cvus k c := rfl
@[simp] theorem setCvu_pending (s : State) (k : Nat) (c : Cvu) : (setCvu s k c).pending = s.pending := rfl
@[simp] theorem setCvu_free (s : State) (k : Nat) (c : Cvu) : (setCvu s k c).free = s.free := rfl
@[simp] theorem setCvu_vtime (s : State) (k : Nat) (c : Cvu) : (setCvu s k c).vtime = s.vtime := rfl
@[simp] theorem setCvu_out (s : State) (k : Nat) (c : Cvu) : (setCvu s k c).out = s.out := rfl
@[simp] theorem setCvu_hpt (s : State) (k : Nat) (c : Cvu) : (setCvu s k c).hpt = s.hpt := rfl
@[simp] theorem setCvu_mgtA (s : State) (k : Nat) (c : Cvu) : (setCvu s k c).mgtA = s.mgtA := rfl
@[simp] theorem setCvu_mgtB (s : State) (k : Nat) (c : Cvu) : (setCvu s k c).mgtB = s.mgtB := rfl
@[simp] theorem setCvu_stg (s : State) (k : Nat) (c : Cvu) : (setCvu s k c).stg = s.stg := rfl
@[simp] theorem setCvu_tt (s : State) (k : Nat) (c : Cvu) : (setCvu s k c).tt = s.tt := rfl
@[simp] theorem setCvu_dis (s : State) (k : Nat) (c : Cvu) : (setCvu s k c).dis = s.dis := rfl
@[simp] theorem setCvu_qmg (s : State) (k : Nat) (c : Cvu) : (setCvu s k c).qmg = s.qmg := rfl
@[simp] theorem setCvu_syn (s : State) (k : Nat) (c : Cvu) : (setCvu s k c).syn = s.syn := rfl
@[simp] theorem setCvu_kpm (s : State) (k : Nat) (c : Cvu) : (setCvu s k c).kpm = s.kpm := rfl
@[simp] theorem setCvu_mpl (s : State) (k : Nat) (c : Cvu) : (setCvu s k c).mpl = s.mpl := rfl
@[simp] theorem setCvu_fus (s : State) (k : Nat) (c : Cvu) : (setCvu s k c).fus = s.fus := rfl
@[simp] theorem setCvu_engines (s : State) (k : Nat) (c : Cvu) : (setCvu s k c).engines = s.engines := rfl
@[simp] theorem setCvu_dies (s : State) (k : Nat) (c : Cvu) : (setCvu s k c).dies = s.dies := rfl
@[simp] theorem setCvu_flight (s : State) (k : Nat) (c : Cvu) : (setCvu s k c).flight = s.flight := rfl
@[simp] theorem setCvu_fws (s : State) (k : Nat) (c : Cvu) : (setCvu s k c).fws = s.fws := rfl
@[simp] theorem setCvu_sia (s : State) (k : Nat) (c : Cvu) : (setCvu s k c).sia = s.sia := rfl
@[simp] theorem setCvu_sib (s : State) (k : Nat) (c : Cvu) : (setCvu s k c).sib = s.sib := rfl
@[simp] theorem setCvu_edgeA (s : State) (k : Nat) (c : Cvu) : (setCvu s k c).edgeA = s.edgeA := rfl
@[simp] theorem setCvu_edgeB (s : State) (k : Nat) (c : Cvu) : (setCvu s k c).edgeB = s.edgeB := rfl
@[simp] theorem setCvu_clk (s : State) (k : Nat) (c : Cvu) : (setCvu s k c).clk = s.clk := rfl
@[simp] theorem setCvu_iod (s : State) (k : Nat) (c : Cvu) : (setCvu s k c).iod = s.iod := rfl
@[simp] theorem setCvu_latches (s : State) (k : Nat) (c : Cvu) : (setCvu s k c).latches = s.latches := rfl

@[simp] theorem modCvu_pending (s : State) (k : Nat) (f : Cvu → Cvu) : (modCvu s k f).pending = s.pending := rfl
@[simp] theorem modCvu_free (s : State) (k : Nat) (f : Cvu → Cvu) : (modCvu s k f).free = s.free := rfl
@[simp] theorem modCvu_vtime (s : State) (k : Nat) (f : Cvu → Cvu) : (modCvu s k f).vtime = s.vtime := rfl
@[simp] theorem modCvu_out (s : State) (k : Nat) (f : Cvu → Cvu) : (modCvu s k f).out = s.out := rfl
@[simp] theorem modCvu_hpt (s : State) (k : Nat) (f : Cvu → Cvu) : (modCvu s k f).hpt = s.hpt := rfl
@[simp] theorem modCvu_mgtA (s : State) (k : Nat) (f : Cvu → Cvu) : (modCvu s k f).mgtA = s.mgtA := rfl
@[simp] theorem modCvu_mgtB (s : State) (k : Nat) (f : Cvu → Cvu) : (modCvu s k f).mgtB = s.mgtB := rfl
@[simp] theorem modCvu_stg (s : State) (k : Nat) (f : Cvu → Cvu) : (modCvu s k f).stg = s.stg := rfl
@[simp] theorem modCvu_tt (s : State) (k : Nat) (f : Cvu → Cvu) : (modCvu s k f).tt = s.tt := rfl
@[simp] theorem modCvu_dis (s : State) (k : Nat) (f : Cvu → Cvu) : (modCvu s k f).dis = s.dis := rfl
@[simp] theorem modCvu_qmg (s : State) (k : Nat) (f : Cvu → Cvu) : (modCvu s k f).qmg = s.qmg := rfl
@[simp] theorem modCvu_syn (s : State) (k : Nat) (f : Cvu → Cvu) : (modCvu s k f).syn = s.syn := rfl
@[simp] theorem modCvu_kpm (s : State) (k : Nat) (f : Cvu → Cvu) : (modCvu s k f).kpm = s.kpm := rfl
@[simp] theorem modCvu_mpl (s : State) (k : Nat) (f : Cvu → Cvu) : (modCvu s k f).mpl = s.mpl := rfl
@[simp] theorem modCvu_fus (s : State) (k : Nat) (f : Cvu → Cvu) : (modCvu s k f).fus = s.fus := rfl
@[simp] theorem modCvu_engines (s : State) (k : Nat) (f : Cvu → Cvu) : (modCvu s k f).engines = s.engines := rfl
@[simp] theorem modCvu_dies (s : State) (k : Nat) (f : Cvu → Cvu) : (modCvu s k f).dies = s.dies := rfl
@[simp] theorem modCvu_flight (s : State) (k : Nat) (f : Cvu → Cvu) : (modCvu s k f).flight = s.flight := rfl
@[simp] theorem modCvu_fws (s : State) (k : Nat) (f : Cvu → Cvu) : (modCvu s k f).fws = s.fws := rfl
@[simp] theorem modCvu_sia (s : State) (k : Nat) (f : Cvu → Cvu) : (modCvu s k f).sia = s.sia := rfl
@[simp] theorem modCvu_sib (s : State) (k : Nat) (f : Cvu → Cvu) : (modCvu s k f).sib = s.sib := rfl
@[simp] theorem modCvu_edgeA (s : State) (k : Nat) (f : Cvu → Cvu) : (modCvu s k f).edgeA = s.edgeA := rfl
@[simp] theorem modCvu_edgeB (s : State) (k : Nat) (f : Cvu → Cvu) : (modCvu s k f).edgeB = s.edgeB := rfl
@[simp] theorem modCvu_clk (s : State) (k : Nat) (f : Cvu → Cvu) : (modCvu s k f).clk = s.clk := rfl
@[simp] theorem modCvu_iod (s : State) (k : Nat) (f : Cvu → Cvu) : (modCvu s k f).iod = s.iod := rfl
@[simp] theorem modCvu_latches (s : State) (k : Nat) (f : Cvu → Cvu) : (modCvu s k f).latches = s.latches := rfl

@[simp] theorem setIsl_pending (s : State) (i : Isl) (x : Island) : (setIsl s i x).pending = s.pending := by cases i <;> rfl
@[simp] theorem setIsl_free (s : State) (i : Isl) (x : Island) : (setIsl s i x).free = s.free := by cases i <;> rfl
@[simp] theorem setIsl_vtime (s : State) (i : Isl) (x : Island) : (setIsl s i x).vtime = s.vtime := by cases i <;> rfl
@[simp] theorem setIsl_out (s : State) (i : Isl) (x : Island) : (setIsl s i x).out = s.out := by cases i <;> rfl
@[simp] theorem setIsl_hpt (s : State) (i : Isl) (x : Island) : (setIsl s i x).hpt = s.hpt := by cases i <;> rfl
@[simp] theorem setIsl_mgtA (s : State) (i : Isl) (x : Island) : (setIsl s i x).mgtA = s.mgtA := by cases i <;> rfl
@[simp] theorem setIsl_mgtB (s : State) (i : Isl) (x : Island) : (setIsl s i x).mgtB = s.mgtB := by cases i <;> rfl
@[simp] theorem setIsl_stg (s : State) (i : Isl) (x : Island) : (setIsl s i x).stg = s.stg := by cases i <;> rfl
@[simp] theorem setIsl_tt (s : State) (i : Isl) (x : Island) : (setIsl s i x).tt = s.tt := by cases i <;> rfl
@[simp] theorem setIsl_dis (s : State) (i : Isl) (x : Island) : (setIsl s i x).dis = s.dis := by cases i <;> rfl
@[simp] theorem setIsl_qmg (s : State) (i : Isl) (x : Island) : (setIsl s i x).qmg = s.qmg := by cases i <;> rfl
@[simp] theorem setIsl_syn (s : State) (i : Isl) (x : Island) : (setIsl s i x).syn = s.syn := by cases i <;> rfl
@[simp] theorem setIsl_kpm (s : State) (i : Isl) (x : Island) : (setIsl s i x).kpm = s.kpm := by cases i <;> rfl
@[simp] theorem setIsl_mpl (s : State) (i : Isl) (x : Island) : (setIsl s i x).mpl = s.mpl := by cases i <;> rfl
@[simp] theorem setIsl_fus (s : State) (i : Isl) (x : Island) : (setIsl s i x).fus = s.fus := by cases i <;> rfl
@[simp] theorem setIsl_cvus (s : State) (i : Isl) (x : Island) : (setIsl s i x).cvus = s.cvus := by cases i <;> rfl
@[simp] theorem setIsl_engines (s : State) (i : Isl) (x : Island) : (setIsl s i x).engines = s.engines := by cases i <;> rfl
@[simp] theorem setIsl_dies (s : State) (i : Isl) (x : Island) : (setIsl s i x).dies = s.dies := by cases i <;> rfl
@[simp] theorem setIsl_flight (s : State) (i : Isl) (x : Island) : (setIsl s i x).flight = s.flight := by cases i <;> rfl
@[simp] theorem setIsl_fws (s : State) (i : Isl) (x : Island) : (setIsl s i x).fws = s.fws := by cases i <;> rfl
@[simp] theorem setIsl_edgeA (s : State) (i : Isl) (x : Island) : (setIsl s i x).edgeA = s.edgeA := by cases i <;> rfl
@[simp] theorem setIsl_edgeB (s : State) (i : Isl) (x : Island) : (setIsl s i x).edgeB = s.edgeB := by cases i <;> rfl
@[simp] theorem setIsl_clk (s : State) (i : Isl) (x : Island) : (setIsl s i x).clk = s.clk := by cases i <;> rfl
@[simp] theorem setIsl_iod (s : State) (i : Isl) (x : Island) : (setIsl s i x).iod = s.iod := by cases i <;> rfl
@[simp] theorem setIsl_latches (s : State) (i : Isl) (x : Island) : (setIsl s i x).latches = s.latches := by cases i <;> rfl

@[simp] theorem modIsl_pending (s : State) (i : Isl) (f : Island → Island) : (modIsl s i f).pending = s.pending := by cases i <;> rfl
@[simp] theorem modIsl_free (s : State) (i : Isl) (f : Island → Island) : (modIsl s i f).free = s.free := by cases i <;> rfl
@[simp] theorem modIsl_vtime (s : State) (i : Isl) (f : Island → Island) : (modIsl s i f).vtime = s.vtime := by cases i <;> rfl
@[simp] theorem modIsl_out (s : State) (i : Isl) (f : Island → Island) : (modIsl s i f).out = s.out := by cases i <;> rfl
@[simp] theorem modIsl_hpt (s : State) (i : Isl) (f : Island → Island) : (modIsl s i f).hpt = s.hpt := by cases i <;> rfl
@[simp] theorem modIsl_mgtA (s : State) (i : Isl) (f : Island → Island) : (modIsl s i f).mgtA = s.mgtA := by cases i <;> rfl
@[simp] theorem modIsl_mgtB (s : State) (i : Isl) (f : Island → Island) : (modIsl s i f).mgtB = s.mgtB := by cases i <;> rfl
@[simp] theorem modIsl_stg (s : State) (i : Isl) (f : Island → Island) : (modIsl s i f).stg = s.stg := by cases i <;> rfl
@[simp] theorem modIsl_tt (s : State) (i : Isl) (f : Island → Island) : (modIsl s i f).tt = s.tt := by cases i <;> rfl
@[simp] theorem modIsl_dis (s : State) (i : Isl) (f : Island → Island) : (modIsl s i f).dis = s.dis := by cases i <;> rfl
@[simp] theorem modIsl_qmg (s : State) (i : Isl) (f : Island → Island) : (modIsl s i f).qmg = s.qmg := by cases i <;> rfl
@[simp] theorem modIsl_syn (s : State) (i : Isl) (f : Island → Island) : (modIsl s i f).syn = s.syn := by cases i <;> rfl
@[simp] theorem modIsl_kpm (s : State) (i : Isl) (f : Island → Island) : (modIsl s i f).kpm = s.kpm := by cases i <;> rfl
@[simp] theorem modIsl_mpl (s : State) (i : Isl) (f : Island → Island) : (modIsl s i f).mpl = s.mpl := by cases i <;> rfl
@[simp] theorem modIsl_fus (s : State) (i : Isl) (f : Island → Island) : (modIsl s i f).fus = s.fus := by cases i <;> rfl
@[simp] theorem modIsl_cvus (s : State) (i : Isl) (f : Island → Island) : (modIsl s i f).cvus = s.cvus := by cases i <;> rfl
@[simp] theorem modIsl_engines (s : State) (i : Isl) (f : Island → Island) : (modIsl s i f).engines = s.engines := by cases i <;> rfl
@[simp] theorem modIsl_dies (s : State) (i : Isl) (f : Island → Island) : (modIsl s i f).dies = s.dies := by cases i <;> rfl
@[simp] theorem modIsl_flight (s : State) (i : Isl) (f : Island → Island) : (modIsl s i f).flight = s.flight := by cases i <;> rfl
@[simp] theorem modIsl_fws (s : State) (i : Isl) (f : Island → Island) : (modIsl s i f).fws = s.fws := by cases i <;> rfl
@[simp] theorem modIsl_edgeA (s : State) (i : Isl) (f : Island → Island) : (modIsl s i f).edgeA = s.edgeA := by cases i <;> rfl
@[simp] theorem modIsl_edgeB (s : State) (i : Isl) (f : Island → Island) : (modIsl s i f).edgeB = s.edgeB := by cases i <;> rfl
@[simp] theorem modIsl_clk (s : State) (i : Isl) (f : Island → Island) : (modIsl s i f).clk = s.clk := by cases i <;> rfl
@[simp] theorem modIsl_iod (s : State) (i : Isl) (f : Island → Island) : (modIsl s i f).iod = s.iod := by cases i <;> rfl
@[simp] theorem modIsl_latches (s : State) (i : Isl) (f : Island → Island) : (modIsl s i f).latches = s.latches := by cases i <;> rfl

@[simp] theorem setEdge_pending (s : State) (e : Edge) (x : RingEdge) : (setEdge s e x).pending = s.pending := by cases e <;> rfl
@[simp] theorem setEdge_free (s : State) (e : Edge) (x : RingEdge) : (setEdge s e x).free = s.free := by cases e <;> rfl
@[simp] theorem setEdge_vtime (s : State) (e : Edge) (x : RingEdge) : (setEdge s e x).vtime = s.vtime := by cases e <;> rfl
@[simp] theorem setEdge_out (s : State) (e : Edge) (x : RingEdge) : (setEdge s e x).out = s.out := by cases e <;> rfl
@[simp] theorem setEdge_hpt (s : State) (e : Edge) (x : RingEdge) : (setEdge s e x).hpt = s.hpt := by cases e <;> rfl
@[simp] theorem setEdge_mgtA (s : State) (e : Edge) (x : RingEdge) : (setEdge s e x).mgtA = s.mgtA := by cases e <;> rfl
@[simp] theorem setEdge_mgtB (s : State) (e : Edge) (x : RingEdge) : (setEdge s e x).mgtB = s.mgtB := by cases e <;> rfl
@[simp] theorem setEdge_stg (s : State) (e : Edge) (x : RingEdge) : (setEdge s e x).stg = s.stg := by cases e <;> rfl
@[simp] theorem setEdge_tt (s : State) (e : Edge) (x : RingEdge) : (setEdge s e x).tt = s.tt := by cases e <;> rfl
@[simp] theorem setEdge_dis (s : State) (e : Edge) (x : RingEdge) : (setEdge s e x).dis = s.dis := by cases e <;> rfl
@[simp] theorem setEdge_qmg (s : State) (e : Edge) (x : RingEdge) : (setEdge s e x).qmg = s.qmg := by cases e <;> rfl
@[simp] theorem setEdge_syn (s : State) (e : Edge) (x : RingEdge) : (setEdge s e x).syn = s.syn := by cases e <;> rfl
@[simp] theorem setEdge_kpm (s : State) (e : Edge) (x : RingEdge) : (setEdge s e x).kpm = s.kpm := by cases e <;> rfl
@[simp] theorem setEdge_mpl (s : State) (e : Edge) (x : RingEdge) : (setEdge s e x).mpl = s.mpl := by cases e <;> rfl
@[simp] theorem setEdge_fus (s : State) (e : Edge) (x : RingEdge) : (setEdge s e x).fus = s.fus := by cases e <;> rfl
@[simp] theorem setEdge_cvus (s : State) (e : Edge) (x : RingEdge) : (setEdge s e x).cvus = s.cvus := by cases e <;> rfl
@[simp] theorem setEdge_engines (s : State) (e : Edge) (x : RingEdge) : (setEdge s e x).engines = s.engines := by cases e <;> rfl
@[simp] theorem setEdge_dies (s : State) (e : Edge) (x : RingEdge) : (setEdge s e x).dies = s.dies := by cases e <;> rfl
@[simp] theorem setEdge_flight (s : State) (e : Edge) (x : RingEdge) : (setEdge s e x).flight = s.flight := by cases e <;> rfl
@[simp] theorem setEdge_fws (s : State) (e : Edge) (x : RingEdge) : (setEdge s e x).fws = s.fws := by cases e <;> rfl
@[simp] theorem setEdge_sia (s : State) (e : Edge) (x : RingEdge) : (setEdge s e x).sia = s.sia := by cases e <;> rfl
@[simp] theorem setEdge_sib (s : State) (e : Edge) (x : RingEdge) : (setEdge s e x).sib = s.sib := by cases e <;> rfl
@[simp] theorem setEdge_clk (s : State) (e : Edge) (x : RingEdge) : (setEdge s e x).clk = s.clk := by cases e <;> rfl
@[simp] theorem setEdge_iod (s : State) (e : Edge) (x : RingEdge) : (setEdge s e x).iod = s.iod := by cases e <;> rfl
@[simp] theorem setEdge_latches (s : State) (e : Edge) (x : RingEdge) : (setEdge s e x).latches = s.latches := by cases e <;> rfl

@[simp] theorem modEdge_pending (s : State) (e : Edge) (f : RingEdge → RingEdge) : (modEdge s e f).pending = s.pending := by cases e <;> rfl
@[simp] theorem modEdge_free (s : State) (e : Edge) (f : RingEdge → RingEdge) : (modEdge s e f).free = s.free := by cases e <;> rfl
@[simp] theorem modEdge_vtime (s : State) (e : Edge) (f : RingEdge → RingEdge) : (modEdge s e f).vtime = s.vtime := by cases e <;> rfl
@[simp] theorem modEdge_out (s : State) (e : Edge) (f : RingEdge → RingEdge) : (modEdge s e f).out = s.out := by cases e <;> rfl
@[simp] theorem modEdge_hpt (s : State) (e : Edge) (f : RingEdge → RingEdge) : (modEdge s e f).hpt = s.hpt := by cases e <;> rfl
@[simp] theorem modEdge_mgtA (s : State) (e : Edge) (f : RingEdge → RingEdge) : (modEdge s e f).mgtA = s.mgtA := by cases e <;> rfl
@[simp] theorem modEdge_mgtB (s : State) (e : Edge) (f : RingEdge → RingEdge) : (modEdge s e f).mgtB = s.mgtB := by cases e <;> rfl
@[simp] theorem modEdge_stg (s : State) (e : Edge) (f : RingEdge → RingEdge) : (modEdge s e f).stg = s.stg := by cases e <;> rfl
@[simp] theorem modEdge_tt (s : State) (e : Edge) (f : RingEdge → RingEdge) : (modEdge s e f).tt = s.tt := by cases e <;> rfl
@[simp] theorem modEdge_dis (s : State) (e : Edge) (f : RingEdge → RingEdge) : (modEdge s e f).dis = s.dis := by cases e <;> rfl
@[simp] theorem modEdge_qmg (s : State) (e : Edge) (f : RingEdge → RingEdge) : (modEdge s e f).qmg = s.qmg := by cases e <;> rfl
@[simp] theorem modEdge_syn (s : State) (e : Edge) (f : RingEdge → RingEdge) : (modEdge s e f).syn = s.syn := by cases e <;> rfl
@[simp] theorem modEdge_kpm (s : State) (e : Edge) (f : RingEdge → RingEdge) : (modEdge s e f).kpm = s.kpm := by cases e <;> rfl
@[simp] theorem modEdge_mpl (s : State) (e : Edge) (f : RingEdge → RingEdge) : (modEdge s e f).mpl = s.mpl := by cases e <;> rfl
@[simp] theorem modEdge_fus (s : State) (e : Edge) (f : RingEdge → RingEdge) : (modEdge s e f).fus = s.fus := by cases e <;> rfl
@[simp] theorem modEdge_cvus (s : State) (e : Edge) (f : RingEdge → RingEdge) : (modEdge s e f).cvus = s.cvus := by cases e <;> rfl
@[simp] theorem modEdge_engines (s : State) (e : Edge) (f : RingEdge → RingEdge) : (modEdge s e f).engines = s.engines := by cases e <;> rfl
@[simp] theorem modEdge_dies (s : State) (e : Edge) (f : RingEdge → RingEdge) : (modEdge s e f).dies = s.dies := by cases e <;> rfl
@[simp] theorem modEdge_flight (s : State) (e : Edge) (f : RingEdge → RingEdge) : (modEdge s e f).flight = s.flight := by cases e <;> rfl
@[simp] theorem modEdge_fws (s : State) (e : Edge) (f : RingEdge → RingEdge) : (modEdge s e f).fws = s.fws := by cases e <;> rfl
@[simp] theorem modEdge_sia (s : State) (e : Edge) (f : RingEdge → RingEdge) : (modEdge s e f).sia = s.sia := by cases e <;> rfl
@[simp] theorem modEdge_sib (s : State) (e : Edge) (f : RingEdge → RingEdge) : (modEdge s e f).sib = s.sib := by cases e <;> rfl
@[simp] theorem modEdge_clk (s : State) (e : Edge) (f : RingEdge → RingEdge) : (modEdge s e f).clk = s.clk := by cases e <;> rfl
@[simp] theorem modEdge_iod (s : State) (e : Edge) (f : RingEdge → RingEdge) : (modEdge s e f).iod = s.iod := by cases e <;> rfl
@[simp] theorem modEdge_latches (s : State) (e : Edge) (f : RingEdge → RingEdge) : (modEdge s e f).latches = s.latches := by cases e <;> rfl

@[simp] theorem modMgt_pending (s : State) (i : Isl) (f : Mgt → Mgt) : (modMgt s i f).pending = s.pending := by cases i <;> rfl
@[simp] theorem modMgt_free (s : State) (i : Isl) (f : Mgt → Mgt) : (modMgt s i f).free = s.free := by cases i <;> rfl
@[simp] theorem modMgt_vtime (s : State) (i : Isl) (f : Mgt → Mgt) : (modMgt s i f).vtime = s.vtime := by cases i <;> rfl
@[simp] theorem modMgt_out (s : State) (i : Isl) (f : Mgt → Mgt) : (modMgt s i f).out = s.out := by cases i <;> rfl
@[simp] theorem modMgt_hpt (s : State) (i : Isl) (f : Mgt → Mgt) : (modMgt s i f).hpt = s.hpt := by cases i <;> rfl
@[simp] theorem modMgt_stg (s : State) (i : Isl) (f : Mgt → Mgt) : (modMgt s i f).stg = s.stg := by cases i <;> rfl
@[simp] theorem modMgt_tt (s : State) (i : Isl) (f : Mgt → Mgt) : (modMgt s i f).tt = s.tt := by cases i <;> rfl
@[simp] theorem modMgt_dis (s : State) (i : Isl) (f : Mgt → Mgt) : (modMgt s i f).dis = s.dis := by cases i <;> rfl
@[simp] theorem modMgt_qmg (s : State) (i : Isl) (f : Mgt → Mgt) : (modMgt s i f).qmg = s.qmg := by cases i <;> rfl
@[simp] theorem modMgt_syn (s : State) (i : Isl) (f : Mgt → Mgt) : (modMgt s i f).syn = s.syn := by cases i <;> rfl
@[simp] theorem modMgt_kpm (s : State) (i : Isl) (f : Mgt → Mgt) : (modMgt s i f).kpm = s.kpm := by cases i <;> rfl
@[simp] theorem modMgt_mpl (s : State) (i : Isl) (f : Mgt → Mgt) : (modMgt s i f).mpl = s.mpl := by cases i <;> rfl
@[simp] theorem modMgt_fus (s : State) (i : Isl) (f : Mgt → Mgt) : (modMgt s i f).fus = s.fus := by cases i <;> rfl
@[simp] theorem modMgt_cvus (s : State) (i : Isl) (f : Mgt → Mgt) : (modMgt s i f).cvus = s.cvus := by cases i <;> rfl
@[simp] theorem modMgt_engines (s : State) (i : Isl) (f : Mgt → Mgt) : (modMgt s i f).engines = s.engines := by cases i <;> rfl
@[simp] theorem modMgt_dies (s : State) (i : Isl) (f : Mgt → Mgt) : (modMgt s i f).dies = s.dies := by cases i <;> rfl
@[simp] theorem modMgt_flight (s : State) (i : Isl) (f : Mgt → Mgt) : (modMgt s i f).flight = s.flight := by cases i <;> rfl
@[simp] theorem modMgt_fws (s : State) (i : Isl) (f : Mgt → Mgt) : (modMgt s i f).fws = s.fws := by cases i <;> rfl
@[simp] theorem modMgt_sia (s : State) (i : Isl) (f : Mgt → Mgt) : (modMgt s i f).sia = s.sia := by cases i <;> rfl
@[simp] theorem modMgt_sib (s : State) (i : Isl) (f : Mgt → Mgt) : (modMgt s i f).sib = s.sib := by cases i <;> rfl
@[simp] theorem modMgt_edgeA (s : State) (i : Isl) (f : Mgt → Mgt) : (modMgt s i f).edgeA = s.edgeA := by cases i <;> rfl
@[simp] theorem modMgt_edgeB (s : State) (i : Isl) (f : Mgt → Mgt) : (modMgt s i f).edgeB = s.edgeB := by cases i <;> rfl
@[simp] theorem modMgt_clk (s : State) (i : Isl) (f : Mgt → Mgt) : (modMgt s i f).clk = s.clk := by cases i <;> rfl
@[simp] theorem modMgt_iod (s : State) (i : Isl) (f : Mgt → Mgt) : (modMgt s i f).iod = s.iod := by cases i <;> rfl
@[simp] theorem modMgt_latches (s : State) (i : Isl) (f : Mgt → Mgt) : (modMgt s i f).latches = s.latches := by cases i <;> rfl

@[simp] theorem modFwl_pending (s : State) (t : FwTarget) (f : Firewall → Firewall) : (modFwl s t f).pending = s.pending := rfl
@[simp] theorem modFwl_free (s : State) (t : FwTarget) (f : Firewall → Firewall) : (modFwl s t f).free = s.free := rfl
@[simp] theorem modFwl_vtime (s : State) (t : FwTarget) (f : Firewall → Firewall) : (modFwl s t f).vtime = s.vtime := rfl
@[simp] theorem modFwl_out (s : State) (t : FwTarget) (f : Firewall → Firewall) : (modFwl s t f).out = s.out := rfl
@[simp] theorem modFwl_hpt (s : State) (t : FwTarget) (f : Firewall → Firewall) : (modFwl s t f).hpt = s.hpt := rfl
@[simp] theorem modFwl_mgtA (s : State) (t : FwTarget) (f : Firewall → Firewall) : (modFwl s t f).mgtA = s.mgtA := rfl
@[simp] theorem modFwl_mgtB (s : State) (t : FwTarget) (f : Firewall → Firewall) : (modFwl s t f).mgtB = s.mgtB := rfl
@[simp] theorem modFwl_stg (s : State) (t : FwTarget) (f : Firewall → Firewall) : (modFwl s t f).stg = s.stg := rfl
@[simp] theorem modFwl_tt (s : State) (t : FwTarget) (f : Firewall → Firewall) : (modFwl s t f).tt = s.tt := rfl
@[simp] theorem modFwl_dis (s : State) (t : FwTarget) (f : Firewall → Firewall) : (modFwl s t f).dis = s.dis := rfl
@[simp] theorem modFwl_qmg (s : State) (t : FwTarget) (f : Firewall → Firewall) : (modFwl s t f).qmg = s.qmg := rfl
@[simp] theorem modFwl_syn (s : State) (t : FwTarget) (f : Firewall → Firewall) : (modFwl s t f).syn = s.syn := rfl
@[simp] theorem modFwl_kpm (s : State) (t : FwTarget) (f : Firewall → Firewall) : (modFwl s t f).kpm = s.kpm := rfl
@[simp] theorem modFwl_mpl (s : State) (t : FwTarget) (f : Firewall → Firewall) : (modFwl s t f).mpl = s.mpl := rfl
@[simp] theorem modFwl_fus (s : State) (t : FwTarget) (f : Firewall → Firewall) : (modFwl s t f).fus = s.fus := rfl
@[simp] theorem modFwl_cvus (s : State) (t : FwTarget) (f : Firewall → Firewall) : (modFwl s t f).cvus = s.cvus := rfl
@[simp] theorem modFwl_engines (s : State) (t : FwTarget) (f : Firewall → Firewall) : (modFwl s t f).engines = s.engines := rfl
@[simp] theorem modFwl_dies (s : State) (t : FwTarget) (f : Firewall → Firewall) : (modFwl s t f).dies = s.dies := rfl
@[simp] theorem modFwl_flight (s : State) (t : FwTarget) (f : Firewall → Firewall) : (modFwl s t f).flight = s.flight := rfl
@[simp] theorem modFwl_sia (s : State) (t : FwTarget) (f : Firewall → Firewall) : (modFwl s t f).sia = s.sia := rfl
@[simp] theorem modFwl_sib (s : State) (t : FwTarget) (f : Firewall → Firewall) : (modFwl s t f).sib = s.sib := rfl
@[simp] theorem modFwl_edgeA (s : State) (t : FwTarget) (f : Firewall → Firewall) : (modFwl s t f).edgeA = s.edgeA := rfl
@[simp] theorem modFwl_edgeB (s : State) (t : FwTarget) (f : Firewall → Firewall) : (modFwl s t f).edgeB = s.edgeB := rfl
@[simp] theorem modFwl_clk (s : State) (t : FwTarget) (f : Firewall → Firewall) : (modFwl s t f).clk = s.clk := rfl
@[simp] theorem modFwl_iod (s : State) (t : FwTarget) (f : Firewall → Firewall) : (modFwl s t f).iod = s.iod := rfl
@[simp] theorem modFwl_latches (s : State) (t : FwTarget) (f : Firewall → Firewall) : (modFwl s t f).latches = s.latches := rfl

@[simp] theorem modCtx_pending (s : State) (c : Nat) (f : CtxRec → CtxRec) : (modCtx s c f).pending = s.pending := rfl
@[simp] theorem modCtx_free (s : State) (c : Nat) (f : CtxRec → CtxRec) : (modCtx s c f).free = s.free := rfl
@[simp] theorem modCtx_vtime (s : State) (c : Nat) (f : CtxRec → CtxRec) : (modCtx s c f).vtime = s.vtime := rfl
@[simp] theorem modCtx_out (s : State) (c : Nat) (f : CtxRec → CtxRec) : (modCtx s c f).out = s.out := rfl
@[simp] theorem modCtx_hpt (s : State) (c : Nat) (f : CtxRec → CtxRec) : (modCtx s c f).hpt = s.hpt := rfl
@[simp] theorem modCtx_mgtA (s : State) (c : Nat) (f : CtxRec → CtxRec) : (modCtx s c f).mgtA = s.mgtA := rfl
@[simp] theorem modCtx_mgtB (s : State) (c : Nat) (f : CtxRec → CtxRec) : (modCtx s c f).mgtB = s.mgtB := rfl
@[simp] theorem modCtx_stg (s : State) (c : Nat) (f : CtxRec → CtxRec) : (modCtx s c f).stg = s.stg := rfl
@[simp] theorem modCtx_tt (s : State) (c : Nat) (f : CtxRec → CtxRec) : (modCtx s c f).tt = s.tt := rfl
@[simp] theorem modCtx_dis (s : State) (c : Nat) (f : CtxRec → CtxRec) : (modCtx s c f).dis = s.dis := rfl
@[simp] theorem modCtx_syn (s : State) (c : Nat) (f : CtxRec → CtxRec) : (modCtx s c f).syn = s.syn := rfl
@[simp] theorem modCtx_kpm (s : State) (c : Nat) (f : CtxRec → CtxRec) : (modCtx s c f).kpm = s.kpm := rfl
@[simp] theorem modCtx_mpl (s : State) (c : Nat) (f : CtxRec → CtxRec) : (modCtx s c f).mpl = s.mpl := rfl
@[simp] theorem modCtx_fus (s : State) (c : Nat) (f : CtxRec → CtxRec) : (modCtx s c f).fus = s.fus := rfl
@[simp] theorem modCtx_cvus (s : State) (c : Nat) (f : CtxRec → CtxRec) : (modCtx s c f).cvus = s.cvus := rfl
@[simp] theorem modCtx_engines (s : State) (c : Nat) (f : CtxRec → CtxRec) : (modCtx s c f).engines = s.engines := rfl
@[simp] theorem modCtx_dies (s : State) (c : Nat) (f : CtxRec → CtxRec) : (modCtx s c f).dies = s.dies := rfl
@[simp] theorem modCtx_flight (s : State) (c : Nat) (f : CtxRec → CtxRec) : (modCtx s c f).flight = s.flight := rfl
@[simp] theorem modCtx_fws (s : State) (c : Nat) (f : CtxRec → CtxRec) : (modCtx s c f).fws = s.fws := rfl
@[simp] theorem modCtx_sia (s : State) (c : Nat) (f : CtxRec → CtxRec) : (modCtx s c f).sia = s.sia := rfl
@[simp] theorem modCtx_sib (s : State) (c : Nat) (f : CtxRec → CtxRec) : (modCtx s c f).sib = s.sib := rfl
@[simp] theorem modCtx_edgeA (s : State) (c : Nat) (f : CtxRec → CtxRec) : (modCtx s c f).edgeA = s.edgeA := rfl
@[simp] theorem modCtx_edgeB (s : State) (c : Nat) (f : CtxRec → CtxRec) : (modCtx s c f).edgeB = s.edgeB := rfl
@[simp] theorem modCtx_clk (s : State) (c : Nat) (f : CtxRec → CtxRec) : (modCtx s c f).clk = s.clk := rfl
@[simp] theorem modCtx_iod (s : State) (c : Nat) (f : CtxRec → CtxRec) : (modCtx s c f).iod = s.iod := rfl
@[simp] theorem modCtx_latches (s : State) (c : Nat) (f : CtxRec → CtxRec) : (modCtx s c f).latches = s.latches := rfl

@[simp] theorem emit_out (s : State) (e : Emit) : (emit s e).out = e :: s.out := rfl
@[simp] theorem emit_pending (s : State) (e : Emit) : (emit s e).pending = s.pending := rfl
@[simp] theorem emit_free (s : State) (e : Emit) : (emit s e).free = s.free := rfl
@[simp] theorem emit_vtime (s : State) (e : Emit) : (emit s e).vtime = s.vtime := rfl
@[simp] theorem emit_hpt (s : State) (e : Emit) : (emit s e).hpt = s.hpt := rfl
@[simp] theorem emit_mgtA (s : State) (e : Emit) : (emit s e).mgtA = s.mgtA := rfl
@[simp] theorem emit_mgtB (s : State) (e : Emit) : (emit s e).mgtB = s.mgtB := rfl
@[simp] theorem emit_stg (s : State) (e : Emit) : (emit s e).stg = s.stg := rfl
@[simp] theorem emit_tt (s : State) (e : Emit) : (emit s e).tt = s.tt := rfl
@[simp] theorem emit_dis (s : State) (e : Emit) : (emit s e).dis = s.dis := rfl
@[simp] theorem emit_qmg (s : State) (e : Emit) : (emit s e).qmg = s.qmg := rfl
@[simp] theorem emit_syn (s : State) (e : Emit) : (emit s e).syn = s.syn := rfl
@[simp] theorem emit_kpm (s : State) (e : Emit) : (emit s e).kpm = s.kpm := rfl
@[simp] theorem emit_mpl (s : State) (e : Emit) : (emit s e).mpl = s.mpl := rfl
@[simp] theorem emit_fus (s : State) (e : Emit) : (emit s e).fus = s.fus := rfl
@[simp] theorem emit_cvus (s : State) (e : Emit) : (emit s e).cvus = s.cvus := rfl
@[simp] theorem emit_engines (s : State) (e : Emit) : (emit s e).engines = s.engines := rfl
@[simp] theorem emit_dies (s : State) (e : Emit) : (emit s e).dies = s.dies := rfl
@[simp] theorem emit_flight (s : State) (e : Emit) : (emit s e).flight = s.flight := rfl
@[simp] theorem emit_fws (s : State) (e : Emit) : (emit s e).fws = s.fws := rfl
@[simp] theorem emit_sia (s : State) (e : Emit) : (emit s e).sia = s.sia := rfl
@[simp] theorem emit_sib (s : State) (e : Emit) : (emit s e).sib = s.sib := rfl
@[simp] theorem emit_edgeA (s : State) (e : Emit) : (emit s e).edgeA = s.edgeA := rfl
@[simp] theorem emit_edgeB (s : State) (e : Emit) : (emit s e).edgeB = s.edgeB := rfl
@[simp] theorem emit_clk (s : State) (e : Emit) : (emit s e).clk = s.clk := rfl
@[simp] theorem emit_iod (s : State) (e : Emit) : (emit s e).iod = s.iod := rfl
@[simp] theorem emit_latches (s : State) (e : Emit) : (emit s e).latches = s.latches := rfl

@[simp] theorem setDis_dis (s : State) (f : Dis → Dis) : (setDis s f).dis = f s.dis := rfl
@[simp] theorem setDis_pending (s : State) (f : Dis → Dis) : (setDis s f).pending = s.pending := rfl
@[simp] theorem setDis_free (s : State) (f : Dis → Dis) : (setDis s f).free = s.free := rfl
@[simp] theorem setDis_vtime (s : State) (f : Dis → Dis) : (setDis s f).vtime = s.vtime := rfl
@[simp] theorem setDis_out (s : State) (f : Dis → Dis) : (setDis s f).out = s.out := rfl
@[simp] theorem setDis_hpt (s : State) (f : Dis → Dis) : (setDis s f).hpt = s.hpt := rfl
@[simp] theorem setDis_mgtA (s : State) (f : Dis → Dis) : (setDis s f).mgtA = s.mgtA := rfl
@[simp] theorem setDis_mgtB (s : State) (f : Dis → Dis) : (setDis s f).mgtB = s.mgtB := rfl
@[simp] theorem setDis_stg (s : State) (f : Dis → Dis) : (setDis s f).stg = s.stg := rfl
@[simp] theorem setDis_tt (s : State) (f : Dis → Dis) : (setDis s f).tt = s.tt := rfl
@[simp] theorem setDis_qmg (s : State) (f : Dis → Dis) : (setDis s f).qmg = s.qmg := rfl
@[simp] theorem setDis_syn (s : State) (f : Dis → Dis) : (setDis s f).syn = s.syn := rfl
@[simp] theorem setDis_kpm (s : State) (f : Dis → Dis) : (setDis s f).kpm = s.kpm := rfl
@[simp] theorem setDis_mpl (s : State) (f : Dis → Dis) : (setDis s f).mpl = s.mpl := rfl
@[simp] theorem setDis_fus (s : State) (f : Dis → Dis) : (setDis s f).fus = s.fus := rfl
@[simp] theorem setDis_cvus (s : State) (f : Dis → Dis) : (setDis s f).cvus = s.cvus := rfl
@[simp] theorem setDis_engines (s : State) (f : Dis → Dis) : (setDis s f).engines = s.engines := rfl
@[simp] theorem setDis_dies (s : State) (f : Dis → Dis) : (setDis s f).dies = s.dies := rfl
@[simp] theorem setDis_flight (s : State) (f : Dis → Dis) : (setDis s f).flight = s.flight := rfl
@[simp] theorem setDis_fws (s : State) (f : Dis → Dis) : (setDis s f).fws = s.fws := rfl
@[simp] theorem setDis_sia (s : State) (f : Dis → Dis) : (setDis s f).sia = s.sia := rfl
@[simp] theorem setDis_sib (s : State) (f : Dis → Dis) : (setDis s f).sib = s.sib := rfl
@[simp] theorem setDis_edgeA (s : State) (f : Dis → Dis) : (setDis s f).edgeA = s.edgeA := rfl
@[simp] theorem setDis_edgeB (s : State) (f : Dis → Dis) : (setDis s f).edgeB = s.edgeB := rfl
@[simp] theorem setDis_clk (s : State) (f : Dis → Dis) : (setDis s f).clk = s.clk := rfl
@[simp] theorem setDis_iod (s : State) (f : Dis → Dis) : (setDis s f).iod = s.iod := rfl
@[simp] theorem setDis_latches (s : State) (f : Dis → Dis) : (setDis s f).latches = s.latches := rfl

@[simp] theorem setStg_stg (s : State) (f : Stg → Stg) : (setStg s f).stg = f s.stg := rfl
@[simp] theorem setStg_pending (s : State) (f : Stg → Stg) : (setStg s f).pending = s.pending := rfl
@[simp] theorem setStg_free (s : State) (f : Stg → Stg) : (setStg s f).free = s.free := rfl
@[simp] theorem setStg_vtime (s : State) (f : Stg → Stg) : (setStg s f).vtime = s.vtime := rfl
@[simp] theorem setStg_out (s : State) (f : Stg → Stg) : (setStg s f).out = s.out := rfl
@[simp] theorem setStg_hpt (s : State) (f : Stg → Stg) : (setStg s f).hpt = s.hpt := rfl
@[simp] theorem setStg_mgtA (s : State) (f : Stg → Stg) : (setStg s f).mgtA = s.mgtA := rfl
@[simp] theorem setStg_mgtB (s : State) (f : Stg → Stg) : (setStg s f).mgtB = s.mgtB := rfl
@[simp] theorem setStg_tt (s : State) (f : Stg → Stg) : (setStg s f).tt = s.tt := rfl
@[simp] theorem setStg_dis (s : State) (f : Stg → Stg) : (setStg s f).dis = s.dis := rfl
@[simp] theorem setStg_qmg (s : State) (f : Stg → Stg) : (setStg s f).qmg = s.qmg := rfl
@[simp] theorem setStg_syn (s : State) (f : Stg → Stg) : (setStg s f).syn = s.syn := rfl
@[simp] theorem setStg_kpm (s : State) (f : Stg → Stg) : (setStg s f).kpm = s.kpm := rfl
@[simp] theorem setStg_mpl (s : State) (f : Stg → Stg) : (setStg s f).mpl = s.mpl := rfl
@[simp] theorem setStg_fus (s : State) (f : Stg → Stg) : (setStg s f).fus = s.fus := rfl
@[simp] theorem setStg_cvus (s : State) (f : Stg → Stg) : (setStg s f).cvus = s.cvus := rfl
@[simp] theorem setStg_engines (s : State) (f : Stg → Stg) : (setStg s f).engines = s.engines := rfl
@[simp] theorem setStg_dies (s : State) (f : Stg → Stg) : (setStg s f).dies = s.dies := rfl
@[simp] theorem setStg_flight (s : State) (f : Stg → Stg) : (setStg s f).flight = s.flight := rfl
@[simp] theorem setStg_fws (s : State) (f : Stg → Stg) : (setStg s f).fws = s.fws := rfl
@[simp] theorem setStg_sia (s : State) (f : Stg → Stg) : (setStg s f).sia = s.sia := rfl
@[simp] theorem setStg_sib (s : State) (f : Stg → Stg) : (setStg s f).sib = s.sib := rfl
@[simp] theorem setStg_edgeA (s : State) (f : Stg → Stg) : (setStg s f).edgeA = s.edgeA := rfl
@[simp] theorem setStg_edgeB (s : State) (f : Stg → Stg) : (setStg s f).edgeB = s.edgeB := rfl
@[simp] theorem setStg_clk (s : State) (f : Stg → Stg) : (setStg s f).clk = s.clk := rfl
@[simp] theorem setStg_iod (s : State) (f : Stg → Stg) : (setStg s f).iod = s.iod := rfl
@[simp] theorem setStg_latches (s : State) (f : Stg → Stg) : (setStg s f).latches = s.latches := rfl

@[simp] theorem setTt_tt (s : State) (f : Tt → Tt) : (setTt s f).tt = f s.tt := rfl
@[simp] theorem setTt_pending (s : State) (f : Tt → Tt) : (setTt s f).pending = s.pending := rfl
@[simp] theorem setTt_free (s : State) (f : Tt → Tt) : (setTt s f).free = s.free := rfl
@[simp] theorem setTt_vtime (s : State) (f : Tt → Tt) : (setTt s f).vtime = s.vtime := rfl
@[simp] theorem setTt_out (s : State) (f : Tt → Tt) : (setTt s f).out = s.out := rfl
@[simp] theorem setTt_hpt (s : State) (f : Tt → Tt) : (setTt s f).hpt = s.hpt := rfl
@[simp] theorem setTt_mgtA (s : State) (f : Tt → Tt) : (setTt s f).mgtA = s.mgtA := rfl
@[simp] theorem setTt_mgtB (s : State) (f : Tt → Tt) : (setTt s f).mgtB = s.mgtB := rfl
@[simp] theorem setTt_stg (s : State) (f : Tt → Tt) : (setTt s f).stg = s.stg := rfl
@[simp] theorem setTt_dis (s : State) (f : Tt → Tt) : (setTt s f).dis = s.dis := rfl
@[simp] theorem setTt_qmg (s : State) (f : Tt → Tt) : (setTt s f).qmg = s.qmg := rfl
@[simp] theorem setTt_syn (s : State) (f : Tt → Tt) : (setTt s f).syn = s.syn := rfl
@[simp] theorem setTt_kpm (s : State) (f : Tt → Tt) : (setTt s f).kpm = s.kpm := rfl
@[simp] theorem setTt_mpl (s : State) (f : Tt → Tt) : (setTt s f).mpl = s.mpl := rfl
@[simp] theorem setTt_fus (s : State) (f : Tt → Tt) : (setTt s f).fus = s.fus := rfl
@[simp] theorem setTt_cvus (s : State) (f : Tt → Tt) : (setTt s f).cvus = s.cvus := rfl
@[simp] theorem setTt_engines (s : State) (f : Tt → Tt) : (setTt s f).engines = s.engines := rfl
@[simp] theorem setTt_dies (s : State) (f : Tt → Tt) : (setTt s f).dies = s.dies := rfl
@[simp] theorem setTt_flight (s : State) (f : Tt → Tt) : (setTt s f).flight = s.flight := rfl
@[simp] theorem setTt_fws (s : State) (f : Tt → Tt) : (setTt s f).fws = s.fws := rfl
@[simp] theorem setTt_sia (s : State) (f : Tt → Tt) : (setTt s f).sia = s.sia := rfl
@[simp] theorem setTt_sib (s : State) (f : Tt → Tt) : (setTt s f).sib = s.sib := rfl
@[simp] theorem setTt_edgeA (s : State) (f : Tt → Tt) : (setTt s f).edgeA = s.edgeA := rfl
@[simp] theorem setTt_edgeB (s : State) (f : Tt → Tt) : (setTt s f).edgeB = s.edgeB := rfl
@[simp] theorem setTt_clk (s : State) (f : Tt → Tt) : (setTt s f).clk = s.clk := rfl
@[simp] theorem setTt_iod (s : State) (f : Tt → Tt) : (setTt s f).iod = s.iod := rfl
@[simp] theorem setTt_latches (s : State) (f : Tt → Tt) : (setTt s f).latches = s.latches := rfl

@[simp] theorem setMpl_mpl (s : State) (f : Mpl → Mpl) : (setMpl s f).mpl = f s.mpl := rfl
@[simp] theorem setMpl_pending (s : State) (f : Mpl → Mpl) : (setMpl s f).pending = s.pending := rfl
@[simp] theorem setMpl_free (s : State) (f : Mpl → Mpl) : (setMpl s f).free = s.free := rfl
@[simp] theorem setMpl_vtime (s : State) (f : Mpl → Mpl) : (setMpl s f).vtime = s.vtime := rfl
@[simp] theorem setMpl_out (s : State) (f : Mpl → Mpl) : (setMpl s f).out = s.out := rfl
@[simp] theorem setMpl_hpt (s : State) (f : Mpl → Mpl) : (setMpl s f).hpt = s.hpt := rfl
@[simp] theorem setMpl_mgtA (s : State) (f : Mpl → Mpl) : (setMpl s f).mgtA = s.mgtA := rfl
@[simp] theorem setMpl_mgtB (s : State) (f : Mpl → Mpl) : (setMpl s f).mgtB = s.mgtB := rfl
@[simp] theorem setMpl_stg (s : State) (f : Mpl → Mpl) : (setMpl s f).stg = s.stg := rfl
@[simp] theorem setMpl_tt (s : State) (f : Mpl → Mpl) : (setMpl s f).tt = s.tt := rfl
@[simp] theorem setMpl_dis (s : State) (f : Mpl → Mpl) : (setMpl s f).dis = s.dis := rfl
@[simp] theorem setMpl_qmg (s : State) (f : Mpl → Mpl) : (setMpl s f).qmg = s.qmg := rfl
@[simp] theorem setMpl_syn (s : State) (f : Mpl → Mpl) : (setMpl s f).syn = s.syn := rfl
@[simp] theorem setMpl_kpm (s : State) (f : Mpl → Mpl) : (setMpl s f).kpm = s.kpm := rfl
@[simp] theorem setMpl_fus (s : State) (f : Mpl → Mpl) : (setMpl s f).fus = s.fus := rfl
@[simp] theorem setMpl_cvus (s : State) (f : Mpl → Mpl) : (setMpl s f).cvus = s.cvus := rfl
@[simp] theorem setMpl_engines (s : State) (f : Mpl → Mpl) : (setMpl s f).engines = s.engines := rfl
@[simp] theorem setMpl_dies (s : State) (f : Mpl → Mpl) : (setMpl s f).dies = s.dies := rfl
@[simp] theorem setMpl_flight (s : State) (f : Mpl → Mpl) : (setMpl s f).flight = s.flight := rfl
@[simp] theorem setMpl_fws (s : State) (f : Mpl → Mpl) : (setMpl s f).fws = s.fws := rfl
@[simp] theorem setMpl_sia (s : State) (f : Mpl → Mpl) : (setMpl s f).sia = s.sia := rfl
@[simp] theorem setMpl_sib (s : State) (f : Mpl → Mpl) : (setMpl s f).sib = s.sib := rfl
@[simp] theorem setMpl_edgeA (s : State) (f : Mpl → Mpl) : (setMpl s f).edgeA = s.edgeA := rfl
@[simp] theorem setMpl_edgeB (s : State) (f : Mpl → Mpl) : (setMpl s f).edgeB = s.edgeB := rfl
@[simp] theorem setMpl_clk (s : State) (f : Mpl → Mpl) : (setMpl s f).clk = s.clk := rfl
@[simp] theorem setMpl_iod (s : State) (f : Mpl → Mpl) : (setMpl s f).iod = s.iod := rfl
@[simp] theorem setMpl_latches (s : State) (f : Mpl → Mpl) : (setMpl s f).latches = s.latches := rfl

@[simp] theorem setFus_fus (s : State) (f : Fus → Fus) : (setFus s f).fus = f s.fus := rfl
@[simp] theorem setFus_pending (s : State) (f : Fus → Fus) : (setFus s f).pending = s.pending := rfl
@[simp] theorem setFus_free (s : State) (f : Fus → Fus) : (setFus s f).free = s.free := rfl
@[simp] theorem setFus_vtime (s : State) (f : Fus → Fus) : (setFus s f).vtime = s.vtime := rfl
@[simp] theorem setFus_out (s : State) (f : Fus → Fus) : (setFus s f).out = s.out := rfl
@[simp] theorem setFus_hpt (s : State) (f : Fus → Fus) : (setFus s f).hpt = s.hpt := rfl
@[simp] theorem setFus_mgtA (s : State) (f : Fus → Fus) : (setFus s f).mgtA = s.mgtA := rfl
@[simp] theorem setFus_mgtB (s : State) (f : Fus → Fus) : (setFus s f).mgtB = s.mgtB := rfl
@[simp] theorem setFus_stg (s : State) (f : Fus → Fus) : (setFus s f).stg = s.stg := rfl
@[simp] theorem setFus_tt (s : State) (f : Fus → Fus) : (setFus s f).tt = s.tt := rfl
@[simp] theorem setFus_dis (s : State) (f : Fus → Fus) : (setFus s f).dis = s.dis := rfl
@[simp] theorem setFus_qmg (s : State) (f : Fus → Fus) : (setFus s f).qmg = s.qmg := rfl
@[simp] theorem setFus_syn (s : State) (f : Fus → Fus) : (setFus s f).syn = s.syn := rfl
@[simp] theorem setFus_kpm (s : State) (f : Fus → Fus) : (setFus s f).kpm = s.kpm := rfl
@[simp] theorem setFus_mpl (s : State) (f : Fus → Fus) : (setFus s f).mpl = s.mpl := rfl
@[simp] theorem setFus_cvus (s : State) (f : Fus → Fus) : (setFus s f).cvus = s.cvus := rfl
@[simp] theorem setFus_engines (s : State) (f : Fus → Fus) : (setFus s f).engines = s.engines := rfl
@[simp] theorem setFus_dies (s : State) (f : Fus → Fus) : (setFus s f).dies = s.dies := rfl
@[simp] theorem setFus_flight (s : State) (f : Fus → Fus) : (setFus s f).flight = s.flight := rfl
@[simp] theorem setFus_fws (s : State) (f : Fus → Fus) : (setFus s f).fws = s.fws := rfl
@[simp] theorem setFus_sia (s : State) (f : Fus → Fus) : (setFus s f).sia = s.sia := rfl
@[simp] theorem setFus_sib (s : State) (f : Fus → Fus) : (setFus s f).sib = s.sib := rfl
@[simp] theorem setFus_edgeA (s : State) (f : Fus → Fus) : (setFus s f).edgeA = s.edgeA := rfl
@[simp] theorem setFus_edgeB (s : State) (f : Fus → Fus) : (setFus s f).edgeB = s.edgeB := rfl
@[simp] theorem setFus_clk (s : State) (f : Fus → Fus) : (setFus s f).clk = s.clk := rfl
@[simp] theorem setFus_iod (s : State) (f : Fus → Fus) : (setFus s f).iod = s.iod := rfl
@[simp] theorem setFus_latches (s : State) (f : Fus → Fus) : (setFus s f).latches = s.latches := rfl

@[simp] theorem setKpm_kpm (s : State) (f : Kpm → Kpm) : (setKpm s f).kpm = f s.kpm := rfl
@[simp] theorem setKpm_pending (s : State) (f : Kpm → Kpm) : (setKpm s f).pending = s.pending := rfl
@[simp] theorem setKpm_free (s : State) (f : Kpm → Kpm) : (setKpm s f).free = s.free := rfl
@[simp] theorem setKpm_vtime (s : State) (f : Kpm → Kpm) : (setKpm s f).vtime = s.vtime := rfl
@[simp] theorem setKpm_out (s : State) (f : Kpm → Kpm) : (setKpm s f).out = s.out := rfl
@[simp] theorem setKpm_hpt (s : State) (f : Kpm → Kpm) : (setKpm s f).hpt = s.hpt := rfl
@[simp] theorem setKpm_mgtA (s : State) (f : Kpm → Kpm) : (setKpm s f).mgtA = s.mgtA := rfl
@[simp] theorem setKpm_mgtB (s : State) (f : Kpm → Kpm) : (setKpm s f).mgtB = s.mgtB := rfl
@[simp] theorem setKpm_stg (s : State) (f : Kpm → Kpm) : (setKpm s f).stg = s.stg := rfl
@[simp] theorem setKpm_tt (s : State) (f : Kpm → Kpm) : (setKpm s f).tt = s.tt := rfl
@[simp] theorem setKpm_dis (s : State) (f : Kpm → Kpm) : (setKpm s f).dis = s.dis := rfl
@[simp] theorem setKpm_qmg (s : State) (f : Kpm → Kpm) : (setKpm s f).qmg = s.qmg := rfl
@[simp] theorem setKpm_syn (s : State) (f : Kpm → Kpm) : (setKpm s f).syn = s.syn := rfl
@[simp] theorem setKpm_mpl (s : State) (f : Kpm → Kpm) : (setKpm s f).mpl = s.mpl := rfl
@[simp] theorem setKpm_fus (s : State) (f : Kpm → Kpm) : (setKpm s f).fus = s.fus := rfl
@[simp] theorem setKpm_cvus (s : State) (f : Kpm → Kpm) : (setKpm s f).cvus = s.cvus := rfl
@[simp] theorem setKpm_engines (s : State) (f : Kpm → Kpm) : (setKpm s f).engines = s.engines := rfl
@[simp] theorem setKpm_dies (s : State) (f : Kpm → Kpm) : (setKpm s f).dies = s.dies := rfl
@[simp] theorem setKpm_flight (s : State) (f : Kpm → Kpm) : (setKpm s f).flight = s.flight := rfl
@[simp] theorem setKpm_fws (s : State) (f : Kpm → Kpm) : (setKpm s f).fws = s.fws := rfl
@[simp] theorem setKpm_sia (s : State) (f : Kpm → Kpm) : (setKpm s f).sia = s.sia := rfl
@[simp] theorem setKpm_sib (s : State) (f : Kpm → Kpm) : (setKpm s f).sib = s.sib := rfl
@[simp] theorem setKpm_edgeA (s : State) (f : Kpm → Kpm) : (setKpm s f).edgeA = s.edgeA := rfl
@[simp] theorem setKpm_edgeB (s : State) (f : Kpm → Kpm) : (setKpm s f).edgeB = s.edgeB := rfl
@[simp] theorem setKpm_clk (s : State) (f : Kpm → Kpm) : (setKpm s f).clk = s.clk := rfl
@[simp] theorem setKpm_iod (s : State) (f : Kpm → Kpm) : (setKpm s f).iod = s.iod := rfl
@[simp] theorem setKpm_latches (s : State) (f : Kpm → Kpm) : (setKpm s f).latches = s.latches := rfl

@[simp] theorem setClk_clk (s : State) (f : Clk → Clk) : (setClk s f).clk = f s.clk := rfl
@[simp] theorem setClk_pending (s : State) (f : Clk → Clk) : (setClk s f).pending = s.pending := rfl
@[simp] theorem setClk_free (s : State) (f : Clk → Clk) : (setClk s f).free = s.free := rfl
@[simp] theorem setClk_vtime (s : State) (f : Clk → Clk) : (setClk s f).vtime = s.vtime := rfl
@[simp] theorem setClk_out (s : State) (f : Clk → Clk) : (setClk s f).out = s.out := rfl
@[simp] theorem setClk_hpt (s : State) (f : Clk → Clk) : (setClk s f).hpt = s.hpt := rfl
@[simp] theorem setClk_mgtA (s : State) (f : Clk → Clk) : (setClk s f).mgtA = s.mgtA := rfl
@[simp] theorem setClk_mgtB (s : State) (f : Clk → Clk) : (setClk s f).mgtB = s.mgtB := rfl
@[simp] theorem setClk_stg (s : State) (f : Clk → Clk) : (setClk s f).stg = s.stg := rfl
@[simp] theorem setClk_tt (s : State) (f : Clk → Clk) : (setClk s f).tt = s.tt := rfl
@[simp] theorem setClk_dis (s : State) (f : Clk → Clk) : (setClk s f).dis = s.dis := rfl
@[simp] theorem setClk_qmg (s : State) (f : Clk → Clk) : (setClk s f).qmg = s.qmg := rfl
@[simp] theorem setClk_syn (s : State) (f : Clk → Clk) : (setClk s f).syn = s.syn := rfl
@[simp] theorem setClk_kpm (s : State) (f : Clk → Clk) : (setClk s f).kpm = s.kpm := rfl
@[simp] theorem setClk_mpl (s : State) (f : Clk → Clk) : (setClk s f).mpl = s.mpl := rfl
@[simp] theorem setClk_fus (s : State) (f : Clk → Clk) : (setClk s f).fus = s.fus := rfl
@[simp] theorem setClk_cvus (s : State) (f : Clk → Clk) : (setClk s f).cvus = s.cvus := rfl
@[simp] theorem setClk_engines (s : State) (f : Clk → Clk) : (setClk s f).engines = s.engines := rfl
@[simp] theorem setClk_dies (s : State) (f : Clk → Clk) : (setClk s f).dies = s.dies := rfl
@[simp] theorem setClk_flight (s : State) (f : Clk → Clk) : (setClk s f).flight = s.flight := rfl
@[simp] theorem setClk_fws (s : State) (f : Clk → Clk) : (setClk s f).fws = s.fws := rfl
@[simp] theorem setClk_sia (s : State) (f : Clk → Clk) : (setClk s f).sia = s.sia := rfl
@[simp] theorem setClk_sib (s : State) (f : Clk → Clk) : (setClk s f).sib = s.sib := rfl
@[simp] theorem setClk_edgeA (s : State) (f : Clk → Clk) : (setClk s f).edgeA = s.edgeA := rfl
@[simp] theorem setClk_edgeB (s : State) (f : Clk → Clk) : (setClk s f).edgeB = s.edgeB := rfl
@[simp] theorem setClk_iod (s : State) (f : Clk → Clk) : (setClk s f).iod = s.iod := rfl
@[simp] theorem setClk_latches (s : State) (f : Clk → Clk) : (setClk s f).latches = s.latches := rfl

@[simp] theorem setIod_iod (s : State) (f : Iod → Iod) : (setIod s f).iod = f s.iod := rfl
@[simp] theorem setIod_pending (s : State) (f : Iod → Iod) : (setIod s f).pending = s.pending := rfl
@[simp] theorem setIod_free (s : State) (f : Iod → Iod) : (setIod s f).free = s.free := rfl
@[simp] theorem setIod_vtime (s : State) (f : Iod → Iod) : (setIod s f).vtime = s.vtime := rfl
@[simp] theorem setIod_out (s : State) (f : Iod → Iod) : (setIod s f).out = s.out := rfl
@[simp] theorem setIod_hpt (s : State) (f : Iod → Iod) : (setIod s f).hpt = s.hpt := rfl
@[simp] theorem setIod_mgtA (s : State) (f : Iod → Iod) : (setIod s f).mgtA = s.mgtA := rfl
@[simp] theorem setIod_mgtB (s : State) (f : Iod → Iod) : (setIod s f).mgtB = s.mgtB := rfl
@[simp] theorem setIod_stg (s : State) (f : Iod → Iod) : (setIod s f).stg = s.stg := rfl
@[simp] theorem setIod_tt (s : State) (f : Iod → Iod) : (setIod s f).tt = s.tt := rfl
@[simp] theorem setIod_dis (s : State) (f : Iod → Iod) : (setIod s f).dis = s.dis := rfl
@[simp] theorem setIod_qmg (s : State) (f : Iod → Iod) : (setIod s f).qmg = s.qmg := rfl
@[simp] theorem setIod_syn (s : State) (f : Iod → Iod) : (setIod s f).syn = s.syn := rfl
@[simp] theorem setIod_kpm (s : State) (f : Iod → Iod) : (setIod s f).kpm = s.kpm := rfl
@[simp] theorem setIod_mpl (s : State) (f : Iod → Iod) : (setIod s f).mpl = s.mpl := rfl
@[simp] theorem setIod_fus (s : State) (f : Iod → Iod) : (setIod s f).fus = s.fus := rfl
@[simp] theorem setIod_cvus (s : State) (f : Iod → Iod) : (setIod s f).cvus = s.cvus := rfl
@[simp] theorem setIod_engines (s : State) (f : Iod → Iod) : (setIod s f).engines = s.engines := rfl
@[simp] theorem setIod_dies (s : State) (f : Iod → Iod) : (setIod s f).dies = s.dies := rfl
@[simp] theorem setIod_flight (s : State) (f : Iod → Iod) : (setIod s f).flight = s.flight := rfl
@[simp] theorem setIod_fws (s : State) (f : Iod → Iod) : (setIod s f).fws = s.fws := rfl
@[simp] theorem setIod_sia (s : State) (f : Iod → Iod) : (setIod s f).sia = s.sia := rfl
@[simp] theorem setIod_sib (s : State) (f : Iod → Iod) : (setIod s f).sib = s.sib := rfl
@[simp] theorem setIod_edgeA (s : State) (f : Iod → Iod) : (setIod s f).edgeA = s.edgeA := rfl
@[simp] theorem setIod_edgeB (s : State) (f : Iod → Iod) : (setIod s f).edgeB = s.edgeB := rfl
@[simp] theorem setIod_clk (s : State) (f : Iod → Iod) : (setIod s f).clk = s.clk := rfl
@[simp] theorem setIod_latches (s : State) (f : Iod → Iod) : (setIod s f).latches = s.latches := rfl

@[simp] theorem setPage_pending (s : State) (i : Nat) (p : Page) : (setPage s i p).pending = s.pending := rfl
@[simp] theorem setPage_free (s : State) (i : Nat) (p : Page) : (setPage s i p).free = s.free := rfl
@[simp] theorem setPage_vtime (s : State) (i : Nat) (p : Page) : (setPage s i p).vtime = s.vtime := rfl
@[simp] theorem setPage_out (s : State) (i : Nat) (p : Page) : (setPage s i p).out = s.out := rfl
@[simp] theorem setPage_hpt (s : State) (i : Nat) (p : Page) : (setPage s i p).hpt = s.hpt := rfl
@[simp] theorem setPage_mgtA (s : State) (i : Nat) (p : Page) : (setPage s i p).mgtA = s.mgtA := rfl
@[simp] theorem setPage_mgtB (s : State) (i : Nat) (p : Page) : (setPage s i p).mgtB = s.mgtB := rfl
@[simp] theorem setPage_stg (s : State) (i : Nat) (p : Page) : (setPage s i p).stg = s.stg := rfl
@[simp] theorem setPage_tt (s : State) (i : Nat) (p : Page) : (setPage s i p).tt = s.tt := rfl
@[simp] theorem setPage_dis (s : State) (i : Nat) (p : Page) : (setPage s i p).dis = s.dis := rfl
@[simp] theorem setPage_qmg (s : State) (i : Nat) (p : Page) : (setPage s i p).qmg = s.qmg := rfl
@[simp] theorem setPage_syn (s : State) (i : Nat) (p : Page) : (setPage s i p).syn = s.syn := rfl
@[simp] theorem setPage_mpl (s : State) (i : Nat) (p : Page) : (setPage s i p).mpl = s.mpl := rfl
@[simp] theorem setPage_fus (s : State) (i : Nat) (p : Page) : (setPage s i p).fus = s.fus := rfl
@[simp] theorem setPage_cvus (s : State) (i : Nat) (p : Page) : (setPage s i p).cvus = s.cvus := rfl
@[simp] theorem setPage_engines (s : State) (i : Nat) (p : Page) : (setPage s i p).engines = s.engines := rfl
@[simp] theorem setPage_dies (s : State) (i : Nat) (p : Page) : (setPage s i p).dies = s.dies := rfl
@[simp] theorem setPage_flight (s : State) (i : Nat) (p : Page) : (setPage s i p).flight = s.flight := rfl
@[simp] theorem setPage_fws (s : State) (i : Nat) (p : Page) : (setPage s i p).fws = s.fws := rfl
@[simp] theorem setPage_sia (s : State) (i : Nat) (p : Page) : (setPage s i p).sia = s.sia := rfl
@[simp] theorem setPage_sib (s : State) (i : Nat) (p : Page) : (setPage s i p).sib = s.sib := rfl
@[simp] theorem setPage_edgeA (s : State) (i : Nat) (p : Page) : (setPage s i p).edgeA = s.edgeA := rfl
@[simp] theorem setPage_edgeB (s : State) (i : Nat) (p : Page) : (setPage s i p).edgeB = s.edgeB := rfl
@[simp] theorem setPage_clk (s : State) (i : Nat) (p : Page) : (setPage s i p).clk = s.clk := rfl
@[simp] theorem setPage_iod (s : State) (i : Nat) (p : Page) : (setPage s i p).iod = s.iod := rfl
@[simp] theorem setPage_latches (s : State) (i : Nat) (p : Page) : (setPage s i p).latches = s.latches := rfl

@[simp] theorem setObj_pending (s : State) (k : Nat) (o : SynObj) : (setObj s k o).pending = s.pending := rfl
@[simp] theorem setObj_free (s : State) (k : Nat) (o : SynObj) : (setObj s k o).free = s.free := rfl
@[simp] theorem setObj_vtime (s : State) (k : Nat) (o : SynObj) : (setObj s k o).vtime = s.vtime := rfl
@[simp] theorem setObj_out (s : State) (k : Nat) (o : SynObj) : (setObj s k o).out = s.out := rfl
@[simp] theorem setObj_hpt (s : State) (k : Nat) (o : SynObj) : (setObj s k o).hpt = s.hpt := rfl
@[simp] theorem setObj_mgtA (s : State) (k : Nat) (o : SynObj) : (setObj s k o).mgtA = s.mgtA := rfl
@[simp] theorem setObj_mgtB (s : State) (k : Nat) (o : SynObj) : (setObj s k o).mgtB = s.mgtB := rfl
@[simp] theorem setObj_stg (s : State) (k : Nat) (o : SynObj) : (setObj s k o).stg = s.stg := rfl
@[simp] theorem setObj_tt (s : State) (k : Nat) (o : SynObj) : (setObj s k o).tt = s.tt := rfl
@[simp] theorem setObj_dis (s : State) (k : Nat) (o : SynObj) : (setObj s k o).dis = s.dis := rfl
@[simp] theorem setObj_qmg (s : State) (k : Nat) (o : SynObj) : (setObj s k o).qmg = s.qmg := rfl
@[simp] theorem setObj_kpm (s : State) (k : Nat) (o : SynObj) : (setObj s k o).kpm = s.kpm := rfl
@[simp] theorem setObj_mpl (s : State) (k : Nat) (o : SynObj) : (setObj s k o).mpl = s.mpl := rfl
@[simp] theorem setObj_fus (s : State) (k : Nat) (o : SynObj) : (setObj s k o).fus = s.fus := rfl
@[simp] theorem setObj_cvus (s : State) (k : Nat) (o : SynObj) : (setObj s k o).cvus = s.cvus := rfl
@[simp] theorem setObj_engines (s : State) (k : Nat) (o : SynObj) : (setObj s k o).engines = s.engines := rfl
@[simp] theorem setObj_dies (s : State) (k : Nat) (o : SynObj) : (setObj s k o).dies = s.dies := rfl
@[simp] theorem setObj_flight (s : State) (k : Nat) (o : SynObj) : (setObj s k o).flight = s.flight := rfl
@[simp] theorem setObj_fws (s : State) (k : Nat) (o : SynObj) : (setObj s k o).fws = s.fws := rfl
@[simp] theorem setObj_sia (s : State) (k : Nat) (o : SynObj) : (setObj s k o).sia = s.sia := rfl
@[simp] theorem setObj_sib (s : State) (k : Nat) (o : SynObj) : (setObj s k o).sib = s.sib := rfl
@[simp] theorem setObj_edgeA (s : State) (k : Nat) (o : SynObj) : (setObj s k o).edgeA = s.edgeA := rfl
@[simp] theorem setObj_edgeB (s : State) (k : Nat) (o : SynObj) : (setObj s k o).edgeB = s.edgeB := rfl
@[simp] theorem setObj_clk (s : State) (k : Nat) (o : SynObj) : (setObj s k o).clk = s.clk := rfl
@[simp] theorem setObj_iod (s : State) (k : Nat) (o : SynObj) : (setObj s k o).iod = s.iod := rfl
@[simp] theorem setObj_latches (s : State) (k : Nat) (o : SynObj) : (setObj s k o).latches = s.latches := rfl

end Sys2Proof.Laws
end

