-- ==== Sys2Proof/Laws/Ops.lean ====
section
/-! SUPPORT. What the shared operations can do: the host port's change, a fault-log entry, a reply, an operation's row. -/

namespace Sys2Proof.Laws

open Sys2Proof.Machine

/-! A change of the host port writes the port and may raise the MSI vector. -/

theorem setHpt_eq (s : State) (h : Hpt) : setHpt s h = { s with hpt := h } ∨ setHpt s h = emit { s with hpt := h } .msi := by
  unfold setHpt
  dsimp only
  split
  · exact .inr rfl
  · exact .inl rfl

@[simp] theorem setHpt_hpt (s : State) (h : Hpt) : (setHpt s h).hpt = h := by
  rcases setHpt_eq s h with e | e <;> simp [e]

@[simp] theorem setHpt_pending (s : State) (h : Hpt) : (setHpt s h).pending = s.pending := by
  rcases setHpt_eq s h with e | e <;> simp [e]
@[simp] theorem setHpt_free (s : State) (h : Hpt) : (setHpt s h).free = s.free := by
  rcases setHpt_eq s h with e | e <;> simp [e]
@[simp] theorem setHpt_vtime (s : State) (h : Hpt) : (setHpt s h).vtime = s.vtime := by
  rcases setHpt_eq s h with e | e <;> simp [e]
@[simp] theorem setHpt_mgtA (s : State) (h : Hpt) : (setHpt s h).mgtA = s.mgtA := by
  rcases setHpt_eq s h with e | e <;> simp [e]
@[simp] theorem setHpt_mgtB (s : State) (h : Hpt) : (setHpt s h).mgtB = s.mgtB := by
  rcases setHpt_eq s h with e | e <;> simp [e]
@[simp] theorem setHpt_stg (s : State) (h : Hpt) : (setHpt s h).stg = s.stg := by
  rcases setHpt_eq s h with e | e <;> simp [e]
@[simp] theorem setHpt_tt (s : State) (h : Hpt) : (setHpt s h).tt = s.tt := by
  rcases setHpt_eq s h with e | e <;> simp [e]
@[simp] theorem setHpt_dis (s : State) (h : Hpt) : (setHpt s h).dis = s.dis := by
  rcases setHpt_eq s h with e | e <;> simp [e]
@[simp] theorem setHpt_qmg (s : State) (h : Hpt) : (setHpt s h).qmg = s.qmg := by
  rcases setHpt_eq s h with e | e <;> simp [e]
@[simp] theorem setHpt_syn (s : State) (h : Hpt) : (setHpt s h).syn = s.syn := by
  rcases setHpt_eq s h with e | e <;> simp [e]
@[simp] theorem setHpt_kpm (s : State) (h : Hpt) : (setHpt s h).kpm = s.kpm := by
  rcases setHpt_eq s h with e | e <;> simp [e]
@[simp] theorem setHpt_mpl (s : State) (h : Hpt) : (setHpt s h).mpl = s.mpl := by
  rcases setHpt_eq s h with e | e <;> simp [e]
@[simp] theorem setHpt_fus (s : State) (h : Hpt) : (setHpt s h).fus = s.fus := by
  rcases setHpt_eq s h with e | e <;> simp [e]
@[simp] theorem setHpt_cvus (s : State) (h : Hpt) : (setHpt s h).cvus = s.cvus := by
  rcases setHpt_eq s h with e | e <;> simp [e]
@[simp] theorem setHpt_engines (s : State) (h : Hpt) : (setHpt s h).engines = s.engines := by
  rcases setHpt_eq s h with e | e <;> simp [e]
@[simp] theorem setHpt_dies (s : State) (h : Hpt) : (setHpt s h).dies = s.dies := by
  rcases setHpt_eq s h with e | e <;> simp [e]
@[simp] theorem setHpt_flight (s : State) (h : Hpt) : (setHpt s h).flight = s.flight := by
  rcases setHpt_eq s h with e | e <;> simp [e]
@[simp] theorem setHpt_fws (s : State) (h : Hpt) : (setHpt s h).fws = s.fws := by
  rcases setHpt_eq s h with e | e <;> simp [e]
@[simp] theorem setHpt_sia (s : State) (h : Hpt) : (setHpt s h).sia = s.sia := by
  rcases setHpt_eq s h with e | e <;> simp [e]
@[simp] theorem setHpt_sib (s : State) (h : Hpt) : (setHpt s h).sib = s.sib := by
  rcases setHpt_eq s h with e | e <;> simp [e]
@[simp] theorem setHpt_edgeA (s : State) (h : Hpt) : (setHpt s h).edgeA = s.edgeA := by
  rcases setHpt_eq s h with e | e <;> simp [e]
@[simp] theorem setHpt_edgeB (s : State) (h : Hpt) : (setHpt s h).edgeB = s.edgeB := by
  rcases setHpt_eq s h with e | e <;> simp [e]
@[simp] theorem setHpt_clk (s : State) (h : Hpt) : (setHpt s h).clk = s.clk := by
  rcases setHpt_eq s h with e | e <;> simp [e]
@[simp] theorem setHpt_iod (s : State) (h : Hpt) : (setHpt s h).iod = s.iod := by
  rcases setHpt_eq s h with e | e <;> simp [e]
@[simp] theorem setHpt_latches (s : State) (h : Hpt) : (setHpt s h).latches = s.latches := by
  rcases setHpt_eq s h with e | e <;> simp [e]

/-! An entry of the fault log writes the islands' logs, the host port's alert and the count of free values. -/

theorem addEntry_eq (s : State) (e : Entry) : ∃ x y : Island, (addEntry s e = { s with sia := x, sib := y } ∨
    addEntry s e = setHpt { s with sia := x, sib := y } { s.hpt with aFault := true }) := by
  refine ⟨islTake s.sia (if iodReady s then e else { e with stage := s.sia.rep.stage % 2 ^ 32 }),
    islTake s.sib (if iodReady s then e else { e with stage := s.sib.rep.stage % 2 ^ 32 }), ?_⟩
  unfold addEntry
  dsimp only [bothIsl, modIsl, setIsl, isl]
  split
  · exact .inl rfl
  · exact .inr rfl

theorem logF_eq (s : State) (f : Fact) : ∃ (n : Nat) (x y : Island), (logF s f = { s with free := n, sia := x, sib := y } ∨
    logF s f = setHpt { s with free := n, sia := x, sib := y } { s.hpt with aFault := true }) := by
  unfold logF
  dsimp only
  split
  · obtain ⟨x, y, h | h⟩ := addEntry_eq (fresh s).2 _
    · exact ⟨s.free + 1, x, y, .inl h⟩
    · exact ⟨s.free + 1, x, y, .inr h⟩
  · obtain ⟨x, y, h | h⟩ := addEntry_eq s _
    · exact ⟨s.free, x, y, .inl h⟩
    · exact ⟨s.free, x, y, .inr h⟩

@[simp] theorem logF_pending (s : State) (f : Fact) : (logF s f).pending = s.pending := by
  obtain ⟨_, _, _, h | h⟩ := logF_eq s f <;> simp [h]
@[simp] theorem logF_vtime (s : State) (f : Fact) : (logF s f).vtime = s.vtime := by
  obtain ⟨_, _, _, h | h⟩ := logF_eq s f <;> simp [h]
@[simp] theorem logF_mgtA (s : State) (f : Fact) : (logF s f).mgtA = s.mgtA := by
  obtain ⟨_, _, _, h | h⟩ := logF_eq s f <;> simp [h]
@[simp] theorem logF_mgtB (s : State) (f : Fact) : (logF s f).mgtB = s.mgtB := by
  obtain ⟨_, _, _, h | h⟩ := logF_eq s f <;> simp [h]
@[simp] theorem logF_stg (s : State) (f : Fact) : (logF s f).stg = s.stg := by
  obtain ⟨_, _, _, h | h⟩ := logF_eq s f <;> simp [h]
@[simp] theorem logF_tt (s : State) (f : Fact) : (logF s f).tt = s.tt := by
  obtain ⟨_, _, _, h | h⟩ := logF_eq s f <;> simp [h]
@[simp] theorem logF_dis (s : State) (f : Fact) : (logF s f).dis = s.dis := by
  obtain ⟨_, _, _, h | h⟩ := logF_eq s f <;> simp [h]
@[simp] theorem logF_qmg (s : State) (f : Fact) : (logF s f).qmg = s.qmg := by
  obtain ⟨_, _, _, h | h⟩ := logF_eq s f <;> simp [h]
@[simp] theorem logF_syn (s : State) (f : Fact) : (logF s f).syn = s.syn := by
  obtain ⟨_, _, _, h | h⟩ := logF_eq s f <;> simp [h]
@[simp] theorem logF_kpm (s : State) (f : Fact) : (logF s f).kpm = s.kpm := by
  obtain ⟨_, _, _, h | h⟩ := logF_eq s f <;> simp [h]
@[simp] theorem logF_mpl (s : State) (f : Fact) : (logF s f).mpl = s.mpl := by
  obtain ⟨_, _, _, h | h⟩ := logF_eq s f <;> simp [h]
@[simp] theorem logF_fus (s : State) (f : Fact) : (logF s f).fus = s.fus := by
  obtain ⟨_, _, _, h | h⟩ := logF_eq s f <;> simp [h]
@[simp] theorem logF_cvus (s : State) (f : Fact) : (logF s f).cvus = s.cvus := by
  obtain ⟨_, _, _, h | h⟩ := logF_eq s f <;> simp [h]
@[simp] theorem logF_engines (s : State) (f : Fact) : (logF s f).engines = s.engines := by
  obtain ⟨_, _, _, h | h⟩ := logF_eq s f <;> simp [h]
@[simp] theorem logF_dies (s : State) (f : Fact) : (logF s f).dies = s.dies := by
  obtain ⟨_, _, _, h | h⟩ := logF_eq s f <;> simp [h]
@[simp] theorem logF_flight (s : State) (f : Fact) : (logF s f).flight = s.flight := by
  obtain ⟨_, _, _, h | h⟩ := logF_eq s f <;> simp [h]
@[simp] theorem logF_fws (s : State) (f : Fact) : (logF s f).fws = s.fws := by
  obtain ⟨_, _, _, h | h⟩ := logF_eq s f <;> simp [h]
@[simp] theorem logF_edgeA (s : State) (f : Fact) : (logF s f).edgeA = s.edgeA := by
  obtain ⟨_, _, _, h | h⟩ := logF_eq s f <;> simp [h]
@[simp] theorem logF_edgeB (s : State) (f : Fact) : (logF s f).edgeB = s.edgeB := by
  obtain ⟨_, _, _, h | h⟩ := logF_eq s f <;> simp [h]
@[simp] theorem logF_clk (s : State) (f : Fact) : (logF s f).clk = s.clk := by
  obtain ⟨_, _, _, h | h⟩ := logF_eq s f <;> simp [h]
@[simp] theorem logF_iod (s : State) (f : Fact) : (logF s f).iod = s.iod := by
  obtain ⟨_, _, _, h | h⟩ := logF_eq s f <;> simp [h]
@[simp] theorem logF_latches (s : State) (f : Fact) : (logF s f).latches = s.latches := by
  obtain ⟨_, _, _, h | h⟩ := logF_eq s f <;> simp [h]

/-! A reply writes the host port or one management port, and what leaves the device. -/

theorem reply_host (s : State) (p : Pkt) (st : Byte) (data : List Word) (h : p.port = .host) :
    reply s p st data = setHpt s { s.hpt with
      fifo := s.hpt.fifo ++ [replyWords p s.hpt.replies.toNat st data], replies := s.hpt.replies + 1 } := by
  simp [reply, h]

theorem reply_mgt (s : State) (p : Pkt) (st : Byte) (data : List Word) (i : Isl) (h : p.port = .mgt i) :
    reply s p st data = mgtSend s i (fun c => replyWords p c st data) := by
  simp [reply, h]

@[simp] theorem reply_pending (s : State) (p : Pkt) (st : Byte) (data : List Word) : (reply s p st data).pending = s.pending := by
  unfold reply; split <;> simp [mgtSend]
@[simp] theorem reply_free (s : State) (p : Pkt) (st : Byte) (data : List Word) : (reply s p st data).free = s.free := by
  unfold reply; split <;> simp [mgtSend]
@[simp] theorem reply_vtime (s : State) (p : Pkt) (st : Byte) (data : List Word) : (reply s p st data).vtime = s.vtime := by
  unfold reply; split <;> simp [mgtSend]
@[simp] theorem reply_stg (s : State) (p : Pkt) (st : Byte) (data : List Word) : (reply s p st data).stg = s.stg := by
  unfold reply; split <;> simp [mgtSend]
@[simp] theorem reply_tt (s : State) (p : Pkt) (st : Byte) (data : List Word) : (reply s p st data).tt = s.tt := by
  unfold reply; split <;> simp [mgtSend]
@[simp] theorem reply_dis (s : State) (p : Pkt) (st : Byte) (data : List Word) : (reply s p st data).dis = s.dis := by
  unfold reply; split <;> simp [mgtSend]
@[simp] theorem reply_qmg (s : State) (p : Pkt) (st : Byte) (data : List Word) : (reply s p st data).qmg = s.qmg := by
  unfold reply; split <;> simp [mgtSend]
@[simp] theorem reply_syn (s : State) (p : Pkt) (st : Byte) (data : List Word) : (reply s p st data).syn = s.syn := by
  unfold reply; split <;> simp [mgtSend]
@[simp] theorem reply_kpm (s : State) (p : Pkt) (st : Byte) (data : List Word) : (reply s p st data).kpm = s.kpm := by
  unfold reply; split <;> simp [mgtSend]
@[simp] theorem reply_mpl (s : State) (p : Pkt) (st : Byte) (data : List Word) : (reply s p st data).mpl = s.mpl := by
  unfold reply; split <;> simp [mgtSend]
@[simp] theorem reply_fus (s : State) (p : Pkt) (st : Byte) (data : List Word) : (reply s p st data).fus = s.fus := by
  unfold reply; split <;> simp [mgtSend]
@[simp] theorem reply_cvus (s : State) (p : Pkt) (st : Byte) (data : List Word) : (reply s p st data).cvus = s.cvus := by
  unfold reply; split <;> simp [mgtSend]
@[simp] theorem reply_engines (s : State) (p : Pkt) (st : Byte) (data : List Word) : (reply s p st data).engines = s.engines := by
  unfold reply; split <;> simp [mgtSend]
@[simp] theorem reply_dies (s : State) (p : Pkt) (st : Byte) (data : List Word) : (reply s p st data).dies = s.dies := by
  unfold reply; split <;> simp [mgtSend]
@[simp] theorem reply_flight (s : State) (p : Pkt) (st : Byte) (data : List Word) : (reply s p st data).flight = s.flight := by
  unfold reply; split <;> simp [mgtSend]
@[simp] theorem reply_fws (s : State) (p : Pkt) (st : Byte) (data : List Word) : (reply s p st data).fws = s.fws := by
  unfold reply; split <;> simp [mgtSend]
@[simp] theorem reply_sia (s : State) (p : Pkt) (st : Byte) (data : List Word) : (reply s p st data).sia = s.sia := by
  unfold reply; split <;> simp [mgtSend]
@[simp] theorem reply_sib (s : State) (p : Pkt) (st : Byte) (data : List Word) : (reply s p st data).sib = s.sib := by
  unfold reply; split <;> simp [mgtSend]
@[simp] theorem reply_edgeA (s : State) (p : Pkt) (st : Byte) (data : List Word) : (reply s p st data).edgeA = s.edgeA := by
  unfold reply; split <;> simp [mgtSend]
@[simp] theorem reply_edgeB (s : State) (p : Pkt) (st : Byte) (data : List Word) : (reply s p st data).edgeB = s.edgeB := by
  unfold reply; split <;> simp [mgtSend]
@[simp] theorem reply_clk (s : State) (p : Pkt) (st : Byte) (data : List Word) : (reply s p st data).clk = s.clk := by
  unfold reply; split <;> simp [mgtSend]
@[simp] theorem reply_iod (s : State) (p : Pkt) (st : Byte) (data : List Word) : (reply s p st data).iod = s.iod := by
  unfold reply; split <;> simp [mgtSend]
@[simp] theorem reply_latches (s : State) (p : Pkt) (st : Byte) (data : List Word) : (reply s p st data).latches = s.latches := by
  unfold reply; split <;> simp [mgtSend]

/-! One operation row: nothing happens unless the engine's next descriptor ends before its operation counts or is the row's own
(Table 4-11). -/

/-- An engine that does not overtake stays as it is; one that does runs the next descriptor by its own row. -/
theorem overtake_cases (g : EngId) (o : EngOp) (s : State) : overtake g o s = s ∨
    (mayOvertake (eng s g) = true ∧ ∃ v ws ok t u, nextDesc v g = some (ws, ok, t) ∧ runDesc o g t ws ok = some u) := by
  unfold overtake
  simp only
  split
  · exact .inl rfl
  · rename_i h
    split
    · exact .inl rfl
    · rename_i ws ok t hn
      split
      · exact .inl rfl
      · split
        · exact .inl rfl
        · rename_i u hr
          exact .inr ⟨by simpa using h, _, ws, ok, t, u, hn, hr⟩

theorem overtake_idle (g : EngId) (o : EngOp) (s : State) (h : (eng s g).cur = none) : overtake g o s = s := by
  simp [overtake, mayOvertake, h]

theorem runEng_cases (g : EngId) (o : EngOp) (s : State) : ∃ u, runEng g o s = .next u ∧
    (u = s ∨ (nextDesc s g = none ∧ u = overtake g o s) ∨
      ∃ ws ok t, nextDesc s g = some (ws, ok, t) ∧ runDesc o g t ws ok = some u) := by
  refine ⟨_, rfl, ?_⟩
  split
  · rename_i hn
    exact .inr (.inl ⟨hn, rfl⟩)
  · rename_i ws ok t hn
    cases hr : runDesc o g t ws ok with
    | none => exact .inl (by simp)
    | some u => exact .inr (.inr ⟨ws, ok, t, hn, by simp [hr]⟩)

end Sys2Proof.Laws
end

