-- ==== Sys2Proof/Laws/Packets.lean ====
section
/-! SUPPORT. What carrying out an opcode's row comes to: for any waiting list, when its packet is ready, and what the checks of a
packet that has just arrived come to (03, Table 3-10). -/

namespace Sys2Proof.Laws

open Sys2Proof.Machine Sys2Proof.Safety

/-- Whatever checking the packets of a port and carrying one out keep, a dispatcher's turn keeps. -/
theorem turn_keeps (Inv : State → Prop) (row : Pkt → Option OpDef) (p : Port)
    (hc : ∀ s, Inv s → Inv (checkAll row s p)) (hr : ∀ s k, Inv s → Inv (carryOut row p s k)) :
    ∀ n s, Inv s → Inv (turn row p n s)
  | 0, _, h => h
  | n + 1, s, h => by
    unfold turn
    dsimp only
    split
    · exact hc s h
    · exact turn_keeps Inv row p hc hr n _ (hr _ _ (hc s h))

/-- Everything a packet row can do: a turn of the dispatcher, when a packet of the row has arrived. -/
theorem onPort_cases (o : OpDef) (p : Port) (s : State) : ∃ t, onPort o p s = .next t ∧
    (t = s ∨ present s p (ofRow o) = true ∧ t = turn (rowsWith rowOf o) p (arrivals s p) s) := by
  refine ⟨_, rfl, ?_⟩
  unfold runRow
  split
  · exact .inr ⟨‹_›, rfl⟩
  · exact .inl rfl

/-- A packet whose checks are over is not checked again. -/
theorem checkPkt_settled (row : Pkt → Option OpDef) (s : State) (k : Pkt) (h : k.fate ≠ .arrived) : checkPkt row s k = s := by
  unfold checkPkt
  rw [if_pos h]

/-- A change for every item of a list leaves the state when none of them changes it. -/
theorem forAll_same {α : Type} (s : State) (f : State → α → State) : ∀ l : List α, (∀ x ∈ l, f s x = s) → forAll s l f = s
  | [], _ => rfl
  | x :: l, h => by
    show forAll (f s x) l f = s
    rw [h x (by simp)]
    exact forAll_same s f l (fun y hy => h y (by simp [hy]))

/-- Where every packet of a port has been accepted and none is behind them, its checks have nothing to do. -/
theorem checkAll_settled (row : Pkt → Option OpDef) (s : State) (p : Port) (h : ∀ k ∈ waiting s p, k.fate = .accepted)
    (hi : (match p with | .host => s.hpt.inbound | .mgt i => (mgt s i).inbound) = []) : checkAll row s p = s := by
  have hc : forAll s (waiting s p) (checkPkt row) = s :=
    forAll_same s _ _ (fun k hk => checkPkt_settled row s k (by simp [h k hk]))
  have hf : flush s p = s := forAll_same s _ _ (fun k hk => by simp [flushOne, h k hk])
  unfold checkAll
  rw [hc]
  unfold afterPkt
  rw [hf]
  cases p with
  | host => simp only at hi; simp [intake, hi]
  | mgt i => simp only at hi; simp [mgtIntake, hi]

/-- The packet that R123 chooses has been accepted. -/
theorem firstBest_accepted : ∀ (l : List Pkt) (k : Pkt), firstBest l = some k → k.fate = .accepted ∧ k ∈ l
  | [], k, h => by simp [firstBest] at h
  | q :: r, k, h => by
    unfold firstBest at h
    split at h
    · split at h
      · cases h
        exact ⟨‹_›, by simp⟩
      · simp at h
    · rename_i b hb
      have ih := firstBest_accepted r b hb
      split at h
      · rename_i hc
        cases h
        simp only [Bool.and_eq_true, decide_eq_true_eq] at hc
        exact ⟨hc.1, by simp⟩
      · cases h
        exact ⟨ih.1, by simp [ih.2]⟩

@[simp] theorem waiting_setWaiting (s : State) (p : Port) (l : List Pkt) : waiting (setWaiting s p l) p = l := by
  cases p with
  | host => rfl
  | mgt i => cases i <;> rfl

@[simp] theorem setWaiting_twice (s : State) (p : Port) (l m : List Pkt) :
    setWaiting (setWaiting s p l) p m = setWaiting s p m := by
  cases p with
  | host => rfl
  | mgt i => cases i <;> rfl

/-- An accepted packet that waits alone leaves an empty list. -/
theorem leave_alone {s : State} {p : Port} {k : Pkt} (h : k.port = p) :
    leave (setWaiting s p [{ k with fate := .accepted }]) k = setWaiting s p [] := by
  subst h
  simp [leave]

/-- After the last packet there is nothing left to check or to answer. -/
theorem afterPkt_empty {s : State} {p : Port} (hw : waiting s p = [])
    (hi : (match p with | .host => s.hpt.inbound | .mgt i => (mgt s i).inbound) = []) : afterPkt s p = s := by
  cases p with
  | host => simp only at hi; simp [afterPkt, flush, hw, forAll, intake, hi]
  | mgt i => simp only at hi; simp [afterPkt, flush, hw, forAll, mgtIntake, hi]

/-- A row's turn with its packet alone, as one check and one execution. -/
theorem onPort_alone {s : State} {p : Port} {k : Pkt} (h : Alone s p k) (o : OpDef) (ho : ofRow o k = true) :
    onPort o p s = .next (turn (rowsWith rowOf o) p 1 s) := by
  have hp : present s p (ofRow o) = true := by simp [present, h.only, h.fate, ho]
  have ha : arrivals s p = 1 := by
    have hf := h.free
    unfold arrivals
    rw [h.only]
    cases p with
    | host => simp only at hf; simp [hf]
    | mgt i => simp only at hf; simp [hf]
  unfold onPort runRow
  rw [hp, ha]
  rfl

/-- The check of a packet that waits alone and passes every step: it is accepted. -/
theorem checkAll_accepts {row : Pkt → Option OpDef} {s : State} {p : Port} {k : Pkt} {o : OpDef} (h : Alone s p k)
    (hr : row k = some o) (hg : gate s o k = none) (hn : ∀ st step idx, o.run s k ≠ .refuse st step idx)
    (hm : ∀ st step idx t, o.run s k ≠ .refuseIn st step idx t) :
    checkAll row s p = setWaiting s p [{ k with fate := .accepted }] := by
  have hs : settle s k .accepted = setWaiting s p [{ k with fate := .accepted }] := by
    unfold settle
    rw [h.port, h.only]
    simp
  have hk : checkPkt row s k = setWaiting s p [{ k with fate := .accepted }] := by
    unfold checkPkt
    rw [if_neg (by simp [h.fate]), hr]
    dsimp only
    rw [hg]
    dsimp only
    split
    · exact absurd ‹_› (hn _ _ _)
    · exact absurd ‹_› (hm _ _ _ _)
    · exact hs
  have hfree : (match p with
      | .host => (setWaiting s p [{ k with fate := .accepted }]).hpt.inbound
      | .mgt i => (mgt (setWaiting s p [{ k with fate := .accepted }]) i).inbound) = [] := by
    have hf := h.free
    cases p with
    | host => exact hf
    | mgt i => cases i <;> exact hf
  unfold checkAll
  rw [h.only]
  show afterPkt (checkPkt row s k) p = _
  rw [hk]
  have hfl : flush (setWaiting s p [{ k with fate := .accepted }]) p = setWaiting s p [{ k with fate := .accepted }] := by
    unfold flush
    rw [waiting_setWaiting]
    rfl
  unfold afterPkt
  rw [hfl]
  cases p with
  | host => simp only at hfree; simp [intake, hfree]
  | mgt i => simp only at hfree; simp [mgtIntake, hfree]

/-- A ready packet that its row does not refuse is accepted, and gets the row's verdict. -/
theorem onPort_ready {s : State} {p : Port} {c op n : Nat} {k : Pkt} (h : Ready s p c op n k) (o : OpDef) (ho : ofRow o k = true)
    (hg : gate s o k = none) (hn : ∀ st step idx, o.run s k ≠ .refuse st step idx)
    (hm : ∀ st step idx t, o.run s k ≠ .refuseIn st step idx t) :
    onPort o p s = .next (afterPkt (applyVerdict (setWaiting s p [{ k with fate := .accepted }]) k
      (o.run (setWaiting s p [{ k with fate := .accepted }]) k)) p) := by
  have hf : ({ k with fate := .arrived } : Pkt) = k := by
    have := h.alone.fate
    cases k
    simp_all
  have hr : rowsWith rowOf o k = some o := by simp [rowsWith, ho]
  rw [onPort_alone h.alone o ho]
  unfold turn
  rw [checkAll_accepts h.alone hr hg hn hm]
  dsimp only
  rw [waiting_setWaiting]
  simp only [firstBest, if_true, turn, carryOut, hf, hr]

/-- An accepted packet's answer. -/
theorem afterPkt_answer {s t : State} {k : Pkt} {p : Port} {st : Byte} {data : List Word} :
    afterPkt (applyVerdict s k (.answer st data t)) p = answered p k st data (leave t k) := rfl

/-- An accepted packet whose reply waits for its work. -/
theorem afterPkt_later {s t : State} {k : Pkt} {p : Port} {w : DefKind} :
    afterPkt (applyVerdict s k (.later w t)) p = deferred p k w (leave t k) := rfl

end Sys2Proof.Laws
end

