-- ==== Sys2Proof/WellFormed.lean ====
section
/-! DEFINITION. Operands that a sender can form. Unit numbers are bounded by their types; what is left is checked here. Nothing
in the machine depends on it: a command that breaks a check runs all the same. -/

namespace Sys2Proof

/-- A transaction carries a write's bytes or none, spans at least one byte, and names at most two bad symbols (R444). -/
def Access.wf (a : Access) : Bool :=
  0 < a.len && a.flaws.length ≤ 2 && (match a.kind with | .read => a.data.isEmpty | .write => a.data.length == a.len)

/-- The objects of a context lie in its namespace, and no identifier is declared twice (11, Table 11-6). -/
def CtxDecl.wf (d : CtxDecl) : Bool :=
  d.objs.all (fun o => o.id < d.nsSize && o.value ≤ o.limit) && (d.objs.map (·.id)).Nodup

/-- Sixteen words a descriptor (04 R163). -/
def CmdDecl.wf (d : CmdDecl) : Bool := d.descs.all (fun e => e.words.length == 16)

/-- The regions a relay move copies hold at most 64 MiB a die (10 R391). -/
def Placement.wf (p : Placement) : Bool :=
  (List.finRange 12).all (fun n => ((p.regions.filter (fun r => r.die == n)).map (·.len)).sum ≤ 67108864)

/-- The counts of Table 2-2, contexts and commands declared once, ports' settings whole. -/
def TtContents.wf (c : TtContents) : Bool :=
  c.contexts.all CtxDecl.wf && (c.contexts.map (·.id)).Nodup && c.cmds.all CmdDecl.wf && (c.cmds.map (·.num)).Nodup &&
    c.relay.length == 12 && c.loss.length == 12 && c.lean.length == 79 && c.relay.all Placement.wf &&
    (c.orpA.length == 4 || c.orpA.isEmpty) && (c.orpB.length == 4 || c.orpB.isEmpty)

/-- The checks of a command's operands. -/
def Instr.wf : Instr → Bool
  | .htPut len bytes => bytes.length ≤ 4 * len
  | .htGet len clocked => clocked ≤ len
  | .htReget len clocked => clocked ≤ len
  | .htClr bytes => bytes.length ≤ 4
  | .ttVerifyEnd c _ => c.wf
  | .fabricAccess a => a.wf
  | .patrolScrub _ _ flaws => flaws.length ≤ 2          -- R444 speaks of one and of two symbols
  | .registerWrite _ addr _ => addr.toNat % 4 = 0       -- R6
  | .fwlRegionWrite _ _ off _ => off.val % 4 = 0
  | .urgentCheckRequest _ req _ _ => req.length = 8     -- Table 8-5
  | .islandStateMessage _ msg => msg.length = 5         -- Table 13-2
  | .pciePostedWrite _ _ data => !data.isEmpty
  | .pcieRead _ _ len _ => 0 < len
  | .sensorDataReceive _ data => !data.isEmpty
  | _ => true

end Sys2Proof
end

