-- ==== Sys2Proof/Tests/Slice0.lean ====
section
/-! SUPPORT. Named tests: the checks of WellFormed refuse an ill-formed operand each, values worked out by hand from the spec, and
for the statements a state and operands that meet their hypotheses. -/

namespace Sys2Proof.Tests

set_option Elab.async false

open Sys2Proof.Machine Sys2Proof.Safety

/-! Each check of an operand refuses an ill-formed one. -/

theorem test_wf_put : (Instr.htPut 5 (List.replicate 21 0)).wf = false := by decide
theorem test_wf_get : (Instr.htGet 4 5).wf = false := by decide
theorem test_wf_reget : (Instr.htReget 4 5).wf = false := by decide
theorem test_wf_clr : (Instr.htClr [0, 0, 0, 0, 0]).wf = false := by decide
theorem test_wf_access_read :
    (Instr.fabricAccess { kind := .read, livery := 1, addr := 0, len := 4, data := [0], src := .iod, flaws := [] }).wf = false := by decide
theorem test_wf_access_empty :
    (Instr.fabricAccess { kind := .read, livery := 1, addr := 0, len := 0, data := [], src := .iod, flaws := [] }).wf = false := by decide
theorem test_wf_register : (Instr.registerWrite 1 2 0).wf = false := by decide
theorem test_wf_region : (Instr.fwlRegionWrite 0x0A (.iod 0) 0x102 0).wf = false := by decide
theorem test_wf_urgent : (Instr.urgentCheckRequest .sia [0] .clean 0).wf = false := by decide
theorem test_wf_state_message : (Instr.islandStateMessage .sia [0]).wf = false := by decide
theorem test_wf_pcie_write : (Instr.pciePostedWrite 0 0 []).wf = false := by decide
theorem test_wf_pcie_read : (Instr.pcieRead 0 0 0).wf = false := by decide
theorem test_wf_sensor : (Instr.sensorDataReceive 0 []).wf = false := by decide

/-! A running device. -/

/-- A packet that has passed steps 1-4: port, class, opcode, context, parameter words. -/
def pk (p : Port) (cls op ctx : Nat) (pars : List Word) : Pkt :=
  { port := p, words := [toW (at_ pars.length 16 + at_ op 8 + cls), toW (at_ ctx 16), 0, 0] ++ pars ++ [0] }

/-- A host packet. -/
def hk (cls op ctx : Nat) (pars : List Word) : Pkt := pk .host cls op ctx pars

def upDie : Die := { inReset := false, inService := true, spup := true, scup := true, pcup := true, mct := { st := 2 } }

def upIsl : Island := { st := 2, other := 2, inReset := false, boots := true, linkUp := true, recok := true }

def upEdge : RingEdge :=
  { inReset := false, bypass := 0, goal := false, linkup := true, txready := true, rxlock := true }

/-- Every unit in service in stage 100, nothing waiting, no timetable. -/
def up : State :=
  { hpt := { ready := true, epoch := 1 }, stg := { stage := 100, sync := true }, qmg := { ready := true }, syn := { ready := true }
    kpm := { ready := true }, mpl := { st := 1 }, fus := { ready := true }, dies := (List.range 12).map (fun n => (n, upDie))
    sia := upIsl, sib := upIsl, edgeA := upEdge, edgeB := upEdge, mgtA := { up := true }, mgtB := { up := true }
    clk := { xready := true }
    iod := { inReset := false, running := true, ready := true, porst := true, straps := 7, pceUp := true } }

/-- A state in which one packet waits at its port. -/
def got (s : State) (k : Pkt) : State := setWaiting s k.port [k]

/-- What `Ready` asks, for a packet that waits alone. -/
def readyB (s : State) (c o n : Nat) (k : Pkt) : Bool :=
  k.fate == .arrived && (match k.port with | .host => s.hpt.inbound | .mgt i => (mgt s i).inbound).isEmpty &&
  pktCls k == c && pktOp k == o && pktLen k == n && k.words.length == n + 5 && (badHeader k).isNone && ctxExists s (pktCtx k) &&
  (!deviceWide c || pktCtx k == 0) && (k.port == .host || (mgtOp c o && pktCtx k == 0))

theorem waiting_got (s : State) (k : Pkt) (p : Port) (h : k.port = p) : waiting (got s k) p = [k] := by
  subst h
  unfold got
  cases h : k.port with
  | host => rfl
  | mgt i => cases i <;> rfl

theorem ready_got {s : State} {p : Port} {c o n : Nat} {k : Pkt} (h : readyB s c o n k = true) (hp : k.port = p) :
    Ready (got s k) p c o n k := by
  have hw := waiting_got s k p hp
  subst hp
  simp only [readyB, Bool.and_eq_true, beq_iff_eq, Bool.or_eq_true, Bool.not_eq_true', List.isEmpty_iff, Option.isNone_iff_eq_none] at h
  obtain ⟨⟨⟨⟨⟨⟨⟨⟨⟨hf, hi⟩, hc⟩, ho⟩, hl⟩, hz⟩, hh⟩, hx⟩, hd⟩, hm⟩ := h
  refine ⟨⟨hw, rfl, hf, ?_⟩, hc, ho, hl, hz, hh, ?_, ?_, ?_⟩
  · revert hi
    unfold got
    cases k.port with
    | host => exact id
    | mgt i => cases i <;> exact id
  · revert hx
    unfold got
    cases k.port with
    | host => exact id
    | mgt i => cases i <;> exact id
  · intro h
    rcases hd with hd | hd
    · simp [h] at hd
    · exact hd
  · intro h
    rcases hm with hm | hm
    · exact absurd hm h
    · exact hm

/-! A timetable: context 1 of two queues, the first served by engine 0. -/

def ctx1 : CtxDecl := {
  id := 1, livery := 0x10, role := .planning, qbase := 0, qcount := 2, synBase := 0, nsSize := 16, objs := [], kvQuota := 100
  cvus := [3] }

def place1 : Placement := { queues := [{ queue := 0, eng := 0, base := 0x100000, logsize := 4 }], idle := [], regions := [] }

def cmd1 : CmdDecl := {
  num := 5, ctx := 1, descs := [{ words := List.replicate 16 0, reloc := false }], worstUs := 10, output := true, consumes := [] }

def body1 : TtContents := {
  contexts := [ctx1], cmds := [cmd1], relay := List.replicate 12 place1, loss := List.replicate 12 place1, lean := [], carry := []
  perStack := [{ die := 0, image := 0x1000, stageBase := 0x200000, stageSize := 0x10000, qtable := 0x80000, heapBase := 2, heapSize := 8 }]
  landing := [{ stream := 0, die := 0, base := 0x4000, size := 4096 }], regions := [], planning := 1, fusion := 1, fusSync := (1, 2)
  writers := [(0, 1)], readers := [], rxRing := none, orpA := [], orpB := [] }

def figs1 : TtFigures := { ident := 7, len := 0x1000, d := 1000, wmin := 1000, lmin := 100, rmax := 10, dlean := 1000, wlean := 1000 }

def tt1 : Timetable := { figs := figs1, body := body1, image := [(0, 0x1000)], sha := [] }

/-- A firewall that lets every livery through. -/
def openFw : Firewall := { regions := [(0, { base := 0, size := 0x400000, en := true, w := true, r := true, allow := BitVec.allOnes 256 })] }

/-- The device with the timetable active, its stack's firewall open. -/
def on : State :=
  { up with
    tt := { active := some tt1, ever := true }
    qmg := { up.qmg with
      ctxs := [(1, { exists_ := true, livery := 0x10, qbase := 0, qcount := 2 })]
      queues := [(0, { st := 1, ctx := 1, logsize := 4, eng := 0, base := 0x100000 })] }
    engines := [(0, { st := 1, bound := true, bctx := 1, bqueue := 0, served := some 1 })]
    syn := { up.syn with bases := [(1, (0, 16))], objs := [(2, { st := 1, limit := 10, value := 4, owner := 0 })] }
    fws := [(46, openFw)] }

/-! A signature: with the hash z for both of its parts, it verifies under the point R - G, where z is the x of R. -/

/-- A header of 28 bytes: magic, type and device, version, length 160. -/
def message1 (t : Nat) : List Byte := wordsBytes [0x57465848, toW (0x01420000 + t), 1, 0, 160, 0, 0]
def sig1 (z : Nat) : List Byte := natBe 66 z ++ natBe 66 z

/-- The hash of message `t`, and the point. -/
def hash1 (t : Nat) : Nat :=
  if t = 1 then
    0x10e719e96b3035a83dfe87f933ba28228e30ebe47d1c17ab83eef07861f027342bbc8f65db18bbe9d1617119d59529f117058e69792a2cf1bce191526bea4fcb
  else
    0xd2937f39defb7ef5f4d81d9719fb6814ebe47fa9e08fd48e4dd5ce7acba5fcf6add79ec932d0dcc1c8a644461d3579b17c9939108d67f58e0af8999931311893
def pointX (t : Nat) : Nat :=
  if t = 1 then
    0x123aed348dc6acd4f6949fdbbed26a3daa30c617ef0ee2668c0f11cb4af4aa1278f66adc89ecde1866a897bd8daa205485165fd68ca34fb75741dbc8d13f0ddfa24
  else
    0x40b7e064b51b15c5c8967cddac48c4ef0c3c770a674cdbee299acb8fe039d480a08b5f08ca8dde97c864295e3273e1bad910f978d9777fd1bcf3ac8479ae2904cc
def pointY (t : Nat) : Nat :=
  if t = 1 then
    0xf9fa5f5ee72473150172ca36355b1173007ebf71fffd4f4c7c6cf154bcc02099cd564f2245138f405b10ffbf86b2678c6c13364c9a5040df9cab967f71ab76e615
  else
    0x129eec1c744930f99e75fadcfdefa0563fda4af17eea69a552bfe408cd93e5ac9c82fee26197cd29d994b7781a01efe300587a4b05430cc323428bb6675dcf0b16d

/-- A flash with the serial number of the token, the point as both vendor keys, and the image of target 0 or 2 in the slot that does not run. -/
def flash1 (t : Nat) : Mem :=
  memWr (memWr (memWr (memWr { cells := [], fill := .byte 0xFF } 8 (natLe 8 0x101420002)) 0x20 (natBe 66 (pointX t) ++ natBe 66 (pointY t))) 0xA4
    (natBe 66 (pointX t) ++ natBe 66 (pointY t))) (if t = 1 then islSlot true else iodSlot true) (message1 t ++ sig1 (hash1 t))

/-- The root key under which the record of `recorded` verifies: its signature has the base point for R and s = 1. -/
def root1 : Nat × Nat :=
  (0x1e6a41314ada14ba539c4d0b7d0ddcbfeebcefe34484773945d5863ff2978d41d11e3d8cf4f3be05528ddd619563802bf0fb98ae4c373dffccc582ef44416e8d8dc,
   0x5fb85d03bcb9519bbcc0e32626dcbfe91421e94be840f71349d90f069ddc9f56bc8744f60a2baf9a16f848c3bcf004f9ff0431a698c3cfa8144adf79e33f98bcfa)

/-- The per-unit record of 8,896 bytes with the keys of `flash1`, and an island's image in the first slot. -/
def flashFull : Mem :=
  memWr (memWr (memWr (memWr (flash1 1) 0 [0x48, 0x58, 0x55, 0x44, 1, 0, 0x2C, 0x02]) 0x10 (0x42 :: 1 :: List.replicate 14 0))
    8764 (natBe 66 ecGx ++ natBe 66 1)) (islSlot false) (message1 1 ++ sig1 (hash1 1))

def recorded : Island := { rom := root1, flash := flashFull }

theorem test_record : recordOk recorded.rom recorded = true := by decide +kernel
theorem test_island_slot : slotOk recorded 0 (islSlot false) = true := by decide +kernel

/-- A held write of one byte. -/
def held1 (a : Nat) : HeldWrite := { addr := a, data := [1], livery := 0x10 }

/-! For each clause of a statement, a state and operands that meet its hypotheses. -/

theorem met_StepRunsFront : ({ up with pending := [.htStat] } : State).pending = [Instr.htStat] := rfl

theorem met_StepTakesOneCommand : up.pending = [] ∧ step up = .next up := ⟨rfl, rfl⟩

theorem met_MemoriesStayCanonical : MemoriesCanonical up := by
  refine ⟨?_, ?_, ?_, ?_, ?_, ?_, ?_⟩
  · decide
  · decide
  · intro i; cases i <;> decide
  · intro i; cases i <;> decide
  · decide
  · decide
  · decide

/-- SIA alone in service, with the IOD image of the second slot in its flash. -/
def loadable : State :=
  { up with
    sia := { upIsl with flash := flash1 2 }, sib := { upIsl with st := 1 }
    iod := { porst := true, fw := { slotB := true, recB := true } } }

theorem test_iod_slot : iodSlotOk loadable .sia true = true := by decide +kernel

theorem met_PadsAndIodCore : State.reset.iod.porst = false ∧
    (loadIsl loadable = some .sia ∧ loadable.iod.inReset = true ∧ loadable.iod.porst = true ∧
      loadable.iod.sudden = false ∧ loadable.iod.thermal = false ∧ iodSlotOk loadable .sia true = true ∧ loadable.iod.fw.recB = true) ∧
    up.iod.inReset = false ∧ (inSvc up.sia || inSvc up.sib) = true :=
  ⟨rfl, ⟨rfl, rfl, rfl, rfl, rfl, test_iod_slot, rfl⟩, rfl, rfl⟩

theorem met_IslandsStartAndStop :
    (let s := { up with sia := recorded };
      (isl s .sia).inReset = true ∧ recordOk (isl s .sia).rom (isl s .sia) = true ∧
      slotOk (isl s .sia) 0 (islSlot (isl s .sia).fw.recB) = true) ∧
    (isl up .sib).inReset = false ∧
    (let s := { up with sia := { up.sia with st := 1 } };
      (isl s .sia).inReset = false ∧ (isl s .sia).boots = true ∧ (isl s .sia).st = 1) :=
  ⟨⟨rfl, test_record, test_island_slot⟩, rfl, rfl, rfl, rfl⟩

/-- The device before its port opens; `cause` 0 after power-on. -/
def early (cause : Nat) : State :=
  { up with iod := { up.iod with ready := false, cause := cause }, hpt := {} }

def image1 : Mem := memWr {} 0x1000 ([0x48, 0x58, 0x54, 0x54, 2, 0, 1, 0, 7, 0, 0, 0, 0, 0, 0, 0] ++ List.replicate 48 0)

def saved : State :=
  { setDie (early 1) 0 { upDie with hbm := image1 } with
    sia := { upIsl with ttSaved := some tt1, ttIdent := 7, rep := { stage := 99 } } }

theorem met_DiesStart :
    (let s := setDie (early 0) 1 {};
      s.iod.inReset = false ∧ (die s 1).inReset = true ∧ dieHeld s 1 = false) ∧
    (let s := setDie (early 0) 1 { upDie with mct := { st := 1 } };
      (die s 1).inReset = false ∧ (mct s 1).st = 1) ∧
    ((die up 1).inReset = false ∧ (die up (succDie 1)).inReset = false ∧ up.iod.inReset = false ∧ (die up 1).scfailed = false) ∧
    (∀ c ∈ [early 0, up], let s := setDie c 1 { upDie with inService := false };
      (die s 1).inReset = false ∧ (die s 1).inService = false ∧ (die s 1).readyRe = false ∧ (die s 1).missed = false ∧
      (die s 1).excluded = false ∧ s.iod.inReset = false ∧ (mct s 1).st = 2 ∧ (die s 1).spup = true ∧
      linkSettled s (.coupling 1) = true ∧ linkSettled s (.coupling (predDie 1)) = true ∧ s.iod.ready = c.iod.ready) ∧
    (early 0).iod.ready = false ∧ (early 0).iod.cause = 0 ∧ up.iod.ready = true := by decide +kernel

theorem met_PortOpens :
    (∀ n ∈ dieList, ((die (early 0) n).inService || (die (early 0) n).missed || (die (early 0) n).retired || dieHeld (early 0) n) = true) ∧
    ((early 1).iod.cause ≠ 0 ∧ loadIsl (early 1) = some .sia ∧ (early 1).sia.ttSaved = none ∧ (early 1).sib.ttSaved = none) ∧
    (loadIsl saved = some .sia ∧ saved.sia.ttSaved ≠ none ∧ saved.iod.ready = false ∧ saved.iod.cause ≠ 0 ∧
      reactivated { saved with stg := stgFrom (isl saved .sia) } (isl saved .sia) = some tt1) := by decide +kernel

def replies (l : List (List Word)) : State := { up with hpt := { up.hpt with fifo := l, lastRead := [[1, 2]] } }

theorem met_HostTransactions :
    ((List.replicate 20 (0 : Byte)).length = 4 * 5 ∧ up.hpt.ready = true ∧ 5 ≤ inFree up.hpt) ∧ State.reset.hpt.ready = false ∧
    ((0x00 : Byte) ≠ ~~~codePut) ∧ (txRange codePut = some (5, 16384) ∧ 16384 < leNat [(0x01 : Byte), 0x40]) ∧
    (fitting 4 (replies [[1, 2, 3], [4]]).hpt.fifo = [[1, 2, 3], [4]] ∧ fitting 4 (replies [[1, 2, 3]]).hpt.fifo = [[1, 2, 3]]) ∧
    (replies []).hpt.lastRead = [[1, 2]] := by decide

/-- A packet as it arrives, with its check word. -/
def raw (cls op ctx alive : Nat) (pars : List Word) : Pkt :=
  { port := .host, words := sealW ([toW (at_ pars.length 16 + at_ op 8 + cls), toW (at_ ctx 16), toW alive, 0] ++ pars) }

theorem met_HostPacketChecks :
    (let bs := List.replicate 20 (0 : Byte);
      bs.length % 4 = 0 ∧ (bytesWords bs).length = 5 ∧ sealOk (bytesWords bs) = false) ∧
    (∀ a ∈ [0, 1], let p := raw 0 0 0 a [];
      p.fate = .arrived ∧ 5 ≤ p.words.length ∧ sealOk p.words = true ∧ pktLen p + 5 = p.words.length ∧ isAliveSync p = false ∧
      pktAlive p = a ∧ (bankGet 0 up.hpt.alive (pktCtx p)).toNat = 0) := by decide +kernel

theorem met_HostPacketChecks_alone :
    let k := (hk 0 0 0 []);
    Alone (got up k) .host k ∧ (rowOf k).isSome = true ∧ gate (got up k) rowSysIdentity k = none :=
  ⟨⟨rfl, rfl, rfl, rfl⟩, by decide, by decide⟩

theorem met_HostPacketChecks_refused :
    let k := (hk 0 0 0 [1]);
    Alone (got up k) .host k ∧ gate (got up k) rowSysIdentity k = some (stBadLength, 6, 0) :=
  ⟨⟨rfl, rfl, rfl, rfl⟩, by decide⟩

theorem met_SystemOpcodes :
    Ready (got up (hk 0 0 0 [])) .host 0 0 0 (hk 0 0 0 []) ∧
    Ready (got up (pk (.mgt .sib) 0 0 0 [])) (.mgt .sib) 0 0 0 (pk (.mgt .sib) 0 0 0 []) ∧
    Ready (got up (hk 0 1 0 [2, 7, 8])) .host 0 1 3 (hk 0 1 0 [2, 7, 8]) ∧ parN (hk 0 1 0 [2, 7, 8]) 0 + 1 = 3 ∧
    Ready (got up (hk 0 1 0 [0])) .host 0 1 1 (hk 0 1 0 [0]) ∧
    Ready (got up (hk 0 2 0 [0x105])) .host 0 2 1 (hk 0 2 0 [0x105]) ∧
    Ready (got up (pk (.mgt .sia) 0 2 0 [5])) (.mgt .sia) 0 2 1 (pk (.mgt .sia) 0 2 0 [5]) ∧
    Ready (got up (hk 0 3 0 [0xFB])) .host 0 3 1 (hk 0 3 0 [0xFB]) ∧
    Alone (got up (hk 0 9 0 [])) .host (hk 0 9 0 []) ∧ definedOp 0 9 = false :=
  ⟨ready_got (by decide) rfl, ready_got (by decide) rfl, ready_got (by decide) rfl, by decide, ready_got (by decide) rfl,
    ready_got (by decide) rfl, ready_got (by decide) rfl, ready_got (by decide) rfl, ⟨rfl, rfl, rfl, rfl⟩, by decide⟩

/-- A timetable is being staged. -/
def staged (st : TtState) (ever : Bool) : State :=
  { up with tt := { st := st, len := 0x1000, ident := 7, staged := if st = .verified then some tt1 else none, ever := ever } }

theorem met_TimetableStaging :
    Ready (got up (hk 1 2 0 [7, 0, 0x1000])) .host 1 2 3 (hk 1 2 0 [7, 0, 0x1000]) ∧ loadPlace up = some (0, 0, 2 ^ 32) ∧
    Ready (got (staged .loading false) (hk 1 4 0 [])) .host 1 4 0 (hk 1 4 0 []) ∧
    (loadPlace (staged .verifying false) = some (0, 0, 2 ^ 32) ∧
      (hbmGet (staged .verifying false) 0 .spine 0x01 0 16).1 = some (List.replicate 16 0)) ∧
    Ready (got (staged .verified true) (hk 1 5 0 [102, 0])) .host 1 5 2 (hk 1 5 0 [102, 0]) ∧
    Ready (got (staged .verified false) (hk 1 5 0 [2, 0])) .host 1 5 2 (hk 1 5 0 [2, 0]) ∧
    ((staged .verified false).stg.sync = true ∧ (staged .verified true).tt.ever = true ∧ (staged .verified true).stg.stage = 100) ∧
    Ready (got (staged .verified true) (hk 1 6 0 [])) .host 1 6 0 (hk 1 6 0 []) ∧
    Ready (got up (hk 1 7 0 [])) .host 1 7 0 (hk 1 7 0 []) :=
  ⟨ready_got (by decide) rfl, by decide, ready_got (by decide) rfl, by decide +kernel, ready_got (by decide) rfl,
    ready_got (by decide) rfl, by decide, ready_got (by decide) rfl, ready_got (by decide) rfl⟩

theorem met_StageOpcodes :
    Ready (got up (hk 1 0 0 [])) .host 1 0 0 (hk 1 0 0 []) ∧
    Ready (got up (hk 1 1 0 [0x000A0632])) .host 1 1 1 (hk 1 1 0 [0x000A0632]) ∧
    timingAdmitted (got up (hk 1 1 0 [0x000A0632])) (par (hk 1 1 0 [0x000A0632]) 0 &&& 0x003FFFFF) = true ∧
    Ready (got (staged .loading false) (hk 1 3 0 [4, 4, 9])) .host 1 3 3 (hk 1 3 0 [4, 4, 9]) ∧
    (hbmPut (staged .loading false) 0 0x01 4 [9, 0, 0, 0]).1 = none ∧
    Ready (got up (hk 1 8 0 [0, 102, 0])) .host 1 8 3 (hk 1 8 0 [0, 102, 0]) ∧ twoLost up = false ∧
    (let s := { on with stg := { on.stg with pendProf := some (true, 101) } };
      s.stg.pendProf = some (true, 101) ∧ 101 ≤ nextStage s) :=
  ⟨ready_got (by decide) rfl, ready_got (by decide) rfl, by decide, ready_got (by decide) rfl, by decide +kernel,
    ready_got (by decide) rfl, by decide, by decide⟩

theorem met_AdmittedTimingInRange : timingAdmitted up 0x00050214 = true ∧ timingAdmitted up 0x003214C8 = true := by decide

theorem met_StageBoundary :
    tickDue { up with stg := { up.stg with sync := false } } 25000000 = true ∧
    (let s := { on with tt := { on.tt with st := .armed, staged := some tt1, target := 101 } };
      iodReady s = true ∧ switchDue s = true ∧ s.tt.staged = some tt1) ∧
    (edge up .a).inReset = false ∧ (isl up .sia).inReset = false ∧ up.stg.inlay = false ∧ up.iod.inReset = false := by
  decide +kernel

def reexec1 : Reexec := { work := (1, 0), left := [], members := [(1, 0)], eng := some 1, avoid := 0, otherDie := false }

def waybill1 : Waybill := {
  id := 1, ctx := 1, stage := 100, ident := 7, batch := 0, entries := [{ cmd := 5, queue := 0, arg := 0 }], prio := 0, forArmed := false
  st := .running, written := 1, completed := 1, discarded := 0, reexec := 0, bad := false }

/-- A waybill has run its one command, whose re-execution is under way. -/
def again : State := { on with dis := { reexec := [reexec1], waybills := [waybill1], nextId := 2 } }

theorem met_CutoffAndMoves :
    ((edge up .b).inReset = false ∧ (edge up .b).cutoff = false) ∧
    (let s := { on with qmg := { on.qmg with count := 40, moveRun := true, readmit := [(3, false)] } };
      s.tt.active.isSome = true ∧ s.qmg.interval ≤ s.qmg.count ∧ s.qmg.moveRun = true ∧ placement s = some place1 ∧
      (3, false) ∈ s.qmg.readmit) ∧
    (let s := { on with qmg := { on.qmg with moved := [(1, 64, [1, 2])] } };
      s.qmg.moved = [((1 : DieId).val, 64, [1, 2])] ∧ (mct s 1).flaws = []) ∧
    (again.dis.reexec = [reexec1] ∧ reexec1.eng = some 1 ∧ reexec1.left = [] ∧ againLeft again reexec1 = false ∧
      workOf again reexec1.work = some (waybill1, { cmd := 5, queue := 0, arg := 0 })) := by decide +kernel

def submit : Pkt := hk 2 0 1 [101, 0, 7, 0, 9, 1, 5, 0, 0, 0]

theorem met_WaybillOpcodes :
    Ready (got on submit) .host 2 0 10 submit ∧
    (6 + 4 * parN submit 5 = 10 ∧ par64 submit 2 = tt1.figs.ident ∧ (got on submit).stg.stage < par64 submit 0 ∧
      par64 submit 0 ≤ (got on submit).stg.stage + 2 ∧ ctxDecl tt1 (pktCtx submit) = some ctx1 ∧
      wbEntryBad (got on submit) tt1 false 1 2 0x10 submit 0 = none ∧
      descsFor tt1 [wbEntry submit 0] (wbEntry submit 0).queue ≤ ringSize (got on submit) tt1 false 0) ∧
    (again.dis.waybills.find? (fun w => w.id == 1 && w.st == .running) = some waybill1 ∧
      waybill1.written ≤ waybill1.completed + waybill1.discarded ∧ unwritten again waybill1 = false) ∧
    Ready (got again (hk 2 1 1 [100, 0, 0])) .host 2 1 3 (hk 2 1 1 [100, 0, 0]) ∧
    ((again.dis.waybills.filter (fun w => w.ctx.val = pktCtx (hk 2 1 1 [100, 0, 0]) && w.stage = par64 (hk 2 1 1 [100, 0, 0]) 0 &&
      w.batch = par (hk 2 1 1 [100, 0, 0]) 2)).getLast? = some waybill1) ∧
    Ready (got on (hk 2 2 1 [1, 1])) .host 2 2 2 (hk 2 2 1 [1, 1]) ∧ 1 + 1 ≤ (ctxRec on 1).qcount :=
  ⟨ready_got (by decide) rfl, by decide, by decide, ready_got (by decide) rfl, by decide, ready_got (by decide) rfl, by decide⟩

/-- Context 1 with its pre-emption pending or done. -/
def preState (pend pre : Bool) : State := modCtx on 1 (fun r => { r with ppend := pend, pre := pre })

/-- A re-binding of engine 0 to queue 1 waits for its milepost. -/
def rebind1 : Rebind := { eng := 0, src := 0, dst := 1, ctx := 1, hold := false, done := false, atTick := false }
def rebinding : State := { on with qmg := { on.qmg with rebinds := [rebind1] } }

def rebindPk : Pkt := hk 2 5 1 [1, 1]

theorem met_PreemptionAndRebinding :
    Ready (got on (hk 2 3 1 [])) .host 2 3 0 (hk 2 3 1 []) ∧ (ctxRec on 1).pre = false ∧
    ((ctxRec (preState true false) 1).ppend = true ∧
      ∀ g ∈ ctxEngines (preState true false) 1, atMilepost (eng (preState true false) g) = true ∧
        pendingRebind (preState true false) g = false) ∧
    Ready (got (preState false true) (hk 2 4 1 [])) .host 2 4 0 (hk 2 4 1 []) ∧
    ((ctxRec (preState false true) 1).pre = true ∧ (preState false true).qmg.rebinds = []) ∧
    Ready (got on rebindPk) .host 2 5 2 rebindPk ∧
    (fld (par rebindPk 0) 31 28 = 0 ∧ fld (par rebindPk 0) 26 23 = 0 ∧ fld (par rebindPk 0) 15 6 = 0 ∧ fld (par rebindPk 0) 22 16 = 0 ∧
      fld (par rebindPk 0) 5 0 = 1 ∧ servedCtx on 0 = some (pktCtx rebindPk) ∧ fld (par rebindPk 1) 31 16 = 0 ∧
      globalQueue on 1 1 = some 1 ∧ engInSvc on 0 = true ∧ leftOut on 0 = false ∧ on.qmg.rebinds = []) ∧
    (rebinding.qmg.rebinds.find? (fun r => r.eng == 0 && !r.done && !r.atTick) = some rebind1 ∧
      atMilepost (eng rebinding 0) = true ∧ (eng rebinding 0).st ≠ 4 ∧ inReexec rebinding 0 = false) :=
  ⟨ready_got (by decide) rfl, by decide, by decide +kernel, ready_got (by decide) rfl, by decide, ready_got (by decide) rfl,
    by decide +kernel, by decide⟩

/-- The queue context table stands in the stack with good copies of queue 0. -/
def tabled : State :=
  setDie on 0 { upDie with hbm := memWr {} 0x80000 (wordsBytes (queueWords (queue on 0))) }

theorem met_Doorbells :
    badBell (queue (syncQueue tabled 0) 0) 1 = false ∧ badBell (queue (syncQueue tabled 0) 0) 17 = true ∧ islandLivery 0x10 = false ∧
    ({ on with qmg := { on.qmg with mirrorNew := some 3 } } : State).qmg.mirrorNew = some 3 := by decide +kernel

/-- Object 2 of context 1 with a value, and a waiter or none. -/
def objState (v : Nat) (ws : List Waiter) : State :=
  { on with syn := { on.syn with objs := [(2, { st := 1, limit := 10, value := v, owner := 0, waiters := ws })] } }

theorem met_SynchronisationValues :
    Ready (got on (hk 3 0 1 [0x00F00002, 4, 10])) .host 3 0 3 (hk 3 0 1 [0x00F00002, 4, 10]) ∧
    pktObj on (hk 3 0 1 [0x00F00002, 4, 10]) 0xFF0E0000 = some 2 ∧
    Ready (got on (hk 3 0 1 [0x00010002, 1, 1])) .host 3 0 3 (hk 3 0 1 [0x00010002, 1, 1]) ∧
    (pktObj on (hk 3 0 1 [0x00010002, 1, 1]) 0xFF0E0000 = some 2 ∧ dieInSvc on 0 = true ∧ (obj on 2).waiters = []) ∧
    Ready (got on (hk 3 1 1 [2, 7])) .host 3 1 2 (hk 3 1 1 [2, 7]) ∧
    (isDecrement (hk 3 1 1 [2, 7]) = false ∧ pktObj on (hk 3 1 1 [2, 7]) 0x7FFF0000 = some 2 ∧ (obj on 2).st = 1) ∧
    Ready (got on (hk 3 3 1 [2, 14])) .host 3 3 2 (hk 3 3 1 [2, 14]) ∧ 2 + 14 ≤ synSize on 1 :=
  ⟨ready_got (by decide) rfl, by decide, ready_got (by decide) rfl, by decide, ready_got (by decide) rfl, by decide,
    ready_got (by decide) rfl, by decide⟩

theorem met_Decrements :
    Ready (got on (hk 3 1 1 [0x80000002, 5])) .host 3 1 2 (hk 3 1 1 [0x80000002, 5]) ∧
    isDecrement (hk 3 1 1 [0x80000002, 5]) = true ∧ pktObj on (hk 3 1 1 [0x80000002, 5]) 0x7FFF0000 = some 2 ∧
    (obj on 2).st = 1 ∧ (obj on 2).value = 4 :=
  ⟨ready_got (by decide) rfl, by decide, by decide, by decide, by decide⟩

def waitPk (n : Word) : Pkt := hk 3 2 1 [2, n, 50]

/-- Engine 0 has a signal of object `v` on its way. -/
def signalling (v : Nat) : State := modEng on 0 (fun e => { e with sigs := [(1, v)] })

theorem met_Waits :
    Ready (got on (waitPk 4)) .host 3 2 3 (waitPk 4) ∧ Ready (got on (waitPk 5)) .host 3 2 3 (waitPk 5) ∧
    (pktObj on (waitPk 4) 0xFFFF0000 = some 2 ∧ (obj on 2).limit = 10 ∧ (obj on 2).waiters = [] ∧ hostWaits on < 4096) ∧
    ((objState 4 [.host 0 5 50]).syn.objs = [(2, { st := 1, limit := 10, value := 4, owner := 0, waiters := [.host 0 5 50] })]) ∧
    ((eng (signalling 2) 0).sigs = [(1, 2)] ∧ physObj (signalling 2) 1 2 = some 2 ∧ (obj (signalling 2) 2).st = 1 ∧
      (obj (signalling 2) 2).waiters = []) ∧
    (physObj (signalling 3) 1 3 = some 3 ∧ (obj (signalling 3) 3).st ≠ 1) :=
  ⟨ready_got (by decide) rfl, ready_got (by decide) rfl, by decide, by decide, by decide, by decide⟩

/-- The spot of an access that is let through. -/
def atSpot : Admit → Option Spot
  | .spot p _ => some p
  | _ => none

/-- The state in which it is let through. -/
def inState (s : State) : Admit → State
  | .spot _ u => u
  | _ => s

def hbmSpot : Spot := { place := .hbm 0, tgt := .die 0 14, off := 0x100, size := 2 ^ 34 }

theorem met_FirewallRefuses :
    decodeRange 0x100 8 = some hbmSpot ∧ reachable (settleFor up (.engine 0) hbmSpot.tgt) hbmSpot (.engine 0) = true ∧
    fwAllows up hbmSpot.tgt 0x10 0x100 8 .read = false ∧
    (regionAllows { base := 1, size := 1, en := true, r := true, allow := BitVec.allOnes 256 } 0x10 4096 4096 .read = true ∧
      regionAllows { base := 1, size := 1, en := true, r := true, allow := BitVec.allOnes 256 } 0x10 4096 4097 .read = false ∧
      regionAllows { base := 1, size := 1, en := true, r := true, allow := BitVec.allOnes 256 } 0xFF 4096 1 .read = false) := by
  decide +kernel

/-- A write of four bytes waits in the controller of die 0. -/
def queued : State := modMct on 0 (fun m => { m with writes := [{ port := .spine, livery := 0x10, off := 0x100, data := [1, 2, 3, 4] }] })

theorem met_StackAccess :
    (let u := inState on (grants on 0x10 0x100 8 .read (.engine 0));
      atSpot (grants on 0x10 0x100 8 .read (.engine 0)) = some hbmSpot ∧ stuckBanks (mct u 0) 0x100 8 = [] ∧
      (mct u 0).writes = [] ∧ badIn (mct u 0) 0x100 8 = none) ∧
    (atSpot (grants on 0x10 0x100 4 .write .iod) = some hbmSpot ∧ (mct on 0).flaws = [] ∧ (mct on 0).compat = false ∧
      queuedBursts (mct on 0) + (burstsOf 0x100 4).length ≤ 2048) ∧
    ((mct queued 0).writes[0]? = some { port := .spine, livery := 0x10, off := 0x100, data := [1, 2, 3, 4] } ∧
      mayDrain (mct queued 0) 0 { port := .spine, livery := 0x10, off := 0x100, data := [1, 2, 3, 4] } = true) := by decide +kernel

def heldRead1 : HeldRead := { port := .spine, livery := 0x10, path := [.spine 0], off := 0x100, len := 2, data := [7, 8], bad := [], seq := 0 }
def holding : State := modMct up 0 (fun m => { m with reads := [heldRead1] })

theorem met_StackErrors :
    ((mct holding 0).reads[0]? = some heldRead1 ∧ readFree (mct holding 0) heldRead1 = true ∧ heldRead1.bad = []) ∧
    ueRule (modMct up 0 (fun m => { m with ueLimit := true })) 0 = true ∧
    ueRule (modMct up 0 (fun m => { m with ueAt := [100, 99, 98] })) 0 = true ∧
    (let s := modMct up 0 (fun m => { m with ce24 := List.replicate 4097 0 }); 4096 < histCount dayNs s.vtime (mct s 0).ce24) ∧
    dieInSvc up 0 = true ∧ (mct up 0).st = 2 ∧
    finding (flawsOf (addFlaws (mct up 0) 9 [1]) 9) = .ce ∧ finding (flawsOf (addFlaws (mct up 0) 9 [1, 30]) 9) = .ue := by
  decide +kernel

def owing (d : Nat) : State := modMct up 0 (fun m => { m with debt := [(bankNo 31 63, d)] })

theorem met_RefreshAndCommit :
    commitOk (modMct up 0 (fun m => { m with mapSh := 0x308, compatSh := true })) 0 = true ∧
    commitOk (modMct up 0 (fun m => { m with mapSh := 0x309 })) 0 = false ∧
    commitOk (modMct on 0 (fun m => { m with mapSh := 0x304 })) 0 = false ∧
    Ready (got up (hk 4 4 0 [1])) .host 4 4 1 (hk 4 4 0 [1]) ∧ (par (hk 4 4 0 [1]) 0 = toW (2 ^ (0 : DieId).val) ∧ (mct up 0).st = 2) ∧
    (∀ d ∈ [1, 7], 1 ≤ bankGet 0 (mct (owing d) 0).debt (bankNo 31 63) ∧ bankGet 0 (mct (owing d) 0).debt (bankNo 31 63) < 8 ∧
      bankQuiet (mct (owing d) 0) 31 63 = true) ∧ bankGet 0 (mct (owing 8) 0).debt (bankNo 31 63) = 8 :=
  ⟨by decide, by decide, by decide, ready_got (by decide) rfl, by decide, by decide, by decide⟩

def copy1 : MemCopy := { id := 0, src := 0x100, dst := 0x200, len := 8, livery := 0x10 }
def copying : State := { on with dis := { copies := [copy1], nextId := 1 } }

theorem met_MemoryOpcodes :
    Ready (got on (hk 4 0 1 [0x100, 0, 8])) .host 4 0 3 (hk 4 0 1 [0x100, 0, 8]) ∧
    atSpot (admitPkt on (hk 4 0 1 [0x100, 0, 8]) 0x100 8 .read) = some hbmSpot ∧
    Ready (got on (hk 4 1 1 [0x100, 0, 1, 5])) .host 4 1 4 (hk 4 1 1 [0x100, 0, 1, 5]) ∧
    atSpot (admitPkt on (hk 4 1 1 [0x100, 0, 1, 5]) 0x100 4 .write) = some hbmSpot ∧
    Ready (got on (hk 4 2 1 [0x100, 0, 8, 0, 5])) .host 4 2 5 (hk 4 2 1 [0x100, 0, 8, 0, 5]) ∧
    atSpot (admitPkt on (hk 4 2 1 [0x100, 0, 8, 0, 5]) 0x100 8 .write) = some hbmSpot ∧
    Ready (got on (hk 4 3 1 [0x100, 0, 0x200, 0, 8, 0])) .host 4 3 6 (hk 4 3 1 [0x100, 0, 0x200, 0, 8, 0]) ∧
    (anyOverlap 0x100 8 0x200 8 = false ∧ atSpot (admitPkt on (hk 4 3 1 [0x100, 0, 0x200, 0, 8, 0]) 0x200 8 .write) =
      some { hbmSpot with off := 0x200 }) ∧
    (copying.dis.copies.find? (fun c => c.id == 0) = some copy1 ∧ copyUp copying copy1 = none ∧ (mct copying 0).flaws = []) :=
  ⟨ready_got (by decide) rfl, by decide +kernel, ready_got (by decide) rfl, by decide +kernel, ready_got (by decide) rfl,
    by decide +kernel, ready_got (by decide) rfl, by decide +kernel, by decide +kernel⟩

def pieceAcc (k : Kind) (n : Nat) (a : BitVec 48 := 0xF204000010) : Access :=
  { livery := 0x0A, addr := a, kind := k, len := n, data := if k = .write then List.replicate n 9 else [], src := .iod, flaws := [] }

theorem met_IslandMemories :
    (isl (modIsl up .sia (fun x => { x with pieces := [pieceAcc .read 32] })) .sia).pieces = [pieceAcc .read 32] ∧
    (pieceAcc .read 32).len ≤ 32 ∧ isFlash (pieceAcc .read 32) = false ∧
    (isFlash (pieceAcc .read 32 0xF20800FFE0) = true ∧ 0xF20800FFE0 % 0x4000000 + 32 ≤ 0x10000) ∧
    (isFlash (pieceAcc .read 32 0xF208060000) = true ∧ 0x60000 ≤ 0xF208060000 % 0x4000000) ∧
    (pieceAcc .write 32).data.length ≤ 32 :=
  ⟨rfl, by decide, rfl, ⟨rfl, by decide⟩, ⟨rfl, by decide⟩, by decide⟩

def ended1 : Ended := { unit := .iod, path := [], byLink := true }

theorem met_LinkFaults :
    ((die up 0).spup = true ∧ (die up 0).scup = true) ∧ outstanding up 0 1 = false ∧
    ((mct holding 0).reads = [heldRead1] ∧ (mct holding 0).compat = false ∧ timeoutsOf holding (.die 0) = 0) ∧
    (let s := { up with dis := { timeoutLog := [(.die 0, 100)] } };
      1 ≤ timeoutsOf s (.die 0) ∧ dieInSvc s 0 = true ∧ s.dis.ended = []) ∧
    (let s := { up with dis := { ended := [ended1] } };
      (dropOldest s .iod).1 = none ∧ s.dis.ended.find? (fun e => e.byLink && e.unit == .iod) = some ended1) := by decide +kernel

/-! Engines: engine 0 has one descriptor in its queue. -/

def desc (l : List Word) : List Word := sealW ((l ++ List.replicate 15 0).take 15)

def w0 (op sub fa fb fo : Nat) : Word := toW (op + at_ sub 8 + at_ fa 16 + at_ fb 20 + at_ fo 24)

def ring1 : QueueCtx := { st := 1, ctx := 1, logsize := 4, eng := 0, base := 0x100000, tail := 1 }

/-- A page of 64 FP16 tokens of 16 elements. -/
def page1 : Page := { st := 1, fmt := 5, ctx := 1, refs := 1, d := 16, capacity := 64, addr := 0x40000 }
def msg1 : HaloMsg := { tag := 5, data := List.replicate 128 1 }

/-- The descriptor stands in the ring, the queue's copy in the table, a block of 4,096 zero weights at 0x8000, a list of the pages
3 and 4 in the pool, a message in the mailbox. -/
def ringed (ws : List Word) : State :=
  setDie { on with
      qmg := { on.qmg with queues := [(0, ring1)] }
      kpm := { on.kpm with pages := [(3, page1), (4, { page1 with addr := 0x41000 })] } } 0
    { upDie with
      pool := memWr {} 0 (wordsBytes [0x80000003, 0, 0x80000004, 64])
      boxSucc := [msg1]
      hbm := memWr (memWr (memWr {} 0x8000 [0, 0, 2, 0, 0, 0x10, 0, 0]) 0x80000 (wordsBytes (queueWords ring1))) 0x100000
        (wordsBytes ws) }

/-- The state in which it runs. -/
def took0 (ws : List Word) : State :=
  match nextDesc (ringed ws) 0 with
  | some x => x.2.2
  | none => ringed ws

def descReadyB (op : Nat) (ws : List Word) : Bool :=
  (match nextDesc (ringed ws) 0 with
    | some x => x.1 == ws && x.2.1
    | none => false) &&
  (eng (took0 ws) 0).skipSt.isNone && sealOk ws && opDefined ws && dOp ws == op && commonOk ws && !(eng (took0 ws) 0).cut

theorem descReady {op : Nat} {ws : List Word} (h : descReadyB op ws = true) : DescReady (ringed ws) 0 op ws (took0 ws) := by
  simp only [descReadyB, Bool.and_eq_true, beq_iff_eq, Bool.not_eq_true', Option.isNone_iff_eq_none] at h
  obtain ⟨⟨⟨⟨⟨⟨hn, hs⟩, hl⟩, hd⟩, ho⟩, hc⟩, hw⟩ := h
  refine ⟨?_, hs, hl, hd, ho, hc, hw⟩
  revert hn
  unfold took0
  cases nextDesc (ringed ws) 0 with
  | none => intro h; cases h
  | some x =>
    rcases x with ⟨a, b, c⟩
    simp only [Bool.and_eq_true, beq_iff_eq]
    rintro ⟨rfl, rfl⟩
    rfl

def nop1 : List Word := desc [w0 0 0 0 0 0]
/-- A descriptor with a wrong check word, and one of an undefined operation. -/
def worn1 : List Word := nop1.set 15 0
def undef1 : List Word := desc [w0 0x77 0 0 0 0]

/-- Engine 0 takes `ws`, read well. -/
def takes (s : State) (ws : List Word) : Bool :=
  match nextDesc s 0 with
  | some x => x.1 == ws && x.2.1 && !(eng x.2.2 0).cut
  | none => false

/-- The same with a status to be carried to the milepost. -/
def skipping (ws : List Word) : State := modEng (ringed ws) 0 (fun e => { e with skipSt := some stDegraded })

theorem met_DescriptorChecks :
    Instr.nop 0 ∈ engineRows 0 none ∧
    (takes (skipping nop1) nop1 = true ∧ (eng (skipping nop1) 0).skipSt = some stDegraded) ∧
    (takes (ringed worn1) worn1 = true ∧ (eng (took0 worn1) 0).skipSt = none ∧ sealOk worn1 = false) ∧
    (takes (ringed undef1) undef1 = true ∧ (eng (took0 undef1) 0).skipSt = none ∧ sealOk undef1 = true ∧ opDefined undef1 = false) := by
  decide +kernel

/-- A vector operation of INT32 on 4 elements: sources at lines 0 and 1, destination at line 2. -/
def vec1 (sub : Nat) : List Word := desc [w0 8 sub 0xA 0xA 0xA, 9, 4, at_ 1 16, 2]

theorem met_VectorArithmetic :
    DescReady (ringed nop1) 0 0 nop1 (took0 nop1) ∧ (df nop1 0 27 16 = 0 ∧ zeroWords nop1 2 13 = true) ∧
    (∀ sub ∈ [1, 2, 3, 4, 5], DescReady (ringed (vec1 sub)) 0 8 (vec1 sub) (took0 (vec1 sub)) ∧
      dSub (vec1 sub) = sub ∧ vecBinOk (vec1 sub) = true ∧ vCount (vec1 sub) ≠ 0 ∧ memWf (eng (took0 (vec1 sub)) 0).rs = true ∧
      dFa (vec1 sub) = fmtInt32 ∧ dFb (vec1 sub) = fmtInt32 ∧ dFo (vec1 sub) = fmtInt32 ∧ vSc (vec1 sub) = false) ∧
    (let x : Upset := { row := 0, col := 0, term := none, err := 1 }; x.row < vCount (vec1 1) ∧ x.err.emod 3 ≠ 0) := by
  refine ⟨descReady (by decide +kernel), by decide, fun sub h => ⟨descReady ?_, ?_⟩, by decide⟩ <;> revert sub h <;> decide +kernel

/-- A vector operation of one source: 4 elements from line 0 to line 2. -/
def un1 (sub fa fo : Nat) : List Word := desc [w0 8 sub fa 0 fo, 9, 4, 0, 2]

theorem met_VectorFunctions :
    (∀ sub ∈ [6, 7, 8], DescReady (ringed (un1 sub 7 7)) 0 8 (un1 sub 7 7) (took0 (un1 sub 7 7)) ∧
      dSub (un1 sub 7 7) = sub ∧ vecUnOk isFp vCount (un1 sub 7 7) = true ∧ vCount (un1 sub 7 7) ≠ 0) ∧
    (DescReady (ringed (un1 9 1 0xA)) 0 8 (un1 9 1 0xA) (took0 (un1 9 1 0xA)) ∧ dSub (un1 9 1 0xA) = 9 ∧
      convertOk (un1 9 1 0xA) = true ∧ vCount (un1 9 1 0xA) ≠ 0 ∧ memWf (eng (took0 (un1 9 1 0xA)) 0).rs = true ∧
      dFa (un1 9 1 0xA) = 1 ∧ dFo (un1 9 1 0xA) = fmtInt32) ∧
    (∀ sub ∈ [0xA, 0xB], DescReady (ringed (un1 sub 0xA 0xA)) 0 8 (un1 sub 0xA 0xA) (took0 (un1 sub 0xA 0xA)) ∧
      dSub (un1 sub 0xA 0xA) = sub ∧ vecUnOk vecFmt (fun _ => 1) (un1 sub 0xA 0xA) = true ∧ vCount (un1 sub 0xA 0xA) ≠ 0 ∧
      memWf (eng (took0 (un1 sub 0xA 0xA)) 0).rs = true ∧ dFa (un1 sub 0xA 0xA) = fmtInt32 ∧ dFo (un1 sub 0xA 0xA) = fmtInt32) := by
  refine ⟨fun sub h => ⟨descReady ?_, ?_⟩, ⟨descReady (by decide +kernel), by decide +kernel⟩, fun sub h => ⟨descReady ?_, ?_⟩⟩
  all_goals revert sub h; decide +kernel

/-- A pooling or resizing of one plane of one INT8 pixel, a resize with scale 1. -/
def pool1 (mode : Nat) : List Word :=
  desc ([w0 8 0xC 1 0 1, 9, 1, 0, 100, 0, 0, toW (at_ mode 28), 0x10001, 0x10001, 0x10001, 0x10001] ++
    if mode < 4 then [0, 0] else [0x10000, 0x10000])

/-- A step of a softmax over 2 FP32 scores of one row. -/
def soft1 (mode : Nat) : List Word :=
  desc ([w0 8 0xD 7 0 (if mode = 3 then 7 else 5), 9, 2, 0, 100, 0, 0, toW (at_ mode 28 + 1), 0x10001] ++
    if mode = 3 then [200, 0x10000, 2] else [toW (200 + at_ 201 16)])

theorem met_PoolingAndSoftmax :
    (∀ mode ∈ [1, 2, 3, 4, 5], DescReady (ringed (pool1 mode)) 0 8 (pool1 mode) (took0 (pool1 mode)) ∧ dSub (pool1 mode) = 0xC ∧
      (poolDesc (pool1 mode)).mode = mode ∧ poolOk (pool1 mode) = true ∧ poolEmpty (pool1 mode) = false) ∧
    (∀ mode ∈ [1, 2, 3], DescReady (ringed (soft1 mode)) 0 8 (soft1 mode) (took0 (soft1 mode)) ∧ dSub (soft1 mode) = 0xD ∧
      df (soft1 mode) 7 31 28 = mode ∧ softmaxOk (soft1 mode) = true ∧ softmaxEmpty (soft1 mode) = false) := by
  refine ⟨fun sub h => ⟨descReady ?_, ?_⟩, fun sub h => ⟨descReady ?_, ?_⟩⟩
  all_goals revert sub h; decide +kernel

/-- In a product of one row and one group, no check finds a mismatch where none is found in that row. -/
theorem quiet_one {x : Mat} {ftol : Nat} (hm : x.m = 1) (hc : x.cols.length ≤ x.width) (hi : x.integer = true)
    (h : (rowInt x none 0 (x.group 0)).sum = false ∧ (rowInt x none 0 (x.group 0)).res = false) : quiet x ftol := by
  intro idx k
  unfold rowOut
  rw [hm, hi, Nat.div_one, Nat.mod_one]
  cases k with
  | zero => simpa using h
  | succ k =>
    have hg : x.group (k + 1) = [] := by
      unfold Mat.group
      rw [List.drop_eq_nil_of_le (Nat.le_trans hc (Nat.le_mul_of_pos_right _ (Nat.succ_pos k)))]
      simp
    rw [hg]
    cases ha : x.again <;> simp [rowInt, repeated, ha, checkInt, wrap48]

/-- A product of one INT16 by one INT8 element; its weights are one tile of zeros at 0x8000. -/
def gemm1 : List Word := desc [w0 1 0 2 1 0xA, 9, 0x10001, 1, 0x10000, 0x10001, 0, 0x8000]
def gemmAa1 : List Word := desc [w0 2 0 1 1 0xA, 9, 0x10001, 1, 0x10000, 0x10001, 0, 0x10002]
/-- A convolution of one pixel of one channel. -/
def conv1 (sub : Nat) : List Word :=
  desc [w0 3 sub 2 1 0xA, 9, 0x10001, 0x10001, 0x10001, 0x10000, 0x10001, 0x10001, 0, 0, 0x8000, 0, 0, if sub = 2 then 0x01010000 else 0]

/-- What the streams of their weights come to. -/
def gemmGot : List Byte × Option StreamEnd × State := gemmWeights (addBusy (took0 gemm1) 0) 0 gemm1
def convGot (sub : Nat) (plan : ConvDesc → ConvPlan) : List Byte × Option StreamEnd × State :=
  convWeights (addBusy (took0 (conv1 sub)) 0) 0 (conv1 sub) (plan (convDesc (conv1 sub)))

def convProduct (sub : Nat) (plan : ConvDesc → ConvPlan) : Mat :=
  convMat (convGot sub plan).2.2 0 (conv1 sub) (plan (convDesc (conv1 sub)))
    ((plan (convDesc (conv1 sub))).cols (convGot sub plan).1)

theorem met_MatrixProducts :
    (DescReady (ringed gemm1) 0 1 gemm1 (took0 gemm1) ∧ (gemmOk gemm1 = true ∧ df gemm1 8 31 16 = 0 ∧ gemmEmpty gemm1 = false ∧
      gemmGot.2.1 = none) ∧ quiet (gemmMat gemmGot.2.2 0 gemm1 (gemmCols gemm1 gemmGot.1)) (eng gemmGot.2.2 0).ftol) ∧
    (DescReady (ringed gemmAa1) 0 2 gemmAa1 (took0 gemmAa1) ∧ (gemmOk gemmAa1 = true ∧ bOk gemmAa1 = true ∧
      gemmEmpty gemmAa1 = false ∧ gInt gemmAa1 = true) ∧
      (let s := addBusy (took0 gemmAa1) 0; quiet (gemmMat s 0 gemmAa1 (gemmAaCols s 0 gemmAa1).1) (eng s 0).ftol)) ∧
    (∀ sub plan, (sub, plan) ∈ [(1, densePlan), (2, groupedPlan), (3, depthPlan)] →
      DescReady (ringed (conv1 sub)) 0 3 (conv1 sub) (took0 (conv1 sub)) ∧ dSub (conv1 sub) = sub ∧
      convEmpty (conv1 sub) = false ∧ (convGot sub plan).2.1 = none ∧ convInt (convDesc (conv1 sub)) = true ∧
      (convProduct sub plan).k ≤ 131069 ∧ quiet (convProduct sub plan) (eng (convGot sub plan).2.2 0).ftol) ∧
    (denseOk (conv1 1) = true ∧ groupedOk (conv1 2) = true ∧ depthOk (conv1 3) = true) ∧
    (let x : Upset := { row := 0, col := 0, term := none, err := 1 };
      x.row < gM gemmAa1 ∧ x.col < gN gemmAa1 ∧ x.term = none ∧ x.err.emod (2 ^ 48) ≠ 0) := by
  refine ⟨⟨descReady (by decide +kernel), by decide +kernel, quiet_one (by decide +kernel) (by decide +kernel) (by decide +kernel)
    (by decide +kernel)⟩, ⟨descReady (by decide +kernel), by decide +kernel, quiet_one (by decide +kernel) (by decide +kernel)
    (by decide +kernel) (by decide +kernel)⟩, ?_, by decide +kernel, by decide +kernel⟩
  intro sub plan h
  simp only [List.mem_cons, Prod.mk.injEq, List.not_mem_nil, or_false] at h
  rcases h with ⟨rfl, rfl⟩ | ⟨rfl, rfl⟩ | ⟨rfl, rfl⟩
  all_goals exact ⟨descReady (by decide +kernel), by decide +kernel, by decide +kernel, by decide +kernel, by decide +kernel,
    by decide +kernel, quiet_one (by decide +kernel) (by decide +kernel) (by decide +kernel) (by decide +kernel)⟩

theorem met_IntegerProduct :
    DescReady (ringed gemmAa1) 0 2 gemmAa1 (took0 gemmAa1) ∧ gemmOk gemmAa1 = true ∧ bOk gemmAa1 = true ∧
    gemmEmpty gemmAa1 = false ∧ dFa gemmAa1 = 1 ∧ dFb gemmAa1 = 1 ∧ dFo gemmAa1 = fmtInt32 ∧ gAcc gemmAa1 = false ∧
    gBias gemmAa1 = false ∧ gScale gemmAa1 = false ∧ df gemmAa1 9 12 8 = 0 ∧ df gemmAa1 9 3 0 = 0 ∧
    memWf (eng (took0 gemmAa1) 0).rs = true ∧ 0 < gM gemmAa1 ∧ 0 < gN gemmAa1 :=
  ⟨descReady (by decide +kernel), by decide +kernel⟩

/-- In a product of one row and one group of FP32 accumulators, the check's answer is settled. -/
theorem quiet_float {x : Mat} {ftol : Nat} (hm : x.m = 1) (hc : x.cols.length ≤ x.width) (hi : x.integer = false)
    (ha : x.again = none) (h0 : floatCheck ftol x.k fzero [] [] [] = some false)
    (h : (let cs := x.group 0; let v := tally (fun c => dotF x.fa x.fb (numFl (x.start 0 c.2)) (fun _ => 0) (x.row 0 c.2) c.1) cs
      floatCheck ftol x.k fzero (cs.map (fun c => (x.row 0 c.2, c.1))) (cs.map (fun c => numFl (x.start 0 c.2))) v.1) = some false) :
    quiet x ftol := by
  have hb : ∀ y, bumpAcc 0 y = y := fun y => rfl
  intro idx k
  unfold rowOut
  rw [hm, hi, Nat.div_one, Nat.mod_one]
  cases k with
  | zero =>
    have ht : (fun (c : Vec × Nat) => termErr none 0 c.2) = fun _ _ => 0 := rfl
    simp only [rowFloat, repeated, ha, accErr, hb, Bool.false_eq_true, if_false]
    refine ⟨?_, trivial⟩
    have := h
    simp only at this
    show (_ && Option.getD (floatCheck ftol x.k fzero _ _ _) _) = false
    erw [this]
    rfl
  | succ k =>
    have hg : x.group (k + 1) = [] := by
      unfold Mat.group
      rw [List.drop_eq_nil_of_le (Nat.le_trans hc (Nat.le_mul_of_pos_right _ (Nat.succ_pos k)))]
      simp
    rw [hg]
    simp only [rowFloat, repeated, ha, tally, Bool.false_eq_true, if_false, List.map_nil]
    refine ⟨?_, trivial⟩
    show (_ && Option.getD (floatCheck ftol x.k fzero [] [] []) _) = false
    rw [h0]
    rfl

/-- One query over one position of an empty list, and one row of probabilities. -/
def score1 : List Word := desc [w0 4 1 1 1 7, 9, 0x100001, 0, 1, 0x10000, 0x10001, 0x1000]
def value1 : List Word := desc [w0 5 1 5 5 7, 9, 0x100001, 0, 1, 0x10000, 0x10001, 0x1000]
/-- 65 tokens go into pages 3 and 4; the one node of a tree is kept. -/
def append1 : List Word := desc [w0 5 2 5 5 0, 9, 0x100041, 0, 0x10000, 0x10064, 0, 0]
def compact1 : List Word := desc [w0 5 3 0 5 0, 9, 0x100001, 0, 1]

def scoreGot : List (Option (List Byte)) × Option KvEnd × State :=
  let t := addBusy (took0 score1) 0
  kvRows 0 false (attnReach t 0 score1) (atN score1) t (atK0 score1) []
def valueGot : List (Option (List Byte)) × Option KvEnd × State :=
  let t := addBusy (took0 value1) 0
  kvRows 0 true (attnReach t 0 value1) (atN value1) t (atK0 value1) []

/-- APPEND waits for the KPM, or for a copy into page 4. -/
def asking (i : Nat) : State := modEng (took0 append1) 0 (fun e => { e with cur := some append1, waiting := some (.prepare i) })
def copyWait : State :=
  { modEng (took0 append1) 0 (fun e => { e with cur := some append1, waiting := some .copies }) with
    kpm := { (ringed append1).kpm with copies := [(4, 3)], preps := [{ eng := 0, waits := [4] }] } }

theorem met_Attention :
    (DescReady (ringed score1) 0 4 score1 (took0 score1) ∧ (scoreOk score1 = true ∧ attnEmpty score1 = false ∧ atMode score1 ≠ 2 ∧
      walkEnd (attnReach (addBusy (took0 score1) 0) 0 score1) = none ∧ scoreGot.2.1 = none) ∧
      quiet (scoreMat scoreGot.2.2 0 score1 scoreGot.1) (eng scoreGot.2.2 0).ftol) ∧
    (DescReady (ringed value1) 0 5 value1 (took0 value1) ∧ (dSub value1 = 1 ∧ valueOk value1 = true ∧ attnEmpty value1 = false ∧
      walkEnd (attnReach (addBusy (took0 value1) 0) 0 value1) = none ∧ valueGot.2.1 = none) ∧
      quiet (valueMat valueGot.2.2 0 value1 (valueRows value1 valueGot.1).1) (eng valueGot.2.2 0).ftol) ∧
    (DescReady (ringed append1) 0 5 append1 (took0 append1) ∧ dSub append1 = 2 ∧ appendOk append1 = true ∧ apEmpty append1 = false ∧
      walkEnd (apReach (took0 append1) 0 append1) ≠ some .beyond ∧
      apPlist append1 + 8 * entriesUsed (took0 append1) 0 append1 ≤ poolSize ∧ nextPrep (took0 append1) 0 append1 0 = .ask 0) ∧
    (DescReady (ringed compact1) 0 5 compact1 (took0 compact1) ∧ dSub compact1 = 3 ∧ compactOk compact1 = true ∧
      apEmpty compact1 = false ∧ walkEnd (apReach (took0 compact1) 0 compact1) ≠ some .beyond ∧
      apPlist compact1 + 8 * entriesUsed (took0 compact1) 0 compact1 ≤ poolSize ∧ nextPrep (took0 compact1) 0 compact1 0 = .ask 0) ∧
    ((eng (asking 0) 0).waiting = some (.prepare 0) ∧ (eng (asking 0) 0).cur = some append1 ∧
      (apReach (asking 0) 0 append1)[0]? = some (.page 3 0) ∧ (page (asking 0) 3).refs ≤ 1 ∧ (asking 0).kpm.copies = [] ∧
      (asking 0).kpm.preps = [] ∧ nextPrep (asking 0) 0 append1 1 = .ask 1) ∧
    ((apReach (asking 1) 0 append1)[1]? = some (.page 4 64) ∧ (page (asking 1) 4).refs ≤ 1 ∧
      nextPrep (asking 1) 0 append1 2 = .ready) ∧
    (copyWait.kpm.copies = [(4, 3)] ∧ copyWait.kpm.preps = [{ eng := 0, waits := [4] }] ∧
      (eng copyWait 0).waiting = some .copies ∧ (eng copyWait 0).cur = some append1 ∧
      ∀ h : EngId, h ≠ 0 → (eng copyWait h).waiting ≠ some .copies) ∧
    (page (ringed nop1) (3 : Fin 524288)).st ≠ 0 := by
  refine ⟨⟨descReady (by decide +kernel), by decide +kernel, quiet_one (by decide +kernel) (by decide +kernel) (by decide +kernel)
    (by decide +kernel)⟩, ⟨descReady (by decide +kernel), by decide +kernel, quiet_float (by decide +kernel) (by decide +kernel)
    (by decide +kernel) (by decide +kernel) (by decide +kernel) (by decide +kernel)⟩, ⟨descReady (by decide +kernel), by decide +kernel⟩,
    ⟨descReady (by decide +kernel), by decide +kernel⟩, by decide +kernel, by decide +kernel, by decide +kernel, by decide +kernel⟩

/-- Rows of 8 bytes between lines 0 and 1 and the pool or the stack. -/
def move1 (op : Nat) (pool : Bool) : List Word :=
  desc [w0 op 0 0 0 0, 9, 0x100, if pool then 0x80000000 else 0, 0x10000, 8, if pool then 2 else 1, 16]

/-- The row's access is let through. -/
def moveTo (op : Nat) (k : Kind) : Admit :=
  let t := addBusy (took0 (move1 op false)) 0
  grants t (engLivery t 0) 0x100 8 k (.engine 0)

theorem met_LoadsAndStores :
    (∀ op ∈ [9, 0xA], ∀ p ∈ [true, false], DescReady (ringed (move1 op p)) 0 op (move1 op p) (took0 (move1 op p)) ∧
      moveOk (move1 op p) = true ∧ moveEmpty (move1 op p) = false ∧ mPool (move1 op p) = p ∧
      mBytes (move1 op p) ≤ mGap (move1 op p) ∧ owes (took0 (move1 op p)) 0 = false ∧ (p = false → mRows (move1 op p) = 1)) ∧
    (let t := addBusy (took0 (move1 9 false)) 0;
      mAddr (move1 9 false) = 0x100 ∧ mBytes (move1 9 false) = 8 ∧ atSpot (moveTo 9 .read) = some hbmSpot ∧
      badIn (mct (inState t (moveTo 9 .read)) 0) 0x100 8 = none) ∧
    (let t := addBusy (took0 (move1 0xA false)) 0; let u := inState t (moveTo 0xA .write);
      mAddr (move1 0xA false) = 0x100 ∧ mBytes (move1 0xA false) = 8 ∧ atSpot (moveTo 0xA .write) = some hbmSpot ∧
      (mct u 0).flaws = [] ∧ (mct u 0).compat = false ∧ owes u 0 = false ∧
      queuedBursts (mct u 0) + (burstsOf 0x100 8).length ≤ 2048) := by
  refine ⟨fun op h p hp => ⟨descReady ?_, ?_⟩, by decide +kernel, by decide +kernel⟩ <;> revert p op <;> decide +kernel

/-- A message of 128 bytes from line 0 to the successor, and its reception from there. -/
def send1 : List Word := desc [w0 0xC 0 0 0 0, 9, 5, 0, 128]
def recv1 (mode : Nat) : List Word :=
  desc [w0 0xD 0 (if mode = 1 then 0xA else 0) 0 0, 9, toW (at_ mode 17 + 5), 0, 128]
def wait1 (n : Nat) : List Word := desc [w0 0xF 0 0 0 0, 9, 2, toW n]

/-- The message is under way to die 1. -/
def flying : State :=
  { modEng up 0 (fun e => { e with cur := some send1, waiting := some .haloSend }) with flight := [(0, 1, true, msg1)] }

theorem met_HaloAndWait :
    (DescReady (ringed send1) 0 0xC send1 (took0 send1) ∧ haloOk send1 = true ∧ hMode send1 = 0 ∧ hPool send1 = false ∧
      dFa send1 = 0 ∧ haloEmpty send1 = false) ∧
    ((eng flying 0).cur = some send1 ∧ (eng flying 0).done = [] ∧ (eng flying 0).late = [] ∧
      boxBytes (boxOf (die flying 1) true) + msg1.data.length ≤ 262144 ∧
      wayOpen flying (flightWay flying (0, 1, true, msg1)) = true ∧ ∀ h : EngId, (eng flying h).waiting ≠ some .haloRecv) ∧
    (∀ mode ∈ [0, 1], DescReady (ringed (recv1 mode)) 0 0xD (recv1 mode) (took0 (recv1 mode)) ∧ haloOk (recv1 mode) = true ∧
      haloEmpty (recv1 mode) = false ∧ hMode (recv1 mode) = mode ∧ (mode = 0 → dFa (recv1 mode) = 0) ∧
      (mode = 1 → dFa (recv1 mode) = fmtInt32 ∨ dFa (recv1 mode) = fmtF32) ∧
      takeTag (hTag (recv1 mode)) (boxOf (die (took0 (recv1 mode)) (dieOf 0)) (hDir (recv1 mode))) = some (msg1, []) ∧
      msg1.data.length = hLen (recv1 mode) ∧ hPool (recv1 mode) = false) ∧
    (∀ n ∈ [4, 5], DescReady (ringed (wait1 n)) 0 0xF (wait1 n) (took0 (wait1 n)) ∧ df (wait1 n) 2 31 16 = 0 ∧
      zeroWords (wait1 n) 4 13 = true ∧ df (wait1 n) 0 27 16 = 0 ∧ nth (wait1 n) 3 = toW n ∧
      physObj (took0 (wait1 n)) (eng (took0 (wait1 n)) 0).bctx (df (wait1 n) 2 15 0) = some 2 ∧
      obj (took0 (wait1 n)) 2 = { st := 1, limit := 10, value := 4, owner := 0 }) := by
  refine ⟨⟨descReady (by decide +kernel), by decide +kernel⟩, by decide +kernel, fun m h => ⟨descReady ?_, ?_⟩,
    fun n h => ⟨descReady ?_, ?_⟩⟩
  · revert m; decide +kernel
  · revert m; decide +kernel
  · revert n; decide +kernel
  · revert n; decide +kernel

def done1 : Completion := { status := 0, words := List.replicate 16 0, ctx := 1, queue := 0, head := 1 }
/-- The last descriptor of its command, which signals object 3. -/
def done2 : Completion := { done1 with words := (done1.words.set 0 0x80000000).set 14 0x80000003 }
def completed (c : Completion) : State := modEng on 0 (fun e => { e with done := [c] })

/-- A command is open whose next descriptor streams weights. -/
def fetching : State := modEng (ringed gemm1) 0 (fun e => { e with openCmd := true })

def testing : State := modEng up 0 (fun e => { e with st := 4 })

theorem met_EngineEvents :
    (∀ c ∈ [done1, done2, { done2 with status := 0x10 }], (eng (completed c) 0).done = [c] ∧ (eng (completed c) 0).cur = none ∧
      owes (completed c) 0 = false ∧ (eng (completed c) 0).bindDue = false ∧ (completed c).dis.issued = [] ∧
      (completed c).stg.inlay = false) ∧
    ((nextWeights fetching 0).map (fun x => (x.1, streamOf x.1)) = some (gemm1, some (0x8000, 4096)) ∧ (eng fetching 0).pref = none) ∧
    (executing (eng (ringed nop1) 0) = false ∧ (nextDesc (ringed nop1) 0).isSome = true) ∧
    (executing (eng fetching 0) = true ∧ (eng fetching 0).withdrawn = false ∧ (eng fetching 0).cut = false ∧
      inSvc fetching.sia = true) ∧
    (let s := modEng up 0 (fun e => { e with mismAt := [100, 99, 98] });
      3 ≤ histCount 1000 s.stg.stage (eng s 0).mismAt ∧ (eng s 0).withdrawn = false ∧ (eng s 0).wdrawNext = false) ∧
    mayTest (modEng up 0 (fun e => { e with st := 1 })) 0 = true ∧
    ((eng testing 0).st = 4 ∧ (eng testing 0).withdrawn = false ∧ testing.dis.reexec = []) ∧
    64 ≤ (eng (modEng up 0 (fun e => { e with stDefer := 64 })) 0).stDefer := by
  decide +kernel

/-! The page manager and the planner. -/

/-- Context 1 holds page 3. -/
def holds (r : Page) : State := { on with kpm := { on.kpm with pages := [(3, r)], quotas := [(1, 100)], heaps := [(0, (2, 8))] } }

def alloc1 : Pkt := hk 7 0 1 [1, 0x01500010]

theorem got_page : ∃ is t, allocMany 1 5 0 16 1 1 (took (got (holds page1) alloc1) .host alloc1) [] = some (is, t) ∧ is ≠ [] := by
  have h : (match allocMany 1 5 0 16 1 1 (took (got (holds page1) alloc1) .host alloc1) [] with
    | some x => !x.1.isEmpty
    | none => false) = true := rfl
  revert h
  cases allocMany 1 5 0 16 1 1 (took (got (holds page1) alloc1) .host alloc1) [] with
  | none => intro h; cases h
  | some x => intro h; exact ⟨x.1, x.2, rfl, fun e => by simp [e] at h⟩

theorem met_PageManager :
    (Ready (got (holds page1) alloc1) .host 7 0 2 alloc1 ∧ (fld (par alloc1 1) 31 28 = 0 ∧ fld (par alloc1 1) 27 24 ≤ 9 ∧
      pageFmt (fld (par alloc1 1) 23 20) = true ∧ fld (par alloc1 1) 19 16 ≤ 11 ∧
      headOk (fld (par alloc1 1) 23 20) (fld (par alloc1 1) 15 0) = true ∧ pageCap 1 5 16 ≠ 0 ∧ dieInSvc (holds page1) 0 = true) ∧
      ∃ is t, allocMany 1 5 0 16 1 1 (took (got (holds page1) alloc1) .host alloc1) [] = some (is, t) ∧ is ≠ []) ∧
    (Ready (got on alloc1) .host 7 0 2 alloc1 ∧ bankGet 0 on.kpm.quotas 1 ≤ ctxPages on 1) ∧
    (∀ r ∈ [{ page1 with refs := 0 }, { page1 with pinned := true }, page1],
      Ready (got (holds r) (hk 7 1 1 [1, 3])) .host 7 1 2 (hk 7 1 1 [1, 3]) ∧ page (holds r) 3 = r) ∧
    (∀ r ∈ [{ page1 with st := 2 }, page1, { page1 with refs := 65535 }],
      Ready (got (holds r) (hk 7 2 1 [1, 3])) .host 7 2 2 (hk 7 2 1 [1, 3]) ∧ page (holds r) 3 = r) ∧
    (∀ o ∈ [1, 2], Ready (got (holds { page1 with ctx := 2 }) (hk 7 o 1 [1, 3])) .host 7 o 2 (hk 7 o 1 [1, 3]) ∧
      (page (holds { page1 with ctx := 2 }) 3).ctx ≠ 1) ∧
    Ready (got on (hk 7 3 1 [524286, 2])) .host 7 3 2 (hk 7 3 1 [524286, 2]) ∧ Ready (got on (hk 7 4 1 [])) .host 7 4 0 (hk 7 4 1 []) ∧
    opened on (.iod 5) = true := by
  refine ⟨⟨ready_got (by decide) rfl, by decide, got_page⟩, ⟨ready_got (by decide) rfl, by decide⟩,
    fun r h => ⟨ready_got ?_ rfl, ?_⟩, fun r h => ⟨ready_got ?_ rfl, ?_⟩, fun o h => ⟨ready_got ?_ rfl, ?_⟩, ready_got (by decide) rfl,
    ready_got (by decide) rfl, by decide⟩
  · revert r; decide
  · revert r; decide
  · revert r; decide
  · revert r; decide
  · revert o; decide
  · revert o; decide

/-- The planner holds something. -/
def planner (f : Mpl → Mpl) : State := setMpl on f

def badShadow : List Word := [0, 0x18640000, 0x32040012, 0, 0, 0, 0, 0, 0, 0, 0]
def cfgPk : Pkt := hk 5 0 1 [0x003E8040, 0x18640000, 0x32040012, 0, 0, 0, 0, 0, 0, 0, 0]
def searchPk (build : Word) : Pkt := hk 5 1 1 [build, 0, 0, 0, 0]
def search1 : Search := {
  src := .packet .host, pkt := none, build := true, waiting := false, building := false, pose := (0, 0), t0 := 5
  cfg := (up.mpl).cfg, layover := false }

theorem met_PlannerConfiguration :
    (on.mpl.search = none ∧ on.mpl.defCommit = none ∧ cfgBad on.mpl.shadow = none) ∧
    cfgBad (planner (fun m => { m with shadow := badShadow })).mpl.shadow ≠ none ∧
    (planner (fun m => { m with search := some search1 })).mpl.search ≠ none ∧
    (let s := planner (fun m => { m with defCommit := some badShadow });
      s.mpl.defCommit = some badShadow ∧ s.mpl.search = none ∧ badShadow.length = 11 ∧ s.mpl.shadow.length = 11 ∧ s.mpl.cfg.length = 11) ∧
    (Ready (got on cfgPk) .host 5 0 11 cfgPk ∧ planCtx on cfgPk = true ∧ cfgBad (mplMask (parsFrom cfgPk 0)) = none) ∧
    (Ready (got on (hk 5 4 1 [])) .host 5 4 0 (hk 5 4 1 []) ∧ planCtx on (hk 5 4 1 []) = true) ∧
    (let s := modCtx on 2 (fun c => { c with exists_ := true });
      Ready (got s (hk 5 4 2 [])) .host 5 4 0 (hk 5 4 2 []) ∧ planCtx s (hk 5 4 2 []) = false) ∧
    (let s := planner (fun m => { m with current := true, candsHeld := 8 });
      Ready (got s (hk 5 3 1 [7, 1])) .host 5 3 2 (hk 5 3 1 [7, 1]) ∧ 7 + 1 ≤ currentCands s.mpl) ∧
    (let s := planner (fun m => { m with heldOcc := [held1 0x1600000], heldPrim := [held1 0x1400000] });
      s.mpl.heldOcc = [held1 0x1600000] ∧ building s.mpl = false ∧ s.mpl.heldPrim = [held1 0x1400000] ∧
      running s.mpl = none ∧ (held1 0).eng = none ∧ ({ held1 0 with eng := some 3 } : HeldWrite).eng = some (3 : EngId)) :=
  ⟨by decide, by decide, by decide, by decide, ⟨ready_got (by decide) rfl, by decide⟩, ⟨ready_got (by decide) rfl, by decide⟩,
    ⟨ready_got (by decide) rfl, by decide⟩, ⟨ready_got (by decide) rfl, by decide⟩, by decide⟩

/-- A field without an obstacle. -/
def free1 : Field := { built := true }
def searching (q : Search) : State := planner (fun m => { m with search := some q, st := 3, fieldv := true, buf0 := free1 })

/-- A search whose cycles are none: it is at its time budget in its first cycle. -/
def search0 : Search := { search1 with cfg := badShadow }

theorem met_Searches :
    (let s := planner (fun m => { m with st := 1, fieldv := true });
      (∀ b ∈ [0, 1], Ready (got s (searchPk (toW b))) .host 5 1 5 (searchPk (toW b)) ∧ planCtx s (searchPk (toW b)) = true ∧
        fld (par (searchPk (toW b)) 0) 31 1 = 0) ∧ par (searchPk 0) 3 = 0 ∧ par (searchPk 0) 4 = 0 ∧ s.mpl.fieldv = true ∧
      s.mpl.search = none ∧ s.stg.inlay = false ∧ s.mpl.st ≠ 0) ∧
    (let q := { search1 with waiting := true }; (searching q).mpl.search = some q ∧ q.waiting = true ∧ (searching q).mpl.sram.fill = .byte 0) ∧
    (let q := { search1 with building := true }; (searching q).mpl.search = some q ∧ q.building = true) ∧
    (running (searching search1).mpl = some search1 ∧ (searchNow (searching search1) search1 (some 0)).2.1 = 3 ∧
      search1.layover = (searching search1).stg.inlay ∧ (searching search1).stg.cutoffPast = false) ∧
    (running (searching search0).mpl = some search0 ∧ (searchNow (searching search0) search0 none).2.1 = 2) := by
  refine ⟨⟨fun b h => ⟨ready_got ?_ rfl, ?_⟩, by decide⟩, by decide, by decide, by decide +kernel, by decide +kernel⟩
  · revert b; decide
  · revert b; decide

/-- A clear pose, and one outside the field. -/
def pose1 : Pose := { x := 0, y := 0, h := 0, v := 0, t := 0 }
def pose2 : Pose := { pose1 with x := 30000 }

theorem met_TrajectoryClear :
    [pose1].length ≤ 64 ∧ 0 ≤ poseClr (planCfg up.mpl.cfg) free1 pose1 ∧ poseClr (planCfg up.mpl.cfg) free1 pose2 < 0 := by decide +kernel

/-- Records of one pose in slots 0, 9, 10 and 12. -/
def record1 : List Word := [1, 0, 0, 0, 0, 0, 0, 0]
def trajs : Mem :=
  memWrW (memWrW (memWrW (memWrW {} (slotBase 0) record1) (slotBase 12) record1) (slotBase 9) record1) (slotBase 10) record1

def ready1 : State := planner (fun m => { m with st := 1, fieldv := true, buf0 := free1, sram := trajs })
def inline1 : Pkt := hk 5 2 1 [0x80000000, 1, 0, 0, 0, 0]

theorem met_ClearanceChecks :
    (Ready (got ready1 (hk 5 2 1 [0])) .host 5 2 1 (hk 5 2 1 [0]) ∧ fld (par (hk 5 2 1 [0]) 0) 31 4 = 0 ∧
      planCtx ready1 (hk 5 2 1 [0]) = true ∧ ready1.mpl.fieldv = true ∧ trajCount (slotWords ready1 0) = 1) ∧
    (Ready (got ready1 inline1) .host 5 2 (2 + 4 * 1) inline1 ∧ parN inline1 1 = 1 ∧ tbit (par inline1 0) 31 = true ∧
      fld (par inline1 0) 30 4 = 0 ∧ planCtx ready1 inline1 = true) :=
  ⟨⟨ready_got (by decide) rfl, by decide +kernel⟩, ⟨ready_got (by decide) rfl, by decide +kernel⟩⟩

/-- A request of SIA against its own slot, slot 9 or another. -/
def request1 (alive : Word) (slot : Nat := 10) : List Word := sealW [toW (0x01000000 + slot), alive, 0, 0, 0, 0, 0]

/-- A gate run is due with `n` candidates. -/
def gating (n : Nat) (ended : Bool) (sram : Mem) : State :=
  { planner (fun m => { m with st := 1, gateOpen := true, current := true, candsHeld := n, ended := ended, buf0 := free1, sram := sram }) with
    stg := { on.stg with inlay := true } }

theorem met_UrgentChecksAndOutputGate :
    (∀ n ∈ [9, 10], let r := request1 0 n;
      ready1.mpl.st ≠ 0 ∧ hears ready1 .sia = true ∧ asked .sia (isl ready1 .sia) r = true ∧ r.length = 8 ∧ sealOk r = true ∧
      fld (nth r 1) 7 0 = (urgAlive ready1.mpl .sia).toNat ∧ fld (nth r 0) 31 4 = 0x100000 ∧ fld (nth r 1) 15 8 = 0 ∧
      ((r.drop 2).take 5).any (· != 0) = false ∧ ready1.mpl.fieldv = true ∧ trajCount (slotWords ready1 (fld (nth r 0) 3 0)) = 1) ∧
    (asked .sia (isl ready1 .sia) ((request1 0).set 7 0) = true ∧ sealOk ((request1 0).set 7 0) = false ∧
      asked .sia (isl ready1 .sia) (request1 1) = true ∧ sealOk (request1 1) = true ∧
      fld (nth (request1 1) 1) 7 0 ≠ (urgAlive ready1.mpl .sia).toNat) ∧
    (sealOk (request1 0 11) = true ∧ fld (nth (request1 0 11) 0) 3 0 ≠ ownSlot .sia ∧ fld (nth (request1 0 11) 0) 3 0 ≠ 9) ∧
    (let s := gating 1 true trajs;
      gateDue s = true ∧ 0 < currentCands s.mpl ∧ (checkNow s (wordsTraj (trajUsed (slotWords s 0))).poses).clear = true) ∧
    (let s := gating 1 true (memWrW {} (slotBase 0) [1, 0, 0, 0, 30000, 0, 0, 0]);
      gateDue s = true ∧ 0 < currentCands s.mpl ∧ (checkNow s (wordsTraj (trajUsed (slotWords s 0))).poses).clear = false) ∧
    (∀ e, gateDue (gating 0 e {}) = true ∧ currentCands (gating 0 e {}).mpl = 0 ∧ (gating 0 e {}).mpl.ended = e) := by
  decide +kernel

/-! The islands, the ring edges, losses. -/

/-- SIA with something changed. -/
def sia (f : Island → Island) : State := modIsl ready1 .sia f
/-- Ring edge A with something changed. -/
def edgeA (f : RingEdge → RingEdge) : State := modEdge ready1 .a f

def stateMsg (st : Word) : List Word := sealW [st, 0, 0, 0]

theorem met_IslandMessages :
    ((isl up .sia).inReset = false ∧ inSvc (isl up .sia) = true ∧ (isl up .sia).linkUp = true ∧ (isl up .sia).beatLapsed = false ∧
      inSvc (isl up .sib) = true ∧ mayOrder (isl up .sia) = true ∧
      mayOrder (isl (sia (fun x => { x with linkUp := false })) .sia) = false) ∧
    (∀ st ∈ [2, 4], (stateMsg (toW st)).length = 5 ∧ sealOk (stateMsg (toW st)) = true ∧ fld (nth (stateMsg (toW st)) 0) 3 0 = st) ∧
    (let x := isl (sia (fun x => { x with beatAt := some 5 })) .sia; ∀ b, x.beatAt = some b → b + 200000 ≤ 200005) ∧
    2 ≤ (isl (sia (fun x => { x with differ := 2 })) .sia).differ := by
  refine ⟨by decide, by decide +kernel, ?_, by decide⟩
  intro x b h
  have : some 5 = some b := h
  cases this
  decide

/-- A proposal of two poses, at rest at its end. -/
def proposal1 : List Word := [2, 0, 0, 0, 0, 0, 125, 0, 0, 0, 250, 0]
def report1 : List Word := sealW [1, 0, 0, crcW record1]

/-- The planner holds a proposal in slot 12 and a gated record in slot 9. -/
def proposing (f : Island → Island) : State :=
  setMpl (sia f) (fun m => { m with sram := memWrW (memWrW {} (slotBase 12) proposal1) (slotBase 9) record1 })

def shoe1 : Shoe := {
  rcd := record1, gen := 0, t0 := 0, recheck := true, clear := true, step := 1, reason := 6, source := 1, stage := 0 }

/-- A reply to the check that is out. -/
def urgent1 (w : Word) : List Word := sealW [w, 0xFF, 1, 0, 0, 0, 0]
def waits1 (st : IslStep) (w : Word) : State :=
  proposing (fun x => { x with step := st, tries := 1, report := some report1, urgReply := [urgent1 w] })

/-- The link between the frames of generations 0 and 0: 5, -3, a turn of 7. -/
def linked1 : List Word := sealW [0, 0, 0xFFFD0005, 7]

theorem met_IslandSteps :
    (let s := proposing (fun x => { x with reportQ := [report1] }); let x := isl s .sia;
      x.reportQ = report1 :: [] ∧ inSvc x = true ∧ reportOk x report1 = true ∧ x.cutoff = false ∧ x.step = .idle ∧ x.report = none ∧
      x.late = false ∧ reachesMpl s .sia = true ∧ isProposal (slotWords s 12) (fld (nth report1 2) 23 0) = true) ∧
    (let s := proposing (fun x => { x with reportQ := [report1], step := .candidate }); let x := isl s .sia;
      hears s .sia = true ∧ x.cutoff = false ∧ x.reportQ = report1 :: [] ∧ inSvc x = true ∧ reportOk x report1 = true ∧ x.step = .candidate ∧ tbit (nth report1 0) 0 = true ∧
      fld (nth report1 0) 11 8 ≠ 15) ∧
    (∀ k ∈ [none, some shoe1], let x := isl (sia (fun x => { x with shoe := k })) .sia;
      inSvc x = true ∧ x.report = none ∧ x.late = false ∧ x.cutoff = false ∧ x.shoe = k) ∧
    (frameLink (slotWords ready1 13) = none ∧
      (let s := setMpl (sia (fun x => { x with shoe := some shoe1 })) (fun m => { m with sram := memWrW {} (slotBase 13) linked1 });
        (isl s .sia).shoe = some shoe1 ∧ reachesMpl s .sia = true ∧ frameLink (slotWords s 13) = some (s.mpl.gen, shoe1.gen, 5, -3, 7))) ∧
    (∀ e ∈ [(IslStep.candidate, 0x100), (.candidate, 0), (.proposal, 0x100), (.proposal, 0x09000000)],
      let x := isl (waits1 e.1 (toW e.2)) .sia;
      x.urgReply = [urgent1 (toW e.2)] ∧ inSvc x = true ∧ hears (waits1 e.1 (toW e.2)) .sia = true ∧ (urgent1 (toW e.2)).length = 8 ∧ sealOk (urgent1 (toW e.2)) = true ∧
      nth (urgent1 (toW e.2)) 1 = urgTag x ∧ x.step = e.1 ∧ x.tries = 1) ∧
    (candidateOk (waits1 .candidate 0x100) .sia (urgent1 0x100) = true ∧
      candidateOk (waits1 .candidate 0) .sia (urgent1 0) = false ∧ tbit (nth (urgent1 0x100) 0) 8 = true ∧
      fld (nth (urgent1 0x100) 0) 31 24 ≠ stStaleAlive.toNat) ∧
    (∀ st, inSvc (isl (waits1 st 0) .sia) = true) := by
  refine ⟨by decide +kernel, by decide +kernel, by decide +kernel, by decide +kernel, by decide +kernel, by decide +kernel, fun st => by cases st <;> rfl⟩

def release1 : Release := { rcd := record1, crc := crcW record1, gen := 0, t0 := 0, stage := 0 }
def both1 : RingEdge := { setA := true, setB := true, relA := some release1, relB := some release1, adopted := true }

theorem met_StageOutput :
    (let s := sia (fun x => { x with relOut := some release1 });
      (isl s .sia).relOut = some release1 ∧ reaches s .sia .b = true ∧ (edge s .b).cutoff = false ∧
      release1.stage = (edge s .b).rep.stage) ∧
    (let s := modEdge (sia (fun x => { x with relOut := some release1 })) .a (fun x => { x with cutoff := true });
      (isl s .sia).relOut = some release1 ∧ (edge s .a).cutoff = true) ∧
    (let s := sia (fun x => { x with shoeOut := some shoe1 });
      (isl s .sia).shoeOut = some shoe1 ∧ reaches s .sia .a = true) ∧
    (chooseOutput both1 ≠ none ∧ (∀ o, chooseOutput both1 = some o → o.source = 0)) ∧
    (∀ k ∈ [1, 2, 3], let x : RingEdge := { setA := k == 1, setB := k == 2, shoeA := some shoe1, shoeB := some shoe1, newest := some shoe1 };
      (chooseOutput x).map (·.source) = some k) ∧
    (let s := modEdge up .a (fun x => { x with
        setA := true, setB := true, relA := some release1, relB := some release1, adopted := true });
      (edge s .a).adopted = true ∧ (chooseOutput (edge s .a)).isSome = true ∧ mayTransmit s .a = true ∧ s.iod.inReset = false) ∧
    ((edge up .a).inReset = false ∧ (edge up .a).adopted = false) ∧
    (let s := modEdge (modIsl up .sia (fun x => { x with immDue := true })) .b (fun x => { x with newest := some shoe1, adopted := true });
      (isl s .sia).immDue = true ∧ (edge s .b).newest = some shoe1 ∧ reaches s .sia .b = true ∧ (edge s .b).adopted = true ∧
      mayTransmit s .b = true) := by
  refine ⟨by decide +kernel, by decide +kernel, by decide +kernel, ⟨by decide +kernel, ?_⟩, by decide +kernel, by decide +kernel,
    by decide +kernel, by decide +kernel⟩
  intro o h
  have h1 : (chooseOutput both1).all (fun o => o.source == 0) = true := by decide +kernel
  rw [h] at h1
  simpa using h1

def rstPk (p : Port) (op unit_ : Nat) : Pkt := pk p 9 3 0 [toW (at_ op 28 + at_ unit_ 16 + 0xFF00)]

theorem met_LossesAndResets :
    (dieInSvc on 0 = true ∧ (queue on 0).st ≠ 0 ∧ (queue on 0).base / 2 ^ 34 = 0 ∧ (page (holds page1) 3).st ≠ 0 ∧
      (page (holds page1) 3).die = 0) ∧
    (up.iod.inReset = false ∧ anyIsl up = true ∧ (edge up .b).inReset = false) ∧
    (∀ b, let s := modIsl up .sia (fun x => { x with linkUp := b }); (edge s .b).inReset = false ∧ anyIsl s = true ∧
      ((isl s (islOf .a)).linkUp = true ∧ (isl s (islOf .a)).inReset = false ∧ mayOrder (isl s (otherIsl (islOf .a))) = true ↔ b = true)) ∧
    (edge State.reset .a).inReset = true ∧
    ((0 : DieId) ≠ 11 ∧ (0x801 : BitVec 12).getLsbD (0 : DieId).val = true ∧ (0x801 : BitVec 12).getLsbD (11 : DieId).val = true) ∧
    (let s := setMpl up (fun m => { m with mismStages := [100, 99, 98] }); 3 ≤ histCount 1000 s.stg.stage s.mpl.mismStages ∧
      anyIsl s = true) ∧
    (Ready (got up (rstPk .host 0 11)) .host 9 3 1 (rstPk .host 0 11) ∧ rstBad (rstPk .host 0 11) = false ∧
      rstOp (rstPk .host 0 11) = 0 ∧ rstEng (rstPk .host 0 11) = 0xFF ∧ unitOf (rstUnit (rstPk .host 0 11)) = some (.die 11) ∧
      (bankGet 0 up.clk.gates 11).testBit 0 = false) ∧
    (∀ e ∈ [(0, 12), (0, 17), (0, 255), (1, 3), (2, 3)], let k := rstPk .host e.1 e.2;
      Ready (got up k) .host 9 3 1 k ∧ rstBad k = false ∧ rstOp k = e.1 ∧ rstUnit k = e.2) ∧
    (∀ u ∈ [17, 255], ∀ o ∈ [0, 1, 2], let k := rstPk (.mgt .sib) o u;
      Ready (got up k) (.mgt .sib) 9 3 1 k ∧ rstBad k = false ∧ rstOp k = o ∧ unitOf (rstUnit k) = none) ∧
    (let k := pk (.mgt .sib) 9 3 0 [0x000B0700];
      Ready (got up k) (.mgt .sib) 9 3 1 k ∧ rstBad k = false ∧ rstOp k = 0 ∧ rstUnit k = dieOf (95 : EngId) ∧ rstEng k = (95 : EngId).val % 8 ∧
      iodReady up = true ∧ (bankGet 0 up.clk.gates (rstUnit k)).testBit 0 = false) ∧
    (∀ s ∈ [up, modDie up 11 (fun d => { d with inService := false })], ∀ op ∈ [1, 2],
      Ready (got s (rstPk (.mgt .sia) op 11)) (.mgt .sia) 9 3 1 (rstPk (.mgt .sia) op 11) ∧ rstBad (rstPk (.mgt .sia) op 11) = false ∧
      rstOp (rstPk (.mgt .sia) op 11) = op ∧ rstEng (rstPk (.mgt .sia) op 11) = 0xFF ∧
      unitOf (rstUnit (rstPk (.mgt .sia) op 11)) = some (.die 11) ∧ iodReady s = true) ∧
    (let s := modDie up 0 (fun d => { d with thermal := true, tjLogic := 1000, tjHbm := 1000 });
      (die s 0).thermal = true ∧ (die s 0).tjLogic < 1440 ∧ (die s 0).tjHbm < 1360 ∧ s.iod.sudden = false) ∧
    (let s := { up with iod := { up.iod with thermal := true, tj := 1000 } }; s.iod.thermal = true ∧ s.iod.tj < 1440) := by
  refine ⟨by decide, by decide, fun b => by cases b <;> decide, by decide, by decide, by decide, ⟨ready_got (by decide) rfl, by decide⟩,
    fun e h => ⟨ready_got ?_ rfl, ?_⟩, fun u hu o ho => ⟨ready_got ?_ rfl, ?_⟩, ⟨ready_got (by decide) rfl, by decide⟩, ?_, by decide,
    by decide⟩
  · revert e; decide
  · revert e; decide
  · revert u o; decide
  · revert u o; decide
  intro s hs op ho
  simp only [List.mem_cons, List.not_mem_nil, or_false] at hs ho
  rcases hs with rfl | rfl <;> rcases ho with rfl | rfl <;> exact ⟨ready_got (by decide) rfl, by decide⟩

/-! The fusion engine, the check-value units, registers, temperature, clocks. -/

/-- The fusion engine is ready, its firewall open. -/
def fusing (f : Fus → Fus) : State := setFus { on with fws := [(23, openFw), (46, openFw)] } (fun x => f { x with ready := true })

def round1 : Round := { start := 0, tref := 5, tick := 0, stage := 100, used := [], copying := [], clear := false }
def fusBad : List Word := List.replicate 27 0

theorem met_FusionRounds :
    (fwAllows (fusing id) (.iod 23) 0x10 (0x80 * (0 : Fin 20).val) 4 .write = true ∧ (fusing id).fus.ready = true ∧
      streamWriter (fusing id) (0 : Fin 20).val 0x10 = true ∧
      fwAllows (fusing id) (.iod 23) 0x10 (0x80 * (19 : Fin 20).val) 4 .write = true ∧
      streamWriter (fusing id) (19 : Fin 20).val 0x10 = false) ∧
    (fusing (fun x => { x with held := [held1 0x10000] })).fus.held = [held1 0x10000] ∧
    (let s := fusing id;
      s.fus.ready = true ∧ s.fus.round = none ∧ s.stg.inlay = false ∧ (roundStart s).1 ≤ 2 ^ 40 ∧ s.fus.lastRound ≠ some s.stg.tick ∧
      s.fus.defCommit = none) ∧
    (fusing (fun x => { x with round := some round1 })).fus.round = some round1 ∧
    (let s := up; s.fus.round = none ∧ s.fus.defCommit = none ∧ fusCfgBad s s.fus.shadow = none) ∧
    fusCfgBad (fusing (fun x => { x with shadow := fusBad })) fusBad ≠ none ∧
    (let s := fusing (fun x => { x with defCommit := some fusBad });
      s.fus.defCommit = some fusBad ∧ s.fus.round = none ∧ fusBad.length = 27 ∧ s.fus.shadow.length = 27 ∧ s.fus.cfg.length = 27) := by
  decide +kernel

def fusPk : Pkt := hk 6 0 0 (State.reset.fus.cfg)

theorem met_FusionOpcodes :
    (Ready (got up fusPk) .host 6 0 27 fusPk ∧ fusCtx up fusPk = true ∧ fusCfgBad up (fusMask (parsFrom fusPk 0)) = none) ∧
    (∀ w ∈ [0x80000013, 0x13], Ready (got on (hk 6 1 1 [toW w])) .host 6 1 1 (hk 6 1 1 [toW w]) ∧ fusCtx on (hk 6 1 1 [toW w]) = true ∧
      fld (par (hk 6 1 1 [toW w]) 0) 30 5 = 0 ∧ fld (par (hk 6 1 1 [toW w]) 0) 4 0 = (19 : Fin 20).val) ∧
    ((fusing (fun x => { x with hmaskReq := 0x80000 })).fus.hmaskReq.getLsbD (19 : Fin 20).val = true ∧
      on.fus.hmaskReq.getLsbD (19 : Fin 20).val = false) ∧
    (let s := fusing (fun x => { x with anyPub := true, report := [7] });
      Ready (got s (hk 6 2 1 [1023, 1])) .host 6 2 2 (hk 6 2 1 [1023, 1]) ∧ Ready (got s (hk 6 3 1 [])) .host 6 3 0 (hk 6 3 1 []) ∧
      s.fus.anyPub = true ∧ s.fus.report ≠ []) ∧
    (Ready (got on (hk 6 4 1 [])) .host 6 4 0 (hk 6 4 1 []) ∧ fusCtx on (hk 6 4 1 []) = true) ∧
    (let s := modCtx on 2 (fun c => { c with exists_ := true });
      Ready (got s (hk 6 4 2 [])) .host 6 4 0 (hk 6 4 2 []) ∧ fusCtx s (hk 6 4 2 []) = false) := by
  refine ⟨⟨ready_got (by decide) rfl, by decide +kernel⟩, fun w h => ⟨ready_got ?_ rfl, ?_⟩, by decide,
    ⟨ready_got (by decide) rfl, ready_got (by decide) rfl, by decide⟩, ⟨ready_got (by decide) rfl, by decide⟩,
    ready_got (by decide) rfl, by decide⟩
  · revert w; decide
  · revert w; decide

/-- Unit 3 is context 1's. -/
def unit3 (f : Cvu → Cvu) : State := { on with cvus := [(3, f { owner := 1 })] }
def crcPk : Pkt := hk 8 0 1 [3, 0x720, 0x1EDC6F41, 0, 0xFFFFFFFF, 0]

theorem met_CheckValueUnits :
    (cvuOk (cvu (unit3 id) 3) = true ∧ (cvu (unit3 id) 3).owner = 1 ∧ (cvu (unit3 id) 3).opened = false) ∧
    (cvuOk (cvu (unit3 (fun c => { c with cfg := 7 })) 3) = false) ∧
    (Ready (got (unit3 id) crcPk) .host 8 0 6 crcPk ∧ parN crcPk 0 ≤ 63 ∧ cvuCfgBad crcPk = none) ∧
    (Ready (got (unit3 id) (hk 8 1 1 [3, 5, 0, 0])) .host 8 1 (2 + cdiv 5 4) (hk 8 1 1 [3, 5, 0, 0])) ∧
    (∀ w ∈ [3, 0x80000003], Ready (got (unit3 id) (hk 8 2 1 [toW w])) .host 8 2 1 (hk 8 2 1 [toW w]) ∧
      fld (par (hk 8 2 1 [toW w]) 0) 30 6 = 0 ∧ fld (par (hk 8 2 1 [toW w]) 0) 5 0 = 3) ∧
    (∀ w ∈ [0, 0x100, 0x200, 0x300], Ready (got (unit3 (fun c => { c with send := w == 0x300 })) (hk 8 3 1 [toW (w + 3), 0])) .host 8 3 2
        (hk 8 3 1 [toW (w + 3), 0]) ∧ fld (par (hk 8 3 1 [toW (w + 3), 0]) 0) 5 0 = 3 ∧ par (hk 8 3 1 [toW (w + 3), 0]) 0 = toW (w + 3)) ∧
    (let s := unit3 (fun c => { c with owner := 2 });
      Ready (got s crcPk) .host 8 0 6 crcPk ∧ Ready (got s (hk 8 2 1 [3])) .host 8 2 1 (hk 8 2 1 [3]) ∧ (cvu s 3).owner ≠ 1) := by
  refine ⟨by decide, by decide, ⟨ready_got (by decide) rfl, by decide⟩, ready_got (by decide) rfl, fun w h => ⟨ready_got ?_ rfl, ?_⟩,
    fun w h => ⟨ready_got ?_ rfl, ?_⟩, ready_got (by decide) rfl, ready_got (by decide) rfl, by decide⟩
  · revert w; decide
  · revert w; decide
  · revert w; decide
  · revert w; decide

theorem met_RegisterFields :
    (∀ p ∈ [.stage, .teBusy 95, .fwlLast (.iod 19), .fwlLast (.die 11 14), .fwlLast (.island .sib 6)], opened on (pairPlace p).1 = true) ∧
    (opened on (.die 11 9) = true ∧ opened on (teTarget 95) = true) ∧
    (∀ g ∈ [(pairPlace (.mctErr 3)).1, .die 3 9, teTarget 31], opened State.reset g = false) ∧
    (∃ t, exec (.latchedLoRead (.teBusy 0)) on = .next t) ∧ teBusy (eng up 0) = false ∧ teBusy (eng (modEng up 0 (fun e => { e with st := 2 })) 0) = true :=
  ⟨by decide, by decide, by decide, ⟨_, rfl⟩, by decide, by decide⟩

/-- The block of the page manager on the fabric, with its firewall open. -/
def kpmAt : BitVec 48 := 0xF000500000
def regs : State := { on with fws := [(5, openFw)] }

theorem met_RegisterWrites :
    ((atSpot (grants regs 0x10 kpmAt.toNat 4 .write (livSource 0x10))).map (·.place) = some (.reg (.iod 5))) ∧
    (∃ st u, grants on 0x10 kpmAt.toNat 4 .write (livSource 0x10) = .refused st u) ∧
    (∀ o ∈ [0, 8, 0x3C], let off : Nat := 0x100 + 0x40 * (63 : Fin 64).val + o; off < 16384 ∧ (o = 0 ∨ o = 4 ∨ o = 8 ∨ 0x20 ≤ o ∧ o < 0x40) ∧ off % 4 = 0) ∧
    (gated on (fwlBlock (.die 11 8)) = false ∧
      let s := { on with clk := { on.clk with gates := [(11, 1)] } };
      gated s (fwlBlock (.die 11 8)) = true ∧ wayOpen s (wayOf s (livSource 0x0A) (fwlBlock (.die 11 8))) = true) ∧
    wayOpen on (wayOf on (livSource 0x0A) (fwlBlock (.die 11 8))) = true ∧
    wayOpen on (wayOf on (livSource 0x10) (fwlBlock (.die 11 8))) = true ∧
    wayOpen State.reset (wayOf State.reset (livSource 0x0B) (fwlBlock (.die 11 8))) = false ∧
    (∀ l ∈ [false, true], ∀ e ∈ [false, true],
      let s := { on with fws := [(fwNum (.die 11 8), { regions := [(63, { base := 0, size := 1, lock := l, en := e })] })] };
      (bankGet defRegion (fwl s (.die 11 8)).regions (63 : Fin 64).val).lock = l ∧
      (bankGet defRegion (fwl s (.die 11 8)).regions (63 : Fin 64).val).en = e) := by
  refine ⟨by decide +kernel, ?_, by decide, by decide +kernel, by decide +kernel, by decide +kernel, by decide +kernel, by decide +kernel⟩
  have h : (atSpot (grants on 0x10 kpmAt.toNat 4 .write (livSource 0x10))).isNone = true := by decide +kernel
  revert h
  cases grants on 0x10 kpmAt.toNat 4 .write (livSource 0x10) with
  | spot p u => intro h; cases h
  | refused st u => exact fun _ => ⟨st, u, rfl⟩

def cool (f : Island → Island) : State := modIsl on .sia f
def sample1 (flow : Nat) : LidSample := { inlet := 400, outlet := 480, dp := 100, flow := flow }

theorem met_ThermalProtection :
    ((isl on .sia).inReset = false ∧ (isl on .sia).boots = true ∧ sampleValid (sample1 25) = true ∧
      sampleValid { sample1 25 with dp := -1 } = false) ∧
    (sampleValid (sample1 24) = true ∧ (isl (cool (fun x => { x with lowFlow := 2 })) .sia).lowFlow = 2 ∧
      (isl on .sia).setinv = false ∧ on.iod.sudden = false) ∧
    slopeOf (isl on .sia).outs ≤ 1024 ∧
    ((die on 11).inReset = false ∧ on.iod.inReset = false ∧ gateClosed on.clk 11 0 = false) ∧
    (calmNow (isl (cool (fun x => { x with calm := 10000, flow := 199 })) .sia) = false ∧
      inSvc (isl (cool (fun x => { x with calm := 10000, flow := 199 })) .sia) = true ∧ (isl on .sia).setinv = false) ∧
    (let s := { on with sia := { on.sia with setinv := true }, sib := { on.sib with setinv := true } };
      max s.sia.seen s.sib.seen < moduleLevel s) ∧
    (let s := { cool (fun x => { x with calm := 10000, flow := 200, slope := 255 }) with iod := { on.iod with sudden := true }, sib := { on.sib with setinv := true } };
      s.iod.sudden = true ∧ inSvc (isl s .sia) = true ∧ (isl s .sia).setinv = false ∧
      ∀ i, inSvc (isl s i) = true → (isl s i).setinv = false → calmNow (isl s i) = true) ∧
    Ready (got up (hk 11 0 0 [])) .host 11 0 0 (hk 11 0 0 []) ∧ Ready (got up (hk 11 2 0 [])) .host 11 2 0 (hk 11 2 0 []) ∧
    (let k := hk 11 1 0 [0x32303030, 0x28404040, 0x20505050];
      Ready (got up k) .host 11 1 3 k ∧ lvlBad (par k 0) 1 = false ∧ lvlBad (par k 1) 2 = false ∧ lvlBad (par k 2) 3 = false ∧
      lvlStep (par k 0) (par k 1) = true ∧ lvlStep (par k 1) (par k 2) = true ∧ anyIsl up = true) ∧
    (Ready (got up (hk 11 1 0 [0, 0, 0])) .host 11 1 3 (hk 11 1 0 [0, 0, 0]) ∧ lvlBad (par (hk 11 1 0 [0, 0, 0]) 0) 1 = true) := by
  refine ⟨by decide, by decide, by decide, by decide, by decide, by decide, ⟨by decide, by decide, by decide, fun i => ?_⟩, ready_got (by decide) rfl,
    ready_got (by decide) rfl, ⟨ready_got (by decide) rfl, by decide⟩, ready_got (by decide) rfl, by decide⟩
  cases i <;> decide

/-- A closed leaf of die 3's clock group. -/
def gated : State := { up with clk := { up.clk with gates := [(3, 2)] } }

theorem met_ClocksAndGates :
    (srcReady up.clk .xref = true ∧ srcReady up.clk .rec0 = false ∧ ({ up with iod := { up.iod with straps := 0 } } : State).iod.straps.getLsbD 0 = false ∧ srcReady State.reset.clk .xref = false) ∧
    (Ready (got up (hk 9 0 0 [])) .host 9 0 0 (hk 9 0 0 [])) ∧
    (∀ c ∈ [0, 2], Ready (got up (hk 9 1 0 [toW (at_ c 16 + 0x1FFF)])) .host 9 1 1 (hk 9 1 0 [toW (at_ c 16 + 0x1FFF)])) ∧
    (fld (par (hk 9 1 0 [0x21FFF]) 0) 31 18 = 0 ∧ fld (par (hk 9 1 0 [0x21FFF]) 0) 15 13 = 0 ∧
      fld (par (hk 9 1 0 [0x21FFF]) 0) 17 16 = srcCode .xref ∧ fld (par (hk 9 1 0 [0x01FFF]) 0) 17 16 = srcCode .rec0 ∧
      fld (par (hk 9 1 0 [0x21FFF]) 0) 12 0 ≠ 0) ∧
    (let k := hk 9 2 0 [0x80000301];
      Ready (got gated k) .host 9 2 1 k ∧ gateBad k = false ∧ isOpen k = true ∧ gateClosed gated.clk (gateGroup k) 0 = false ∧
      gateClosed gated.clk (gateGroup k) (gateLeaf k) = true) ∧
    (∀ h, let k := hk 9 2 0 [0x80000300];
      let s := { modDie up 3 (fun d => { d with thermal := h }) with clk := { up.clk with gates := [(3, 1)] } };
      Ready (got s k) .host 9 2 1 k ∧ gateBad k = false ∧ isOpen k = true ∧ gateLeaf k = 0 ∧ gateClosed s.clk (gateGroup k) 0 = true ∧
      dieHeld s (gateGroup k) = h) ∧
    (let k := hk 9 2 0 [0x0C05];
      Ready (got up k) .host 9 2 1 k ∧ gateBad k = false ∧ isOpen k = false ∧ gateInUse up (gateGroup k) (gateLeaf k) = true) ∧
    (let k := hk 9 2 0 [0x0C06];
      Ready (got up k) .host 9 2 1 k ∧ gateBad k = false ∧ isOpen k = false ∧ gateInUse up (gateGroup k) (gateLeaf k) = false ∧
      gateClosed up.clk (gateGroup k) (gateLeaf k) = false) := by
  refine ⟨by decide, ready_got (by decide) rfl, fun c h => ready_got ?_ rfl, by decide, ⟨ready_got (by decide) rfl, by decide⟩,
    fun h => ?_, ⟨ready_got (by decide) rfl, by decide⟩, ready_got (by decide) rfl, by decide⟩
  case refine_2 => cases h <;> exact ⟨ready_got (by decide) rfl, by decide⟩
  revert c
  decide

/-! Ports, trust, logs. -/

def moving (goal : Bool) : State := modEdge up .a (fun x => { x with bypass := 2, goal := goal })
def frame1 (etype : BitVec 16) (dest : BitVec 48) (bs : List Byte) : Frame := { dest := dest, source := 5, etype := etype, payload := bs, fcsOk := true }
/-- A CLK_STATUS packet in a frame to SIA. -/
def mgtWords : List Word := sealW [0x9, 0, 0, 0]
def mgtFrame : Frame := frame1 0x88B6 (portAddr 0 0x58 0) (wordsBytes mgtWords)
/-- SIA's record with a serial number of 0. -/
def serial0 : State := modIsl up .sia (fun x => { x with flash := { cells := [], fill := .byte 0 } })
def loading : State := { up with tt := { up.tt with st := .loading, len := 64 } }

theorem met_Ports :
    (let k := hk 9 4 0 [0x80000000];
      Ready (got up k) .host 9 4 1 k ∧ byBad k = false ∧ byPort k = .a ∧ byClose k = true ∧ (edge up .a).bypass ≠ 1 ∧
      (edge up .b).bypass ≠ 1 ∧ (edge up .b).bypass ≠ 2 ∧ (edge up .b).held = false) ∧
    (let s := modEdge up .b (fun x => { x with bypass := 1 }); let k := hk 9 4 0 [0x80000000];
      Ready (got s k) .host 9 4 1 k ∧ (edge s .b).bypass = 1 ∧ byClose (hk 9 4 0 [0x80000001]) = true ∧
      byPort (hk 9 4 0 [0x80000001]) = .b) ∧
    (Ready (got up (hk 9 4 0 [0])) .host 9 4 1 (hk 9 4 0 [0]) ∧ byBad (hk 9 4 0 [0]) = false ∧ (edge up .a).bypass = 0) ∧
    (∀ c, let s := modEdge up .a (fun x => if c then { x with bypass := 1 } else { x with linkup := false });
      (edge s .a).inReset = false ∧ tbit (nth (edge s .a).cfg 3) 31 = false ∧ (edge s .a).rxlock = true ∧ (edge s .a).bypass = b2n c ∧
      (c = false → (edge s .a).linkup = false)) ∧
    (servingIsl up .host = some .sia ∧ up.iod.pceUp = true) ∧
    (let s := modEdge up .a (fun x => { x with bypass := 1 }); let k := hk 9 4 0 [0];
      Ready (got s k) .host 9 4 1 k ∧ byClose k = false ∧ (edge s .a).bypass ≠ 0 ∧ trained (edge s .a) = true ∧
      s.iod.testMode = false ∧ (edge s .a).inReset = false) ∧
    (∀ g, (edge (moving g) .a).bypass = 2 ∧ (moving g).dis.defers = []) ∧
    ((edge up .a).bypass = 0 ∧ (edge up .a).inReset = false ∧ (edge up .a).linkup = true ∧
      (5 : BitVec 48) ≠ portAddr (knownSerial up .host) 0x59 (edgeNo .a)) ∧
    (let s := { modEdge up .a (fun x => { x with linkup := false }) with dis := { defers := [{ pkt := hk 9 4 0 [0], what := .bypass .a false }] } };
      (edge s .a).bypass = 0 ∧ (edge s .a).linkup = false ∧ s.dis.defers.any (fun d => d.what == .bypass .a false) = true) ∧
    (let s := serial0; let q : Pkt := { port := .mgt .sia, words := bytesWords (payloadPkt mgtFrame.payload) };
      (mgt s .sia).up = true ∧ inSvc (isl s .sia) = true ∧ mgtFrame.fcsOk = true ∧ mgtFrame.etype = 0x88B6 ∧
      mgtFrame.dest = portAddr (recordSerial (isl s .sia)) 0x58 (islNo .sia) ∧ (mgt s .sia).inbound = [] ∧
      aliveSettled s (.mgt .sia) = true ∧ 20 ≤ mgtFrame.payload.length ∧ (payloadPkt mgtFrame.payload).length % 4 = 0 ∧
      5 ≤ q.words.length ∧ q.words.length ≤ 16384 ∧ sealOk q.words = true ∧ pktLen q + 5 = q.words.length ∧
      isAliveSync q = false ∧ (mgt s .sia).alive.toNat = pktAlive q) ∧
    (frame1 0x0800 0 []).etype ≠ 0x88B6 ∧
    (loading.iod.pceUp = true ∧ loading.iod.inReset = false ∧ loading.tt.st = .loading ∧ 60 + [(1 : Byte), 2, 3, 4].length ≤ loading.tt.len ∧
      loadPlace loading = some (0, 0, 2 ^ 32) ∧ (mct loading 0).flaws = [] ∧ (mct loading 0).writes = [] ∧ up.tt.st ≠ .loading) ∧
    badIn (mct up 0) (0 + 0x100) 64 = none ∧
    (gateClosed up.clk 12 6 = false ∧ gateClosed up.clk 12 7 = false ∧ gateClosed up.clk 12 5 = false ∧
      up.iod.straps.getLsbD 2 = true ∧ pcieCode (4 : Fin 8).val (5 : Fin 8).val = true) ∧
    (let s := { up with iod := { up.iod with ethUp := 8, aphUp := 0x8000 } };
      s.iod.ethUp.getLsbD (3 : Fin 4).val = true ∧ s.iod.aphUp.getLsbD (15 : Fin 16).val = true) ∧
    (let s := { on with iod := { on.iod with aphUp := 1 } };
      s.tt.active = some tt1 ∧ tt1.body.landing.find? (fun x => x.stream == 0) = some { stream := 0, die := 0, base := 0x4000, size := 4096 } ∧
      iodReady s = true ∧ streamUp s (0 : Fin 20).val = true ∧ dieInSvc s 0 = true ∧ (mct s 0).flaws = [] ∧ (mct s 0).writes = []) := by
  refine ⟨⟨ready_got (by decide) rfl, by decide⟩, ⟨ready_got (by decide) rfl, by decide⟩, ⟨ready_got (by decide) rfl, by decide⟩,
    fun c => by cases c <;> decide, by decide, ⟨ready_got (by decide) rfl, by decide⟩, fun g => by cases g <;> decide, by decide, by decide, by decide +kernel, by decide, by decide, by decide, by decide, by decide,
    by decide⟩

/-! Trust. -/

/-- Both islands with that flash, a nonce, and a load written whole. -/
def keyed (t done : Nat) : State :=
  { up with
    sia := { upIsl with flash := flash1 t, nonce := some (160 * 2 ^ 32) }
    sib := { upIsl with flash := flash1 t, nonce := some (160 * 2 ^ 32) }
    iod := { up.iod with
      load := some { target := if t = 1 then 0 else 2, len := 160, version := 1, done := done } } }

def tokenPk : Pkt := hk 10 4 0 (bytesWords (message1 2 ++ sig1 (hash1 2)))

theorem test_token : tokenRefusal (took (got (keyed 2 160) tokenPk) .host tokenPk) tokenPk = none := by decide +kernel
theorem test_image_island : imageOk (isl (keyed 1 160) .sia) 0 (loadSlot (keyed 1 160) 0) 160 = true := by decide +kernel
theorem test_image_iod : ∀ i, imageOk (isl (keyed 2 160) i) 2 (loadSlot (keyed 2 160) 2) 160 = true := by
  have h : imageOk (keyed 2 160).sia 2 (loadSlot (keyed 2 160) 2) 160 = true := by decide +kernel
  intro i
  cases i <;> exact h

theorem met_Trust :
    (Ready (got (keyed 2 160) tokenPk) .host 10 4 40 tokenPk) ∧
    (let k := hk 10 4 0 (List.replicate 40 0); Ready (got up k) .host 10 4 40 k ∧ tokenRefusal (took (got up k) .host k) k ≠ none) ∧
    (let k := hk 10 0 0 [1, 2, 3, 4]; Ready (got up k) .host 10 0 4 k ∧ servingIsl up .host = some .sia) ∧
    (let k := hk 10 1 0 [2, 160, 1];
      Ready (got up k) .host 10 1 3 k ∧ badTarget k = false ∧ fld (par k 0) 1 0 = 2 ∧ parN k 1 ≤ slotSize 2 ∧ minVersion up 2 ≤ parN k 2 ∧
      up.iod.load = none ∧ activating up = false ∧ onTrial up = false ∧ targetReady up 2 = true) ∧
    (let k := hk 10 2 0 [156, 4, 7]; let s := keyed 1 156;
      Ready (got s k) .host 10 2 (2 + 1) k ∧ parN k 1 = 4 * 1 ∧ s.iod.load = some { target := 0, len := 160, version := 1, done := 156 } ∧
      parN k 0 = 156 ∧ 156 + 4 * 1 ≤ 160) ∧
    (let k := hk 10 3 0 [0, 0, 0]; let s := keyed 1 160;
      Ready (got s k) .host 10 3 3 k ∧ badTarget k = false ∧ targetIsl 0 = .sia ∧ par64 k 1 = 0 ∧ (isl s .sib).st = 2 ∧
      s.iod.load = some { target := 0, len := 160, version := 1, done := 160 }) ∧
    imageOk (isl up .sia) 0 (loadSlot up 0) 160 = false ∧
    (let k := hk 10 3 0 [2, 102, 0]; let s := keyed 2 160;
      Ready (got s k) .host 10 3 3 k ∧ badTarget k = false ∧ fld (par k 0) 1 0 = 2 ∧ s.stg.stage + 2 ≤ par64 k 1 ∧
      s.iod.load = some { target := 2, len := 160, version := 1, done := 160 } ∧ inSvc s.sia = true ∧ inSvc s.sib = true) ∧
    (let s := { up with iod := { up.iod with fwArm := some 100 } }; s.iod.fwArm = some 100 ∧ 100 ≤ s.stg.stage ∧ iodReady s = true) ∧
    (let s := { up with stg := { up.stg with stage := 1100 }, iod := { up.iod with fw := { trial := some 100 } }, sia := { upIsl with fw := { trial := some 100 } } };
      trialOver s.stg.stage s.iod.fw = true ∧ trialOver (knownStage s (isl s .sia)) (isl s .sia).fw = true) := by
  refine ⟨ready_got (by decide +kernel) rfl, ⟨ready_got (by decide) rfl, by decide⟩, ⟨ready_got (by decide) rfl, by decide⟩,
    ⟨ready_got (by decide) rfl, by decide⟩, ⟨ready_got (by decide +kernel) rfl, by decide +kernel⟩,
    ⟨ready_got (by decide +kernel) rfl, by decide +kernel⟩, by decide +kernel, ⟨ready_got (by decide +kernel) rfl, by decide +kernel⟩,
    by decide, by decide⟩

def entry1 : Entry := { cls := 1 }
/-- SIA has an entry in its log, its logbook, on its way to both. -/
def noted : State :=
  modIsl up .sia (fun x => { x with notices := [(0, entry1)], pendBook := [(0, entry1)], flog := [(0, entry1)], logbook := [(0, entry1)] })

theorem met_LogsAndFlash :
    ((isl noted .sia).notices = (0, entry1) :: [] ∧ inSvc (isl noted .sia) = true ∧ (isl noted .sia).pendBook = (0, entry1) :: []) ∧
    (decisionDue (modDie up 3 (fun d => { d with decision := true })) 3 false none = true ∧
      decisionDue (modEng up 31 (fun e => { e with wdrawPerm := true })) 3 false (some 7) = true ∧
      decisionDue (modDie up 3 (fun d => { d with scfailed := true })) 3 true none = true) ∧
    (let k := hk 12 0 0 [0, 0, 2]; Ready (got noted k) .host 12 0 3 k ∧ parN k 1 < (isl noted .sia).flog.length ∧ fld (par k 0) 30 0 = 0 ∧ islBit (par k 0) = .sia) ∧
    (let k := hk 12 5 0 [0x80000000, 46]; Ready (got noted k) .host 12 5 2 k ∧ fld (par k 0) 30 0 = 0 ∧ islBit (par k 0) = .sib ∧
      fld (par k 1) 31 28 = 0 ∧ fld (par k 1) 15 10 = 0 ∧ 1 ≤ fld (par k 1) 9 0 ∧ inSvc (isl noted .sib) = true) ∧
    (∀ o ∈ [1, 2, 3], Ready (got up (hk 12 o 0 [])) .host 12 o 0 (hk 12 o 0 [])) ∧
    (let k := hk 12 4 0 [1, 65536, 0]; Ready (got up k) .host 12 4 3 k ∧ flashBad k = none ∧ fld (par k 0) 1 0 = 1 ∧
      islBit (par k 0) = .sia ∧ 65536 ≤ parN k 1 ∧ (isl up .sia).flashOp = none) ∧
    (let k := hk 12 4 0 [1, 0, 0]; Ready (got up k) .host 12 4 3 k ∧ flashBad k = none ∧ parN k 1 < 65536) ∧
    (let k := hk 12 4 0 [2, 65536, 4, 7]; Ready (got up k) .host 12 4 (3 + 1) k ∧ parN k 2 = 4 * 1 ∧ flashBad k = none ∧
      fld (par k 0) 1 0 = 2) ∧
    (let s := modIsl up .sia (fun x => { x with flashOp := some (2, 0x3810000, [1, 2, 3, 4]) });
      (isl s .sia).flashOp = some (2, 0x3810000, [1, 2, 3, 4])) := by
  refine ⟨by decide, by decide, ⟨ready_got (by decide) rfl, by decide⟩, ⟨ready_got (by decide) rfl, by decide⟩,
    fun o h => ready_got ?_ rfl, ⟨ready_got (by decide) rfl, by decide⟩, ⟨ready_got (by decide) rfl, by decide⟩,
    ⟨ready_got (by decide) rfl, by decide⟩, by decide⟩
  revert o
  decide

/-! Worked examples of the spec. -/

-- 01, Table 1-12, Table 1-7 to 1-9 and the example after R38
theorem test_topology : (List.range 12).map lnkTopo = [0x10001600, 0x10012001, 0x10023102, 0x10034203, 0x10045304, 0x1005B405,
  0x100B0706, 0x100A6807, 0x10097908, 0x10088A09, 0x10079B0A, 0x1006A50B] := by decide
theorem test_engine_number : teId 59 = 0x733B ∧ dieOf 90 = 11 ∧ 90 % 8 = 2 := by decide
theorem test_addresses :
    decodeAddr 0x1D23456780 = some { place := .hbm 7, tgt := .die 7 14, off := 0x123456780, size := 2 ^ 34 } ∧
    decodeAddr 0xF107300000 = some { place := .reg (.die 7 3), tgt := .die 7 3, off := 0, size := 0x100000 } ∧
    decodeAddr 0xF10C000000 = none := by decide

-- 03, R93: the four command bytes of HT_PUT with 17 words
theorem test_transaction : txOf 0x1E 0xE1 17 0 = some (0x1E, 17) ∧ txOf 0x1E 0xE0 17 0 = none := by decide

-- 05, Table 5-10, the block after it and the integer epilogue
def third : Machine.Num := Machine.Num.fl (f32Of 0x3E99999A)
theorem test_conversions :
    [5, 6, 3, 4, 9, 1].map (fun f => (numCode f false third).1) = [0x34CD, 0x3E9A, 0x2A, 0x35, 0x64, 0] := by decide +kernel
theorem test_block :
    ((numsRow 8 false (([0x3F666666, 0xBE9EB852, 0x3D4CCCCD, 0x3E000000].map (fun w => Machine.Num.fl (f32Of w))) ++
      List.replicate 28 (.fl fzero))).1).take 3 = [0x7D, 0x94, 0] := by decide +kernel
def epi1 (trunc : Bool) : Epi := {
  integer := true, bias := some [.int (-1200), .int 0], scale := none, shift := 7, trunc := trunc, act := 1, lo := 0, hi := 0, fo := 1 }
theorem test_epilogue :
    (numsRow 1 false [(epilogue (epi1 false) 0 (.int 37519)).1, (epilogue (epi1 false) 1 (.int 1472)).1]) = ([127, 12], { sat := 1 }) ∧
    (numsRow 1 true [(epilogue (epi1 true) 0 (.int 37519)).1, (epilogue (epi1 true) 1 (.int 1472)).1]).1 = [127, 11] := by decide +kernel

-- 12, the example after R427
theorem test_address_map : mapOffset 0x204 0x123456780 = (22, 19, 2330, 28, 0) ∧ (bankOf 0x004 0x123456780).2 = 9 ∧
    bankOf 0x204 0x123457780 = (23, 19) := by decide

-- 13, Table 13-16's neighbourhood: pose 1 of the re-expressed drag shoe (R477)
theorem test_reexpress : rePose 26 0 0 25 { x := 140, y := 0, h := 0, v := 0, t := 125 } = { x := 114, y := 0, h := 0, v := 0, t := 100 } := by
  decide

-- 15, Table 15-13
def crcOf (cfg lo hi ilo ihi : Word) : Nat :=
  cvuRes (cvuFeed { cfg := cfg, polyLo := lo, polyHi := hi, initLo := ilo, initHi := ihi } [0x31, 0x32, 0x33, 0x34, 0x35, 0x36, 0x37, 0x38, 0x39])
theorem test_crc :
    crcOf 0x720 0x1EDC6F41 0 0xFFFFFFFF 0 = 0xE3069283 ∧ crcOf 0x720 0x04C11DB7 0 0xFFFFFFFF 0 = 0xCBF43926 ∧
    crcOf 0x010 0x1021 0 0xFFFF 0 = 0x29B1 ∧
    crcOf 0x740 0xA9EA3693 0x42F0E1EB 0xFFFFFFFF 0xFFFFFFFF = 0x995DC9BBDF1939FA := by decide +kernel

/-! Witnesses of further clauses. -/

def place2 : Placement := { place1 with regions := [{ die := 3, base := 64, len := 2 }] }
def moving2 : State :=
  { on with
    tt := { on.tt with active := some { tt1 with body := { body1 with relay := List.replicate 12 place2, loss := List.replicate 12 place2 } } }
    qmg := { on.qmg with moveRun := true } }

theorem met_CutoffAndMoves_region :
    moving2.qmg.moveRun = true ∧ placement moving2 = some place2 ∧
    ∀ r ∈ place2.regions, (mct moving2 r.die).flaws = [] ∧ (mct moving2 r.die).debt = [] ∧ (mct moving2 r.die).writes = [] ∧
      (mct moving2 r.die).compat = false := by decide +kernel

/-- An engine with a completion to report and a write of it in the stack's queue. -/
def owed1 : State :=
  modMct (completed done1) 0 (fun m => { m with writes := [{ port := .spine, livery := 0x10, off := 0, data := [1], eng := some 0 }] })

theorem met_EngineEvents_owes : (eng owed1 0).done = [done1] ∧ owes owed1 0 = true := by decide +kernel

/-- A vector operation of FP32 on 4 elements. -/
def vecF (sub : Nat) : List Word := desc [w0 8 sub 7 7 7, 9, 4, at_ 1 16, 2]

theorem met_VectorArithmetic_upset :
    (∀ sub ∈ [1, 2, 3, 4, 5], DescReady (ringed (vecF sub)) 0 8 (vecF sub) (took0 (vecF sub)) ∧ dSub (vecF sub) = sub ∧
      vecBinOk (vecF sub) = true ∧ vecInt (vecF sub) = false ∧ vecInt (vec1 sub) = true ∧ vCount (vecF sub) ≠ 0) := by
  intro sub h
  refine ⟨descReady ?_, ?_⟩ <;> revert sub h <;> decide +kernel

theorem met_OutputGate_report : (isl (gating 1 true trajs) .sia).linkUp = true ∧ on.fus.held = [] := by decide +kernel

theorem met_FusionRounds_store :
    let w : HeldWrite := { held1 0x10000 with eng := some 3 }
    (fusing (fun x => { x with held := [w] })).fus.held = [w] := by
  decide +kernel

/-! Witnesses of the gates (R562). -/

theorem met_PlannerConfiguration_gate : opened on (.iod 6) = true ∧ opened State.reset (.iod 6) = false := by decide

theorem met_MctCommit_gate :
    opened up (.die 0 8) = true ∧ commitOk up 0 = true ∧ opened State.reset (.die 0 8) = false ∧
    (let s := modMct up 0 (fun m => { m with mapSh := 0x30F }); opened s (.die 0 8) = true ∧ commitOk s 0 = false) := by decide

theorem met_FusionConfiguration_gate :
    opened on (.iod 7) = true ∧ opened State.reset (.iod 7) = false ∧ gateClosed (fusing id).clk 12 2 = false := by decide +kernel

theorem met_CheckValueUnits_gate :
    opened on (.iod 8) = true ∧ opened (unit3 id) (.iod 8) = true ∧ opened (unit3 (fun c => { c with cfg := 7 })) (.iod 8) = true := by decide +kernel

end Sys2Proof.Tests
end

/-! Proofs about packets: what a row makes of a packet that is ready at its port (03, Table 3-10). -/

namespace Sys2Proof.Proofs

open Sys2Proof.Machine Sys2Proof.Safety Sys2Proof.Laws

/-! The packets that wait at a port are the port's own: no other part of the state is written with them. -/

@[simp] theorem setWaiting_stg (s : State) (p : Port) (l : List Pkt) : (setWaiting s p l).stg = s.stg := by
  cases p <;> simp [setWaiting]
@[simp] theorem setWaiting_tt (s : State) (p : Port) (l : List Pkt) : (setWaiting s p l).tt = s.tt := by
  cases p <;> simp [setWaiting]
@[simp] theorem setWaiting_mpl (s : State) (p : Port) (l : List Pkt) : (setWaiting s p l).mpl = s.mpl := by
  cases p <;> simp [setWaiting]
@[simp] theorem setWaiting_fus (s : State) (p : Port) (l : List Pkt) : (setWaiting s p l).fus = s.fus := by
  cases p <;> simp [setWaiting]
@[simp] theorem setWaiting_dies (s : State) (p : Port) (l : List Pkt) : (setWaiting s p l).dies = s.dies := by
  cases p <;> simp [setWaiting]
@[simp] theorem setWaiting_engines (s : State) (p : Port) (l : List Pkt) : (setWaiting s p l).engines = s.engines := by
  cases p <;> simp [setWaiting]

/-- A ready packet is of the row whose class, opcode and selection it meets. -/
theorem ofRow_ready {s : State} {p : Port} {c op n : Nat} {k : Pkt} (h : Ready s p c op n k) {o : OpDef}
    (hc : o.form.cls = c) (ho : o.form.op = op) (hs : o.form.sel k = true) : ofRow o k = true := by
  simp [ofRow, h.cls, h.op, hc, ho, hs]

/-- Steps 6-9 of Table 3-10 let a ready packet pass. -/
theorem gate_ready {s : State} {p : Port} {c op n : Nat} {k : Pkt} (h : Ready s p c op n k) {o : OpDef}
    (hl : o.form.lenOk k = true) (hx : o.ctxOk = ctxKnown) : gate s o k = none := by
  have hd : (deviceWide (pktCls k) && decide (pktCtx k ≠ 0)) = false := by
    cases hw : deviceWide (pktCls k) with
    | false => rfl
    | true => simp [h.own (h.cls ▸ hw)]
  unfold gate
  rw [hl, h.head, hx, hd]
  simp only [ctxKnown, h.ctx, h.alone.port]
  cases p with
  | host => simp
  | mgt i =>
    obtain ⟨hm, h0⟩ := h.mgt (by simp)
    simp [h.cls, h.op, hm, h0]

/-- The packet that waits alone leaves nothing behind it. -/
theorem took_alone {s : State} {p : Port} {k : Pkt} (h : Alone s p k) : took s p k = setWaiting s p [] := by
  simp [took, h.only]

theorem setWaiting_self (s : State) (p : Port) : setWaiting s p (waiting s p) = s := by
  rcases p with _ | _ | _ <;> rfl

/-- A ready packet that its row answers, whatever waits beside it, draws that answer. -/
theorem onPort_answers {s t : State} {p : Port} {c op n : Nat} {k : Pkt} {o : OpDef} {st : Byte} {data : List Word}
    (h : Ready s p c op n k) (ho : ofRow o k = true) (hl : o.form.lenOk k = true) (hx : o.ctxOk = ctxKnown)
    (hr : ∀ l, o.run (setWaiting s p l) k = .answer st data (setWaiting t p l)) :
    onPort o p s = .next (answered p k st data (setWaiting t p [])) := by
  have hs := hr (waiting s p)
  rw [setWaiting_self] at hs
  rw [onPort_ready h o ho (gate_ready h hl hx) (by simp [hs]) (by simp [hs]), hr, afterPkt_answer, leave_alone h.alone.port]

/-- The reply to the last packet of a port leaves nothing to check or to answer. -/
theorem refuse_took_waiting {s : State} {p : Port} {k : Pkt} (h : Alone s p k) (st : Byte) (step idx : Nat) :
    waiting (refuse (took s p k) k st step 0 idx) p = [] ∧
    (match p with
      | .host => (refuse (took s p k) k st step 0 idx).hpt.inbound
      | .mgt i => (mgt (refuse (took s p k) k st step 0 idx) i).inbound) = [] := by
  have hf := h.free
  rw [took_alone h]
  cases p with
  | host =>
    simp only at hf
    simp [refuse, reply_host _ _ _ _ h.port, waiting, setWaiting, hf]
  | mgt i =>
    simp only at hf
    rw [refuse, reply_mgt _ _ _ _ i h.port]
    cases i <;> exact ⟨rfl, hf⟩

/-- Steps 5-12 for a packet that waits alone and that its row refuses: the refusal is drawn at once. -/
theorem checkAll_refuses {row : Pkt → Option OpDef} {s : State} {p : Port} {k : Pkt} {o : OpDef} {st : Byte} {step idx : Nat}
    (h : Alone s p k) (hr : row k = some o) (hg : gate s o k = none) (hn : o.run s k = .refuse st step idx) :
    checkAll row s p = refused p k st step idx (took s p k) := by
  obtain rfl := h.port
  have hk : checkPkt row s k = setWaiting s k.port [{ k with fate := .refused st step 0 idx }] := by
    simp [checkPkt, h.fate, hr, hg, hn, settle, h.only]
  have hf : flush (setWaiting s k.port [{ k with fate := .refused st step 0 idx }]) k.port = refuse (took s k.port k) k st step 0 idx := by
    rw [took_alone h]
    unfold flush
    rw [waiting_setWaiting]
    simp only [forAll, List.foldl, flushOne, waiting_setWaiting]
    simp [heldBack]
    rfl
  unfold checkAll
  rw [h.only]
  show afterPkt (checkPkt row s k) k.port = afterPkt (refuse (took s k.port k) k st step 0 idx) k.port
  obtain ⟨hw, hi⟩ := refuse_took_waiting h st step idx
  rw [hk, afterPkt_empty hw hi]
  unfold afterPkt
  rw [hf]
  generalize k.port = p at hi ⊢
  cases p with
  | host => simp only at hi; simp [intake, hi]
  | mgt i => simp only at hi; simp [mgtIntake, hi]

/-- A ready packet that its row refuses draws the refusal. -/
theorem onPort_refuses {s : State} {p : Port} {c op n : Nat} {k : Pkt} {o : OpDef} {st : Byte} {step idx : Nat}
    (h : Ready s p c op n k) (ho : ofRow o k = true) (hl : o.form.lenOk k = true) (hx : o.ctxOk = ctxKnown)
    (hr : o.run s k = .refuse st step idx) : onPort o p s = .next (refused p k st step idx (took s p k)) := by
  have hrow : rowsWith rowOf o k = some o := by simp [rowsWith, ho]
  obtain ⟨hw, hi⟩ := refuse_took_waiting h.alone st step idx
  have he : refused p k st step idx (took s p k) = refuse (took s p k) k st step 0 idx := afterPkt_empty hw hi
  rw [onPort_alone h.alone o ho]
  unfold turn
  rw [checkAll_refuses h.alone hrow (gate_ready h hl hx) hr, he]
  simp [hw, firstBest]

/-- A management port takes no packet of a class that Table 13-27 does not list there (R491). -/
theorem ready_host {s : State} {p : Port} {c op n : Nat} {k : Pkt} (h : Ready s p c op n k) (hm : mgtOp c op = false) :
    p = .host := by
  by_contra hp
  simp [(h.mgt hp).1] at hm

end Sys2Proof.Proofs

/-! Stage timer, staging region and profiles (02). -/

namespace Sys2Proof.Proofs

open Sys2Proof.Machine Sys2Proof.Safety Sys2Proof.Laws

/-! What a stack and the fault log do is the same whatever waits at a port. -/

@[simp] theorem modDie_setWaiting (s : State) (p : Port) (l : List Pkt) (n : Nat) (f : Die → Die) :
    modDie (setWaiting s p l) n f = setWaiting (modDie s n f) p l := by
  rcases p with _ | _ | _ <;> rfl

@[simp] theorem modMct_setWaiting (s : State) (p : Port) (l : List Pkt) (n : Nat) (f : Mct → Mct) :
    modMct (setWaiting s p l) n f = setWaiting (modMct s n f) p l := modDie_setWaiting _ _ _ _ _

@[simp] theorem modEng_setWaiting (s : State) (p : Port) (l : List Pkt) (g : Nat) (f : Engine → Engine) :
    modEng (setWaiting s p l) g f = setWaiting (modEng s g f) p l := by
  rcases p with _ | _ | _ <;> rfl

@[simp] theorem emit_setWaiting (s : State) (p : Port) (l : List Pkt) (e : Emit) :
    emit (setWaiting s p l) e = setWaiting (emit s e) p l := by
  rcases p with _ | _ | _ <;> rfl

@[simp] theorem fresh_setWaiting (s : State) (p : Port) (l : List Pkt) :
    fresh (setWaiting s p l) = ((fresh s).1, setWaiting (fresh s).2 p l) := by
  rcases p with _ | _ | _ <;> rfl

@[simp] theorem setWaiting_vtime (s : State) (p : Port) (l : List Pkt) : (setWaiting s p l).vtime = s.vtime := by
  rcases p with _ | _ | _ <;> rfl

@[simp] theorem setWaiting_free (s : State) (p : Port) (l : List Pkt) : (setWaiting s p l).free = s.free := by
  rcases p with _ | _ | _ <;> rfl

@[simp] theorem die_setWaiting (s : State) (p : Port) (l : List Pkt) (n : Nat) : die (setWaiting s p l) n = die s n := by
  simp [die]

@[simp] theorem mct_setWaiting (s : State) (p : Port) (l : List Pkt) (n : Nat) : mct (setWaiting s p l) n = mct s n := by
  simp [mct]

@[simp] theorem eng_setWaiting (s : State) (p : Port) (l : List Pkt) (g : Nat) : eng (setWaiting s p l) g = eng s g := by
  simp [eng]

@[simp] theorem owes_setWaiting (s : State) (p : Port) (l : List Pkt) (g : EngId) : owes (setWaiting s p l) g = owes s g := by
  simp [owes, heldWrites]

/-- ALERT_N does not depend on the packets that wait (R106). -/
theorem setHpt_setWaiting (s : State) (p : Port) (l : List Pkt) (f : Hpt → Hpt)
    (hf : ∀ h : Hpt, f { h with wait := l } = { f h with wait := l }) :
    setHpt (setWaiting s p l) (f (setWaiting s p l).hpt) = setWaiting (setHpt s (f s.hpt)) p l := by
  have key : ∀ p, setHpt (setWaiting s p l) (setWaiting { s with hpt := f s.hpt } p l).hpt = setWaiting (setHpt s (f s.hpt)) p l := by
    intro p
    unfold setHpt
    dsimp only
    rw [apply_ite (fun t => setWaiting t p l)]
    rcases p with _ | _ | _ <;> rfl
  cases p with
  | host => exact (congrArg _ (hf s.hpt)).trans (key .host)
  | mgt i => cases i <;> exact key _

theorem addEntry_setWaiting (s : State) (p : Port) (l : List Pkt) (e : Entry) :
    addEntry (setWaiting s p l) e = setWaiting (addEntry s e) p l := by
  have hi : ∀ f, bothIsl (setWaiting s p l) f = setWaiting (bothIsl s f) p l := by rcases p with _ | _ | _ <;> exact fun _ => rfl
  have hr : (setWaiting s p l).iod = s.iod := by rcases p with _ | _ | _ <;> rfl
  have ha : ∀ u : State, (if (setWaiting u p l).iod.inReset then setWaiting u p l
      else setHpt (setWaiting u p l) { (setWaiting u p l).hpt with aFault := true }) =
      setWaiting (if u.iod.inReset then u else setHpt u { u.hpt with aFault := true }) p l := by
    intro u
    rw [show (setWaiting u p l).iod = u.iod by rcases p with _ | _ | _ <;> rfl]
    split
    · rfl
    · exact setHpt_setWaiting u p l (fun h => { h with aFault := true }) (fun _ => rfl)
  simp only [addEntry, iodReady, hr, hi]
  exact ha _

@[simp] theorem logF_setWaiting (s : State) (p : Port) (l : List Pkt) (f : Fact) :
    logF (setWaiting s p l) f = setWaiting (logF s f) p l := by
  simp only [logF, fresh_setWaiting, setWaiting_free]
  split <;> simp [addEntry_setWaiting, fresh]

/-- A change for every item of a list goes past what it commutes with. -/
theorem forAll_setWaiting {α : Type} (p : Port) (w : List Pkt) (f : State → α → State)
    (hf : ∀ s x, f (setWaiting s p w) x = setWaiting (f s x) p w) :
    ∀ (l : List α) (s : State), forAll (setWaiting s p w) l f = setWaiting (forAll s l f) p w
  | [], _ => rfl
  | x :: l, s => by
    show forAll (f (setWaiting s p w) x) l f = setWaiting (forAll (f s x) l f) p w
    rw [hf, forAll_setWaiting p w f hf l]

@[simp] theorem refreshFor_setWaiting (s : State) (p : Port) (l : List Pkt) (n off len : Nat) :
    refreshFor (setWaiting s p l) n off len = setWaiting (refreshFor s n off len) p l := by
  unfold refreshFor
  rw [mct_setWaiting]
  split <;> simp

@[simp] theorem ueEvent_setWaiting (s : State) (p : Port) (l : List Pkt) (n b : Nat) (liv : Byte) (scrub : Bool) :
    ueEvent (setWaiting s p l) n b liv scrub = setWaiting (ueEvent s n b liv scrub) p l := by
  simp [ueEvent]

@[simp] theorem ceEvent_setWaiting (s : State) (p : Port) (l : List Pkt) (n b : Nat) :
    ceEvent (setWaiting s p l) n b = setWaiting (ceEvent s n b) p l := by
  simp [ceEvent]

@[simp] theorem engDone_setWaiting (s : State) (p : Port) (l : List Pkt) (g : Nat) (st : Byte) (ws : List Word) (skip : Bool) :
    engDone (setWaiting s p l) g st ws skip = setWaiting (engDone s g st ws skip) p l := by
  simp only [engDone, eng_setWaiting, modEng_setWaiting]
  split
  · simp [standAfter]
  · rfl

@[simp] theorem finishStores_setWaiting (s : State) (p : Port) (l : List Pkt) :
    finishStores (setWaiting s p l) = setWaiting (finishStores s) p l := by
  unfold finishStores
  simp only [eng_setWaiting]
  refine forAll_setWaiting p l _ (fun s g => ?_) _ s
  simp only [eng_setWaiting, owes_setWaiting, engDone_setWaiting]
  split
  · split <;> rfl
  · rfl

@[simp] theorem land_setWaiting (s : State) (p : Port) (l : List Pkt) (n : Nat) (w : PendWrite) :
    land (setWaiting s p l) n w = setWaiting (land s n w) p l := by
  simp only [land, mct_setWaiting, setWaiting_free, modDie_setWaiting, fresh_setWaiting]
  split <;> rfl

@[simp] theorem drainAt_setWaiting (s : State) (p : Port) (l : List Pkt) (n i : Nat) :
    drainAt (setWaiting s p l) n i = setWaiting (drainAt s n i) p l := by
  simp only [drainAt, ackDrained, mct_setWaiting, refreshFor_setWaiting, modMct_setWaiting, land_setWaiting, emit_setWaiting]
  split
  · rfl
  · split <;> rfl

@[simp] theorem drainAll_setWaiting (s : State) (p : Port) (l : List Pkt) (n : Nat) :
    drainAll (setWaiting s p l) n = setWaiting (drainAll s n) p l := by
  unfold drainAll
  rw [mct_setWaiting, forAll_setWaiting p l _ (fun s x => drainAt_setWaiting s p l n 0), finishStores_setWaiting]

@[simp] theorem partRead_setWaiting (s : State) (p : Port) (l : List Pkt) (n : Nat) (q : MctPort) (liv : Byte) (off len : Nat) :
    partRead (setWaiting s p l) n q liv off len =
      ((partRead s n q liv off len).1, setWaiting (partRead s n q liv off len).2 p l) := by
  simp only [partRead, ueEvents]
  rw [forAll_setWaiting p l _ (fun s x => refreshFor_setWaiting s p l n _ 32), mct_setWaiting,
    forAll_setWaiting p l _ (fun s x => ceEvent_setWaiting s p l n x), mct_setWaiting,
    forAll_setWaiting p l _ (fun s x => ueEvent_setWaiting s p l n x liv false)]

/-- A write by an agent of the device does the same whatever waits at a port. -/
theorem hbmPut_setWaiting (s : State) (p : Port) (l : List Pkt) (n : Nat) (liv : Byte) (off : Nat) (data : List Byte)
    (q : MctPort) : hbmPut (setWaiting s p l) n liv off data q =
      ((hbmPut s n liv off data q).1, setWaiting (hbmPut s n liv off data q).2 p l) := by
  simp only [hbmPut, refreshFor_setWaiting, partRead_setWaiting]
  rcases partRead (refreshFor s n off data.length) n q liv off data.length with ⟨_ | _, t⟩
  · simp only [mct_setWaiting, drainAll_setWaiting]
    split <;> simp
  · rfl

theorem setStg_setWaiting (s : State) (p : Port) (l : List Pkt) (f : Stg → Stg) :
    setStg (setWaiting s p l) f = setWaiting (setStg s f) p l := by
  rcases p with _ | _ | _ <;> rfl

/-! The rows of class 0x1 (02, Table 2-5). -/

/-- STG_GET reports the stage timer. -/
theorem stgGet_answers {s : State} {k : Pkt} (h : Ready s .host 1 0 0 k) : exec (.stgGet .host) s =
    .next (answered .host k stOk (two s.stg.stage ++ two s.stg.tick ++ [s.stg.timing, stgStat s.stg] ++ two (activeIdent s) ++
      [stgProfile s.stg]) (took s .host k)) := by
  rw [took_alone h.alone]
  exact onPort_answers h (ofRow_ready h rfl rfl rfl) (by simp [rowStgGet, opDef, fixedRow, h.len]) rfl (fun _ => rfl)

/-- STG_SET shadows a timing that is admitted (R11). -/
theorem stgSet_answers {s : State} {k : Pkt} (h : Ready s .host 1 1 1 k) (ht : timingAdmitted s (timingMask (par k 0)) = true) :
    exec (.stgSet .host) s =
      .next (answered .host k stOk [] (setStg (took s .host k) (fun g => { g with timingSh := timingMask (par k 0) }))) := by
  rw [took_alone h.alone, setStg_setWaiting]
  refine onPort_answers h (ofRow_ready h rfl rfl rfl) (by simp [rowStgSet, opDef, fixedRow, h.len]) rfl
    (fun l => ?_)
  have hw : timingAdmitted (setWaiting s .host l) (timingMask (par k 0)) = true := ht
  simp only [rowStgSet, opDef, hw, if_true, setStg_setWaiting]

/-- TT_WRITE stores bytes of the image where they belong in the staging region. -/
theorem ttWrite_answers {s u : State} {k : Pkt} {n : DieId} {base size : Nat} (h : Ready s .host 1 3 (2 + cdiv (parN k 1) 4) k)
    (ha : parN k 0 % 4 = 0) (h1 : 1 ≤ parN k 1) (hc : parN k 1 ≤ 65508) (hs : s.tt.st = .loading)
    (hlen : parN k 0 + parN k 1 ≤ s.tt.len) (hp : loadPlace s = some (n, base, size))
    (hu : hbmPut (took s .host k) n 0x01 (base + parN k 0) ((wordsBytes (parsFrom k 2)).take (parN k 1)) = (none, u)) :
    exec (.ttWrite .host) s = .next (answered .host k stOk [] u) := by
  rw [took_alone h.alone, hbmPut_setWaiting] at hu
  obtain ⟨hn, rfl⟩ := Prod.mk.inj hu
  refine onPort_answers h (ofRow_ready h rfl rfl rfl) (by simp [rowTtWrite, opDef, h.len]) rfl (fun l => ?_)
  have hw : loadPlace (setWaiting s .host l) = some (n, base, size) := hp
  simp only [rowTtWrite, opDef, setWaiting_tt, hs, hw, hbmPut_setWaiting, hn]
  rw [if_neg (by omega), if_neg (by omega), if_neg (by simp; omega), if_neg (by simp), if_neg (by omega)]

/-- PROFILE_SET notes a profile for a later tick (R90). -/
theorem profileSet_answers {s : State} {k : Pkt} (h : Ready s .host 1 8 3 k) (h1 : parN k 0 ≤ 1)
    (ht : s.stg.stage + 2 ≤ par64 k 1) (hl : parN k 0 = 1 ∨ twoLost s = false) : exec (.profileSet .host) s =
    .next (answered .host k stOk []
      (setStg (took s .host k) (fun g => { g with pendProf := some (decide (parN k 0 = 1), par64 k 1) }))) := by
  rw [took_alone h.alone, setStg_setWaiting]
  refine onPort_answers h (ofRow_ready h rfl rfl rfl) (by simp [rowProfileSet, opDef, fixedRow, h.len]) rfl
    (fun l => ?_)
  have hw : (decide (parN k 0 = 0) && twoLost (setWaiting s .host l)) = false := by
    rcases hl with hl | hl
    · simp [hl]
    · exact (congrArg _ hl).trans (Bool.and_false _)
  simp only [rowProfileSet, opDef, setWaiting_stg, hw]
  rw [if_neg (by omega), if_neg (by omega), if_neg (by simp), setStg_setWaiting]

/-- PROFILE_APPLY loads the profile at its tick, unless two dies are lost (R90). -/
theorem profileApply_loads {s : State} {lean : Bool} {target : Nat} (hp : s.stg.pendProf = some (lean, target))
    (ht : target ≤ nextStage s) : exec .profileApply s = .next (setStg s (fun g =>
      if twoLost s then { g with pendProf := none, badcfg := true }
      else { g with pendProf := none, lean := lean, leanSh := lean })) := by
  have hd : profileDue s = true := by simp [profileDue, hp, ht]
  show Host.Outcome.next (if profileDue s then loadProfile s else s) = _
  simp only [hd, if_true, loadProfile, hp]
  split <;> rfl

/-- Settles O13: each row from its own lemma. -/
theorem stageOpcodes : Obligations.StageOpcodes :=
  ⟨fun _ _ h => stgGet_answers h, fun _ _ h ht => stgSet_answers h ht,
    fun _ _ _ _ _ _ h ha h1 hc hs hl hp hu => ttWrite_answers h ha h1 hc hs hl hp hu,
    fun _ _ h h1 ht hl => profileSet_answers h h1 ht hl, fun _ _ _ hp ht => profileApply_loads hp ht⟩

end Sys2Proof.Proofs

/-! The planner's configuration and its held writes (08). -/

namespace Sys2Proof.Proofs

open Sys2Proof.Machine Sys2Proof.Safety Sys2Proof.Laws

/-! Rows that write one register of a unit act where it answers, and nowhere else (R562). -/

theorem atOpen_open {s : State} {g : FwTarget} (f : State → State) (h : opened s g = true) : atOpen s g f = .next (f s) := by
  simp [atOpen, h]

theorem atOpen_closed {s : State} {g : FwTarget} (f : State → State) (h : opened s g = false) : atOpen s g f = .next s := by
  simp [atOpen, h]

/-! Commits (R11, R321, R322). -/

theorem flushMpl_none {s : State} (h : s.mpl.defCommit = none) : flushMpl s = s := by
  simp [flushMpl, h]

/-- Outside a search a commit takes a good set of shadows. -/
theorem mplCommitNow_good {s : State} (hs : s.mpl.search = none) (hd : s.mpl.defCommit = none) (hb : cfgBad s.mpl.shadow = none) :
    mplCommitNow s = { s with mpl := { s.mpl with cfg := s.mpl.shadow } } := by
  rw [mplCommitNow, if_neg (by simp [hs]), flushMpl_none hd, commitMpl, if_pos (by simp [hb])]
  rfl

/-- A bad one it drops whole. -/
theorem mplCommitNow_bad {s : State} (hs : s.mpl.search = none) (hd : s.mpl.defCommit = none) (hb : cfgBad s.mpl.shadow ≠ none) :
    mplCommitNow s = { s with mpl := { s.mpl with shadow := s.mpl.cfg, badcfg := true } } := by
  rw [mplCommitNow, if_neg (by simp [hs]), flushMpl_none hd, commitMpl, if_neg (by simpa using hb)]
  rfl

/-- During a search it is ignored, with a flag. -/
theorem mplCommitNow_busy {s : State} (hs : s.mpl.search ≠ none) :
    mplCommitNow s = { s with mpl := { s.mpl with busywr := true } } := by
  rw [mplCommitNow, if_pos (Option.isSome_iff_ne_none.2 hs)]
  rfl

/-- MPL_CTL.clrck, with the mismatch of its cycle (R324). -/
theorem mplClrck_eq (s : State) (hit : Bool) : exec (.mplClrck hit) s =
    atOpen s (.iod 6) (fun s => setMpl s (fun m => { m with maxns := 0, ckMism := b2n hit })) := rfl

/-- What a tick found in the shadows is flushed once no search runs. -/
theorem flushMpl_some {s : State} {ws : List Word} (hd : s.mpl.defCommit = some ws) (hs : s.mpl.search = none) :
    flushMpl s = setMpl s (fun m => commitKept m ws) := by
  simp [flushMpl, hd, hs]

/-- A word of the shadows that stands as the boundary found it goes back to the value in effect; one written since stays. -/
def dropped (sh ws cfg : List Word) : List Word :=
  ((sh.zip ws).zip cfg).map (fun x => if x.1.1 = x.1.2 then x.2 else x.1.1)

theorem nth_dropped {n i : Nat} {sh ws cfg : List Word} (h1 : sh.length = n) (h2 : ws.length = n) (h3 : cfg.length = n) (hi : i < n) :
    nth (dropped sh ws cfg) i = if nth sh i = nth ws i then nth cfg i else nth sh i := by
  subst h1
  have hw : i < ws.length := h2 ▸ hi
  have hc : i < cfg.length := h3 ▸ hi
  simp [nth, dropped, hi, hw, hc]

theorem commitKept_good {m : Mpl} {ws : List Word} (h : cfgBad ws = none) :
    commitKept m ws = { m with defCommit := none, cfg := ws } := by
  simp [commitKept, h]

theorem commitKept_bad {m : Mpl} {ws : List Word} (h : cfgBad ws ≠ none) :
    commitKept m ws = { m with defCommit := none, shadow := dropped m.shadow ws m.cfg, badcfg := true } := by
  rw [commitKept, if_neg (by simpa using h)]
  rfl

/-- A good set that the boundary found takes effect after the search. -/
theorem mplDeferredCommit_good {s : State} {ws : List Word} (hd : s.mpl.defCommit = some ws) (hs : s.mpl.search = none)
    (h : cfgBad ws = none) :
    exec .mplDeferredCommit s = .next { s with mpl := { s.mpl with defCommit := none, cfg := ws } } := by
  show Host.Outcome.next (flushMpl s) = _
  rw [flushMpl_some hd hs, setMpl, commitKept_good h]

/-- A bad one is dropped, and what has been written since waits in the shadows. -/
theorem mplDeferredCommit_bad {s : State} {ws : List Word} (hd : s.mpl.defCommit = some ws) (hs : s.mpl.search = none)
    (h : cfgBad ws ≠ none) : exec .mplDeferredCommit s = .next { s with
      mpl := { s.mpl with defCommit := none, shadow := dropped s.mpl.shadow ws s.mpl.cfg, badcfg := true } } := by
  show Host.Outcome.next (flushMpl s) = _
  rw [flushMpl_some hd hs, setMpl, commitKept_bad h]

/-! The opcodes of class 0x5 (Table 8-8). -/

theorem setMpl_setWaiting (s : State) (p : Port) (l : List Pkt) (f : Mpl → Mpl) :
    setMpl (setWaiting s p l) f = setWaiting (setMpl s f) p l := by
  rcases p with _ | _ | _ <;> rfl

/-- MPL_CFG writes values and shadows. -/
theorem mplCfg_answers {s : State} {k : Pkt} {p : Port} (h : Ready s p 5 0 11 k) (hc : planCtx s k = true)
    (hb : cfgBad (mplMask (parsFrom k 0)) = none) (hs : s.mpl.search = none) (hd : s.mpl.defCommit = none) :
    exec (.mplCfg p) s = .next (answered p k stOk [] { took s p k with
      mpl := { s.mpl with cfg := mplMask (parsFrom k 0), shadow := mplMask (parsFrom k 0) } }) := by
  obtain rfl := ready_host h rfl
  rw [took_alone h.alone]
  show _ = Host.Outcome.next (answered .host k stOk [] (setMpl (setWaiting s .host []) (fun m =>
    { m with cfg := mplMask (parsFrom k 0), shadow := mplMask (parsFrom k 0) })))
  rw [setMpl_setWaiting]
  refine onPort_answers h (ofRow_ready h rfl rfl rfl) (by simp [rowMplCfg, opDef, fixedRow, h.len]) rfl (fun l => ?_)
  have hw : planCtx (setWaiting s .host l) k = true := hc
  have hf : flushMpl (setWaiting s .host l) = setWaiting s .host l := flushMpl_none hd
  simp [rowMplCfg, opDef, hw, hb, hs, hf, setMpl_setWaiting]

/-- MPL_STATUS reports the planner's registers. -/
theorem mplStatus_answers {s : State} {k : Pkt} {p : Port} (h : Ready s p 5 4 0 k) (hc : planCtx s k = true) :
    exec (.mplStatus p) s = .next (answered p k stOk (mplWords s.mpl) (took s p k)) := by
  obtain rfl := ready_host h rfl
  rw [took_alone h.alone]
  refine onPort_answers h (ofRow_ready h rfl rfl rfl) (by simp [rowMplStatus, opDef, fixedRow, h.len]) rfl (fun l => ?_)
  have hw : planCtx (setWaiting s .host l) k = true := hc
  simp [rowMplStatus, opDef, hw]

/-- MPL_CANDIDATES delivers the trajectories of a range of candidates that all exist. -/
theorem mplCandidates_answers {s : State} {k : Pkt} {p : Port} (h : Ready s p 5 3 2 k) (hc : planCtx s k = true)
    (h1 : 1 ≤ parN k 1) (h8 : parN k 0 + parN k 1 ≤ 8) (hn : parN k 0 + parN k 1 ≤ currentCands s.mpl) :
    exec (.mplCandidates p) s = .next (answered p k stOk
      ((List.range (parN k 1)).flatMap (fun i => trajUsed (slotWords s (parN k 0 + i)))) (took s p k)) := by
  obtain rfl := ready_host h rfl
  rw [took_alone h.alone]
  refine onPort_answers h (ofRow_ready h rfl rfl rfl) (by simp [rowMplCandidates, opDef, fixedRow, h.len]) rfl (fun l => ?_)
  have hw : planCtx (setWaiting s .host l) k = true := hc
  have hall : (List.range (parN k 1)).filter (fun i => decide (parN k 0 + i < currentCands s.mpl)) = List.range (parN k 1) := by
    rw [List.filter_eq_self]
    intro i hi
    have := List.mem_range.1 hi
    exact decide_eq_true (by omega)
  have hne : (List.range (parN k 1)).isEmpty = false := by
    rw [List.isEmpty_eq_false_iff, ne_eq, List.range_eq_nil]
    omega
  have h7 : ¬ 7 < parN k 0 := by omega
  have h8a : ¬ 8 < parN k 1 := by omega
  have h8b : ¬ 8 < parN k 0 + parN k 1 := by omega
  simp only [rowMplCandidates, opDef, hw, setWaiting_mpl, hall, hne, h7, h8a, h8b]
  simp [slotWords]

/-- Class 0x5 is refused on other contexts than 0 and the planning context (R320). -/
theorem planner_refuses {s : State} {p : Port} {k : Pkt} {ev : CheckEvent} {o n : Nat} {r : Instr}
    (hm : (o, n, r) ∈ [(0, 11, Instr.mplCfg p), (1, 5, .mplSearch (.packet p)), (2, 1, .mplCheck p ev), (3, 2, .mplCandidates p),
      (4, 0, .mplStatus p)]) (h : Ready s p 5 o n k) (h1 : o = 1 → tbit (par k 0) 0 = false)
    (h2 : o = 2 → tbit (par k 0) 31 = false) (hc : planCtx s k = false) :
    exec r s = .next (refused p k stFirewall 10 1 (took s p k)) := by
  simp only [List.mem_cons, Prod.mk.injEq, List.not_mem_nil, or_false] at hm
  rcases hm with ⟨rfl, rfl, rfl⟩ | ⟨rfl, rfl, rfl⟩ | ⟨rfl, rfl, rfl⟩ | ⟨rfl, rfl, rfl⟩ | ⟨rfl, rfl, rfl⟩
  · exact onPort_refuses h (ofRow_ready h rfl rfl rfl) (by simp [rowMplCfg, opDef, fixedRow, h.len]) rfl
      (by simp [rowMplCfg, opDef, hc])
  · exact onPort_refuses h (ofRow_ready h rfl rfl (by simp [rowMplSearch, searchRow, opDef, h1]))
      (by simp [rowMplSearch, searchRow, opDef, fixedRow, h.len]) rfl (by simp [rowMplSearch, searchRow, opDef, hc])
  · exact onPort_refuses h (ofRow_ready h rfl rfl (by simp [rowMplCheck, opDef, h2]))
      (by simp [rowMplCheck, opDef, fixedRow, h.len]) rfl (by simp [rowMplCheck, opDef, hc])
  · exact onPort_refuses h (ofRow_ready h rfl rfl rfl) (by simp [rowMplCandidates, opDef, fixedRow, h.len]) rfl
      (by simp [rowMplCandidates, opDef, hc])
  · exact onPort_refuses h (ofRow_ready h rfl rfl rfl) (by simp [rowMplStatus, opDef, fixedRow, h.len]) rfl
      (by simp [rowMplStatus, opDef, hc])

/-! Writes that waited (R289, R294). -/

/-- What a change keeps, the change for every item of a list keeps. -/
theorem forAll_keeps {α : Type} (Inv : State → Prop) (f : State → α → State) (hf : ∀ t x, Inv t → Inv (f t x)) :
    ∀ (l : List α) (s : State), Inv s → Inv (forAll s l f)
  | [], _, h => h
  | x :: l, s, h => forAll_keeps Inv f hf l (f s x) (hf s x h)

/-- The end of a descriptor changes its engine and the count of free values alone. -/
theorem engDone_eq (s : State) (g : Nat) (st : Byte) (ws : List Word) (skip : Bool) :
    ∃ e n, engDone s g st ws skip = { s with engines := e, free := n } := by
  unfold engDone
  dsimp only
  split
  · exact ⟨_, _, rfl⟩
  · exact ⟨_, s.free, rfl⟩

/-- STOREs that complete change their engines and the count of free values alone. -/
theorem finishStores_eq (s : State) : ∃ e n, finishStores s = { s with engines := e, free := n } := by
  refine forAll_keeps (fun t => ∃ e n, t = { s with engines := e, free := n }) _ ?_ _ s ⟨_, _, rfl⟩
  rintro _ g ⟨e, n, rfl⟩
  split
  · split
    · exact ⟨e, n, rfl⟩
    · obtain ⟨e', n', h⟩ := engDone_eq { s with engines := e, free := n } g stOk _ false
      exact ⟨e', n', h⟩
  · exact ⟨e, n, rfl⟩

/-- The write of a fabric initiator takes effect and completes to it where it is owed. -/
theorem heldDone_fabric {s : State} {w : HeldWrite} (h : w.eng = none) : heldDone s w =
    { s with out := if w.owed then .fabric w.livery stOk [] :: s.out else s.out } := by
  simp only [heldDone, h]
  split <;> rfl

/-- The write of an engine lets its STORE complete. -/
theorem heldDone_engine {s : State} {w : HeldWrite} {g : EngId} (h : w.eng = some g) :
    ∃ e n, heldDone s w = { s with engines := e, free := n } := by
  simp only [heldDone, h]
  exact finishStores_eq s

/-- With no build running the oldest write held for one takes effect. -/
theorem occupancyWriteRelease_eq {s : State} {w : HeldWrite} {r : List HeldWrite} (hw : s.mpl.heldOcc = w :: r)
    (hb : building s.mpl = false) : exec .occupancyWriteRelease s = .next (heldDone { s with
      mpl := { s.mpl with heldOcc := r, sram := memWr s.mpl.sram w.addr w.data } } w) := by
  show execOccupancyWriteRelease s = _
  simp only [execOccupancyWriteRelease, hw, hb]
  rfl

/-- With no search running the oldest write held for one takes effect. -/
theorem primitiveWriteRelease_eq {s : State} {w : HeldWrite} {r : List HeldWrite} (hw : s.mpl.heldPrim = w :: r)
    (hs : running s.mpl = none) : exec .primitiveWriteRelease s = .next (heldDone { s with
      mpl := { s.mpl with heldPrim := r, sram := memWr s.mpl.sram w.addr w.data } } w) := by
  show execPrimitiveWriteRelease s = _
  simp only [execPrimitiveWriteRelease, hw, hs]
  rfl

/-- Settles O42: commits, deferred commits, the class's opcodes, held writes, each from its own lemma. -/
theorem plannerConfiguration : Obligations.PlannerConfiguration := by
  refine ⟨fun s ho => ⟨fun hs hd hb => ?_, fun hs hd hb => ?_, fun hs => ?_⟩, fun s ws hd hs => ⟨mplDeferredCommit_good hd hs,
    fun hb h1 h2 h3 => ⟨_, mplDeferredCommit_bad hd hs hb, rfl, fun i hi => nth_dropped h2 h1 h3 hi⟩⟩, fun s hit ho => ?_,
    fun s r hr ho => ?_, fun _ _ _ h hc hb hs hd => mplCfg_answers h hc hb hs hd,
    fun _ _ _ _ _ _ _ hm h h1 h2 hc => planner_refuses hm h h1 h2 hc, fun _ _ _ h hc => mplStatus_answers h hc,
    fun _ _ _ h hc h1 h8 hn => mplCandidates_answers h hc h1 h8 hn, fun s w r hw hb he => ?_, fun s w r hw hs he => ?_,
    fun s w r g he => ⟨fun hw hb => ?_, fun hw hs => ?_⟩⟩
  · exact (atOpen_open _ ho).trans (congrArg _ (mplCommitNow_good hs hd hb))
  · exact (atOpen_open _ ho).trans (congrArg _ (mplCommitNow_bad hs hd hb))
  · exact (atOpen_open _ ho).trans (congrArg _ (mplCommitNow_busy hs))
  · rw [mplClrck_eq, atOpen_open _ ho]
    rfl
  · rcases hr with rfl | ⟨hit, rfl⟩
    · exact atOpen_closed mplCommitNow ho
    · rw [mplClrck_eq, atOpen_closed _ ho]
  · rw [occupancyWriteRelease_eq hw hb, heldDone_fabric he]
  · rw [primitiveWriteRelease_eq hw hs, heldDone_fabric he]
  · rw [occupancyWriteRelease_eq hw hb]
    obtain ⟨e, n, h⟩ := heldDone_engine (s := _) he
    exact ⟨_, rfl, by rw [h], by rw [h], by rw [h]⟩
  · rw [primitiveWriteRelease_eq hw hs]
    obtain ⟨e, n, h⟩ := heldDone_engine he
    exact ⟨_, rfl, by rw [h], by rw [h], by rw [h]⟩

end Sys2Proof.Proofs

/-! Registers: latched pairs, fields that are commands, register writes, firewall regions (00, 13). -/

namespace Sys2Proof.Proofs

open Sys2Proof.Machine Sys2Proof.Safety Sys2Proof.Laws

/-! Latched pairs (R638). -/

theorem latched_latchSet_self (s : State) (p : PairId) (w : Word) : latched (latchSet s p w) p = some w := by
  simp [latched, latchSet]

theorem latched_latchSet_ne (s : State) {p q : PairId} (w : Word) (h : q ≠ p) : latched (latchSet s p w) q = latched s q := by
  have hf : (s.latches.filter (fun e => !(e.1 == p))).find? (fun e => e.1 == q) = s.latches.find? (fun e => e.1 == q) := by
    rw [List.find?_filter]
    congr 1
    funext e
    by_cases he : e.1 = q <;> simp [he, h]
  have hp : (p == q) = false := by simpa using Ne.symm h
  show (List.find? _ ((p, w) :: s.latches.filter _)).map _ = _
  rw [List.find?_cons, hp, hf]
  rfl

theorem latched_latchClear_self (s : State) (p : PairId) : latched (latchClear s p) p = none := by
  simp [latched, latchClear, List.find?_eq_none]

theorem latched_latchClear_ne (s : State) {p q : PairId} (h : q ≠ p) : latched (latchClear s p) q = latched s q := by
  simp only [latched, latchClear, List.find?_filter]
  congr 2
  funext e
  by_cases he : e.1 = q <;> simp [he, h]

/-- A read of a LO register latches its HI word. -/
theorem latchedLoRead_eq {s : State} {p : PairId} (h : opened s (pairPlace p).1 = true) : exec (.latchedLoRead p) s =
    .next (emit (fresh (latchSet s p (regWord s (pairPlace p).1 ((pairPlace p).2 + 4)))).2
      (.reg (regWord s (pairPlace p).1 (pairPlace p).2))) := by
  exact atOpen_open (fun s => emit (readLo s p).2 (.reg (readLo s p).1)) h

/-- A read of a HI register takes the latched word, or the word of now. -/
theorem readHi_eq (s : State) (p : PairId) : ∃ l, readHi s p =
    ((latched s p).getD (regWord s (pairPlace p).1 ((pairPlace p).2 + 4)), { s with latches := l }) ∧
    latched { s with latches := l } p = none ∧ ∀ q, q ≠ p → latched { s with latches := l } q = latched s q := by
  unfold readHi
  cases hl : latched s p with
  | none => exact ⟨s.latches, rfl, hl, fun _ _ => rfl⟩
  | some w => exact ⟨_, rfl, latched_latchClear_self s p, fun q h => latched_latchClear_ne s h⟩

theorem latchedHiRead_eq {s : State} {p : PairId} (h : opened s (pairPlace p).1 = true) :
    exec (.latchedHiRead p) s = .next (emit (readHi s p).2 (.reg (readHi s p).1)) := by
  exact atOpen_open (fun s => emit (readHi s p).2 (.reg (readHi s p).1)) h

/-- The HI register read next gives the word of the LO read's instant. -/
theorem latchedHiRead_after_lo {s t : State} {p : PairId} (h : opened s (pairPlace p).1 = true)
    (ht : exec (.latchedLoRead p) s = .next t) : ∃ u, exec (.latchedHiRead p) t = .next u ∧
      u.out.head? = some (.reg (regWord s (pairPlace p).1 ((pairPlace p).2 + 4))) := by
  rw [latchedLoRead_eq h] at ht
  obtain rfl := Host.Outcome.next.inj ht
  refine ⟨_, latchedHiRead_eq h, ?_⟩
  obtain ⟨l, hr, -, -⟩ := readHi_eq (emit (fresh (latchSet s p (regWord s (pairPlace p).1 ((pairPlace p).2 + 4)))).2
    (.reg (regWord s (pairPlace p).1 (pairPlace p).2))) p
  have hw := latched_latchSet_self s p (regWord s (pairPlace p).1 ((pairPlace p).2 + 4))
  rw [hr]
  show some (Emit.reg (Option.getD (latched (latchSet s p _) p) _)) = _
  rw [hw]
  rfl

/-! Fields that are commands of their own (R40-R42, R175, R176, R219). -/

theorem onlyEngine_modEng (s : State) (g : EngId) (f : Engine → Engine) : OnlyEngine s (modEng s g f) g :=
  ⟨rfl, fun _ h => eng_modEng_ne s f (fun e => h (Fin.ext e))⟩

/-- LNK_CTL.clrcnt of a die, with the retries counted in the write's cycle (R40-R42). -/
def clrRetries (n : DieId) (sp sc pc far : Bool) (s : State) : State :=
  let s := modDie (lnkClr s n) n (fun d => { d with retrySp := b2n sp, retrySc := b2n sc, retryPc := b2n pc })
  { s with iod := { s.iod with spretry := bankSet 0 s.iod.spretry n (b2n far) } }

/-- It clears the retry counts at the die's own ends and at the IOD's end of its spine. -/
theorem clrRetries_eq (s : State) (n : DieId) (sp sc pc far : Bool) :
    die (clrRetries n sp sc pc far s) n = { die s n with retrySp := b2n sp, retrySc := b2n sc, retryPc := b2n pc } ∧
    bankGet 0 (clrRetries n sp sc pc far s).iod.spretry n.val = b2n far ∧
    ∀ m : DieId, m ≠ n → die (clrRetries n sp sc pc far s) m = die s m ∧
      bankGet 0 (clrRetries n sp sc pc far s).iod.spretry m.val = bankGet 0 s.iod.spretry m.val := by
  have hd : ∀ m : Nat, die (clrRetries n sp sc pc far s) m =
      die (modDie (modDie s n (fun d => { d with retrySp := 0, retrySc := 0, retryPc := 0 })) n
        (fun d => { d with retrySp := b2n sp, retrySc := b2n sc, retryPc := b2n pc })) m := fun _ => rfl
  have hs : (clrRetries n sp sc pc far s).iod.spretry = bankSet 0 (bankSet 0 s.iod.spretry n 0) n (b2n far) := rfl
  rw [hd, hs, die_modDie_self, die_modDie_self, bankGet_bankSet_self]
  refine ⟨rfl, rfl, fun m hm => ?_⟩
  have hv : m.val ≠ n.val := fun e => hm (Fin.ext e)
  rw [hd, die_modDie_ne _ _ hv, die_modDie_ne _ _ hv, bankGet_bankSet_ne _ _ _ hv, bankGet_bankSet_ne _ _ _ hv]
  exact ⟨rfl, rfl⟩

theorem lnkClrcnt_eq (s : State) (n : DieId) (sp sc pc far : Bool) :
    exec (.lnkClrcnt n sp sc pc far) s = atOpen s (.die n 9) (clrRetries n sp sc pc far) := rfl

theorem teCfgWrite_eq (s : State) (g : EngId) (v : Word) :
    exec (.teCfgWrite g v) s = atOpen s (teTarget g) (fun s => modEng s g (fun e => teCfgSet e v)) := rfl

theorem teChkstatClr_eq (s : State) (g : EngId) (ws res abft : Bool) : exec (.teChkstatClr g ws res abft) s =
    atOpen s (teTarget g) (fun s => modEng s g (fun e => { e with wscnt := b2n ws, rescnt := b2n res, abftcnt := b2n abft })) := rfl

theorem teNumcntClr_eq (s : State) (g : EngId) (sat nan : Bool) : exec (.teNumcntClr g sat nan) s =
    atOpen s (teTarget g) (fun s => modEng s g (fun e => { e with sat := b2n sat, nan := b2n nan })) := rfl

/-- A row of one field of an engine's registers, where the engine answers. -/
theorem atEngine {s : State} {g : EngId} (f : Engine → Engine) (h : opened s (teTarget g) = true) :
    ∃ t, atOpen s (teTarget g) (fun s => modEng s g f) = .next t ∧ OnlyEngine s t g ∧ eng t g = f (eng s g) :=
  ⟨_, atOpen_open _ h, onlyEngine_modEng s g f, eng_modEng_self s g f⟩

theorem teCfgSet_eq (e : Engine) (v : Word) : teCfgSet e v = (if teBusy e then { e with busywr := true }
    else if fld v 4 0 < 8 ∨ 24 < fld v 4 0 then { e with badcfg := true }
    else { e with ovl := tbit v 12, ftol := fld v 4 0 }) := by
  simp [teCfgSet]

/-- Every row of one field leaves the state where its target does not answer (R562). -/
theorem field_closed {s : State} {r : Instr} {g : FwTarget}
    (hr : (∃ p, g = (pairPlace p).1 ∧ (r = .latchedLoRead p ∨ r = .latchedHiRead p)) ∨
      (∃ n a b c d, g = .die n 9 ∧ r = .lnkClrcnt n a b c d) ∨
      (∃ e v a b c, g = teTarget e ∧ (r = .teCfgWrite e v ∨ r = .teChkstatClr e a b c ∨ r = .teNumcntClr e a b)))
    (h : opened s g = false) : exec r s = .next s := by
  rcases hr with ⟨p, rfl, rfl | rfl⟩ | ⟨n, a, b, c, d, rfl, rfl⟩ | ⟨e, v, a, b, c, rfl, rfl | rfl | rfl⟩
  · exact atOpen_closed (fun s => emit (readLo s p).2 (.reg (readLo s p).1)) h
  · exact atOpen_closed (fun s => emit (readHi s p).2 (.reg (readHi s p).1)) h
  · rw [lnkClrcnt_eq, atOpen_closed _ h]
  · rw [teCfgWrite_eq, atOpen_closed _ h]
  · rw [teChkstatClr_eq, atOpen_closed _ h]
  · rw [teNumcntClr_eq, atOpen_closed _ h]

/-- Settles O54: a latched pair reads as one value, and each field acts on its own die or engine where that answers. -/
theorem registerFields : Obligations.RegisterFields := by
  refine ⟨fun s p h => ⟨_, latchedLoRead_eq h, rfl, latched_latchSet_self s p _, fun q hq => latched_latchSet_ne s _ hq, rfl⟩,
    fun s p h => ?_, fun s t p h ht => latchedHiRead_after_lo h ht, fun s n sp sc pc far h => ?_,
    fun s g v h => ?_, fun s g ws res abft h => ?_, fun s g sat nan h => ?_, fun s r g hr h => field_closed hr h⟩
  · obtain ⟨l, hr, hn, hq⟩ := readHi_eq s p
    refine ⟨_, latchedHiRead_eq h, ?_⟩
    rw [hr]
    exact ⟨hn, hq, rfl, rfl⟩
  · obtain ⟨hd, hs, ho⟩ := clrRetries_eq s n sp sc pc far
    exact ⟨_, (lnkClrcnt_eq s n sp sc pc far).trans (atOpen_open _ h), hd, hs, ho, rfl⟩
  · rw [← teCfgSet_eq, teCfgWrite_eq]
    exact atEngine (fun e => teCfgSet e v) h
  · rw [teChkstatClr_eq]
    exact atEngine _ h
  · rw [teNumcntClr_eq]
    exact atEngine _ h

end Sys2Proof.Proofs

/-! Register writes and firewall regions (00 R9; 13 R466-R471). -/

namespace Sys2Proof.Proofs

open Sys2Proof.Machine Sys2Proof.Safety Sys2Proof.Laws

/-! What a refused access leaves at the blocks of the device (R469). -/

/-- The blocks of the IOD core, the dies and the engines stand as before. -/
def BlocksKept (s t : State) : Prop :=
  t.dies = s.dies ∧ t.engines = s.engines ∧ t.stg = s.stg ∧ t.qmg = s.qmg ∧ t.syn = s.syn ∧ t.kpm = s.kpm ∧
    t.mpl = s.mpl ∧ t.fus = s.fus ∧ t.cvus = s.cvus ∧ t.clk = s.clk

theorem blocksKept_closeRun (s : State) (t : FwTarget) : BlocksKept s (closeRun s t) := by
  unfold closeRun
  split <;> simp [BlocksKept]

/-- A firewall's refusal closes the run before it, unless it goes on with it, and counts. -/
theorem fwRefuse_eq (s : State) (t : FwTarget) (liv : Byte) (off : Nat) (k : Kind) : ∃ (b : Bool) (f : Firewall → Firewall),
    fwRefuse s t liv off k = modFwl (if b then s else closeRun s t) t f ∧ ∀ x, (f x).regions = x.regions := by
  unfold fwRefuse
  refine ⟨_, _, rfl, ?_⟩
  exact fun _ => rfl

theorem blocksKept_fwRefuse (s : State) (t : FwTarget) (liv : Byte) (off : Nat) (k : Kind) : BlocksKept s (fwRefuse s t liv off k) := by
  obtain ⟨b, f, he, -⟩ := fwRefuse_eq s t liv off k
  rw [he]
  cases b with
  | true => simp [BlocksKept]
  | false => simpa [BlocksKept] using blocksKept_closeRun s t

theorem fwl_modFwl_regions (s : State) (t h : FwTarget) (f : Firewall → Firewall) (hf : (f (fwl s t)).regions = (fwl s t).regions) :
    (fwl (modFwl s t f) h).regions = (fwl s h).regions := by
  by_cases hn : fwNum h = fwNum t
  · simp only [fwl, modFwl, hn, bankGet_bankSet_self]
    exact hf
  · simp only [fwl, modFwl, bankGet_bankSet_ne _ _ _ hn]

theorem fwl_logF (s : State) (f : Fact) (h : FwTarget) : fwl (logF s f) h = fwl s h := by
  simp [fwl]

theorem closeRun_regions (s : State) (t h : FwTarget) : (fwl (closeRun s t) h).regions = (fwl s h).regions := by
  unfold closeRun
  split
  · rfl
  · rw [fwl_logF]
    exact fwl_modFwl_regions s t h _ rfl

theorem fwRefuse_regions (s : State) (t : FwTarget) (liv : Byte) (off : Nat) (k : Kind) (h : FwTarget) :
    (fwl (fwRefuse s t liv off k) h).regions = (fwl s h).regions := by
  obtain ⟨b, f, he, hf⟩ := fwRefuse_eq s t liv off k
  rw [he, fwl_modFwl_regions _ t h _ (hf _)]
  cases b with
  | true => rfl
  | false => exact closeRun_regions s t h

theorem firewalled_kept {s t : State} {p : Spot} {liv : Byte} {len : Nat} {k : Kind} (h : firewalled s p liv len k = some t) :
    BlocksKept s t := by
  unfold firewalled at h
  split at h
  · obtain rfl := Option.some.inj h
    exact blocksKept_fwRefuse s _ _ _ _
  · split at h
    · obtain rfl := Option.some.inj h
      simp [BlocksKept]
    · cases h

/-- A livery that names no engine takes the one way there is. -/
theorem settleFor_livSource (s : State) (l : Byte) (t : FwTarget) : settleFor s (livSource l) t = s := by
  unfold livSource
  split
  · rfl
  · split <;> rfl

/-- What a firewall or the decoder refuses leaves the blocks as they were. -/
theorem grants_firewall_kept {s u : State} {l : Byte} {a n : Nat} {k : Kind}
    (h : grants s l a n k (livSource l) = .refused stFirewall u) : BlocksKept s u := by
  unfold grants at h
  split at h
  · obtain ⟨-, rfl⟩ := Admit.refused.inj h
    simp [BlocksKept, decodeRefuse]
  · rw [settleFor_livSource] at h
    dsimp only at h
    split at h
    · exact absurd (Admit.refused.inj h).1 (by decide)
    · split at h
      · obtain ⟨-, rfl⟩ := Admit.refused.inj h
        exact firewalled_kept ‹_›
      · split at h
        · exact absurd (Admit.refused.inj h).1 (by decide)
        · cases h

/-! Register writes (R9). -/

theorem registerWrite_refused {s u : State} {l : Byte} {a : BitVec 48} {v : Word} {st : Byte}
    (h : grants s l a.toNat 4 .write (livSource l) = .refused st u) :
    exec (.registerWrite l a v) s = .next (emit u (.fabric l st [])) := by
  show execRegisterWrite l a v s = _
  simp only [execRegisterWrite, h]

theorem registerWrite_granted {s u : State} {l : Byte} {a : BitVec 48} {v : Word} {p : Spot} {g : FwTarget}
    (h : grants s l a.toNat 4 .write (livSource l) = .spot p u) (hp : p.place = .reg g) :
    exec (.registerWrite l a v) s = .next (emit (writeReg u g p.off v) (.fabric l stOk [])) := by
  show execRegisterWrite l a v s = _
  simp only [execRegisterWrite, h, hp]

/-- A write to the KPM's registers acts on the KPM alone. -/
theorem writeKpm_kept (s : State) (o : Nat) (v : Word) : ∃ k, writeKpm s o v = { s with kpm := k } := by
  unfold writeKpm
  split
  · exact ⟨_, rfl⟩
  · split
    · exact ⟨_, rfl⟩
    · exact ⟨s.kpm, rfl⟩
  · exact ⟨s.kpm, rfl⟩

/-! Firewall regions (R471). -/

/-- Offset `off` in the registers of a firewall is that of register `o` of region `r`, one that exists (R471). -/
structure RegionOff (off r o : Nat) : Prop where
  low  : 0x100 ≤ off
  high : off < 0x1100
  num  : (off - 0x100) / 0x40 = r
  reg  : (off - 0x100) % 0x40 = o
  kind : o = 0 ∨ o = 4 ∨ o = 8 ∨ 0x20 ≤ o

theorem regionOff_of_eq {off r o : Nat} (h : off = 0x100 + 0x40 * r + o) (hr : r < 64)
    (ho : o = 0 ∨ o = 4 ∨ o = 8 ∨ 0x20 ≤ o ∧ o < 0x40) : RegionOff off r o := by
  constructor <;> omega

/-- A write to the region registers rewrites the region of its offset, or none. -/
theorem regionWrite_regions (f : Firewall) (off : Nat) (v : Word) : (regionWrite f off v).regions = f.regions ∨
    ∃ g, (regionWrite f off v).regions = bankSet defRegion f.regions ((off - 0x100) / 0x40) g := by
  unfold regionWrite
  dsimp only
  split
  · exact .inl rfl
  split
  · exact .inl rfl
  split
  · exact .inl rfl
  split
  · exact .inr ⟨_, rfl⟩
  split
  · exact .inl rfl
  split
  · exact .inr ⟨_, rfl⟩
  split
  · exact .inr ⟨_, rfl⟩
  · exact .inr ⟨_, rfl⟩

section
variable {f : Firewall} {off r o : Nat} {v : Word} (h : RegionOff off r o)
include h

/-- The guards of a region register that exists. -/
theorem regionOff_guards : (decide (off < 0x100) || decide (0x1100 ≤ off)) = false ∧
    (decide (o ≠ 0) && decide (o ≠ 4) && decide (o ≠ 8) && decide (o < 0x20)) = false := by
  obtain ⟨hl, hh, -, -, hk⟩ := h
  constructor <;> simp <;> omega

theorem regionWrite_locked (hl : (bankGet defRegion f.regions r).lock = true) : regionWrite f off v =
    { f with lockwr := true, busywr := f.busywr || ((bankGet defRegion f.regions r).en && o != 8) } := by
  obtain ⟨h1, h2⟩ := regionOff_guards h
  simp only [regionWrite, h.num, h.reg, h1, h2, hl]
  simp [bne, beq_eq_decide]

theorem regionWrite_enabled (hl : (bankGet defRegion f.regions r).lock = false) (he : (bankGet defRegion f.regions r).en = true)
    (ho : o ≠ 8) : regionWrite f off v = { f with busywr := true } := by
  obtain ⟨h1, h2⟩ := regionOff_guards h
  simp only [regionWrite, h.num, h.reg, h1, h2, hl, he, ho]
  simp

theorem regionWrite_ctl (hl : (bankGet defRegion f.regions r).lock = false) (ho : o = 8) : regionWrite f off v =
    { f with regions := bankSet defRegion f.regions r { bankGet defRegion f.regions r with
      en := tbit v 31, lock := tbit v 30, w := tbit v 1, r := tbit v 0 } } := by
  obtain ⟨h1, h2⟩ := regionOff_guards h
  simp only [regionWrite, h.num, h.reg, h1, h2, hl]
  simp [ho]

theorem regionWrite_base (hl : (bankGet defRegion f.regions r).lock = false) (he : (bankGet defRegion f.regions r).en = false)
    (ho : o = 0) : regionWrite f off v =
    { f with regions := bankSet defRegion f.regions r { bankGet defRegion f.regions r with base := fld v 22 0 } } := by
  obtain ⟨h1, h2⟩ := regionOff_guards h
  simp only [regionWrite, h.num, h.reg, h1, h2, hl, he]
  simp [ho]

/-- No other region changes. -/
theorem regionWrite_others {q : Nat} (hq : q ≠ r) :
    bankGet defRegion (regionWrite f off v).regions q = bankGet defRegion f.regions q := by
  obtain hk | ⟨g, hs⟩ := regionWrite_regions f off v
  · rw [hk]
  · rw [hs, h.num]
    exact bankGet_bankSet_ne _ _ _ hq

end

/-- A whole, aligned write of an island to a firewall register, past a way that serves it and a clock that runs. -/
theorem fwlRegionWrite_island {s : State} {l : Byte} {g : FwTarget} {v : Word} {off : Fin 16384} (ha : off.val % 4 = 0)
    (hl : l = 0x0A ∨ l = 0x0B) (hw : wayOpen s (wayOf s (livSource l) (fwlBlock g)) = true) :
    exec (.fwlRegionWrite l g off v) s = .next (if gated s (fwlBlock g) then emit s (.fabric l stNotReady [])
      else emit (modFwl s g (fun f => if off.val = 0 then fwlStatClr f v else regionWrite f off v)) (.fabric l stOk [])) := by
  have hi : islandLivery l = true := by rcases hl with rfl | rfl <;> rfl
  show execFwlRegionWrite l g off v s = _
  simp [execFwlRegionWrite, ha, hw, hi]

/-- Such a write to a region's register acts on that firewall alone. -/
theorem fwlRegionWrite_acts {s : State} {l : Byte} {g : FwTarget} {r : Fin 64} {o : Nat} {v : Word} {off : Fin 16384}
    (h : RegionOff off.val r.val o) (ha : off.val % 4 = 0) (hl : l = 0x0A ∨ l = 0x0B)
    (hw : wayOpen s (wayOf s (livSource l) (fwlBlock g)) = true) (hg : gated s (fwlBlock g) = false) :
    exec (.fwlRegionWrite l g off v) s = .next (emit (modFwl s g (fun f => regionWrite f off v)) (.fabric l stOk [])) := by
  have h0 : off.val ≠ 0 := by have := h.low; omega
  rw [fwlRegionWrite_island ha hl hw]
  simp [hg, h0]

theorem fwlRegionWrite_unaligned {s : State} {l : Byte} {g : FwTarget} {v : Word} {off : Fin 16384} (ha : off.val % 4 ≠ 0) :
    exec (.fwlRegionWrite l g off v) s = .next (emit (decodeRefuse s (fwlAddr g off) l) (.fabric l stFirewall [])) := by
  show execFwlRegionWrite l g off v s = _
  simp [execFwlRegionWrite, ha]

theorem fwlRegionWrite_unreached {s : State} {l : Byte} {g : FwTarget} {v : Word} {off : Fin 16384} (ha : off.val % 4 = 0)
    (hw : wayOpen s (wayOf s (livSource l) (fwlBlock g)) = false) : exec (.fwlRegionWrite l g off v) s =
      .next (emit (timeOut s (targetUnit (fwlBlock g))) (.fabric l stInternal [])) := by
  show execFwlRegionWrite l g off v s = _
  simp [execFwlRegionWrite, ha, hw]

/-- A whole write of any other livery is refused by the firewall itself. -/
theorem fwlRegionWrite_stranger {s : State} {l : Byte} {g : FwTarget} {v : Word} {off : Fin 16384} (ha : l ≠ 0x0A) (hb : l ≠ 0x0B)
    (hw : wayOpen s (wayOf s (livSource l) (fwlBlock g)) = true) (hal : off.val % 4 = 0) : exec (.fwlRegionWrite l g off v) s =
      .next (emit (fwRefuse s (fwlBlock g) l (0x4000 * tgtIdx g + off) .write) (.fabric l stFirewall [])) := by
  have hi : islandLivery l = false := by
    rw [islandLivery, beq_eq_false_iff_ne.2 ha, beq_eq_false_iff_ne.2 hb, Bool.or_self]
  show execFwlRegionWrite l g off v s = _
  simp [execFwlRegionWrite, hal, hw, hi]

/-- Settles O55: each clause from the lemma of its kind of write. -/
theorem registerWrites : Obligations.RegisterWrites := by
  refine ⟨fun s u l a v p g h hp => ⟨_, registerWrite_granted h hp, rfl, ?_, ?_, ?_, ?_, ?_⟩,
    fun s u l a v st h => ⟨_, registerWrite_refused h, rfl, ?_⟩, fun s l g r o v off hoff ho ha hl hw hg => ?_,
    fun s l g v off ha hl hw hg => ?_, fun s l g v off ha => ?_, fun s l g v off h1 h2 hw => ?_,
    fun s l g v off ha hw => ⟨_, fwlRegionWrite_unreached ha hw, rfl, rfl⟩⟩
  · rintro rfl ho
    rw [ho]
    rfl
  · rintro rfl ho
    rw [ho]
    rfl
  · rintro n rfl ho
    have hm : mct (emit (writeReg u (.die n 8) p.off v) (.fabric l stOk [])) n = { mct u n with mapSh := v &&& 0x0000030F } := by
      rw [ho]
      exact mct_modMct_self u n (fun m => { m with mapSh := v &&& 0x0000030F })
    rw [hm]
    exact ⟨rfl, rfl⟩
  · rintro rfl ho
    rw [ho]
    rfl
  · rintro rfl
    obtain ⟨k, hk⟩ := writeKpm_kept u p.off v
    show (writeKpm u p.off v).mpl = _ ∧ (writeKpm u p.off v).fus = _ ∧ (writeKpm u p.off v).dies = _ ∧ (writeKpm u p.off v).qmg = _
    rw [hk]
    exact ⟨rfl, rfl, rfl, rfl⟩
  · rintro rfl
    have hk := grants_firewall_kept h
    exact hk
  · have hr := regionOff_of_eq hoff r.isLt ho
    have hs : ∀ e, fwl (emit (modFwl s g (fun f => regionWrite f off v)) e) g = regionWrite (fwl s g) off v :=
      fun _ => fwl_modFwl_self s g (fun f => regionWrite f off v)
    refine ⟨_, fwlRegionWrite_acts hr ha hl hw hg, rfl, fun x hx => bankGet_bankSet_ne _ _ _ hx, ?_⟩
    rw [hs]
    refine ⟨fun q hq => regionWrite_others hr hq, fun hk => regionWrite_locked hr hk,
      fun hk he ho => regionWrite_enabled hr hk he ho, fun hk ho => ?_, fun hk he ho => ?_⟩
    · rw [regionWrite_ctl hr hk ho, bankGet_bankSet_self]
    · rw [regionWrite_base hr hk he ho, bankGet_bankSet_self]
  · rw [fwlRegionWrite_island ha hl hw, if_pos hg]
    rfl
  · exact ⟨_, fwlRegionWrite_unaligned ha, rfl, fun x => congrArg Firewall.regions (fwl_logF s _ x), logF_dies s _, logF_mpl s _⟩
  · by_cases ha : off.val % 4 = 0
    · obtain ⟨hd, -, -, -, -, -, hm, -⟩ := blocksKept_fwRefuse s (fwlBlock g) l (0x4000 * tgtIdx g + off) .write
      exact ⟨_, fwlRegionWrite_stranger h1 h2 hw ha, rfl, fun x => fwRefuse_regions s _ l _ .write x, hd, hm⟩
    · exact ⟨_, fwlRegionWrite_unaligned ha, rfl, fun x => congrArg Firewall.regions (fwl_logF s _ x), logF_dies s _, logF_mpl s _⟩

end Sys2Proof.Proofs

/-! What the fusion engine rests on: sample buffers as memory, and what a signal keeps. -/

namespace Sys2Proof.Proofs

open Sys2Proof.Machine Sys2Proof.Safety Sys2Proof.Laws

/-! A byte range reads as it was written, and bytes outside it stay (12 R433). -/

theorem cellsFrom_range {f : Fill} {a : Nat} {bs : List Byte} {c : Host.Cell} (h : c ∈ cellsFrom f a bs) :
    a ≤ c.1 ∧ c.1 < a + bs.length :=
  ⟨rising_ge (cellsFrom_rising f a bs).1 c h, (cellsFrom_rising f a bs).2 c h⟩

theorem memByte_memWr_outside (m : Mem) {a b : Nat} {bs : List Byte} (h : b < a ∨ a + bs.length ≤ b) :
    memByte (memWr m a bs) b = memByte m b := by
  have hc : (cellsFrom m.fill a bs).find? (fun c => c.1 == b) = none := by
    rw [List.find?_eq_none]
    intro c hc he
    obtain ⟨h1, h2⟩ := cellsFrom_range hc
    have := beq_iff_eq.1 he
    omega
  unfold memByte memWr
  rw [List.find?_append, List.find?_append, hc]
  rcases h with h | h
  · rw [find_filter_of_imp, find_filter_none]
    · simp
    · intro x hx; simp at hx; simp; omega
    · intro x hx; simp at hx; simp; omega
  · rw [find_filter_none, find_filter_of_imp]
    · simp
    · intro x hx; simp at hx; simp; omega
    · intro x hx; simp at hx; simp; omega

theorem sameOutside_memWr (m : Mem) (a : Nat) (bs : List Byte) : sameOutside m (memWr m a bs) a bs.length :=
  fun _ h => memByte_memWr_outside m h

/-- The cells of a byte string read back as that string. -/
theorem walkRd_cellsFrom (f : Fill) : ∀ (bs : List Byte) (a : Nat), walkRd f bs.length a (cellsFrom f a bs) = bs
  | [], _ => rfl
  | b :: r, a => by
    have ih := walkRd_cellsFrom f r (a + 1)
    by_cases hf : f = .byte b
    · have hge : ∀ c ∈ cellsFrom f (a + 1) r, c.1 ≠ a := fun c hc => by have := (cellsFrom_range hc).1; omega
      simp only [cellsFrom, hf, if_true, List.length_cons] at ih hge ⊢
      cases hl : cellsFrom (.byte b) (a + 1) r with
      | nil => rw [hl] at ih; simp [walkRd, ih, fillAt]
      | cons c l => rw [hl] at ih hge; simp [walkRd, ih, fillAt, hge c (by simp)]
    · simp [cellsFrom, hf, walkRd, ih]

theorem memRd_memWr (m : Mem) (a : Nat) (bs : List Byte) : memRd (memWr m a bs) a bs.length = bs := by
  have hf : (memWr m a bs).cells.filter (fun c => decide (a ≤ c.1) && decide (c.1 < a + bs.length)) = cellsFrom m.fill a bs := by
    have h1 : (m.cells.filter (fun c => decide (c.1 < a))).filter (fun c => decide (a ≤ c.1) && decide (c.1 < a + bs.length)) = [] := by
      rw [List.filter_filter, List.filter_eq_nil_iff]
      intro c _
      simp
      omega
    have h2 : (cellsFrom m.fill a bs).filter (fun c => decide (a ≤ c.1) && decide (c.1 < a + bs.length)) = cellsFrom m.fill a bs := by
      rw [List.filter_eq_self]
      intro c hc
      simp [cellsFrom_range hc]
    have h3 : (m.cells.filter (fun c => decide (a + bs.length ≤ c.1))).filter
        (fun c => decide (a ≤ c.1) && decide (c.1 < a + bs.length)) = [] := by
      rw [List.filter_filter, List.filter_eq_nil_iff]
      intro c _
      simp
    simp only [memWr, List.filter_append, h1, h2, h3, List.nil_append, List.append_nil]
  unfold memRd
  rw [hf]
  exact walkRd_cellsFrom _ bs a

theorem bytesWords_wordBytes (w : Word) : bytesWords (wordBytes w) = [w] := by
  have h : ofBytes (w.extractLsb' 0 8) (w.extractLsb' 8 8) (w.extractLsb' 16 8) (w.extractLsb' 24 8) = w := by
    apply BitVec.eq_of_getLsbD_eq
    intro i hi
    simp only [ofBytes, BitVec.getLsbD_append, BitVec.getLsbD_extractLsb']
    grind
  simp [bytesWords, wordBytes, h]

theorem memRdW_memWrW_one (m : Mem) (a : Nat) (w : Word) : memRdW (memWrW m a [w]) a 1 = [w] := by
  have hb : wordsBytes [w] = wordBytes w := by simp [wordsBytes]
  rw [memWrW, memRdW, hb]
  exact (congrArg bytesWords (memRd_memWr m a (wordBytes w))).trans (bytesWords_wordBytes w)

/-! What a signal leaves (11 R405-R408): replies to its waiters write ports, an engine's WAIT its engine. -/

/-- The blocks that a signal, and the replies that it draws, leave as they are. -/
structure SignalKept (s t : State) : Prop where
  stg   : t.stg = s.stg
  tt    : t.tt = s.tt
  qmg   : t.qmg = s.qmg
  kpm   : t.kpm = s.kpm
  mpl   : t.mpl = s.mpl
  fus   : t.fus = s.fus
  cvus  : t.cvus = s.cvus
  dies  : t.dies = s.dies
  clk   : t.clk = s.clk
  iod   : t.iod = s.iod
  edgeA : t.edgeA = s.edgeA
  edgeB : t.edgeB = s.edgeB

theorem SignalKept.refl (s : State) : SignalKept s s := by constructor <;> rfl

theorem SignalKept.trans {s t u : State} (h : SignalKept s t) (k : SignalKept t u) : SignalKept s u :=
  ⟨k.stg.trans h.stg, k.tt.trans h.tt, k.qmg.trans h.qmg, k.kpm.trans h.kpm, k.mpl.trans h.mpl, k.fus.trans h.fus,
    k.cvus.trans h.cvus, k.dies.trans h.dies, k.clk.trans h.clk, k.iod.trans h.iod, k.edgeA.trans h.edgeA, k.edgeB.trans h.edgeB⟩

/-- A change for every item of a list keeps what each change keeps. -/
theorem signalKept_forAll {α : Type} {f : State → α → State} (hf : ∀ t x, SignalKept t (f t x)) (l : List α) (s : State) :
    SignalKept s (forAll s l f) :=
  forAll_keeps (SignalKept s) f (fun t x h => h.trans (hf t x)) l s (.refl s)

theorem signalKept_setWaiting (s : State) (p : Port) (l : List Pkt) : SignalKept s (setWaiting s p l) := by
  rcases p with _ | _ | _ <;> constructor <;> rfl

theorem signalKept_reply (s : State) (k : Pkt) (st : Byte) (data : List Word) : SignalKept s (reply s k st data) := by
  constructor <;> simp

theorem signalKept_logF (s : State) (f : Fact) : SignalKept s (logF s f) := by
  constructor <;> simp

theorem signalKept_flush (s : State) (p : Port) : SignalKept s (flush s p) := by
  refine signalKept_forAll (fun t k => ?_) _ s
  unfold flushOne
  split
  · split
    · exact .refl t
    · exact (signalKept_setWaiting t _ _).trans (signalKept_reply _ _ _ _)
  · exact .refl t

theorem signalKept_turnAway (s : State) (k : Pkt) (st : Byte) (step expect idx : Nat) :
    SignalKept s (turnAway s k st step expect idx) :=
  (signalKept_setWaiting s _ _).trans (signalKept_flush _ _)

theorem signalKept_countErr (s : State) (p : Port) (f : Hpt → Hpt) : SignalKept s (countErr s p f) := by
  unfold countErr
  split <;> constructor <;> rfl

theorem signalKept_setAlive (s : State) (p : Port) (c : Nat) (v : BitVec 8) : SignalKept s (setAlive s p c v) := by
  rcases p with _ | _ | _ <;> constructor <;> rfl

theorem signalKept_arrive (s : State) (p : Port) (bs : List Byte) : SignalKept s (arrive s p bs) := by
  unfold arrive
  dsimp only
  split
  · exact signalKept_turnAway _ _ _ _ _ _
  · split
    · exact (signalKept_countErr _ _ _).trans (signalKept_turnAway _ _ _ _ _ _)
    · split
      · exact signalKept_turnAway _ _ _ _ _ _
      · split
        · exact signalKept_setWaiting _ _ _
        · split
          · exact (signalKept_setAlive _ _ _ _).trans (signalKept_setWaiting _ _ _)
          · exact (signalKept_countErr _ _ _).trans (signalKept_turnAway _ _ _ _ _ _)

theorem signalKept_intakeList : ∀ (l : List (List Byte)) (s : State), SignalKept s (intakeList s l)
  | [], _ => by constructor <;> rfl
  | b :: r, s => by
    unfold intakeList
    dsimp only
    split
    · exact (signalKept_arrive s _ _).trans (signalKept_intakeList r _)
    · constructor <;> rfl

theorem signalKept_intake (s : State) : SignalKept s (intake s) := by
  unfold intake
  split
  · exact .refl s
  · exact signalKept_intakeList _ s

theorem signalKept_setDis (s : State) (f : Dis → Dis) : SignalKept s (setDis s f) := by constructor <;> rfl

theorem signalKept_completeDefers (s : State) (k : DefKind) (st : Byte) (data : List Word) :
    SignalKept s (completeDefers s k st data) := by
  have hr := (signalKept_setDis s (fun d => { d with defers := d.defers.filter (fun d => !(d.what == k)) })).trans
    (signalKept_forAll (fun (t : State) (d : Deferred) => signalKept_reply t d.pkt st data) (s.dis.defers.filter (fun d => d.what == k)) _)
  unfold completeDefers
  dsimp only
  split
  · exact hr.trans (signalKept_intake _)
  · exact hr

theorem signalKept_endEngWait (s : State) (g : Nat) (st : Byte) : SignalKept s (endEngWait s g st) := by
  unfold endEngWait
  split
  · obtain ⟨e, n, h⟩ := engDone_eq s g st _ true
    rw [h]
    constructor <;> rfl
  · constructor <;> rfl

theorem signalKept_releaseWaiter (s : State) (w : Waiter) (st : Byte) (v : Nat) : SignalKept s (releaseWaiter s w st v) := by
  cases w with
  | host id n t => exact signalKept_completeDefers s _ st _
  | engine g n => exact signalKept_endEngWait s g st

theorem signalKept_setObj (s : State) (k : Nat) (o : SynObj) : SignalKept s (setObj s k o) := by constructor <;> rfl

theorem signalKept_serveObj (s : State) (k : Nat) : SignalKept s (serveObj s k) :=
  (signalKept_setObj s k _).trans (signalKept_forAll (fun t _ => signalKept_releaseWaiter t _ stOk _) _ _)

theorem signalKept_signalObj (s : State) (k n : Nat) : SignalKept s (signalObj s k n).2 := by
  unfold signalObj
  refine SignalKept.trans ?_ (signalKept_serveObj _ k)
  split <;> constructor <;> rfl

/-- The signal of a publish event leaves the fusion engine as it is (R335). -/
theorem signalKept_fusSignal (s : State) : SignalKept s (fusSignal s) := by
  have hd : SignalKept s (logF { s with syn := { s.syn with badsig := true } } { cls := 0x11, unit := unitIod, livery := 0x05 }) :=
    SignalKept.trans (by constructor <;> rfl) (signalKept_logF _ _)
  unfold fusSignal
  dsimp only
  split
  · exact .refl s
  · split
    · exact hd
    · split
      · exact signalKept_signalObj s _ 1
      · exact hd

end Sys2Proof.Proofs

namespace Sys2Proof.Proofs

open Sys2Proof.Machine Sys2Proof.Safety Sys2Proof.Laws

/-! Samples (R327, R361). -/

/-- A publish word stands in the sample buffers, and its sample waits in its stream alone. -/
theorem publishWord_eq (s : State) (n : Nat) (w : Word) (now : Nat) : ∃ late, publishWord s n w now = { s with fus := { s.fus with
    mem := memWrW s.fus.mem (0x80 * n) [w]
    streams := bankSet defStream s.fus.streams n
      { stream s n with pubs := (stream s n).pubs ++ [{ word := w, at_ := now, late := late }] } } } ∧
    (s.fus.lastTref = none → late = false) :=
  ⟨_, rfl, fun h => by rw [h]; rfl⟩

/-- SAMPLE_PUBLISH by a writer of the stream, past the firewall and a clock that runs. -/
theorem samplePublish_writer {s : State} {l : Byte} {n : Fin 20} (w : Word) (now : Nat)
    (hf : fwAllows s (.iod 23) l (0x80 * n.val) 4 .write = true) (hr : s.fus.ready = true)
    (hw : streamWriter s n.val l = true) (hg : gateClosed s.clk 12 2 = false) : exec (.samplePublish l n w now) s =
      .next (emit (publishWord { s with vtime := now } n w now) (.fabric l stOk [])) := by
  have hf' : fwAllows { s with vtime := now } (.iod 23) l (0x80 * n.val) 4 .write = true := hf
  have hw' : streamWriter { s with vtime := now } n.val l = true := hw
  show execSamplePublish l n w now s = _
  simp only [execSamplePublish, hf', hr, hw', hg]
  rfl

/-- Any other livery is refused (R361). -/
theorem samplePublish_stranger {s : State} {l : Byte} {n : Fin 20} (w : Word) (now : Nat)
    (hf : fwAllows s (.iod 23) l (0x80 * n.val) 4 .write = true) (hw : streamWriter s n.val l = false) :
    exec (.samplePublish l n w now) s = .next (emit { s with vtime := now } (.fabric l stFirewall [])) := by
  have hf' : fwAllows { s with vtime := now } (.iod 23) l (0x80 * n.val) 4 .write = true := hf
  have hw' : streamWriter { s with vtime := now } n.val l = false := hw
  show execSamplePublish l n w now s = _
  simp [execSamplePublish, hf', hw']

/-- The oldest held write takes effect, and what the round still copies of its buffer is settled (R332). -/
theorem sampleBufferWriteRelease_eq {s : State} {w : HeldWrite} {r : List HeldWrite} (h : s.fus.held = w :: r) :
    exec .sampleBufferWriteRelease s = .next (heldDone { s with fus := { s.fus with
      held := r, mem := memWr s.fus.mem w.addr w.data
      round := s.fus.round.map (fun x => { x with copying := x.copying.filter (fun b => !onBuf w.addr w.data.length b) }) } } w) := by
  show execSampleBufferWriteRelease s = _
  simp only [execSampleBufferWriteRelease, h]
  rfl

/-! What the phases of a round change before its publication: streams, and the log (R329). -/

/-- Of the fusion engine only the streams differ, and of the device only what an entry of the log writes. -/
structure StreamsOnly (s t : State) : Prop where
  fus  : t.fus = { s.fus with streams := t.fus.streams }
  stg  : t.stg = s.stg
  mpl  : t.mpl = s.mpl
  dies : t.dies = s.dies

theorem StreamsOnly.refl (s : State) : StreamsOnly s s := ⟨rfl, rfl, rfl, rfl⟩

theorem StreamsOnly.trans {s t u : State} (h : StreamsOnly s t) (k : StreamsOnly t u) : StreamsOnly s u :=
  ⟨by rw [k.fus, h.fus], k.stg.trans h.stg, k.mpl.trans h.mpl, k.dies.trans h.dies⟩

theorem StreamsOnly.gen {s t : State} (h : StreamsOnly s t) : t.fus.gen = s.fus.gen := by rw [h.fus]

theorem streamsOnly_forAll {α : Type} {f : State → α → State} (hf : ∀ t x, StreamsOnly t (f t x)) (l : List α) (s : State) :
    StreamsOnly s (forAll s l f) :=
  forAll_keeps (StreamsOnly s) f (fun t x h => h.trans (hf t x)) l s (.refl s)

theorem streamsOnly_modStream (s : State) (n : Nat) (f : Stream → Stream) : StreamsOnly s (modStream s n f) := ⟨rfl, rfl, rfl, rfl⟩

theorem streamsOnly_modStreams {α : Type} (l : List α) (s : State) (n : α → Nat) (f : α → Stream → Stream) :
    StreamsOnly s (forAll s l (fun t k => modStream t (n k) (f k))) :=
  streamsOnly_forAll (fun t k => streamsOnly_modStream t (n k) (f k)) l s

theorem streamsOnly_mod14 (s : State) : StreamsOnly s (mod14 s) := by
  constructor <;> simp [mod14]

theorem streamsOnly_takeSample (n : Nat) (acc : State × Stream × Bool) (p : Publish) : StreamsOnly acc.1 (takeSample n acc p).1 := by
  unfold takeSample
  dsimp only
  split
  · exact .refl _
  · exact streamsOnly_mod14 _

theorem streamsOnly_takeSamples (n : Nat) : ∀ (l : List Publish) (acc : State × Stream × Bool),
    StreamsOnly acc.1 (l.foldl (takeSample n) acc).1
  | [], acc => .refl acc.1
  | p :: l, acc => (streamsOnly_takeSample n acc p).trans (streamsOnly_takeSamples n l _)

/-- Phase 1 of a round for one stream. -/
theorem streamsOnly_phaseOne (c : FusCfg) (start : Nat) (s : State) (n : Nat) : StreamsOnly s (phaseOne c start s n) := by
  unfold phaseOne
  dsimp only
  split
  · exact streamsOnly_modStream _ _ _
  · have h := streamsOnly_takeSamples n (stream s n).pubs (s, { stream s n with pubs := [], gaps := 0, lateCnt := 0 }, false)
    generalize (stream s n).pubs.foldl (takeSample n) (s, { stream s n with pubs := [], gaps := 0, lateCnt := 0 }, false) = acc at h ⊢
    obtain ⟨t, st, failed⟩ := acc
    refine h.trans (.trans ?_ (streamsOnly_modStream _ _ _))
    dsimp only
    split
    · exact streamsOnly_mod14 t
    · exact .refl t

theorem streamsOnly_maskOutlier (s : State) (n : Nat) : StreamsOnly s (maskOutlier s n) := by
  unfold maskOutlier
  refine StreamsOnly.trans ?_ (streamsOnly_modStream _ _ _)
  split
  · exact .refl s
  · exact streamsOnly_mod14 s

theorem streamsOnly_egoPhase (s : State) (c : FusCfg) (used : List (Nat × Sample)) : StreamsOnly s (egoPhase s c used).2 := by
  unfold egoPhase
  dsimp only
  refine streamsOnly_forAll (fun t n => ?_) _ s
  refine (streamsOnly_modStream t n (fun st => { st with
    egoRounds := if (combineEgo s c used).out.contains n then st.egoRounds + 1 else 0 })).trans ?_
  generalize modStream t n _ = v
  split
  · exact streamsOnly_maskOutlier v n
  · exact .refl v

/-! The round's start (R330, R331, R364). The pair of `roundStart` is given by its two parts, so that a proof about the start
takes no step into the arithmetic of the stage. -/

/-- The time of a round's start. -/
def roundAt (s : State) : Nat :=
  if mainNs s < 10000 * (fusCfg s.fus.cfg).start + 900000 then s.stg.tick + (mainNs s - 900000)
  else s.stg.tick + 10000 * (fusCfg s.fus.cfg).start

/-- Whether a round starts before the time of its configuration. -/
def roundMoved (s : State) : Bool := decide (mainNs s < 10000 * (fusCfg s.fus.cfg).start + 900000)

theorem roundStart_eq (s : State) : roundStart s = (roundAt s, roundMoved s) := by
  unfold roundStart roundAt roundMoved
  dsimp only
  split
  · simp only [*, decide_true]
  · simp only [*, decide_false]

/-- The masks and the clear request of the host are taken as the round starts. -/
def roundMasked (s : State) (now : Nat) : State :=
  setFus { s with vtime := now } (fun u => { u with
    hmask := u.hmaskReq, badcfg := u.badcfg || roundMoved s, lastTref := some (roundTref s)
    lastRound := some s.stg.tick, clearReq := false })

/-- Phase 1 over all streams. -/
def roundChecked (s : State) (now : Nat) : State :=
  forAll (roundMasked s now) (List.range 20) (phaseOne (fusCfg s.fus.cfg) now)

/-- The samples of the streams that contribute. -/
def roundUsed (s : State) (c : FusCfg) : List (Nat × Sample) :=
  (List.range 20).filterMap (fun n => if contributes s c n then (stream s n).cur.map (fun sm => (n, sm)) else none)

/-- The round that starts at `now`, with the samples that phase 1 leaves in use. -/
def roundBegun (s : State) (now : Nat) : Round :=
  { start := now, tref := roundTref (roundChecked s now), tick := (roundChecked s now).stg.tick
    stage := (roundChecked s now).stg.stage, used := roundUsed (roundChecked s now) (fusCfg s.fus.cfg)
    copying := (roundUsed (roundChecked s now) (fusCfg s.fus.cfg)).flatMap (fun e => sampleBufs e.1 e.2.seq)
    clear := s.fus.clearReq }

/-- Whether no round can start at `now`. -/
def roundHeld (s : State) (now : Nat) : Bool :=
  !s.fus.ready || s.fus.round.isSome || s.stg.inlay || decide (now < roundAt s) || decide (s.fus.lastRound = some s.stg.tick)

theorem fusionRoundStart_cases (s : State) (now : Nat) : exec (.fusionRoundStart now) s =
    .next (if roundHeld (flushFus s) now then flushFus s
      else setFus (roundChecked (flushFus s) now) (fun u => { u with round := some (roundBegun (flushFus s) now) })) := by
  show execFusionRoundStart now s = _
  unfold execFusionRoundStart
  rw [funext roundStart_eq]
  rfl

/-- A stream that contributes is not masked. -/
theorem roundUsed_unmasked {s : State} {c : FusCfg} {e : Nat × Sample} (h : e ∈ roundUsed s c) : s.fus.hmask.getLsbD e.1 = false := by
  obtain ⟨n, -, hn⟩ := List.mem_filterMap.1 h
  split at hn
  · rename_i hc
    obtain ⟨sm, -, rfl⟩ := Option.map_eq_some_iff.1 hn
    simp only [contributes, streamMasked, Bool.and_eq_true, Bool.not_eq_true', Bool.or_eq_false_iff] at hc
    exact hc.2.1
  · cases hn

theorem streamsOnly_roundChecked (s : State) (now : Nat) : StreamsOnly (roundMasked s now) (roundChecked s now) :=
  streamsOnly_forAll (fun t n => streamsOnly_phaseOne _ now t n) _ _

/-- A round starts once the stage has come to its time. -/
theorem fusionRoundStart_eq {s : State} {now : Nat} (hr : s.fus.ready = true) (hn : s.fus.round = none) (hl : s.stg.inlay = false)
    (ht : roundAt s ≤ now) (ho : s.fus.lastRound ≠ some s.stg.tick) (hd : s.fus.defCommit = none) :
    exec (.fusionRoundStart now) s =
      .next (setFus (roundChecked s now) (fun u => { u with round := some (roundBegun s now) })) := by
  have hf : flushFus s = s := by simp [flushFus, hd]
  have hg : roundHeld s now = false := by simp [roundHeld, hr, hn, hl, ht, ho]
  rw [fusionRoundStart_cases, hf, hg]
  rfl

/-! Publication (R334, R335). -/

/-- What a publish event makes of the fusion engine: a new table in the buffer that was not published, and no round. -/
structure Published (tref g : Nat) (u v : Fus) : Prop where
  round  : v.round = none
  pub    : v.pub = !u.pub
  anyPub : v.anyPub = true
  gen    : v.gen = g
  tvalid : (pubTable v).tvalid = tref
  tabGen : (pubTable v).gen = g
  old    : (if u.pub then v.table1 else v.table0) = pubTable u
  mem    : v.mem = u.mem

/-- A publication is one table and one report, over streams that the round's checks have changed. -/
theorem publishRound_eq (s : State) (r : Round) (now : Nat) : ∃ t f, StreamsOnly s t ∧ publishRound s r now = fusSignal (setFus t f) ∧
    ∀ u, Published r.tref ((s.fus.gen + 1) % 2 ^ 32) u (f u) := by
  unfold publishRound
  extract_lets c old ep s1 was
  have h1 : StreamsOnly s s1 := ⟨rfl, rfl, rfl, rfl⟩
  clear_value s1 c old ep was
  have h2 := h1.trans (streamsOnly_egoPhase s1 c r.used)
  generalize egoPhase s1 c r.used = x at h2 ⊢
  obtain ⟨e, s2⟩ := x
  dsimp only at h2 ⊢
  generalize limitDets (r.used.filter (fun k => contributes s2 c k.1)) 0 = y
  obtain ⟨used, cut⟩ := y
  dsimp only
  refine ⟨_, _, ?_, rfl, fun u => ?_⟩
  · exact .trans (.trans h2 (.trans (streamsOnly_modStreams _ s2 id _) (streamsOnly_forAll streamsOnly_maskOutlier _ _)))
      (.trans (streamsOnly_modStreams _ _ _ _) (streamsOnly_modStreams _ _ id _))
  · simp only [(streamsOnly_forAll streamsOnly_maskOutlier _ _).gen, (streamsOnly_modStreams _ _ _ _).gen, h2.gen]
    cases hp : u.pub <;> constructor <;> simp [pubTable, hp]
end Sys2Proof.Proofs

namespace Sys2Proof.Proofs

open Sys2Proof.Machine Sys2Proof.Safety Sys2Proof.Laws

/-! Commits of the fusion configuration (R11, R365). -/

theorem flushFus_none {s : State} (h : s.fus.defCommit = none) : flushFus s = s := by
  simp [flushFus, h]

/-- Outside a round a commit takes a good set of shadows. -/
theorem fusCommitNow_good {s : State} (hr : s.fus.round = none) (hd : s.fus.defCommit = none)
    (hb : fusCfgBad s s.fus.shadow = none) : fusCommitNow s = { s with fus := { s.fus with cfg := s.fus.shadow } } := by
  rw [fusCommitNow, if_neg (by simp [hr]), flushFus_none hd, commitFus, if_pos (by simp [hb])]
  rfl

/-- A bad one it drops whole. -/
theorem fusCommitNow_bad {s : State} (hr : s.fus.round = none) (hd : s.fus.defCommit = none)
    (hb : fusCfgBad s s.fus.shadow ≠ none) :
    fusCommitNow s = { s with fus := { s.fus with shadow := s.fus.cfg, badcfg := true } } := by
  rw [fusCommitNow, if_neg (by simp [hr]), flushFus_none hd, commitFus, if_neg (by simpa using hb)]
  rfl

/-- During a round it is ignored, with a flag. -/
theorem fusCommitNow_busy {s : State} (hr : s.fus.round ≠ none) :
    fusCommitNow s = { s with fus := { s.fus with busywr := true } } := by
  rw [fusCommitNow, if_pos (Option.isSome_iff_ne_none.2 hr)]
  rfl

/-- What a stage boundary found in the shadows is flushed once no round runs. -/
theorem fusDeferredCommit_eq {s : State} {ws : List Word} (hd : s.fus.defCommit = some ws) (hr : s.fus.round = none) :
    exec .fusDeferredCommit s = .next (setFus s (fun u => fusKept u ws (fusCfgBad s ws).isNone)) := by
  show execFusDeferredCommit s = _
  simp [execFusDeferredCommit, flushFus, hd, hr]

theorem fusDeferredCommit_good {s : State} {ws : List Word} (hd : s.fus.defCommit = some ws) (hr : s.fus.round = none)
    (hb : fusCfgBad s ws = none) :
    exec .fusDeferredCommit s = .next { s with fus := { s.fus with defCommit := none, cfg := ws } } := by
  rw [fusDeferredCommit_eq hd hr, hb]
  rfl

theorem fusDeferredCommit_bad {s : State} {ws : List Word} (hd : s.fus.defCommit = some ws) (hr : s.fus.round = none)
    (hb : fusCfgBad s ws ≠ none) : exec .fusDeferredCommit s = .next { s with fus := { s.fus with
      defCommit := none, shadow := dropped s.fus.shadow ws s.fus.cfg, badcfg := true } } := by
  rw [fusDeferredCommit_eq hd hr, Option.isNone_eq_false_iff.2 (Option.isSome_iff_ne_none.2 hb)]
  rfl

/-! The clauses about samples and rounds. -/

/-- What SAMPLE_PUBLISH leaves, read back from the stream and from the sample buffers. -/
theorem publishWord_reads {s t : State} {n : Nat} {w : Word} {now : Nat} (h : t.fus = (publishWord s n w now).fus) :
    (∃ late, (stream t n).pubs = (stream s n).pubs ++ [{ word := w, at_ := now, late := late }] ∧
      (s.fus.lastTref = none → late = false)) ∧
    (∀ m, m ≠ n → stream t m = stream s m) ∧ memRdW t.fus.mem (0x80 * n) 1 = [w] ∧
    sameOutside s.fus.mem t.fus.mem (0x80 * n) 4 ∧ t.fus.round = s.fus.round ∧ pubTable t.fus = pubTable s.fus := by
  obtain ⟨late, hp, hl⟩ := publishWord_eq s n w now
  rw [hp] at h
  unfold stream
  rw [h]
  refine ⟨⟨late, ?_, hl⟩, fun m hm => ?_, memRdW_memWrW_one _ _ w, sameOutside_memWr _ _ (wordBytes w), rfl, rfl⟩
  · rw [bankGet_bankSet_self]
    rfl
  · exact bankGet_bankSet_ne _ _ _ hm

/-- The held write is in the buffers, and its initiator's answer in the output where it waits for one (R332). -/
theorem sampleBufferWriteRelease_reads {s : State} {w : HeldWrite} {r : List HeldWrite} (h : s.fus.held = w :: r) :
    ∃ t, exec .sampleBufferWriteRelease s = .next t ∧
      t.fus = { s.fus with held := r, mem := memWr s.fus.mem w.addr w.data, round := t.fus.round } ∧
      t.out = (if w.eng = none ∧ w.owed = true then .fabric w.livery stOk [] :: s.out else s.out) ∧ t.dies = s.dies ∧
      (w.eng = none → t = { s with fus := t.fus, out := t.out }) := by
  refine ⟨_, sampleBufferWriteRelease_eq h, ?_⟩
  cases he : w.eng with
  | none =>
    rw [heldDone_fabric he]
    exact ⟨rfl, by simp, rfl, fun _ => rfl⟩
  | some g =>
    obtain ⟨e, n, hd⟩ := heldDone_engine (s := _) he
    rw [hd]
    exact ⟨rfl, by simp, rfl, fun h => nomatch h⟩

/-- Once the checks of phase 1 are made: the requests of the host are taken, and else streams alone have changed. -/
theorem roundChecked_fus (s : State) (now : Nat) : (roundChecked s now).fus = { s.fus with
    hmask := s.fus.hmaskReq, badcfg := s.fus.badcfg || roundMoved s, lastTref := some (roundTref s)
    lastRound := some s.stg.tick, clearReq := false, streams := (roundChecked s now).fus.streams } :=
  (streamsOnly_roundChecked s now).fus

theorem roundChecked_stg (s : State) (now : Nat) : (roundChecked s now).stg = s.stg := (streamsOnly_roundChecked s now).stg

theorem roundTref_checked (s : State) (now : Nat) : roundTref (roundChecked s now) = roundTref s := by
  rw [roundTref, roundChecked_fus, roundChecked_stg]
  rfl

/-- The buffers of a round that begins are those of the samples in use. -/
theorem roundBegun_copying (s : State) (now : Nat) (b : Nat) :
    b ∈ (roundBegun s now).copying ↔ ∃ e ∈ (roundBegun s now).used, b ∈ sampleBufs e.1 e.2.seq :=
  List.mem_flatMap

/-- No sample of a masked stream is in use (R364). -/
theorem roundBegun_unmasked {s : State} {now : Nat} {e : Nat × Sample} (h : e ∈ (roundBegun s now).used) :
    s.fus.hmaskReq.getLsbD e.1 = false := by
  have k := roundUsed_unmasked h
  rwa [roundChecked_fus] at k

/-- A round starts with the requests of the host, and leaves the published table and the sample buffers. -/
theorem fusionRoundStart_begins {s : State} {now : Nat} (hr : s.fus.ready = true) (hn : s.fus.round = none)
    (hl : s.stg.inlay = false) (ht : (roundStart s).1 ≤ now) (ho : s.fus.lastRound ≠ some s.stg.tick)
    (hd : s.fus.defCommit = none) : ∃ t r, exec (.fusionRoundStart now) s = .next t ∧ t.fus.round = some r ∧
      r.start = now ∧ r.tref = s.stg.tick + 500000 * fld (nth s.fus.cfg 0) 31 24 ∧ r.stage = s.stg.stage ∧
      r.clear = s.fus.clearReq ∧ t.fus.clearReq = false ∧ t.fus.hmask = s.fus.hmaskReq ∧ t.fus.gen = s.fus.gen ∧
      t.fus.lastRound = some s.stg.tick ∧ t.fus.lastTref = some r.tref ∧
      (∀ b, b ∈ r.copying ↔ ∃ e ∈ r.used, b ∈ sampleBufs e.1 e.2.seq) ∧
      pubTable t.fus = pubTable s.fus ∧ t.fus.mem = s.fus.mem ∧ t.stg = s.stg ∧ t.dies = s.dies ∧
      ∀ e ∈ r.used, s.fus.hmaskReq.getLsbD e.1 = false := by
  rw [roundStart_eq] at ht
  have hf := roundChecked_fus s now
  refine ⟨_, roundBegun s now, fusionRoundStart_eq hr hn hl ht ho hd, rfl, rfl, roundTref_checked s now,
    by rw [← roundChecked_stg s now]; rfl, rfl, (congrArg Fus.clearReq hf : _), (congrArg Fus.hmask hf : _),
    (congrArg Fus.gen hf : _), (congrArg Fus.lastRound hf : _), ?_, roundBegun_copying s now, (congrArg pubTable hf : _), (congrArg Fus.mem hf : _),
    roundChecked_stg s now, (streamsOnly_roundChecked s now).dies, fun e he => roundBegun_unmasked he⟩
  exact (congrArg Fus.lastTref hf : _).trans (congrArg some (roundTref_checked s now).symm)

/-- A round's publication: one new table, beside the one before (R334). -/
theorem fusionPublish_publishes {s : State} {r : Round} {now : Nat} (hr : s.fus.round = some r) :
    ∃ t, exec (.fusionPublish now) s = .next t ∧ Published r.tref ((s.fus.gen + 1) % 2 ^ 32) s.fus t.fus ∧
      t.stg = s.stg ∧ t.mpl = s.mpl ∧ t.dies = s.dies := by
  obtain ⟨u, f, hu, hp, hf⟩ := publishRound_eq { s with vtime := now } r now
  have hs := signalKept_fusSignal (setFus u f)
  refine ⟨fusSignal (setFus u f), ?_, ?_, hs.stg.trans hu.stg, hs.mpl.trans hu.mpl, hs.dies.trans hu.dies⟩
  · show execFusionPublish now s = _
    simp only [execFusionPublish, hr, hp]
  · rw [hs.fus]
    show Published _ _ _ (f u.fus)
    have h := hf u.fus
    rw [hu.fus] at h ⊢
    exact ⟨h.round, h.pub, h.anyPub, h.gen, h.tvalid, h.tabGen, h.old, h.mem⟩

/-- Settles O51: samples, held writes, the start and the publication of a round, and the commits, each from its own lemma. -/
theorem fusionRounds : Obligations.FusionRounds := by
  refine ⟨fun s l n w now hf hr hw hg => ?_, fun s l n w now hf hw => ⟨_, samplePublish_stranger w now hf hw, rfl, rfl⟩,
    fun s w r h => sampleBufferWriteRelease_reads h,
    fun s now hr hn hl ht ho hd => fusionRoundStart_begins hr hn hl ht ho hd, fun s r now hr => ?_,
    fun s ho => atOpen_closed fusCommitNow ho, fun s ho => ⟨fun hr hd hb => ?_, fun hr hd hb => ?_, fun hr => ?_⟩,
    fun s ws hd hr => ⟨fusDeferredCommit_good hd hr, fun hb h1 h2 h3 =>
      ⟨_, fusDeferredCommit_bad hd hr hb, rfl, fun i hi => nth_dropped h2 h1 h3 hi⟩⟩⟩
  · obtain ⟨hpub, hother, hword, hout, hround, htab⟩ := publishWord_reads (s := { s with vtime := now }) (n := n.val) (w := w)
      (now := now) (t := emit (publishWord { s with vtime := now } n w now) (.fabric l stOk [])) rfl
    exact ⟨_, samplePublish_writer w now hf hr hw hg, rfl, hpub, hother, hword, hout, hround, htab, rfl⟩
  · obtain ⟨t, ht, h, hs, hm, hd⟩ := fusionPublish_publishes (now := now) hr
    exact ⟨t, ht, h.round, h.pub, h.anyPub, h.gen, h.tvalid, h.tabGen, h.old, h.mem, hs, hm, hd⟩
  · exact (atOpen_open fusCommitNow ho).trans (congrArg _ (fusCommitNow_good hr hd hb))
  · exact (atOpen_open fusCommitNow ho).trans (congrArg _ (fusCommitNow_bad hr hd hb))
  · exact (atOpen_open fusCommitNow ho).trans (congrArg _ (fusCommitNow_busy hr))

end Sys2Proof.Proofs

/-! The islands' steps from gate report to release (13, Table 13-13). -/

namespace Sys2Proof.Proofs

open Sys2Proof.Machine Sys2Proof.Safety Sys2Proof.Laws

/-! An island's registers: changes in a row, and what a change of them leaves. -/

theorem modIsl_modIsl (s : State) (i : Isl) (f g : Island → Island) :
    modIsl (modIsl s i f) i g = modIsl s i (fun x => g (f x)) := by
  cases i <;> rfl

theorem modIsl_frame (s : State) (i : Isl) (f : Island → Island) :
    modIsl s i f = { s with sia := (modIsl s i f).sia, sib := (modIsl s i f).sib } := by
  cases i <;> rfl

/-- What a change of an island's registers leaves of them. -/
theorem isl_modIsl_of {α : Type} (p : Island → α) {s : State} {i : Isl} {f : Island → Island}
    (hf : p (f (isl s i)) = p (isl s i)) : p (isl (modIsl s i f) i) = p (isl s i) := by
  rw [isl_modIsl_self, hf]

@[simp] theorem slotWords_modIsl (s : State) (i : Isl) (f : Island → Island) (n : Nat) :
    slotWords (modIsl s i f) n = slotWords s n := by
  simp [slotWords]

@[simp] theorem edge_modIsl (s : State) (i : Isl) (f : Island → Island) (e : Edge) : edge (modIsl s i f) e = edge s e := by
  cases e <;> simp [edge]

@[simp] theorem isl_setMpl (s : State) (f : Mpl → Mpl) (i : Isl) : isl (setMpl s f) i = isl s i := by
  cases i <;> rfl

@[simp] theorem isl_putSlot (s : State) (n : Nat) (ws : List Word) (i : Isl) : isl (putSlot s n ws) i = isl s i :=
  isl_setMpl s _ i

@[simp] theorem isl_fresh (s : State) (i : Isl) : isl (fresh s).2 i = isl s i := by
  cases i <;> rfl

@[simp] theorem isl_bothEdge (s : State) (f : RingEdge → RingEdge) (i : Isl) : isl (bothEdge s f) i = isl s i := by
  cases i <;> rfl

@[simp] theorem edge_bothEdge (s : State) (f : RingEdge → RingEdge) (e : Edge) : edge (bothEdge s f) e = f (edge s e) := by
  cases e <;> rfl

/-- The way of an island depends on its link, and on no other of its registers (R30). -/
theorem hears_modIsl {s : State} {i : Isl} {f : Island → Island} (hf : (f (isl s i)).linkUp = (isl s i).linkUp) :
    hears (modIsl s i f) i = hears s i := by
  rw [hears, hears, isl_modIsl_self, edge_modIsl, hf]

theorem reachesMpl_modIsl {s : State} {i : Isl} {f : Island → Island} (hf : (f (isl s i)).linkUp = (isl s i).linkUp) :
    reachesMpl (modIsl s i f) i = reachesMpl s i := by
  rw [reachesMpl, reachesMpl, hears_modIsl hf, modIsl_mpl]

theorem hears_of_reachesMpl {s : State} {i : Isl} (h : reachesMpl s i = true) : hears s i = true :=
  (Bool.and_eq_true_iff.1 h).1

/-! An island that fails (R465). -/

@[simp] theorem isl_setHpt (s : State) (h : Hpt) (i : Isl) : isl (setHpt s h) i = isl s i := by
  cases i <;> simp [isl]

@[simp] theorem isl_bothIsl (s : State) (f : Island → Island) (i : Isl) : isl (bothIsl s f) i = f (isl s i) := by
  cases i <;> rfl

/-- An entry of the fault log changes an island as `islTake` does, with the island's own stage where the IOD core is down (R516). -/
theorem isl_addEntry (s : State) (e : Entry) (i : Isl) :
    ∃ g, isl (addEntry s e) i = islTake (isl s i) { e with stage := g } := by
  have hb := isl_bothIsl s (fun x => islTake x (if iodReady s then e else { e with stage := x.rep.stage % 2 ^ 32 })) i
  have he : ∃ g, (if iodReady s then e else { e with stage := (isl s i).rep.stage % 2 ^ 32 }) = { e with stage := g } := by
    split
    · exact ⟨e.stage, rfl⟩
    · exact ⟨_, rfl⟩
  obtain ⟨g, hg⟩ := he
  refine ⟨g, Eq.trans ?_ (hb.trans (congrArg _ hg))⟩
  unfold addEntry
  dsimp only
  generalize bothIsl s _ = t
  split
  · rfl
  · exact isl_setHpt t _ i

/-- So does a fact of the log, whose class and kind the entry takes. -/
theorem isl_logF (s : State) (f : Fact) (i : Isl) : ∃ e : Entry, isl (logF s f) i = islTake (isl s i) e ∧ e.cls = f.cls ∧
    e.kind = f.kind.getD (kindClass f.cls) := by
  unfold logF
  dsimp only
  split
  · obtain ⟨g, he⟩ := isl_addEntry (fresh s).2 _ i
    exact ⟨_, he.trans (by rw [isl_fresh]), rfl, rfl⟩
  · obtain ⟨g, he⟩ := isl_addEntry s _ i
    exact ⟨_, he, rfl, rfl⟩

@[simp] theorem islTake_st (x : Island) (e : Entry) : (islTake x e).st = x.st := by unfold islTake; split <;> rfl
@[simp] theorem islTake_hrerr (x : Island) (e : Entry) : (islTake x e).hrerr = x.hrerr := by unfold islTake; split <;> rfl
@[simp] theorem islTake_shoe (x : Island) (e : Entry) : (islTake x e).shoe = x.shoe := by unfold islTake; split <;> rfl
@[simp] theorem islTake_step (x : Island) (e : Entry) : (islTake x e).step = x.step := by unfold islTake; split <;> rfl
@[simp] theorem islTake_reportQ (x : Island) (e : Entry) : (islTake x e).reportQ = x.reportQ := by unfold islTake; split <;> rfl

/-- Island `i` has failed on a record of its RAM: its steps stand where they stood, and the rest of the device goes on. -/
structure RamFailed (i : Isl) (s t : State) : Prop where
  st      : (isl t i).st = 4
  hrerr   : (isl t i).hrerr = true
  shoe    : (isl t i).shoe = (isl s i).shoe
  step    : (isl t i).step = (isl s i).step
  reportQ : (isl t i).reportQ = (isl s i).reportQ
  other   : (isl t (otherIsl i)).st = (isl s (otherIsl i)).st
  mpl     : t.mpl = s.mpl
  dies    : t.dies = s.dies

/-- The entry of an island fault leaves what its steps rest on. -/
theorem ramFailed_failIsl {s : State} {i : Isl} (h : (isl s i).hrerr = true) : RamFailed i s (failIsl s i) := by
  unfold failIsl
  dsimp only
  obtain ⟨e, he, -⟩ := isl_logF s { cls := 0x0D, unit := islUnit i, reaction := 5 } i
  obtain ⟨e', ho, -⟩ := isl_logF s { cls := 0x0D, unit := islUnit i, reaction := 5 } (otherIsl i)
  constructor <;> simp only [isl_modIsl_self, isl_modIsl_other, modIsl_mpl, modIsl_dies, logF_mpl, logF_dies, he, ho, islTake_st,
    islTake_hrerr, islTake_shoe, islTake_step, islTake_reportQ, h]

theorem ramFailed_ramFails (s : State) (i : Isl) : RamFailed i s (ramFails s i) := by
  have hs : isl (modIsl s i (fun x => { x with hrerr := true })) i = { isl s i with hrerr := true } := isl_modIsl_self s i _
  have h := ramFailed_failIsl (congrArg Island.hrerr hs)
  exact ⟨h.st, h.hrerr, h.shoe.trans (by rw [hs]), h.step.trans (by rw [hs]),
    h.reportQ.trans (by rw [hs]), h.other.trans (congrArg Island.st (isl_modIsl_other s i _)),
    h.mpl.trans (modIsl_mpl s i _), h.dies.trans (modIsl_dies s i _)⟩

/-! What a step of one island leaves: the other island, the stage timer, the dies, the planner's working buffers. -/

structure StepKept (i : Isl) (s t : State) : Prop where
  other : isl t (otherIsl i) = isl s (otherIsl i)
  stg   : t.stg = s.stg
  dies  : t.dies = s.dies
  front : t.mpl.front = s.mpl.front

theorem StepKept.refl (i : Isl) (s : State) : StepKept i s s := ⟨rfl, rfl, rfl, rfl⟩

theorem StepKept.trans {i : Isl} {s t u : State} (h : StepKept i s t) (k : StepKept i t u) : StepKept i s u :=
  ⟨k.other.trans h.other, k.stg.trans h.stg, k.dies.trans h.dies, k.front.trans h.front⟩

theorem stepKept_modIsl (i : Isl) (s : State) (f : Island → Island) : StepKept i s (modIsl s i f) :=
  ⟨isl_modIsl_other s i f, modIsl_stg s i f, modIsl_dies s i f, congrArg Mpl.front (modIsl_mpl s i f)⟩

theorem stepKept_putSlot (i : Isl) (s : State) (n : Nat) (ws : List Word) : StepKept i s (putSlot s n ws) :=
  ⟨isl_putSlot s n ws _, rfl, rfl, rfl⟩

theorem stepKept_fresh (i : Isl) (s : State) : StepKept i s (fresh s).2 := ⟨isl_fresh s _, rfl, rfl, rfl⟩

theorem stepKept_bothEdge (i : Isl) (s : State) (f : RingEdge → RingEdge) : StepKept i s (bothEdge s f) :=
  ⟨isl_bothEdge s f _, rfl, rfl, rfl⟩

theorem stepKept_islStep5 (i : Isl) (s : State) : StepKept i s (islStep5 s i) := by
  unfold islStep5
  dsimp only
  split <;> exact stepKept_modIsl i s _

theorem stepKept_islStep4 (i : Isl) (s : State) : StepKept i s (islStep4 s i) := by
  unfold islStep4
  split
  · exact stepKept_modIsl i s _
  · exact (stepKept_modIsl i s _).trans (stepKept_islStep5 i _)

theorem stepKept_islStep3 (i : Isl) (s : State) : StepKept i s (islStep3 s i) := stepKept_modIsl i s _

theorem stepKept_islStep43 (i : Isl) (s : State) : StepKept i s (islStep4 (islStep3 s i) i) :=
  (stepKept_islStep3 i s).trans (stepKept_islStep4 i _)

theorem stepKept_islStep2 (i : Isl) (s : State) : StepKept i s (islStep2 s i) := by
  unfold islStep2
  dsimp only
  split
  · split
    · exact ((stepKept_fresh i s).trans (stepKept_putSlot i _ _ _)).trans (stepKept_modIsl i _ _)
    · exact stepKept_islStep43 i s
  · exact stepKept_islStep43 i s

theorem stepKept_holdSlot (i : Isl) (s : State) (r : List Word) (n : Nat) (clear : Bool) :
    StepKept i s (holdSlot s i r n clear) := by
  unfold holdSlot
  exact stepKept_modIsl i s _

theorem stepKept_adoptShoe (i : Isl) (s : State) : StepKept i s (adoptShoe s i) :=
  (stepKept_modIsl i s _).trans (stepKept_bothEdge i _ _)

theorem stepKept_checkDone (i : Isl) (s : State) (r : List Word) : StepKept i s (checkDone s i r) := by
  unfold checkDone
  dsimp only
  split
  · exact .refl i s
  · split
    · exact (((stepKept_holdSlot i s r 1 true)).trans (stepKept_adoptShoe i _)).trans (stepKept_islStep4 i _)
    · exact stepKept_islStep2 i s
  · exact (stepKept_holdSlot i s r 2 _).trans (stepKept_islStep4 i _)
  · split <;> exact stepKept_modIsl i s _

theorem stepKept_checkLost (i : Isl) (s : State) : StepKept i s (checkLost s i) := by
  unfold checkLost
  dsimp only
  split
  · exact (stepKept_modIsl i s _).trans (stepKept_modIsl i _ _)
  · exact (stepKept_modIsl i s _).trans (stepKept_islStep43 i _)

theorem stepKept_retryCheck (i : Isl) (s : State) (v : BitVec 8) : StepKept i s (retryCheck s i v) := by
  unfold retryCheck
  split
  · exact stepKept_checkLost i s
  · exact stepKept_modIsl i s _

/-! The steps of Table 13-13, case by case. -/

/-- Step 5 checks slot 9 of a complete stage with a gated candidate. -/
theorem islStep5_sends {s : State} {i : Isl} (hc : repComplete (isl s i) = true) (hg : repGated (isl s i) = true) :
    islStep5 s i = sendCheck s i .candidate := by
  simp [islStep5, hc, hg]

/-- Step 5 touches no record: only the check that is out, and the values its request goes out with. -/
theorem islStep5_keeps {α : Type} (p : Island → α)
    (hp : ∀ x st n q a, p { x with step := st, tries := n, urgSeq := q, aliveNext := a } = p x) (s : State) (i : Isl) :
    p (isl (islStep5 s i) i) = p (isl s i) := by
  unfold islStep5
  dsimp only
  split
  · rw [sendCheck, isl_modIsl_self]
    exact hp _ _ _ _ _
  · rw [isl_modIsl_self]
    exact hp (isl s i) .idle (isl s i).tries (isl s i).urgSeq (isl s i).aliveNext

/-- Without a report in time the steps end before step 4. -/
theorem islStep4_late {s : State} {i : Isl} (h : (isl s i).late = true) :
    islStep4 s i = modIsl s i (fun x => { x with step := .idle }) := by
  simp [islStep4, h]

/-- The record that step 4 sends, with the stage and the island it counts for. -/
def sentShoe (x : Island) (i : Isl) (k : Shoe) : Shoe := { k with stage := x.rep.stage, source := islSource i }

/-- With a report step 4 sends the held record. -/
theorem islStep4_sends {s : State} {i : Isl} {k : Shoe} (hl : (isl s i).late = false) (hk : (isl s i).shoe = some k) :
    islStep4 s i = islStep5 (modIsl s i (fun x => { x with
      shoe := some (sentShoe x i k), shoeOut := some (sentShoe x i k), dsValid := true
      dsRecheck := k.recheck, dsClear := k.clear })) i := by
  rw [islStep4, if_neg (by simp [hl])]
  simp only [modIsl, hk]
  rfl

/-- With a report and no held record there is nothing to send. -/
theorem islStep4_noShoe {s : State} {i : Isl} (hl : (isl s i).late = false) (hk : (isl s i).shoe = none) :
    islStep4 s i = islStep5 s i := by
  rw [islStep4, if_neg (by simp [hl])]
  simp only [modIsl, hk]
  cases i <;> rfl

theorem edge_islStep5 (s : State) (i : Isl) (e : Edge) : edge (islStep5 s i) e = edge s e := by
  unfold islStep5
  dsimp only
  split <;> exact edge_modIsl s i _ e

theorem edge_islStep4 (s : State) (i : Isl) (e : Edge) : edge (islStep4 s i) e = edge s e := by
  unfold islStep4
  split
  · exact edge_modIsl s i _ e
  · exact (edge_islStep5 _ i e).trans (edge_modIsl s i _ e)

/-! Steps 1 to 3. -/

/-- Step 3 keeps the held record, neither checked again nor clear. -/
def uncheckedShoe (k : Shoe) : Shoe := { k with recheck := false, clear := false, step := 3 }

theorem islStep3_some {s : State} {i : Isl} {k : Shoe} (hk : (isl s i).shoe = some k) :
    islStep3 s i = modIsl s i (fun x => { x with step := .idle, shoe := some (uncheckedShoe k), dsStep := 3 }) := by
  simp only [islStep3, modIsl, hk]
  rfl

theorem islStep3_none {s : State} {i : Isl} (hk : (isl s i).shoe = none) :
    islStep3 s i = modIsl s i (fun x => { x with step := .idle }) := by
  simp only [islStep3, modIsl, hk]

/-- No frame link of the held record stands: step 2 goes on to step 3. -/
theorem islStep2_noLink {s : State} {i : Isl}
    (h : (isl s i).shoe = none ∨ frameLink (slotWords s 13) = none ∨ reachesMpl s i = false) :
    islStep2 s i = islStep4 (islStep3 s i) i := by
  unfold islStep2
  dsimp only
  split
  · rename_i hk hf
    rcases h with h | h | h
    · simp [h] at hk
    · simp [h] at hf
    · rw [if_neg (by simp [h])]
  · rfl

/-- A frame link between the held record's generation and the stage's: the record is re-expressed and checked. -/
theorem islStep2_link {s : State} {i : Isl} {k : Shoe} {ox oy : Int} {oh : Nat} (hk : (isl s i).shoe = some k)
    (hf : frameLink (slotWords s 13) = some (repGen s (isl s i), k.gen, ox, oy, oh)) (hr : reachesMpl s i = true) :
    islStep2 s i = sendCheck (putSlot (fresh s).2 (ownSlot i) (reexpress s.free k (repGen s (isl s i)) s.mpl.ref ox oy oh)) i
      .reexpress := by
  simp [islStep2, hk, hf, hr]

theorem islStep1_proposal {s : State} {i : Isl} {r : List Word} (hr : reachesMpl s i = true) (hq : (isl s i).report = some r)
    (hp : isProposal (slotWords s 12) (fld (nth r 2) 23 0) = true) :
    islStep1 s i = sendCheck (putSlot s (ownSlot i) (trajUsed (slotWords s 12))) i .proposal := by
  have hg : repGen s (isl s i) = fld (nth r 2) 23 0 := by simp [repGen, repWord, hq]
  simp [islStep1, hg, hr, hq, hp]

/-- Without a report there is no proposal (R475). -/
theorem islStep1_noReport {s : State} {i : Isl} (h : (isl s i).report = none) : islStep1 s i = islStep2 s i := by
  simp [islStep1, h]

/-! Gate reports (R478, R480). -/

/-- The oldest report on its way has come off it. -/
def reportTaken (s : State) (i : Isl) (q : List (List Word)) : State := modIsl s i (fun x => { x with reportQ := q })

section
variable {s : State} {i : Isl} {r : List Word} {q : List (List Word)} (hq : (isl s i).reportQ = r :: q)
  (hs : inSvc (isl s i) = true) (hh : hears s i = true)
include hq hs hh

/-- A report that comes to an island in service, by the reports and the step of the stage under way. -/
theorem gateReport_heard (ho : reportOk (isl s i) r = true) (hc : (isl s i).cutoff = false) : exec (.gateReport i false) s = .next (
    let take := modIsl (reportTaken s i q) i (fun x => { x with report := some r })
    let again := modIsl take i (fun x => { x with mism := false, restarts := min 255 (x.restarts + 1) })
    match (isl s i).step with
    | .idle => if (isl s i).report.isSome then islStep5 again i else if (isl s i).late then reportTaken s i q else islStep1 take i
    | .candidate => islStep5 again i
    | _ => take) := by
  have h1 : inSvc (isl (reportTaken s i q) i) = true := (isl_modIsl_of inSvc rfl).trans hs
  have h2 : hears (reportTaken s i q) i = true := (hears_modIsl rfl).trans hh
  have h3 : reportOk (isl (reportTaken s i q) i) r = true := (isl_modIsl_of (reportOk · r) rfl).trans ho
  have h4 : (isl (reportTaken s i q) i).cutoff = false := (isl_modIsl_of Island.cutoff rfl).trans hc
  have h5 : (isl (reportTaken s i q) i).step = (isl s i).step := isl_modIsl_of Island.step rfl
  have h6 : (isl (reportTaken s i q) i).report = (isl s i).report := isl_modIsl_of Island.report rfl
  have h7 : (isl (reportTaken s i q) i).late = (isl s i).late := isl_modIsl_of Island.late rfl
  show execGateReport i false s = _
  simp only [execGateReport, hq]
  rw [← reportTaken]
  simp only [h1, h2, h3, h4, h5, h6, h7]
  rfl

/-- The first report of a stage runs the steps from step 1. -/
theorem gateReport_first (ho : reportOk (isl s i) r = true) (hc : (isl s i).cutoff = false) (hi : (isl s i).step = .idle)
    (hr : (isl s i).report = none) (hl : (isl s i).late = false) :
    exec (.gateReport i false) s = .next (islStep1 (modIsl s i (fun x => { x with reportQ := q, report := some r })) i) := by
  rw [gateReport_heard hq hs hh ho hc]
  simp only [hi, hr, hl, reportTaken, modIsl_modIsl]
  rfl

/-- A report while slot 9 is checked starts step 5 again (R480). -/
theorem gateReport_again (ho : reportOk (isl s i) r = true) (hc : (isl s i).cutoff = false) (hi : (isl s i).step = .candidate) :
    exec (.gateReport i false) s = .next (islStep5 (modIsl s i (fun x => { x with
      reportQ := q, report := some r, mism := false, restarts := min 255 (x.restarts + 1) })) i) := by
  rw [gateReport_heard hq hs hh ho hc]
  simp only [hi, reportTaken, modIsl_modIsl]

theorem gateReport_ramFault : exec (.gateReport i true) s = .next (ramFails (reportTaken s i q) i) := by
  have h1 : inSvc (isl (reportTaken s i q) i) = true := (isl_modIsl_of inSvc rfl).trans hs
  have h2 : hears (reportTaken s i q) i = true := (hears_modIsl rfl).trans hh
  show execGateReport i true s = _
  simp only [execGateReport, hq]
  rw [← reportTaken]
  simp only [h1, h2]
  rfl

end

/-- No report by its time: the steps run from step 2 (R478). -/
theorem islandNoReportStart_eq {s : State} {i : Isl} (hs : inSvc (isl s i) = true) (hr : (isl s i).report = none)
    (hl : (isl s i).late = false) (hc : (isl s i).cutoff = false) :
    exec (.islandNoReportStart i false) s = .next (islStep2 (modIsl s i (fun x => { x with late := true })) i) := by
  have h1 : (isl (modIsl s i (fun x => { x with late := true })) i).report = none := by rw [isl_modIsl_self, hr]
  rw [← islStep1_noReport h1]
  show execIslandNoReportStart i false s = _
  simp only [execIslandNoReportStart, hs, hr, hl, hc]
  rfl

/-! Replies and missing replies (R479). -/

/-- The oldest reply on its way has come, after `ns` nanoseconds. -/
def repliedTo (s : State) (i : Isl) (q : List (List Word)) (ns : Nat) : State :=
  modIsl s i (fun x => { x with urgReply := q, maxns := max x.maxns (min ns 4095) })

/-- The oldest reply on its way has come off it. -/
def replyTaken (s : State) (i : Isl) (q : List (List Word)) : State := modIsl s i (fun x => { x with urgReply := q })

/-- What a reply to the check that is out makes of its island, by its status and the check's step. -/
def replied (s : State) (i : Isl) (r : List Word) (q : List (List Word)) (ns : Nat) : State :=
  if (isl s i).step = .idle then replyTaken s i q
  else if fld (nth r 0) 31 24 = stStaleAlive.toNat then retryCheck (repliedTo s i q ns) i ((isl s i).aliveNext - 2)
  else checkDone (repliedTo s i q ns) i r

section
variable {s : State} {i : Isl} {r : List Word} {q : List (List Word)} (ns : Nat) (hq : (isl s i).urgReply = r :: q)
  (hs : inSvc (isl s i) = true) (hh : hears s i = true) (hn : r.length = 8) (ho : sealOk r = true) (ht : nth r 1 = urgTag (isl s i))
include hq hs hh hn ho ht

/-- A reply that comes to an island in service; one that ends a check reads the island RAM. -/
theorem urgentReply_heard (rf : Bool) : exec (.urgentReply i ns rf) s =
    .next (if rf ∧ (isl s i).step ≠ .idle then ramFails (replyTaken s i q) i else replied s i r q ns) := by
  have h1 : inSvc (isl (replyTaken s i q) i) = true := (isl_modIsl_of inSvc rfl).trans hs
  have h2 : hears (replyTaken s i q) i = true := (hears_modIsl rfl).trans hh
  have h4 : (isl (replyTaken s i q) i).step = (isl s i).step := isl_modIsl_of Island.step rfl
  have h5 : (isl (replyTaken s i q) i).aliveNext = (isl s i).aliveNext := isl_modIsl_of Island.aliveNext rfl
  have h3 : urgTag (isl (replyTaken s i q) i) = nth r 1 := by
    rw [ht, urgTag, urgTag, h5, show (isl (replyTaken s i q) i).urgSeq = (isl s i).urgSeq from isl_modIsl_of Island.urgSeq rfl]
  have h6 : modIsl (replyTaken s i q) i (fun x => { x with maxns := max x.maxns (min ns 4095) }) = repliedTo s i q ns :=
    modIsl_modIsl s i _ _
  show execUrgentReply i ns s rf = _
  simp only [execUrgentReply, hq]
  rw [← replyTaken]
  simp only [h1, h2, h3, h4, h5, h6, hn, ho]
  by_cases hi : (isl s i).step = .idle <;> simp [replied, hi]

theorem urgentReply_answers : exec (.urgentReply i ns false) s = .next (replied s i r q ns) := by
  rw [urgentReply_heard ns hq hs hh hn ho ht, if_neg (fun h => Bool.false_ne_true h.1)]

theorem urgentReply_ramFault (hi : (isl s i).step ≠ .idle) :
    exec (.urgentReply i ns true) s = .next (ramFails (replyTaken s i q) i) := by
  rw [urgentReply_heard ns hq hs hh hn ho ht, if_pos ⟨rfl, hi⟩]

end

theorem urgentReplyTimeout_eq {s : State} {i : Isl} (hs : inSvc (isl s i) = true) (hi : (isl s i).step ≠ .idle) (rf : Bool) :
    exec (.urgentReplyTimeout i rf) s = .next (if rf then ramFails s i else retryCheck s i (isl s i).aliveNext) := by
  show execUrgentReplyTimeout i s rf = _
  simp [execUrgentReplyTimeout, hs, hi]

theorem stepKept_repliedTo (s : State) (i : Isl) (q : List (List Word)) (ns : Nat) : StepKept i s (repliedTo s i q ns) :=
  stepKept_modIsl i s _

theorem repliedTo_step (s : State) (i : Isl) (q : List (List Word)) (ns : Nat) :
    (isl (repliedTo s i q ns) i).step = (isl s i).step := isl_modIsl_of Island.step rfl

/-! The clauses of Table 13-13. -/

@[simp] theorem isl_sendCheck (s : State) (i : Isl) (st : IslStep) : isl (sendCheck s i st) i = { isl s i with
    step := st, tries := 1, urgSeq := (isl s i).urgSeq + 1, aliveNext := (isl s i).aliveNext + 1 } :=
  isl_modIsl_self s i _

/-- The check of a proposal goes out with the first report of the stage (step 1). -/
theorem gateReport_proposal {s : State} {i : Isl} {r : List Word} {q : List (List Word)} (hq : (isl s i).reportQ = r :: q)
    (hs : inSvc (isl s i) = true) (ho : reportOk (isl s i) r = true) (hc : (isl s i).cutoff = false) (hi : (isl s i).step = .idle)
    (hr : (isl s i).report = none) (hl : (isl s i).late = false) (hm : reachesMpl s i = true)
    (hp : isProposal (slotWords s 12) (fld (nth r 2) 23 0) = true) : exec (.gateReport i false) s = .next (sendCheck
      (putSlot (modIsl s i (fun x => { x with reportQ := q, report := some r })) (ownSlot i) (trajUsed (slotWords s 12))) i
      .proposal) := by
  rw [gateReport_first hq hs (hears_of_reachesMpl hm) ho hc hi hr hl, islStep1_proposal (r := r), slotWords_modIsl]
  · exact (reachesMpl_modIsl rfl).trans hm
  · rw [isl_modIsl_self]
  · rwa [slotWords_modIsl]

/-- A report while slot 9 is checked has the check go out again (step 5). -/
theorem gateReport_restarts {s : State} {i : Isl} {r : List Word} {q : List (List Word)} (hq : (isl s i).reportQ = r :: q)
    (hs : inSvc (isl s i) = true) (hh : hears s i = true) (ho : reportOk (isl s i) r = true) (hc : (isl s i).cutoff = false)
    (hi : (isl s i).step = .candidate) (h0 : tbit (nth r 0) 0 = true) (hg : fld (nth r 0) 11 8 ≠ 15) :
    exec (.gateReport i false) s = .next (sendCheck (modIsl s i (fun x => { x with
      reportQ := q, report := some r, mism := false, restarts := min 255 (x.restarts + 1) })) i .candidate) := by
  rw [gateReport_again hq hs hh ho hc hi, islStep5_sends]
  · rw [isl_modIsl_self]
    exact h0
  · rw [isl_modIsl_self]
    exact decide_eq_true hg

/-- Without a report, and without a frame link of the held record, step 3 keeps that record. -/
theorem islandNoReportStart_unlinked {s : State} {i : Isl} (hs : inSvc (isl s i) = true) (hr : (isl s i).report = none)
    (hl : (isl s i).late = false) (hc : (isl s i).cutoff = false)
    (h : (isl s i).shoe = none ∨ frameLink (slotWords s 13) = none ∨ reachesMpl s i = false) :
    exec (.islandNoReportStart i false) s = .next (modIsl (islStep3 (modIsl s i (fun x => { x with late := true })) i) i
      (fun x => { x with step := .idle })) := by
  rw [islandNoReportStart_eq hs hr hl hc, islStep2_noLink, islStep4_late]
  · cases hk : (isl s i).shoe with
    | none => rw [islStep3_none (by rwa [isl_modIsl_self]), isl_modIsl_self, isl_modIsl_self]
    | some k => rw [islStep3_some (k := k) (by rwa [isl_modIsl_self]), isl_modIsl_self, isl_modIsl_self]
  · rw [isl_modIsl_self, slotWords_modIsl, reachesMpl_modIsl rfl]
    exact h

/-- Without a report, but with a frame link of the held record, that record is re-expressed and checked (step 2). -/
theorem islandNoReportStart_linked {s : State} {i : Isl} {k : Shoe} {ox oy : Int} {oh : Nat} (hs : inSvc (isl s i) = true)
    (hr : (isl s i).report = none) (hl : (isl s i).late = false) (hc : (isl s i).cutoff = false) (hk : (isl s i).shoe = some k)
    (hm : reachesMpl s i = true) (hf : frameLink (slotWords s 13) = some (s.mpl.gen, k.gen, ox, oy, oh)) :
    exec (.islandNoReportStart i false) s = .next (sendCheck (putSlot (fresh (modIsl s i (fun x => { x with late := true }))).2
      (ownSlot i) (reexpress s.free k s.mpl.gen s.mpl.ref ox oy oh)) i .reexpress) := by
  have hg : repGen (modIsl s i (fun x => { x with late := true })) (isl (modIsl s i (fun x => { x with late := true })) i) =
      s.mpl.gen := by
    rw [isl_modIsl_self, repGen, modIsl_mpl, hr]
    rfl
  rw [islandNoReportStart_eq hs hr hl hc, islStep2_link (k := k) (ox := ox) (oy := oy) (oh := oh), hg, modIsl_free, modIsl_mpl]
  · rw [isl_modIsl_self]
    exact hk
  · rw [hg, slotWords_modIsl]
    exact hf
  · exact (reachesMpl_modIsl rfl).trans hm

/-! A check that has its reply (R478, R479). -/

theorem retryCheck_again {s : State} {i : Isl} (h : (isl s i).tries < 4) (v : BitVec 8) : retryCheck s i v =
    modIsl s i (fun x => { x with tries := x.tries + 1, urgSeq := x.urgSeq + 1, aliveNext := v + 1 }) := by
  rw [retryCheck, if_neg (by omega)]

theorem retryCheck_lost {s : State} {i : Isl} (h : 4 ≤ (isl s i).tries) (v : BitVec 8) : retryCheck s i v = checkLost s i := by
  rw [retryCheck, if_pos h]

/-- A good reply to the check of slot 9 sends the release. -/
theorem checkDone_releases {s : State} {i : Isl} {r : List Word} (hi : (isl s i).step = .candidate)
    (hc : candidateOk s i r = true) : checkDone s i r = modIsl s i (fun x => { x with
      step := .idle
      relOut := some {
        rcd := trajUsed (slotWords s 9), crc := crcW (trajUsed (slotWords s 9)), gen := fld (nth r 3) 23 0
        t0 := join64 (nth r 4) (nth r 5), stage := x.rep.stage } }) := by
  simp [checkDone, hi, hc]

theorem checkDone_mismatch {s : State} {i : Isl} {r : List Word} (hi : (isl s i).step = .candidate)
    (hc : candidateOk s i r = false) : checkDone s i r = modIsl s i (fun x => { x with step := .idle, mism := true }) := by
  simp [checkDone, hi, hc]

/-- A clear reply to the check of a proposal holds its record and adopts it. -/
theorem checkDone_adopts {s : State} {i : Isl} {r : List Word} (hi : (isl s i).step = .proposal) (hc : tbit (nth r 0) 8 = true) :
    checkDone s i r = islStep4 (adoptShoe (holdSlot s i r 1 true) i) i := by
  simp [checkDone, hi, hc]

/-- Whether slot 9 is good does not depend on the replies on their way and the longest time of one. -/
theorem candidateOk_repliedTo (s : State) (i : Isl) (r : List Word) (q : List (List Word)) (ns : Nat) :
    candidateOk (repliedTo s i q ns) i r = candidateOk s i r := by
  have hm : reachesMpl (repliedTo s i q ns) i = reachesMpl s i := reachesMpl_modIsl rfl
  have hw : repWord (isl (repliedTo s i q ns) i) 3 = repWord (isl s i) 3 := isl_modIsl_of (repWord · 3) rfl
  rw [candidateOk, candidateOk, hm, hw, repliedTo, slotWords_modIsl]

/-- The record that island `i` holds as a drag shoe, as step 4 leaves it. -/
structure ShoeSent (i : Isl) (s t : State) (k k' : Shoe) : Prop where
  held    : (isl t i).shoe = some k'
  rcd     : k'.rcd = k.rcd
  recheck : k'.recheck = k.recheck
  clear   : k'.clear = k.clear
  step    : k'.step = k.step
  source  : k.source = islSource i → k'.source = islSource i
  adopted : (isl t i).adopted = (isl s i).adopted
  timeouts : (isl t i).timeouts = (isl s i).timeouts
  late    : (isl s i).late = true → (isl t i).shoeOut = (isl s i).shoeOut
  onTime  : (isl s i).late = false → (isl t i).shoeOut = some k' ∧ (isl t i).dsValid = true

/-- Step 4 sends the held record where a report has come in time. -/
theorem islStep4_shoe {s : State} {i : Isl} {k : Shoe} (hk : (isl s i).shoe = some k) :
    ∃ k', ShoeSent i s (islStep4 s i) k k' := by
  cases hl : (isl s i).late with
  | true =>
    rw [islStep4_late hl]
    refine ⟨k, ?_⟩
    constructor <;> simp [hl, hk]
  | false =>
    rw [islStep4_sends hl hk]
    have key {α : Type} (p : Island → α)
        (hp : ∀ x st n q a, p { x with step := st, tries := n, urgSeq := q, aliveNext := a } = p x) :=
      (islStep5_keeps p hp (modIsl s i (fun x => { x with
        shoe := some (sentShoe x i k), shoeOut := some (sentShoe x i k), dsValid := true
        dsRecheck := k.recheck, dsClear := k.clear })) i).trans (congrArg p (isl_modIsl_self s i _))
    exact ⟨sentShoe (isl s i) i k, key Island.shoe (fun _ _ _ _ _ => rfl), rfl, rfl, rfl, rfl, fun _ => rfl,
      key Island.adopted (fun _ _ _ _ _ => rfl), key Island.timeouts (fun _ _ _ _ _ => rfl),
      fun h => Bool.noConfusion (hl.symm.trans h),
      fun _ => ⟨key Island.shoeOut (fun _ _ _ _ _ => rfl), key Island.dsValid (fun _ _ _ _ _ => rfl)⟩⟩

/-- The record of the island's slot with the results of its check, as the island holds it. -/
def heldShoe (s : State) (i : Isl) (r : List Word) (step : Nat) (clear : Bool) : Shoe :=
  { rcd := stamp (trajUsed (slotWords s (ownSlot i))) r, gen := fld (nth r 3) 23 0, t0 := join64 (nth r 4) (nth r 5)
    recheck := true, clear := clear, step := step, reason := 0, source := islSource i, stage := (isl s i).rep.stage }

theorem isl_adoptShoe_holdSlot (s : State) (i : Isl) (r : List Word) (step : Nat) (clear : Bool) :
    isl (adoptShoe (holdSlot s i r step clear) i) i = { isl s i with
      shoe := some (heldShoe s i r step clear), dsStep := step, dsGen := fld (nth r 3) 23 0
      clr := sx 16 (fld (nth r 2) 31 16), first := fld (nth r 2) 15 8, count := fld (nth r 2) 7 0, adopted := true } := by
  rw [adoptShoe, isl_bothEdge, isl_modIsl_self]
  unfold holdSlot
  rw [isl_modIsl_self]
  rfl

/-- A proposal whose check is clear becomes the drag shoe of its island, which counts for releases from now on, and the ring
edges may send (R464, R483). -/
theorem checkDone_proposal {s : State} {i : Isl} {r : List Word} (hi : (isl s i).step = .proposal) (hc : tbit (nth r 0) 8 = true) :
    ∃ k, (isl (checkDone s i r) i).shoe = some k ∧ k.rcd = stamp (trajUsed (slotWords s (ownSlot i))) r ∧
      k.recheck = true ∧ k.clear = true ∧ k.step = 1 ∧ k.source = islSource i ∧ (isl (checkDone s i r) i).adopted = true ∧
      (if (isl s i).late then (isl (checkDone s i r) i).shoeOut = (isl s i).shoeOut
        else (isl (checkDone s i r) i).shoeOut = some k ∧ (isl (checkDone s i r) i).dsValid = true) ∧
      ∀ e, (edge (checkDone s i r) e).adopted = true := by
  have ha := isl_adoptShoe_holdSlot s i r 1 true
  obtain ⟨k, h⟩ := islStep4_shoe (congrArg Island.shoe ha)
  rw [checkDone_adopts hi hc]
  refine ⟨k, h.held, h.rcd, h.recheck, h.clear, h.step, h.source rfl, h.adopted.trans (by rw [ha]), ?_, fun e => ?_⟩
  · cases hl : (isl s i).late with
    | true => exact (h.late (by rw [ha]; exact hl)).trans (by rw [ha])
    | false => exact h.onTime (by rw [ha]; exact hl)
  · rw [edge_islStep4, adoptShoe, edge_bothEdge]

/-- Steps 3 and 4 leave no record that counts as checked or clear. -/
theorem islStep43_reads (s : State) (i : Isl) :
    (isl (islStep4 (islStep3 s i) i) i).timeouts = (isl s i).timeouts ∧
    ∀ k, (isl (islStep4 (islStep3 s i) i) i).shoe = some k → k.recheck = false ∧ k.clear = false ∧ k.step = 3 := by
  cases hk : (isl s i).shoe with
  | none =>
    rw [islStep3_none hk]
    have h3 := isl_modIsl_self s i (fun x => { x with step := .idle })
    cases hl : (isl (modIsl s i (fun x => { x with step := .idle })) i).late with
    | true =>
      rw [islStep4_late hl, isl_modIsl_self, h3]
      exact ⟨rfl, fun k h => nomatch hk.symm.trans h⟩
    | false =>
      have hn : (isl (modIsl s i (fun x => { x with step := .idle })) i).shoe = none := by rw [h3, hk]
      rw [islStep4_noShoe hl hn, islStep5_keeps Island.timeouts (fun _ _ _ _ _ => rfl),
        islStep5_keeps Island.shoe (fun _ _ _ _ _ => rfl), hn, h3]
      exact ⟨rfl, fun k h => nomatch h⟩
  | some k =>
    have h3 := isl_modIsl_self s i (fun x => { x with step := .idle, shoe := some (uncheckedShoe k), dsStep := 3 })
    rw [islStep3_some hk]
    obtain ⟨k', h⟩ := islStep4_shoe (congrArg Island.shoe h3)
    refine ⟨h.timeouts.trans (by rw [h3]), fun j hj => ?_⟩
    obtain rfl := Option.some.inj (h.held.symm.trans hj)
    exact ⟨h.recheck, h.clear, h.step⟩

/-- A check that yields no reply is counted (R494). -/
def timedOut (s : State) (i : Isl) : State := modIsl s i (fun x => { x with timeouts := min 255 (x.timeouts + 1) })

theorem timedOut_step (s : State) (i : Isl) : (isl (timedOut s i) i).step = (isl s i).step := isl_modIsl_of Island.step rfl

theorem checkLost_candidate {s : State} {i : Isl} (hi : (isl s i).step = .candidate) :
    checkLost s i = modIsl (timedOut s i) i (fun x => { x with step := .idle }) := by
  rw [← timedOut_step] at hi
  unfold checkLost
  dsimp only
  split
  · rfl
  · exact absurd hi ‹_›

theorem checkLost_shoe {s : State} {i : Isl} (hi : (isl s i).step ≠ .candidate) :
    checkLost s i = islStep4 (islStep3 (timedOut s i) i) i := by
  rw [← timedOut_step] at hi
  unfold checkLost
  dsimp only
  split
  · exact absurd ‹_› hi
  · rfl

/-- A check that is lost: step 5 ends, and a drag shoe stays as it was, checked no more (R479). -/
theorem checkLost_reads (s : State) (i : Isl) :
    (isl (checkLost s i) i).timeouts = min 255 ((isl s i).timeouts + 1) ∧
    ((isl s i).step = .candidate → (isl (checkLost s i) i).step = .idle ∧ (isl (checkLost s i) i).shoe = (isl s i).shoe) ∧
    ((isl s i).step ≠ .candidate →
      ∀ k, (isl (checkLost s i) i).shoe = some k → k.recheck = false ∧ k.clear = false ∧ k.step = 3) := by
  have ht : isl (timedOut s i) i = { isl s i with timeouts := min 255 ((isl s i).timeouts + 1) } := isl_modIsl_self s i _
  by_cases hi : (isl s i).step = .candidate
  · rw [checkLost_candidate hi, isl_modIsl_self, ht]
    exact ⟨rfl, fun _ => ⟨rfl, rfl⟩, fun h => absurd hi h⟩
  · obtain ⟨h1, h2⟩ := islStep43_reads (timedOut s i) i
    rw [checkLost_shoe hi]
    exact ⟨h1.trans (by rw [ht]), fun h => absurd h hi, fun _ => h2⟩

/-! What a reply makes of the island it comes to. -/

theorem stepKept_replied (s : State) (i : Isl) (r : List Word) (q : List (List Word)) (ns : Nat) :
    StepKept i s (replied s i r q ns) := by
  unfold replied
  split
  · exact stepKept_modIsl i s _
  · split
    · exact (stepKept_repliedTo s i q ns).trans (stepKept_retryCheck i _ _)
    · exact (stepKept_repliedTo s i q ns).trans (stepKept_checkDone i _ r)

theorem isl_repliedTo (s : State) (i : Isl) (q : List (List Word)) (ns : Nat) :
    isl (repliedTo s i q ns) i = { isl s i with urgReply := q, maxns := max (isl s i).maxns (min ns 4095) } :=
  isl_modIsl_self s i _

/-- A stale alive value has the check sent again with the value that was expected (R479). -/
theorem replied_stale {s : State} {i : Isl} {r : List Word} (q : List (List Word)) (ns : Nat)
    (hv : fld (nth r 0) 31 24 = stStaleAlive.toNat) (hi : (isl s i).step ≠ .idle) (h4 : (isl s i).tries < 4) :
    isl (replied s i r q ns) i = { isl s i with
      urgReply := q, maxns := max (isl s i).maxns (min ns 4095), tries := (isl s i).tries + 1
      urgSeq := (isl s i).urgSeq + 1, aliveNext := (isl s i).aliveNext - 1 } := by
  have hu := isl_repliedTo s i q ns
  have ha : (isl s i).aliveNext - 2 + 1 = (isl s i).aliveNext - 1 := by bv_omega
  rw [replied, if_neg hi, if_pos hv, retryCheck_again (by rw [hu]; exact h4), isl_modIsl_self, hu, ha]

theorem replied_done {s : State} {i : Isl} {r : List Word} {st : IslStep} (q : List (List Word)) (ns : Nat)
    (hv : fld (nth r 0) 31 24 ≠ stStaleAlive.toNat) (hi : (isl s i).step = st) (hs : st ≠ .idle) :
    replied s i r q ns = checkDone (repliedTo s i q ns) i r := by
  rw [replied, if_neg (hi ▸ hs), if_neg hv]

/-- A good reply to the check of slot 9 leaves the release of the stage. -/
theorem replied_release {s : State} {i : Isl} {r : List Word} (q : List (List Word)) (ns : Nat)
    (hv : fld (nth r 0) 31 24 ≠ stStaleAlive.toNat) (hi : (isl s i).step = .candidate) (hc : candidateOk s i r = true) :
    isl (replied s i r q ns) i = { isl s i with
      urgReply := q, maxns := max (isl s i).maxns (min ns 4095), step := .idle
      relOut := some {
        rcd := trajUsed (slotWords s 9), crc := crcW (trajUsed (slotWords s 9)), gen := fld (nth r 3) 23 0
        t0 := join64 (nth r 4) (nth r 5), stage := (isl s i).rep.stage } } := by
  rw [replied_done q ns hv hi (by decide), checkDone_releases ((repliedTo_step s i q ns).trans hi)
    ((candidateOk_repliedTo s i r q ns).trans hc), isl_modIsl_self, isl_repliedTo, repliedTo, slotWords_modIsl]

theorem replied_mismatch {s : State} {i : Isl} {r : List Word} (q : List (List Word)) (ns : Nat)
    (hv : fld (nth r 0) 31 24 ≠ stStaleAlive.toNat) (hi : (isl s i).step = .candidate) (hc : candidateOk s i r = false) :
    isl (replied s i r q ns) i = { isl s i with
      urgReply := q, maxns := max (isl s i).maxns (min ns 4095), step := .idle, mism := true } := by
  rw [replied_done q ns hv hi (by decide), checkDone_mismatch ((repliedTo_step s i q ns).trans hi)
    ((candidateOk_repliedTo s i r q ns).trans hc), isl_modIsl_self, isl_repliedTo]

/-- Settles O48: each step from its own lemma. -/
theorem islandSteps : Obligations.IslandSteps := by
  refine ⟨fun s i r q hq hs ho hc hi hr hl hm hp => ?_, fun s i r q hq hs hh ho hc hi h0 hg => ?_, fun s i r q hq hs hh => ?_,
    fun s i hs hr hl hc h => ?_, fun s i k ox oy oh hs hr hl hc hk hm hf => ?_, fun s i r q ns hq hs hh hn ho ht => ?_,
    fun s i hs hi => ?_, fun s i r hs hi hr => ?_⟩
  · refine ⟨_, gateReport_proposal hq hs ho hc hi hr hl hm hp, ?_, ?_⟩
    · rw [isl_sendCheck, isl_putSlot, isl_modIsl_self]
    · cases i <;> exact ⟨rfl, rfl, rfl⟩
  · refine ⟨_, gateReport_restarts hq hs hh ho hc hi h0 hg, ?_, ?_, ?_⟩
    · rw [isl_sendCheck, isl_modIsl_self, ← hi]
    · rw [sendCheck, modIsl_modIsl, isl_modIsl_other]
    · rw [sendCheck, modIsl_modIsl]
      exact modIsl_frame s i _
  · have h := ramFailed_ramFails (reportTaken s i q) i
    exact ⟨_, gateReport_ramFault hq hs hh, h.st, h.hrerr, h.reportQ.trans (by rw [reportTaken, isl_modIsl_self]),
      h.other.trans (by rw [reportTaken, isl_modIsl_other]), h.mpl.trans (modIsl_mpl s i _), h.dies.trans (modIsl_dies s i _)⟩
  · refine ⟨_, islandNoReportStart_unlinked hs hr hl hc h, fun k hk => ?_, fun hk => ?_, ?_⟩
    · rw [islStep3_some (k := k) (by rwa [isl_modIsl_self]), modIsl_modIsl, modIsl_modIsl, isl_modIsl_self]
      rfl
    · rw [islStep3_none (by rwa [isl_modIsl_self]), modIsl_modIsl, modIsl_modIsl, isl_modIsl_self]
    · rw [islStep3, modIsl_modIsl, modIsl_modIsl]
      exact ⟨isl_modIsl_other s i _, modIsl_frame s i _⟩
  · refine ⟨_, islandNoReportStart_linked hs hr hl hc hk hm hf, ?_, ?_⟩
    · rw [isl_sendCheck, isl_putSlot, isl_fresh, isl_modIsl_self]
    · cases i <;> exact ⟨rfl, rfl, rfl⟩
  · have hk := stepKept_replied s i r q ns
    refine ⟨_, urgentReply_answers ns hq hs hh hn ho ht, hk.dies, hk.stg,
      fun hv hi hc => ⟨replied_release q ns hv hi hc, hk.other⟩, fun hv hi hc => replied_mismatch q ns hv hi hc,
      fun hv hi hc => ?_, fun hv hi h4 => replied_stale q ns hv hi h4⟩
    have hp := checkDone_proposal ((repliedTo_step s i q ns).trans hi) hc
    rw [← replied_done q ns hv hi (by decide), isl_repliedTo, repliedTo, slotWords_modIsl] at hp
    exact hp
  · have hk := stepKept_retryCheck i s (isl s i).aliveNext
    refine ⟨_, urgentReplyTimeout_eq hs hi false, hk.other, hk.front, fun h4 => ?_, fun h4 => ?_⟩
    · rw [if_neg Bool.false_ne_true, retryCheck_again h4, isl_modIsl_self]
    · rw [if_neg Bool.false_ne_true, retryCheck_lost h4]
      exact checkLost_reads s i
  · rcases hr with rfl | ⟨w, q, ns, rfl, hh, hq, hn, ho, ht⟩
    · have h := ramFailed_ramFails s i
      exact ⟨_, urgentReplyTimeout_eq hs hi true, h.st, h.hrerr, h.shoe, h.step, h.other, h.mpl, h.dies⟩
    · have h := ramFailed_ramFails (replyTaken s i q) i
      refine ⟨_, urgentReply_ramFault ns hq hs hh hn ho ht hi, h.st, h.hrerr,
        h.shoe.trans ?_, h.step.trans ?_, h.other.trans ?_, h.mpl.trans (modIsl_mpl s i _), h.dies.trans (modIsl_dies s i _)⟩
      · rw [replyTaken, isl_modIsl_self]
      · rw [replyTaken, isl_modIsl_self]
      · rw [replyTaken, isl_modIsl_other]

end Sys2Proof.Proofs

/-! What work at the stacks, and the ends of transactions, leave of the device (01 R28; 12; 14 R499, R502). -/

namespace Sys2Proof.Proofs

open Sys2Proof.Machine Sys2Proof.Safety Sys2Proof.Laws

/-! What work at the stacks leaves of the dies: all but the stack's bytes and the MCT, which gains no held read. -/

/-- A die without its stack's bytes and its MCT. -/
def dieRegs (d : Die) : Die := { d with hbm := {}, mct := {} }

structure DiesKept (s t : State) : Prop where
  regs  : ∀ n : Nat, dieRegs (die t n) = dieRegs (die s n)
  reads : ∀ (n : Nat) (r : HeldRead), r ∈ (mct t n).reads → r ∈ (mct s n).reads

theorem DiesKept.refl (s : State) : DiesKept s s := ⟨fun _ => rfl, fun _ _ h => h⟩

theorem DiesKept.trans {s t u : State} (h : DiesKept s t) (k : DiesKept t u) : DiesKept s u :=
  ⟨fun n => (k.regs n).trans (h.regs n), fun n r hr => h.reads n r (k.reads n r hr)⟩

theorem DiesKept.of_dies {s t : State} (h : t.dies = s.dies) : DiesKept s t := by
  constructor <;> simp [die, mct, h]

theorem DiesKept.inService {s t : State} (h : DiesKept s t) (n : Nat) : (die t n).inService = (die s n).inService :=
  (congrArg Die.inService (h.regs n) : _)

theorem DiesKept.spup {s t : State} (h : DiesKept s t) (n : Nat) : (die t n).spup = (die s n).spup :=
  (congrArg Die.spup (h.regs n) : _)

theorem DiesKept.failedRetrains {s t : State} (h : DiesKept s t) (n : Nat) : (die t n).failedRetrains = (die s n).failedRetrains :=
  (congrArg Die.failedRetrains (h.regs n) : _)

/-- Work at the stacks: beside the dies, the stage stands, and of the dispatcher all but what the link layer has ended. -/
structure StackOnly (s t : State) : Prop extends DiesKept s t where
  stg : t.stg = s.stg
  dis : t.dis = { s.dis with ended := t.dis.ended }

theorem StackOnly.refl (s : State) : StackOnly s s := ⟨.refl s, rfl, rfl⟩

theorem StackOnly.trans {s t u : State} (h : StackOnly s t) (k : StackOnly t u) : StackOnly s u :=
  ⟨h.toDiesKept.trans k.toDiesKept, k.stg.trans h.stg, k.dis.trans (by rw [h.dis])⟩

theorem StackOnly.of_dies {s t : State} (hd : t.dies = s.dies) (hs : t.stg = s.stg)
    (hi : t.dis = { s.dis with ended := t.dis.ended }) :
    StackOnly s t := ⟨.of_dies hd, hs, hi⟩

theorem stackOnly_forAll {α : Type} {f : State → α → State} (hf : ∀ t x, StackOnly t (f t x)) (l : List α) (s : State) :
    StackOnly s (forAll s l f) :=
  forAll_keeps (StackOnly s) f (fun t x h => h.trans (hf t x)) l s (.refl s)

/-- A die by number, after a change of one die. -/
theorem die_modDie (s : State) (n m : Nat) (f : Die → Die) : die (modDie s n f) m = if m = n then f (die s n) else die s m := by
  split
  · subst m
    exact die_modDie_self s n f
  · exact die_modDie_ne s f ‹_›

theorem stackOnly_modDie (s : State) (n : Nat) {f : Die → Die} (hf : dieRegs (f (die s n)) = dieRegs (die s n))
    (hr : ∀ r ∈ (f (die s n)).mct.reads, r ∈ (die s n).mct.reads) : StackOnly s (modDie s n f) := by
  refine ⟨⟨fun m => ?_, fun m r h => ?_⟩, rfl, rfl⟩
  · rw [die_modDie]
    split
    · exact hf.trans (by rw [‹m = n›])
    · rfl
  · rw [mct, die_modDie] at h
    split at h
    · exact ‹m = n› ▸ hr r h
    · exact h

theorem stackOnly_modMct (s : State) (n : Nat) {f : Mct → Mct} (hr : ∀ r ∈ (f (mct s n)).reads, r ∈ (mct s n).reads) :
    StackOnly s (modMct s n f) :=
  stackOnly_modDie s n rfl hr

theorem stackOnly_fresh (s : State) : StackOnly s (fresh s).2 := .of_dies rfl rfl rfl

theorem stackOnly_logF (s : State) (f : Fact) : StackOnly s (logF s f) :=
  .of_dies (logF_dies s f) (logF_stg s f) (by rw [logF_dis])

theorem stackOnly_engDone (s : State) (g : Nat) (st : Byte) (ws : List Word) (skip : Bool) :
    StackOnly s (engDone s g st ws skip) := by
  obtain ⟨e, n, h⟩ := engDone_eq s g st ws skip
  rw [h]
  exact .of_dies rfl rfl rfl

theorem stackOnly_finishStores (s : State) : StackOnly s (finishStores s) := by
  obtain ⟨e, n, h⟩ := finishStores_eq s
  rw [h]
  exact .of_dies rfl rfl rfl

/-! Reads and writes at a stack (12). -/

theorem forceRefresh_reads (m : Mct) (l : List Nat) : (l.foldl forceRefresh m).reads = m.reads := by
  induction l generalizing m with
  | nil => rfl
  | cons k l ih => exact ih (forceRefresh m k)

theorem stackOnly_refreshFor (s : State) (n off len : Nat) : StackOnly s (refreshFor s n off len) := by
  unfold refreshFor
  split
  · exact .refl s
  · exact stackOnly_modMct s n (fun r h => by rwa [forceRefresh_reads] at h)

theorem stackOnly_ceEvent (s : State) (n b : Nat) : StackOnly s (ceEvent s n b) := stackOnly_modMct s n (fun _ h => h)

theorem stackOnly_ueEvent (s : State) (n b : Nat) (liv : Byte) (scrub : Bool) : StackOnly s (ueEvent s n b liv scrub) :=
  (stackOnly_modMct s n (fun _ h => h)).trans (stackOnly_logF _ _)

theorem stackOnly_ueEvents (s : State) (n : Nat) (liv : Byte) (bs : List Nat) : StackOnly s (ueEvents s n liv bs) :=
  stackOnly_forAll (fun t b => stackOnly_ueEvent t n b liv false) bs s

theorem stackOnly_correct (s : State) (n : Nat) (p : MctPort) (liv : Byte) (off len : Nat) :
    StackOnly s (correct s n p liv off len) :=
  stackOnly_forAll (fun t b => stackOnly_ceEvent t n b) _ s

theorem stackOnly_partRead (s : State) (n : Nat) (p : MctPort) (liv : Byte) (off len : Nat) :
    StackOnly s (partRead s n p liv off len).2 :=
  ((stackOnly_forAll (fun t b => stackOnly_refreshFor t n (32 * b) 32) _ s).trans
    (stackOnly_forAll (fun t b => stackOnly_ceEvent t n b) _ _)).trans (stackOnly_ueEvents _ n liv _)

theorem markMixed_reads (m : Mct) (w : PendWrite) : (markMixed m w).reads = m.reads := by
  unfold markMixed
  split <;> rfl

theorem stackOnly_land (s : State) (n : Nat) (w : PendWrite) : StackOnly s (land s n w) := by
  have h : StackOnly s (modDie s n (fun d => { d with
      hbm := landWr d.mct.compat s.free d.hbm w, mct := markMixed (clearBad d.mct w.off w.data.length) w })) :=
    stackOnly_modDie s n rfl (fun r hr => by rwa [markMixed_reads] at hr)
  unfold land
  dsimp only
  split
  · exact h.trans (stackOnly_fresh _)
  · exact h

theorem stackOnly_ackDrained (s : State) (compat : Bool) (w : PendWrite) : StackOnly s (ackDrained s compat w) := by
  unfold ackDrained
  split
  · exact .of_dies rfl rfl rfl
  · exact .refl s

theorem stackOnly_drainAt (s : State) (n idx : Nat) : StackOnly s (drainAt s n idx) := by
  unfold drainAt
  split
  · exact .refl s
  · exact (((stackOnly_refreshFor s n _ _).trans (stackOnly_modMct _ n (fun _ h => h))).trans (stackOnly_land _ n _)).trans
      (stackOnly_ackDrained _ _ _)

theorem stackOnly_drainAll (s : State) (n : Nat) : StackOnly s (drainAll s n) :=
  (stackOnly_forAll (fun t _ => stackOnly_drainAt t n 0) _ s).trans (stackOnly_finishStores _)

theorem stackOnly_hbmGet (s : State) (n : Nat) (p : MctPort) (liv : Byte) (off len : Nat) :
    StackOnly s (hbmGet s n p liv off len).2 := by
  have h := (stackOnly_refreshFor s n off len).trans (stackOnly_correct _ n p liv off len)
  unfold hbmGet
  dsimp only
  generalize correct (refreshFor s n off len) n p liv off len = t at h ⊢
  split
  · dsimp only
    split
    · exact h.trans (stackOnly_fresh _)
    · exact h
  · exact h.trans (stackOnly_ueEvents _ n liv _)

theorem stackOnly_hbmSet (s : State) (n : Nat) (liv : Byte) (off : Nat) (data : List Byte) :
    StackOnly s (hbmSet s n liv off data) := by
  have h := (stackOnly_refreshFor s n off data.length).trans (stackOnly_partRead _ n .spine liv off data.length)
  unfold hbmSet hbmPut
  generalize partRead (refreshFor s n off data.length) n .spine liv off data.length = x at h
  obtain ⟨bad, t⟩ := x
  cases bad with
  | true => exact h
  | false =>
    refine h.trans (.trans ?_ (stackOnly_land _ n _))
    split
    · exact stackOnly_drainAll t n
    · exact .refl t

/-! Queue contexts, whose table stands in the stacks (10 R368, R371). -/

theorem stackOnly_putCopy (s : State) (n q : Nat) (bs : List Byte) : StackOnly s (putCopy s n q bs) := by
  unfold putCopy
  split
  · split
    · exact stackOnly_hbmSet s n _ _ bs
    · exact .refl s
  · exact .refl s

theorem stackOnly_setQueue (s : State) (q : Nat) (c : QueueCtx) : StackOnly s (setQueue s q c) :=
  (StackOnly.of_dies (s := s) (t := { s with qmg := { s.qmg with queues := bankSet defQueue s.qmg.queues q c } }) rfl rfl rfl).trans
    ((stackOnly_putCopy _ _ q _).trans (stackOnly_putCopy _ _ q _))

theorem stackOnly_readCopy (s : State) (n q : Nat) : StackOnly s (readCopy s n q).2 := by
  unfold readCopy
  split
  · exact .refl s
  · split
    · exact .refl s
    · dsimp only
      exact stackOnly_hbmGet s n _ _ _ _

theorem stackOnly_syncQueue (s : State) (q : Nat) : StackOnly s (syncQueue s q) := by
  have h := (stackOnly_readCopy s s.qmg.primary q).trans (stackOnly_readCopy _ s.qmg.mirror q)
  unfold syncQueue
  split
  · exact .refl s
  · dsimp only
    split
    · split
      · exact h
      · exact h.trans (stackOnly_setQueue _ q _)
    · exact h.trans (stackOnly_setQueue _ q _)
    · exact h.trans (stackOnly_setQueue _ q _)
    · exact (h.trans (stackOnly_setQueue _ q _)).trans (stackOnly_logF _ _)

theorem stackOnly_modQueue (s : State) (q : Nat) (f : QueueCtx → QueueCtx) : StackOnly s (modQueue s q f) :=
  (stackOnly_syncQueue s q).trans (stackOnly_setQueue _ q _)

theorem stackOnly_modEng (s : State) (g : Nat) (f : Engine → Engine) : StackOnly s (modEng s g f) := .of_dies rfl rfl rfl

theorem stackOnly_bindEng (s : State) (g : EngId) (q : Nat) : StackOnly s (bindEng s g q) :=
  ((stackOnly_syncQueue s q).trans (stackOnly_modEng _ g _)).trans (stackOnly_setQueue _ q _)

theorem stackOnly_unbindEng (s : State) (g : Nat) : StackOnly s (unbindEng s g) := by
  unfold unbindEng
  dsimp only
  split
  · split
    · exact ((stackOnly_modEng s g _).trans (stackOnly_syncQueue _ _)).trans (stackOnly_modQueue _ _ _)
    · exact (stackOnly_modEng s g _).trans (stackOnly_syncQueue _ _)
  · exact .refl s

theorem stackOnly_turnTo (s : State) (g : EngId) : StackOnly s (turnTo s g).2 := by
  unfold turnTo
  dsimp only
  split
  · exact stackOnly_syncQueue s _
  · exact ((stackOnly_syncQueue s _).trans (stackOnly_unbindEng _ g)).trans (stackOnly_bindEng _ g _)

theorem stackOnly_startDesc (s : State) (g : EngId) (q : Nat) (ws : List Word) : StackOnly s (startDesc s g q ws) := by
  unfold startDesc
  exact (stackOnly_setQueue s q _).trans (stackOnly_modEng _ g _)

/-! Transactions that fail (01 R28; 14 R499, R502). -/

/-- What the ends of transactions leave: the dies, the stage, and of the dispatcher all but what the link layer has ended. -/
structure EndsKept (s t : State) : Prop where
  dies : t.dies = s.dies
  stg  : t.stg = s.stg
  dis  : t.dis = { s.dis with ended := t.dis.ended }

theorem EndsKept.refl (s : State) : EndsKept s s := ⟨rfl, rfl, rfl⟩

theorem EndsKept.trans {s t u : State} (h : EndsKept s t) (k : EndsKept t u) : EndsKept s u :=
  ⟨k.dies.trans h.dies, k.stg.trans h.stg, k.dis.trans (by rw [h.dis])⟩

theorem EndsKept.stackOnly {s t : State} (h : EndsKept s t) : StackOnly s t := .of_dies h.dies h.stg h.dis

theorem endsKept_forAll {α : Type} {f : State → α → State} (hf : ∀ t x, EndsKept t (f t x)) (l : List α) (s : State) :
    EndsKept s (forAll s l f) :=
  forAll_keeps (EndsKept s) f (fun t x h => h.trans (hf t x)) l s (.refl s)

theorem endsKept_emit (s : State) (e : Emit) : EndsKept s (emit s e) := ⟨rfl, rfl, rfl⟩

theorem endsKept_noteEnded (s : State) (l : List Ended) : EndsKept s (noteEnded s l) := ⟨rfl, rfl, rfl⟩

theorem endsKept_failDesc (s : State) (g : EngId) : EndsKept s (failDesc s g) := by
  unfold failDesc
  split
  · obtain ⟨e, n, h⟩ := engDone_eq s g stInternal _ false
    rw [h]
    exact ⟨rfl, rfl, rfl⟩
  · exact .refl s

theorem endsKept_failWrite (s : State) (w : PendWrite) : EndsKept s (failWrite s w) := by
  unfold failWrite
  split
  · exact endsKept_failDesc s _
  · exact endsKept_emit s _

theorem endsKept_failHeldWrite (s : State) (w : HeldWrite) : EndsKept s (failHeldWrite s w) := by
  unfold failHeldWrite
  split
  · exact endsKept_failDesc s _
  · split
    · exact endsKept_emit s _
    · exact .refl s

theorem endsKept_failHeld (s : State) (l : LinkId) : EndsKept s (failHeld s l) := by
  unfold failHeld
  dsimp only
  refine .trans ?_ (endsKept_forAll endsKept_failHeldWrite _ _)
  exact ⟨rfl, rfl, rfl⟩

theorem endsKept_failFlight (s : State) (l : LinkId) : EndsKept s (failFlight s l) := by
  unfold failFlight
  dsimp only
  refine .trans ?_ (endsKept_forAll (fun t (f : EngId × DieId × Bool × HaloMsg) => endsKept_failDesc t f.1) _ _)
  exact ⟨rfl, rfl, rfl⟩

theorem endsKept_failPieces (s : State) (l : LinkId) (i : Isl) : EndsKept s (failPieces s l i) := by
  unfold failPieces
  refine .trans ?_ (endsKept_forAll (fun t a => endsKept_emit t _) _ _)
  exact (endsKept_noteEnded s _).trans ⟨modIsl_dies _ i _, modIsl_stg _ i _, by rw [modIsl_dis]⟩

/-- The writes at a stack that owe an acknowledgement over a link. -/
def owedOver (compat : Bool) (l : LinkId) (w : PendWrite) : Bool := compat && w.owed && w.path.contains l

/-- An MCT without the held reads that came by a link, and with no acknowledgement owed over it. -/
def cutMct (compat : Bool) (l : LinkId) (m : Mct) : Mct :=
  { m with
    reads := m.reads.filter (fun r => !r.path.contains l)
    writes := m.writes.map (fun w => if owedOver compat l w then { w with owed := false } else w) }

/-- At one stack what came by the link ends, and what the stack holds stands. -/
theorem endsKept_failMct (s : State) (l : LinkId) (n : DieId) :
    EndsKept (modMct s n (cutMct (mct s n).compat l)) (failMct s l n) := by
  unfold failMct
  dsimp only
  refine .trans ?_ (endsKept_forAll endsKept_failWrite _ _)
  refine .trans ?_ (endsKept_forAll (fun t (r : HeldRead) => endsKept_emit t _) _ _)
  exact ⟨rfl, rfl, rfl⟩

theorem stackOnly_failMct (s : State) (l : LinkId) (n : DieId) : StackOnly s (failMct s l n) :=
  (stackOnly_modMct s n (fun _ hr => (List.mem_filter.1 hr).1)).trans (endsKept_failMct s l n).stackOnly

theorem failMct_hbm (s : State) (l : LinkId) (n : DieId) (m : Nat) : (die (failMct s l n) m).hbm = (die s m).hbm := by
  rw [die, (endsKept_failMct s l n).dies]
  show (die (modDie s n _) m).hbm = _
  rw [die_modDie]
  split
  · rw [‹m = n.val›]
  · rfl

theorem failMct_gone {s : State} {l : LinkId} {n : DieId} {r : HeldRead} (h : r ∈ (mct (failMct s l n) n).reads) :
    l ∉ r.path := by
  rw [mct, die, (endsKept_failMct s l n).dies] at h
  have h' : r ∈ (mct (modMct s n (cutMct (mct s n).compat l)) n).reads := h
  rw [mct_modMct_self] at h'
  simpa using (List.mem_filter.1 h').2

/-- After the stacks of a list, none of them holds a read that came by the link. -/
theorem forAll_failMct_gone (l : LinkId) (ns : List DieId) : ∀ (s : State), ∀ m ∈ ns,
    ∀ r ∈ (mct (forAll s ns (fun s n => failMct s l n)) m).reads, l ∉ r.path := by
  induction ns with
  | nil => exact fun _ _ hm => nomatch hm
  | cons n ns ih =>
    intro s m hm r hr
    rcases List.mem_cons.1 hm with rfl | hm
    · have hk := stackOnly_forAll (fun t (n : DieId) => stackOnly_failMct t l n) ns (failMct s l m)
      exact failMct_gone (hk.reads m r hr)
    · exact ih (failMct s l n) m hm r hr

/-! Copies under way (12 R451). -/

theorem stackOnly_copyReach (s : State) (c : MemCopy) (len : Nat) : StackOnly s (copyReach s c len).2.2 := by
  unfold copyReach
  dsimp only
  generalize c.src / 2 ^ 34 = sd
  generalize c.src % 2 ^ 34 = so
  have ha : ∀ t bs, StackOnly t (ueEvents t sd c.livery bs) := fun t bs => stackOnly_ueEvents t _ _ bs
  have hr : ∀ k, StackOnly s (correct (refreshFor s sd so len) sd .spine c.livery so k) :=
    fun k => (stackOnly_refreshFor s sd so len).trans (stackOnly_correct _ sd _ _ so k)
  generalize foundPart _ _ _ _ _ _ = bad
  cases bad with
  | nil => exact (hr _).trans (ha _ _)
  | cons b bs =>
    dsimp only
    refine .trans ?_ (stackOnly_ueEvents _ _ _ _)
    split
    · exact (hr _).trans (ha _ _)
    · exact hr _

theorem stackOnly_copyMove (s : State) (c : MemCopy) (len : Nat) : StackOnly s (copyMove s c len).2.2 := by
  unfold copyMove
  dsimp only
  exact .trans (stackOnly_copyReach s c len) (stackOnly_hbmSet _ _ _ _ _)

theorem diesKept_failCopy (s : State) (c : MemCopy) : DiesKept s (failCopy s c) := by
  unfold failCopy
  dsimp only
  refine .trans ?_ (.of_dies (signalKept_completeDefers _ _ _ _).dies)
  refine .trans ?_ (stackOnly_copyMove _ c _).toDiesKept
  exact .of_dies rfl

theorem diesKept_failCopies (s : State) (l : LinkId) : DiesKept s (failCopies s l) := by
  unfold failCopies
  dsimp only
  refine .trans ?_ (forAll_keeps (DiesKept _) failCopy (fun t c h => h.trans (diesKept_failCopy t c)) _ _ (.refl _))
  exact .of_dies rfl

theorem failCopies_dies {s : State} (h : s.dis.copies = []) (l : LinkId) : (failCopies s l).dies = s.dies := by
  simp only [failCopies, h]
  rfl

/-! A link leaves the active state. -/

/-- Before the link goes down, every transaction on it has ended. -/
theorem dropLink_eq (s : State) (l : LinkId) : ∃ u, dropLink s l = setLink u l false ∧ DiesKept s u ∧
    (∀ m : DieId, ∀ r ∈ (mct u m).reads, l ∉ r.path) ∧
    (s.dis.copies = [] → ∀ n : Nat, (die u n).hbm = (die s n).hbm) := by
  have h1 : StackOnly s (forAll s dieList (fun s n => failMct s l n)) :=
    stackOnly_forAll (fun t (n : DieId) => stackOnly_failMct t l n) _ s
  have hb : ∀ n : Nat, (die (forAll s dieList (fun s n => failMct s l n)) n).hbm = (die s n).hbm :=
    forAll_keeps (fun t => ∀ n : Nat, (die t n).hbm = (die s n).hbm) _
      (fun t (x : DieId) h n => (failMct_hbm t l x n).trans (h n)) dieList s (fun _ => rfl)
  have hg := fun m : DieId => forAll_failMct_gone l dieList s m (List.mem_finRange m)
  unfold dropLink
  dsimp only
  generalize forAll s dieList (fun s n => failMct s l n) = t at h1 hb hg ⊢
  have h2 : EndsKept t (failHeld (failFlight (failPieces (failPieces t l .sia) l .sib) l) l) :=
    (((endsKept_failPieces t l .sia).trans (endsKept_failPieces _ l .sib)).trans (endsKept_failFlight _ l)).trans
      (endsKept_failHeld _ l)
  generalize failHeld (failFlight (failPieces (failPieces t l .sia) l .sib) l) l = v at h2 ⊢
  have h3 := h2.stackOnly.toDiesKept.trans (diesKept_failCopies v l)
  refine ⟨_, rfl, h1.toDiesKept.trans h3, fun m r hr => hg m r (h3.reads m r hr), fun hc n => ?_⟩
  have hv : v.dis.copies = [] := by rw [h2.dis]; dsimp only; rw [h1.dis]; exact hc
  rw [die, failCopies_dies hv, h2.dies]
  exact hb n

end Sys2Proof.Proofs

/-! Links that go down, routes and fabric time-outs (01 R26-R28, R40-R42; 14 R498-R502). -/

namespace Sys2Proof.Proofs

open Sys2Proof.Machine Sys2Proof.Safety Sys2Proof.Laws

/-! The ends of a link that goes down (Tables 1-13, 1-17). -/

/-- A spine that goes down changes its die's registers of it alone. -/
theorem die_setLink_spine (s : State) (n : DieId) (m : Nat) : die (setLink s (.spine n) false) m =
    if m = n then { die s n with spup := false, spdown := (die s n).spdown || (die s n).spup } else die s m := by
  have h : die (setLink s (.spine n) false) m =
      die (modDie s n (fun d => { d with spup := false, spdown := d.spdown || ((die s n).spup && true) })) m := by
    unfold setLink
    dsimp only
    split <;> rfl
  rw [h, die_modDie, Bool.and_true]

/-- The end of a coupling that goes down at the die it starts from, and the end at that die's successor. -/
def startDown (was : Bool) (d : Die) : Die := { d with scup := false, scdown := d.scdown || was }
def endDown (was : Bool) (d : Die) : Die := { d with pcup := false, pcdown := d.pcdown || was }

theorem setLink_coupling (s : State) (n : DieId) : setLink s (.coupling n) false =
    modDie (modDie s n (startDown (die s n).scup)) (succDie n).val (endDown (die s n).scup) := by
  simp only [setLink, Bool.not_false, Bool.and_true]
  rfl

/-- A coupling that goes down is down at both of its dies. -/
theorem couplingDown_reads (s : State) (n : DieId) : (die (setLink s (.coupling n) false) n).scup = false ∧
    (die (setLink s (.coupling n) false) (succDie n)).pcup = false ∧
    (die (setLink s (.coupling n) false) n).failedRetrains = (die s n).failedRetrains := by
  have h (m : Nat) := die_modDie (modDie s n (startDown (die s n).scup)) (succDie n).val m (endDown (die s n).scup)
  have hn : die (modDie s n (startDown (die s n).scup)) n = startDown (die s n).scup (die s n) := die_modDie_self s n _
  have hp : (die (setLink s (.coupling n) false) (succDie n)).pcup = false := by
    rw [setLink_coupling, h, if_pos rfl]
    rfl
  have hs : die (setLink s (.coupling n) false) n = startDown (die s n).scup (die s n) ∨
      die (setLink s (.coupling n) false) n = endDown (die s n).scup (startDown (die s n).scup (die s n)) := by
    rw [setLink_coupling, h]
    split
    · rw [← ‹n.val = (succDie n).val›, hn]
      exact .inr rfl
    · exact .inl hn
  rcases hs with hs | hs <;>
  · rw [hs]
    exact ⟨rfl, hp, rfl⟩

/-! Retry exhaustion and failed retrains (R498, R499; Table 14-1). -/

theorem mem_addNew {α : Type} [DecidableEq α] (x : α) (l : List α) : x ∈ addNew x l := by
  unfold addNew
  split
  · assumption
  · exact List.mem_append_right l (List.mem_singleton_self x)

/-- The entries that retry exhaustion makes (R498, R501). -/
def exhaustNoted (s : State) (l : LinkId) : State :=
  let late := s.dis.ended.filter (fun e => !e.byLink && e.path.contains l)
  let fact : Fact := { cls := 0x07, unit := (linkUnit l).1, sub := (linkUnit l).2, status := stInternal }
  forAll (logF { s with dis := { s.dis with ended := s.dis.ended.filter (fun e => !late.contains e) } } fact) late
    (fun s _ => logF s { fact with kind := some 3 })

/-- With them made the link goes down and waits for its retrain. -/
theorem exhaust_eq (s : State) (l : LinkId) : exhaust s l = { dropLink (exhaustNoted s l) l with
    iod := { (dropLink (exhaustNoted s l) l).iod with retrain := addNew l (dropLink (exhaustNoted s l) l).iod.retrain } } := rfl

theorem exhaustNoted_kept (s : State) (l : LinkId) :
    (exhaustNoted s l).dies = s.dies ∧ (exhaustNoted s l).dis.copies = s.dis.copies := by
  unfold exhaustNoted
  dsimp only
  refine forAll_keeps (fun t => t.dies = s.dies ∧ t.dis.copies = s.dis.copies) _ (fun t _ ht => ?_) _ _ ?_
  · rwa [logF_dies, logF_dis]
  · rw [logF_dies, logF_dis]
    exact ⟨rfl, rfl⟩

theorem retryExhaustion_die {s : State} {l : LinkId} (hl : ∀ i, l ≠ .island i) (hu : linkActive s l = true) :
    exec (.retryExhaustion l) s = .next (exhaust s l) := by
  show execRetryExhaustion l s = _
  cases l with
  | island i => exact absurd rfl (hl i)
  | spine n => simp [execRetryExhaustion, hu]
  | coupling n => simp [execRetryExhaustion, hu]

theorem die_of_dies {s t : State} (h : t.dies = s.dies) (n : Nat) : die t n = die s n := by
  rw [die, h, die]

theorem die_withIod (s : State) (x : Iod) (n : Nat) : die { s with iod := x } n = die s n := rfl

/-- Retry exhaustion leaves the dies as the link's going down has left them, and the link among those that retrain. -/
theorem exhaust_reads (s : State) (l : LinkId) :
    (∀ n, die (exhaust s l) n = die (dropLink (exhaustNoted s l) l) n) ∧ l ∈ (exhaust s l).iod.retrain := by
  rw [exhaust_eq]
  dsimp only
  exact ⟨die_withIod _ _, mem_addNew _ _⟩

/-- A spine whose retries are exhausted goes down at its die, with every read on it ended. -/
theorem retryExhaustion_spine {s : State} {n : DieId} (hu : (die s n).spup = true) :
    ∃ t, exec (.retryExhaustion (.spine n)) s = .next t ∧ (die t n).spup = false ∧ (die t n).spdown = true ∧
      LinkId.spine n ∈ t.iod.retrain ∧ (∀ m : DieId, ∀ r ∈ (mct t m).reads, LinkId.spine n ∉ r.path) ∧
      (s.dis.copies = [] → (die t n).hbm = (die s n).hbm) := by
  obtain ⟨hd, hc⟩ := exhaustNoted_kept s (.spine n)
  obtain ⟨v, hv, hk, hg, hb⟩ := dropLink_eq (exhaustNoted s (.spine n)) (.spine n)
  have hdie (m : Nat) : die (exhaust s (.spine n)) m = if m = n then
      { die v n with spup := false, spdown := (die v n).spdown || (die v n).spup } else die v m := by
    rw [(exhaust_reads s (.spine n)).1, hv, die_setLink_spine]
  have hup : (die v n).spup = true := by rw [hk.spup, die_of_dies hd, hu]
  refine ⟨_, retryExhaustion_die (fun _ => nofun) hu, ?_, ?_, (exhaust_reads s _).2, fun m r hr => hg m r ?_, fun h => ?_⟩
  · rw [hdie, if_pos rfl]
  · rw [hdie, if_pos rfl, hup, Bool.or_true]
  · rw [mct, hdie] at hr
    split at hr
    · rw [mct, ‹m.val = n.val›]
      exact hr
    · exact hr
  · rw [hdie, if_pos rfl, ← die_of_dies hd]
    exact hb (hc.trans h) n

/-- A coupling whose retries are exhausted goes down at both of its dies. -/
theorem retryExhaustion_coupling {s : State} {n : DieId} (hu : (die s n).scup = true) :
    ∃ t, exec (.retryExhaustion (.coupling n)) s = .next t ∧ (die t n).scup = false ∧ (die t (succDie n)).pcup = false ∧
      LinkId.coupling n ∈ t.iod.retrain := by
  obtain ⟨v, hv, -⟩ := dropLink_eq (exhaustNoted s (.coupling n)) (.coupling n)
  obtain ⟨hs, hp, -⟩ := couplingDown_reads v n
  have hd (m : Nat) : die (exhaust s (.coupling n)) m = die (setLink v (.coupling n) false) m := by
    rw [(exhaust_reads s (.coupling n)).1, hv]
  refine ⟨_, retryExhaustion_die (fun _ => nofun) hu, ?_, ?_, (exhaust_reads s _).2⟩
  · rw [hd, hs]
  · rw [hd, hp]

/-- A retrain that fails counts against the coupling (Table 14-1). -/
def failedRetrain (d : Die) : Die := { d with failedRetrains := min 255 (d.failedRetrains + 1), scfailed := true }

/-- A link stands no more among those that wait for a retrain. -/
def retrainOver (s : State) (l : LinkId) : State :=
  { s with iod := { s.iod with retrain := s.iod.retrain.filter (fun x => !(x == l)) } }

theorem retrainOver_reads (s : State) (l : LinkId) :
    (∀ n, die (retrainOver s l) n = die s n) ∧ l ∉ (retrainOver s l).iod.retrain :=
  ⟨die_withIod s _, fun h => by simp [retrainOver] at h⟩

theorem linkDown_coupling (s : State) (n : DieId) : exec (.linkDown (.coupling n)) s = .next (modDie
    (retrainOver (dropLink (logF s (downFact (.coupling n))) (.coupling n)) (.coupling n)) n failedRetrain) := rfl

/-- A failed retrain of a coupling counts against it, and the coupling waits for no retrain any more. -/
theorem linkDown_counts (s : State) (n : DieId) :
    ∃ t, exec (.linkDown (.coupling n)) s = .next t ∧ (die t n).scup = false ∧
      (die t n).failedRetrains = min 255 ((die s n).failedRetrains + 1) ∧ (die t n).scfailed = true ∧
      LinkId.coupling n ∉ t.iod.retrain := by
  obtain ⟨v, hv, hk, -⟩ := dropLink_eq (logF s (downFact (.coupling n))) (.coupling n)
  obtain ⟨hs, -, hf⟩ := couplingDown_reads v n
  have hr : (die v n).failedRetrains = (die s n).failedRetrains := by rw [hk.failedRetrains, die_of_dies (logF_dies s _)]
  obtain ⟨hd, hw⟩ := retrainOver_reads (setLink v (.coupling n) false) (.coupling n)
  refine ⟨_, linkDown_coupling s n, ?_, ?_, ?_, ?_⟩
  · rw [die_modDie_self, hv, hd]
    exact hs
  · rw [die_modDie_self, hv, hd, failedRetrain, hf, hr]
  · rw [die_modDie_self]
    rfl
  · rw [modDie_iod, hv]
    exact hw

/-! Routes (R26-R28). -/

/-- The other arc of the ring. -/
def otherArc : Route → Route
  | .succ => .pred
  | _ => .succ

theorem firstArc_arc (a b : Nat) : firstArc a b = .succ ∨ firstArc a b = .pred := by
  unfold firstArc
  split
  · exact .inl rfl
  · exact .inr rfl

/-- The route that the links give is the arc of R26, or the spines, or the other arc (R27). -/
theorem routeNow_cases (s : State) (a b : Nat) :
    routeNow s a b = firstArc a b ∨ routeNow s a b = otherArc (firstArc a b) ∨ routeNow s a b = .spines := by
  rcases firstArc_arc a b with h | h <;>
  · rw [routeNow, h]
    dsimp only
    split
    · exact .inl rfl
    · split
      · exact .inr (.inl rfl)
      · exact .inr (.inr rfl)

/-- An entry of the list of changed routes is that of a pair of dies. -/
def ofPair (a b : DieId) (e : DieId × DieId × Nat) : Bool := e.1 == a && e.2.1 == b

theorem ofPair_iff (a b : DieId) (e : DieId × DieId × Nat) : ofPair a b e = true ↔ e.1 = a ∧ e.2.1 = b := by
  simp [ofPair]

/-- The route of a code in the list of changed routes. -/
def codeRoute (a b : Nat) (c : Nat) : Route := if c = 1 then otherArc (firstArc a b) else .spines

theorem routeUsed_eq (s : State) (a b : DieId) :
    routeUsed s a b = (s.iod.altRoute.find? (ofPair a b)).elim (firstArc a b) (fun e => codeRoute a b e.2.2) := by
  have ho : (if firstArc a b = .succ then Route.pred else .succ) = otherArc (firstArc a b) := by
    rcases firstArc_arc a b with h | h <;> rw [h] <;> rfl
  unfold routeUsed codeRoute
  rw [← ho]
  show (match s.iod.altRoute.find? (ofPair a b) with
    | some e => _
    | none => _) = _
  cases s.iod.altRoute.find? (ofPair a b) <;> rfl

/-- The list of changed routes with the entry of one pair set anew; none for the arc of R26. -/
def setRoute (l : List (DieId × DieId × Nat)) (a b : DieId) (want : Route) : List (DieId × DieId × Nat) :=
  let rest := l.filter (fun e => !ofPair a b e)
  if want = firstArc a b then rest else rest ++ [(a, b, if want = .spines then 2 else 1)]

theorem settleRoute_eq {s : State} {a b : DieId} (h : outstanding s a b = false) : settleRoute s a b =
    if routeNow s a b = routeUsed s a b then s
    else { s with iod := { s.iod with altRoute := setRoute s.iod.altRoute a b (routeNow s a b) } } := by
  simp [settleRoute, h, setRoute, ofPair]

theorem find_setRoute_self (l : List (DieId × DieId × Nat)) (a b : DieId) (want : Route) :
    (setRoute l a b want).find? (ofPair a b) =
      if want = firstArc a b then none else some (a, b, if want = .spines then 2 else 1) := by
  have hr : (l.filter (fun e => !ofPair a b e)).find? (ofPair a b) = none := find_filter_none _ _ l (fun x h => by simp [h])
  unfold setRoute
  dsimp only
  split
  · exact hr
  · rw [List.find?_append, hr]
    simp [ofPair]

/-- The entry gives back the route that it was set for. -/
theorem setRoute_used (l : List (DieId × DieId × Nat)) (a b : DieId) {want : Route}
    (h : want = firstArc a b ∨ want = otherArc (firstArc a b) ∨ want = .spines) :
    ((setRoute l a b want).find? (ofPair a b)).elim (firstArc a b) (fun e => codeRoute a b e.2.2) = want := by
  rw [find_setRoute_self]
  rcases h with rfl | rfl | rfl
  · rw [if_pos rfl]
    rfl
  · rcases firstArc_arc a b with hf | hf <;> simp [hf, codeRoute, otherArc]
  · rcases firstArc_arc a b with hf | hf <;> simp [hf, codeRoute]

theorem find_setRoute_ne (l : List (DieId × DieId × Nat)) {a b x y : DieId} (want : Route) (h : x ≠ a ∨ y ≠ b) :
    (setRoute l a b want).find? (ofPair x y) = l.find? (ofPair x y) := by
  have hr : (l.filter (fun e => !ofPair a b e)).find? (ofPair x y) = l.find? (ofPair x y) := by
    refine find_filter_of_imp _ _ l (fun e he => ?_)
    obtain ⟨rfl, rfl⟩ := (ofPair_iff x y e).1 he
    rcases h with h | h <;> simp [ofPair, h]
  have hn : ofPair x y (a, b, if want = .spines then 2 else 1) = false := by
    rcases h with h | h <;> simp [ofPair, Ne.symm h]
  unfold setRoute
  dsimp only
  split
  · exact hr
  · rw [List.find?_append, hr, List.find?_singleton, hn]
    simp

/-- Once the old route has drained, the pair takes the route that the links give, and no other pair changes. -/
theorem settleRoute_reads {s : State} {a b : DieId} (h : outstanding s a b = false) :
    routeUsed (settleRoute s a b) a b = routeNow s a b ∧
    (∀ x y : DieId, (x ≠ a ∨ y ≠ b) → routeUsed (settleRoute s a b) x y = routeUsed s x y) ∧
    (settleRoute s a b).dies = s.dies := by
  rw [settleRoute_eq h]
  split
  · exact ⟨‹routeNow s a b = _›.symm, fun _ _ _ => rfl, rfl⟩
  · refine ⟨?_, fun x y hx => ?_, rfl⟩
    · rw [routeUsed_eq]
      dsimp only
      exact setRoute_used _ a b (routeNow_cases s a b)
    · rw [routeUsed_eq, routeUsed_eq]
      dsimp only
      rw [find_setRoute_ne _ _ hx]

/-! Fabric time-outs (R500-R502). -/

/-- What waits at a die ends at its stack, or where the message or fetch came from. -/
theorem stackOnly_dropFlight (s : State) (n : DieId) : StackOnly s (dropFlight s n).2 := by
  unfold dropFlight
  split
  · exact .refl s
  · refine .trans ?_ (endsKept_failDesc _ _).stackOnly
    exact .of_dies rfl rfl rfl

theorem stackOnly_dropFetch (s : State) (n : DieId) : StackOnly s (dropFetch s n).2 := by
  unfold dropFetch
  split
  · exact .refl s
  · dsimp only
    split
    · exact .refl s
    · exact ((stackOnly_turnTo s _).trans (stackOnly_startDesc _ _ _ _)).trans (stackOnly_engDone _ _ _ _ _)

/-- A held read ends with ST_INTERNAL. -/
def readEnded (s : State) (n : DieId) (r : HeldRead) : State :=
  emit (modMct s n (fun m => { m with reads := m.reads.erase r })) (.fabric r.livery stInternal [])

theorem die_readEnded (s : State) (n : DieId) (r : HeldRead) : die (readEnded s n r) n =
    { die s n with mct := { (die s n).mct with reads := (die s n).mct.reads.erase r } } :=
  (die_of_dies (s := modMct s n (fun m => { m with reads := m.reads.erase r })) rfl n).trans (by rw [modMct, die_modDie_self])

theorem stackOnly_readEnded (s : State) (n : DieId) (r : HeldRead) : StackOnly s (readEnded s n r) :=
  (stackOnly_modMct s n (fun _ h => List.mem_of_mem_erase h)).trans (endsKept_emit _ _).stackOnly

theorem stackOnly_dropAtDie (s : State) (n : DieId) : StackOnly s (dropAtDie s n).2 := by
  have hw (w : PendWrite) (f : PendWrite → PendWrite) :
      StackOnly s (failWrite (modMct s n (fun m => { m with writes := m.writes.map f })) w) :=
    (stackOnly_modMct s n (fun _ h => h)).trans (endsKept_failWrite _ w).stackOnly
  unfold dropAtDie
  dsimp only
  split
  · split
    · exact stackOnly_dropFlight s n
    · exact stackOnly_dropFetch s n
  · exact stackOnly_readEnded s n _
  · exact hw _ _
  · split
    · exact stackOnly_readEnded s n _
    · exact hw _ _

/-- A held read that is older than every write which waits for its acknowledgement ends first. -/
theorem dropAtDie_read {s : State} {n : DieId} {r : HeldRead} {rest : List HeldRead} (hr : (mct s n).reads = r :: rest)
    (hw : (mct s n).compat = true → ∀ w ∈ (mct s n).writes, w.owed = true → r.seq < w.seq) :
    dropAtDie s n = (some r.path, readEnded s n r) := by
  unfold dropAtDie
  simp only [hr, List.head?_cons]
  cases hc : (mct s n).compat with
  | false => simp [readEnded]
  | true =>
    cases hf : (mct s n).writes.find? (fun w => w.owed) with
    | none => simp [readEnded]
    | some w =>
      have hlt := hw hc w (List.mem_of_find?_eq_some hf) (by simpa using List.find?_some hf)
      simp [hlt, readEnded]

theorem timeoutsOf_stackOnly {s t : State} (h : StackOnly s t) (u : UnitId) : timeoutsOf t u = timeoutsOf s u := by
  rw [timeoutsOf, h.dis, h.stg, timeoutsOf]

/-- The time-out is counted and its entry made, before its consequences. -/
def timeoutNoted (s : State) (u : UnitId) : State :=
  logF (setDis s (fun d => { d with
    timeouts := min 0xFFFFFFFF (d.timeouts + 1), timeoutLog := (u, s.stg.stage) :: d.timeoutLog }))
    { cls := 0x09, unit := unitNum u, status := stInternal }

theorem timeOut_die (s : State) (n : DieId) : timeOut s (.die n) = (if 2 ≤ timeoutsOf (timeoutNoted s (.die n)) (.die n) &&
    dieInSvc (timeoutNoted s (.die n)) n then loseDie (timeoutNoted s (.die n)) n true 5 else timeoutNoted s (.die n)) := rfl

theorem timeoutsOf_noted (s : State) (u : UnitId) : timeoutsOf (timeoutNoted s u) u = timeoutsOf s u + 1 := by
  simp [timeoutsOf, timeoutNoted]

theorem dies_timeoutNoted (s : State) (u : UnitId) : (timeoutNoted s u).dies = s.dies := by
  rw [timeoutNoted, logF_dies, setDis_dies]

theorem dieInSvc_noted (s : State) (u : UnitId) (n : Nat) : dieInSvc (timeoutNoted s u) n = dieInSvc s n := by
  rw [dieInSvc, die_of_dies (dies_timeoutNoted s u), dieInSvc]

/-- What has left the device stays so when an entry is made. -/
theorem mem_out_logF {s : State} {e : Emit} (f : Fact) (h : e ∈ s.out) : e ∈ (logF s f).out := by
  obtain ⟨n, x, y, hl | hl⟩ := logF_eq s f
  · rw [hl]
    exact h
  · rcases setHpt_eq { s with free := n, sia := x, sib := y } { s.hpt with aFault := true } with hp | hp <;> rw [hl, hp]
    · exact h
    · exact List.mem_cons_of_mem _ h

/-- A time-out that the link layer has not reported ends the oldest transaction at its unit (R500). -/
theorem fabricTimeout_ends {s : State} {u : UnitId}
    (h : (dropOldest s u).1.isSome = true ∨ ∀ e ∈ s.dis.ended, e.byLink = false) :
    exec (.fabricTimeout u) s = .next (timeOut ((dropOldest s u).1.elim (dropOldest s u).2
      (fun p => noteEnded (dropOldest s u).2 [{ unit := u, path := p, byLink := false }])) u) := by
  have hf : s.dis.ended.find? (fun e => e.byLink && e.unit == u && (false || (dropOldest s u).1.isNone)) = none := by
    rw [List.find?_eq_none]
    intro e he
    rcases h with h | h
    · simp [Option.isNone_eq_false_iff.2 h]
    · simp [h e he]
  show execFabricTimeout u s false = _
  simp only [execFabricTimeout, hf]
  rcases dropOldest s u with ⟨_ | p, t⟩ <;> rfl

/-- A late report of what the link layer has ended makes an entry and has no further effect (R501). -/
theorem fabricTimeout_late {s : State} {u : UnitId} {e : Ended} {late : Bool} (h : (dropOldest s u).1 = none ∨ late = true)
    (hf : s.dis.ended.find? (fun e => e.byLink && e.unit == u) = some e) :
    exec (.fabricTimeout u late) s = .next (noteLate s u e) := by
  have hl : (late || (dropOldest s u).1.isNone) = true := by rcases h with h | h <;> simp [h]
  show execFabricTimeout u s late = _
  simp only [execFabricTimeout, hl, Bool.and_true, hf]

theorem resetDie_inService (s : State) (n : DieId) : (die (resetDie s n) n).inService = false := by
  unfold resetDie
  dsimp only
  rw [die_setDie_self]

theorem loseDie_inService (s : State) (n : DieId) (counted : Bool) (reaction : Nat) :
    (die (loseDie s n counted reaction) n).inService = false :=
  resetDie_inService _ n

/-- The second time-out of a die in a stage is its loss (R500). -/
theorem timeOut_loses {s : State} {n : DieId} (h1 : 1 ≤ timeoutsOf s (.die n)) (hs : dieInSvc s n = true) :
    (die (timeOut s (.die n)) n).inService = false := by
  have h2 : 2 ≤ timeoutsOf (timeoutNoted s (.die n)) (.die n) := by rw [timeoutsOf_noted]; omega
  rw [timeOut_die, if_pos (by simp [h2, dieInSvc_noted, hs])]
  exact loseDie_inService _ n true 5

theorem timeOut_first {s : State} {n : DieId} (h : timeoutsOf s (.die n) = 0) : timeOut s (.die n) = timeoutNoted s (.die n) := by
  rw [timeOut_die, if_neg (by simp [timeoutsOf_noted, h])]

/-- The first time-out of a die in a stage ends its oldest held read and is counted. -/
theorem fabricTimeout_read {s : State} {n : DieId} {r : HeldRead} {rest : List HeldRead} (hr : (mct s n).reads = r :: rest)
    (hw : (mct s n).compat = true → ∀ w ∈ (mct s n).writes, w.owed = true → r.seq < w.seq)
    (h0 : timeoutsOf s (.die n) = 0) :
    ∃ t, exec (.fabricTimeout (.die n)) s = .next t ∧ (mct t n).reads = rest ∧
      t.dis.timeouts = min 0xFFFFFFFF (s.dis.timeouts + 1) ∧ (die t n).inService = (die s n).inService ∧
      Emit.fabric r.livery stInternal [] ∈ t.out := by
  have hd : dropOldest s (.die n) = (some r.path, readEnded s n r) := dropAtDie_read hr hw
  have he := fabricTimeout_ends (s := s) (u := .die n) (.inl (by rw [hd]; rfl))
  rw [hd] at he
  dsimp only [Option.elim] at he
  have hk : StackOnly s (noteEnded (readEnded s n r) [{ unit := .die n, path := r.path, byLink := false }]) :=
    (stackOnly_readEnded s n r).trans (endsKept_noteEnded _ _).stackOnly
  rw [timeOut_first ((timeoutsOf_stackOnly hk _).trans h0)] at he
  have hx := (die_of_dies (dies_timeoutNoted (noteEnded (readEnded s n r) [{ unit := .die n, path := r.path, byLink := false }])
    (.die n)) n).trans (die_readEnded s n r)
  refine ⟨_, he, ?_, ?_, ?_, ?_⟩
  · rw [mct, hx]
    exact (congrArg (List.erase · r) hr).trans (List.erase_cons_head _ _)
  · rw [timeoutNoted, logF_dis]
    rfl
  · rw [hx]
  · exact mem_out_logF _ (List.mem_cons_self ..)

/-- The second one takes it out of service, whatever waits there. -/
theorem fabricTimeout_lost {s : State} {n : DieId} (h1 : 1 ≤ timeoutsOf s (.die n)) (hs : dieInSvc s n = true)
    (h : (dropOldest s (.die n)).1.isSome = true ∨ ∀ e ∈ s.dis.ended, e.byLink = false) :
    ∃ t, exec (.fabricTimeout (.die n)) s = .next t ∧ (die t n).inService = false := by
  have hk : StackOnly s ((dropOldest s (.die n)).1.elim (dropOldest s (.die n)).2
      (fun p => noteEnded (dropOldest s (.die n)).2 [{ unit := .die n, path := p, byLink := false }])) := by
    have hd : StackOnly s (dropOldest s (.die n)).2 := stackOnly_dropAtDie s n
    cases (dropOldest s (.die n)).1 with
    | none => exact hd
    | some p => exact hd.trans (endsKept_noteEnded _ _).stackOnly
  refine ⟨_, fabricTimeout_ends h, timeOut_loses ?_ ((hk.inService n).trans hs)⟩
  rwa [timeoutsOf_stackOnly hk]

theorem noteLate_reads (s : State) (u : UnitId) (e : Ended) :
    (noteLate s u e).dis.ended = s.dis.ended.erase e ∧ (noteLate s u e).dis.timeouts = s.dis.timeouts ∧
    (noteLate s u e).dies = s.dies ∧
    (inSvc s.sia = true → ∃ q r, (noteLate s u e).sia.flog = q :: r ∧ q.2.cls = 0x09 ∧ q.2.kind = 3) := by
  unfold noteLate
  rw [logF_dis, logF_dies]
  refine ⟨rfl, rfl, rfl, fun hs => ?_⟩
  obtain ⟨x, hx, hc, hk⟩ := isl_logF { s with dis := { s.dis with ended := s.dis.ended.erase e } }
    { cls := 0x09, unit := unitNum u, status := stInternal, kind := some 3 } .sia
  refine ⟨(s.sia.flogSeq.toNat, x), s.sia.flog.take 16383, ?_, hc, hk⟩
  refine (congrArg Island.flog hx).trans ?_
  show (islTake s.sia x).flog = _
  simp [islTake, hs]

/-- Settles O30: each clause from the lemma of its event. -/
theorem linkFaults : Obligations.LinkFaults := by
  refine ⟨fun s n => ⟨⟨_, rfl, ?_⟩, ⟨_, rfl, ?_⟩, ⟨_, rfl, ?_⟩, ⟨_, rfl, rfl, ?_⟩⟩,
    fun s n h => retryExhaustion_spine h, fun s n h => retryExhaustion_coupling h, fun s n => linkDown_counts s n,
    fun s a b h => ⟨_, rfl, settleRoute_reads h⟩, fun s n r rest hr hw h0 => ?_, fun s n h1 hs h => fabricTimeout_lost h1 hs h,
    fun s u e late h hf => ⟨_, fabricTimeout_late h hf, noteLate_reads s u e⟩⟩
  · rw [die_modDie_self]
    rfl
  · rw [die_modDie_self]
    rfl
  · rw [die_modDie_self]
    rfl
  · exact bankGet_bankSet_self 0 s.iod.spretry n _
  · obtain ⟨t, ht, hd, hc, hs, ho⟩ := fabricTimeout_read hr hw h0
    exact ⟨t, ht, hd, hc, hs, _, rfl, ho⟩

end Sys2Proof.Proofs


/-! What work at the stacks leaves of the rest of the device: a frame for every other chapter (12; 10 R368). -/

namespace Sys2Proof.Proofs

open Sys2Proof.Machine Sys2Proof.Safety Sys2Proof.Laws

/-- What a change keeps or extends, the change for every item of a list does. -/
theorem forAll_rel {α : Type} (R : State → State → Prop) (hr : ∀ s, R s s) (ht : ∀ {s t u}, R s t → R t u → R s u)
    {f : State → α → State} (hf : ∀ t x, R t (f t x)) (l : List α) (s : State) : R s (forAll s l f) :=
  forAll_keeps (R s) f (fun t x h => ht h (hf t x)) l s (hr s)

/-- The device without what work at a stack can write: the dies, the engines whose STOREs it completes, the entries it makes. -/
def offStack (s : State) : State := { s with free := 0, out := [], hpt := {}, dies := [], engines := [], sia := {}, sib := {} }

theorem offStack_logF (s : State) (f : Fact) : offStack (logF s f) = offStack s := by
  obtain ⟨n, x, y, h | h⟩ := logF_eq s f
  · rw [h]; rfl
  · rw [h]
    rcases setHpt_eq { s with free := n, sia := x, sib := y } { s.hpt with aFault := true } with h | h <;> rw [h] <;> rfl

/-- Work at the stack of die `n`: the other dies stand, and so does what is not a stack's to write. -/
structure StackWork (n : Nat) (s t : State) : Prop where
  rest   : offStack t = offStack s
  others : ∀ m, m ≠ n → die t m = die s m

theorem StackWork.refl (n : Nat) (s : State) : StackWork n s s := ⟨rfl, fun _ _ => rfl⟩

theorem StackWork.trans {n : Nat} {s t u : State} (h : StackWork n s t) (k : StackWork n t u) : StackWork n s u :=
  ⟨k.rest.trans h.rest, fun m hm => (k.others m hm).trans (h.others m hm)⟩

/-- A read at the stack of die `n` leaves the engines, the stack's bytes and the write queue too. -/
structure StackRead (n : Nat) (s t : State) : Prop extends StackWork n s t where
  engines : t.engines = s.engines
  hbm     : (die t n).hbm = (die s n).hbm
  writes  : (mct t n).writes = (mct s n).writes

theorem StackRead.refl (n : Nat) (s : State) : StackRead n s s := ⟨.refl n s, rfl, rfl, rfl⟩

theorem StackRead.trans {n : Nat} {s t u : State} (h : StackRead n s t) (k : StackRead n t u) : StackRead n s u :=
  ⟨h.toStackWork.trans k.toStackWork, k.engines.trans h.engines, k.hbm.trans h.hbm, k.writes.trans h.writes⟩

theorem stackRead_forAll {α : Type} {n : Nat} {f : State → α → State} (hf : ∀ t x, StackRead n t (f t x)) (l : List α)
    (s : State) : StackRead n s (forAll s l f) :=
  forAll_rel _ (.refl n) .trans hf l s

theorem stackWork_forAll {α : Type} {n : Nat} {f : State → α → State} (hf : ∀ t x, StackWork n t (f t x)) (l : List α)
    (s : State) : StackWork n s (forAll s l f) :=
  forAll_rel _ (.refl n) .trans hf l s

theorem stackWork_modDie (s : State) (n : Nat) (f : Die → Die) : StackWork n s (modDie s n f) :=
  ⟨rfl, fun _ hm => die_modDie_ne s f hm⟩

theorem stackRead_modMct (s : State) (n : Nat) {f : Mct → Mct} (hf : (f (mct s n)).writes = (mct s n).writes) :
    StackRead n s (modMct s n f) :=
  ⟨stackWork_modDie s n _, rfl, by rw [modMct, die_modDie_self], by rw [mct_modMct_self, hf]⟩

theorem stackRead_logF (s : State) (n : Nat) (f : Fact) : StackRead n s (logF s f) :=
  ⟨⟨offStack_logF s f, fun m _ => die_of_dies (logF_dies s f) m⟩, logF_engines s f, by rw [die_of_dies (logF_dies s f)],
    by rw [mct, die_of_dies (logF_dies s f), mct]⟩

theorem stackRead_fresh (s : State) (n : Nat) : StackRead n s (fresh s).2 := ⟨⟨rfl, fun _ _ => rfl⟩, rfl, rfl, rfl⟩

/-! Reads (R443-R446). -/

theorem forceRefresh_writes (m : Mct) (l : List Nat) : (l.foldl forceRefresh m).writes = m.writes ∧
    (l.foldl forceRefresh m).flaws = m.flaws := by
  induction l generalizing m with
  | nil => exact ⟨rfl, rfl⟩
  | cons k l ih => exact ih (forceRefresh m k)

theorem stackRead_refreshFor (s : State) (n off len : Nat) : StackRead n s (refreshFor s n off len) := by
  unfold refreshFor
  split
  · exact .refl n s
  · exact stackRead_modMct s n (forceRefresh_writes _ _).1

theorem stackRead_ceEvent (s : State) (n b : Nat) : StackRead n s (ceEvent s n b) := stackRead_modMct s n rfl

theorem stackRead_ueEvents (s : State) (n : Nat) (liv : Byte) (bs : List Nat) : StackRead n s (ueEvents s n liv bs) :=
  stackRead_forAll (fun t _ => (stackRead_modMct t n rfl).trans (stackRead_logF _ n _)) bs s

theorem stackRead_correct (s : State) (n : Nat) (p : MctPort) (liv : Byte) (off len : Nat) :
    StackRead n s (correct s n p liv off len) :=
  stackRead_forAll (fun t b => stackRead_ceEvent t n b) _ s

theorem stackRead_partRead (s : State) (n : Nat) (p : MctPort) (liv : Byte) (off len : Nat) :
    StackRead n s (partRead s n p liv off len).2 :=
  ((stackRead_forAll (fun t b => stackRead_refreshFor t n (32 * b) 32) _ s).trans
    (stackRead_forAll (fun t b => stackRead_ceEvent t n b) _ _)).trans (stackRead_ueEvents _ n liv _)

theorem stackRead_hbmGet (s : State) (n : Nat) (p : MctPort) (liv : Byte) (off len : Nat) :
    StackRead n s (hbmGet s n p liv off len).2 := by
  have h := (stackRead_refreshFor s n off len).trans (stackRead_correct _ n p liv off len)
  unfold hbmGet
  dsimp only
  split
  · dsimp only
    split
    · exact h.trans (stackRead_fresh _ n)
    · exact h
  · exact h.trans (stackRead_ueEvents _ n liv _)

theorem stackRead_hbmTake (s : State) (n : Nat) (liv : Byte) (off len : Nat) : StackRead n s (hbmTake s n liv off len).2 := by
  have h := stackRead_hbmGet s n .spine liv off len
  unfold hbmTake
  dsimp only
  split
  · exact h
  · exact h.trans (stackRead_fresh _ n)

/-! Writes (R432-R435, R646). -/

theorem stackWork_land (s : State) (n : Nat) (w : PendWrite) : StackWork n s (land s n w) := by
  unfold land
  dsimp only
  split
  · exact (stackWork_modDie s n _).trans (stackRead_fresh _ n).toStackWork
  · exact stackWork_modDie s n _

theorem stackWork_ackDrained (s : State) (n : Nat) (compat : Bool) (w : PendWrite) : StackWork n s (ackDrained s compat w) := by
  unfold ackDrained
  split
  · exact ⟨rfl, fun _ _ => rfl⟩
  · exact .refl n s

theorem stackWork_drainAt (s : State) (n idx : Nat) : StackWork n s (drainAt s n idx) := by
  unfold drainAt
  split
  · exact .refl n s
  · exact (((stackRead_refreshFor s n _ _).toStackWork.trans (stackWork_modDie _ n _)).trans (stackWork_land _ n _)).trans
      (stackWork_ackDrained _ n _ _)

theorem stackWork_drainAll (s : State) (n : Nat) : StackWork n s (drainAll s n) := by
  obtain ⟨e, k, h⟩ := finishStores_eq (forAll s (mct s n).writes (fun s _ => drainAt s n 0))
  have hd : StackWork n s (forAll s (mct s n).writes (fun s _ => drainAt s n 0)) :=
    stackWork_forAll (fun t _ => stackWork_drainAt t n 0) _ s
  rw [drainAll, h]
  exact ⟨hd.rest, hd.others⟩

theorem stackWork_hbmSet (s : State) (n : Nat) (liv : Byte) (off : Nat) (data : List Byte) :
    StackWork n s (hbmSet s n liv off data) := by
  have h := (stackRead_refreshFor s n off data.length).toStackWork.trans
    (stackRead_partRead _ n .spine liv off data.length).toStackWork
  unfold hbmSet hbmPut
  generalize partRead (refreshFor s n off data.length) n .spine liv off data.length = x at h
  obtain ⟨_ | _, t⟩ := x
  · refine h.trans (.trans ?_ (stackWork_land _ n _))
    split
    · exact stackWork_drainAll t n
    · exact .refl n t
  · exact h

/-! The queue context table stands in the stacks (10 R368, R371). -/

/-- The device without the queue contexts and what work at the stacks can write. -/
def offTable (s : State) : State := { offStack s with qmg := { s.qmg with queues := [] } }

theorem offTable_of_offStack {s t : State} (h : offStack t = offStack s) : offTable t = offTable s := by
  have hq : t.qmg = s.qmg := (congrArg State.qmg h :)
  rw [offTable, offTable, h, hq]

theorem offTable_putCopy (s : State) (n q : Nat) (bs : List Byte) : offTable (putCopy s n q bs) = offTable s := by
  unfold putCopy
  split
  · split
    · exact offTable_of_offStack (stackWork_hbmSet s n _ _ bs).rest
    · rfl
  · rfl

theorem offTable_setQueue (s : State) (q : Nat) (c : QueueCtx) : offTable (setQueue s q c) = offTable s :=
  (offTable_putCopy _ _ q _).trans (offTable_putCopy _ _ q _)

theorem offTable_readCopy (s : State) (n q : Nat) : offTable (readCopy s n q).2 = offTable s := by
  unfold readCopy
  split
  · rfl
  · split
    · rfl
    · exact offTable_of_offStack (stackRead_hbmGet s n _ _ _ _).rest

theorem offTable_syncQueue (s : State) (q : Nat) : offTable (syncQueue s q) = offTable s := by
  have h := (offTable_readCopy (readCopy s s.qmg.primary q).2 s.qmg.mirror q).trans (offTable_readCopy s s.qmg.primary q)
  have hs := fun c => (offTable_setQueue (readCopy (readCopy s s.qmg.primary q).2 s.qmg.mirror q).2 q c).trans h
  unfold syncQueue
  split
  · rfl
  · dsimp only
    split
    · split
      · exact h
      · exact hs _
    · exact hs _
    · exact hs _
    · exact (offTable_of_offStack (offStack_logF _ _)).trans (hs _)

theorem offTable_modQueue (s : State) (q : Nat) (f : QueueCtx → QueueCtx) : offTable (modQueue s q f) = offTable s :=
  (offTable_setQueue _ q _).trans (offTable_syncQueue s q)

theorem offTable_bindEng (s : State) (g : EngId) (q : Nat) : offTable (bindEng s g q) = offTable s :=
  (offTable_setQueue _ q _).trans (offTable_syncQueue s q)

theorem offTable_unbindEng (s : State) (g : Nat) : offTable (unbindEng s g) = offTable s := by
  unfold unbindEng
  dsimp only
  split
  · split
    · exact (offTable_modQueue _ _ _).trans (offTable_syncQueue _ _)
    · exact offTable_syncQueue _ _
  · rfl

end Sys2Proof.Proofs


/-! What leaves the stage timer and the staging of timetables as they are (02 Tables 2-4, 2-7), beginning with the stacks,
the queues and the waiters. -/

namespace Sys2Proof.Proofs

open Sys2Proof.Machine Sys2Proof.Safety Sys2Proof.Laws

/-- The stage timer and the staging of timetables stand as before. -/
@[simp] abbrev TimerKept (s t : State) : Prop := t.stg = s.stg ∧ t.tt = s.tt

theorem TimerKept.trans {s t u : State} (h : TimerKept s t) (k : TimerKept t u) : TimerKept s u :=
  ⟨k.1.trans h.1, k.2.trans h.2⟩

theorem TimerKept.of_offTable {s t : State} (h : offTable t = offTable s) : TimerKept s t :=
  ⟨(congrArg State.stg h :), (congrArg State.tt h :)⟩

theorem TimerKept.of_offStack {s t : State} (h : offStack t = offStack s) : TimerKept s t :=
  .of_offTable (offTable_of_offStack h)

theorem SignalKept.timer {s t : State} (h : SignalKept s t) : TimerKept s t := ⟨h.stg, h.tt⟩

@[simp] theorem forAll_stg {α : Type} {f : State → α → State} (hf : ∀ t x, (f t x).stg = t.stg) (l : List α) (s : State) :
    (forAll s l f).stg = s.stg :=
  forAll_rel (fun s t => t.stg = s.stg) (fun _ => rfl) (fun h k => k.trans h) hf l s

@[simp] theorem forAll_tt {α : Type} {f : State → α → State} (hf : ∀ t x, (f t x).tt = t.tt) (l : List α) (s : State) :
    (forAll s l f).tt = s.tt :=
  forAll_rel (fun s t => t.tt = s.tt) (fun _ => rfl) (fun h k => k.trans h) hf l s

theorem timer_forAll {α : Type} {f : State → α → State} (hf : ∀ t x, TimerKept t (f t x)) (l : List α) (s : State) :
    TimerKept s (forAll s l f) :=
  ⟨forAll_stg (fun t x => (hf t x).1) l s, forAll_tt (fun t x => (hf t x).2) l s⟩

@[simp] theorem timer_forAll_emit {α : Type} (g : α → Emit) (l : List α) (s : State) :
    TimerKept s (forAll s l (fun s x => emit s (g x))) := timer_forAll (fun _ _ => by simp) l s

/-! Work at the stacks and the queue context table. -/

@[simp] theorem timer_hbmSet (s : State) (n : Nat) (liv : Byte) (off : Nat) (data : List Byte) :
    TimerKept s (hbmSet s n liv off data) := .of_offStack (stackWork_hbmSet s n liv off data).rest
@[simp] theorem timer_hbmGet (s : State) (n : Nat) (p : MctPort) (liv : Byte) (off len : Nat) :
    TimerKept s (hbmGet s n p liv off len).2 := .of_offStack (stackRead_hbmGet s n p liv off len).rest
@[simp] theorem timer_hbmTake (s : State) (n : Nat) (liv : Byte) (off len : Nat) :
    TimerKept s (hbmTake s n liv off len).2 := .of_offStack (stackRead_hbmTake s n liv off len).rest
@[simp] theorem timer_drainAll (s : State) (n : Nat) : TimerKept s (drainAll s n) := .of_offStack (stackWork_drainAll s n).rest
@[simp] theorem timer_setQueue (s : State) (q : Nat) (c : QueueCtx) : TimerKept s (setQueue s q c) :=
  .of_offTable (offTable_setQueue s q c)
@[simp] theorem timer_syncQueue (s : State) (q : Nat) : TimerKept s (syncQueue s q) := .of_offTable (offTable_syncQueue s q)
@[simp] theorem timer_modQueue (s : State) (q : Nat) (f : QueueCtx → QueueCtx) : TimerKept s (modQueue s q f) :=
  .of_offTable (offTable_modQueue s q f)
@[simp] theorem timer_bindEng (s : State) (g : EngId) (q : Nat) : TimerKept s (bindEng s g q) := .of_offTable (offTable_bindEng s g q)
@[simp] theorem timer_unbindEng (s : State) (g : Nat) : TimerKept s (unbindEng s g) := .of_offTable (offTable_unbindEng s g)

/-! Replies, and the engines that signals release. -/

@[simp] theorem timer_completeDefers (s : State) (k : DefKind) (st : Byte) (data : List Word) :
    TimerKept s (completeDefers s k st data) := (signalKept_completeDefers s k st data).timer
@[simp] theorem timer_releaseWaiter (s : State) (w : Waiter) (st : Byte) (v : Nat) : TimerKept s (releaseWaiter s w st v) :=
  (signalKept_releaseWaiter s w st v).timer
@[simp] theorem timer_serveObj (s : State) (k : Nat) : TimerKept s (serveObj s k) := (signalKept_serveObj s k).timer
@[simp] theorem timer_engDone (s : State) (g : Nat) (st : Byte) (ws : List Word) (skip : Bool) :
    TimerKept s (engDone s g st ws skip) := by
  obtain ⟨e, n, h⟩ := engDone_eq s g st ws skip
  simp [h]
@[simp] theorem timer_standAfter (s : State) (g : Nat) : TimerKept s (standAfter s g) := ⟨rfl, rfl⟩
@[simp] theorem timer_freeObj (s : State) (k : Nat) : TimerKept s (freeObj s k) := by simp [freeObj]
@[simp] theorem timer_orphanObj (s : State) (k : Nat) : TimerKept s (orphanObj s k) := by simp [orphanObj]
@[simp] theorem timer_orphanDie (s : State) (n : Nat) : TimerKept s (orphanDie s n) := by simp [orphanDie]
@[simp] theorem timer_modWb (s : State) (id : Nat) (f : Waybill → Waybill) : TimerKept s (modWb s id f) := ⟨rfl, rfl⟩
@[simp] theorem timer_dropHeld (s : State) (st : Byte) (sel : Waybill → Bool) : TimerKept s (dropHeld s st sel) := by
  simp [dropHeld]
@[simp] theorem timer_abandonRebind (s : State) (g : EngId) : TimerKept s (abandonRebind s g) := by
  unfold abandonRebind
  split <;> simp

end Sys2Proof.Proofs


/-! So do the losses of links and dies, the ends of work and of searches, the moves, and the parts of a tick. -/

namespace Sys2Proof.Proofs

open Sys2Proof.Machine Sys2Proof.Safety Sys2Proof.Laws

/-! Links that go down and dies that are lost (14 R395, R499). -/

@[simp] theorem timer_refreshFor (s : State) (n off len : Nat) : TimerKept s (refreshFor s n off len) :=
  .of_offStack (stackRead_refreshFor s n off len).rest
@[simp] theorem timer_correct (s : State) (n : Nat) (p : MctPort) (liv : Byte) (off len : Nat) :
    TimerKept s (correct s n p liv off len) := .of_offStack (stackRead_correct s n p liv off len).rest
@[simp] theorem timer_ueEvents (s : State) (n : Nat) (liv : Byte) (bs : List Nat) : TimerKept s (ueEvents s n liv bs) :=
  .of_offStack (stackRead_ueEvents s n liv bs).rest
@[simp] theorem timer_fresh (s : State) : TimerKept s (fresh s).2 := ⟨rfl, rfl⟩

@[simp] theorem timer_failDesc (s : State) (g : EngId) : TimerKept s (failDesc s g) := by
  unfold failDesc
  split <;> simp
@[simp] theorem timer_failWrite (s : State) (w : PendWrite) : TimerKept s (failWrite s w) := by
  unfold failWrite
  split <;> simp
@[simp] theorem timer_failHeldWrite (s : State) (w : HeldWrite) : TimerKept s (failHeldWrite s w) := by
  unfold failHeldWrite
  repeat' split
  all_goals simp
@[simp] theorem timer_noteEnded (s : State) (l : List Ended) : TimerKept s (noteEnded s l) := ⟨rfl, rfl⟩
@[simp] theorem timer_failMct (s : State) (l : LinkId) (n : DieId) : TimerKept s (failMct s l n) := by simp [failMct]
@[simp] theorem timer_failPieces (s : State) (l : LinkId) (i : Isl) : TimerKept s (failPieces s l i) := by simp [failPieces]
@[simp] theorem timer_failFlight (s : State) (l : LinkId) : TimerKept s (failFlight s l) := by simp [failFlight]
@[simp] theorem timer_failHeld (s : State) (l : LinkId) : TimerKept s (failHeld s l) := by simp [failHeld, dropHeldWrites]
@[simp] theorem timer_copyReach (s : State) (c : MemCopy) (len : Nat) : TimerKept s (copyReach s c len).2.2 := by
  unfold copyReach
  dsimp only
  split
  · dsimp only
    split <;> simp
  · simp
@[simp] theorem timer_failCopy (s : State) (c : MemCopy) : TimerKept s (failCopy s c) := by simp [failCopy, copyMove, dropCopy]
@[simp] theorem timer_failCopies (s : State) (l : LinkId) : TimerKept s (failCopies s l) := by simp [failCopies]
@[simp] theorem timer_setLink (s : State) (l : LinkId) (up : Bool) : TimerKept s (setLink s l up) := by
  unfold setLink
  dsimp only
  split
  · split <;> simp
  · simp
  · split <;> simp
@[simp] theorem timer_dropLink (s : State) (l : LinkId) : TimerKept s (dropLink s l) := by simp [dropLink]
@[simp] theorem timer_closeRun (s : State) (t : FwTarget) : TimerKept s (closeRun s t) := by
  unfold closeRun
  split <;> simp
@[simp] theorem timer_closeRuns (s : State) : TimerKept s (closeRuns s) := by simp [closeRuns]
@[simp] theorem timer_dropFws (s : State) (lo n : Nat) : TimerKept s (dropFws s lo n) := by simp [dropFws]
@[simp] theorem timer_resetDie (s : State) (n : DieId) : TimerKept s (resetDie s n) := by
  have h (s : State) (l : List EngId) (e : State → EngId → Engine) : TimerKept s (forAll s l (fun s g => setEng s g (e s g))) :=
    timer_forAll (fun _ _ => by simp) l s
  simp [resetDie, h]

@[simp] theorem timer_loseQueues (s : State) (n : Nat) : TimerKept s (loseQueues s n) := by simp [loseQueues]
@[simp] theorem timer_lostTable (s : State) (n : Nat) : TimerKept s (lostTable s n) := by
  unfold lostTable
  dsimp only
  repeat' split
  all_goals simp
@[simp] theorem timer_discard (s : State) (gone : List Issued) : TimerKept s (Machine.discard s gone) := by
  simp [Machine.discard]
@[simp] theorem timer_loseWork (s : State) (mine : List EngId) : TimerKept s (loseWork s mine) := by simp [loseWork]
@[simp] theorem timer_losePages (s : State) (n : Nat) : TimerKept s (losePages s n) :=
  timer_forAll (fun _ _ => by simp [modPage]) _ s
@[simp] theorem timer_requeueSets (s : State) (n : DieId) : TimerKept s (requeueSets s n) := ⟨rfl, rfl⟩
@[simp] theorem timer_loseState (s : State) (n : DieId) : TimerKept s (loseState s n) := by
  unfold loseState
  dsimp only
  split <;> simp
@[simp] theorem timer_loseDie (s : State) (n : DieId) (counted : Bool) (reaction : Nat) :
    TimerKept s (loseDie s n counted reaction) := by
  unfold loseDie
  dsimp only
  repeat' split
  all_goals simp

/-! Engines, queues and waybills at a boundary (02 R60-R62; 10 R375-R380). -/

@[simp] theorem timer_settleFor (s : State) (src : Initiator) (t : FwTarget) : TimerKept s (settleFor s src t) := by
  unfold settleFor settleRoute
  dsimp only
  repeat' split
  all_goals simp
theorem timer_fetchDesc {s : State} {g : EngId} {c : QueueCtx} {x : List Word × Bool × State}
    (h : fetchDesc s g c = some x) : TimerKept s x.2.2 := by
  unfold fetchDesc at h
  split at h
  · cases h
  · dsimp only at h
    split at h
    · rw [← Option.some.inj h]
      simp
    · cases h
@[simp] theorem timer_finishRest (g : EngId) (st : Byte) : ∀ (n : Nat) (s : State), TimerKept s (finishRest g st n s)
  | 0, _ => ⟨rfl, rfl⟩
  | k + 1, s => by
    unfold finishRest
    split
    · simp
    · dsimp only
      split
      · simp
      · split
        · simp
        · rename_i ws ok t hf
          have ht := timer_fetchDesc hf
          simp only [TimerKept, timer_syncQueue] at ht
          simp [timer_finishRest g st k, ht]
@[simp] theorem timer_closeCommands (s : State) : TimerKept s (closeCommands s) := by
  refine timer_forAll (fun t g => ?_) _ s
  dsimp only
  repeat' split
  all_goals simp
@[simp] theorem timer_discardMain (s : State) : TimerKept s (discardMain s) := by simp [discardMain]

/-! The layover (02 R60-R62). -/

@[simp] theorem timer_endWait (s : State) (g : EngId) : TimerKept s (endWait s g) := by
  unfold endWait
  dsimp only
  split
  · simp
  · split <;> simp [modObj]
@[simp] theorem timer_endWaits (s : State) : TimerKept s (endWaits s) := by simp [endWaits]
@[simp] theorem timer_putSlot (s : State) (n : Nat) (ws : List Word) : TimerKept s (putSlot s n ws) := by simp [putSlot]
@[simp] theorem timer_finishSearch (s : State) (q : Search) (o : SRun × Nat × Nat) : TimerKept s (finishSearch s q o) := by
  unfold finishSearch
  dsimp only
  split <;> simp
@[simp] theorem timer_endLate (s : State) (l : Bool) : TimerKept s (endLate s l) := by
  unfold endLate
  dsimp only
  repeat' split
  all_goals simp
@[simp] theorem timer_startMoves (s : State) : TimerKept s (startMoves s) := by
  unfold startMoves
  dsimp only
  repeat' split
  all_goals simp
@[simp] theorem timer_ringBell (s : State) (q : Nat) (tail : Word) : TimerKept s (ringBell s q tail) := by
  unfold ringBell
  dsimp only
  split <;> simp
@[simp] theorem timer_issueDesc (s : State) (work : WorkId) (q : Nat) (again : Bool) (ws : List Word) :
    TimerKept s (issueDesc s work q again ws) := by
  unfold issueDesc
  dsimp only
  split <;> simp
@[simp] theorem timer_issueCmd (s : State) (work : WorkId) (q : Nat) (again : Bool) (d : CmdDecl) (arg : Nat) :
    TimerKept s (issueCmd s work q again d arg) := by simp [issueCmd]
@[simp] theorem timer_reexecNext (s : State) (r : Reexec) (g : EngId) : TimerKept s (reexecNext s r g) := by
  unfold reexecNext
  repeat' split
  all_goals simp
@[simp] theorem timer_startSet (s : State) (r : Reexec) : TimerKept s (startSet s r) := by
  unfold startSet
  dsimp only
  split <;> simp [deferMoves]
@[simp] theorem timer_startReexec (s : State) : TimerKept s (startReexec s) := by
  refine timer_forAll (fun t r => ?_) _ s
  split <;> simp
@[simp] theorem timer_mod14 (s : State) : TimerKept s (mod14 s) := by simp [mod14]
@[simp] theorem timer_stopRound (s : State) : TimerKept s (stopRound s) := by
  unfold stopRound
  split <;> simp
@[simp] theorem timer_repairImage (s : State) (n : DieId) : TimerKept s (repairImage s n) := by
  unfold repairImage
  dsimp only
  split
  · simp
  · refine timer_forAll (fun t k => ?_) _ s
    have hg := timer_hbmGet t (succDie n) .spine 0x01 (32 * k) 32
    split
    all_goals
      rename_i h
      rw [h] at hg
      simpa using hg

/-! The switch of timetables (02 R77-R83). -/

@[simp] theorem timer_freePage (s : State) (i : Nat) : TimerKept s (freePage s i) := by
  unfold freePage
  dsimp only
  split <;> simp
@[simp] theorem timer_emptyPages (s : State) (c : Nat) : TimerKept s (emptyPages s c) := by simp [emptyPages]
@[simp] theorem timer_releasePages (s : State) : TimerKept s (releasePages s) := by simp [releasePages]
@[simp] theorem timer_endCtx (s : State) (c : CtxId) : TimerKept s (endCtx s c) := by
  unfold endCtx
  dsimp only
  split <;> simp
@[simp] theorem timer_switchHeld (s : State) : TimerKept s (switchHeld s) := by simp [switchHeld]
@[simp] theorem timer_forAll_setObj {α : Type} (k : α → Nat) (o : α → SynObj) (l : List α) (s : State) :
    TimerKept s (forAll s l (fun s x => setObj s (k x) (o x))) := timer_forAll (fun _ _ => by simp) l s
@[simp] theorem timer_startCtx (s : State) (d : CtxDecl) : TimerKept s (startCtx s d) := by
  simp [startCtx]
@[simp] theorem timer_resumeCtx (s : State) (k : Kept) (d : CtxDecl) : TimerKept s (resumeCtx s k d) := by
  have h (t : State) (e : SynObj × Nat) :
      TimerKept t (if e.2 < d.nsSize then setObj t (d.synBase + e.2) e.1 else t) := by split <;> simp
  simp [resumeCtx, timer_forAll h]
@[simp] theorem timer_switchCvus (s : State) (old new : Option Timetable) (carry : List CtxId) :
    TimerKept s (switchCvus s old new carry) := by
  refine timer_forAll (fun t k => ?_) _ s
  dsimp only
  split <;> simp
@[simp] theorem timer_loadRegion (s : State) (d : RegionDecl) : TimerKept s (loadRegion s d) := ⟨rfl, rfl⟩
@[simp] theorem timer_loadRegions (s : State) (sel : FwTarget → Bool) : TimerKept s (loadRegions s sel) := by
  unfold loadRegions
  split
  · simp
  · exact timer_forAll timer_loadRegion _ s
@[simp] theorem timer_loadOrp (s : State) (e : Edge) : TimerKept s (loadOrp s e) := by
  unfold loadOrp
  split <;> simp
@[simp] theorem timer_loadSettings (s : State) (t : Timetable) : TimerKept s (loadSettings s t) := by
  simp [loadSettings, dropRegions, setHeaps]
@[simp] theorem timer_dropTracks (s : State) : TimerKept s (dropTracks s) := ⟨rfl, rfl⟩
@[simp] theorem timer_recordActive (s : State) (t : Timetable) : TimerKept s (recordActive s t) := by
  simp [recordActive, bothIsl]
@[simp] theorem timer_seatTable (s : State) : TimerKept s (seatTable s) := ⟨rfl, rfl⟩

/-! Dies, engines, placement and work of the stage that opens (02 R70; 10 R375-R380; 14 R505-R511). -/

@[simp] theorem timer_restoreImage (s : State) (n : DieId) : TimerKept s (restoreImage s n) := by
  unfold restoreImage
  dsimp only
  repeat' split
  all_goals simp
@[simp] theorem timer_returnDie (s : State) (n : DieId) : TimerKept s (returnDie s n) := by
  unfold returnDie
  dsimp only
  split <;> split <;> simp
@[simp] theorem timer_returnDies (s : State) : TimerKept s (returnDies s) := by simp [returnDies]
@[simp] theorem timer_readmitEngine (s : State) (g : EngId) : TimerKept s (readmitEngine s g) := by
  unfold readmitEngine
  dsimp only
  repeat' split
  all_goals simp
@[simp] theorem timer_countDefer (s : State) (g : EngId) : TimerKept s (countDefer s g) := by
  unfold countDefer
  dsimp only
  split <;> simp
@[simp] theorem timer_abandonMoves (s : State) : TimerKept s (abandonMoves s) := by
  unfold abandonMoves
  dsimp only
  split <;> simp
@[simp] theorem timer_endWork (s : State) : TimerKept s (endWork s) := by simp [endWork]
@[simp] theorem timer_placeMoved (s : State) : TimerKept s (placeMoved s) := by simp [placeMoved]
@[simp] theorem timer_countRelay (s : State) : TimerKept s (countRelay s) := by
  unfold countRelay
  split <;> simp
@[simp] theorem timer_tightenRelay (s : State) : TimerKept s (tightenRelay s) := ⟨rfl, rfl⟩
@[simp] theorem timer_hbmAnswer (s : State) (n : Nat) (r : HeldRead) : TimerKept s (hbmAnswer s n r) := by
  unfold hbmAnswer
  dsimp only
  split <;> simp
@[simp] theorem timer_commitMct (s : State) (n : Nat) : TimerKept s (commitMct s n) := by
  unfold commitMct
  dsimp only
  repeat' split
  all_goals simp [settleMct]
@[simp] theorem timer_tickMpl (s : State) : TimerKept s (tickMpl s) := by
  unfold tickMpl commitMpl flushMpl
  repeat' split
  all_goals simp
@[simp] theorem timer_tickFus (s : State) : TimerKept s (tickFus s) := by
  unfold tickFus commitFus flushFus
  repeat' split
  all_goals simp
@[simp] theorem timer_commitShadows (s : State) : TimerKept s (commitShadows s) := by
  simp [commitShadows, commitPorts, bothEdge]
@[simp] theorem timer_chooseOut (s : State) : TimerKept s (chooseOut s) := by
  refine TimerKept.trans (s := s) ?_ (timer_forAll (fun t g => ?_) _ _)
  · simp
  · split <;> simp
@[simp] theorem timer_placeRings (s : State) (changed : Bool) : TimerKept s (placeRings s changed) := by
  unfold placeRings
  split
  · simp
  · refine timer_forAll (fun t e => ?_) _ s
    dsimp only
    repeat' split
    all_goals simp
@[simp] theorem timer_ownObjects (s : State) : TimerKept s (ownObjects s) := by
  unfold ownObjects
  split
  · refine timer_forAll (fun t e => ?_) _ s
    dsimp only
    repeat' split
    all_goals simp
  · simp
@[simp] theorem timer_bindOne (s : State) (g : EngId) : TimerKept s (bindOne s g) := by
  unfold bindOne
  dsimp only
  repeat' split
  all_goals simp
@[simp] theorem timer_bindAll (s : State) : TimerKept s (bindAll s) := by
  refine timer_forAll (fun t g => ?_) _ s
  split <;> simp
@[simp] theorem timer_place (s : State) : TimerKept s (place s) := by
  unfold place
  dsimp only
  split <;> simp [endRebinds]
@[simp] theorem timer_fillOne (s : State) (w : Waybill) : TimerKept s (fillOne s w) :=
  (timer_forAll (fun t e => by split <;> simp) _ s).trans (timer_modWb _ _ _)
@[simp] theorem timer_openWork (s : State) : TimerKept s (openWork s) := by
  unfold openWork
  dsimp only
  split <;> simp [fillStage]
@[simp] theorem timer_pushRep (s : State) (p : StageRep) (now : Nat) : TimerKept s (pushRep s p now) := by
  refine TimerKept.trans (s := s) ?_ (timer_forAll (fun t i => ?_) _ _)
  · simp [bothEdge]
  · split <;> simp

end Sys2Proof.Proofs


/-! What the steps of a tick write of the stage timer, and what a switch of timetables makes of the contexts (02 R63-R83). -/

namespace Sys2Proof.Proofs

open Sys2Proof.Machine Sys2Proof.Safety Sys2Proof.Laws

/-! What the steps of a tick write of the stage timer itself (02 R63-R71). -/

/-- The number of the stage stands. -/
@[simp] abbrev NumberKept (s t : State) : Prop := t.stg.stage = s.stg.stage

/-- So does where the stage is: its tick, and whether its layover or its cut-off has come. -/
@[simp] abbrev PlaceKept (s t : State) : Prop :=
  NumberKept s t ∧ t.stg.tick = s.stg.tick ∧ t.stg.inlay = s.stg.inlay ∧ t.stg.cutoffPast = s.stg.cutoffPast

theorem number_forAll {α : Type} {f : State → α → State} (hf : ∀ t x, NumberKept t (f t x)) (l : List α) (s : State) :
    NumberKept s (forAll s l f) :=
  forAll_rel NumberKept (fun _ => rfl) (fun h k => k.trans h) hf l s

theorem commitTiming_kept (s : State) : NumberKept s (commitTiming s) ∧ (commitTiming s).tt = s.tt := by
  unfold commitTiming
  repeat' split
  all_goals simp

theorem number_noteLosses (s : State) : NumberKept s (noteLosses s) := by
  have hn (t : State) (n : DieId) : NumberKept t (if t.stg.lossa = n.val || t.stg.lossb = n.val then t
      else if t.stg.lossa = 15 then setStg t (fun g => { g with lossa := n.val })
      else if t.stg.lossb = 15 then setStg t (fun g => { g with lossb := n.val })
      else t) := by
    repeat' split
    all_goals rfl
  unfold noteLosses
  dsimp only
  split
  · exact number_forAll hn _ _
  · exact number_forAll hn _ _

theorem number_withdrawEngine (s : State) (g : EngId) : NumberKept s (withdrawEngine s g) := by
  unfold withdrawEngine
  dsimp only
  repeat' split
  all_goals simp [excludeDie]

theorem number_loadProfile (s : State) : NumberKept s (loadProfile s) := by
  unfold loadProfile
  repeat' split
  all_goals rfl

theorem number_advanceRelay (s : State) : NumberKept s (advanceRelay s) := by
  unfold advanceRelay
  dsimp only
  repeat' split
  all_goals simp

/-- The opening of a stage sets its length and what is left of the offset (R63-R66). -/
theorem place_openStage (s : State) (changed : Bool) (now : Nat) : PlaceKept s (openStage s changed now) := by
  unfold openStage
  dsimp only
  repeat' split
  all_goals simp

/-! The switch of timetables (02 R77-R83). -/

/-- The switch up to the contexts of the new timetable: the old ones have given up what was theirs. -/
def switchBegun (s : State) (x : Timetable) : State :=
  let s' := forAll (switchHeld s) (ctxList.filter (fun c => !(carried s.tt.active x).contains c)) endCtx
  let s' := forAll s' (s'.qmg.queues.map (·.1)) (fun s q => setQueue s q defQueue)
  let s' := { s' with
    tt := { active := some x, ever := true }
    qmg := { s'.qmg with queues := [], ctxs := [], placeKey := (12, 15, 15, false) }
    syn := { s'.syn with objs := [], bases := [] }
    kpm := { s'.kpm with quotas := [] } }
  if s.tt.active.isNone then seatTable s' else s'

/-- A context of the new timetable: taken over, or started empty (R81). -/
def takeCtx (kept : List Kept) (s : State) (d : CtxDecl) : State :=
  match kept.find? (fun k => k.ctx == d.id) with
  | some k => resumeCtx s k d
  | none => startCtx s d

/-- The rest of the switch: what the new timetable sets beside its contexts. -/
def switchEnded (old : Option Timetable) (x : Timetable) (s : State) : State :=
  let s := switchCvus (loadSettings s x) old (some x) (carriedUnits old x)
  let s := if (carried old x).contains x.body.fusion then s else dropTracks s
  recordActive (forAll s (dieList.filter (fun n => !dieInSvc s n.val)) (fun s n => modDie s n (fun d => { d with imageOk := false }))) x

theorem switchTo_eq (s : State) (x : Timetable) : switchTo s x = switchEnded s.tt.active x
    (forAll (switchBegun s x) x.body.contexts (takeCtx ((carried s.tt.active x).map (keptOf s)))) := rfl

theorem switchBegun_timer (s : State) (x : Timetable) : (switchBegun s x).stg = s.stg ∧
    (switchBegun s x).tt = { active := some x, ever := true } := by
  unfold switchBegun
  dsimp only
  split <;> simp

theorem timer_takeCtx (kept : List Kept) (s : State) (d : CtxDecl) : TimerKept s (takeCtx kept s d) := by
  unfold takeCtx
  split <;> simp

theorem timer_switchEnded (old : Option Timetable) (x : Timetable) (s : State) : TimerKept s (switchEnded old x s) := by
  have hd (t : State) : TimerKept t (forAll t (dieList.filter (fun n => !dieInSvc t n.val))
      (fun s n => modDie s n (fun d => { d with imageOk := false }))) := timer_forAll (fun _ _ => by simp) _ t
  unfold switchEnded
  dsimp only
  split <;> simp [hd]

theorem switchTo_timer (s : State) (x : Timetable) : (switchTo s x).stg = s.stg ∧
    (switchTo s x).tt = { active := some x, ever := true } := by
  obtain ⟨hs, ht⟩ := (timer_forAll (timer_takeCtx ((carried s.tt.active x).map (keptOf s))) x.body.contexts
    (switchBegun s x)).trans (timer_switchEnded s.tt.active x _)
  obtain ⟨hbs, hbt⟩ := switchBegun_timer s x
  rw [switchTo_eq]
  exact ⟨hs.trans hbs, ht.trans hbt⟩

/-! The contexts of the new timetable exist. -/

theorem forAll_proj {α β : Type} (p : State → β) {f : State → α → State} (hf : ∀ t x, p (f t x) = p t) (l : List α)
    (s : State) : p (forAll s l f) = p s :=
  forAll_rel (fun s t => p t = p s) (fun _ => rfl) (fun h k => k.trans h) hf l s

theorem ctxs_setQueues {α : Type} (q : α → Nat) (c : State → α → QueueCtx) (l : List α) (s : State) :
    (forAll s l (fun s x => setQueue s (q x) (c s x))).qmg.ctxs = s.qmg.ctxs :=
  forAll_proj (fun s => s.qmg.ctxs) (fun t x => by
    exact (congrArg (fun s => s.qmg.ctxs) (offTable_setQueue t (q x) (c t x)) :)) l s

theorem startCtx_ctxs (s : State) (d : CtxDecl) : (startCtx s d).qmg.ctxs = bankSet {} s.qmg.ctxs d.id (declCtx d) := by
  refine (forAll_proj (fun s => s.qmg.ctxs) (fun t o => ?_) d.objs _).trans ?_
  · rfl
  · exact ctxs_setQueues (fun i => d.qbase + i) (fun _ _ => declQueue d.id) _ _

theorem resumeCtx_ctxs (s : State) (k : Kept) (d : CtxDecl) : (resumeCtx s k d).qmg.ctxs =
    bankSet {} s.qmg.ctxs d.id { declCtx d with pre := k.pre, ppend := k.ppend } := by
  refine (forAll_proj (fun s => s.qmg.ctxs) (fun t o => ?_) (d.objs.filter (fun o => k.objs.length ≤ o.id)) _).trans
    ((forAll_proj (fun s => s.qmg.ctxs) (fun t e => ?_) k.objs.zipIdx _).trans ?_)
  · rfl
  · split <;> rfl
  · exact ctxs_setQueues (fun i => d.qbase + i) (fun _ i => ((k.queues)[i]?).getD { declQueue d.id with held := k.pre }) _ _

theorem takeCtx_ctxs (kept : List Kept) (s : State) (d : CtxDecl) : ∃ r : CtxRec, r.exists_ = true ∧
    (takeCtx kept s d).qmg.ctxs = bankSet {} s.qmg.ctxs d.id r := by
  unfold takeCtx
  split
  · exact ⟨_, rfl, resumeCtx_ctxs s _ d⟩
  · exact ⟨_, rfl, startCtx_ctxs s d⟩

/-- A context that exists still does when another is taken over or started; the one itself does then. -/
theorem takeCtx_exists (kept : List Kept) (s : State) (d : CtxDecl) (c : Nat) (h : c = d.id.val ∨ (ctxRec s c).exists_ = true) :
    (ctxRec (takeCtx kept s d) c).exists_ = true := by
  obtain ⟨r, hr, hc⟩ := takeCtx_ctxs kept s d
  rw [ctxRec, hc]
  by_cases hd : c = d.id.val
  · rw [hd, bankGet_bankSet_self, hr]
  · rw [bankGet_bankSet_ne _ _ _ hd]
    exact h.resolve_left hd

theorem takeCtxs_exist (kept : List Kept) : ∀ (l : List CtxDecl) (s : State) (c : Nat),
    ((∃ d ∈ l, c = d.id.val) ∨ (ctxRec s c).exists_ = true) → (ctxRec (forAll s l (takeCtx kept)) c).exists_ = true
  | [], _, _, h => h.resolve_left (by simp)
  | d :: l, s, c, h => by
    refine takeCtxs_exist kept l (takeCtx kept s d) c ?_
    rcases h with ⟨e, he, hc⟩ | h
    · rcases List.mem_cons.1 he with rfl | he
      · exact .inr (takeCtx_exists kept s e c (.inl hc))
      · exact .inl ⟨e, he, hc⟩
    · exact .inr (takeCtx_exists kept s d c (.inr h))

theorem qmg_switchCvus (s : State) (old new : Option Timetable) (carry : List CtxId) :
    (switchCvus s old new carry).qmg = s.qmg :=
  forAll_proj State.qmg (fun t k => by dsimp only; split <;> rfl) _ s

theorem qmg_loadOrp (s : State) (e : Edge) : (loadOrp s e).qmg = s.qmg := by
  unfold loadOrp
  split <;> simp

theorem qmg_loadRegions (s : State) (sel : FwTarget → Bool) : (loadRegions s sel).qmg = s.qmg := by
  unfold loadRegions
  split
  · rfl
  · exact forAll_proj State.qmg (fun _ _ => by rfl) _ s

theorem qmg_switchEnded (old : Option Timetable) (x : Timetable) (s : State) : (switchEnded old x s).qmg = s.qmg := by
  have hl : (loadSettings s x).qmg = s.qmg := by
    unfold loadSettings
    rw [qmg_loadOrp, qmg_loadOrp, qmg_loadRegions]
    rfl
  have hd (t : State) : (forAll t (dieList.filter (fun n => !dieInSvc t n.val))
      (fun s n => modDie s n (fun d => { d with imageOk := false }))).qmg = t.qmg := forAll_proj State.qmg (fun _ _ => by rfl) _ t
  unfold switchEnded recordActive bothIsl
  dsimp only
  rw [modIsl_qmg, modIsl_qmg, hd]
  split
  · rw [qmg_switchCvus, hl]
  · exact (qmg_switchCvus _ _ _ _).trans hl

theorem switchTo_exists (s : State) (x : Timetable) {d : CtxDecl} (hd : d ∈ x.body.contexts) :
    ctxExists (switchTo s x) d.id = true := by
  have h := takeCtxs_exist ((carried s.tt.active x).map (keptOf s)) x.body.contexts (switchBegun s x) d.id (.inl ⟨d, hd, rfl⟩)
  rw [switchTo_eq, ctxExists, ctxRec, qmg_switchEnded]
  exact Bool.or_eq_true_iff.2 (.inr h)

end Sys2Proof.Proofs


/-! The stage boundary: the tick, the layover start, the replicas, 802.1AS (02 R43-R47, R60, R67, R607). -/

namespace Sys2Proof.Proofs

open Sys2Proof.Machine Sys2Proof.Safety Sys2Proof.Laws

/-! The tick of a stage (02 R43-R47). -/

theorem nextStage_congr {s t : State} (hs : NumberKept s t) (ht : t.tt = s.tt) : nextStage t = nextStage s := by
  have hs : t.stg.stage = s.stg.stage := hs
  rw [nextStage, nextStage, hs, ht]

theorem number_backIn (s : State) : NumberKept s (noteLosses (returnDies (forAll s engList readmitEngine))) := by
  rw [NumberKept, number_noteLosses, (timer_returnDies _).1]
  simp

theorem number_takenOut (s : State) : NumberKept s (noteLosses (forAll s engList withdrawEngine)) :=
  (number_noteLosses _).trans (number_forAll number_withdrawEngine engList s)

theorem number_profiled (s : State) (prof : Bool) : NumberKept s (if prof then loadProfile s else s) := by
  split
  · exact number_loadProfile s
  · rfl

theorem number_units (s : State) : NumberKept s (commitShadows (tightenRelay (advanceRelay s))) := by
  rw [NumberKept, (timer_commitShadows _).1, (timer_tightenRelay _).1, number_advanceRelay]

/-- STAGE_TICK opens the stage that comes, with its tick as the last thing that leaves the device. -/
theorem stageTick_opens (s : State) (now : Nat) : (stageTick s now).stg.stage = nextStage s ∧ (stageTick s now).stg.tick = now ∧
    (stageTick s now).stg.inlay = false ∧ (stageTick s now).stg.cutoffPast = false ∧
    ∃ p l c o, (stageTick s now).out = .replica p l c (nextStage s) :: o := by
  unfold stageTick
  extract_lets s0 ended was set num prof switched numbered back left profiled relayed units timed opened placed free gated work
    last p
  have he : TimerKept s ended := by simp [ended, s0]
  clear_value ended
  have hset : NumberKept ended set ∧ set.tt = ended.tt := commitTiming_kept ended
  clear_value set
  have hn : num = nextStage s := nextStage_congr (hset.1.trans (congrArg Stg.stage he.1)) (hset.2.trans he.2)
  have hnum : numbered.stg.stage = num := rfl
  clear_value num numbered
  have hback : NumberKept numbered back := by unfold back; exact number_backIn numbered
  have hleft : NumberKept back left := by unfold left; exact number_takenOut back
  have hprof : NumberKept left profiled := by unfold profiled; exact number_profiled left prof
  have hunits : NumberKept profiled units := by unfold units relayed; exact number_units profiled
  clear_value back left profiled units
  have htimed : timed.stg.stage = units.stg.stage ∧ timed.stg.tick = now ∧ timed.stg.inlay = false ∧
      timed.stg.cutoffPast = false := ⟨rfl, rfl, rfl, rfl⟩
  have hopen : PlaceKept timed opened := place_openStage timed _ now
  clear_value timed opened
  have hwork : TimerKept opened work := by simp [work, gated, free, placed]
  clear_value work
  have hlast : TimerKept work last := by
    unfold last
    split <;> simp
  clear_value last
  have hs : last.stg.stage = nextStage s := by
    rw [hlast.1, hwork.1, hopen.1, htimed.1, hunits, hprof, hleft, hback, hnum, hn]
  obtain ⟨-, ht, hi, hc⟩ := hopen
  obtain ⟨-, ht', hi', hc'⟩ := htimed
  have hg : last.stg = opened.stg := hlast.1.trans hwork.1
  have hp : (emit (pushRep last p now) (.replica p.period p.layover p.cutoff p.stage)).stg = last.stg :=
    (timer_pushRep last p now).1
  rw [hp, hs]
  exact ⟨rfl, by rw [hg, ht, ht'], by rw [hg, hi, hi'], by rw [hg, hc, hc'], _, _, _, _, congrArg (Emit.replica _ _ _ · :: _) hs⟩

/-! The layover (R60). -/

theorem noteOverrun_kept (s : State) (was : Bool) : NumberKept s (noteOverrun s was) := by
  unfold noteOverrun
  split <;> simp

theorem layoverStart_reads (s : State) : (layoverStart s).stg.inlay = true ∧ (layoverStart s).mpl.gateOpen = true ∧
    NumberKept s (layoverStart s) := by
  refine ⟨by simp [layoverStart], rfl, ?_⟩
  have h (t : State) : NumberKept t (setStg t (fun g => { g with inlay := true })) := rfl
  simp [layoverStart, noteOverrun_kept]

/-! Replicas (R46, R47). -/

/-- What the stage's output leaves of the edges and of the stage timer: the edge that sends changes its alive value and its
count. -/
structure OutputKept (e : Edge) (s t : State) : Prop where
  own   : ∃ a c, edge t e = { edge s e with alive := a, txcnt := c }
  other : edge t (otherEdge e) = edge s (otherEdge e)
  stg   : t.stg = s.stg

theorem OutputKept.refl (e : Edge) (s : State) : OutputKept e s s := ⟨⟨_, _, rfl⟩, rfl, rfl⟩

theorem outputKept_transmit (s : State) (e : Edge) (o : Output) (a b imm : Bool) (stage : Nat) :
    OutputKept e s (transmit s e o a b imm stage) := by
  unfold transmit
  dsimp only
  split
  · have hk (u : Emit) (f : Edge) : edge (emit s u) f = edge s f := by cases f <;> rfl
    refine ⟨⟨_, _, (edge_modEdge_self ..).trans (by rw [hk])⟩, (edge_modEdge_other ..).trans (hk ..), setEdge_stg ..⟩
  · exact .refl e s

theorem noteOutput_kept (s : State) (stage : Nat) (shoe : Bool) :
    (∀ e, edge (noteOutput s stage shoe) e = edge s e) ∧ (noteOutput s stage shoe).stg = s.stg := by
  have h (t : State) (c : Bool) (x : Hpt) : (∀ e, edge (if c then setHpt t x else t) e = edge t e) ∧
      (if c then setHpt t x else t).stg = t.stg := by
    cases c <;> exact ⟨fun e => by cases e <;> simp [edge], by simp⟩
  have hd (f : Dis → Dis) (e : Edge) : edge (setDis s f) e = edge s e := by cases e <;> rfl
  exact ⟨fun e => ((h ..).1 e).trans (hd ..), (h ..).2⟩

theorem outputKept_stageOutput (s : State) (e : Edge) : OutputKept e s (stageOutput s e) := by
  unfold stageOutput
  dsimp only
  split
  · exact .refl e s
  · split
    · exact .refl e s
    next o _ =>
      obtain ⟨hown, hother, hstg⟩ := outputKept_transmit s e o (edge s e).setA (edge s e).setB false (edge s e).rep.stage
      obtain ⟨hedge, hn⟩ := noteOutput_kept (transmit s e o (edge s e).setA (edge s e).setB false (edge s e).rep.stage)
        (edge s e).rep.stage (decide (o.source ≠ 0))
      exact ⟨by rwa [hedge], by rwa [hedge], by rwa [hn]⟩

/-- The tick of a ring edge's replica, the stage's output sent. -/
theorem replicaTick_edge {s : State} {e : Edge} {now : Nat} (h : (edge s e).inReset = false) :
    ∃ t, exec (.replicaTick (.edge e) now) s = .next t ∧ (edge t e).rep = nextRep (edge s e).rep (edge s e).push ∧
      (edge t e).push = none ∧ (edge t e).cutoff = false ∧ (edge t e).relA = none ∧ (edge t e).relB = none ∧
      edge t (otherEdge e) = edge s (otherEdge e) ∧ t.stg = s.stg := by
  obtain ⟨⟨a, c, hown⟩, hother, hstg⟩ := outputKept_stageOutput { s with vtime := max s.vtime now } e
  have hv (f : Edge) : edge { s with vtime := max s.vtime now } f = edge s f := by cases f <;> rfl
  refine ⟨_, congrArg Host.Outcome.next (if_neg (by simp [h])), ?_⟩
  rw [edge_modEdge_self, edge_modEdge_other, hown, hother, hv, hv]
  exact ⟨rfl, rfl, rfl, rfl, rfl, rfl, (setEdge_stg ..).trans hstg⟩

@[simp] theorem islTake_rep (x : Island) (e : Entry) : (islTake x e).rep = x.rep := by unfold islTake; split <;> rfl
@[simp] theorem islTake_push (x : Island) (e : Entry) : (islTake x e).push = x.push := by unfold islTake; split <;> rfl

/-- The replica of an island is left with what was pushed to it. -/
@[simp] abbrev ReplicaKept (i : Isl) (s t : State) : Prop :=
  (isl t i).rep = (isl s i).rep ∧ (isl t i).push = (isl s i).push

theorem replica_logF (i : Isl) (s : State) (f : Fact) : ReplicaKept i s (logF s f) := by
  obtain ⟨e, he, -⟩ := isl_logF s f i
  simp [he]

theorem replica_closeRun (i : Isl) (s : State) (t : FwTarget) : ReplicaKept i s (closeRun s t) := by
  unfold closeRun
  split
  · exact ⟨rfl, rfl⟩
  · have hf (f : Firewall → Firewall) : isl (modFwl s t f) i = isl s i := by cases i <;> rfl
    have h := replica_logF i (modFwl s t (fun f => { f with run := none }))
    simp only [ReplicaKept, hf] at h
    exact h _

theorem replica_closeRuns (i : Isl) (s : State) : ReplicaKept i s (closeRuns s) :=
  forAll_rel (ReplicaKept i) (fun _ => ⟨rfl, rfl⟩) (fun h k => ⟨k.1.trans h.1, k.2.trans h.2⟩) (replica_closeRun i) _ s

/-- The tick of an island's replica. -/
theorem replicaTick_island {s : State} {i : Isl} {now : Nat} (h : (isl s i).inReset = false) :
    ∃ t, exec (.replicaTick (.island i) now) s = .next t ∧ (isl t i).rep = nextRep (isl s i).rep (isl s i).push ∧
      (isl t i).report = none ∧ (isl t i).cutoff = false ∧ (iodReady s = true → isl t (otherIsl i) = isl s (otherIsl i)) ∧
      t.stg = s.stg := by
  refine ⟨_, congrArg Host.Outcome.next (if_neg (by simp [h])), ?_⟩
  have hv (u : State) (j : Isl) : isl { u with vtime := max u.vtime now } j = isl u j := by cases j <;> rfl
  rw [isl_modIsl_self, isl_modIsl_other, hv, hv, modIsl_stg]
  obtain ⟨hrep, hpush⟩ : ReplicaKept i s (if iodReady s then s else closeRuns s) := by
    split
    · exact ⟨rfl, rfl⟩
    · exact replica_closeRuns i s
  refine ⟨?_, rfl, rfl, fun hr => by rw [if_pos hr], ?_⟩
  · show nextRep _ _ = _
    rw [hrep, hpush]
  · show (if iodReady s then s else closeRuns s).stg = s.stg
    split
    · rfl
    · exact (timer_closeRuns s).1

/-! 802.1AS (R67, R607). -/

theorem clampI_bounds {lo hi : Int} (h : lo ≤ hi) (v : Int) : lo ≤ clampI lo hi v ∧ clampI lo hi v ≤ hi ∧
    (lo ≤ v → v ≤ hi → clampI lo hi v = v) := by
  unfold clampI
  split
  · omega
  · split <;> omega

theorem asSyncLost_reads {s : State} (h : s.iod.inReset = false) : ∃ t, exec .asSyncLost s = .next t ∧
    t.stg = { s.stg with sync := false, hold := true } ∧ (∀ e, edge t e = { edge s e with sync := false }) ∧ t.dies = s.dies := by
  refine ⟨_, congrArg Host.Outcome.next (if_neg ?_), rfl, fun e => ?_, rfl⟩
  · exact Bool.eq_false_iff.1 h
  · cases e <;> rfl

theorem asSyncRegained_reads {s : State} (off : Int) (h : s.iod.inReset = false) : ∃ t, exec (.asSyncRegained off) s = .next t ∧
    t.stg.sync = true ∧ t.stg.hold = false ∧ -2147483647 ≤ t.stg.offset ∧ t.stg.offset ≤ 2147483647 ∧
    (-2147483647 ≤ off → off ≤ 2147483647 → t.stg.offset = off) ∧ t.stg.stage = s.stg.stage ∧
    (edge t s.stg.asPort).sync = true := by
  have hs (f : RingEdge → RingEdge) : (modEdge s s.stg.asPort f).stg.stage = s.stg.stage := congrArg Stg.stage (setEdge_stg ..)
  obtain ⟨hlo, hhi, heq⟩ := clampI_bounds (lo := -2147483647) (hi := 2147483647) (by decide) off
  refine ⟨_, congrArg Host.Outcome.next (if_neg (by simp [h])), rfl, rfl, hlo, hhi, heq, hs _, ?_⟩
  exact congrArg RingEdge.sync (edge_modEdge_self s s.stg.asPort _)

/-- Settles O15: each clause from the lemma of its event; the ports of 802.1AS by their definitions. -/
theorem stageBoundary : Obligations.StageBoundary := by
  refine ⟨fun s now h => ⟨_, congrArg Host.Outcome.next (if_pos h), stageTick_opens s now⟩, fun s x hr hd hx => ?_,
    fun s e now h => ?_, fun s i now h => ?_, fun s hr hl => ?_, fun s h => asSyncLost_reads h,
    fun s off h => asSyncRegained_reads off h, fun s => ⟨_, rfl, rfl, rfl, rfl⟩, fun s => ⟨_, rfl, rfl, rfl, rfl⟩⟩
  · obtain ⟨hstg, htt⟩ := switchTo_timer s x
    have ht : ttSwitch s = switchTo s x := by simp [ttSwitch, hd, hx]
    exact ⟨switchTo s x, congrArg Host.Outcome.next ((if_pos hr).trans ht), htt, hstg, fun d hm _ => switchTo_exists s x hm⟩
  · exact replicaTick_edge h
  · exact replicaTick_island h
  · obtain ⟨hin, hgate, hnum⟩ := layoverStart_reads s
    exact ⟨_, congrArg Host.Outcome.next (if_pos (by simp [hr, hl])), hin, hgate, hnum⟩

end Sys2Proof.Proofs


/-! The range of an admitted timing (02 R48-R50). -/

namespace Sys2Proof.Proofs

open Sys2Proof.Machine Sys2Proof.Safety Sys2Proof.Laws

/-- A timing in range, as an order of numbers (R48-R50). -/
theorem timingOk_iff (w : Word) : timingOk w = true ↔
    20 ≤ timP w ∧ timP w ≤ 200 ∧ 2 ≤ timL w ∧ timL w ≤ 20 ∧ 2 * timL w ≤ timP w ∧ 5 ≤ timC w ∧ timC w ≤ 50 ∧
    20 * timC w ≤ 500 * timL w := by
  simp only [timingOk, Bool.and_eq_true, decide_eq_true_eq, and_assoc]

theorem timingOk_of_timingAdmitted {s : State} {w : Word} (h : timingAdmitted s w = true) : timingOk w = true := by
  unfold timingAdmitted at h
  rw [Bool.and_assoc, Bool.and_eq_true] at h
  exact h.1

/-- Settles O14: what is admitted is in range, whatever the timetables ask besides; the reset values are read off. -/
theorem admittedTimingInRange : Obligations.AdmittedTimingInRange :=
  ⟨fun _ w h => (timingOk_iff w).1 (timingOk_of_timingAdmitted h), by decide⟩

end Sys2Proof.Proofs


/-! The staging of a timetable (02 Tables 2-4, 2-5). -/

namespace Sys2Proof.Proofs

open Sys2Proof.Machine Sys2Proof.Safety Sys2Proof.Laws

theorem setTt_setWaiting (s : State) (p : Port) (l : List Pkt) (f : Tt → Tt) :
    setTt (setWaiting s p l) f = setWaiting (setTt s f) p l := by
  rcases p with _ | _ | _ <;> rfl

/-- TT_OPEN starts the loading of an image that the staging region holds. -/
theorem ttOpen_answers {s : State} {k : Pkt} {n : DieId} {base size : Nat} (h : Ready s .host 1 2 3 k) (hlen : parN k 2 ≠ 0)
    (ha : s.tt.st ≠ .armed) (hv : s.tt.st ≠ .verifying) (hp : loadPlace s = some (n, base, size)) (hfit : parN k 2 ≤ size) :
    exec (.ttOpen .host) s = .next (answered .host k stOk [] (setTt (took s .host k) (fun t => { t with
      st := .loading, verErr := 0, ident := par64 k 0, len := parN k 2, staged := none, target := 0, ticksLeft := none }))) := by
  rw [took_alone h.alone, setTt_setWaiting]
  refine onPort_answers h (ofRow_ready h rfl rfl rfl) (by simp [rowTtOpen, opDef, fixedRow, h.len]) rfl (fun l => ?_)
  have hw : loadPlace (setWaiting s .host l) = some (n, base, size) := hp
  simp only [rowTtOpen, opDef, setWaiting_tt, hw]
  rw [if_neg hlen, if_neg (by omega), if_neg (by simp [ha, hv]), setTt_setWaiting]

/-- TT_VERIFY hands the image over to verification. -/
theorem ttVerify_answers {s : State} {k : Pkt} (h : Ready s .host 1 4 0 k) (hl : s.tt.st = .loading) :
    exec (.ttVerify .host) s = .next (answered .host k stOk [] (setTt (took s .host k) (fun t => { t with st := .verifying }))) := by
  rw [took_alone h.alone, setTt_setWaiting]
  refine onPort_answers h (ofRow_ready h rfl rfl rfl) (by simp [rowTtVerify, opDef, fixedRow, h.len]) rfl (fun l => ?_)
  simp only [rowTtVerify, opDef, setWaiting_tt, hl, if_true, setTt_setWaiting]

/-- TT_ARM names a stage far enough ahead, the first one counted in ticks (R77, R549). -/
theorem ttArm_answers {s : State} {k : Pkt} (h : Ready s .host 1 5 2 k) (hv : s.tt.st = .verified)
    (ht : if s.tt.ever then s.stg.stage + 2 ≤ par64 k 0 else 2 ≤ par64 k 0 ∧ s.stg.sync = true) :
    exec (.ttArm .host) s = .next (answered .host k stOk [] (setTt (took s .host k) (fun x => { x with
      st := .armed, target := par64 k 0, ticksLeft := if s.tt.ever then none else some (par64 k 0) }))) := by
  rw [took_alone h.alone, setTt_setWaiting]
  refine onPort_answers h (ofRow_ready h rfl rfl rfl) (by simp [rowTtArm, opDef, fixedRow, h.len]) rfl (fun l => ?_)
  have hfar : ¬ par64 k 0 < (if s.tt.ever then s.stg.stage + 2 else 2) := by
    split at ht
    · next he => simp only [he, if_true]; omega
    · next he => simp only [he, Bool.false_eq_true, if_false]; omega
  have hsync : (!s.tt.ever && !s.stg.sync) = false := by
    split at ht <;> simp_all
  simp only [rowTtArm, opDef, setWaiting_tt, setWaiting_stg, hv, hsync, setTt_setWaiting]
  rw [if_neg hfar, if_neg (by simp)]

/-- TT_CANCEL empties the staging of a verified timetable. -/
theorem ttCancel_answers {s : State} {k : Pkt} (h : Ready s .host 1 6 0 k) (hv : s.tt.st = .verified) :
    exec (.ttCancel .host) s = .next (answered .host k stOk [] (setTt (took s .host k) (fun t => { t with
      st := .empty, verErr := 0, ident := 0, len := 0, target := 0, staged := none }))) := by
  rw [took_alone h.alone, setTt_setWaiting]
  refine onPort_answers h (ofRow_ready h rfl rfl rfl) (by simp [rowTtCancel, opDef, fixedRow, h.len]) rfl (fun l => ?_)
  simp only [rowTtCancel, opDef, setWaiting_tt, hv, setTt_setWaiting]

/-- TT_STATUS reports the staging (R644). -/
theorem ttStatus_answers {s : State} {k : Pkt} (h : Ready s .host 1 7 0 k) : exec (.ttStatus .host) s =
    .next (answered .host k stOk ([toW (ttCode s.tt.st), toW s.tt.verErr] ++ two s.tt.ident ++ two s.tt.target)
      (took s .host k)) := by
  rw [took_alone h.alone]
  exact onPort_answers h (ofRow_ready h rfl rfl rfl) (by simp [rowTtStatus, opDef, fixedRow, h.len]) rfl (fun _ => rfl)

/-- The result of a verification: recorded in the staging, and raised as HPT_ALERT.ttv (R88). -/
def verified (s : State) (f : Tt → Tt) : State := setHpt (setTt s f) { s.hpt with aTtv := true }

theorem verified_reads (s : State) (f : Tt → Tt) : (verified s f).hpt.aTtv = true ∧ (verified s f).tt = f s.tt ∧
    (verified s f).stg = s.stg := by
  simp [verified, setTt]

/-- What a verification makes of the staging, by its first error (R88). -/
def verifiedTt (s : State) (img : List Byte) (c : TtContents) (copyFault : Bool) : Tt → Tt :=
  if verifyError s img c copyFault = 0 then fun t => { t with
    st := .verified, verErr := 0
    staged := some { figs := imageFigs img, body := c, image := imagePlaces s, sha := sha512 img } }
  else fun t => { t with st := .loading, verErr := verifyError s img c copyFault }

theorem verifiedTt_reads (s : State) (img : List Byte) (c : TtContents) (copyFault : Bool) (t : Tt) :
    (verifiedTt s img c copyFault t).verErr = verifyError s img c copyFault ∧
    (verifiedTt s img c copyFault t).st = (if verifyError s img c copyFault = 0 then .verified else .loading) ∧
    (verifiedTt s img c copyFault t).active = t.active := by
  unfold verifiedTt
  split
  · next h0 => exact ⟨h0.symm, rfl, rfl⟩
  · exact ⟨rfl, rfl, rfl⟩

theorem timer_copyImage (s : State) (src : DieId) (img : List Byte) : TimerKept s (copyImage s src img) := by
  unfold copyImage
  refine timer_forAll (fun t n => ?_) _ s
  split <;> simp

/-- TT_VERIFY_END of an image that could be read: what is staged by its first error, and the alert. -/
theorem ttVerifyEnd_eq {s : State} {c : TtContents} {copyFault : Bool} {n : DieId} {base size : Nat} {img : List Byte}
    (hv : s.tt.st = .verifying) (hp : loadPlace s = some (n, base, size))
    (hg : (hbmGet s n .spine 0x01 base s.tt.len).1 = some img) :
    exec (.ttVerifyEnd c copyFault) s = .next (verified (copyImage (hbmGet s n .spine 0x01 base s.tt.len).2 n img)
      (verifiedTt s img c copyFault)) := by
  show Host.Outcome.next _ = _
  rcases hr : hbmGet s n .spine 0x01 base s.tt.len with ⟨o, t⟩
  obtain rfl : o = some img := by rw [← hg, hr]
  simp only [hv, hp, hr, ne_eq, not_true_eq_false, if_false, verified, verifiedTt]
  split <;> rfl

theorem ttVerifyEnd_reads {s : State} {c : TtContents} {copyFault : Bool} {n : DieId} {base size : Nat} {img : List Byte}
    (hv : s.tt.st = .verifying) (hp : loadPlace s = some (n, base, size))
    (hg : (hbmGet s n .spine 0x01 base s.tt.len).1 = some img) :
    ∃ t, exec (.ttVerifyEnd c copyFault) s = .next t ∧ t.hpt.aTtv = true ∧ t.tt.verErr = verifyError s img c copyFault ∧
      t.tt.st = (if verifyError s img c copyFault = 0 then .verified else .loading) ∧ t.tt.active = s.tt.active ∧
      t.stg = s.stg := by
  refine ⟨_, ttVerifyEnd_eq hv hp hg, ?_⟩
  obtain ⟨hstg, htt⟩ := (timer_hbmGet s n .spine 0x01 base s.tt.len).trans (timer_copyImage _ n img)
  obtain ⟨ha, ht, hs⟩ := verified_reads (copyImage (hbmGet s n .spine 0x01 base s.tt.len).2 n img)
    (verifiedTt s img c copyFault)
  obtain ⟨hve, hvs, hva⟩ := verifiedTt_reads s img c copyFault s.tt
  rw [ha, ht, hs, hstg, htt]
  exact ⟨rfl, hve, hvs, hva, rfl⟩

/-- Settles O12: each row and the end of verification from its own lemma. -/
theorem timetableStaging : Obligations.TimetableStaging :=
  ⟨fun _ _ _ _ _ h hlen ha hv hp hfit => ttOpen_answers h hlen ha hv hp hfit, fun _ _ h hl => ttVerify_answers h hl,
    fun _ _ _ _ _ _ _ hv hp hg => ttVerifyEnd_reads hv hp hg, fun _ _ h hv ht => ttArm_answers h hv ht,
    fun _ _ h hv => ttCancel_answers h hv, fun _ _ h => ttStatus_answers h⟩

end Sys2Proof.Proofs


/-! Queue contexts at the stacks, read for a packet (10 R368-R371). -/

namespace Sys2Proof.Proofs

open Sys2Proof.Machine Sys2Proof.Safety Sys2Proof.Laws

/-! The queue contexts at the stacks (10 R368-R371): the same work whatever waits at a port. -/

@[simp] theorem ueEvents_setWaiting (s : State) (p : Port) (l : List Pkt) (n : Nat) (liv : Byte) (bs : List Nat) :
    ueEvents (setWaiting s p l) n liv bs = setWaiting (ueEvents s n liv bs) p l :=
  forAll_setWaiting p l _ (fun s b => ueEvent_setWaiting s p l n b liv false) bs s

@[simp] theorem correct_setWaiting (s : State) (p : Port) (l : List Pkt) (n : Nat) (q : MctPort) (liv : Byte) (off len : Nat) :
    correct (setWaiting s p l) n q liv off len = setWaiting (correct s n q liv off len) p l := by
  unfold correct
  rw [mct_setWaiting, forAll_setWaiting p l _ (fun s b => ceEvent_setWaiting s p l n b)]

@[simp] theorem hbmView_setWaiting (s : State) (p : Port) (l : List Pkt) (n : Nat) (q : MctPort) (liv : Byte) :
    hbmView (setWaiting s p l) n q liv = hbmView s n q liv := by
  simp only [hbmView, die_setWaiting, setWaiting_free]

/-- A read by an agent of the device delivers the same whatever waits at a port. -/
theorem hbmGet_setWaiting (s : State) (p : Port) (l : List Pkt) (n : Nat) (q : MctPort) (liv : Byte) (off len : Nat) :
    hbmGet (setWaiting s p l) n q liv off len =
      ((hbmGet s n q liv off len).1, setWaiting (hbmGet s n q liv off len).2 p l) := by
  simp only [hbmGet, refreshFor_setWaiting, correct_setWaiting, mct_setWaiting, hbmView_setWaiting, fresh_setWaiting,
    ueEvents_setWaiting]
  generalize correct (refreshFor s n off len) n q liv off len = t
  rcases foundFor (mct t n) q liv .ue off len with _ | ⟨b, bs⟩
  · dsimp only
    rw [apply_ite (setWaiting · p l)]
  · rfl

@[simp] theorem setWaiting_qmg (s : State) (p : Port) (l : List Pkt) : (setWaiting s p l).qmg = s.qmg := by
  rcases p with _ | _ | _ <;> rfl

@[simp] theorem setWaiting_dis (s : State) (p : Port) (l : List Pkt) : (setWaiting s p l).dis = s.dis := by
  rcases p with _ | _ | _ <;> rfl

@[simp] theorem queue_setWaiting (s : State) (p : Port) (l : List Pkt) (q : Nat) : queue (setWaiting s p l) q = queue s q := by
  simp [queue]

@[simp] theorem tableBase_setWaiting (s : State) (p : Port) (l : List Pkt) (n : Nat) :
    tableBase (setWaiting s p l) n = tableBase s n := by
  simp [tableBase]

@[simp] theorem putCopy_setWaiting (s : State) (p : Port) (l : List Pkt) (n q : Nat) (bs : List Byte) :
    putCopy (setWaiting s p l) n q bs = setWaiting (putCopy s n q bs) p l := by
  simp only [putCopy, tableBase_setWaiting, mct_setWaiting, hbmSet, hbmPut_setWaiting]
  split
  · split <;> rfl
  · rfl

@[simp] theorem setQueue_setWaiting (s : State) (p : Port) (l : List Pkt) (q : Nat) (c : QueueCtx) :
    setQueue (setWaiting s p l) q c = setWaiting (setQueue s q c) p l := by
  have hq : ({ setWaiting s p l with qmg := { s.qmg with queues := bankSet defQueue s.qmg.queues q c } } : State) =
      setWaiting { s with qmg := { s.qmg with queues := bankSet defQueue s.qmg.queues q c } } p l := by
    rcases p with _ | _ | _ <;> rfl
  simp only [setQueue, setWaiting_qmg, hq, putCopy_setWaiting]

@[simp] theorem readCopy_setWaiting (s : State) (p : Port) (l : List Pkt) (n q : Nat) :
    readCopy (setWaiting s p l) n q = ((readCopy s n q).1, setWaiting (readCopy s n q).2 p l) := by
  simp only [readCopy, tableBase_setWaiting, mct_setWaiting, hbmGet_setWaiting]
  split
  · rfl
  · split <;> rfl

/-- So is the reading of a queue context. -/
theorem syncQueue_setWaiting (s : State) (p : Port) (l : List Pkt) (q : Nat) :
    syncQueue (setWaiting s p l) q = setWaiting (syncQueue s q) p l := by
  have hl (c : Nat) : ctxLivery (setWaiting s p l) c = ctxLivery s c := by simp [ctxLivery, ctxRec]
  simp only [syncQueue, setWaiting_tt, queue_setWaiting, setWaiting_qmg, readCopy_setWaiting, setQueue_setWaiting,
    logF_setWaiting, hl]
  split
  · rfl
  · split
    · split <;> rfl
    · rfl
    · rfl
    · rfl

/-! What it leaves of the engines while no write waits at a stack. -/

/-- While no write waits at a stack, none does after, and no engine has gone on. -/
def IdleKept (s t : State) : Prop :=
  (∀ n : DieId, (mct s n).writes = []) → (∀ n : DieId, (mct t n).writes = []) ∧ t.engines = s.engines

theorem IdleKept.refl (s : State) : IdleKept s s := fun h => ⟨h, rfl⟩

theorem IdleKept.trans {s t u : State} (h : IdleKept s t) (k : IdleKept t u) : IdleKept s u := fun hs =>
  have ht := h hs
  have hu := k ht.1
  ⟨hu.1, hu.2.trans ht.2⟩

theorem StackRead.idle {n : Nat} {s t : State} (h : StackRead n s t) : IdleKept s t := by
  refine fun hs => ⟨fun m => ?_, h.engines⟩
  by_cases hm : m.val = n
  · subst hm
    rw [h.writes, hs]
  · rw [mct, h.others m hm]
    exact hs m

/-- What a write that reaches the stack leaves there. -/
theorem die_land (s : State) (n : Nat) (w : PendWrite) : die (land s n w) n = { die s n with
    hbm := landWr (mct s n).compat s.free (die s n).hbm w
    mct := markMixed (clearBad (mct s n) w.off w.data.length) w } := by
  have hf (t : State) : die (fresh t).2 n = die t n := rfl
  unfold land
  dsimp only
  split <;> simp only [hf, die_modDie_self, mct]

theorem markMixed_writes {m : Mct} (h : m.writes = []) (w : PendWrite) : (markMixed m w).writes = [] := by
  unfold markMixed
  split <;> simp [h]

theorem idle_land (s : State) (n : DieId) (w : PendWrite) : IdleKept s (land s n w) := by
  refine fun hs => ⟨fun m => ?_, ?_⟩
  · by_cases hm : m = n
    · rw [hm, mct, die_land]
      exact markMixed_writes (m := clearBad (mct s n) w.off w.data.length) (hs n) w
    · rw [mct, (stackWork_land s n w).others m (fun h => hm (Fin.ext h))]
      exact hs m
  · unfold land
    dsimp only
    split <;> rfl

theorem idle_hbmSet (s : State) (n : DieId) (liv : Byte) (off : Nat) (data : List Byte) : IdleKept s (hbmSet s n liv off data) := by
  have hr := (stackRead_refreshFor s n off data.length).trans
    (stackRead_partRead (refreshFor s n off data.length) n .spine liv off data.length)
  intro hs
  have hw := (hr.idle hs).1 n
  have hn := hr.idle
  unfold hbmSet hbmPut
  rcases hp : partRead (refreshFor s n off data.length) n .spine liv off data.length with ⟨_ | _, t⟩
  · rw [hp] at hw hn
    dsimp only at hw hn ⊢
    rw [hw]
    exact (hn.trans (idle_land t n _)) hs
  · rw [hp] at hn
    exact hn hs

/-- The place of the table names a stack of the device. -/
theorem tableBase_die {s : State} {n b : Nat} (h : tableBase s n = some b) : ∃ m : DieId, m.val = n := by
  obtain ⟨t, -, hb⟩ := Option.bind_eq_some_iff.1 h
  obtain ⟨r, hr, -⟩ := Option.map_eq_some_iff.1 hb
  exact ⟨r.die, by simpa using List.find?_some hr⟩

theorem idle_putCopy (s : State) (n q : Nat) (bs : List Byte) : IdleKept s (putCopy s n q bs) := by
  unfold putCopy
  split
  · next b hb =>
    obtain ⟨m, rfl⟩ := tableBase_die hb
    split
    · exact idle_hbmSet s m _ _ bs
    · exact .refl s
  · exact .refl s

theorem idle_setQueue (s : State) (q : Nat) (c : QueueCtx) : IdleKept s (setQueue s q c) :=
  have h : IdleKept s { s with qmg := { s.qmg with queues := bankSet defQueue s.qmg.queues q c } } := fun hs => ⟨hs, rfl⟩
  h.trans ((idle_putCopy _ _ q _).trans (idle_putCopy _ _ q _))

theorem idle_readCopy (s : State) (n q : Nat) : IdleKept s (readCopy s n q).2 := by
  unfold readCopy
  split
  · exact .refl s
  · split
    · exact .refl s
    · exact (stackRead_hbmGet s n .spine 0x02 _ 32).idle

theorem idle_syncQueue (s : State) (q : Nat) : IdleKept s (syncQueue s q) := by
  unfold syncQueue
  dsimp only
  split
  · exact .refl s
  · have hb : IdleKept s (readCopy (readCopy s s.qmg.primary q).2 s.qmg.mirror q).2 :=
      (idle_readCopy s _ q).trans (idle_readCopy _ _ q)
    split
    · split
      · exact hb
      · exact hb.trans (idle_setQueue _ q _)
    · exact hb.trans (idle_setQueue _ q _)
    · exact hb.trans (idle_setQueue _ q _)
    · exact (hb.trans (idle_setQueue _ q _)).trans (stackRead_logF _ 0 _).idle

end Sys2Proof.Proofs


/-! The replies that a deferred work draws (03 R123-R126). -/

namespace Sys2Proof.Proofs

open Sys2Proof.Machine Sys2Proof.Safety Sys2Proof.Laws

/-- The dispatcher's work stands, and what stood in the reply FIFO stands there still, before what has come. -/
def FifoGrows (s t : State) : Prop := t.dis = s.dis ∧ ∃ more, t.hpt.fifo = s.hpt.fifo ++ more

theorem FifoGrows.of_eq {s t : State} (hd : t.dis = s.dis) (hf : t.hpt.fifo = s.hpt.fifo) : FifoGrows s t :=
  ⟨hd, [], by simp [hf]⟩

theorem FifoGrows.refl (s : State) : FifoGrows s s := .of_eq rfl rfl

theorem FifoGrows.trans {s t u : State} (h : FifoGrows s t) (k : FifoGrows t u) : FifoGrows s u := by
  obtain ⟨hd, a, ha⟩ := h
  obtain ⟨kd, b, hb⟩ := k
  exact ⟨kd.trans hd, a ++ b, by rw [hb, ha, List.append_assoc]⟩

theorem fifoGrows_reply (s : State) (k : Pkt) (st : Byte) (data : List Word) : FifoGrows s (reply s k st data) := by
  refine ⟨reply_dis s k st data, ?_⟩
  cases hp : k.port with
  | host => exact ⟨_, by rw [reply_host _ _ _ _ hp, setHpt_hpt]⟩
  | mgt i =>
    rw [reply_mgt _ _ _ _ i hp]
    exact ⟨[], by cases i <;> simp [mgtSend]⟩

theorem fifoGrows_setWaiting (s : State) (p : Port) (l : List Pkt) : FifoGrows s (setWaiting s p l) := by
  rcases p with _ | _ | _ <;> exact .of_eq rfl rfl

theorem fifoGrows_flush (s : State) (p : Port) : FifoGrows s (flush s p) := by
  refine forAll_rel FifoGrows .refl .trans (fun t k => ?_) _ s
  unfold flushOne
  split
  · split
    · exact .refl t
    · exact (fifoGrows_setWaiting t _ _).trans (fifoGrows_reply _ _ _ _)
  · exact .refl t

theorem fifoGrows_turnAway (s : State) (k : Pkt) (st : Byte) (step expect idx : Nat) :
    FifoGrows s (turnAway s k st step expect idx) :=
  (fifoGrows_setWaiting s _ _).trans (fifoGrows_flush _ _)

theorem fifoGrows_countErr (s : State) (p : Port) {f : Hpt → Hpt} (hf : (f s.hpt).fifo = s.hpt.fifo) :
    FifoGrows s (countErr s p f) := by
  unfold countErr
  split
  · exact .of_eq rfl hf
  · exact .refl s

theorem fifoGrows_setAlive (s : State) (p : Port) (c : Nat) (v : BitVec 8) : FifoGrows s (setAlive s p c v) := by
  rcases p with _ | _ | _ <;> exact .of_eq rfl rfl

theorem fifoGrows_arrive (s : State) (p : Port) (bs : List Byte) : FifoGrows s (arrive s p bs) := by
  unfold arrive
  dsimp only
  split
  · exact fifoGrows_turnAway ..
  · split
    · exact (fifoGrows_countErr s p rfl).trans (fifoGrows_turnAway ..)
    · split
      · exact fifoGrows_turnAway ..
      · split
        · exact fifoGrows_setWaiting ..
        · split
          · exact (fifoGrows_setAlive ..).trans (fifoGrows_setWaiting ..)
          · exact (fifoGrows_countErr s p rfl).trans (fifoGrows_turnAway ..)

theorem fifoGrows_intakeList : ∀ (l : List (List Byte)) (s : State), FifoGrows s (intakeList s l)
  | [], _ => .of_eq rfl rfl
  | b :: r, s => by
    unfold intakeList
    dsimp only
    split
    · exact (fifoGrows_arrive s _ _).trans (fifoGrows_intakeList r _)
    · exact .of_eq rfl rfl

theorem fifoGrows_intake (s : State) : FifoGrows s (intake s) := by
  unfold intake
  split
  · exact .refl s
  · exact fifoGrows_intakeList _ s

/-- The replies of a work, before the intake goes on. -/
def drawn (s : State) (w : DefKind) (st : Byte) (data : List Word) : State :=
  forAll (setDis s (fun d => { d with defers := d.defers.filter (fun d => !(d.what == w)) }))
    (s.dis.defers.filter (fun d => d.what == w)) (fun s d => reply s d.pkt st data)

theorem completeDefers_eq (s : State) (w : DefKind) (st : Byte) (data : List Word) : completeDefers s w st data =
    if (s.dis.defers.filter (fun d => d.what == w)).any (fun d => d.pkt.port == .host) then intake (drawn s w st data)
    else drawn s w st data := rfl

theorem fifoGrows_drawn (s : State) (w : DefKind) (st : Byte) (data : List Word) :
    FifoGrows (setDis s (fun d => { d with defers := d.defers.filter (fun d => !(d.what == w)) })) (drawn s w st data) :=
  forAll_rel FifoGrows .refl .trans (fun (t : State) (d : Deferred) => fifoGrows_reply t d.pkt st data) _ _

/-- What waited for a work is no longer deferred; the dispatcher's other work stands. -/
theorem completeDefers_dis (s : State) (w : DefKind) (st : Byte) (data : List Word) : (completeDefers s w st data).dis =
    { s.dis with defers := s.dis.defers.filter (fun d => !(d.what == w)) } := by
  have hd := (fifoGrows_drawn s w st data).1
  rw [completeDefers_eq]
  split
  · exact (fifoGrows_intake _).1.trans hd
  · exact hd

/-- The deferred packets of a work draw their replies. -/
theorem drew_completeDefers (s : State) (w : DefKind) (st : Byte) (data : List Word) :
    drew s (completeDefers s w st data) w st data := by
  refine ⟨by rw [completeDefers_dis], fun d hd hp => ?_⟩
  have hr : drawn s w st data = reply (setDis s (fun d => { d with defers := d.defers.filter (fun d => !(d.what == w)) })) d.pkt st data := by
    rw [drawn, hd]
    rfl
  have hc : completeDefers s w st data = intake (drawn s w st data) := by
    rw [completeDefers_eq, hd, if_pos (by simp [hp])]
  rw [hc, hr, reply_host _ _ _ _ hp]
  set t := setHpt _ _ with ht
  have hf : t.hpt = { s.hpt with fifo := s.hpt.fifo ++ [replyWords d.pkt s.hpt.replies.toNat st data], replies := s.hpt.replies + 1 } :=
    setHpt_hpt _ _
  by_cases hi : s.hpt.inbound = []
  · refine ⟨[], ?_, fun _ _ => rfl⟩
    have ht : intake t = t := by simp [intake, hf, hi]
    rw [ht, hf]
  · obtain ⟨-, more, hm⟩ := fifoGrows_intake t
    exact ⟨more, by rw [hm, hf]; simp, fun h => absurd h hi⟩

end Sys2Proof.Proofs


/-! Waybills and queue queries (10 Table 10-6). -/

namespace Sys2Proof.Proofs

open Sys2Proof.Machine Sys2Proof.Safety Sys2Proof.Laws

/-- A ready packet whose row defers its reply, whatever waits beside it, waits for the work. -/
theorem onPort_defers {s t : State} {p : Port} {c op n : Nat} {k : Pkt} {o : OpDef} {w : DefKind}
    (h : Ready s p c op n k) (ho : ofRow o k = true) (hg : gate s o k = none)
    (hr : ∀ l, o.run (setWaiting s p l) k = .later w (setWaiting t p l)) :
    onPort o p s = .next (deferred p k w (setWaiting t p [])) := by
  have hs := hr (waiting s p)
  rw [setWaiting_self] at hs
  rw [onPort_ready h o ho hg (by simp [hs]) (by simp [hs]), hr, afterPkt_later, leave_alone h.alone.port]

theorem setDis_setWaiting (s : State) (p : Port) (l : List Pkt) (f : Dis → Dis) :
    setDis (setWaiting s p l) f = setWaiting (setDis s f) p l := by
  rcases p with _ | _ | _ <;> rfl

/-- Without an armed timetable a waybill is checked against the active one (R80). -/
theorem wbTimetable_active {s : State} {t : Timetable} (ha : s.tt.active = some t) (hn : s.tt.st ≠ .armed) (ident : Nat) :
    wbTimetable s ident = some (t, false) := by
  unfold wbTimetable
  split
  · exact absurd ‹_› hn
  · rw [ha]; rfl

theorem gate_wbSubmit {s : State} {k : Pkt} {t : Timetable} (h : Ready s .host 2 0 (6 + 4 * parN k 5) k)
    (ha : s.tt.active = some t) (hn : s.tt.st ≠ .armed) : gate s rowWbSubmit k = none := by
  have hx : rowWbSubmit.ctxOk s k = ctxKnown s k := by
    show wbCtxOk s k = _
    rw [wbCtxOk, wbTimetable_active ha hn]
  have hg : gate s { rowWbSubmit with ctxOk := ctxKnown } k = none :=
    gate_ready h (by simp [rowWbSubmit, h.len]) rfl
  rw [← hg]
  unfold gate
  rw [hx]

/-- A waybill of good entries for the active timetable, whose descriptors its rings hold. -/
structure WaybillGood (s : State) (k : Pkt) (t : Timetable) (d : CtxDecl) : Prop where
  entry : ∀ i, i < parN k 5 → wbEntryBad s t false (pktCtx k) d.qcount d.livery k i = none
  room  : ∀ i, i < parN k 5 → descsFor t ((List.range (parN k 5)).map (wbEntry k)) (wbEntry k i).queue +
    ((s.dis.waybills.filter (fun w => w.st = .held && w.ctx.val = pktCtx k && w.stage = par64 k 0 && w.forArmed = false)).map
      (fun w => descsFor t w.entries (wbEntry k i).queue)).sum ≤ ringSize s t false (d.qbase + (wbEntry k i).queue)

/-- WB_SUBMIT keeps a good waybill for its stage (R54). -/
theorem wbSubmit_defers {s : State} {k : Pkt} {t : Timetable} {d : CtxDecl} (h : Ready s .host 2 0 (6 + 4 * parN k 5) k)
    (h1 : 1 ≤ parN k 5) (hn : parN k 5 ≤ 4093) (ha : s.tt.active = some t) (hna : s.tt.st ≠ .armed)
    (hid : par64 k 2 = t.figs.ident) (hlo : s.stg.stage < par64 k 0) (hhi : par64 k 0 ≤ s.stg.stage + 2)
    (hd : ctxDecl t (pktCtx k) = some d) (hg : WaybillGood s k t d) :
    exec (.wbSubmit .host) s = .next (deferred .host k (.waybill s.dis.nextId) (setDis (took s .host k) (fun x => { x with
      nextId := s.dis.nextId + 1
      waybills := s.dis.waybills ++ [{
        id := s.dis.nextId, ctx := fin (by decide) (pktCtx k), stage := par64 k 0, ident := par64 k 2, batch := par k 4
        entries := (List.range (parN k 5)).map (wbEntry k), prio := pktPrio k, forArmed := false, st := .held
        written := 0, completed := 0, discarded := 0, reexec := 0, bad := false }] }))) := by
  rw [took_alone h.alone, setDis_setWaiting]
  refine onPort_defers h (ofRow_ready h rfl rfl rfl) (gate_wbSubmit h ha hna) (fun l => ?_)
  have hw : wbTimetable (setWaiting s .host l) (par64 k 2) = some (t, false) := wbTimetable_active ha hna _
  have hstage : (!wbStageOk (setWaiting s .host l) false (par64 k 0)) = false := by
    simp [wbStageOk, hlo, hhi]
  have hold : wbOld (setWaiting s .host l) false (par64 k 0) = false := by simp [wbOld, hna]
  have hbad : (List.range (parN k 5)).findSome? (wbEntryBad (setWaiting s .host l) t false (pktCtx k) d.qcount d.livery k) = none :=
    List.findSome?_eq_none_iff.2 fun i hi => hg.entry i (List.mem_range.1 hi)
  have hroom : ((List.range (parN k 5)).map (wbEntry k)).any (fun e => decide (ringSize (setWaiting s .host l) t false (d.qbase + e.queue) <
      descsFor t ((List.range (parN k 5)).map (wbEntry k)) e.queue + ((s.dis.waybills.filter (fun w =>
        w.st = .held && w.ctx.val = pktCtx k && w.stage = par64 k 0 && w.forArmed = false)).map
          (fun w => descsFor t w.entries e.queue)).sum)) = false := by
    rw [List.any_eq_false]
    intro e he
    obtain ⟨i, hi, rfl⟩ := List.mem_map.1 he
    rw [decide_eq_true_eq, Nat.not_lt]
    exact hg.room i (List.mem_range.1 hi)
  simp only [rowWbSubmit, hw, hd, Option.map_some, Option.getD_some, hstage, hold, hbad, setWaiting_dis]
  rw [if_neg (by simp), if_neg (by simp [hid]), if_neg (by omega), if_neg (by rw [hroom]; simp), if_neg (by omega), setDis_setWaiting]
  rfl

/-- WAYBILL_COMPLETE of a waybill with nothing left to do (R61, R377). -/
theorem waybillComplete_eq {s : State} {id : Nat} {w : Waybill}
    (hw : s.dis.waybills.find? (fun w => w.id == id && w.st == .running) = some w) (hd : w.written ≤ w.completed + w.discarded)
    (hu : unwritten s w = false ∨ s.stg.inlay = true) : exec (.waybillComplete id) s = .next (completeDefers
      (modWb s id (fun w => { w with st := .complete })) (.waybill id) (if wbDegraded w then stDegraded else stOk)
      ([toW w.completed, toW w.written] ++ two w.stage)) := by
  show Host.Outcome.next _ = _
  have hl : (unwritten s w && !s.stg.inlay) = false := by
    rcases hu with h | h <;> simp [h]
  rw [hw]
  dsimp only
  rw [if_neg (by simp [hl, hd])]

theorem modWb_complete (s : State) (id : Nat) {x : Waybill}
    (hx : x ∈ (modWb s id (fun w => { w with st := .complete })).dis.waybills) (hi : x.id = id) : x.st = .complete := by
  obtain ⟨w, -, rfl⟩ := List.mem_map.1 hx
  by_cases h : w.id = id
  · rw [if_pos h]
  · rw [if_neg h] at hi
    exact absurd hi h

theorem waybillComplete_reads {s : State} {id : Nat} {w : Waybill}
    (hw : s.dis.waybills.find? (fun w => w.id == id && w.st == .running) = some w) (hd : w.written ≤ w.completed + w.discarded)
    (hu : unwritten s w = false ∨ s.stg.inlay = true) : ∃ t, exec (.waybillComplete id) s = .next t ∧
      (∀ x ∈ t.dis.waybills, x.id = id → x.st = .complete) ∧
      drew s t (.waybill id) (if w.bad = true ∨ 0 < w.discarded then stDegraded else stOk)
        ([toW w.completed, toW w.written] ++ two w.stage) ∧ t.qmg = s.qmg ∧ t.stg = s.stg := by
  have hst : (if w.bad = true ∨ 0 < w.discarded then stDegraded else stOk) = if wbDegraded w then stDegraded else stOk := by
    simp [wbDegraded]
  rw [hst]
  have hk := signalKept_completeDefers (modWb s id (fun w => { w with st := .complete })) (.waybill id)
    (if wbDegraded w then stDegraded else stOk) ([toW w.completed, toW w.written] ++ two w.stage)
  refine ⟨_, waybillComplete_eq hw hd hu, fun x hx hi => ?_, drew_completeDefers (modWb s id _) _ _ _, hk.qmg, hk.stg⟩
  rw [completeDefers_dis] at hx
  exact modWb_complete s id hx hi

/-- WB_STATUS reports the last waybill of its context, stage and batch. -/
theorem wbStatus_answers {s : State} {k : Pkt} {w : Waybill} (h : Ready s .host 2 1 3 k) (hs : s.stg.stage ≤ par64 k 0 + 16)
    (hw : (s.dis.waybills.filter (fun w => w.ctx.val = pktCtx k && w.stage = par64 k 0 && w.batch = par k 2)).getLast? = some w) :
    exec (.wbStatus .host) s = .next (answered .host k stOk ([toW (wbStateCode w.st), toW w.completed, toW w.written,
      toW w.discarded, toW w.reexec, toW (outputStatus s (par64 k 0)).toNat]) (took s .host k)) := by
  rw [took_alone h.alone]
  refine onPort_answers h (ofRow_ready h rfl rfl rfl) (by simp [rowWbStatus, opDef, fixedRow, h.len]) rfl (fun l => ?_)
  simp only [rowWbStatus, opDef, setWaiting_dis, setWaiting_stg, hw]
  rw [if_neg (by omega)]
  rfl

/-- Q_QUERY reports queue contexts as the QMG reads them, the copies repaired (R371). -/
theorem qQuery_answers {s : State} {k : Pkt} (h : Ready s .host 2 2 2 k) (h1 : 1 ≤ parN k 1) (hc : parN k 1 ≤ 2040)
    (hn : parN k 0 + parN k 1 ≤ (ctxRec s (pktCtx k)).qcount) {qs : List Nat}
    (hq : qs = (List.range (parN k 1)).map (fun i => (ctxRec s (pktCtx k)).qbase + parN k 0 + i)) :
    exec (.qQuery .host) s = .next (answered .host k stOk
      (qs.flatMap (fun q => queueWords (queue (forAll (took s .host k) qs syncQueue) q))) (forAll (took s .host k) qs syncQueue)) := by
  have hf (l : List Pkt) : forAll (setWaiting s .host l) qs syncQueue = setWaiting (forAll s qs syncQueue) .host l :=
    forAll_setWaiting .host l syncQueue (fun t q => syncQueue_setWaiting t .host l q) qs s
  rw [took_alone h.alone, hf]
  refine onPort_answers h (ofRow_ready h rfl rfl rfl) (by simp [rowQQuery, opDef, fixedRow, h.len]) rfl (fun l => ?_)
  have hr : ctxRec (setWaiting s .host l) (pktCtx k) = ctxRec s (pktCtx k) := by simp [ctxRec]
  simp only [rowQQuery, opDef, hr, ← hq, hf, queue_setWaiting]
  rw [if_neg (by omega), if_neg (by simp; omega), if_neg (by omega)]

/-- Settles O17: each row and the end of a waybill from its own lemma. -/
theorem waybillOpcodes : Obligations.WaybillOpcodes := by
  refine ⟨fun s k t h h1 hn ha hna hid hlo hhi d hd hg => ?_, fun _ _ _ hw hd hu => waybillComplete_reads hw hd hu,
    fun _ _ _ h hs hw => wbStatus_answers h hs hw, fun s k h h1 hc hn => ⟨_, rfl, qQuery_answers h h1 hc hn rfl, ?_, ?_⟩⟩
  · exact wbSubmit_defers h h1 hn ha hna hid hlo hhi hd ⟨fun i hi => (hg i hi).1, fun i hi => (hg i hi).2⟩
  · exact (forAll_stg (fun t q => (timer_syncQueue t q).1) _ _).trans (setWaiting_stg ..)
  · have hm (n : DieId) : mct (took s .host k) n = mct s n := mct_setWaiting ..
    intro hw
    have hi := forAll_rel IdleKept .refl .trans idle_syncQueue
      ((List.range (parN k 1)).map (fun i => (ctxRec s (pktCtx k)).qbase + parN k 0 + i)) (took s .host k)
    exact (hi fun n => (congrArg Mct.writes (hm n)).trans (hw n)).2.trans (setWaiting_engines ..)

end Sys2Proof.Proofs


namespace Sys2Proof.Proofs

open Sys2Proof.Machine Sys2Proof.Safety Sys2Proof.Laws

/-! The output cut-off (13 R480, R481). -/

/-- What the cut-off of the islands and of the IOD core leaves: the edges, the dies, the timetable, the stage's number. -/
structure CutKept (s t : State) : Prop where
  edges  : ∀ e, edge t e = edge s e
  dies   : t.dies = s.dies
  tt     : t.tt = s.tt
  number : NumberKept s t

theorem CutKept.refl (s : State) : CutKept s s := ⟨fun _ => rfl, rfl, rfl, rfl⟩

theorem CutKept.trans {s t u : State} (h : CutKept s t) (k : CutKept t u) : CutKept s u :=
  ⟨fun e => (k.edges e).trans (h.edges e), k.dies.trans h.dies, k.tt.trans h.tt, k.number.trans h.number⟩

theorem edge_congr {s t : State} (ha : t.edgeA = s.edgeA) (hb : t.edgeB = s.edgeB) : ∀ e, edge t e = edge s e
  | .a => ha
  | .b => hb

theorem SignalKept.cut {s t : State} (h : SignalKept s t) : CutKept s t :=
  ⟨edge_congr h.edgeA h.edgeB, h.dies, h.tt, congrArg Stg.stage h.stg⟩

theorem cutKept_logF (s : State) (f : Fact) : CutKept s (logF s f) := (signalKept_logF s f).cut

theorem cutKept_modIsl (s : State) (i : Isl) (f : Island → Island) : CutKept s (modIsl s i f) :=
  ⟨edge_modIsl s i f, modIsl_dies s i f, modIsl_tt s i f, congrArg Stg.stage (modIsl_stg s i f)⟩

theorem cutKept_fresh (s : State) : CutKept s (fresh s).2 := ⟨edge_congr rfl rfl, rfl, rfl, rfl⟩

theorem cutKept_logOpen (s : State) (u : Nat) : CutKept s (logOpen s u) := (cutKept_fresh s).trans (cutKept_logF _ _)

theorem cutKept_forAll {α : Type} {f : State → α → State} (hf : ∀ t x, CutKept t (f t x)) (l : List α) (s : State) :
    CutKept s (forAll s l f) :=
  forAll_rel CutKept .refl .trans hf l s

theorem cutKept_setMpl (s : State) (f : Mpl → Mpl) : CutKept s (setMpl s f) := ⟨edge_congr rfl rfl, rfl, rfl, rfl⟩

theorem cutKept_putSlot (s : State) (n : Nat) (ws : List Word) : CutKept s (putSlot s n ws) := ⟨edge_congr rfl rfl, rfl, rfl, rfl⟩

theorem cutKept_setQmg (s : State) (q : Qmg) : CutKept s { s with qmg := q } := ⟨edge_congr rfl rfl, rfl, rfl, rfl⟩

theorem cutKept_finishSearch (s : State) (q : Search) (o : SRun × Nat × Nat) : CutKept s (finishSearch s q o) := by
  have h (t : State) (f : Mpl → Mpl) (st : Byte) (ws : List Word) :
      CutKept t (completeDefers (setMpl (fresh t).2 f) .search st ws) :=
    ((cutKept_fresh t).trans (cutKept_setMpl _ f)).trans (signalKept_completeDefers _ _ st ws).cut
  unfold finishSearch
  dsimp only
  refine CutKept.trans ?_ (h _ _ _ _)
  split
  · exact cutKept_putSlot s 8 _
  · exact cutKept_forAll (fun t e => cutKept_putSlot t _ _) _ s

theorem cutKept_endLate (s : State) (l : Bool) : CutKept s (endLate s l) := by
  unfold endLate
  split
  · exact .refl s
  · split
    · exact (cutKept_fresh s).trans (cutKept_finishSearch _ _ _)
    · exact .refl s

theorem cutKept_abandonMoves (s : State) : CutKept s (abandonMoves s) := by
  have one (t : State) (u : Nat) : CutKept t (logF { t with qmg := { t.qmg with relayab := true } } { cls := 0x19, unit := u }) :=
    (cutKept_setQmg t _).trans (cutKept_logF _ _)
  have all (t : State) (l : List (DieId × Bool)) : CutKept t (forAll t l (fun t e =>
      logF { t with qmg := { t.qmg with relayab := true } } { cls := 0x19, unit := e.1 })) :=
    cutKept_forAll (fun t e => by exact one t e.1) l t
  have run : CutKept s (if s.qmg.moveRun then
      logF { s with qmg := { s.qmg with moveRun := false, relayab := true } } { cls := 0x19, unit := unitModule } else s) := by
    split
    · exact (cutKept_setQmg s _).trans (cutKept_logF _ _)
    · exact .refl s
  unfold abandonMoves
  dsimp only
  refine run.trans ?_
  generalize (if s.qmg.moveRun then _ else s) = t
  exact (cutKept_setQmg t _).trans (all _ _)

theorem cutKept_cutIod (s : State) : CutKept s (cutIod s) := by
  have h : CutKept s (setStg s (fun g => { g with cutoffPast := true })) := ⟨edge_congr rfl rfl, rfl, rfl, rfl⟩
  unfold cutIod
  split
  · exact (h.trans (cutKept_abandonMoves _)).trans (cutKept_endLate _ true)
  · exact .refl s

/-- An edge's cut-off: its release set, the stage's reason, and no release while a set is missed (R57, R481). -/
def cutEdge (s : State) (reason : Nat) (missed : Bool) (e : Edge) : State :=
  if (edge s e).inReset || (edge s e).cutoff then s
  else modEdge s e (fun x => { x with
    cutoff := true, setA := inSet s e .sia, setB := inSet s e .sib, reason := reason
    relA := if missed then none else x.relA, relB := if missed then none else x.relB })

/-- An island's cut-off: a mismatch that stands is counted (R480). -/
def cutIsl (s : State) (missed : Bool) (i : Isl) : State :=
  if !inSvc (isl s i) || (isl s i).cutoff then s
  else
    let t := modIsl s i (fun x => { x with cutoff := true, relOut := if missed then none else x.relOut })
    if (isl s i).mism then logOpen (modIsl t i (fun x => { x with disagree := satAdd 65535 x.disagree 1 })) (islUnit i) else t

theorem outputCutoff_eq (s : State) : exec .outputCutoff s = .next (cutIod (cutIsl (cutIsl (cutEdge (cutEdge s (stageReason s)
    (missedSets s) .a) (stageReason s) (missedSets s) .b) (missedSets s) .sia) (missedSets s) .sib)) := rfl

theorem cutKept_cutIsl (s : State) (missed : Bool) (i : Isl) : CutKept s (cutIsl s missed i) := by
  unfold cutIsl
  dsimp only
  split
  · exact .refl s
  · split
    · exact ((cutKept_modIsl s i _).trans (cutKept_modIsl _ i _)).trans (cutKept_logOpen _ _)
    · exact cutKept_modIsl s i _

/-- What the cut-off of one edge leaves of the rest. -/
theorem cutEdge_rest (s : State) (reason : Nat) (missed : Bool) (e : Edge) : (cutEdge s reason missed e).stg = s.stg ∧
    (cutEdge s reason missed e).tt = s.tt ∧ (cutEdge s reason missed e).dies = s.dies ∧
    edge (cutEdge s reason missed e) (otherEdge e) = edge s (otherEdge e) ∧ ∀ i, isl (cutEdge s reason missed e) i = isl s i := by
  unfold cutEdge
  split
  · exact ⟨rfl, rfl, rfl, rfl, fun _ => rfl⟩
  · exact ⟨setEdge_stg .., setEdge_tt .., setEdge_dies .., edge_modEdge_other .., fun i => by cases i <;> cases e <;> rfl⟩

/-- The registers of an edge that takes its release set. -/
theorem edge_cutEdge {s : State} {e : Edge} (hr : (edge s e).inReset = false) (hc : (edge s e).cutoff = false) (reason : Nat)
    (missed : Bool) : edge (cutEdge s reason missed e) e = { edge s e with
      cutoff := true, setA := inSet s e .sia, setB := inSet s e .sib, reason := reason
      relA := if missed then none else (edge s e).relA, relB := if missed then none else (edge s e).relB } := by
  unfold cutEdge
  rw [if_neg (by simp [hr, hc]), edge_modEdge_self]

theorem inSet_congr {s t : State} {e : Edge} (he : edge t e = edge s e) (hi : ∀ i, isl t i = isl s i) (i : Isl) :
    inSet t e i = inSet s e i := by
  simp only [inSet, he, hi]

/-- Both edges cut, each is cut as it stood. -/
theorem edge_cutEdges {s : State} {e : Edge} (hr : (edge s e).inReset = false) (hc : (edge s e).cutoff = false) (reason : Nat)
    (missed : Bool) : edge (cutEdge (cutEdge s reason missed .a) reason missed .b) e = { edge s e with
      cutoff := true, setA := inSet s e .sia, setB := inSet s e .sib, reason := reason
      relA := if missed then none else (edge s e).relA, relB := if missed then none else (edge s e).relB } := by
  cases e with
  | a =>
    obtain ⟨-, -, -, ho, -⟩ := cutEdge_rest (cutEdge s reason missed .a) reason missed .b
    exact ho.trans (edge_cutEdge hr hc reason missed)
  | b =>
    obtain ⟨-, -, -, ho, hi⟩ := cutEdge_rest s reason missed .a
    have ho : edge (cutEdge s reason missed .a) .b = edge s .b := ho
    rw [edge_cutEdge (by rwa [ho]) (by rwa [ho]), inSet_congr ho hi, inSet_congr ho hi, ho]

/-- OUTPUT_CUTOFF at an edge that has not had it. -/
theorem outputCutoff_reads {s : State} {e : Edge} (hr : (edge s e).inReset = false) (hc : (edge s e).cutoff = false) :
    ∃ t, exec .outputCutoff s = .next t ∧ edge t e = { edge s e with
      cutoff := true, setA := inSet s e .sia, setB := inSet s e .sib, reason := stageReason s
      relA := if missedSets s then none else (edge s e).relA, relB := if missedSets s then none else (edge s e).relB } ∧
    t.stg.stage = s.stg.stage ∧ t.tt = s.tt ∧ t.dies = s.dies := by
  refine ⟨_, outputCutoff_eq s, ?_⟩
  obtain ⟨ha, hat, had, -⟩ := cutEdge_rest s (stageReason s) (missedSets s) .a
  obtain ⟨hb, hbt, hbd, -⟩ := cutEdge_rest (cutEdge s (stageReason s) (missedSets s) .a) (stageReason s) (missedSets s) .b
  have hk := ((cutKept_cutIsl (cutEdge (cutEdge s (stageReason s) (missedSets s) .a) (stageReason s) (missedSets s) .b)
    (missedSets s) .sia).trans (cutKept_cutIsl _ (missedSets s) .sib)).trans (cutKept_cutIod _)
  exact ⟨(hk.edges e).trans (edge_cutEdges hr hc _ _), hk.number.trans (congrArg Stg.stage (hb.trans ha)),
    hk.tt.trans (hbt.trans hat), hk.dies.trans (hbd.trans had)⟩

end Sys2Proof.Proofs


/-! The moves of the layover: what they read (10 R390-R392). -/

namespace Sys2Proof.Proofs

open Sys2Proof.Machine Sys2Proof.Safety Sys2Proof.Laws

theorem walkRd_length (f : Fill) : ∀ (n a : Nat) (l : List Host.Cell), (walkRd f n a l).length = n
  | 0, _, _ => rfl
  | n + 1, a, [] => congrArg Nat.succ (walkRd_length f n (a + 1) [])
  | n + 1, a, c :: r => by
    unfold walkRd
    split
    · exact congrArg Nat.succ (walkRd_length f n (a + 1) r)
    · exact congrArg Nat.succ (walkRd_length f n (a + 1) (c :: r))

theorem memRd_length (m : Mem) (a n : Nat) : (memRd m a n).length = n := walkRd_length ..

/-- A mover's read delivers as many bytes as it was asked for. -/
theorem hbmTake_length (s : State) (n : Nat) (liv : Byte) (off len : Nat) : (hbmTake s n liv off len).1.length = len := by
  have hg (bs : List Byte) (h : (hbmGet s n .spine liv off len).1 = some bs) : bs.length = len := by
    unfold hbmGet at h
    dsimp only at h
    split at h
    · rw [← Option.some.inj h, memRd_length]
    · contradiction
  unfold hbmTake
  dsimp only
  split
  · exact hg _ ‹_›
  · rw [openBursts, List.length_map, List.length_zipIdx, memRd_length]

/-- What reads at the stacks leave: all that is not a stack's, the engines, the bytes of every stack. -/
structure TakeKept (s t : State) : Prop where
  rest    : offStack t = offStack s
  engines : t.engines = s.engines
  hbm     : ∀ n : Nat, (die t n).hbm = (die s n).hbm

theorem TakeKept.refl (s : State) : TakeKept s s := ⟨rfl, rfl, fun _ => rfl⟩

theorem TakeKept.trans {s t u : State} (h : TakeKept s t) (k : TakeKept t u) : TakeKept s u :=
  ⟨k.rest.trans h.rest, k.engines.trans h.engines, fun n => (k.hbm n).trans (h.hbm n)⟩

theorem StackRead.take {n : Nat} {s t : State} (h : StackRead n s t) : TakeKept s t := by
  refine ⟨h.rest, h.engines, fun m => ?_⟩
  by_cases hm : m = n
  · rw [hm]
    exact h.hbm
  · rw [h.others m hm]

theorem takeKept_takeRegions : ∀ (l : List (Nat × Nat × Nat × Nat)) (s : State), TakeKept s (takeRegions l s).2
  | [], s => .refl s
  | (n, _, base, len) :: r, s => (stackRead_hbmTake s n 0x02 base len).take.trans (takeKept_takeRegions r _)

/-- Each region's bytes are held for the place of the copy, all of its length. -/
theorem takeRegions_sizes : ∀ (l : List (Nat × Nat × Nat × Nat)) (s : State),
    (takeRegions l s).1.map (fun m => (m.1, m.2.1, m.2.2.length)) = l.map (fun r => (r.2.1, r.2.2.1, r.2.2.2))
  | [], _ => rfl
  | (n, p, base, len) :: r, s => by
    have ih := takeRegions_sizes r (hbmTake s n 0x02 base len).2
    simp only [takeRegions, List.map_cons, hbmTake_length, ih]

/-- The regions of a placement, as a relay move takes them (R391). -/
def movedRegions (p : Placement) : List (Nat × Nat × Nat × Nat) :=
  p.regions.map (fun r => (r.die.val, (succDie r.die).val, r.base, r.len))

theorem relayMoveEnd_eq {s : State} {p : Placement} (hr : s.qmg.moveRun = true) (hp : placement s = some p) :
    exec .relayMoveEnd s = .next { (takeRegions (movedRegions p) s).2 with qmg := { (takeRegions (movedRegions p) s).2.qmg with
      moveRun := false, moveDone := true, moved := (takeRegions (movedRegions p) s).1 } } := by
  show Host.Outcome.next _ = _
  rw [hr, hp]
  rfl

theorem relayMoveEnd_reads {s : State} {p : Placement} (hr : s.qmg.moveRun = true) (hp : placement s = some p) :
    ∃ t, exec .relayMoveEnd s = .next t ∧ t.qmg = { s.qmg with moveRun := false, moveDone := true, moved := t.qmg.moved } ∧
      t.qmg.moved.map (fun m => (m.1, m.2.1, m.2.2.length)) = p.regions.map (fun r => ((succDie r.die).val, r.base, r.len)) ∧
      (∀ n : DieId, (die t n).hbm = (die s n).hbm) ∧ t.engines = s.engines ∧ t.stg = s.stg := by
  have hk := takeKept_takeRegions (movedRegions p) s
  have hq : (takeRegions (movedRegions p) s).2.qmg = s.qmg := (congrArg State.qmg hk.rest :)
  refine ⟨_, relayMoveEnd_eq hr hp, ?_, ?_, fun n => hk.hbm n, hk.engines, (congrArg State.stg hk.rest :)⟩
  · rw [hq]
  · refine (takeRegions_sizes (movedRegions p) s).trans ?_
    rw [movedRegions, List.map_map]
    rfl

/-- A stack with nothing amiss: no flaw, no refresh owed, no write that waits. -/
structure Clean (m : Mct) : Prop where
  flaws  : m.flaws = []
  debt   : m.debt = []
  writes : m.writes = []
  compat : m.compat = false

theorem foundFor_flawless {m : Mct} (h : m.flaws = []) (p : MctPort) (liv : Byte) (e : EccEvent) (off len : Nat) :
    foundFor m p liv e off len = [] := by
  simp [foundFor, foundIn, h]

theorem refreshFor_debtless {s : State} {n : Nat} (h : (mct s n).debt = []) (off len : Nat) : refreshFor s n off len = s := by
  have hb : stuckBanks (mct s n) off len = [] := by simp [stuckBanks, h]
  rw [refreshFor, hb]

/-- A read of a clean stack delivers its bytes and changes nothing. -/
theorem hbmTake_clean {s : State} {n : Nat} (h : Clean (mct s n)) (liv : Byte) (off len : Nat) :
    hbmTake s n liv off len = (memRd (die s n).hbm off len, s) := by
  have hc : correct s n .spine liv off len = s := by
    rw [correct, foundFor_flawless h.flaws]
    rfl
  have hv : hbmView s n .spine liv = (die s n).hbm := by
    have hw : (die s n).mct.writes = [] := h.writes
    have hm : (die s n).mct.compat = false := h.compat
    simp [hbmView, hw, hm]
  have hg : hbmGet s n .spine liv off len = (some (memRd (die s n).hbm off len), s) := by
    rw [hbmGet, refreshFor_debtless h.debt, hc, foundFor_flawless h.flaws, hv, h.compat]
    rfl
  rw [hbmTake, hg]

theorem takeRegions_clean {s : State} : ∀ {l : List (Nat × Nat × Nat × Nat)}, (∀ r ∈ l, Clean (mct s r.1)) →
    takeRegions l s = (l.map (fun r => (r.2.1, r.2.2.1, memRd (die s r.1).hbm r.2.2.1 r.2.2.2)), s)
  | [], _ => rfl
  | (n, p, base, len) :: r, h => by
    have ih := takeRegions_clean (fun x hx => h x (List.mem_cons_of_mem _ hx))
    have hn : Clean (mct s n) := h _ (List.mem_cons_self ..)
    simp only [takeRegions, hbmTake_clean hn, ih, List.map_cons]

theorem relayMoveEnd_clean {s : State} {p : Placement} (hr : s.qmg.moveRun = true) (hp : placement s = some p)
    (hc : ∀ r ∈ p.regions, Clean (mct s r.die)) : exec .relayMoveEnd s = .next { s with qmg := { s.qmg with
      moveRun := false, moveDone := true
      moved := p.regions.map (fun r => ((succDie r.die).val, r.base, memRd (die s r.die).hbm r.base r.len)) } } := by
  have ht : takeRegions (movedRegions p) s =
      (p.regions.map (fun r => ((succDie r.die).val, r.base, memRd (die s r.die).hbm r.base r.len)), s) := by
    rw [takeRegions_clean, movedRegions, List.map_map]
    · rfl
    · intro x hx
      obtain ⟨r, hr, rfl⟩ := List.mem_map.1 hx
      exact hc r hr
  rw [relayMoveEnd_eq hr hp, ht]

end Sys2Proof.Proofs


/-! The moves of the layover: what they write; the end of a re-execution set (10 R391; 14 R511; 02 R56). -/

namespace Sys2Proof.Proofs

open Sys2Proof.Machine Sys2Proof.Safety Sys2Proof.Laws

theorem flaws_refreshFor {s : State} {n : Nat} (h : (mct s n).flaws = []) (off len : Nat) :
    (mct (refreshFor s n off len) n).flaws = [] := by
  unfold refreshFor
  split
  · exact h
  · rw [mct_modMct_self, (forceRefresh_writes _ _).2, h]

theorem foundPart_flawless {m : Mct} (h : m.flaws = []) (p : MctPort) (liv : Byte) {e : EccEvent} (he : e ≠ .clean) (off len : Nat) :
    foundPart m p liv e off len = [] := by
  have hf (b : Nat) : (finding (flawsOf m b) == e) = false := by
    have hb : flawsOf m b = [] := by rw [flawsOf, h]; rfl
    rw [hb]
    exact beq_eq_false_iff_ne.2 (Ne.symm he)
  simp [foundPart, hf]

/-- The read-modify-writes of a write meet nothing in a stack without flaws. -/
theorem partRead_flawless {s : State} {n : Nat} (h : (mct s n).flaws = []) (p : MctPort) (liv : Byte) (off len : Nat) :
    (partRead s n p liv off len).1 = false := by
  have hr : (mct (forAll s (partBursts off len) (fun s b => refreshFor s n (32 * b) 32)) n).flaws = [] :=
    forAll_keeps (fun t => (mct t n).flaws = []) _ (fun t b ht => flaws_refreshFor ht _ _) _ s h
  unfold partRead
  dsimp only
  rw [foundPart_flawless hr p liv (by decide)]
  show (!(foundPart (mct _ n) p liv .ue off len).isEmpty) = false
  rw [forAll, List.foldl_nil, foundPart_flawless hr p liv (by decide)]
  rfl

/-- What is written to a stack without flaws stands there. -/
theorem memRd_hbmSet {s : State} {n : Nat} (h : (mct s n).flaws = []) (liv : Byte) (off : Nat) (data : List Byte) :
    memRd (die (hbmSet s n liv off data) n).hbm off data.length = data := by
  have hp := partRead_flawless (flaws_refreshFor h off data.length) .spine liv off data.length
  have hl (t : State) (w : PendWrite) (hm : w.mixed = []) : (die (land t n w) n).hbm = memWr (die t n).hbm w.off w.data := by
    rw [die_land]
    simp [landWr, hm, applyWr]
  unfold hbmSet hbmPut
  rcases hr : partRead (refreshFor s n off data.length) n .spine liv off data.length with ⟨bad, t⟩
  obtain rfl : bad = false := by rw [← hp, hr]
  dsimp only
  rw [hl _ _ rfl, memRd_memWr]

/-- One region of a relay move stands in its place. -/
theorem placeMoved_one {s : State} {n : DieId} {b : Nat} {bs : List Byte} (hm : s.qmg.moved = [(n.val, b, bs)])
    (hf : (mct s n).flaws = []) : memRd (die (placeMoved s) n).hbm b bs.length = bs ∧
    (placeMoved s).qmg = { s.qmg with moved := [] } ∧ ∀ m : DieId, m ≠ n → die (placeMoved s) m = die s m := by
  have he : placeMoved s = hbmSet { s with qmg := { s.qmg with moved := [] } } n 0x02 b bs := by
    rw [placeMoved, hm]
    rfl
  have hw := stackWork_hbmSet { s with qmg := { s.qmg with moved := [] } } n 0x02 b bs
  have hs : (mct { s with qmg := { s.qmg with moved := [] } } n).flaws = [] := hf
  rw [he]
  exact ⟨memRd_hbmSet hs 0x02 b bs, (congrArg State.qmg hw.rest :), fun m hmn => hw.others m (fun h => hmn (Fin.ext h))⟩

theorem stackOnly_hbmTake (s : State) (n : Nat) (liv : Byte) (off len : Nat) : StackOnly s (hbmTake s n liv off len).2 := by
  have h := stackOnly_hbmGet s n .spine liv off len
  unfold hbmTake
  dsimp only
  split
  · exact h
  · exact h.trans (stackOnly_fresh _)

/-- What a re-admission move to die `n` leaves: all that is not a stack's, the bytes and the service of the other dies. -/
structure RefillKept (n : DieId) (s t : State) : Prop where
  rest   : offStack t = offStack s
  others : ∀ m : DieId, m ≠ n → (die t m).hbm = (die s m).hbm ∧ (die t m).inService = (die s m).inService

theorem RefillKept.refl (n : DieId) (s : State) : RefillKept n s s := ⟨rfl, fun _ _ => ⟨rfl, rfl⟩⟩

theorem RefillKept.trans {n : DieId} {s t u : State} (h : RefillKept n s t) (k : RefillKept n t u) : RefillKept n s u :=
  ⟨k.rest.trans h.rest, fun m hm => ⟨(k.others m hm).1.trans (h.others m hm).1, (k.others m hm).2.trans (h.others m hm).2⟩⟩

theorem refillKept_hbmTake (n : DieId) (s : State) (m : Nat) (liv : Byte) (off len : Nat) :
    RefillKept n s (hbmTake s m liv off len).2 :=
  have h := (stackRead_hbmTake s m liv off len).take
  ⟨h.rest, fun k _ => ⟨h.hbm k, (stackOnly_hbmTake s m liv off len).inService k⟩⟩

theorem refillKept_hbmSet (n : DieId) (s : State) (liv : Byte) (off : Nat) (data : List Byte) :
    RefillKept n s (hbmSet s n liv off data) := by
  have h := stackWork_hbmSet s n liv off data
  refine ⟨h.rest, fun m hm => ?_⟩
  rw [h.others m (fun hv => hm (Fin.ext hv))]
  exact ⟨rfl, rfl⟩

theorem refillKept_fresh (n : DieId) (s : State) : RefillKept n s (fresh s).2 := ⟨rfl, fun _ _ => ⟨rfl, rfl⟩⟩

/-- The regions that a re-admission move brings back (R511). -/
def refillRegions (s : State) (n : DieId) : List MoveRegion :=
  match s.tt.active with
  | some t => ((t.body.relay[s.stg.relay]?).map (fun p => p.regions.filter (fun r => r.die == n))).getD []
  | none => []

/-- One of them, from any of these dies. -/
def refill (n : DieId) (sources : List DieId) (s : State) (r : MoveRegion) : State :=
  match sources[Config.choice s.free % max 1 sources.length]? with
  | none => s
  | some m => hbmSet (hbmTake (fresh s).2 m 0x02 r.base r.len).2 n 0x02 r.base (hbmTake (fresh s).2 m 0x02 r.base r.len).1

theorem refillKept_refill (n : DieId) (sources : List DieId) (s : State) (r : MoveRegion) :
    RefillKept n s (refill n sources s r) := by
  unfold refill
  split
  · exact .refl n s
  · exact ((refillKept_fresh n s).trans (refillKept_hbmTake n _ _ 0x02 r.base r.len)).trans (refillKept_hbmSet n _ _ _ _)

theorem readmitMoveEnd_eq {s : State} {n : DieId} (h : (n, false) ∈ s.qmg.readmit) {t : State}
    (ht : t = forAll s (refillRegions s n) (refill n (dieList.filter (fun m => dieInSvc s m.val)))) :
    exec (.readmitMoveEnd n) s = .next { t with qmg := { t.qmg with
      readmit := t.qmg.readmit.map (fun e => if e.1 = n then (n, true) else e) } } := by
  rw [ht]
  exact congrArg Host.Outcome.next (if_pos (List.contains_iff_mem.2 h))

theorem readmitMoveEnd_reads {s : State} {n : DieId} (h : (n, false) ∈ s.qmg.readmit) : ∃ t,
    exec (.readmitMoveEnd n) s = .next t ∧ (n, true) ∈ t.qmg.readmit ∧ t.stg = s.stg ∧ t.tt = s.tt ∧
    ∀ m : DieId, m ≠ n → (die t m).hbm = (die s m).hbm ∧ (die t m).inService = (die s m).inService := by
  refine ⟨_, readmitMoveEnd_eq h rfl, ?_⟩
  have hk : RefillKept n s (forAll s (refillRegions s n) (refill n (dieList.filter (fun m => dieInSvc s m.val)))) :=
    forAll_rel (RefillKept n) (.refl n) .trans (refillKept_refill n _) _ s
  have hq : (forAll s (refillRegions s n) (refill n (dieList.filter (fun m => dieInSvc s m.val)))).qmg = s.qmg :=
    (congrArg State.qmg hk.rest :)
  refine ⟨?_, (congrArg State.stg hk.rest :), (congrArg State.tt hk.rest :), hk.others⟩
  dsimp only
  rw [hq]
  exact List.mem_map.2 ⟨(n, false), h, if_pos rfl⟩

/-! The end of a re-execution set (02 R56). -/

/-- REEXEC_SET_END of the last set. -/
theorem reexecSetEnd_reads {s : State} {r : Reexec} {g : EngId} {w : Waybill} {e : WbEntry} (hr : s.dis.reexec = [r])
    (hg : r.eng = some g) (hl : r.left = []) (ha : againLeft s r = false) (hw : workOf s r.work = some (w, e)) : ∃ t,
    exec (.reexecSetEnd e.cmd) s = .next t ∧ t.dis.reexec = [] ∧ t.stg = s.stg ∧
    t.dis.badWork = s.dis.badWork.filter (fun c => !r.members.contains c) := by
  have hf : s.dis.reexec.find? (fun r => ((workOf s r.work).map (fun e => e.2.cmd)) == some e.cmd && r.eng.isSome &&
      r.left.isEmpty && !againLeft s r) = some r := by
    rw [hr, List.find?_cons_of_pos]
    simp [hw, hg, hl, ha]
  set u := setDis s (fun d => { d with
    reexec := d.reexec.filter (fun x => !(x == r)), badWork := d.badWork.filter (fun c => !r.members.contains c) }) with hu
  have hk := stackOnly_unbindEng u g
  have hx : (unbindEng u g).dis.reexec = [] := by
    rw [hk.dis, hu]
    simp [setDis, hr]
  have hs : startReexec (unbindEng u g) = unbindEng u g := by
    rw [startReexec, hx]
    rfl
  refine ⟨unbindEng u g, ?_, hx, hk.stg, ?_⟩
  · show Host.Outcome.next _ = _
    rw [hf]
    dsimp only
    rw [hg, ← hu]
    dsimp only
    rw [hs, ite_self]
  · rw [hk.dis, hu]
    rfl

/-- Settles O16: each clause from the lemma of its event. -/
theorem cutoffAndMoves : Obligations.CutoffAndMoves := by
  refine ⟨fun _ _ hr hc => outputCutoff_reads hr hc, fun s ha hi => ?_, fun _ _ hr hp => relayMoveEnd_reads hr hp,
    fun _ _ hr hp hc => relayMoveEnd_clean hr hp fun r h => ?_, fun _ _ _ _ hm hf => placeMoved_one hm hf,
    fun _ _ h => readmitMoveEnd_reads h, fun _ _ _ _ _ hr hg hl ha hw => reexecSetEnd_reads hr hg hl ha hw⟩
  · exact congrArg Host.Outcome.next (if_pos (by simp [ha, hi]))
  · obtain ⟨hf, hd, hw, hm⟩ := hc r h
    exact ⟨hf, hd, hw, hm⟩

end Sys2Proof.Proofs


/-! System opcodes (03 Table 3-14). -/

namespace Sys2Proof.Proofs

open Sys2Proof.Machine Sys2Proof.Safety Sys2Proof.Laws

/-- SYS_IDENTITY gives the device's numbers, on a management port with the serial number of the island's own record (R491). -/
theorem sysIdentity_answers {s : State} {p : Port} {k : Pkt} (h : Ready s p 0 0 0 k) :
    exec (.sysIdentity p) s = .next (answered p k stOk (identity s p) (took s p k)) := by
  obtain rfl := h.alone.port
  rw [took_alone h.alone]
  refine onPort_answers h (ofRow_ready h rfl rfl rfl) (by simp [rowSysIdentity, opDef, fixedRow, h.len]) rfl (fun l => ?_)
  have hi : identity (setWaiting s k.port l) k.port = identity s k.port := by rcases k.port with _ | _ | _ <;> rfl
  simp only [rowSysIdentity, opDef, hi]

/-- SYS_ECHO sends its parameters back, as far as a frame of a management port holds them (R492). -/
theorem sysEcho_answers {s : State} {p : Port} {k : Pkt} (h : Ready s p 0 1 (parN k 0 + 1) k)
    (hp : p = .host ∨ parN k 0 ≤ 370) :
    exec (.sysEcho p) s = .next (if parN k 0 = 0 then answered p k stOkEmpty [] (took s p k)
      else answered p k stOk (parsFrom k 1) (took s p k)) := by
  obtain rfl := h.alone.port
  have ho : ofRow rowSysEcho k = true := ofRow_ready h rfl rfl rfl
  have hl : rowSysEcho.form.lenOk k = true := by simp [rowSysEcho, opDef, h.len]
  have hb : ¬ (decide (k.port ≠ .host) && decide (370 < parN k 0)) = true := by
    rcases hp with hp | hp <;> simp [hp]
  rw [took_alone h.alone]
  split
  · exact onPort_answers h ho hl rfl (fun l => by simp only [rowSysEcho, opDef]; rw [if_neg hb, if_pos ‹_›])
  · exact onPort_answers h ho hl rfl (fun l => by simp only [rowSysEcho, opDef]; rw [if_neg hb, if_neg ‹_›])

/-- The alive counter that a port checks a context's packets against: a management port keeps one (R491). -/
def aliveAt (s : State) (p : Port) (c : Nat) : BitVec 8 :=
  match p with
  | .host => bankGet 0 s.hpt.alive c
  | .mgt i => (mgt s i).alive

/-- SYS_ALIVE_SYNC gives the counter that it replaces (R115, R133). -/
theorem sysAliveSync_answers {s : State} {p : Port} {k : Pkt} (h : Ready s p 0 2 1 k) (h0 : fld (par k 0) 31 14 = 0)
    (hc : p = .host ∨ fld (par k 0) 13 8 = 0) : exec (.sysAliveSync p) s =
      .next (answered p k stOk [toW (aliveAt s p (fld (par k 0) 13 8)).toNat]
        (setAlive (took s p k) p (fld (par k 0) 13 8) (BitVec.ofNat 8 (fld (par k 0) 7 0)))) := by
  obtain rfl := h.alone.port
  have hb : ¬ (decide (fld (par k 0) 31 14 ≠ 0) || decide (k.port ≠ .host) && decide (fld (par k 0) 13 8 ≠ 0)) = true := by
    rcases hc with hc | hc <;> simp [h0, hc]
  have hs (c : Nat) (v : BitVec 8) (l : List Pkt) :
      setAlive (setWaiting s k.port l) k.port c v = setWaiting (setAlive s k.port c v) k.port l := by
    rcases k.port with _ | _ | _ <;> rfl
  rw [took_alone h.alone, hs]
  refine onPort_answers h (ofRow_ready h rfl rfl rfl) (by simp [rowSysAliveSync, opDef, fixedRow, h.len]) rfl (fun l => ?_)
  simp only [rowSysAliveSync, opDef]
  rw [if_neg hb, hs]
  rcases k.port with _ | _ | _ <;> rfl

/-- On a management port, bits 31:8 of the parameter are reserved or name context 0 (log entry 143). -/
theorem fld_zero_of_low_byte {w : Word} (h : fld w 31 8 = 0) : fld w 31 14 = 0 ∧ fld w 13 8 = 0 := by
  simp only [fld, bits, Nat.shiftRight_eq_div_pow] at h ⊢
  omega

/-- SYS_ALERT_EN loads HPT_ALERTEN. -/
theorem sysAlertEn_answers {s : State} {k : Pkt} (h : Ready s .host 0 3 1 k) (h0 : fld (par k 0) 31 8 = 0) :
    exec (.sysAlertEn .host) s = .next (answered .host k stOk [] (setHpt (took s .host k)
      { (took s .host k).hpt with alertEn := BitVec.ofNat 8 (parN k 0) &&& 0xFB })) := by
  have hs (l : List Pkt) := setHpt_setWaiting s .host l
    (fun h => { h with alertEn := BitVec.ofNat 8 (parN k 0) &&& 0xFB }) (fun _ => rfl)
  rw [took_alone h.alone, hs]
  refine onPort_answers h (ofRow_ready h rfl rfl rfl) (by simp [rowSysAlertEn, opDef, fixedRow, h.len]) rfl (fun l => ?_)
  simp only [rowSysAlertEn, opDef]
  rw [if_neg (by simp [h0]), hs]

/-! An undefined opcode (Table 3-10, step 5). -/

/-- Every row of the list is of an opcode that Table 3-15 defines. -/
theorem opTable_defined : ∀ o ∈ opTable, definedOp o.form.cls o.form.op = true := by
  decide

theorem rowOf_undefined {k : Pkt} (h : definedOp (pktCls k) (pktOp k) = false) : rowOf k = none := by
  refine List.find?_eq_none.2 (fun o ho hr => ?_)
  simp only [ofRow, Bool.and_eq_true, beq_iff_eq] at hr
  obtain ⟨⟨hc, hp⟩, -⟩ := hr
  rw [hc, hp, opTable_defined o ho] at h
  cases h

/-- A packet that has been refused and waits alone draws its refusal at once. -/
theorem afterPkt_refused {s : State} {p : Port} {k : Pkt} (h : Alone s p k) (st : Byte) (step idx : Nat) :
    afterPkt (setWaiting s p [{ k with fate := .refused st step 0 idx }]) p = refused p k st step idx (took s p k) := by
  obtain rfl := h.port
  have hf : flush (setWaiting s k.port [{ k with fate := .refused st step 0 idx }]) k.port =
      refuse (setWaiting s k.port []) k st step 0 idx := by
    rw [flush, waiting_setWaiting]
    simp only [forAll, List.foldl, flushOne, waiting_setWaiting]
    simp [heldBack]
    rfl
  have hr := refuse_took_waiting h st step idx
  rw [took_alone h] at hr ⊢
  rw [refused, afterPkt_empty hr.1 hr.2]
  unfold afterPkt
  rw [hf]
  have hi := hr.2
  generalize k.port = p at hi ⊢
  cases p with
  | host => simp only at hi; simp [intake, hi]
  | mgt i => simp only at hi; simp [mgtIntake, hi]

/-- Step 5 refuses a packet without a row. -/
theorem checkAll_rowless {row : Pkt → Option OpDef} {s : State} {p : Port} {k : Pkt} (h : Alone s p k) (hr : row k = none) :
    checkAll row s p = refused p k stBadOpcode 5 0 (took s p k) := by
  have hk : checkPkt row s k = setWaiting s p [{ k with fate := .refused stBadOpcode 5 0 0 }] := by
    simp [checkPkt, h.fate, hr, settle, h.port, h.only]
  rw [checkAll, h.only]
  show afterPkt (checkPkt row s k) p = _
  rw [hk, afterPkt_refused h]

theorem arrivals_alone {s : State} {p : Port} {k : Pkt} (h : Alone s p k) : arrivals s p = 1 := by
  have hf := h.free
  unfold arrivals
  rw [h.only]
  cases p with
  | host => simp only at hf; simp [hf]
  | mgt i => simp only at hf; simp [hf]

theorem undefinedOpcode_refuses {s : State} {p : Port} {k : Pkt} (h : Alone s p k)
    (hd : definedOp (pktCls k) (pktOp k) = false) :
    exec (.undefinedOpcode p) s = .next (refused p k stBadOpcode 5 0 (took s p k)) := by
  have hr := rowOf_undefined hd
  have hp : present s p (fun k => (rowOf k).isNone) = true := by simp [present, h.only, h.fate, hr]
  obtain ⟨hw, hi⟩ := refuse_took_waiting h stBadOpcode 5 0
  have he : refused p k stBadOpcode 5 0 (took s p k) = refuse (took s p k) k stBadOpcode 5 0 0 := afterPkt_empty hw hi
  show execUndefinedOpcode p s = _
  rw [execUndefinedOpcode, if_pos hp, arrivals_alone h, turn, checkAll_rowless h hr, he]
  rw [hw]
  rfl

/-- Settles O11: each clause from the lemma of its opcode. -/
theorem systemOpcodes : Obligations.SystemOpcodes := by
  refine ⟨fun s p k h => ?_, fun _ _ _ h hp => sysEcho_answers h hp, fun _ _ h h0 => sysAliveSync_answers h h0 (.inl rfl),
    fun s i k h h0 => ?_, fun _ _ h h0 => sysAlertEn_answers h h0, fun _ _ _ h hd => ?_⟩
  · exact (sysIdentity_answers h).trans (by cases p <;> rfl)
  · obtain ⟨hr, hc⟩ := fld_zero_of_low_byte h0
    exact (sysAliveSync_answers h hr (.inr hc))
  · rw [← took_alone h]
    exact undefinedOpcode_refuses h hd

end Sys2Proof.Proofs


/-! A SEC_TOKEN that steps 6-9 refuse (03 Table 3-10; 14 R522). -/

namespace Sys2Proof.Proofs

open Sys2Proof.Machine Sys2Proof.Safety Sys2Proof.Laws

/-- An entry of the fault log leaves the packets at a port as they are. -/
theorem alone_logF {s : State} {p : Port} {k : Pkt} (h : Alone s p k) (f : Fact) : Alone (logF s f) p k := by
  have hh : (logF s f).hpt.wait = s.hpt.wait ∧ (logF s f).hpt.inbound = s.hpt.inbound := by
    obtain ⟨_, _, _, e | e⟩ := logF_eq s f <;> simp [e]
  have hm (i : Isl) : mgt (logF s f) i = mgt s i := by cases i <;> simp [mgt]
  obtain ⟨ho, hp, hf, hi⟩ := h
  cases p with
  | host => exact ⟨hh.1.trans ho, hp, hf, hh.2.trans hi⟩
  | mgt i => exact ⟨(congrArg Mgt.wait (hm i)).trans ho, hp, hf, (congrArg Mgt.inbound (hm i)).trans hi⟩

theorem alone_noteToken {s : State} {p : Port} {k : Pkt} (h : Alone s p k) (st : Byte) : Alone (noteToken s k st) p k := by
  unfold noteToken
  split
  · exact alone_logF h _
  · exact h

/-- A packet that waits alone and that steps 6-9 refuse draws its refusal, after the entry of a SEC_TOKEN. -/
theorem checkAll_gated {row : Pkt → Option OpDef} {s : State} {p : Port} {k : Pkt} {o : OpDef} {st : Byte} {step idx : Nat}
    (h : Alone s p k) (hr : row k = some o) (hg : gate s o k = some (st, step, idx)) :
    checkAll row s p = refused p k st step idx (took (noteToken s k st) p k) := by
  have hn := alone_noteToken h st
  have hk : checkPkt row s k = setWaiting (noteToken s k st) p [{ k with fate := .refused st step 0 idx }] := by
    simp [checkPkt, h.fate, hr, hg, settle, h.port, hn.only]
  rw [checkAll, h.only]
  show afterPkt (checkPkt row s k) p = _
  rw [hk, afterPkt_refused hn]

/-- The refusal of the last packet of a port makes no entry itself. -/
theorem refused_took_sia {s : State} {p : Port} {k : Pkt} (h : Alone s p k) (st : Byte) (step idx : Nat) :
    (refused p k st step idx (took s p k)).sia = s.sia := by
  obtain ⟨hw, hi⟩ := refuse_took_waiting h st step idx
  rw [refused, afterPkt_empty hw hi, refuse, reply_sia]
  rcases p with _ | _ | _ <;> rfl

/-- A SEC_TOKEN without parameters, which step 6 refuses for its length. -/
def shortToken : Pkt := { port := .host, words := sealW [0x0000040A, 0, 0, 0] }

/-- The host port is ready, SIA is in service with an empty log, and the packet waits alone at the port. -/
def tokenWaits : State :=
  { State.reset with
    iod := { State.reset.iod with inReset := false, ready := true }
    sia := { State.reset.sia with st := 3 }
    hpt := { State.reset.hpt with ready := true, wait := [shortToken] } }

theorem tokenWaits_alone : Alone tokenWaits .host shortToken := ⟨rfl, rfl, rfl, rfl⟩

theorem shortToken_row : rowOf shortToken = some rowSecToken := rfl

theorem shortToken_gate : gate tokenWaits rowSecToken shortToken = some (stBadLength, 6, 0) := rfl

/-- SIA takes the entry of the refusal (R522). -/
theorem shortToken_noted : (noteToken tokenWaits shortToken stBadLength).sia.flog.length = 1 := by decide

/-- Refutes O10: the clause about steps 6-9 has the reply alone, and a SEC_TOKEN that step 6 refuses makes an entry in the
islands' logs beside it (R522). -/
theorem not_hostPacketChecks : ¬ Obligations.HostPacketChecks := by
  unfold Obligations.HostPacketChecks
  rintro ⟨-, -, hAlone, -⟩
  have h := (hAlone tokenWaits .host shortToken rowSecToken tokenWaits_alone shortToken_row).1 _ shortToken_gate
  rw [checkAll_gated tokenWaits_alone shortToken_row shortToken_gate, ← took_alone tokenWaits_alone] at h
  have hs : (noteToken tokenWaits shortToken stBadLength).sia = tokenWaits.sia := by
    rw [← refused_took_sia (alone_noteToken tokenWaits_alone stBadLength), h, refused_took_sia tokenWaits_alone]
  have hl := shortToken_noted
  rw [hs] at hl
  exact absurd hl (by decide)

end Sys2Proof.Proofs


/-! The transactions of the host port (03 Tables 3-2 to 3-7). -/

namespace Sys2Proof.Proofs

open Sys2Proof.Machine Sys2Proof.Safety Sys2Proof.Laws

/-! Writes (R99-R101). -/

/-- A whole packet that the inbound buffer has room for enters it. -/
theorem htPut_fits {s : State} {len : Nat} {bytes : List Byte} (h5 : 5 ≤ len) (hm : len ≤ 16384) (hb : bytes.length = 4 * len)
    (hr : s.hpt.ready = true) (hf : len ≤ inFree s.hpt) :
    exec (.htPut len bytes) s = .next (intake { s with hpt := { s.hpt with inbound := s.hpt.inbound ++ [bytes] } }) := by
  show execHtPut len bytes s = _
  rw [execHtPut, List.take_of_length_le hb.le]
  dsimp only
  rw [if_neg (by simp; omega), if_neg (by simp [hr]; omega), if_neg (by omega)]

/-- One that it has no room for raises HPT_ALERT.ovf. -/
theorem htPut_overflows {s : State} {len : Nat} {bytes : List Byte} (h5 : 5 ≤ len) (hm : len ≤ 16384)
    (hf : s.hpt.ready = false ∨ inFree s.hpt < len) :
    exec (.htPut len bytes) s = .next (setHpt s { s.hpt with ovf := true, aOvf := true }) := by
  show execHtPut len bytes s = _
  rw [execHtPut]
  dsimp only
  rw [if_neg (by simp; omega), if_pos (by simpa using hf)]

theorem htPut_badLength {s : State} {len : Nat} {bytes : List Byte} (h : len < 5 ∨ 16384 < len) :
    exec (.htPut len bytes) s = .next (badTx s) := by
  show execHtPut len bytes s = _
  rw [execHtPut]
  dsimp only
  rw [if_pos (by simpa using h)]

/-- A command phase with a wrong complement, or a length outside the range of its code, calls for no transaction (R93, R94). -/
theorem txOf_none {code second lo hi : Byte} (h : second ≠ ~~~code ∨ ∀ a b, txRange code = some (a, b) →
    leNat [lo, hi] < a ∨ b < leNat [lo, hi]) : txOf code second lo hi = none := by
  unfold txOf
  dsimp only
  split
  next a b hr =>
    refine if_neg (fun hc => ?_)
    simp only [Bool.and_eq_true, decide_eq_true_eq] at hc
    obtain ⟨⟨hs, hlo⟩, hhi⟩ := hc
    rcases h with h | h
    · exact h hs
    · have := h a b hr
      omega
  next => rfl

/-- What calls for no transaction sets badtx. -/
theorem htInvalid_flags (s : State) {code second lo hi : Byte} (h : second ≠ ~~~code ∨ ∀ a b, txRange code = some (a, b) →
    leNat [lo, hi] < a ∨ b < leNat [lo, hi]) : exec (.htInvalid code second lo hi) s = .next (badTx s) := by
  show execHtInvalid code second lo s hi = _
  rw [execHtInvalid, txOf_none h]
  rfl

/-! Reads (R102-R104). -/

theorem fitting_one {len : Nat} {r : List Word} (h : r.length ≤ len) : fitting len [r] = [r] := by
  simp [fitting, h]

/-- The head of a list fits where something does. -/
theorem head_fits {len : Nat} {r : List Word} {l m : List (List Word)} (h : fitting len (r :: l) = r :: m) : r.length ≤ len := by
  by_contra hc
  simp [fitting, hc] at h

/-- A read of one reply and zero words, clocked out whole. -/
theorem take_padded_one {len : Nat} {r : List Word} (h : r.length ≤ len) :
    (padded len [r]).take len = r ++ List.replicate (len - r.length) 0 := by
  rw [padded, List.take_of_length_le (by simp; omega), List.flatten_singleton]

/-- HT_GET of the first reply. -/
theorem htGet_reads {s : State} {len : Nat} {r : List Word} {rest : List (List Word)} (h1 : 1 ≤ len) (hm : len ≤ 16384)
    (hf : s.hpt.fifo = r :: rest) (hr : fitting len s.hpt.fifo = [r]) (hi : s.hpt.inbound = []) :
    exec (.htGet len len) s = .next (sendWords { s with hpt := { s.hpt with
      fifo := rest, lastRead := [r], short := s.hpt.short || decide (len < r.length) } }
      (r ++ List.replicate (len - r.length) 0)) := by
  have hl : r.length ≤ len := head_fits (hf ▸ hr)
  show execHtGet len len s = _
  rw [execHtGet, if_neg (by simp; omega)]
  dsimp only
  rw [hr, Nat.min_self, fitting_one hl, hf, take_padded_one hl]
  simp [intake, sendWords, emit, hi, headLonger]

/-- HT_REGET of a reply that fits sends it again. -/
theorem htReget_sends {s : State} {len : Nat} {r : List Word} (h1 : 1 ≤ len) (hm : len ≤ 16384) (hl : s.hpt.lastRead = [r])
    (hr : r.length ≤ len) : exec (.htReget len len) s = .next (sendWords s (r ++ List.replicate (len - r.length) 0)) := by
  show execHtReget len len s = _
  rw [execHtReget, if_neg (by simp; omega)]
  have hs : (s.hpt.short || headLonger len s.hpt.lastRead) = s.hpt.short := by simp [hl, headLonger, hr]
  dsimp only
  rw [hs]
  show Host.Outcome.next (sendWords s _) = _
  rw [hl, fitting_one hr, take_padded_one hr]

/-! HPT_ALERT (Table 3-7). -/

/-- The low byte of a word that four bytes make up is the first of them (R5). -/
theorem tbit_ofBytes {a b c d : Byte} {i : Nat} (h : i < 8) : tbit (ofBytes a b c d) i = a.getLsbD i := by
  show BitVec.getLsbD (d ++ c ++ b ++ a) i = _
  rw [BitVec.getLsbD_append]
  simp [h]

theorem htClr_clears (s : State) (a b c d : Byte) :
    exec (.htClr [a, b, c, d]) s = .next { s with hpt := clrAlert s.hpt (ofBytes a b c d) } := rfl

/-- Settles O9: each clause from the lemma of its transaction. -/
theorem hostTransactions : Obligations.HostTransactions := by
  refine ⟨fun _ _ _ h5 hm hb hr hf => htPut_fits h5 hm hb hr hf,
    fun _ _ _ h5 hm hf => ⟨_, htPut_overflows h5 hm hf, setHpt_hpt _ _⟩,
    fun _ _ _ h => htPut_badLength h, fun s _ _ _ _ h => htInvalid_flags s h,
    fun _ _ _ _ h1 hm hf hr hi => ⟨_, htGet_reads h1 hm hf hr hi, rfl, rfl, rfl, rfl⟩,
    fun _ _ _ h1 hm hl hr => htReget_sends h1 hm hl hr, fun _ => rfl, fun s a b c d => ⟨_, htClr_clears s a b c d, ?_⟩⟩
  simp [clrAlert, tbit_ofBytes]

end Sys2Proof.Proofs


/-! The dies' part of the start-up order (16 Table 16-4, R486). -/

namespace Sys2Proof.Proofs

open Sys2Proof.Machine Sys2Proof.Safety Sys2Proof.Laws

/-! A pair leaves reset (step 4). -/

/-- A die out of reset, its controllers training. -/
def released (d : Die) : Die := { d with inReset := false, mct := { d.mct with st := 1 } }

/-- One die of a pair: nothing holds it in reset. -/
def releaseDie (s : State) (n : Nat) : State := if (die s n).inReset && !dieHeld s n then modDie s n released else s

theorem computePairRelease_eq {s : State} (i : Fin 6) (h : s.iod.inReset = false) :
    exec (.computePairRelease i) s = .next (releaseDie (releaseDie s i.val) (i.val + 6)) :=
  congrArg Host.Outcome.next (if_neg (by simp [h]))

theorem releaseDie_cases (s : State) (n : Nat) : releaseDie s n = modDie s n released ∨ releaseDie s n = s := by
  unfold releaseDie
  split
  · exact .inl rfl
  · exact .inr rfl

theorem releaseDie_iod (s : State) (n : Nat) : (releaseDie s n).iod = s.iod := by
  rcases releaseDie_cases s n with h | h <;> simp [h]

theorem releaseDie_engines (s : State) (n : Nat) : (releaseDie s n).engines = s.engines := by
  rcases releaseDie_cases s n with h | h <;> simp [h]

theorem die_releaseDie_ne (s : State) {n m : Nat} (h : m ≠ n) : die (releaseDie s n) m = die s m := by
  rcases releaseDie_cases s n with e | e
  · rw [e, die_modDie_ne s _ h]
  · rw [e]

theorem die_releaseDie_self {s : State} {n : Nat} (hr : (die s n).inReset = true) (hh : dieHeld s n = false) :
    die (releaseDie s n) n = released (die s n) := by
  rw [releaseDie, if_pos (by simp [hr, hh]), die_modDie_self]

/-- A die of the pair that nothing holds leaves reset. -/
theorem pair_released {s : State} {i : Fin 6} {n : DieId} (hn : n.val = i.val ∨ n.val = i.val + 6)
    (hr : (die s n).inReset = true) (hh : dieHeld s n = false) :
    die (releaseDie (releaseDie s i.val) (i.val + 6)) n = released (die s n) := by
  rcases hn with hn | hn
  · rw [die_releaseDie_ne _ (by omega), ← hn, die_releaseDie_self hr hh]
  · have hd : die (releaseDie s i.val) n = die s n := die_releaseDie_ne s (by omega)
    rw [← hn, die_releaseDie_self (by rw [hd, hr]) (by rw [dieHeld, hd, releaseDie_iod]; exact hh), hd]

/-! A stack is trained and zeroed, links come up. -/

/-- A memory with nothing listed reads as its fill byte. -/
theorem walkRd_nil (b : Byte) : ∀ n a : Nat, walkRd (.byte b) n a [] = List.replicate n b
  | 0, _ => rfl
  | n + 1, a => congrArg (b :: ·) (walkRd_nil b n (a + 1))

/-- A die whose stack has been written with zeros. -/
def zeroed (d : Die) : Die :=
  { d with hbm := {}, mct := { d.mct with st := 2, writes := [], reads := [], flaws := [], badRead := [], scrubbed := [] } }

theorem mctTrainingEnd_zeroes {s : State} {n : DieId} (hr : (die s n).inReset = false) (hm : (mct s n).st = 1) :
    exec (.mctTrainingEnd n) s = .next (modDie s n zeroed) :=
  congrArg Host.Outcome.next (if_neg (by simp [hr, hm]))

theorem linkTrained_up {s : State} {l : LinkId} (h : linkPowered s l = true) : exec (.linkTrained l) s =
    .next { setLink s l true with iod := { (setLink s l true).iod with
      retrain := (setLink s l true).iod.retrain.filter (fun x => !(x == l)) } } :=
  congrArg Host.Outcome.next (if_pos h)

theorem setLink_spine_up (s : State) (n : DieId) :
    setLink s (.spine n) true = modDie s n (fun d => { d with spup := true, spdown := d.spdown || false }) := by
  simp [setLink]

/-- A spine that comes up keeps its down flags and the stack's bytes. -/
theorem spineUp_reads (s : State) (n : DieId) : (die (setLink s (.spine n) true) n).spup = true ∧
    (die (setLink s (.spine n) true) n).spdown = (die s n).spdown ∧ (die (setLink s (.spine n) true) n).hbm = (die s n).hbm ∧
    (setLink s (.spine n) true).iod = s.iod := by
  rw [setLink_spine_up, die_modDie_self]
  exact ⟨rfl, Bool.or_false _, rfl, rfl⟩

theorem setLink_coupling_up (s : State) (n : DieId) : setLink s (.coupling n) true =
    modDie (modDie s n (fun d => { d with scup := true, scdown := d.scdown || false })) (succDie n).val
      (fun d => { d with pcup := true, pcdown := d.pcdown || false }) := by
  simp [setLink]

/-- A coupling that comes up is up at both of its dies. -/
theorem couplingUp_reads (s : State) (n : DieId) : (die (setLink s (.coupling n) true) n).scup = true ∧
    (die (setLink s (.coupling n) true) (succDie n)).pcup = true := by
  rw [setLink_coupling_up, die_modDie_self]
  refine ⟨?_, rfl⟩
  rw [die_modDie]
  split
  · rw [← ‹n.val = (succDie n).val›, die_modDie_self]
  · rw [die_modDie_self]

/-! A die becomes ready (step 5). -/

theorem wakeEngines_eq (s : State) (n : DieId) : ∃ e, wakeEngines s n = { s with engines := e } := by
  refine forAll_keeps (fun t => ∃ e, t = { s with engines := e }) _ ?_ _ s ⟨_, rfl⟩
  rintro _ g ⟨e, rfl⟩
  exact ⟨_, rfl⟩

/-- A die that has passed its self-test, with its stack, its spine and its couplings ready. -/
structure Passes (s : State) (n : DieId) : Prop where
  inReset   : (die s n).inReset = false
  inService : (die s n).inService = false
  readyRe   : (die s n).readyRe = false
  missed    : (die s n).missed = false
  excluded  : (die s n).excluded = false
  iod       : s.iod.inReset = false
  mct       : (mct s n).st = 2
  spup      : (die s n).spup = true
  succ      : linkSettled s (.coupling n) = true
  pred      : linkSettled s (.coupling (predDie n)) = true

/-- It enters service during start-up, and is ready for re-admission later (R486). -/
theorem dieReady_passes {s : State} {n : DieId} (h : Passes s n) : exec (.dieReady n true) s = .next (
    if startingUp s then modDie (wakeEngines s n) n (fun d => { d with inService := !d.retired, readyRe := d.retired })
    else completeDefers (restoreImage (modDie (wakeEngines s n) n (fun d => { d with readyRe := true })) n)
      (.rstDie n) stOk []) := by
  obtain ⟨e, he⟩ := wakeEngines_eq s n
  have hs : startingUp (wakeEngines s n) = startingUp s := by rw [he]; rfl
  have hm : (die s n).mct.st = 2 := h.mct
  show execDieReady n true s = _
  rw [execDieReady, if_neg (by simp [h.inReset, h.inService, h.readyRe, h.missed, h.excluded, h.iod]), if_neg (by simp),
    if_neg (by simp [hm, h.spup, h.succ, h.pred])]
  dsimp only
  rw [hs]

/-- The image comes back by work at the stacks. -/
theorem restoreImage_stacks (s : State) (n : DieId) :
    StackOnly (modDie s n (fun d => { d with imageOk := true })) (restoreImage s n) := by
  unfold restoreImage
  dsimp only
  split
  · exact .refl _
  · split
    · exact .refl _
    · split
      · exact (stackOnly_hbmTake _ _ _ _ _).trans (stackOnly_hbmSet _ _ _ _ _)
      · exact .refl _

/-- Restoring the image leaves the place of its die in service and re-admission. -/
theorem restoreImage_die (s : State) (n : DieId) : (die (restoreImage s n) n).inService = (die s n).inService ∧
    (die (restoreImage s n) n).readyRe = (die s n).readyRe := by
  have h := (restoreImage_stacks s n).regs n
  rw [die_modDie_self] at h
  exact ⟨(congrArg Die.inService h :), (congrArg Die.readyRe h :)⟩

theorem dieReady_serves {s : State} {n : DieId} (h : Passes s n) (hr : s.iod.ready = false) (hc : s.iod.cause = 0) :
    ∃ t, exec (.dieReady n true) s = .next t ∧ (die t n).inService = !(die s n).retired ∧
      (die t n).hbm = (die s n).hbm ∧ t.stg = s.stg ∧ t.hpt = s.hpt := by
  obtain ⟨e, he⟩ := wakeEngines_eq s n
  have hs : startingUp s = true := by simp [startingUp, hr, hc]
  refine ⟨_, dieReady_passes h, ?_⟩
  rw [if_pos hs, die_modDie_self, he]
  exact ⟨rfl, rfl, rfl, rfl⟩

theorem dieReady_readmittable {s : State} {n : DieId} (h : Passes s n) (hr : s.iod.ready = true) :
    ∃ t, exec (.dieReady n true) s = .next t ∧ (die t n).inService = false ∧ (die t n).readyRe = true := by
  obtain ⟨e, he⟩ := wakeEngines_eq s n
  have hs : startingUp s = false := by simp [startingUp, hr]
  refine ⟨_, dieReady_passes h, ?_⟩
  rw [if_neg (by simp [hs]), die_of_dies (signalKept_completeDefers _ _ _ _).dies]
  obtain ⟨hi, hr⟩ := restoreImage_die (modDie (wakeEngines s n) n (fun d => { d with readyRe := true })) n
  rw [hi, hr, die_modDie_self, he]
  exact ⟨h.inService, rfl⟩

end Sys2Proof.Proofs


/-! The host port opens (03 R105), and the restart of the IOD core (02 R84; 13 R465). -/

namespace Sys2Proof.Proofs

open Sys2Proof.Machine Sys2Proof.Safety Sys2Proof.Laws

/-! What replies and the intake write of the host port (03 R105, R112-R124). -/

/-- Of the host port only the packets, their replies, their counters and their alive values have changed. -/
def PortWork (s t : State) : Prop := t.hpt = { s.hpt with
  inbound := t.hpt.inbound, wait := t.hpt.wait, fifo := t.hpt.fifo, replies := t.hpt.replies, alive := t.hpt.alive
  stale := t.hpt.stale, badchk := t.hpt.badchk }

theorem PortWork.of_eq {s t : State} (h : t.hpt = s.hpt) : PortWork s t := by
  rw [PortWork, h]

theorem PortWork.refl (s : State) : PortWork s s := .of_eq rfl

theorem PortWork.trans {s t u : State} (h : PortWork s t) (k : PortWork t u) : PortWork s u :=
  Eq.trans k (by rw [h])

theorem portWork_reply (s : State) (k : Pkt) (st : Byte) (data : List Word) : PortWork s (reply s k st data) := by
  cases hp : k.port with
  | host =>
    unfold PortWork
    rw [reply_host _ _ _ _ hp, setHpt_hpt]
  | mgt i =>
    rw [reply_mgt _ _ _ _ i hp]
    exact .of_eq (by cases i <;> rfl)

theorem portWork_setWaiting (s : State) (p : Port) (l : List Pkt) : PortWork s (setWaiting s p l) := by
  rcases p with _ | _ | _ <;> rfl

theorem portWork_flush (s : State) (p : Port) : PortWork s (flush s p) := by
  refine forAll_rel PortWork .refl .trans (fun t k => ?_) _ s
  unfold flushOne
  split
  · split
    · exact .refl t
    · exact (portWork_setWaiting t _ _).trans (portWork_reply _ _ _ _)
  · exact .refl t

theorem portWork_turnAway (s : State) (k : Pkt) (st : Byte) (step expect idx : Nat) :
    PortWork s (turnAway s k st step expect idx) :=
  (portWork_setWaiting s _ _).trans (portWork_flush _ _)

theorem portWork_countErr (s : State) (p : Port) {f : Hpt → Hpt}
    (hf : f s.hpt = { s.hpt with stale := (f s.hpt).stale, badchk := (f s.hpt).badchk }) : PortWork s (countErr s p f) := by
  unfold countErr
  split
  · unfold PortWork
    dsimp only
    rw [hf]
  · exact .refl s

theorem portWork_setAlive (s : State) (p : Port) (c : Nat) (v : BitVec 8) : PortWork s (setAlive s p c v) := by
  rcases p with _ | _ | _ <;> rfl

theorem portWork_arrive (s : State) (p : Port) (bs : List Byte) : PortWork s (arrive s p bs) := by
  unfold arrive
  dsimp only
  split
  · exact portWork_turnAway ..
  · split
    · exact (portWork_countErr s p rfl).trans (portWork_turnAway ..)
    · split
      · exact portWork_turnAway ..
      · split
        · exact portWork_setWaiting ..
        · split
          · exact (portWork_setAlive ..).trans (portWork_setWaiting ..)
          · exact (portWork_countErr s p rfl).trans (portWork_turnAway ..)

theorem portWork_intakeList : ∀ (l : List (List Byte)) (s : State), PortWork s (intakeList s l)
  | [], _ => rfl
  | b :: r, s => by
    unfold intakeList
    dsimp only
    split
    · exact (portWork_arrive s _ _).trans (portWork_intakeList r _)
    · rfl

theorem portWork_intake (s : State) : PortWork s (intake s) := by
  unfold intake
  split
  · exact .refl s
  · exact portWork_intakeList _ s

theorem portWork_completeDefers (s : State) (w : DefKind) (st : Byte) (data : List Word) :
    PortWork s (completeDefers s w st data) := by
  have hd : PortWork s (drawn s w st data) := PortWork.trans (t := setDis s _) (.of_eq rfl)
    (forAll_rel PortWork .refl .trans (fun (t : State) (d : Deferred) => portWork_reply t d.pkt st data) _ _)
  rw [completeDefers_eq]
  split
  · exact hd.trans (portWork_intake _)
  · exact hd

/-! The port opens. -/

theorem openPort_hpt (s : State) : (openPort s).hpt =
    { s.hpt with ready := true, epoch := s.hpt.epoch + 1, alive := [], replies := 0, aReady := true } := setHpt_hpt _ _

theorem openPort_iod (s : State) : (openPort s).iod = { s.iod with ready := true, running := true } := setHpt_iod _ _

theorem openPort_mpl (s : State) : (openPort s).mpl = { s.mpl with st := 1 } := setHpt_mpl _ _

theorem openPort_dies (s : State) : (openPort s).dies = s.dies := setHpt_dies _ _

theorem openPort_stg (s : State) : (openPort s).stg = s.stg := setHpt_stg _ _

theorem openPort_tt (s : State) : (openPort s).tt = s.tt := setHpt_tt _ _

/-- PORT_READY, with every die ready or out of service. -/
theorem portReady_opens {s : State} (hi : s.iod.inReset = false) (hr : s.iod.ready = false) (hc : s.iod.cause = 0)
    (hd : ∀ n ∈ dieList, ((die s n).inService || (die s n).missed || (die s n).retired || dieHeld s n) = true) :
    exec .portReady s = .next (openPort { s with clk := settleClocks s.clk }) := by
  show execPortReady s = _
  rw [execPortReady, if_neg (by simp [startingUp, hi, hr, hc]), if_pos (List.all_eq_true.2 hd)]

/-- The port that opens again after a restart, once the replies that waited for it have gone out. -/
def reopened (s : State) : State := completeDefers (openPort s) .rstIod stOk []

theorem reopened_reads (s : State) : (reopened s).iod.ready = true ∧ (reopened s).hpt.ready = true ∧
    (reopened s).hpt.epoch = s.hpt.epoch + 1 ∧ (reopened s).stg = s.stg ∧ (reopened s).tt = s.tt ∧
    (reopened s).dies = s.dies := by
  have hk := signalKept_completeDefers (openPort s) .rstIod stOk []
  have hp : PortWork (openPort s) (reopened s) := portWork_completeDefers (openPort s) .rstIod stOk []
  rw [PortWork, openPort_hpt] at hp
  refine ⟨?_, by rw [hp], by rw [hp], hk.stg.trans (openPort_stg s), hk.tt.trans (openPort_tt s),
    hk.dies.trans (openPort_dies s)⟩
  rw [reopened, hk.iod, openPort_iod]

/-! The restart (R84, R465). -/

/-- The restart goes on from the replica of the island that serves the host port. -/
theorem iodCoreReady_unrecorded {s : State} {i : Isl} (hi : s.iod.inReset = false) (hr : s.iod.ready = false)
    (hc : s.iod.cause ≠ 0) (hl : loadIsl s = some i) (hn : ∀ j, (isl s j).ttSaved = none) :
    exec .iodCoreReady s = .next (reopened { s with stg := stgFrom (isl s i) }) := by
  show execIodCoreReady s = _
  rw [execIodCoreReady, if_neg (by simp [startingUp, hi, hr, hc]), hl]
  simp [hn, reopened]

/-- With a record of a timetable that stands in a stack, that is active again. -/
theorem iodCoreReady_recorded {s : State} {i : Isl} {x : Timetable} (hi : s.iod.inReset = false) (hr : s.iod.ready = false)
    (hc : s.iod.cause ≠ 0) (hl : loadIsl s = some i) (hn : (isl s i).ttSaved ≠ none)
    (hx : reactivated { s with stg := stgFrom (isl s i) } (isl s i) = some x) :
    exec .iodCoreReady s = .next (reopened (reactivate { s with stg := stgFrom (isl s i) } x)) := by
  show execIodCoreReady s = _
  rw [execIodCoreReady, if_neg (by simp [startingUp, hi, hr, hc]), hl]
  simp [hn, hx, reopened]

/-- A record that fails its check gives none. -/
theorem iodCoreReady_ramFault {s : State} {i : Isl} (hi : s.iod.inReset = false) (hr : s.iod.ready = false)
    (hc : s.iod.cause ≠ 0) (hl : loadIsl s = some i) (hn : (isl s i).ttSaved ≠ none) :
    exec (.iodCoreReady true) s = .next (ramFails s i) := by
  show execIodCoreReady s true = _
  rw [execIodCoreReady, if_neg (by simp [startingUp, hi, hr, hc]), hl]
  dsimp only
  rw [if_pos (by simpa using Option.isSome_iff_ne_none.2 hn)]

theorem reactivate_timer (s : State) (x : Timetable) : (reactivate s x).stg = s.stg ∧
    (reactivate s x).tt = { s.tt with active := some x } := by
  simp [reactivate, bothIsl]

/-- Settles O8: each clause from the lemma of its event. -/
theorem diesStartAndPortOpens : Obligations.DiesStartAndPortOpens := by
  refine ⟨fun s i n hi hn hr hh => ⟨_, computePairRelease_eq i hi, ?_⟩, fun s n hr hm => ⟨_, mctTrainingEnd_zeroes hr hm, ?_⟩,
    fun s n hr hi => ⟨_, linkTrained_up (by simp [linkPowered, hr, hi]), ?_⟩,
    fun s n hr hs hf => ⟨_, linkTrained_up (by simp [linkPowered, hr, hs, hf]), couplingUp_reads s n⟩,
    fun s n h1 h2 h3 h4 h5 h6 h7 h8 h9 h10 hr hc => dieReady_serves ⟨h1, h2, h3, h4, h5, h6, h7, h8, h9, h10⟩ hr hc,
    fun s n h1 h2 h3 h4 h5 h6 h7 h8 h9 h10 hr => dieReady_readmittable ⟨h1, h2, h3, h4, h5, h6, h7, h8, h9, h10⟩ hr,
    fun s hi hr hc hd => ⟨_, portReady_opens hi hr hc hd, ?_⟩,
    fun s i hi hr hc hl hn => ⟨_, iodCoreReady_unrecorded hi hr hc hl hn, ?_⟩,
    fun s i x hi hr hc hl hn hx => ⟨_, iodCoreReady_recorded hi hr hc hl hn hx, ?_⟩,
    fun s i hi hr hc hl hn => ⟨_, iodCoreReady_ramFault hi hr hc hl hn, ?_⟩⟩
  · rw [mct, pair_released hn hr hh, releaseDie_engines, releaseDie_engines, releaseDie_iod, releaseDie_iod]
    exact ⟨rfl, rfl, rfl, rfl, rfl⟩
  · rw [mct, die_modDie_self]
    exact ⟨rfl, rfl, fun a k => walkRd_nil 0 k a, rfl, rfl, fun m h => die_modDie_ne s _ (fun hv => h (Fin.ext hv)), rfl⟩
  · obtain ⟨hu, hd, hb, hx⟩ := spineUp_reads s n
    exact ⟨hu, hd, hb, by rw [hx]⟩
  · rw [openPort_iod, openPort_hpt, openPort_mpl, openPort_dies, openPort_stg]
    exact ⟨rfl, rfl, rfl, rfl, rfl, rfl, rfl, rfl, rfl⟩
  · obtain ⟨ho, hp, he, hg, ht, hd⟩ := reopened_reads { s with stg := stgFrom (isl s i) }
    exact ⟨ho, hp, he, by rw [hg]; rfl, by rw [ht], hd⟩
  · obtain ⟨ho, hp, -, hg, ht, -⟩ := reopened_reads (reactivate { s with stg := stgFrom (isl s i) } x)
    obtain ⟨hs, ha⟩ := reactivate_timer { s with stg := stgFrom (isl s i) } x
    exact ⟨ho, hp, by rw [ht, ha], by rw [hg, hs]; rfl⟩
  · have hf := ramFailed_ramFails s i
    exact ⟨hf.st, hf.hrerr, by simp [ramFails, failIsl], by simp [ramFails, failIsl], hf.dies⟩

end Sys2Proof.Proofs


/-! The tensor engines: an engine takes a descriptor and ends it (04 Table 4-11). -/

namespace Sys2Proof.Proofs

open Sys2Proof.Machine Sys2Proof.Safety Sys2Proof.Laws

/-! What work at the stacks and the queues leaves of an engine that runs nothing. -/

theorem eng_of_engines {s t : State} (h : t.engines = s.engines) (g : Nat) : eng t g = eng s g := by
  rw [eng, h, eng]

/-- An engine with no descriptor under way stands as it is. -/
def Stands (g : Nat) (s t : State) : Prop := (eng s g).cur = none → eng t g = eng s g

theorem Stands.refl (g : Nat) (s : State) : Stands g s s := fun _ => rfl

theorem Stands.trans {g : Nat} {s t u : State} (h : Stands g s t) (k : Stands g t u) : Stands g s u := fun hc =>
  (k (by rw [h hc, hc])).trans (h hc)

theorem Stands.of_engines {g : Nat} {s t : State} (h : t.engines = s.engines) : Stands g s t := fun _ => eng_of_engines h g

theorem eng_standAfter_ne (s : State) {g h : Nat} (k : h ≠ g) : eng (standAfter s g) h = eng s h :=
  eng_modEng_ne (fresh s).2 _ k

theorem eng_engDone_ne (s : State) {g h : Nat} (st : Byte) (ws : List Word) (skip : Bool) (k : h ≠ g) :
    eng (engDone s g st ws skip) h = eng s h := by
  unfold engDone
  dsimp only
  split
  · rw [eng_standAfter_ne _ k, eng_modEng_ne _ _ k]
  · rw [eng_modEng_ne _ _ k]

/-- STOREs that complete are under way: an engine that runs nothing has none. -/
theorem stands_finishStores (g : Nat) (s : State) : Stands g s (finishStores s) := by
  refine forAll_rel (Stands g) (.refl g) .trans (fun t h hc => ?_) _ s
  by_cases hg : g = h.val
  · subst hg
    rw [hc]
  · split
    · split
      · rfl
      · exact eng_engDone_ne t _ _ _ hg
    · rfl

theorem land_engines (s : State) (n : Nat) (w : PendWrite) : (land s n w).engines = s.engines := by
  unfold land
  dsimp only
  split <;> rfl

theorem drainAt_engines (s : State) (n idx : Nat) : (drainAt s n idx).engines = s.engines := by
  unfold drainAt
  split
  · rfl
  · have hl (t : State) (w : PendWrite) (compat : Bool) (h : t.engines = s.engines) :
        (ackDrained (land t n w) compat w).engines = s.engines := by
      unfold ackDrained
      split <;> exact (land_engines t n w).trans h
    exact hl _ _ _ (stackRead_refreshFor s n _ _).engines

theorem stands_drainAll (g : Nat) (s : State) (n : Nat) : Stands g s (drainAll s n) :=
  (forAll_rel (Stands g) (.refl g) .trans (fun t _ => .of_engines (drainAt_engines t n 0)) _ s).trans (stands_finishStores g _)

theorem stands_hbmSet (g : Nat) (s : State) (n : Nat) (liv : Byte) (off : Nat) (data : List Byte) :
    Stands g s (hbmSet s n liv off data) := by
  have h := ((stackRead_refreshFor s n off data.length).trans (stackRead_partRead _ n .spine liv off data.length)).engines
  unfold hbmSet hbmPut
  generalize partRead (refreshFor s n off data.length) n .spine liv off data.length = x at h
  obtain ⟨_ | _, t⟩ := x
  · refine (Stands.of_engines h).trans (.trans ?_ (.of_engines (land_engines _ n _)))
    split
    · exact stands_drainAll g t n
    · exact .refl g t
  · exact .of_engines h

theorem stands_putCopy (g : Nat) (s : State) (n q : Nat) (bs : List Byte) : Stands g s (putCopy s n q bs) := by
  unfold putCopy
  split
  · split
    · exact stands_hbmSet g s n _ _ bs
    · exact .refl g s
  · exact .refl g s

theorem stands_setQueue (g : Nat) (s : State) (q : Nat) (c : QueueCtx) : Stands g s (setQueue s q c) :=
  have h : Stands g s { s with qmg := { s.qmg with queues := bankSet defQueue s.qmg.queues q c } } := fun _ => rfl
  h.trans ((stands_putCopy g _ _ q _).trans (stands_putCopy g _ _ q _))

theorem readCopy_engines (s : State) (n q : Nat) : (readCopy s n q).2.engines = s.engines := by
  unfold readCopy
  split
  · rfl
  · split
    · rfl
    · dsimp only
      exact (stackRead_hbmGet s n _ _ _ _).engines

theorem stands_syncQueue (g : Nat) (s : State) (q : Nat) : Stands g s (syncQueue s q) := by
  unfold syncQueue
  split
  · exact .refl g s
  · dsimp only
    have hb : Stands g s (readCopy (readCopy s s.qmg.primary q).2 s.qmg.mirror q).2 :=
      .of_engines ((readCopy_engines _ _ q).trans (readCopy_engines s _ q))
    split
    · split
      · exact hb
      · exact hb.trans (stands_setQueue g _ q _)
    · exact hb.trans (stands_setQueue g _ q _)
    · exact hb.trans (stands_setQueue g _ q _)
    · exact (hb.trans (stands_setQueue g _ q _)).trans (.of_engines (logF_engines _ _))

theorem stands_modQueue (g : Nat) (s : State) (q : Nat) (f : QueueCtx → QueueCtx) : Stands g s (modQueue s q f) :=
  (stands_syncQueue g s q).trans (stands_setQueue g _ q _)

/-! An engine takes a descriptor (R60, R382). -/

/-- An engine that runs nothing and has nothing to report, in service. -/
structure Unstarted (e : Engine) : Prop where
  cur  : e.cur = none
  done : e.done = []
  late : e.late = []
  inSvc : e.withdrawn = false

theorem Stands.unstarted {g : Nat} {s t : State} (h : Stands g s t) (hu : Unstarted (eng s g)) : Unstarted (eng t g) := by
  rwa [h hu.cur]

theorem unstarted_modEng {s : State} {g : Nat} {f : Engine → Engine} (h : Unstarted (f (eng s g))) :
    Unstarted (eng (modEng s g f) g) := by
  rwa [eng_modEng_self]

theorem unstarted_bindEng {s : State} {g : EngId} (q : Nat) (h : Unstarted (eng s g)) : Unstarted (eng (bindEng s g q) g) := by
  have hs := (stands_syncQueue g s q).unstarted h
  refine (stands_setQueue g _ q _).unstarted (unstarted_modEng ?_)
  split
  · exact ⟨hs.cur, hs.done, hs.late, hs.inSvc⟩
  · exact ⟨hs.cur, hs.done, hs.late, hs.inSvc⟩

theorem unstarted_unbindEng {s : State} {g : Nat} (h : Unstarted (eng s g)) : Unstarted (eng (unbindEng s g) g) := by
  unfold unbindEng
  dsimp only
  have hm : Unstarted (eng (modEng s g (fun e => { e with bound := false, bctx := 0, bqueue := 0 })) g) :=
    unstarted_modEng ⟨h.cur, h.done, h.late, h.inSvc⟩
  have hs := (stands_syncQueue g _ (eng s g).bqueue).unstarted hm
  split
  · split
    · exact (stands_modQueue g _ _ _).unstarted hs
    · exact hs
  · exact h

theorem unstarted_turnTo {s : State} {g : EngId} (h : Unstarted (eng s g)) : Unstarted (eng (turnTo s g).2 g) := by
  have hs := (stands_syncQueue g s (serveQueue s g)).unstarted h
  unfold turnTo
  dsimp only
  split
  · exact hs
  · exact unstarted_bindEng _ (unstarted_unbindEng hs)

/-- The device with other routes in use. -/
def rerouted (s : State) (l : List (DieId × DieId × Nat)) : State := { s with iod := { s.iod with altRoute := l } }

/-- The routes in use are all that the settling of a transaction's route can change (R28). -/
theorem settleFor_eq (s : State) (src : Initiator) (t : FwTarget) : ∃ l, settleFor s src t = rerouted s l := by
  unfold settleFor
  split
  · split
    · exact ⟨s.iod.altRoute, rfl⟩
    · unfold settleRoute
      dsimp only
      split
      · exact ⟨s.iod.altRoute, rfl⟩
      · exact ⟨_, rfl⟩
  · exact ⟨s.iod.altRoute, rfl⟩

/-- A descriptor's fetch is a read at a stack, by the route that has been settled for it. -/
theorem fetchDesc_read {s t : State} {g : EngId} {c : QueueCtx} {ws : List Word} {ok : Bool}
    (h : fetchDesc s g c = some (ws, ok, t)) : ∃ n l, StackRead n (rerouted s l) t := by
  unfold fetchDesc at h
  split at h
  · contradiction
  · next n o hr =>
    obtain ⟨l, hl⟩ := settleFor_eq s (.engine g) (.die n 14)
    dsimp only at h
    split at h
    · rw [hl] at h
      simp only [Option.some.injEq, Prod.mk.injEq] at h
      refine ⟨n, l, ?_⟩
      rw [← h.2.2]
      exact stackRead_hbmGet _ _ _ _ _ _
    · contradiction

theorem fetchDesc_engines {s t : State} {g : EngId} {c : QueueCtx} {ws : List Word} {ok : Bool}
    (h : fetchDesc s g c = some (ws, ok, t)) : t.engines = s.engines := by
  obtain ⟨n, l, hr⟩ := fetchDesc_read h
  exact hr.engines

theorem unstarted_of_engReady {s : State} {g : EngId} (h : engReady s g = true) : Unstarted (eng s g) := by
  simp only [engReady, Bool.and_eq_true, List.isEmpty_iff, Option.isNone_iff_eq_none, Bool.not_eq_true'] at h
  obtain ⟨⟨⟨⟨⟨⟨⟨⟨-, hc⟩, hd⟩, hl⟩, -⟩, hw⟩, -⟩, -⟩, -⟩ := h
  exact ⟨hc, hd, hl, hw⟩

/-- An engine that has taken a descriptor has nothing to report yet. -/
theorem nextDesc_unstarted {s t : State} {g : EngId} {ws : List Word} {ok : Bool} (h : nextDesc s g = some (ws, ok, t)) :
    Unstarted (eng t g) := by
  unfold nextDesc at h
  split at h
  · have hu := unstarted_turnTo (unstarted_of_engReady ‹_›)
    dsimp only at h
    split at h
    · obtain ⟨⟨v, b, u⟩, hf, hx⟩ := Option.map_eq_some_iff.1 h
      cases hx
      have hq := (stands_setQueue g u (turnTo s g).1 { queue u (turnTo s g).1 with head := (queue u (turnTo s g).1).head + 1 }).unstarted
        ((Stands.of_engines (fetchDesc_engines hf)).unstarted hu)
      exact unstarted_modEng ⟨hq.cur, hq.done, hq.late, hq.inSvc⟩
    · contradiction
  · contradiction

/-! A descriptor ends. -/

/-- An engine whose descriptor has ended with a status (R162, R168, R413). -/
def descEnded (st : Byte) (ws : List Word) (skip : Bool) (e : Engine) : Engine :=
  let last := tbit (nth ws 0) 31 || e.late.any (fun c => tbit (nth c.words 0) 31)
  { e with
    done := e.done ++ { status := st, words := ws, ctx := e.bctx, queue := e.bqueue, head := e.headAt } :: e.late
    late := []
    waiting := none
    cur := none
    openCmd := !last
    skipSt := if last then none else if skip && 0x10 ≤ st.toNat then some st else e.skipSt
    st := if e.st = 6 || e.st = 2 then 1 else e.st }

theorem engDone_uncut {s : State} {g : Nat} (hc : (eng s g).cut = false) (st : Byte) (ws : List Word) (skip : Bool) :
    engDone s g st ws skip = modEng s g (descEnded st ws skip) := by
  unfold engDone
  dsimp only
  rw [hc]
  rfl

theorem eng_engDone {s : State} {g : Nat} (hc : (eng s g).cut = false) (st : Byte) (ws : List Word) (skip : Bool) :
    eng (engDone s g st ws skip) g = descEnded st ws skip (eng s g) := by
  rw [engDone_uncut hc, eng_modEng_self]

/-- The descriptor of an engine with nothing else to report is its one completion. -/
theorem ended_engDone {s : State} {g : EngId} (hd : (eng s g).done = []) (hl : (eng s g).late = []) (st : Byte) (ws : List Word)
    (skip : Bool) : ended (engDone s g st ws skip) g ws st := by
  unfold engDone ended
  dsimp only
  split
  · simp [standAfter, eng_of_engines (s := modEng s g _) (t := (fresh (modEng s g _)).2) rfl, hd, hl]
  · simp [hd, hl]

theorem onlyEngine_refl (s : State) (g : EngId) : OnlyEngine s s g := ⟨rfl, fun _ _ => rfl⟩

theorem onlyEngine_trans {s t u : State} {g : EngId} (h : OnlyEngine s t g) (k : OnlyEngine t u g) : OnlyEngine s u g :=
  ⟨by rw [k.rest, h.rest], fun x hx => (k.others x hx).trans (h.others x hx)⟩

theorem onlyEngine_fresh (s : State) (g : EngId) : OnlyEngine s (fresh s).2 g := ⟨rfl, fun _ _ => rfl⟩

theorem onlyEngine_engDone {s : State} {g : EngId} (st : Byte) (ws : List Word) (skip : Bool) :
    OnlyEngine s (engDone s g st ws skip) g := by
  refine ⟨?_, fun h hg => eng_engDone_ne s st ws skip (fun e => hg (Fin.ext e))⟩
  obtain ⟨e, n, h⟩ := engDone_eq s g st ws skip
  rw [h]

/-- A descriptor's work that ends well, or is cut off, ends it in its engine alone. -/
theorem ran_engDone {s t : State} {g : EngId} (h : OnlyEngine s t g) (hd : (eng t g).done = []) (hl : (eng t g).late = [])
    (st : Byte) (ws : List Word) (skip : Bool) : ran s (engDone t g st ws skip) g ws st :=
  ⟨onlyEngine_trans h (onlyEngine_engDone st ws skip), ended_engDone hd hl st ws skip⟩

/-! The work of a descriptor. -/

/-- The registers of an engine that a descriptor's work leaves: all but the stores, and the counts of what the work met. -/
def engRegs (e : Engine) : Engine :=
  { e with
    rs := {}, acc0 := {}, acc1 := {}, wbuf0 := {}, wbuf1 := {}, half := false, pref := none, busy := 0, sat := 0, nan := 0 }

/-- Work in one engine's stores and counts. -/
structure Works (g : EngId) (s t : State) : Prop extends OnlyEngine s t g where
  regs : engRegs (eng t g) = engRegs (eng s g)

theorem Works.refl (g : EngId) (s : State) : Works g s s := ⟨onlyEngine_refl s g, rfl⟩

theorem Works.trans {g : EngId} {s t u : State} (h : Works g s t) (k : Works g t u) : Works g s u :=
  ⟨onlyEngine_trans h.toOnlyEngine k.toOnlyEngine, k.regs.trans h.regs⟩

theorem works_fresh (g : EngId) (s : State) : Works g s (fresh s).2 := ⟨onlyEngine_fresh s g, rfl⟩

theorem works_modEng (g : EngId) (s : State) {f : Engine → Engine} (hf : ∀ e, engRegs (f e) = engRegs e) :
    Works g s (modEng s g f) :=
  ⟨onlyEngine_modEng s g f, by rw [eng_modEng_self, hf]⟩

theorem works_rsWrAt (g : EngId) (s : State) (a : Nat) (bs : List Byte) : Works g s (rsWrAt s g a bs) := works_modEng g s (fun _ => rfl)

theorem works_rsWr (g : EngId) (s : State) (line : Nat) (bs : List Byte) : Works g s (rsWr s g line bs) :=
  works_modEng g s (fun _ => rfl)

theorem works_addCnt (g : EngId) (s : State) (c : Cnt) : Works g s (addCnt s g c) := works_modEng g s (fun _ => rfl)

theorem works_addBusy (g : EngId) (s : State) : Works g s (addBusy s g) := (works_fresh g s).trans (works_modEng g _ (fun _ => rfl))

/-- A step for every item of a list works in the engine where each step does. -/
theorem works_foldl {α β : Type} {g : EngId} (p : β → State) {f : β → α → β} (hf : ∀ b x, Works g (p b) (p (f b x))) :
    ∀ (l : List α) (b : β), Works g (p b) (p (l.foldl f b))
  | [], b => .refl g (p b)
  | x :: l, b => (hf b x).trans (works_foldl p hf l (f b x))

namespace Works

variable {g : EngId} {s t : State}

theorem field {α : Type} (p : Engine → α) (hp : ∀ e, p (engRegs e) = p e) (h : Works g s t) : p (eng t g) = p (eng s g) := by
  rw [← hp, h.regs, hp]

theorem done (h : Works g s t) : (eng t g).done = (eng s g).done := h.field (·.done) (fun _ => rfl)
theorem late (h : Works g s t) : (eng t g).late = (eng s g).late := h.field (·.late) (fun _ => rfl)
theorem cut (h : Works g s t) : (eng t g).cut = (eng s g).cut := h.field (·.cut) (fun _ => rfl)
theorem bctx (h : Works g s t) : (eng t g).bctx = (eng s g).bctx := h.field (·.bctx) (fun _ => rfl)
theorem ftol (h : Works g s t) : (eng t g).ftol = (eng s g).ftol := h.field (·.ftol) (fun _ => rfl)
theorem rescnt (h : Works g s t) : (eng t g).rescnt = (eng s g).rescnt := h.field (·.rescnt) (fun _ => rfl)
theorem abftcnt (h : Works g s t) : (eng t g).abftcnt = (eng s g).abftcnt := h.field (·.abftcnt) (fun _ => rfl)

end Works

@[simp] theorem addBusy_rs (s : State) (g : Nat) : (eng (addBusy s g) g).rs = (eng s g).rs := by
  rw [addBusy, eng_modEng_self]
  rfl

@[simp] theorem addCnt_rs (s : State) (g : Nat) (c : Cnt) : (eng (addCnt s g c) g).rs = (eng s g).rs := by
  rw [addCnt, eng_modEng_self]

@[simp] theorem rsWrAt_rs (s : State) (g a : Nat) (bs : List Byte) : (eng (rsWrAt s g a bs) g).rs = memWr (eng s g).rs a bs := by
  rw [rsWrAt, eng_modEng_self]

@[simp] theorem rsWr_rs (s : State) (g line : Nat) (bs : List Byte) :
    (eng (rsWr s g line bs) g).rs = memWr (eng s g).rs (128 * line) bs := by
  rw [rsWr, eng_modEng_self]

@[simp] theorem fresh_rs (s : State) (g : Nat) : (eng (fresh s).2 g).rs = (eng s g).rs := rfl

/-! An operation row, and the checks of Table 4-11. -/

theorem descReady_unstarted {s t : State} {g : EngId} {op : Nat} {ws : List Word} (h : DescReady s g op ws t) :
    Unstarted (eng t g) := nextDesc_unstarted h.next

/-- A descriptor past the steps of Table 4-11 is carried out by its own row. -/
theorem runEng_ready {s t : State} {g : EngId} {op : Nat} {ws : List Word} (h : DescReady s g op ws t) {o : EngOp}
    (ho : o.op = op) (hs : o.sub ws = true) (hk : o.ok ws = true) (he : o.empty ws = false) :
    runEng g o s = .next (o.run (addBusy t g) g ws) := by
  have hr : runDesc o g t ws true = some (o.run (addBusy t g) g ws) := by
    unfold runDesc
    simp [h.skip, h.sealed, h.defd, h.op, h.common, ho, hs, hk, he]
  unfold runEng
  rw [h.next]
  dsimp only
  rw [hr]
  rfl

/-- Work that a descriptor has done ends it with ST_OK. -/
theorem ran_doneOk {s t u : State} {g : EngId} {op : Nat} {ws : List Word} (h : DescReady s g op ws t)
    (hw : Works g t u) : ran t (doneOk u g ws) g ws stOk :=
  ran_engDone hw.toOnlyEngine (hw.done.trans (descReady_unstarted h).done) (hw.late.trans (descReady_unstarted h).late) _ _ _

theorem eng_doneOk {s t u : State} {g : EngId} {op : Nat} {ws : List Word} (h : DescReady s g op ws t)
    (hw : Works g t u) : eng (doneOk u g ws) g = descEnded stOk ws false (eng u g) :=
  eng_engDone (hw.cut.trans h.whole) _ _ _

/-- Every operation row takes its descriptor by Table 4-11. -/
theorem engineRows_run {g : EngId} {x : Option Upset} {r : Instr} (h : r ∈ engineRows g x) (s : State) :
    ∃ o, exec r s = runEng g o s := by
  simp only [engineRows, List.mem_cons, List.not_mem_nil, or_false] at h
  rcases h with rfl | rfl | rfl | rfl | rfl | rfl | rfl | rfl | rfl | rfl | rfl | rfl | rfl | rfl | rfl | rfl | rfl | rfl |
    rfl | rfl | rfl | rfl | rfl | rfl | rfl | rfl | rfl | rfl | rfl | rfl | rfl | rfl | rfl | rfl | rfl <;> exact ⟨_, rfl⟩

end Sys2Proof.Proofs


/-! The checks of a descriptor, and the ends of one that a check finds (04 R147, Table 4-11). -/

namespace Sys2Proof.Proofs

open Sys2Proof.Machine Sys2Proof.Safety Sys2Proof.Laws

@[simp] theorem engLog_engines (s : State) (g cls reaction : Nat) (st : Byte) (detail : Nat) :
    (engLog s g cls reaction st detail).engines = s.engines := logF_engines _ _

@[simp] theorem engLog_dies (s : State) (g cls reaction : Nat) (st : Byte) (detail : Nat) :
    (engLog s g cls reaction st detail).dies = s.dies := logF_dies _ _

@[simp] theorem eng_engLog (s : State) (g cls reaction : Nat) (st : Byte) (detail h : Nat) :
    eng (engLog s g cls reaction st detail) h = eng s h := eng_of_engines (engLog_engines ..) h

theorem engDone_dies (s : State) (g : Nat) (st : Byte) (ws : List Word) (skip : Bool) : (engDone s g st ws skip).dies = s.dies := by
  obtain ⟨e, n, h⟩ := engDone_eq s g st ws skip
  rw [h]

/-! Steps 1 and 2 of Table 4-11. -/

section

variable {s t : State} {g : EngId} {ws : List Word} {o : EngOp}

theorem runEng_skips {ok : Bool} {st : Byte} (h : nextDesc s g = some (ws, ok, t)) (hs : (eng t g).skipSt = some st) :
    runEng g o s = .next (engDone t g st ws false) := by
  simp [runEng, h, runDesc, hs]

theorem runEng_badCheck {ok : Bool} (h : nextDesc s g = some (ws, ok, t)) (hs : (eng t g).skipSt = none)
    (hc : ok = false ∨ sealOk ws = false) : runEng g o s = .next (engDone
      (engLog (modEng t g (fun e => { e with dcrc := true })) g 0x02 1 stBadCheck (tagOf ws)) g stBadCheck ws false) := by
  have hb : (!ok || !sealOk ws) = true := by simpa using hc
  simp [runEng, h, runDesc, hs, hb]

theorem runEng_badOpcode (h : nextDesc s g = some (ws, true, t)) (hs : (eng t g).skipSt = none) (hc : sealOk ws = true)
    (hd : opDefined ws = false) : runEng g o s = .next (engDone (engLog t g 0x11 0 stBadOpcode (tagOf ws)) g stBadOpcode ws false) := by
  simp [runEng, h, runDesc, hs, hc, hd]

end

/-- Settles O31: a row takes its descriptor by Table 4-11, whose first steps do not look at the row. -/
theorem descriptorChecks : Obligations.DescriptorChecks := by
  intro s g x r ws ok t hr hn hc
  obtain ⟨o, ho⟩ := engineRows_run hr s
  have hu := nextDesc_unstarted hn
  rw [ho]
  refine ⟨fun st hs => ⟨_, runEng_skips hn hs, ran_engDone (onlyEngine_refl t g) hu.done hu.late _ _ _⟩,
    fun hs hb => ⟨_, runEng_badCheck hn hs hb, ended_engDone ?_ ?_ _ _ _, ?_, ?_, ?_⟩, fun hs hok hl hd => ?_⟩
  · simp [hu.done]
  · simp [hu.late]
  · rw [eng_engDone (by simp [hc])]
    simp [descEnded]
  · rw [eng_engDone (by simp [hc])]
    simp [descEnded]
  · rw [engDone_dies, engLog_dies]
    rfl
  · subst hok
    refine ⟨_, runEng_badOpcode hn hs hl hd, ended_engDone ?_ ?_ _ _ _, ?_, ?_⟩
    · simp [hu.done]
    · simp [hu.late]
    · rw [eng_engDone (by simp [hc])]
      simp [descEnded]
    · rw [engDone_dies, engLog_dies]

end Sys2Proof.Proofs


/-! Stores byte by byte, and rows of integers in them (04 R137; 05 R178, R179, R199). -/

namespace Sys2Proof.Proofs

open Sys2Proof.Machine Sys2Proof.Safety Sys2Proof.Laws

/-! Reads beside a write, and after many. -/

theorem memRd_memWr_apart (m : Mem) {a b n : Nat} {bs : List Byte} (h : b + n ≤ a ∨ a + bs.length ≤ b) :
    memRd (memWr m a bs) b n = memRd m b n := by
  have hc : (cellsFrom m.fill a bs).filter (fun c => decide (b ≤ c.1) && decide (c.1 < b + n)) = [] := by
    rw [List.filter_eq_nil_iff]
    intro c hc
    have := cellsFrom_range hc
    simp only [Bool.and_eq_true, decide_eq_true_eq]
    omega
  have hm : (memWr m a bs).cells.filter (fun c => decide (b ≤ c.1) && decide (c.1 < b + n)) =
      m.cells.filter (fun c => decide (b ≤ c.1) && decide (c.1 < b + n)) := by
    simp only [memWr, List.filter_append, hc, List.filter_filter]
    have hk {l : List Host.Cell} {q : Host.Cell → Bool} (hq : ∀ c : Host.Cell, b ≤ c.1 → c.1 < b + n → q c = true) :
        l.filter (fun c => decide (b ≤ c.1) && decide (c.1 < b + n) && q c) = l.filter (fun c => decide (b ≤ c.1) && decide (c.1 < b + n)) :=
      List.filter_congr (fun c _ => by
        rw [Bool.eq_iff_iff]
        simp only [Bool.and_eq_true, decide_eq_true_eq]
        exact ⟨fun h => h.1, fun h => ⟨h, hq c h.1 h.2⟩⟩)
    have hz {l : List Host.Cell} {q : Host.Cell → Bool} (hq : ∀ c : Host.Cell, b ≤ c.1 → c.1 < b + n → q c = false) :
        l.filter (fun c => decide (b ≤ c.1) && decide (c.1 < b + n) && q c) = [] :=
      List.filter_eq_nil_iff.2 (fun c _ => by
        simp only [Bool.and_eq_true, decide_eq_true_eq]
        rintro ⟨⟨h1, h2⟩, h3⟩
        rw [hq c h1 h2] at h3
        cases h3)
    rcases h with h | h
    · rw [hk (fun c _ _ => decide_eq_true (by omega)), hz (fun c _ _ => decide_eq_false (by omega)), List.append_nil, List.append_nil]
    · rw [hz (fun c _ _ => decide_eq_false (by omega)), hk (fun c _ _ => decide_eq_true (by omega)), List.append_nil, List.nil_append]
  unfold memRd
  rw [hm]
  rfl

/-- Writes one after the other: address and bytes. -/
def memWrs (m : Mem) (l : List (Nat × List Byte)) : Mem := l.foldl (fun m w => memWr m w.1 w.2) m

@[simp] theorem memWrs_append (m : Mem) (l k : List (Nat × List Byte)) : memWrs m (l ++ k) = memWrs (memWrs m l) k :=
  List.foldl_append

@[simp] theorem memWrs_singleton (m : Mem) (w : Nat × List Byte) : memWrs m [w] = memWr m w.1 w.2 := rfl

theorem memWf_memWrs {m : Mem} (h : memWf m = true) (l : List (Nat × List Byte)) : memWf (memWrs m l) = true := by
  induction l using List.reverseRecOn with
  | nil => exact h
  | append_singleton l w ih => rw [memWrs_append]; exact memWf_memWr _ _ _ ih

/-- A write stands that every other one leaves alone. -/
theorem memRd_memWrs {m : Mem} {w : Nat × List Byte} {l : List (Nat × List Byte)} (hw : w ∈ l)
    (hd : ∀ x ∈ l, x = w ∨ w.1 + w.2.length ≤ x.1 ∨ x.1 + x.2.length ≤ w.1) :
    memRd (memWrs m l) w.1 w.2.length = w.2 := by
  induction l using List.reverseRecOn with
  | nil => simp at hw
  | append_singleton l x ih =>
    rw [memWrs_append, memWrs_singleton]
    by_cases hx : x = w
    · rw [hx, memRd_memWr]
    · rw [memRd_memWr_apart _ ((hd x (by simp)).resolve_left hx)]
      exact ih (by simpa [Ne.symm hx] using hw) (fun y hy => hd y (by simp [hy]))

theorem memByte_memWrs_outside {m : Mem} {b : Nat} {l : List (Nat × List Byte)}
    (h : ∀ x ∈ l, b < x.1 ∨ x.1 + x.2.length ≤ b) : memByte (memWrs m l) b = memByte m b := by
  induction l using List.reverseRecOn with
  | nil => rfl
  | append_singleton l x ih =>
    rw [memWrs_append, memWrs_singleton, memByte_memWr_outside _ (h x (by simp)), ih (fun y hy => h y (by simp [hy]))]

/-! A store in canonical form reads byte by byte. -/

theorem find_rising_none {l : List Host.Cell} {n a : Nat} (h : risingFrom n l = true) (ha : a < n) :
    l.find? (fun c => c.1 == a) = none := by
  rw [List.find?_eq_none]
  intro c hc he
  have := rising_ge h c hc
  have := beq_iff_eq.1 he
  omega

/-- The cells behind the first change no byte before them. -/
theorem memByte_cons_ne {f : Fill} {c : Host.Cell} {l : List Host.Cell} {b : Nat} (h : c.1 ≠ b) :
    memByte { cells := c :: l, fill := f } b = memByte { cells := l, fill := f } b := by
  simp [memByte, h]

theorem walkRd_rising (f : Fill) : ∀ (n a : Nat) (l : List Host.Cell), risingFrom a l = true →
    walkRd f n a l = (List.range n).map (fun i => memByte { cells := l, fill := f } (a + i))
  | 0, _, _, _ => rfl
  | n + 1, a, [], _ => by
    have ih := walkRd_rising f n (a + 1) [] rfl
    simp [walkRd, ih, List.range_succ_eq_map, memByte, Function.comp_def, Nat.add_assoc, Nat.add_comm 1]
  | n + 1, a, c :: r, h => by
    simp only [risingFrom, Bool.and_eq_true, decide_eq_true_eq] at h
    obtain ⟨hc, hr⟩ := h
    unfold walkRd
    split
    · next ha =>
      rw [walkRd_rising f n (a + 1) r (rising_mono hr (by omega)), List.range_succ_eq_map, List.map_cons, List.map_map]
      congr 1
      · simp [memByte, ha]
      · refine List.map_congr_left (fun i _ => ?_)
        have hne : c.1 ≠ a + (i + 1) := by omega
        simp [memByte_cons_ne hne, Nat.add_assoc, Nat.add_comm 1]
    · next ha =>
      have hr' : risingFrom (a + 1) (c :: r) = true := by
        simp only [risingFrom, Bool.and_eq_true, decide_eq_true_eq]
        exact ⟨by omega, hr⟩
      rw [walkRd_rising f n (a + 1) (c :: r) hr', List.range_succ_eq_map, List.map_cons, List.map_map]
      congr 1
      · rw [memByte, find_rising_none hr' (by omega)]
        rfl
      · refine List.map_congr_left (fun i _ => ?_)
        simp [Nat.add_assoc, Nat.add_comm 1]

theorem memRd_eq_map {m : Mem} (h : memWf m = true) (a n : Nat) :
    memRd m a n = (List.range n).map (fun i => memByte m (a + i)) := by
  have hr := rising_filter (fun c => decide (a ≤ c.1) && decide (c.1 < a + n)) ((memWf_iff m).1 h).1
  have ha : risingFrom a (m.cells.filter (fun c => decide (a ≤ c.1) && decide (c.1 < a + n))) = true := by
    have hg : ∀ c ∈ m.cells.filter (fun c => decide (a ≤ c.1) && decide (c.1 < a + n)), a ≤ c.1 := fun c hc => by
      have := (List.mem_filter.1 hc).2
      simp only [Bool.and_eq_true, decide_eq_true_eq] at this
      exact this.1
    revert hr hg
    generalize m.cells.filter _ = l
    intro hr hg
    cases l with
    | nil => rfl
    | cons c r =>
      simp only [risingFrom, Bool.and_eq_true, decide_eq_true_eq] at hr ⊢
      exact ⟨hg c (by simp), hr.2⟩
  unfold memRd
  rw [walkRd_rising _ _ _ _ ha]
  refine List.map_congr_left (fun i hi => ?_)
  have hi : i < n := List.mem_range.1 hi
  unfold memByte
  dsimp only
  rw [find_filter_of_imp]
  intro c hc
  have := beq_iff_eq.1 hc
  simp only [Bool.and_eq_true, decide_eq_true_eq]
  omega

/-- A part of a read is a read. -/
theorem memRd_part {m : Mem} (h : memWf m = true) {a n k j : Nat} (hk : k + j ≤ n) :
    ((memRd m a n).drop k).take j = memRd m (a + k) j := by
  rw [memRd_eq_map h, memRd_eq_map h]
  refine List.ext_getElem (by simp; omega) (fun i h1 h2 => ?_)
  simp [Nat.add_assoc]

theorem memRd_one {m : Mem} (h : memWf m = true) (a : Nat) : memRd m a 1 = [memByte m a] := by
  rw [memRd_eq_map h]
  rfl

/-! Integers of `n` bits. -/

theorem leNat_natLe (n v : Nat) : leNat (natLe n v) = v % 2 ^ (8 * n) := by
  induction n generalizing v with
  | zero => simp [natLe, leNat, Nat.mod_one]
  | succ n ih =>
    have hb : (BitVec.ofNat 8 v).toNat = v % 256 := by simp
    rw [natLe, leNat, ih, hb, show 8 * (n + 1) = 8 + 8 * n from by omega, Nat.pow_add, Nat.mod_mul]

theorem natLe_length (n v : Nat) : (natLe n v).length = n := by
  induction n generalizing v with
  | zero => rfl
  | succ n ih => rw [natLe, List.length_cons, ih]

/-- A value within `n` bits is its two's complement read back. -/
theorem sx_tc {n : Nat} (hn : 0 < n) {v : Int} (hl : -(2 ^ (n - 1) : Nat) ≤ v) (hh : v < (2 ^ (n - 1) : Nat)) : sx n (tc n v) = v := by
  obtain ⟨k, rfl⟩ : ∃ k, n = k + 1 := ⟨n - 1, by omega⟩
  have hp : (2 ^ (k + 1) : Nat) = 2 * 2 ^ k := by rw [Nat.pow_succ]; omega
  rw [Nat.add_sub_cancel] at hl hh
  have ht : tc (k + 1) v < 2 ^ (k + 1) := by
    unfold tc
    have := Int.emod_lt_of_pos v (show (0 : Int) < (2 ^ (k + 1) : Nat) by exact_mod_cast Nat.two_pow_pos _)
    have := Int.emod_nonneg v (show ((2 ^ (k + 1) : Nat) : Int) ≠ 0 by exact_mod_cast (Nat.two_pow_pos _).ne')
    omega
  have he : v = tc (k + 1) v ∨ v = (tc (k + 1) v : Int) - (2 ^ (k + 1) : Nat) := by
    have hc : ((tc (k + 1) v : Nat) : Int) = v % (2 ^ (k + 1) : Nat) :=
      Int.toNat_of_nonneg (Int.emod_nonneg v (by exact_mod_cast (Nat.two_pow_pos _).ne'))
    rw [hc]
    rcases Int.lt_or_le v 0 with h0 | h0
    · right
      rw [← Int.add_emod_right, Int.emod_eq_of_lt] <;> omega
    · left
      rw [Int.emod_eq_of_lt] <;> omega
  unfold sx
  rw [Nat.mod_eq_of_lt ht, Nat.add_sub_cancel]
  split <;> omega

theorem sat32_range (v : Int) : -2147483648 ≤ Safety.sat32 v ∧ Safety.sat32 v ≤ 2147483647 := by
  unfold Safety.sat32 clampI
  split
  · omega
  · split <;> omega

theorem satInt_32 (v : Int) : (satInt 32 v).1 = Safety.sat32 v := by
  unfold satInt Safety.sat32 clampI
  norm_num
  split
  · rfl
  · split <;> rfl

/-- A saturated value reads back as it was written. -/
theorem sx_leNat_sat32 (v : Int) : sx 32 (leNat (natLe 4 (tc 32 (Safety.sat32 v)))) = Safety.sat32 v := by
  have hr := sat32_range v
  have hs := sx_tc (n := 32) (by omega) (v := Safety.sat32 v) (by norm_num; omega) (by norm_num; omega)
  rw [leNat_natLe]
  unfold sx at hs ⊢
  rwa [Nat.mod_mod_of_dvd _ (by norm_num)]

/-! Rows. -/

@[simp] theorem tally_fst {α β : Type} (f : α → β × Cnt) (l : List α) : (tally f l).1 = l.map (fun a => (f a).1) := by
  induction l with
  | nil => rfl
  | cons x l ih => simp [tally, ← ih]

theorem flatMap_part {α β : Type} {f : α → List β} {k : Nat} (hf : ∀ a, (f a).length = k) (l : List α) (i : Nat) (hi : i < l.length) :
    ((l.flatMap f).drop (k * i)).take k = f l[i] := by
  induction l generalizing i with
  | nil => simp at hi
  | cons x l ih =>
    cases i with
    | zero => simp [List.take_append_of_le_length (Nat.le_of_eq (hf x).symm), List.take_of_length_le (Nat.le_of_eq (hf x))]
    | succ i =>
      rw [List.flatMap_cons, Nat.mul_succ, Nat.add_comm, ← List.drop_drop, List.drop_append_of_le_length (Nat.le_of_eq (hf x).symm),
        List.drop_of_length_le (Nat.le_of_eq (hf x)), List.nil_append, ih i (by simpa using hi)]
      rfl

theorem flatMap_const_length {α β : Type} {f : α → List β} {k : Nat} (hf : ∀ a, (f a).length = k) (l : List α) :
    (l.flatMap f).length = k * l.length := by
  simp [hf, Nat.mul_comm]

/-- A format of whole bytes, whose rows hold their elements one behind the other. -/
structure ByteFmt (f k : Nat) : Prop where
  bits : fmtBits f = 8 * k
  ne4  : f ≠ 0
  neB  : f ≠ 8

theorem byteFmt_int8 : ByteFmt 1 1 := ⟨rfl, by decide, by decide⟩
theorem byteFmt_int32 : ByteFmt fmtInt32 4 := ⟨rfl, by decide, by decide⟩

section

variable {f k : Nat} (hf : ByteFmt f k)
include hf

theorem rowBytes_byteFmt (n : Nat) : rowBytes f n = k * n := by
  rw [rowBytes, if_neg hf.neB, hf.bits, cdiv, show n * (8 * k) = 8 * (k * n) by ring]
  omega

theorem codesRow_byteFmt (cs : List Nat) : codesRow f cs = cs.flatMap (natLe k) := by
  have h := Nat.mul_div_cancel_left k (show 0 < 8 by omega)
  rw [codesRow, if_neg hf.ne4, hf.bits, h]

theorem codesRow_length (cs : List Nat) : (codesRow f cs).length = k * cs.length := by
  rw [codesRow_byteFmt hf, flatMap_const_length (natLe_length k)]

/-- An integer row of a store, element by element. -/
theorem rowNums_int (hi : isInt f = true) {m : Mem} (hm : memWf m = true) (a n : Nat) : rowNums f n (memRd m a (rowBytes f n)) =
    ((List.range n).map (fun i => .int (sx (8 * k) (leNat (memRd m (a + k * i) k)))), cnt0) := by
  have h := Nat.mul_div_cancel_left k (show 0 < 8 by omega)
  rw [rowNums, if_neg hf.neB, rowCodes, if_neg hf.ne4, hf.bits, h, rowBytes_byteFmt hf]
  dsimp only
  rw [List.map_map]
  refine congrArg (·, cnt0) (List.map_congr_left (fun i hin => ?_))
  have hin : i < n := List.mem_range.1 hin
  have hp : k * i + k ≤ k * n := by
    calc k * i + k = k * (i + 1) := by ring
      _ ≤ k * n := Nat.mul_le_mul_left k hin
  simp [codeNum, hi, hf.bits, memRd_part hm hp]

end

/-- An integer row written as INT32. -/
theorem numsRow_int32 (trunc : Bool) (vs : List Int) : (numsRow fmtInt32 trunc (vs.map .int)).1 =
    vs.flatMap (fun v => natLe 4 (tc 32 (Safety.sat32 v))) := by
  have hc (v : Int) : (numCode fmtInt32 trunc (.int v)).1 = tc 32 (Safety.sat32 v) := by
    rw [← satInt_32]
    rfl
  rw [numsRow, if_neg byteFmt_int32.neB]
  dsimp only
  rw [codesRow_byteFmt byteFmt_int32, tally_fst, List.map_map, List.flatMap_map]
  refine List.flatMap_congr (fun v _ => ?_)
  simp only [Function.comp_apply, hc]

/-- What an INT32 row that has been written reads as. -/
theorem int32At_row {m : Mem} (hm : memWf m = true) {a : Nat} {vs : List Int}
    (h : memRd m a (4 * vs.length) = vs.flatMap (fun v => natLe 4 (tc 32 (Safety.sat32 v)))) (i : Nat) (hi : i < vs.length) :
    int32At m (a + 4 * i) = Safety.sat32 vs[i] := by
  rw [int32At, ← memRd_part hm (n := 4 * vs.length) (by omega), h,
    flatMap_part (fun _ => natLe_length 4 _) vs i hi, sx_leNat_sat32]

end Sys2Proof.Proofs


/-! Integer products: the accumulators, their check column and their residue channel (04 R138, R142-R146; 05 R189, R190). -/

namespace Sys2Proof.Proofs

open Sys2Proof.Machine Sys2Proof.Safety Sys2Proof.Laws

/-! 48 bits. -/

theorem wrap48_emod (v : Int) : wrap48 v % 2 ^ 48 = v % 2 ^ 48 := by
  unfold wrap48 sx tc
  norm_num
  split <;> omega

theorem wrap48_eq_iff (a b : Int) : wrap48 a = wrap48 b ↔ a % 2 ^ 48 = b % 2 ^ 48 := by
  constructor
  · intro h
    rw [← wrap48_emod a, h, wrap48_emod]
  · intro h
    have ht : tc 48 a = tc 48 b := congrArg Int.toNat (by exact_mod_cast h)
    rw [wrap48, ht, wrap48]

theorem wrap48_exact {v : Int} (h : |v| < 2 ^ 47) : wrap48 v = v := by
  have h := abs_lt.1 h
  exact sx_tc (by omega) (by norm_num; omega) (by norm_num; omega)

theorem wrap48_wrap48 (v : Int) : wrap48 (wrap48 v) = wrap48 v := (wrap48_eq_iff ..).2 (wrap48_emod v)

theorem sum_wrap48_emod {α : Type} (f : α → Int) (l : List α) : (l.map (fun a => wrap48 (f a))).sum % 2 ^ 48 = (l.map f).sum % 2 ^ 48 := by
  induction l with
  | nil => rfl
  | cons a l ih => rw [List.map_cons, List.map_cons, List.sum_cons, List.sum_cons, Int.add_emod, wrap48_emod, ih, ← Int.add_emod]

/-! Sums of products. -/

@[simp] theorem dotX_nil_left (b : List Int) : dotX [] b = 0 := rfl
@[simp] theorem dotX_nil_right (a : List Int) : dotX a [] = 0 := by simp [dotX]
@[simp] theorem dotX_cons (x y : Int) (a b : List Int) : dotX (x :: a) (y :: b) = x * y + dotX a b := rfl

theorem dotX_eq (a b : List Int) (k : Nat) (h : b.length ≤ k) : dotX a b = ∑ i ∈ Finset.range k, a.getD i 0 * b.getD i 0 := by
  induction b generalizing a k with
  | nil => simp
  | cons y b ih =>
    obtain ⟨j, rfl⟩ : ∃ j, k = j + 1 := ⟨k - 1, by simp at h; omega⟩
    cases a with
    | nil => simp
    | cons x a =>
      rw [dotX_cons, Finset.sum_range_succ', ih a j (by simpa using h), add_comm]
      simp

/-- A product with the row sums is the sum of the products. -/
theorem dotX_rowSums (a : List Int) (k : Nat) (l : List (List Int)) (h : ∀ c ∈ l, c.length ≤ k) :
    dotX a (rowSums k l) = (l.map (dotX a)).sum := by
  have hs (i : Nat) (hi : i ∈ Finset.range k) : (rowSums k l).getD i 0 = (l.map (fun c => c.getD i 0)).sum := by
    simp [rowSums, Finset.mem_range.1 hi]
  rw [dotX_eq a _ k (by simp [rowSums]), Finset.sum_congr rfl (fun i hi => by rw [hs i hi])]
  clear hs
  induction l with
  | nil => simp
  | cons c l ih =>
    rw [List.map_cons, List.sum_cons, dotX_eq a c k (h c (by simp)), ← ih (fun d hd => h d (by simp [hd])), ← Finset.sum_add_distrib]
    simp [mul_add]

theorem dotX_abs {a b : List Int} {A B : Int} (ha : ∀ v ∈ a, |v| ≤ A) (hb : ∀ v ∈ b, |v| ≤ B) (hA : 0 ≤ A) (hB : 0 ≤ B) :
    |dotX a b| ≤ A * B * b.length := by
  induction b generalizing a with
  | nil => simp
  | cons y b ih =>
    cases a with
    | nil => simp only [dotX_nil_left, abs_zero]; positivity
    | cons x a =>
      have h1 : |x * y| ≤ A * B := by
        rw [abs_mul]
        exact mul_le_mul (ha x (by simp)) (hb y (by simp)) (abs_nonneg _) hA
      have h2 := ih (a := a) (fun v hv => ha v (by simp [hv])) (fun v hv => hb v (by simp [hv]))
      calc |dotX (x :: a) (y :: b)| ≤ |x * y| + |dotX a b| := abs_add_le _ _
        _ ≤ A * B + A * B * b.length := add_le_add h1 h2
        _ = A * B * (y :: b).length := by push_cast [List.length_cons]; ring

theorem residue_eq (start : Int) (a b : List Int) : residue start a b = (start + dotX a b).emod 3 := by
  induction b generalizing a start with
  | nil => simp [residue]
  | cons y b ih =>
    cases a with
    | nil => simp [residue]
    | cons x a =>
      have h : residue start (x :: a) (y :: b) = residue (start + x * y) a b := by
        unfold residue
        rw [List.zip_cons_cons, List.foldl_cons]
        congr 1
        change (start % 3 + x % 3 * (y % 3)) % 3 = (start + x * y) % 3
        simp [Int.add_emod, Int.mul_emod]
      rw [h, ih, dotX_cons, add_assoc]

/-! Columns by parts. -/

/-- The parts of a list make the list up. -/
theorem sum_parts {α ι : Type} [DecidableEq ι] (p : α → ι) (f : α → Int) (l : List α) :
    (((l.map p).eraseDups).map (fun q => ((l.filter (fun a => decide (p a = q))).map f).sum)).sum = (l.map f).sum := by
  obtain ⟨n, hn⟩ : ∃ n, l.length ≤ n := ⟨_, le_rfl⟩
  induction n generalizing l with
  | zero =>
    obtain rfl := List.length_eq_zero_iff.1 (Nat.le_zero.1 hn)
    rfl
  | succ n ih =>
    cases l with
    | nil => rfl
    | cons a l =>
      have hr : (l.map p).filter (fun b => !b == p a) = (l.filter (fun b => !decide (p b = p a))).map p := by
        rw [List.filter_map]
        exact congrArg (List.map p) (List.filter_congr (fun b _ => by simp [beq_eq_decide]))
      have hq (q : ι) (hm : q ∈ ((l.filter (fun b => !decide (p b = p a))).map p).eraseDups) :
          (a :: l).filter (fun b => decide (p b = q)) =
          (l.filter (fun b => !decide (p b = p a))).filter (fun b => decide (p b = q)) := by
        obtain ⟨b, hb, rfl⟩ := List.mem_map.1 (List.mem_eraseDups.1 hm)
        have hb : p b ≠ p a := by simpa using (List.mem_filter.1 hb).2
        rw [List.filter_cons_of_neg (by simpa using hb.symm), List.filter_filter]
        refine List.filter_congr (fun c _ => ?_)
        rw [Bool.eq_iff_iff]
        simp only [decide_eq_true_eq, Bool.and_eq_true, Bool.not_eq_true', decide_eq_false_iff_not]
        exact ⟨fun h => ⟨h, h ▸ hb⟩, fun h => h.1⟩
      have hs : ((l.filter (fun b => !decide (p b = p a))).map p).eraseDups.map
          (fun q => (((a :: l).filter (fun b => decide (p b = q))).map f).sum) = ((l.filter (fun b => !decide (p b = p a))).map p).eraseDups.map
          (fun q => (((l.filter (fun b => !decide (p b = p a))).filter (fun b => decide (p b = q))).map f).sum) :=
        List.map_congr_left (fun q hm => by rw [hq q hm])
      rw [List.map_cons, List.eraseDups_cons, hr, List.map_cons, List.sum_cons, hs, ih _ ((List.length_filter_le _ _).trans (by simpa using hn)),
        List.filter_cons_of_pos (by simp), List.map_cons, List.sum_cons, List.map_cons, List.sum_cons, add_assoc]
      congr 1
      simpa using List.sum_map_filter_add_sum_map_filter_not (fun b => p b = p a) f l

/-! A matrix of small integers. -/

/-- The operands of an integer product whose accumulators stay within 48 bits. -/
structure IntMat (x : Mat) : Prop where
  integer : x.integer = true
  short   : ∀ c ∈ x.cols, c.els.length ≤ x.k
  cols    : ∀ c ∈ x.cols, ∀ v ∈ ints c, |v| ≤ 2 ^ 15
  rows    : ∀ r n, ∀ v ∈ ints (x.row r n), |v| ≤ 2 ^ 15
  start   : ∀ r n, |numInt (x.start r n)| ≤ 2 ^ 31
  part    : x.again = none → ∀ r n n', x.part n = x.part n' → x.row r n = x.row r n'
  size    : x.k ≤ 131069

theorem mem_group {x : Mat} {j : Nat} {c : Vec × Nat} (h : c ∈ x.group j) : c.1 ∈ x.cols := by
  have hc := List.fst_mem_of_mem_zipIdx h
  exact List.mem_of_mem_drop (List.mem_of_mem_take hc)

/-- What the accumulator of row `r` and a column comes to, exactly. -/
def exact (x : Mat) (r : Nat) (c : Vec × Nat) : Int := numInt (x.start r c.2) + dotX (ints (x.row r c.2)) (ints c.1)

/-- The error in the accumulator of row `r` and column `n`. -/
def colErr (x : Mat) (u : Option Upset) (r n : Nat) : Int := accErr u r n + ((List.range x.k).map (termErr u r n)).sum

@[simp] theorem colErr_none (x : Mat) (r n : Nat) : colErr x none r n = 0 := by
  have h : termErr none r n = fun _ => 0 := rfl
  simp [colErr, accErr, h]

theorem rowInt_vals (x : Mat) (u : Option Upset) (r : Nat) (cs : List (Vec × Nat)) :
    (rowInt x u r cs).vals = cs.map (fun c => .int (wrap48 (exact x r c + colErr x u r c.2))) := by
  simp [rowInt, dotI, exact, colErr]

theorem rowInt_repeated {x : Mat} {f : Nat → Nat} (hag : x.again = some f) (r : Nat) (cs : List (Vec × Nat)) :
    (rowInt x none r cs).sum = false := by
  have he (n : Nat) : accErr none r n + ((List.range x.k).map (termErr none r n)).sum = 0 := colErr_none x r n
  simp only [rowInt, repeated, hag, Option.isSome_some, Option.isNone_some, Bool.true_and, Bool.false_and]
  cases hi : cs[f r % max 1 cs.length]? with
  | none => simp
  | some c => simp [List.getD_eq_getElem?_getD, hi, he]

section

variable {x : Mat} (hx : IntMat x)
include hx

theorem exact_lt {r : Nat} {c : Vec × Nat} (hc : c.1 ∈ x.cols) : |exact x r c| < 2 ^ 47 := by
  have hd := dotX_abs (hx.rows r c.2) (hx.cols c.1 hc) (by norm_num) (by norm_num)
  have hl : ((ints c.1).length : Int) ≤ 131069 := by
    have := hx.short c.1 hc
    have := hx.size
    simp only [ints, List.length_map]
    omega
  have hs := hx.start r c.2
  calc |exact x r c| ≤ |numInt (x.start r c.2)| + |dotX (ints (x.row r c.2)) (ints c.1)| := abs_add_le _ _
    _ < 2 ^ 47 := by omega

/-- check_m is the sum of the accumulators of its row, exactly. -/
theorem checkInt_eq (hag : x.again = none) (r : Nat) {cs : List (Vec × Nat)} (hcs : ∀ c ∈ cs, c.1 ∈ x.cols) :
    checkInt x r cs = (cs.map (exact x r)).sum := by
  have hp (p : Nat) : dotX (ints (x.row r (((cs.filter (fun c => decide (x.part c.2 = p))).head?.map (·.2)).getD 0)))
      (rowSums x.k ((cs.filter (fun c => decide (x.part c.2 = p))).map (fun c => ints c.1))) =
      ((cs.filter (fun c => decide (x.part c.2 = p))).map (fun c => dotX (ints (x.row r c.2)) (ints c.1))).sum := by
    rw [dotX_rowSums, List.map_map]
    · refine congrArg List.sum (List.map_congr_left (fun c hc => ?_))
      obtain ⟨h, hh⟩ : ∃ h, (cs.filter (fun c => decide (x.part c.2 = p))).head? = some h :=
        Option.isSome_iff_exists.1 (List.isSome_head?.2 (List.ne_nil_of_mem hc))
      have h1 := of_decide_eq_true (List.mem_filter.1 (List.mem_of_head? hh)).2
      have h2 := of_decide_eq_true (List.mem_filter.1 hc).2
      rw [hh]
      exact congrArg (fun v => dotX (ints v) (ints c.1)) (hx.part hag r _ _ (h1.trans h2.symm))
    · intro l hl
      obtain ⟨c, hc, rfl⟩ := List.mem_map.1 hl
      simpa [ints] using hx.short c.1 (hcs c (List.mem_filter.1 hc).1)
  unfold checkInt
  dsimp only
  rw [List.map_congr_left (fun p _ => hp p), show cs.map (fun c => x.part c.2) = cs.map ((fun c => x.part c.2)) from rfl,
    sum_parts (fun c : Vec × Nat => x.part c.2) (fun c => dotX (ints (x.row r c.2)) (ints c.1)) cs]
  exact (List.sum_map_add).symm

/-- The check column finds what the errors of a row come to, in 48 bits. -/
theorem rowInt_sum (hag : x.again = none) (u : Option Upset) (r : Nat) {cs : List (Vec × Nat)} (hcs : ∀ c ∈ cs, c.1 ∈ x.cols) :
    (rowInt x u r cs).sum = decide ((cs.map (fun c => colErr x u r c.2)).sum % 2 ^ 48 ≠ 0) := by
  have hv : (cs.map (fun c => wrap48 (exact x r c + colErr x u r c.2))).sum % 2 ^ 48 =
      (checkInt x r cs + (cs.map (fun c => colErr x u r c.2)).sum) % 2 ^ 48 := by
    rw [sum_wrap48_emod, checkInt_eq hx hag r hcs]
    exact congrArg (· % 2 ^ 48) List.sum_map_add
  have hr : (rowInt x u r cs).sum = decide (wrap48 (cs.map (fun c => wrap48 (exact x r c + colErr x u r c.2))).sum ≠ wrap48 (checkInt x r cs)) := by
    simp only [rowInt, repeated, hag, Option.isNone_none, Bool.true_and]
    rfl
  rw [hr]
  refine decide_eq_decide.2 (not_congr ?_)
  rw [wrap48_eq_iff, hv, Int.emod_eq_emod_iff_emod_sub_eq_zero, add_sub_cancel_left]

/-- The residue channel finds nothing in accumulators without an error. -/
theorem rowInt_res {u : Option Upset} {r : Nat} {cs : List (Vec × Nat)} (hcs : ∀ c ∈ cs, c.1 ∈ x.cols)
    (h0 : ∀ c ∈ cs, colErr x u r c.2 = 0) : (rowInt x u r cs).res = false := by
  unfold rowInt
  dsimp only
  rw [List.any_eq_false]
  intro c hc
  obtain ⟨i, hi, rfl⟩ := List.mem_iff_getElem.1 hc
  have hw : cs[i]'(by simpa using hi) ∈ cs := List.getElem_mem _
  have hl := exact_lt hx (r := r) (hcs _ hw)
  have he := h0 _ hw
  rw [exact] at hl
  rw [colErr] at he
  simp only [List.getElem_zip, List.getElem_map, residue_eq, decide_eq_true_eq, not_not]
  rw [he, dotI, add_zero, wrap48_exact hl]

/-- Without an upset the checks of an integer product find nothing. -/
theorem intMat_quiet (ftol : Nat) : quiet x ftol := by
  intro idx k
  have hc (c : Vec × Nat) (h : c ∈ x.group (k / x.m)) := mem_group h
  rw [rowOut, if_pos hx.integer]
  refine ⟨?_, rowInt_res hx hc (fun c _ => colErr_none x _ _)⟩
  cases hag : x.again with
  | none => simp [rowInt_sum hx hag none _ hc]
  | some f => exact rowInt_repeated hag _ _

end

end Sys2Proof.Proofs


/-! The operands of integer products (04 R138, R232-R235). -/

namespace Sys2Proof.Proofs

open Sys2Proof.Machine Sys2Proof.Safety Sys2Proof.Laws

theorem sx_abs {n : Nat} (hn : 0 < n) (v : Nat) : |sx n v| ≤ 2 ^ (n - 1) := by
  obtain ⟨k, rfl⟩ : ∃ k, n = k + 1 := ⟨n - 1, by omega⟩
  have hp : 2 ^ (k + 1) = 2 * 2 ^ k := Nat.pow_succ'
  have hm := Nat.mod_lt v (Nat.two_pow_pos (k + 1))
  have hc : ((2 ^ k : Nat) : Int) = 2 ^ k := by push_cast; rfl
  rw [abs_le, Nat.add_sub_cancel, ← hc]
  unfold sx
  rw [Nat.add_sub_cancel]
  split <;> omega

/-- Elements that are integers of at most 16 bits, or that count as 0. -/
def Small (l : List Machine.Num) : Prop := ∀ y ∈ l, |numInt y| ≤ 2 ^ 15

theorem small_ints {v : Vec} (h : Small v.els) : ∀ i ∈ ints v, |i| ≤ 2 ^ 15 := by
  intro i hi
  obtain ⟨y, hy, rfl⟩ := List.mem_map.1 hi
  exact h y hy

theorem small_map {α : Type} {f : α → Machine.Num} (h : ∀ a, |numInt (f a)| ≤ 2 ^ 15) (l : List α) : Small (l.map f) := by
  intro y hy
  obtain ⟨a, -, rfl⟩ := List.mem_map.1 hy
  exact h a

theorem small_getD {l : List Machine.Num} (h : Small l) (i : Nat) {d : Machine.Num} (hd : numInt d = 0) : |numInt (l.getD i d)| ≤ 2 ^ 15 := by
  by_cases hi : i < l.length
  · rw [List.getD_eq_getElem _ _ hi]
    exact h _ (List.getElem_mem hi)
  · rw [List.getD_eq_default _ _ (by omega), hd]
    norm_num

theorem codeNum_small {f : Nat} (hf : f ≤ 2) (c : Nat) : |numInt (codeNum f c)| ≤ 2 ^ 15 := by
  have hi : isInt f = true := by simp [isInt, hf]
  rw [codeNum, if_pos hi]
  refine (sx_abs (by interval_cases f <;> decide) c).trans ?_
  exact pow_le_pow_right₀ (by norm_num) (by interval_cases f <;> decide)

theorem rowNums_small {f : Nat} (hf : f ≤ 2) (n : Nat) (bs : List Byte) : Small (rowNums f n bs).1 := by
  rw [rowNums, if_neg (by omega)]
  exact small_map (codeNum_small hf) _

theorem start_abs (s : State) (g : Nat) (en : Bool) (addr : Nat → Nat → Nat) (r c : Nat) :
    |numInt (startOf s g true en addr r c)| ≤ 2 ^ 31 := by
  cases en
  · simp [startOf, numInt]
  · exact sx_abs (n := 32) (by omega) _

/-! GEMM and GEMM_AA. -/

/-- The columns of an integer GEMM or GEMM_AA. -/
def GoodCols (k : Nat) (cols : List Vec) : Prop := ∀ c ∈ cols, c.els.length ≤ k ∧ Small c.els

theorem gInt_le {ws : List Word} (h : gInt ws = true) : dFa ws ≤ 2 ∧ dFb ws ≤ 2 := by
  simpa [gInt, pairInt] using h

theorem tileCol_good {f : Nat} (hf : f ≤ 2) (kt tiles k c : Nat) (bs : List Byte) :
    (tileCol f kt tiles k c bs).els.length ≤ k ∧ Small (tileCol f kt tiles k c bs).els := by
  rw [tileCol, if_neg (by omega)]
  refine ⟨?_, small_map (fun _ => codeNum_small hf _) _⟩
  simp only [List.length_map, List.length_take]
  omega

theorem gemmCols_good {ws : List Word} (h : gInt ws = true) (bs : List Byte) : GoodCols (gK ws) (gemmCols ws bs) := by
  intro c hc
  obtain ⟨n, -, rfl⟩ := List.mem_map.1 hc
  exact tileCol_good (gInt_le h).2 ..

theorem gemmAaCols_eq {ws : List Word} (h : dFb ws ≠ 8) (s : State) (g : Nat) : (gemmAaCols s g ws).1 =
    (List.range (gN ws)).map (fun c => { blks := [], els := (List.range (gK ws)).map (fun i =>
      (rowNums (dFb ws) (gN ws) (rsRd s g (df ws 7 14 0 + i * df ws 7 30 16) (rowBytes (dFb ws) (gN ws)))).1.getD c (.fl fzero)) }) := by
  simp only [gemmAaCols, colsFromRows, if_neg h, tally_fst, List.map_map]
  rfl

theorem gemmAaCols_good {ws : List Word} (h : gInt ws = true) (s : State) (g : Nat) : GoodCols (gK ws) (gemmAaCols s g ws).1 := by
  have hb := (gInt_le h).2
  rw [gemmAaCols_eq (by omega)]
  intro c hc
  obtain ⟨n, -, rfl⟩ := List.mem_map.1 hc
  refine ⟨by simp, small_map (fun i => ?_) _⟩
  exact small_getD (rowNums_small hb _ _) _ rfl

theorem aRows_getD (s : State) (g f line stride m k r : Nat) : ((aRows s g f line stride m k).1.getD r { els := [], blks := [] }).els =
    if r < m then (rowNums f k (rsRd s g (line + r * stride) (rowBytes f k))).1 else [] := by
  rw [aRows, tally_fst]
  split
  · next h => simp [h, vecOf]
  · next h => rw [List.getD_eq_default _ _ (by simpa using h)]

theorem gemm_intMat {ws : List Word} (h : gInt ws = true) (s : State) (g : Nat) {cols : List Vec} (hc : GoodCols (gK ws) cols) :
    IntMat (gemmMat s g ws cols) where
  integer := h
  short c hm := (hc c hm).1
  cols c hm := small_ints (hc c hm).2
  rows r n := small_ints (by
    change Small ((aRows ..).1.getD r { els := [], blks := [] }).els
    rw [aRows_getD]
    split
    · exact rowNums_small (gInt_le h).1 _ _
    · intro y hy
      cases hy)
  start r n := by
    change |numInt (startOf s g (gInt ws) ..)| ≤ _
    rw [h]
    exact start_abs ..
  part _ _ _ _ _ := rfl
  size := by
    have : gK ws < 2 ^ 16 := Nat.mod_lt _ (by norm_num)
    change gK ws ≤ 131069
    omega

/-! The convolutions. -/

theorem foldl_max_ge (l : List Nat) (a : Nat) : a ≤ l.foldl max a ∧ ∀ x ∈ l, x ≤ l.foldl max a := by
  induction l generalizing a with
  | nil => simp
  | cons b l ih =>
    have h := ih (max a b)
    simp only [List.foldl_cons, List.mem_cons, forall_eq_or_imp]
    exact ⟨(le_max_left a b).trans h.1, (le_max_right a b).trans h.1, h.2⟩

theorem aElem_small {d : ConvDesc} (hi : isInt d.fa = true) {plane : Nat → Nat → List Machine.Num} (h : ∀ c y, Small (plane c y)) (c : Nat) (y x : Int) :
    |numInt (aElem d plane c y x)| ≤ 2 ^ 15 := by
  have hz : |numInt (.int 0)| ≤ 2 ^ 15 := by norm_num [numInt]
  simp only [aElem, hi, if_true]
  generalize (if (decide (d.f ≠ 1) && !d.rgOut) = true then d.inH / d.f else d.inH) = m
  generalize (if (decide (d.f ≠ 1) && !d.rgOut) = true then d.inW / d.f else d.inW) = n
  split
  · exact hz
  · split
    · exact small_getD (h _ _) _ rfl
    · exact small_getD (h _ _) _ rfl

theorem convIn_small {d : ConvDesc} (hf : d.fa ≤ 2) (s : State) (g i : Nat) : Small ((convIn s g d).1.getD i []) := by
  rw [convIn, tally_fst]
  by_cases hi : i < d.cin * d.inH
  · rw [List.getD_eq_getElem _ _ (by simpa using hi), List.getElem_map]
    exact rowNums_small hf _ _
  · rw [List.getD_eq_default _ _ (by simpa using hi)]
    intro y hy
    cases hy

theorem pixelRow_small {d : ConvDesc} (hf : d.fa ≤ 2) (s : State) (g : Nat) (chs : List Nat) (r : Nat) :
    Small (pixelRow d (fun c y => (convIn s g d).1.getD (c * d.inH + y) []) chs r).els := by
  intro y hy
  obtain ⟨t, -, ht⟩ := List.mem_flatMap.1 hy
  obtain ⟨c, -, rfl⟩ := List.mem_map.1 ht
  exact aElem_small (by simp [isInt, hf]) (fun _ _ => convIn_small hf s g _) ..

/-- A plan whose columns are small integers, and in which the columns of a part read the same channels. -/
structure GoodPlan (p : ConvPlan) : Prop where
  cols : ∀ bs, ∀ c ∈ p.cols bs, Small c.els
  part : p.again = none → ∀ n n', p.part n = p.part n' → p.chans n = p.chans n'

theorem dense_good {d : ConvDesc} (hf : d.fb ≤ 2) : GoodPlan (densePlan d) where
  cols bs c hc := by
    obtain ⟨n, -, rfl⟩ := List.mem_map.1 hc
    intro y hy
    obtain ⟨v, hv, hy⟩ := List.mem_flatMap.1 hy
    obtain ⟨t, -, rfl⟩ := List.mem_map.1 hv
    exact (tileCol_good hf ..).2 y hy
  part _ _ _ _ := rfl

theorem grouped_good {d : ConvDesc} (hf : d.fb ≤ 2) : GoodPlan (groupedPlan d) where
  cols bs c hc := by
    obtain ⟨n, -, rfl⟩ := List.mem_map.1 hc
    intro y hy
    obtain ⟨t, -, ht⟩ := List.mem_flatMap.1 hy
    obtain ⟨i, -, rfl⟩ := List.mem_map.1 ht
    exact codeNum_small hf _
  part _ n n' h := by
    have h : n / d.gout = n' / d.gout := h
    simp only [groupedPlan, h]

theorem depth_good {d : ConvDesc} (hf : d.fb ≤ 2) : GoodPlan (depthPlan d) where
  cols bs c hc := by
    obtain ⟨n, -, rfl⟩ := List.mem_map.1 hc
    exact small_map (fun _ => codeNum_small hf _) _
  part h := by cases h

theorem conv_intMat {ws : List Word} (h : convInt (convDesc ws) = true) (s : State) (g : Nat) {p : ConvPlan} (hp : GoodPlan p)
    (bs : List Byte) (hk : (convMat s g ws p (p.cols bs)).k ≤ 131069) : IntMat (convMat s g ws p (p.cols bs)) where
  integer := h
  short c hm := (foldl_max_ge _ 0).2 _ (List.mem_map.2 ⟨c, hm, rfl⟩)
  cols c hm := small_ints (hp.cols bs c hm)
  rows r n := small_ints (by
    have hf : (convDesc ws).fa ≤ 2 := (by simpa [convInt, pairInt] using h : _ ∧ _).1
    exact pixelRow_small hf s g _ r)
  start r n := by
    change |numInt (startOf s g (convInt (convDesc ws)) ..)| ≤ _
    rw [h]
    exact start_abs ..
  part hag r n n' hn := by
    change pixelRow _ _ (p.chans n) r = pixelRow _ _ (p.chans n') r
    rw [hp.part hag n n' hn]
  size := hk

end Sys2Proof.Proofs


/-! The run of a matrix product and its end (04 R141-R147, R150-R156). -/

namespace Sys2Proof.Proofs

open Sys2Proof.Machine Sys2Proof.Safety Sys2Proof.Laws

/-! Rows in execution order. -/

/-- What a row drains. -/
def drained (x : Mat) (u : Option Upset) (ftol idx k : Nat) : Nat × Nat × List Machine.Num :=
  (k % x.m, k / x.m, (tally (fun c => x.fin (k % x.m) (x.width * (k / x.m) + c.2) c.1) (rowOut x u ftol idx k).vals.zipIdx).1)

theorem runMat_quiet {x : Mat} {u : Option Upset} {ftol idx : Nat} {ks : List Nat}
    (h : ∀ k ∈ ks, (rowOut x u ftol idx k).sum = false ∧ (rowOut x u ftol idx k).res = false) (o : MatOut) :
    (runMat x u ftol idx ks o).out = (ks.map (drained x u ftol idx)).reverse ++ o.out ∧
      (runMat x u ftol idx ks o).sum = o.sum ∧ (runMat x u ftol idx ks o).res = o.res := by
  induction ks generalizing o with
  | nil => exact ⟨rfl, rfl, rfl⟩
  | cons k ks ih =>
    obtain ⟨hs, hr⟩ := h k (by simp)
    rw [runMat]
    simp only [hs, hr, Bool.or_self, Bool.false_eq_true, if_false]
    obtain ⟨h1, h2, h3⟩ := ih (fun j hj => h j (by simp [hj])) _
    refine ⟨?_, h2, h3⟩
    rw [h1]
    simp [drained]

/-- The first row whose check column finds an error ends the run. -/
theorem runMat_finds {x : Mat} {u : Option Upset} {ftol idx : Nat} {ks : List Nat}
    (h : ∀ k ∈ ks, (rowOut x u ftol idx k).sum = true ∨ (rowOut x u ftol idx k).res = false)
    (he : ∃ k ∈ ks, (rowOut x u ftol idx k).sum = true) (o : MatOut) : (runMat x u ftol idx ks o).sum = true := by
  induction ks generalizing o with
  | nil => simp at he
  | cons k ks ih =>
    rw [runMat]
    cases hs : (rowOut x u ftol idx k).sum with
    | true => simp
    | false =>
      have hr : (rowOut x u ftol idx k).res = false := by simpa [hs] using h k (by simp)
      simp only [hr, Bool.or_self, Bool.false_eq_true, if_false]
      exact ih (fun j hj => h j (by simp [hj])) (by simpa [hs] using he) _

/-! The rows that are drained are written, then the descriptor ends. -/

/-- The state in which the rows of a product are in the store. -/
def matWritten (s : State) (g : EngId) (m : Nat) (c : Cnt) (o : MatOut) (put : State → Nat × Nat × List Machine.Num → State × Cnt) : State :=
  let w := o.out.reverse.foldl (fun (a : State × Cnt) x => let r := put a.1 x; (r.1, a.2.add r.2))
    (modEng (fresh s).2 g (fun e => o.acc.reverse.foldl (putAcc m) e), cnt0)
  addCnt w.1 g ((c.add o.cnt).add w.2)

theorem finishMat_eq (s : State) (g : EngId) (ws : List Word) (m : Nat) (c : Cnt) (o : MatOut) (ends : State → State)
    (put : State → Nat × Nat × List Machine.Num → State × Cnt) : finishMat s g ws m c o ends put =
      if o.sum || o.res then doneMismatch (matWritten s g m c o put) g ws o.sum o.res else ends (matWritten s g m c o put) := rfl

theorem putAcc_regs (m : Nat) (e : Engine) (w : Nat × Nat × List Machine.Num) : engRegs (putAcc m e w) = engRegs e := by
  unfold putAcc
  dsimp only
  split <;> rfl

theorem putAcc_rs (m : Nat) (e : Engine) (w : Nat × Nat × List Machine.Num) : (putAcc m e w).rs = e.rs := by
  unfold putAcc
  dsimp only
  split <;> rfl

/-- What every step of a run keeps, the run keeps. -/
theorem foldl_keeps {α β γ : Type} {f : β → α → β} {p : β → γ} (h : ∀ b a, p (f b a) = p b) (l : List α) (b : β) :
    p (l.foldl f b) = p b := by
  induction l generalizing b with
  | nil => rfl
  | cons a l ih => rw [List.foldl_cons, ih, h]

theorem works_matWritten (s : State) (g : EngId) (m : Nat) (c : Cnt) (o : MatOut)
    {put : State → Nat × Nat × List Machine.Num → State × Cnt} (hp : ∀ t x, Works g t (put t x).1) :
    Works g s (matWritten s g m c o put) := by
  have ha := (works_fresh g s).trans (works_modEng g (fresh s).2 (f := fun e => o.acc.reverse.foldl (putAcc m) e)
    (fun e => foldl_keeps (putAcc_regs m) _ e))
  have hr := works_foldl (g := g) (f := fun (a : State × Cnt) x => ((put a.1 x).1, a.2.add (put a.1 x).2)) Prod.fst
    (fun b x => hp b.1 x) o.out.reverse (modEng (fresh s).2 g (fun e => o.acc.reverse.foldl (putAcc m) e), cnt0)
  exact (ha.trans hr).trans (works_addCnt g _ _)

/-- A mismatch that a check of the arithmetic has found (R147). -/
theorem checkFail_engines (s : State) (g : EngId) (other : Bool) :
    (checkFail s g other).engines = (modEng s g (fun e => { e with chk := true })).engines := by
  unfold checkFail
  dsimp only
  split
  · split
    · rfl
    · unfold scheduleReexec
      dsimp only
      split <;> rfl
  · rfl

theorem doneMismatch_ended {t u : State} {g : EngId} (hu : Unstarted (eng t g)) (hc : (eng t g).cut = false) (hw : Works g t u)
    (ws : List Word) (sum res : Bool) : ended (doneMismatch u g ws sum res) g ws stBadCheck ∧
      (eng (doneMismatch u g ws sum res) g).abftcnt = min 255 ((eng t g).abftcnt + b2n sum) ∧
      (eng (doneMismatch u g ws sum res) g).rescnt = min 255 ((eng t g).rescnt + b2n res) ∧
      (eng (doneMismatch u g ws sum res) g).chk = true ∧ (eng (doneMismatch u g ws sum res) g).rs = (eng u g).rs := by
  have he (f : Engine → Engine) : eng (engLog (checkFail (modEng u g f) g false) g 0x01 1 stBadCheck (tagOf ws)) g =
      { f (eng u g) with chk := true } := by
    rw [eng_engLog, eng_of_engines (checkFail_engines ..), eng_modEng_self, eng_modEng_self]
  unfold doneMismatch
  dsimp only
  refine ⟨ended_engDone ?_ ?_ _ _ _, ?_⟩
  · rw [he]
    exact hw.done.trans hu.done
  · rw [he]
    exact hw.late.trans hu.late
  · rw [eng_engDone (by rw [he]; exact hw.cut.trans hc), he]
    simp [descEnded, satAdd, hw.abftcnt, hw.rescnt]

/-! The weight stream. -/

theorem fwRefuse_engines (s : State) (t : FwTarget) (liv : Byte) (off : Nat) (k : Kind) : (fwRefuse s t liv off k).engines = s.engines := by
  obtain ⟨b, f, h, -⟩ := fwRefuse_eq s t liv off k
  rw [h, modFwl_engines]
  cases b
  · simp only [Bool.false_eq_true, if_false, closeRun]
    split
    · rfl
    · rw [logF_engines, modFwl_engines]
  · rfl

theorem wFetch_engines (s : State) (g : EngId) (addr len : Nat) : (wFetch s g addr len).2.engines = s.engines := by
  have h := (stackRead_hbmGet s (dieOf g) (tePort g) (engLivery s g) (addr % 2 ^ 34) len).engines
  unfold wFetch
  dsimp only
  split
  · exact engLog_engines ..
  · split
    · exact fwRefuse_engines ..
    · split <;> simp_all

theorem ite_engines {α : Type} {s : State} {c : Prop} [Decidable c] {x y : α × State} (hx : x.2.engines = s.engines)
    (hy : y.2.engines = s.engines) : (if c then x else y).2.engines = s.engines := by
  split
  · exact hx
  · exact hy

theorem hxzBlock_engines (s : State) (g : EngId) (addr : Nat) : (hxzBlock s g addr).2.engines = s.engines := by
  have hh := wFetch_engines s g addr 8
  unfold hxzBlock
  generalize wFetch s g addr 8 = x at hh ⊢
  obtain ⟨_ | h, t⟩ := x
  · exact hh
  · dsimp only at hh ⊢
    split
    · exact hh
    · have hp : (if leNat (h.take 2) = 0 then (.ok [], t) else wFetch t g (addr + 8) (leNat (h.take 2))).2.engines = s.engines :=
        ite_engines hh ((wFetch_engines ..).trans hh)
      generalize (if leNat (h.take 2) = 0 then (.ok [], t) else wFetch t g (addr + 8) (leNat (h.take 2))) = y at hp ⊢
      obtain ⟨_ | p, v⟩ := y
      · exact hp
      · dsimp only
        split <;> exact hp

theorem hxz_engines (g : EngId) (fuel : Nat) (s : State) (addr need : Nat) (acc : List (List Byte)) :
    (hxz g fuel s addr need acc).2.engines = s.engines := by
  induction fuel generalizing s addr need acc with
  | zero => rfl
  | succ fuel ih =>
    have hb := hxzBlock_engines s g addr
    unfold hxz
    split
    · rfl
    · split
      · simp_all
      · rw [ih]
        simp_all

theorem fillWbuf_regs (n : Nat) (bs : List Byte) (e : Engine) : engRegs (fillWbuf n bs e) = engRegs e ∧ (fillWbuf n bs e).rs = e.rs := by
  induction n generalizing bs e with
  | zero => exact ⟨rfl, rfl⟩
  | succ n ih =>
    unfold fillWbuf
    split
    · exact ⟨rfl, rfl⟩
    · dsimp only
      obtain ⟨h1, h2⟩ := ih (bs.drop wbufHalf) _
      rw [h1, h2]
      split <;> exact ⟨rfl, rfl⟩

/-- What a stream of weights leaves of its engine. -/
theorem weights_eng (s : State) (g : EngId) (addr need : Nat) :
    engRegs (eng (weights s g addr need).2.2 g) = engRegs (eng s g) ∧ (eng (weights s g addr need).2.2 g).rs = (eng s g).rs := by
  have hf (t : State) (n : Nat) (bs : List Byte) (ht : t.engines = s.engines) :
      engRegs (eng (modEng t g (fun e => fillWbuf n bs { e with pref := none })) g) = engRegs (eng s g) ∧
        (eng (modEng t g (fun e => fillWbuf n bs { e with pref := none })) g).rs = (eng s g).rs := by
    rw [eng_modEng_self, eng_of_engines ht]
    obtain ⟨h1, h2⟩ := fillWbuf_regs n bs { eng s g with pref := none }
    exact ⟨h1, h2⟩
  exact hf _ _ _ (ite_engines rfl (hxz_engines ..))

end Sys2Proof.Proofs


/-! GEMM, GEMM_AA and the convolutions (04 R138-R147, R232-R238). -/

namespace Sys2Proof.Proofs

open Sys2Proof.Machine Sys2Proof.Safety Sys2Proof.Laws

/-! GEMM and GEMM_AA. -/

/-- A drained row of C is written. -/
def putRow (g : EngId) (ws : List Word) (p : Epi) (s : State) (e : Nat × Nat × List Machine.Num) : State × Cnt :=
  let r := numsRow p.fo p.trunc e.2.2
  (rsWrAt s g (gemmAt ws e.1 + rowBytes p.fo (128 * e.2.1)) r.1, r.2)

/-- What the rows of a product came to. -/
def gemmOut (u : Option Upset) (s : State) (g : EngId) (ws : List Word) (cols : List Vec) (full : Nat) (early : Bool) : MatOut :=
  runMat (gemmMat s g ws cols) u (eng s g).ftol s.free (slots s (List.range (gM ws)) (groupsOf (gN ws)) full early) {}

/-- The state in which the rows of C are in the store. -/
def gemmWritten (u : Option Upset) (s : State) (g : EngId) (ws : List Word) (cols : List Vec × Cnt) (full : Nat) (early : Bool) : State :=
  matWritten s g (gM ws) ((aRows s g (dFa ws) (df ws 4 14 0) (df ws 4 30 16) (gM ws) (gK ws)).2.add cols.2)
    (gemmOut u s g ws cols.1 full early) (putRow g ws (gemmEpi s g ws))

theorem works_gemmWritten (u : Option Upset) (s : State) (g : EngId) (ws : List Word) (cols : List Vec × Cnt) (full : Nat) (early : Bool) :
    Works g s (gemmWritten u s g ws cols full early) := works_matWritten s g _ _ _ (fun t _ => works_rsWrAt g t _ _)

theorem gemmRun_eq (u : Option Upset) (s : State) (g : EngId) (ws : List Word) (cols : List Vec × Cnt) (full : Nat) :
    gemmRun u s g ws cols full none =
      if (gemmOut u s g ws cols.1 full false).sum || (gemmOut u s g ws cols.1 full false).res then
        doneMismatch (gemmWritten u s g ws cols full false) g ws (gemmOut u s g ws cols.1 full false).sum
          (gemmOut u s g ws cols.1 full false).res
      else doneOk (gemmWritten u s g ws cols full false) g ws := rfl

theorem gemmRun_ends (u : Option Upset) (s : State) (g : EngId) (ws : List Word) (cols : List Vec × Cnt) (full : Nat)
    (h : (gemmOut u s g ws cols.1 full false).sum = false ∧ (gemmOut u s g ws cols.1 full false).res = false) :
    gemmRun u s g ws cols full none = doneOk (gemmWritten u s g ws cols full false) g ws := by
  rw [gemmRun_eq, h.1, h.2]
  rfl

theorem gemmRun_mismatch (u : Option Upset) (s : State) (g : EngId) (ws : List Word) (cols : List Vec × Cnt) (full : Nat)
    (h : (gemmOut u s g ws cols.1 full false).sum = true) : gemmRun u s g ws cols full none =
      doneMismatch (gemmWritten u s g ws cols full false) g ws true (gemmOut u s g ws cols.1 full false).res := by
  rw [gemmRun_eq, h, if_pos (by rw [Bool.true_or])]

theorem gemmOut_quiet {s : State} {g : EngId} {ws : List Word} {cols : List Vec} (hq : quiet (gemmMat s g ws cols) (eng s g).ftol) (full : Nat) :
    (gemmOut none s g ws cols full false).out = ((slots s (List.range (gM ws)) (groupsOf (gN ws)) full false).map
        (drained (gemmMat s g ws cols) none (eng s g).ftol s.free)).reverse ∧
      (gemmOut none s g ws cols full false).sum = false ∧ (gemmOut none s g ws cols full false).res = false := by
  obtain ⟨ho, hs, hr⟩ := runMat_quiet (fun k _ => hq s.free k) {}
  exact ⟨ho.trans (List.append_nil _), hs, hr⟩

/-- A descriptor ends well from a state that its work has reached. -/
theorem ran_of_regs {t V u : State} {g : EngId} (hu : Unstarted (eng t g)) (hc : (eng t g).cut = false)
    (hr : engRegs (eng V g) = engRegs (eng t g)) (hw : Works g V u) (ws : List Word) :
    ran V (doneOk u g ws) g ws stOk ∧ (eng (doneOk u g ws) g).abftcnt = (eng t g).abftcnt := by
  have h : engRegs (eng u g) = engRegs (eng t g) := hw.regs.trans hr
  have hd : (eng u g).done = (eng t g).done := (congrArg Engine.done h :)
  have hl : (eng u g).late = (eng t g).late := (congrArg Engine.late h :)
  have hcu : (eng u g).cut = (eng t g).cut := (congrArg Engine.cut h :)
  refine ⟨ran_engDone hw.toOnlyEngine (hd.trans hu.done) (hl.trans hu.late) _ _ _, ?_⟩
  rw [doneOk, eng_engDone (hcu.trans hc)]
  exact (congrArg Engine.abftcnt h :)

/-! An upset of an accumulator. -/

theorem sum_zipIdx_ite {α : Type} (l : List α) (a n : Nat) (e : Int) :
    ((l.zipIdx a).map (fun c => if c.2 = n then e else 0)).sum = if a ≤ n ∧ n < a + l.length then e else 0 := by
  induction l generalizing a with
  | nil => simp
  | cons x l ih =>
    rw [List.zipIdx_cons, List.map_cons, List.sum_cons, ih, List.length_cons]
    by_cases h : a = n
    · rw [if_pos h, if_neg (by omega), if_pos (by omega), add_zero]
    · rw [if_neg h, zero_add]
      exact if_congr (by omega) rfl rfl

theorem colErr_acc (x : Mat) {u : Upset} (hu : u.term = none) (r n : Nat) :
    colErr x (some u) r n = if n = u.col then (if u.row = r then u.err else 0) else 0 := by
  have ht : termErr (some u) r n = fun _ => 0 := by
    funext k
    simp [termErr, hu]
  simp only [colErr, ht, accErr, hu, List.map_const', List.sum_replicate, smul_zero, add_zero, Option.isNone_none, Bool.and_true,
    Bool.and_eq_true, decide_eq_true_eq]
  by_cases h1 : n = u.col
  · simp [h1]
  · simp [h1, Ne.symm h1]

section

variable {x : Mat} (hx : IntMat x) (hag : x.again = none) {u : Upset} (hu : u.term = none) (ftol idx : Nat)
include hx hag hu

/-- The check column of a row finds the upset where the row's group holds its accumulator. -/
theorem rowOut_upset (k : Nat) : (rowOut x (some u) ftol idx k).sum = decide ((if x.width * (k / x.m) ≤ u.col ∧
    u.col < x.width * (k / x.m) + ((x.cols.drop (x.width * (k / x.m))).take x.width).length then
      (if u.row = k % x.m then u.err else 0) else 0) % 2 ^ 48 ≠ 0) := by
  rw [rowOut, if_pos hx.integer, rowInt_sum hx hag _ _ (fun c hc => mem_group hc),
    List.map_congr_left (fun c _ => colErr_acc x hu (k % x.m) c.2), Mat.group, sum_zipIdx_ite]

/-- Where it does not, no check of the row finds anything. -/
theorem rowOut_upset_res (he : u.err % 2 ^ 48 ≠ 0) (k : Nat) :
    (rowOut x (some u) ftol idx k).sum = true ∨ (rowOut x (some u) ftol idx k).res = false := by
  by_cases h0 : ∀ c ∈ x.group (k / x.m), colErr x (some u) (k % x.m) c.2 = 0
  · right
    rw [rowOut, if_pos hx.integer]
    exact rowInt_res hx (fun c hc => mem_group hc) h0
  · left
    push Not at h0
    obtain ⟨c, hc, hn⟩ := h0
    rw [colErr_acc x hu] at hn
    have hcol : c.2 = u.col := by
      by_contra h
      exact hn (if_neg h)
    rw [if_pos hcol] at hn
    have hrow : u.row = k % x.m := by
      by_contra h
      exact hn (if_neg h)
    have hr := List.le_snd_of_mem_zipIdx hc
    have hl := List.snd_lt_add_of_mem_zipIdx hc
    rw [rowOut_upset hx hag hu, if_pos ⟨by omega, by omega⟩, if_pos hrow]
    exact decide_eq_true he

end

theorem slots_all (s : State) (rows : List Nat) (groups full : Nat) : slots s rows groups full false =
    (List.range groups).flatMap (fun j => rows.map (fun r => j * rows.length + r)) := rfl

theorem mem_slots_iff {s : State} {m groups full k : Nat} : k ∈ slots s (List.range m) groups full false ↔
    ∃ j r, j < groups ∧ r < m ∧ k = j * m + r := by
  rw [slots_all, List.mem_flatMap]
  simp only [List.mem_range, List.mem_map, List.length_range]
  exact ⟨fun ⟨j, hj, r, hr, h⟩ => ⟨j, r, hj, hr, h.symm⟩, fun ⟨j, r, hj, hr, h⟩ => ⟨j, hj, r, hr, h.symm⟩⟩

theorem mem_slots {s : State} {m groups full j r : Nat} (hj : j < groups) (hr : r < m) :
    j * m + r ∈ slots s (List.range m) groups full false := mem_slots_iff.2 ⟨j, r, hj, hr, rfl⟩

theorem slot_row {m j r : Nat} (hr : r < m) : (j * m + r) % m = r ∧ (j * m + r) / m = j := by
  have hm : 0 < m := by omega
  rw [Nat.add_comm, Nat.add_mul_mod_self_right, Nat.mod_eq_of_lt hr, Nat.add_mul_div_right _ _ hm, Nat.div_eq_of_lt hr]
  exact ⟨rfl, Nat.zero_add j⟩

theorem gemmAaCols_length (s : State) (g : Nat) (ws : List Word) : (gemmAaCols s g ws).1.length = gN ws := by
  simp only [gemmAaCols, colsFromRows]
  split <;> simp

/-- The check column of GEMM_AA finds an upset of an accumulator. -/
theorem gemmAa_upset {s : State} {g : EngId} {ws : List Word} {u : Upset} (hi : gInt ws = true) (hr : u.row < gM ws) (hc : u.col < gN ws)
    (ht : u.term = none) (he : u.err % 2 ^ 48 ≠ 0) : (gemmOut (some u) s g ws (gemmAaCols s g ws).1 0 false).sum = true := by
  have hx := gemm_intMat hi s g (gemmAaCols_good hi s g)
  refine runMat_finds (fun k _ => rowOut_upset_res hx rfl ht _ _ he k) ⟨u.col / 128 * gM ws + u.row, ?_, ?_⟩ {}
  · exact mem_slots (by unfold groupsOf cdiv; omega) hr
  · obtain ⟨hm, hd⟩ := slot_row (j := u.col / 128) hr
    rw [rowOut_upset hx rfl ht, if_pos, if_pos]
    · exact decide_eq_true he
    · exact hm.symm
    · change 128 * ((u.col / 128 * gM ws + u.row) / gM ws) ≤ u.col ∧ u.col < 128 * ((u.col / 128 * gM ws + u.row) / gM ws) +
        (((gemmAaCols s g ws).1.drop (128 * ((u.col / 128 * gM ws + u.row) / gM ws))).take 128).length
      rw [hd, List.length_take, List.length_drop, gemmAaCols_length]
      omega

/-! The convolutions. -/

/-- A convolution reads nothing but its engine's store. -/
theorem convMat_congr {s t : State} {g : Nat} (h : (eng s g).rs = (eng t g).rs) (ws : List Word) (p : ConvPlan) (cols : List Vec) :
    convMat s g ws p cols = convMat t g ws p cols := by
  have hs : startOf s g = startOf t g := by
    funext i en addr r c
    simp only [startOf, h]
  simp only [convMat, convIn, accVec, rsRd, hs, h]

/-- A step for every item of a list works in the engine that the steps pass on. -/
theorem works_foldl_eng {α : Type} {f : EngId × State × Cnt → α → EngId × State × Cnt}
    (hf : ∀ a x, (f a x).1 = a.1 ∧ Works a.1 a.2.1 (f a x).2.1) :
    ∀ (l : List α) (a : EngId × State × Cnt), (l.foldl f a).1 = a.1 ∧ Works a.1 a.2.1 (l.foldl f a).2.1
  | [], a => ⟨rfl, .refl _ _⟩
  | x :: l, a => by
    obtain ⟨he, hw⟩ := hf a x
    obtain ⟨ke, kw⟩ := works_foldl_eng hf l (f a x)
    rw [he] at ke kw
    exact ⟨ke, hw.trans kw⟩

theorem works_putBlk (addr : Nat) (mine : List (Nat × Machine.Num)) (a : EngId × State × Cnt) (b : Nat) :
    (putBlk addr mine a b).1 = a.1 ∧ Works a.1 a.2.1 (putBlk addr mine a b).2.1 := by
  unfold putBlk
  dsimp only
  split
  · exact ⟨rfl, .refl _ _⟩
  · split
    · exact ⟨rfl, works_rsWrAt _ _ _ _⟩
    · exact ⟨rfl, (works_fresh _ _).trans (works_rsWrAt _ _ _ _)⟩

theorem works_putHxb4 (s : State) (g : EngId) (d : ConvDesc) (vals : List ((Nat × Nat × Nat) × Machine.Num)) :
    Works g s (putHxb4 s g d vals).1 :=
  (works_foldl_eng (fun a _ => works_foldl_eng (works_putBlk _ _) _ a) _ (g, s, cnt0)).2

theorem works_putElem (g : EngId) (s : State) (f addr x c : Nat) : Works g s (putElem s g f addr x c) := by
  unfold putElem
  dsimp only
  split <;> exact works_rsWrAt ..

/-- A convolution whose checks find nothing ends well. -/
theorem convRun_quiet {s : State} {g : EngId} {ws : List Word} {p : ConvPlan} {cols : List Vec}
    (hq : quiet (convMat s g ws p cols) (eng s g).ftol) (full : Nat) :
    ∃ u, convRun none s g ws p cols full none = doneOk u g ws ∧ Works g s u := by
  obtain ⟨-, hs, hr⟩ := runMat_quiet (ks := slots s p.order p.groups full false) (fun k _ => hq s.free k) {}
  unfold convRun
  dsimp only
  split
  · rw [finishMat_eq, if_neg]
    · exact ⟨_, rfl, (works_putHxb4 s g _ _).trans (works_matWritten _ g _ _ _ (fun t _ => .refl g t))⟩
    · change ¬ ((runMat (convMat s g ws p cols) none (eng s g).ftol s.free (slots s p.order p.groups full false) {}).sum ||
        (runMat (convMat s g ws p cols) none (eng s g).ftol s.free (slots s p.order p.groups full false) {}).res) = true
      rw [hs, hr]
      decide
  · rw [finishMat_eq, if_neg]
    · exact ⟨_, rfl, works_matWritten _ g _ _ _ (fun t x => works_foldl (g := g) (α := (Nat × Nat × Nat) × Machine.Num) Prod.fst
        (fun a v => works_putElem g a.1 _ _ _ _) _ (t, cnt0))⟩
    · change ¬ ((runMat (convMat s g ws p cols) none (eng s g).ftol s.free (slots s p.order p.groups full false) {}).sum ||
        (runMat (convMat s g ws p cols) none (eng s g).ftol s.free (slots s p.order p.groups full false) {}).res) = true
      rw [hs, hr]
      decide

theorem convOp_quiet {plan : ConvDesc → ConvPlan} {T V : State} {g : EngId} {ws : List Word} {bs : List Byte}
    (hw : convWeights T g ws (plan (convDesc ws)) = (bs, none, V))
    (hq : quiet (convMat V g ws (plan (convDesc ws)) ((plan (convDesc ws)).cols bs)) (eng V g).ftol) :
    ∃ u, convOp plan none T g ws = doneOk u g ws ∧ Works g V u := by
  unfold convOp
  dsimp only
  rw [hw]
  dsimp only
  generalize badBlks _ = c
  have ha := works_addCnt g V c
  rw [← convMat_congr (addCnt_rs V g c), ← ha.ftol] at hq
  obtain ⟨u, hu, hk⟩ := convRun_quiet hq (bs.length / max 1 (plan (convDesc ws)).per)
  exact ⟨u, hu, ha.trans hk⟩

/-! The obligation. -/

/-- The engine's registers as its descriptor found them, behind the weight stream. -/
theorem weights_regs {t V : State} {g : EngId} {addr need : Nat} {bs : List Byte} {e : Option StreamEnd}
    (h : weights (addBusy t g) g addr need = (bs, e, V)) : engRegs (eng V g) = engRegs (eng t g) := by
  have hw := (weights_eng (addBusy t g) g addr need).1
  rw [h] at hw
  exact hw.trans (works_addBusy g t).regs

theorem gemm_completes {s t V : State} {g : EngId} {ws : List Word} {bs : List Byte} (h : DescReady s g 1 ws t) (hk : gemmOk ws = true)
    (hz : df ws 8 31 16 = 0) (he : gemmEmpty ws = false) (hw : gemmWeights (addBusy t g) g ws = (bs, none, V))
    (hq : quiet (gemmMat V g ws (gemmCols ws bs)) (eng V g).ftol) :
    ∃ u, exec (.gemm g none) s = .next u ∧ ran V u g ws stOk ∧ (eng u g).abftcnt = (eng t g).abftcnt := by
  have hx : exec (.gemm g none) s = _ := runEng_ready h (o := _) rfl rfl (by simp [hk, hz]) he
  rw [hx]
  dsimp only
  rw [hw]
  dsimp only
  rw [gemmRun_ends none V g ws _ _ (gemmOut_quiet hq _).2]
  exact ⟨_, rfl, ran_of_regs (descReady_unstarted h) h.whole (weights_regs hw) (works_gemmWritten ..) ws⟩

theorem gemmAa_completes {s t : State} {g : EngId} {ws : List Word} (h : DescReady s g 2 ws t) (hk : gemmOk ws = true)
    (hb : bOk ws = true) (he : gemmEmpty ws = false)
    (hq : quiet (gemmMat (addBusy t g) g ws (gemmAaCols (addBusy t g) g ws).1) (eng (addBusy t g) g).ftol) :
    exec (.gemmAa g none) s = .next (doneOk (gemmWritten none (addBusy t g) g ws (gemmAaCols (addBusy t g) g ws) 0 false) g ws) := by
  have hx : exec (.gemmAa g none) s = _ := runEng_ready h (o := _) rfl rfl (by simp [hk, hb]) he
  rw [hx]
  dsimp only
  rw [gemmRun_ends none _ g ws _ _ (gemmOut_quiet hq _).2]

theorem conv_completes {s t V : State} {g : EngId} {ws : List Word} {bs : List Byte} {r : Instr} {o : EngOp} {plan : ConvDesc → ConvPlan}
    (h : DescReady s g 3 ws t) (hr : exec r s = runEng g o s) (ho : o.op = 3) (hs : o.sub ws = true) (hk : o.ok ws = true)
    (he : o.empty ws = false) (hrun : o.run = convOp plan none)
    (hw : convWeights (addBusy t g) g ws (plan (convDesc ws)) = (bs, none, V))
    (hq : quiet (convMat V g ws (plan (convDesc ws)) ((plan (convDesc ws)).cols bs)) (eng V g).ftol) :
    ∃ u, exec r s = .next u ∧ ran V u g ws stOk ∧ (eng u g).abftcnt = (eng t g).abftcnt := by
  obtain ⟨u, hu, hk'⟩ := convOp_quiet hw hq
  rw [hr, runEng_ready h ho hs hk he, hrun, hu]
  exact ⟨_, rfl, ran_of_regs (descReady_unstarted h) h.whole (weights_regs hw) hk' ws⟩

theorem plans_good {plan : ConvDesc → ConvPlan} (hp : plan ∈ [densePlan, groupedPlan, depthPlan]) {d : ConvDesc} (hf : d.fb ≤ 2) :
    GoodPlan (plan d) := by
  simp only [List.mem_cons, List.not_mem_nil, or_false] at hp
  rcases hp with rfl | rfl | rfl
  · exact dense_good hf
  · exact grouped_good hf
  · exact depth_good hf

/-- Settles O35: the checks of an integer product compare the same sums, in 48 bits, and an upset changes one side alone. -/
theorem matrixProducts : Obligations.MatrixProducts := by
  refine ⟨?_, ?_, ?_, ?_, ?_, ?_⟩
  · rintro s g ws t _ V bs rfl h hk hz he hw hq
    exact gemm_completes h hk hz he hw hq
  · rintro s g ws t _ rfl h hk hb he hq
    have hw := works_addBusy g t
    obtain ⟨hr, ha⟩ := ran_of_regs (descReady_unstarted h) h.whole hw.regs
      (works_gemmWritten none (addBusy t g) g ws (gemmAaCols (addBusy t g) g ws) 0 false) ws
    exact ⟨_, gemmAa_completes h hk hb he hq, ⟨onlyEngine_trans hw.toOnlyEngine hr.1, hr.2⟩, ha⟩
  · rintro s g ws t _ V bs sub r ok plan hm rfl h hs hk he hw hq
    simp only [List.mem_cons, List.not_mem_nil, or_false, Prod.mk.injEq] at hm
    rcases hm with ⟨rfl, rfl, rfl, rfl⟩ | ⟨rfl, rfl, rfl, rfl⟩ | ⟨rfl, rfl, rfl, rfl⟩
    · exact conv_completes h rfl rfl (by simp [hs]) hk he rfl hw hq
    · exact conv_completes h rfl rfl (by simp [hs]) hk he rfl hw hq
    · exact conv_completes h rfl rfl (by simp [hs]) hk he rfl hw hq
  · intro s g ws bs ftol hi
    exact ⟨intMat_quiet (gemm_intMat hi s g (gemmCols_good hi bs)) ftol, intMat_quiet (gemm_intMat hi s g (gemmAaCols_good hi s g)) ftol⟩
  · intro s g ws bs ftol plan hp hi hk
    have hf : (convDesc ws).fb ≤ 2 := (by simpa [convInt, pairInt] using hi : _ ∧ _).2
    exact intMat_quiet (conv_intMat hi s g (plans_good hp hf) bs hk) ftol
  · intro s g ws t x h hk hb he hi hr hc ht hx
    have ho := gemmAa_upset (s := addBusy t g) (g := g) hi hr hc ht hx
    have hrun : exec (.gemmAa g x) s = _ := runEng_ready h (o := _) rfl rfl (by simp [hk, hb]) he
    dsimp only at hrun
    rw [gemmRun_mismatch _ _ _ _ _ _ ho] at hrun
    obtain ⟨hd, ha, -, hchk, -⟩ := doneMismatch_ended (descReady_unstarted h) h.whole
      ((works_addBusy g t).trans (works_gemmWritten x (addBusy t g) g ws (gemmAaCols (addBusy t g) g ws) 0 false)) ws true
      (gemmOut x (addBusy t g) g ws (gemmAaCols (addBusy t g) g ws).1 0 false).res
    exact ⟨_, hrun, hd, ha, hchk⟩

end Sys2Proof.Proofs


/-! GEMM_AA on INT8 operands gives the integer matrix product (04 R138; 05 R189, R193, R199). -/

namespace Sys2Proof.Proofs

open Sys2Proof.Machine Sys2Proof.Safety Sys2Proof.Laws

/-! The rows of C in the store. -/

/-- The write of a drained row of C. -/
def rowWrite (ws : List Word) (p : Epi) (e : Nat × Nat × List Machine.Num) : Nat × List Byte :=
  (gemmAt ws e.1 + rowBytes p.fo (128 * e.2.1), (numsRow p.fo p.trunc e.2.2).1)

theorem putRows_rs (g : EngId) (ws : List Word) (p : Epi) (l : List (Nat × Nat × List Machine.Num)) (a : State × Cnt) :
    (eng (l.foldl (fun (a : State × Cnt) x => ((putRow g ws p a.1 x).1, a.2.add (putRow g ws p a.1 x).2)) a).1 g).rs =
      memWrs (eng a.1 g).rs (l.map (rowWrite ws p)) := by
  induction l generalizing a with
  | nil => rfl
  | cons e l ih =>
    rw [List.foldl_cons, ih]
    simp only [putRow, rsWrAt_rs]
    rfl

theorem gemmWritten_rs (u : Option Upset) (s : State) (g : EngId) (ws : List Word) (cols : List Vec × Cnt) (full : Nat) (early : Bool) :
    (eng (gemmWritten u s g ws cols full early) g).rs =
      memWrs (eng s g).rs ((gemmOut u s g ws cols.1 full early).out.reverse.map (rowWrite ws (gemmEpi s g ws))) := by
  unfold gemmWritten matWritten
  dsimp only
  rw [addCnt_rs]
  refine (putRows_rs g ws _ _ _).trans ?_
  dsimp only
  rw [eng_modEng_self, foldl_keeps (p := Engine.rs) (putAcc_rs _)]
  rfl

/-! The epilogue that changes nothing. -/

/-- No bias, scale, shift or activation on an integer product with an INT32 result. -/
structure PlainEpi (p : Epi) : Prop where
  integer : p.integer = true
  bias    : p.bias = none
  scale   : p.scale = none
  shift   : p.shift = 0
  act     : p.act = 0
  fo      : p.fo = fmtInt32

theorem shiftInt_zero (trunc : Bool) (v : Int) : shiftInt trunc 0 v = v := by
  unfold shiftInt
  split
  · split <;> simp <;> omega
  · simp [rhe]

theorem epilogue_plain {p : Epi} (h : PlainEpi p) (n : Nat) (v : Int) : epilogue p n (.int v) = (.int (wrap48 v), cnt0) := by
  simp only [epilogue, h.integer, h.bias, h.scale, h.shift, if_true, Option.map_none, Option.getD_none, numInt, add_zero, shiftInt_zero,
    actI, h.act]

/-! The operands. -/

theorem dotX_map {α : Type} (f h : α → Int) (l : List α) : dotX (l.map f) (l.map h) = (l.map (fun a => f a * h a)).sum := by
  induction l with
  | nil => rfl
  | cons a l ih => simp [ih]

theorem rowNums_int8 {m : Mem} (hm : memWf m = true) (a n : Nat) :
    (rowNums 1 n (memRd m a (rowBytes 1 n))).1 = (List.range n).map (fun i => .int (int8At m (a + i))) := by
  rw [rowNums_int byteFmt_int8 rfl hm]
  refine List.map_congr_left (fun i _ => ?_)
  rw [one_mul, memRd_one hm, int8At]
  simp [leNat]

section

variable {s : State} {g : EngId} {ws : List Word} (hm : memWf (eng s g).rs = true)
include hm

theorem aRow_int8 (ha : dFa ws = 1) {r : Nat} (hr : r < gM ws) (n : Nat) (cols : List Vec) :
    ints ((gemmMat s g ws cols).row r n) =
      (List.range (gK ws)).map (fun i => int8At (eng s g).rs (128 * (df ws 4 14 0 + r * df ws 4 30 16) + i)) := by
  change ints ((aRows ..).1.getD r { els := [], blks := [] }) = _
  rw [ints, aRows_getD, if_pos hr, ha, rsRd, rowNums_int8 hm, List.map_map]
  rfl

theorem bCol_int8 (hb : dFb ws = 1) {c : Nat} (hc : c < gN ws) : ints ((gemmAaCols s g ws).1[c]'(by rw [gemmAaCols_length]; exact hc)) =
    (List.range (gK ws)).map (fun i => int8At (eng s g).rs (128 * (df ws 7 14 0 + i * df ws 7 30 16) + c)) := by
  have he := gemmAaCols_eq (ws := ws) (by rw [hb]; decide) s g
  simp only [he, ints, List.getElem_map, List.getElem_range, List.map_map]
  refine List.map_congr_left (fun i _ => ?_)
  rw [Function.comp_apply, hb, rsRd, rowNums_int8 hm]
  simp [hc, numInt]

end

/-! The obligation. -/

/-- What the accumulators of row `r` of group `j` hold. -/
def rowInts (x : Mat) (r j : Nat) : List Int := (x.group j).map (fun c => wrap48 (exact x r c))

theorem drained_plain {x : Mat} (hi : x.integer = true) {p : Epi} (hp : PlainEpi p) (hf : x.fin = fun _ n v => epilogue p n v) (ftol idx k : Nat) :
    drained x none ftol idx k = (k % x.m, k / x.m, (rowInts x (k % x.m) (k / x.m)).map .int) := by
  unfold drained
  rw [tally_fst, rowOut, if_pos hi, rowInt_vals, hf]
  refine congrArg (fun l => (k % x.m, k / x.m, l)) ?_
  refine List.ext_getElem (by simp [rowInts]) (fun i h1 h2 => ?_)
  simp [rowInts, epilogue_plain hp, wrap48_wrap48]

/-- The write of row `r` in group `j`. -/
def int32Write (ws : List Word) (x : Mat) (r j : Nat) : Nat × List Byte :=
  (gemmAt ws r + 4 * (128 * j), (rowInts x r j).flatMap (fun v => natLe 4 (tc 32 (Safety.sat32 v))))

theorem int32Write_length (ws : List Word) (x : Mat) (r j : Nat) : (int32Write ws x r j).2.length = 4 * (rowInts x r j).length :=
  flatMap_const_length (fun _ => natLe_length 4 _) _

theorem rowWrite_plain {x : Mat} {p : Epi} (hp : PlainEpi p) (ws : List Word) (r j : Nat) :
    rowWrite ws p (r, j, (rowInts x r j).map .int) = int32Write ws x r j := by
  unfold rowWrite int32Write
  rw [hp.fo, numsRow_int32, rowBytes_byteFmt byteFmt_int32]

theorem rowInts_length (x : Mat) (r j : Nat) : (rowInts x r j).length = min x.width (x.cols.length - x.width * j) := by
  simp [rowInts, Mat.group]

theorem rowInts_getElem {x : Mat} {r j i n : Nat} (hi : i < (rowInts x r j).length) (hn : n = x.width * j + i) :
    (rowInts x r j)[i] = wrap48 (exact x r (x.cols[n]'(by rw [rowInts_length] at hi; omega), n)) := by
  subst hn
  simp [rowInts, Mat.group]

/-- Rows of C do not meet: their stride holds a row. -/
theorem int32Write_apart {ws : List Word} {x : Mat} {n : Nat} (hn : x.cols.length = n) (hw : x.width = 128) (hs : 4 * n ≤ 128 * df ws 5 30 16)
    (r r' : Nat) {j j' : Nat} (hj : 128 * j < n) (hj' : 128 * j' < n) : int32Write ws x r' j' = int32Write ws x r j ∨
      (int32Write ws x r j).1 + (int32Write ws x r j).2.length ≤ (int32Write ws x r' j').1 ∨
      (int32Write ws x r' j').1 + (int32Write ws x r' j').2.length ≤ (int32Write ws x r j).1 := by
  rw [int32Write_length, int32Write_length, rowInts_length, rowInts_length, hn, hw]
  have hr {a b : Nat} (hab : a < b) : gemmAt ws a + 4 * n ≤ gemmAt ws b := by
    have hm := Nat.mul_le_mul_right (df ws 5 30 16) (Nat.succ_le_of_lt hab)
    rw [Nat.succ_mul] at hm
    unfold gemmAt
    omega
  simp only [int32Write]
  rcases Nat.lt_trichotomy r r' with h | rfl | h
  · have := hr h
    omega
  · by_cases h : j' = j
    · exact .inl (by rw [h])
    · omega
  · have := hr h
    omega

theorem gemmOk_rowC {ws : List Word} (h : gemmOk ws = true) : rowLines (dFo ws) (gN ws) ≤ df ws 5 30 16 := by
  simp only [gemmOk, Bool.and_eq_true, rowsIn, decide_eq_true_eq] at h
  obtain ⟨⟨⟨-, hc⟩, -⟩, -⟩ := h
  exact hc.1

/-- A GEMM_AA without an upset, its engine's store behind it. -/
theorem gemmAa_store {s : State} {g : EngId} {ws : List Word} (hi : gInt ws = true) (hp : PlainEpi (gemmEpi s g ws)) :
    (eng (gemmWritten none s g ws (gemmAaCols s g ws) 0 false) g).rs = memWrs (eng s g).rs
      ((slots s (List.range (gM ws)) (groupsOf (gN ws)) 0 false).map (fun k =>
        int32Write ws (gemmMat s g ws (gemmAaCols s g ws).1) (k % gM ws) (k / gM ws))) := by
  have ho := (gemmOut_quiet (intMat_quiet (gemm_intMat hi s g (gemmAaCols_good hi s g)) (eng s g).ftol) 0).1
  rw [gemmWritten_rs, ho, List.reverse_reverse, List.map_map]
  refine congrArg (memWrs _) (List.map_congr_left (fun k _ => ?_))
  rw [Function.comp_apply, drained_plain hi hp rfl, rowWrite_plain hp]
  rfl

theorem gemmAa_element {s : State} {g : EngId} {ws : List Word} (hi : gInt ws = true) (hp : PlainEpi (gemmEpi s g ws)) (hk : gemmOk ws = true)
    (hm : memWf (eng s g).rs = true) {r c : Nat} (hr : r < gM ws) (hc : c < gN ws) :
    int32At (eng (gemmWritten none s g ws (gemmAaCols s g ws) 0 false) g).rs (gemmAt ws r + 4 * c) =
      Safety.sat32 (wrap48 (exact (gemmMat s g ws (gemmAaCols s g ws).1) r
        ((gemmAaCols s g ws).1[c]'(by rw [gemmAaCols_length]; exact hc), c))) := by
  have hn := gemmAaCols_length s g ws
  have hs : 4 * gN ws ≤ 128 * df ws 5 30 16 := by
    have h := gemmOk_rowC hk
    rw [show dFo ws = fmtInt32 from hp.fo, rowLines, rowBytes_byteFmt byteFmt_int32, cdiv] at h
    omega
  rw [gemmAa_store hi hp]
  generalize hl : List.map (fun k => int32Write ws _ (k % gM ws) (k / gM ws)) _ = l
  have hmem : int32Write ws (gemmMat s g ws (gemmAaCols s g ws).1) r (c / 128) ∈ l := by
    rw [← hl]
    refine List.mem_map.2 ⟨c / 128 * gM ws + r, mem_slots (by unfold groupsOf cdiv; omega) hr, ?_⟩
    obtain ⟨h1, h2⟩ := slot_row (j := c / 128) hr
    rw [h1, h2]
  have hrow := memRd_memWrs (m := (eng s g).rs) hmem (fun x hx => by
    rw [← hl] at hx
    obtain ⟨k, hk, rfl⟩ := List.mem_map.1 hx
    obtain ⟨j, q, hj, hq, rfl⟩ := mem_slots_iff.1 hk
    obtain ⟨h1, h2⟩ := slot_row (j := j) hq
    rw [h1, h2]
    exact int32Write_apart hn rfl hs r q (by omega) (by unfold groupsOf cdiv at hj; omega))
  rw [int32Write_length] at hrow
  have hlen := rowInts_length (gemmMat s g ws (gemmAaCols s g ws).1) r (c / 128)
  change _ = min 128 ((gemmAaCols s g ws).1.length - 128 * (c / 128)) at hlen
  have hat := int32At_row (memWf_memWrs hm l) hrow (c % 128) (by omega)
  have hadd : (int32Write ws (gemmMat s g ws (gemmAaCols s g ws).1) r (c / 128)).1 + 4 * (c % 128) = gemmAt ws r + 4 * c := by
    change gemmAt ws r + 4 * (128 * (c / 128)) + 4 * (c % 128) = _
    omega
  rw [hadd] at hat
  rw [hat]
  rw [rowInts_getElem (x := gemmMat s g ws (gemmAaCols s g ws).1) (by omega) (Nat.div_add_mod c 128).symm]
  rfl

theorem gemmEpi_plain {s : State} {g : Nat} {ws : List Word} (hi : gInt ws = true) (ho : dFo ws = fmtInt32) (hb : gBias ws = false)
    (hs : gScale ws = false) (hsh : df ws 9 12 8 = 0) (ha : df ws 9 3 0 = 0) : PlainEpi (gemmEpi s g ws) :=
  ⟨hi, by simp [gemmEpi, accVec, hb], by simp [gemmEpi, accVec, hs], hsh, ha, ho⟩

/-- Settles O36: the rows of C are written apart from each other, and each element is its accumulator. -/
theorem integerProduct : Obligations.IntegerProduct := by
  intro s g ws t h hk hb he ha hfb hfo hacc hbias hscale hshift hact hm
  have hi : gInt ws = true := by simp [gInt, pairInt, ha, hfb]
  have hw := (works_addBusy g t).trans (works_gemmWritten none (addBusy t g) g ws (gemmAaCols (addBusy t g) g ws) 0 false)
  have hq := intMat_quiet (gemm_intMat hi (addBusy t g) g (gemmAaCols_good hi (addBusy t g) g)) (eng (addBusy t g) g).ftol
  have hrs : (eng (addBusy t g) g).rs = (eng t g).rs := addBusy_rs t g
  refine ⟨_, gemmAa_completes h hk hb he hq, ran_doneOk h hw, fun r c hr hc => ?_⟩
  rw [eng_doneOk h hw]
  refine (gemmAa_element hi (gemmEpi_plain hi hfo hbias hscale hshift hact) hk (hrs ▸ hm) hr hc).trans ?_
  have hstart : numInt ((gemmMat (addBusy t g) g ws (gemmAaCols (addBusy t g) g ws).1).start r c) = 0 := by
    simp [gemmMat, startOf, hacc, hi, numInt]
  rw [exact, hstart, zero_add, aRow_int8 (hrs ▸ hm) ha hr, bCol_int8 (hrs ▸ hm) hfb hc, dotX_map, hrs]

end Sys2Proof.Proofs


/-! NOP and the vector operations of two operands (04 R145-R147; 05 R199, R207-R209). -/

namespace Sys2Proof.Proofs

open Sys2Proof.Machine Sys2Proof.Safety Sys2Proof.Laws

/-! Rows of the formats of R207. -/

theorem vecFmt_byteFmt {f : Nat} (h : vecFmt f = true) : ∃ k, ByteFmt f k := by
  have hc : f = 1 ∨ f = 2 ∨ f = 0xA ∨ f = 3 ∨ f = 4 ∨ f = 5 ∨ f = 6 ∨ f = 7 := by
    simp only [vecFmt, isFp, Bool.or_eq_true, Bool.and_eq_true, decide_eq_true_eq] at h
    omega
  rcases hc with rfl | rfl | rfl | rfl | rfl | rfl | rfl | rfl
  · exact ⟨1, rfl, by decide, by decide⟩
  · exact ⟨2, rfl, by decide, by decide⟩
  · exact ⟨4, rfl, by decide, by decide⟩
  · exact ⟨1, rfl, by decide, by decide⟩
  · exact ⟨1, rfl, by decide, by decide⟩
  · exact ⟨2, rfl, by decide, by decide⟩
  · exact ⟨2, rfl, by decide, by decide⟩
  · exact ⟨4, rfl, by decide, by decide⟩

theorem rowNums_length {f k : Nat} (hf : ByteFmt f k) (n : Nat) (bs : List Byte) : (rowNums f n bs).1.length = n := by
  rw [rowNums, if_neg hf.neB, rowCodes, if_neg hf.ne4]
  simp

theorem numsRow_length {f k : Nat} (hf : ByteFmt f k) (trunc : Bool) (xs : List Machine.Num) :
    (numsRow f trunc xs).1.length = rowBytes f xs.length := by
  rw [numsRow, if_neg hf.neB]
  dsimp only
  rw [codesRow_length hf, tally_fst, List.length_map, rowBytes_byteFmt hf]

theorem withOpen_length (hit : Option (Nat × Bool)) (fo idx first : Nat) (xs : List Machine.Num) :
    (withOpen hit fo idx first xs).length = xs.length := by
  unfold withOpen
  split
  · split
    · exact List.length_set
    · rfl
  · rfl

/-! Results. -/

/-- The row of results. -/
def vRow (chk : Bool) (u : Option Upset) (s : State) (ws : List Word) (xs : List Machine.Num) : List Byte × Cnt :=
  numsRow (dFo ws) false (withOpen (vHit chk u xs.length) (dFo ws) s.free 0 xs)

theorem vRow_length {chk : Bool} {u : Option Upset} {s : State} {ws : List Word} (hf : vecFmt (dFo ws) = true) (xs : List Machine.Num) :
    (vRow chk u s ws xs).1.length = rowBytes (dFo ws) xs.length := by
  obtain ⟨k, hk⟩ := vecFmt_byteFmt hf
  rw [vRow, numsRow_length hk, withOpen_length]

/-- The state in which results are in the store. -/
def vWritten (s : State) (g : EngId) (ws : List Word) (c : Cnt) (bs : List Byte) : State :=
  rsWr (addCnt (fresh s).2 g c) g (vDst ws) bs

theorem works_vWritten (s : State) (g : EngId) (ws : List Word) (c : Cnt) (bs : List Byte) : Works g s (vWritten s g ws c bs) :=
  ((works_fresh g s).trans (works_addCnt g _ c)).trans (works_rsWr g _ _ bs)

theorem vWritten_rs (s : State) (g : EngId) (ws : List Word) (c : Cnt) (bs : List Byte) :
    (eng (vWritten s g ws c bs) g).rs = memWr (eng s g).rs (128 * vDst ws) bs := by
  rw [vWritten, rsWr_rs, addCnt_rs, fresh_rs]

theorem vWritten_outside (s : State) (g : EngId) (ws : List Word) (c : Cnt) {bs : List Byte} {n : Nat} (h : bs.length ≤ n) :
    sameOutside (eng s g).rs (eng (vWritten s g ws c bs) g).rs (128 * vDst ws) n := by
  intro b hb
  rw [vWritten_rs, memByte_memWr_outside _ (by omega)]

section

variable {chk : Bool} {u : Option Upset} (s : State) (g : EngId) (ws : List Word) (c : Cnt) {xs : List Machine.Num}

theorem vFinish_ok (h : ∀ e, vHit chk u xs.length ≠ some (e, true)) : vFinish chk u s g ws c xs =
    doneOk (vWritten s g ws (c.add (vRow chk u s ws xs).2) (vRow chk u s ws xs).1) g ws := by
  unfold vFinish
  dsimp only
  split
  · next e he => exact absurd he (h e)
  · rfl

theorem vFinish_found {e : Nat} (h : vHit chk u xs.length = some (e, true)) : vFinish chk u s g ws c xs =
    doneMismatch (vWritten s g ws c ((vRow chk u s ws xs).1.take (Config.choice s.free % (e + 1) * fmtBits (dFo ws) / 8))) g ws
      false true := by
  unfold vFinish vRow
  dsimp only
  rw [h]
  rfl

end

/-! The elements of an operation of two operands. -/

/-- What an operation makes of its operands: the elements and the counts. -/
def vecBinRes (opI : Int → Int → Int → Int) (opF : Fl → Fl → Fl → Fl × Cnt) (s : State) (g : EngId) (ws : List Word) : List Machine.Num × Cnt :=
  let n := vCount ws
  let a := vRead s g (dFa ws) (vSrc1 ws) n
  let b := vOperand2 s g ws
  let d := (vRead s g (dFo ws) (vDst ws) n).1
  let abd := a.1.zip (b.1.zip d)
  if vecInt ws then (abd.map (fun x => .int (opI (numInt x.1) (numInt x.2.1) (numInt x.2.2))), a.2.add b.2)
  else
    let r := tally (fun (x : Machine.Num × Machine.Num × Machine.Num) => opF (numF32 x.1) (numF32 x.2.1) (numF32 x.2.2)) abd
    (r.1.map .fl, (a.2.add b.2).add r.2)

theorem vecBinOk_fmts {ws : List Word} (h : vecBinOk ws = true) :
    vecFmt (dFa ws) = true ∧ vecFmt (dFb ws) = true ∧ vecFmt (dFo ws) = true := by
  simp only [vecBinOk, Bool.and_eq_true] at h
  obtain ⟨⟨⟨⟨⟨⟨-, ha⟩, hb⟩, ho⟩, -⟩, -⟩, -⟩ := h
  exact ⟨ha, hb, ho⟩

theorem vRead_length {f : Nat} (hf : vecFmt f = true) (s : State) (g line n : Nat) : (vRead s g f line n).1.length = n := by
  obtain ⟨k, hk⟩ := vecFmt_byteFmt hf
  exact rowNums_length hk _ _

theorem vOperand2_length {ws : List Word} (hf : vecFmt (dFb ws) = true) (s : State) (g : Nat) : (vOperand2 s g ws).1.length = vCount ws := by
  unfold vOperand2
  split
  · dsimp only
    split <;> exact List.length_replicate
  · exact vRead_length hf ..

section

variable {opI : Int → Int → Int → Int} {opF : Fl → Fl → Fl → Fl × Cnt}

theorem vecBinRes_length {ws : List Word} (h : vecBinOk ws = true) (s : State) (g : EngId) :
    (vecBinRes opI opF s g ws).1.length = vCount ws := by
  obtain ⟨ha, hb, ho⟩ := vecBinOk_fmts h
  unfold vecBinRes
  dsimp only
  split <;> simp [vRead_length ha, vRead_length ho, vOperand2_length hb]

theorem vecBin_run {sub : Nat} {s t : State} {g : EngId} {ws : List Word} (h : DescReady s g 8 ws t) (hs : dSub ws = sub)
    (hk : vecBinOk ws = true) (hn : vCount ws ≠ 0) (u : Option Upset) : vecBin sub opI opF g u s =
      .next (vFinish (vecInt ws || (sub = 2 || sub = 3)) u (addBusy t g) g ws (vecBinRes opI opF (addBusy t g) g ws).2
        (vecBinRes opI opF (addBusy t g) g ws).1) := by
  refine (runEng_ready h (o := _) rfl (by simp [hs]) hk (by simp [vEmpty, hn])).trans ?_
  unfold vecBinRes
  dsimp only
  cases vecInt ws <;> rfl

/-- INT32 elements, read where they stand. -/
theorem vRead_int32 {s : State} {g : Nat} (hm : memWf (eng s g).rs = true) (line n : Nat) : (vRead s g fmtInt32 line n).1 =
    (List.range n).map (fun i => .int (int32At (eng s g).rs (128 * line + 4 * i))) := by
  rw [vRead, rsRd, rowNums_int byteFmt_int32 rfl hm]
  rfl

theorem vecBinRes_int32 {s : State} {g : EngId} {ws : List Word} (hm : memWf (eng s g).rs = true) (ha : dFa ws = fmtInt32)
    (hb : dFb ws = fmtInt32) (ho : dFo ws = fmtInt32) (hs : vSc ws = false) : (vecBinRes opI opF s g ws).1 =
      ((List.range (vCount ws)).map (fun i => opI (int32At (eng s g).rs (128 * vSrc1 ws + 4 * i))
        (int32At (eng s g).rs (128 * vSrc2 ws + 4 * i)) (int32At (eng s g).rs (128 * vDst ws + 4 * i)))).map .int := by
  have hi : vecInt ws = true := by
    rw [vecInt, ha, hb, ho]
    rfl
  have h2 : (vOperand2 s g ws).1 = (vRead s g fmtInt32 (vSrc2 ws) (vCount ws)).1 := by
    simp [vOperand2, hs, hb]
  unfold vecBinRes
  dsimp only
  rw [if_pos hi, h2, ha, ho, vRead_int32 hm, vRead_int32 hm, vRead_int32 hm, List.zip_map', List.zip_map', List.map_map, List.map_map]
  rfl

/-- An operation without an upset. -/
theorem vecBin_exact {sub : Nat} {s t : State} {g : EngId} {ws : List Word} (h : DescReady s g 8 ws t) (hs : dSub ws = sub)
    (hk : vecBinOk ws = true) (hn : vCount ws ≠ 0) : ∃ u, vecBin sub opI opF g none s = .next u ∧ ran t u g ws stOk ∧
      sameOutside (eng t g).rs (eng u g).rs (128 * vDst ws) (rowBytes (dFo ws) (vCount ws)) ∧
      (memWf (eng t g).rs = true → dFa ws = fmtInt32 → dFb ws = fmtInt32 → dFo ws = fmtInt32 → vSc ws = false → ∀ i, i < vCount ws →
        int32At (eng u g).rs (128 * vDst ws + 4 * i) = Safety.sat32 (opI (int32At (eng t g).rs (128 * vSrc1 ws + 4 * i))
          (int32At (eng t g).rs (128 * vSrc2 ws + 4 * i)) (int32At (eng t g).rs (128 * vDst ws + 4 * i)))) := by
  obtain ⟨-, -, hof⟩ := vecBinOk_fmts hk
  have hw (c : Cnt) (bs : List Byte) := (works_addBusy g t).trans (works_vWritten (addBusy t g) g ws c bs)
  have hrs : (eng (addBusy t g) g).rs = (eng t g).rs := addBusy_rs t g
  rw [vecBin_run h hs hk hn, vFinish_ok _ _ _ _ (fun e => by simp [vHit])]
  refine ⟨_, rfl, ran_doneOk h (hw _ _), ?_, fun hm ha hb ho hsc i hi => ?_⟩
  · rw [eng_doneOk h (hw _ _)]
    have ho := vWritten_outside (addBusy t g) g ws ((vecBinRes opI opF (addBusy t g) g ws).2.add
      (vRow (vecInt ws || (sub = 2 || sub = 3)) none (addBusy t g) ws (vecBinRes opI opF (addBusy t g) g ws).1).2)
      (le_of_eq (vRow_length (chk := vecInt ws || (sub = 2 || sub = 3)) (u := none) (s := addBusy t g) hof
        (vecBinRes opI opF (addBusy t g) g ws).1))
    rwa [hrs, vecBinRes_length hk] at ho
  · rw [eng_doneOk h (hw _ _)]
    have hres := vecBinRes_int32 (opI := opI) (opF := opF) (hrs ▸ hm) ha hb ho hsc
    rw [hrs] at hres
    have hrow (chk : Bool) : (vRow chk none (addBusy t g) ws (vecBinRes opI opF (addBusy t g) g ws).1).1 =
        ((List.range (vCount ws)).map (fun i => opI (int32At (eng t g).rs (128 * vSrc1 ws + 4 * i))
          (int32At (eng t g).rs (128 * vSrc2 ws + 4 * i)) (int32At (eng t g).rs (128 * vDst ws + 4 * i)))).flatMap
          (fun v => natLe 4 (tc 32 (Safety.sat32 v))) := by
      rw [hres, vRow, ho]
      exact numsRow_int32 false _
    change int32At (eng (vWritten ..) g).rs _ = _
    rw [vWritten_rs, hrs, hrow]
    generalize hv : (List.range (vCount ws)).map _ = vs
    have hl : i < vs.length := by
      rw [← hv]
      simpa using hi
    refine (int32At_row (memWf_memWr _ _ _ hm) ?_ i hl).trans ?_
    · rw [← flatMap_const_length (fun v => natLe_length 4 (tc 32 (Safety.sat32 v)))]
      exact memRd_memWr ..
    · simp only [← hv, List.getElem_map, List.getElem_range]

/-- An operation with an error that its residue check finds. -/
theorem vecBin_found {sub : Nat} {s t : State} {g : EngId} {ws : List Word} (h : DescReady s g 8 ws t) (hs : dSub ws = sub)
    (hk : vecBinOk ws = true) {x : Upset} (hc : vecInt ws = true ∨ sub = 2 ∨ sub = 3) (hr : x.row < vCount ws) (he : x.err.emod 3 ≠ 0) :
    ∃ u, vecBin sub opI opF g (some x) s = .next u ∧ ended u g ws stBadCheck ∧ (eng u g).rescnt = min 255 ((eng t g).rescnt + 1) ∧
      (eng u g).abftcnt = min 255 (eng t g).abftcnt ∧ (eng u g).chk = true ∧
      sameOutside (eng t g).rs (eng u g).rs (128 * vDst ws) (rowBytes (dFo ws) (vCount ws)) := by
  obtain ⟨-, -, hof⟩ := vecBinOk_fmts hk
  have h0 : x.err ≠ 0 := fun h => he (by rw [h]; rfl)
  have hchk : (vecInt ws || (decide (sub = 2) || decide (sub = 3))) = true := by simpa using hc
  have hl := vecBinRes_length (opI := opI) (opF := opF) hk (addBusy t g) g
  have hh : vHit (vecInt ws || (sub = 2 || sub = 3)) (some x) (vecBinRes opI opF (addBusy t g) g ws).1.length = some (x.row, true) := by
    rw [hchk, hl]
    simp [vHit, hr, h0, he]
  rw [vecBin_run h hs hk (by omega), vFinish_found _ _ _ _ hh]
  obtain ⟨hd, ha, hre, hck, hrs⟩ := doneMismatch_ended (descReady_unstarted h) h.whole ((works_addBusy g t).trans
    (works_vWritten (addBusy t g) g ws (vecBinRes opI opF (addBusy t g) g ws).2 ((vRow (vecInt ws || (sub = 2 || sub = 3)) (some x)
      (addBusy t g) ws (vecBinRes opI opF (addBusy t g) g ws).1).1.take
      (Config.choice (addBusy t g).free % (x.row + 1) * fmtBits (dFo ws) / 8)))) ws false true
  refine ⟨_, rfl, hd, hre, ha, hck, ?_⟩
  rw [hrs, ← addBusy_rs t g]
  refine vWritten_outside (addBusy t g) g ws _ ?_
  rw [List.length_take, vRow_length hof, hl]
  exact Nat.min_le_right _ _

/-- An operation that no residue check covers. -/
theorem vecBin_unchecked {sub : Nat} {s t : State} {g : EngId} {ws : List Word} (h : DescReady s g 8 ws t) (hs : dSub ws = sub)
    (hk : vecBinOk ws = true) (hn : vCount ws ≠ 0) (hc : vecInt ws = false) (h2 : sub ≠ 2) (h3 : sub ≠ 3) (x : Option Upset) :
    ∃ u, vecBin sub opI opF g x s = .next u ∧ ran t u g ws stOk ∧ (eng u g).rescnt = (eng t g).rescnt := by
  have hh (n e : Nat) : vHit (vecInt ws || (sub = 2 || sub = 3)) x n ≠ some (e, true) := by
    simp only [hc, h2, h3, decide_false, Bool.or_self]
    unfold vHit
    split
    · split <;> simp
    · simp
  have hw (c : Cnt) (bs : List Byte) := (works_addBusy g t).trans (works_vWritten (addBusy t g) g ws c bs)
  rw [vecBin_run h hs hk hn, vFinish_ok _ _ _ _ (hh _)]
  refine ⟨_, rfl, ran_doneOk h (hw _ _), ?_⟩
  rw [eng_doneOk h (hw _ _)]
  exact (hw _ _).rescnt

end

/-- The rows of two operands, each with its exact integer operation. -/
theorem exec_vecBin_exact {g : EngId} {sub : Nat} {r : Instr} {f : Int → Int → Int → Int} (s : State)
    (hm : (sub, r, f) ∈ [(1, Instr.vecAdd g none, fun a b _ => a + b), (2, .vecMul g none, fun a b _ => a * b),
      (3, .vecFma g none, fun a b d => a * b + d), (4, .vecMax g none, fun a b _ => max a b), (5, .vecMin g none, fun a b _ => min a b)]) :
    ∃ opF, exec r s = vecBin sub f opF g none s := by
  simp only [List.mem_cons, List.not_mem_nil, or_false, Prod.mk.injEq] at hm
  rcases hm with ⟨rfl, rfl, rfl⟩ | ⟨rfl, rfl, rfl⟩ | ⟨rfl, rfl, rfl⟩ | ⟨rfl, rfl, rfl⟩ | ⟨rfl, rfl, rfl⟩
  · exact ⟨_, execVecAdd.eq_1 g s none⟩
  · exact ⟨_, execVecMul.eq_1 g s none⟩
  · exact ⟨_, execVecFma.eq_1 g s none⟩
  · exact ⟨_, execVecMax.eq_1 g s none⟩
  · exact ⟨_, execVecMin.eq_1 g s none⟩

theorem exec_vecBin {g : EngId} {x : Option Upset} {sub : Nat} {r : Instr} (s : State)
    (hm : (sub, r) ∈ [(1, Instr.vecAdd g x), (2, .vecMul g x), (3, .vecFma g x), (4, .vecMax g x), (5, .vecMin g x)]) :
    ∃ opI opF, exec r s = vecBin sub opI opF g x s := by
  simp only [List.mem_cons, List.not_mem_nil, or_false, Prod.mk.injEq] at hm
  rcases hm with ⟨rfl, rfl⟩ | ⟨rfl, rfl⟩ | ⟨rfl, rfl⟩ | ⟨rfl, rfl⟩ | ⟨rfl, rfl⟩
  · exact ⟨_, _, execVecAdd.eq_1 g s x⟩
  · exact ⟨_, _, execVecMul.eq_1 g s x⟩
  · exact ⟨_, _, execVecFma.eq_1 g s x⟩
  · exact ⟨_, _, execVecMax.eq_1 g s x⟩
  · exact ⟨_, _, execVecMin.eq_1 g s x⟩

/-- Settles O32: each row is the general operation of two operands, and the residue check looks at the upset alone. -/
theorem vectorArithmetic : Obligations.VectorArithmetic := by
  refine ⟨?_, ?_, ?_, ?_⟩
  · intro s g ws t h hf hz
    have hw := works_addBusy g t
    have hx : exec (.nop g) s = _ := runEng_ready h (o := _) rfl rfl (by simp [hf, hz]) rfl
    refine ⟨_, hx, ran_doneOk h hw, ?_⟩
    rw [eng_doneOk h hw]
    exact addBusy_rs t g
  · intro s g ws t sub r f hm h hs hk hn
    obtain ⟨opF, hr⟩ := exec_vecBin_exact s hm
    rw [hr]
    exact vecBin_exact h hs hk hn
  · intro s g ws t x sub r hm h hs hk hc hr he
    obtain ⟨opI, opF, hx⟩ := exec_vecBin s hm
    rw [hx]
    exact vecBin_found h hs hk hc hr he
  · intro s g ws t x sub r hm h hs hk hc hn
    have hsub : sub ≠ 2 ∧ sub ≠ 3 := by
      simp only [List.mem_cons, List.not_mem_nil, or_false, Prod.mk.injEq] at hm
      omega
    obtain ⟨opI, opF, hx⟩ := exec_vecBin s (by
      simp only [List.mem_cons, List.not_mem_nil, or_false, Prod.mk.injEq] at hm ⊢
      tauto)
    rw [hx]
    exact vecBin_unchecked h hs hk hn hc hsub.1 hsub.2 (some x)

end Sys2Proof.Proofs


/-! LOAD and STORE (04 R157, R158; 12 R432, R433). -/

namespace Sys2Proof.Proofs

open Sys2Proof.Machine Sys2Proof.Safety Sys2Proof.Laws

/-! Rows one after the other. -/

/-- The place of row `r` in the store. -/
def storeAt (ws : List Word) (r : Nat) : Nat := 128 * (mLine ws + r * mStride ws)

/-- The place of row `r` in the memory. -/
def memoryAt (ws : List Word) (r : Nat) : Nat := mAddr ws + r * mGap ws

/-- Rows that all go well are a run of steps. -/
theorem moveRows_ok {one : State → Nat → Except State State} {f : State → Nat → State} (h : ∀ s r, one s r = .ok (f s r)) :
    ∀ (n r : Nat) (s : State), moveRows one n r s = .ok ((List.range' r n).foldl f s)
  | 0, _, _ => rfl
  | n + 1, r, s => by
    rw [moveRows, h]
    exact moveRows_ok h n (r + 1) (f s r)

/-- Writes whose places a step keeps apart. -/
theorem memRd_rows {m : Mem} {at' : Nat → Nat} {data : Nat → List Byte} {len n : Nat} (hl : ∀ r, (data r).length = len)
    (hd : ∀ r r', r < r' → at' r + len ≤ at' r') {r : Nat} (hr : r < n) :
    memRd (memWrs m ((List.range' 0 n).map (fun r => (at' r, data r)))) (at' r) len = data r := by
  have hm : (at' r, data r) ∈ (List.range' 0 n).map (fun r => (at' r, data r)) :=
    List.mem_map.2 ⟨r, by rw [← List.range_eq_range']; exact List.mem_range.2 hr, rfl⟩
  have h := memRd_memWrs (m := m) hm (fun x hx => by
    obtain ⟨q, -, rfl⟩ := List.mem_map.1 hx
    rcases Nat.lt_trichotomy r q with h | rfl | h
    · have := hd r q h
      simp only [hl]
      omega
    · exact .inl rfl
    · have := hd q r h
      simp only [hl]
      omega)
  rwa [hl] at h

theorem memByte_rows {m : Mem} {at' : Nat → Nat} {data : Nat → List Byte} {len n b : Nat} (hl : ∀ r, (data r).length = len)
    (h : ∀ r, r < n → b < at' r ∨ at' r + len ≤ b) :
    memByte (memWrs m ((List.range' 0 n).map (fun r => (at' r, data r)))) b = memByte m b := by
  refine memByte_memWrs_outside (fun x hx => ?_)
  obtain ⟨q, hq, rfl⟩ := List.mem_map.1 hx
  rw [← List.range_eq_range'] at hq
  rw [hl]
  exact h q (List.mem_range.1 hq)

theorem moveOk_stride {ws : List Word} (h : moveOk ws = true) (he : moveEmpty ws = false) : cdiv (mBytes ws) 128 ≤ mStride ws := by
  have hb : mBytes ws ≠ 0 := by
    rintro h0
    simp [moveEmpty, h0] at he
  simp only [moveOk, Bool.and_eq_true, Bool.or_eq_true, rowsIn, decide_eq_true_eq, hb, false_or] at h
  obtain ⟨⟨-, hr⟩, -⟩ := h
  exact hr.1

theorem storeAt_apart {ws : List Word} (h : cdiv (mBytes ws) 128 ≤ mStride ws) {r r' : Nat} (hr : r < r') :
    storeAt ws r + mBytes ws ≤ storeAt ws r' := by
  have hm := Nat.mul_le_mul_right (mStride ws) (Nat.succ_le_of_lt hr)
  rw [Nat.succ_mul] at hm
  unfold cdiv at h
  unfold storeAt
  omega

theorem memoryAt_apart {ws : List Word} (h : mBytes ws ≤ mGap ws) {r r' : Nat} (hr : r < r') :
    memoryAt ws r + mBytes ws ≤ memoryAt ws r' := by
  have hm := Nat.mul_le_mul_right (mGap ws) (Nat.succ_le_of_lt hr)
  rw [Nat.succ_mul] at hm
  unfold memoryAt
  omega

/-! LOAD from the die pool. -/

/-- A row of a LOAD from the die pool. -/
def poolLoad (g : EngId) (ws : List Word) (s : State) (r : Nat) : State :=
  rsWr s g (mLine ws + r * mStride ws) (poolRd s (dieOf g) (memoryAt ws r) (mBytes ws))

theorem loadRow_pool {g : EngId} {ws : List Word} (h : mPool ws = true) (s : State) (r : Nat) :
    loadRow g ws s r = .ok (poolLoad g ws s r) := by
  unfold loadRow
  dsimp only
  rw [if_pos h]
  rfl

theorem poolLoads (g : EngId) (ws : List Word) (l : List Nat) (s : State) : Works g s (l.foldl (poolLoad g ws) s) ∧
    (eng (l.foldl (poolLoad g ws) s) g).rs =
      memWrs (eng s g).rs (l.map (fun r => (storeAt ws r, poolRd s (dieOf g) (memoryAt ws r) (mBytes ws)))) := by
  induction l generalizing s with
  | nil => exact ⟨.refl g s, rfl⟩
  | cons r l ih =>
    obtain ⟨hw, hr⟩ := ih (poolLoad g ws s r)
    refine ⟨(works_rsWr g s _ _).trans hw, ?_⟩
    rw [List.foldl_cons, hr, poolLoad, rsWr_rs]
    rfl

theorem load_pool {s t : State} {g : EngId} {ws : List Word} (h : DescReady s g 9 ws t) (hk : moveOk ws = true) (he : moveEmpty ws = false)
    (hp : mPool ws = true) : ∃ u, exec (.load g) s = .next u ∧ ran t u g ws stOk ∧
      (∀ r, r < mRows ws → memRd (eng u g).rs (storeAt ws r) (mBytes ws) = poolRd t (dieOf g) (memoryAt ws r) (mBytes ws)) ∧
      ∀ b, (∀ r, r < mRows ws → b < storeAt ws r ∨ storeAt ws r + mBytes ws ≤ b) → memByte (eng u g).rs b = memByte (eng t g).rs b := by
  obtain ⟨hw, hrs⟩ := poolLoads g ws (List.range' 0 (mRows ws)) (addBusy t g)
  have hw := (works_addBusy g t).trans hw
  rw [addBusy_rs] at hrs
  have hx : exec (.load g) s = .next (doneOk ((List.range' 0 (mRows ws)).foldl (poolLoad g ws) (addBusy t g)) g ws) := by
    have hr : exec (.load g) s = _ := runEng_ready h (o := _) rfl rfl hk he
    rw [hr]
    simp only [loadRun, moveRows_ok (loadRow_pool hp)]
  refine ⟨_, hx, ran_doneOk h hw, fun r hr => ?_, fun b hb => ?_⟩
  · rw [eng_doneOk h hw]
    exact (congrArg (fun m => memRd m _ _) hrs).trans
      (memRd_rows (fun _ => memRd_length ..) (fun _ _ => storeAt_apart (moveOk_stride hk he)) hr)
  · rw [eng_doneOk h hw]
    exact (congrArg (fun m => memByte m b) hrs).trans (memByte_rows (fun _ => memRd_length ..) hb)

/-! STORE to the die pool. -/

/-- A row of a STORE to the die pool. -/
def poolStore (g : EngId) (ws : List Word) (s : State) (r : Nat) : State :=
  poolWr s (dieOf g) (memoryAt ws r) (rsRd s g (mLine ws + r * mStride ws) (mBytes ws))

theorem storeRow_pool {g : EngId} {ws : List Word} (h : mPool ws = true) (s : State) (r : Nat) :
    storeRow g ws s r = .ok (poolStore g ws s r) := by
  unfold storeRow
  dsimp only
  rw [if_pos h]
  rfl

/-- A die without its pool. -/
def noPool (d : Die) : Die := { d with pool := {} }

/-- Work in the pool of die `n` alone. -/
structure PoolWork (n : Nat) (s t : State) : Prop where
  rest   : t = { s with dies := t.dies }
  others : ∀ m, m ≠ n → die t m = die s m
  same   : noPool (die t n) = noPool (die s n)

theorem PoolWork.refl (n : Nat) (s : State) : PoolWork n s s := ⟨rfl, fun _ _ => rfl, rfl⟩

theorem PoolWork.trans {n : Nat} {s t u : State} (h : PoolWork n s t) (k : PoolWork n t u) : PoolWork n s u :=
  ⟨by rw [k.rest, h.rest], fun m hm => (k.others m hm).trans (h.others m hm), k.same.trans h.same⟩

theorem poolWork_poolWr (s : State) (n a : Nat) (bs : List Byte) : PoolWork n s (poolWr s n a bs) :=
  ⟨rfl, fun _ h => die_modDie_ne s _ h, by rw [poolWr, die_modDie_self]; rfl⟩

theorem poolStores (g : EngId) (ws : List Word) (l : List Nat) (s : State) : PoolWork (dieOf g) s (l.foldl (poolStore g ws) s) ∧
    (die (l.foldl (poolStore g ws) s) (dieOf g)).pool =
      memWrs (die s (dieOf g)).pool (l.map (fun r => (memoryAt ws r, rsRd s g (mLine ws + r * mStride ws) (mBytes ws)))) := by
  induction l generalizing s with
  | nil => exact ⟨.refl _ s, rfl⟩
  | cons r l ih =>
    obtain ⟨hw, hr⟩ := ih (poolStore g ws s r)
    refine ⟨(poolWork_poolWr s (dieOf g) _ _).trans hw, ?_⟩
    rw [List.foldl_cons, hr, poolStore, poolWr, die_modDie_self]
    rfl

theorem owes_poolWork {n : Nat} {s t : State} (h : PoolWork n s t) (g : EngId) : owes t g = owes s g := by
  have hm (k : Nat) : (mct t k).writes = (mct s k).writes := by
    by_cases hk : k = n
    · subst hk
      exact (congrArg (fun d => d.mct.writes) h.same :)
    · rw [mct, h.others k hk, mct]
  have hh : heldWrites t = heldWrites s := by
    rw [h.rest]
    rfl
  simp only [owes, hm, hh]

theorem store_pool {s t : State} {g : EngId} {ws : List Word} (h : DescReady s g 0xA ws t) (hk : moveOk ws = true) (he : moveEmpty ws = false)
    (hp : mPool ws = true) (hg : mBytes ws ≤ mGap ws) (ho : owes t g = false) :
    ∃ u, exec (.store g) s = .next u ∧ ended u g ws stOk ∧ (eng u g).rs = (eng t g).rs ∧
      (∀ r, r < mRows ws → poolRd u (dieOf g) (memoryAt ws r) (mBytes ws) = rsRd t g (mLine ws + r * mStride ws) (mBytes ws)) ∧
      (die u (dieOf g)).hbm = (die t (dieOf g)).hbm ∧
      (∀ b, (∀ r, r < mRows ws → b < memoryAt ws r ∨ memoryAt ws r + mBytes ws ≤ b) →
        memByte (die u (dieOf g)).pool b = memByte (die t (dieOf g)).pool b) ∧ ∀ m : DieId, m.val ≠ dieOf g → die u m = die t m := by
  obtain ⟨hw, hpool⟩ := poolStores g ws (List.range' 0 (mRows ws)) (addBusy t g)
  have hrs (line n : Nat) : rsRd (addBusy t g) g line n = rsRd t g line n := by rw [rsRd, addBusy_rs, rsRd]
  simp only [hrs] at hpool
  have hod : owes ((List.range' 0 (mRows ws)).foldl (poolStore g ws) (addBusy t g)) g = false := (owes_poolWork hw g).trans ho
  have hx : exec (.store g) s = .next (doneOk ((List.range' 0 (mRows ws)).foldl (poolStore g ws) (addBusy t g)) g ws) := by
    have hr : exec (.store g) s = _ := runEng_ready h (o := _) rfl rfl hk he
    rw [hr]
    simp only [storeRun, moveRows_ok (storeRow_pool hp), hod]
    rfl
  generalize (List.range' 0 (mRows ws)).foldl (poolStore g ws) (addBusy t g) = v at hw hpool hx
  have hb := works_addBusy g t
  have hu := descReady_unstarted h
  have hev : eng v g = eng (addBusy t g) g := by
    rw [hw.rest]
    rfl
  have hd : (doneOk v g ws).dies = v.dies := engDone_dies ..
  have hdie (m : Nat) : die (doneOk v g ws) m = die v m := by rw [die, hd, die]
  refine ⟨_, hx, ended_engDone ?_ ?_ _ _ _, ?_, fun r hr => ?_, ?_, fun b hb => ?_, fun m hm => ?_⟩
  · rw [hev, hb.done, hu.done]
  · rw [hev, hb.late, hu.late]
  · rw [doneOk, eng_engDone (by rw [hev, hb.cut, h.whole]), hev]
    exact addBusy_rs t g
  · rw [poolRd, hdie, hpool]
    exact memRd_rows (fun _ => memRd_length ..) (fun _ _ => memoryAt_apart hg) hr
  · rw [hdie]
    exact (congrArg Die.hbm hw.same :)
  · rw [hdie, hpool]
    exact memByte_rows (fun _ => memRd_length ..) hb
  · rw [hdie, hw.others m hm]
    rfl

end Sys2Proof.Proofs


/-! LOAD and STORE at a stack (12 R432, R433, R445, R446). -/

namespace Sys2Proof.Proofs

open Sys2Proof.Machine Sys2Proof.Safety Sys2Proof.Laws

theorem grants_spot {s u : State} {liv : Byte} {a n : Nat} {k : Kind} {src : Initiator} {p : Spot}
    (h : grants s liv a n k src = .spot p u) : ∃ l, u = rerouted s l := by
  unfold grants at h
  split at h
  · cases h
  · next q _ =>
    obtain ⟨l, hl⟩ := settleFor_eq s src q.tgt
    dsimp only at h
    split at h
    · cases h
    · split at h
      · cases h
      · split at h
        · cases h
        · exact ⟨l, (Admit.spot.inj h).2.symm.trans hl⟩

/-! What a read does at a stack before its bytes come. -/

theorem mem_of_mem_bankSet_default {α : Type} [DecidableEq α] {d : α} {m : Bank α} {k : Nat} {x : Nat × α} (h : x ∈ bankSet d m k d) : x ∈ m := by
  simp only [bankSet, if_true, List.append_nil, List.mem_append, List.mem_filter] at h
  rcases h with h | h
  · exact h.1
  · exact h.1

theorem foundIn_mono {m m' : Mct} (h : ∀ x ∈ m'.flaws, x ∈ m.flaws) {e : EccEvent} {off len : Nat} (hm : foundIn m e off len = []) :
    foundIn m' e off len = [] := by
  simp only [foundIn, List.map_eq_nil_iff, List.filter_eq_nil_iff] at hm ⊢
  exact fun x hx => hm x (h x hx)

/-- A step at the stack of die `n` after which a source's reads find the same. -/
structure SameView (n : Nat) (s t : State) : Prop extends StackRead n s t where
  compat : (mct t n).compat = (mct s n).compat
  seq    : (mct t n).seq = (mct s n).seq
  free   : t.free = s.free
  flaws  : ∀ x ∈ (mct t n).flaws, x ∈ (mct s n).flaws

theorem SameView.refl (n : Nat) (s : State) : SameView n s s := ⟨.refl n s, rfl, rfl, rfl, fun _ h => h⟩

theorem SameView.trans {n : Nat} {s t u : State} (h : SameView n s t) (k : SameView n t u) : SameView n s u :=
  ⟨h.toStackRead.trans k.toStackRead, k.compat.trans h.compat, k.seq.trans h.seq, k.free.trans h.free,
    fun x hx => h.flaws x (k.flaws x hx)⟩

theorem forceRefresh_view (m : Mct) (l : List Nat) :
    (l.foldl forceRefresh m).compat = m.compat ∧ (l.foldl forceRefresh m).seq = m.seq := by
  induction l generalizing m with
  | nil => exact ⟨rfl, rfl⟩
  | cons k l ih => exact ih (forceRefresh m k)

/-- A step in the controller's own state that leaves the queue, the mode and no flaw that was not there. -/
theorem sameView_modMct (s : State) (n : Nat) {f : Mct → Mct} (hw : (f (mct s n)).writes = (mct s n).writes)
    (hc : (f (mct s n)).compat = (mct s n).compat) (hq : (f (mct s n)).seq = (mct s n).seq)
    (hf : ∀ x ∈ (f (mct s n)).flaws, x ∈ (mct s n).flaws) : SameView n s (modMct s n f) :=
  ⟨stackRead_modMct s n hw, by rw [mct_modMct_self, hc], by rw [mct_modMct_self, hq], rfl, by rwa [mct_modMct_self]⟩

theorem sameView_refreshFor (s : State) (n off len : Nat) : SameView n s (refreshFor s n off len) := by
  unfold refreshFor
  split
  · exact .refl n s
  · obtain ⟨hw, hf⟩ := forceRefresh_writes (mct s n) (stuckBanks (mct s n) off len)
    obtain ⟨hc, hq⟩ := forceRefresh_view (mct s n) (stuckBanks (mct s n) off len)
    exact sameView_modMct s n hw hc hq (fun x hx => by rwa [hf] at hx)

theorem sameView_ceEvent (s : State) (n b : Nat) : SameView n s (ceEvent s n b) := by
  refine sameView_modMct s n rfl rfl rfl (fun x hx => ?_)
  dsimp only at hx
  split at hx
  · exact hx
  · exact mem_of_mem_bankSet_default hx

theorem sameView_correct (s : State) (n : Nat) (p : MctPort) (liv : Byte) (off len : Nat) : SameView n s (correct s n p liv off len) :=
  forAll_rel _ (.refl n) .trans (fun t b => sameView_ceEvent t n b) _ s

theorem SameView.view {n : Nat} {s t : State} (h : SameView n s t) (p : MctPort) (liv : Byte) : hbmView t n p liv = hbmView s n p liv := by
  have hw : (die t n).mct.writes = (die s n).mct.writes := h.writes
  have hc : (die t n).mct.compat = (die s n).mct.compat := h.compat
  simp only [hbmView, hw, hc, h.hbm, h.free]

/-- A read of bursts without an uncorrectable error delivers the bytes that its source sees. -/
theorem hbmGet_ok {s : State} {n : Nat} {off len : Nat} (h : badIn (mct s n) off len = none) (p : MctPort) (liv : Byte) :
    (hbmGet s n p liv off len).1 = some (memRd (hbmView s n p liv) off len) := by
  have hv := (sameView_refreshFor s n off len).trans (sameView_correct _ n p liv off len)
  have hf := foundIn_mono hv.flaws (List.head?_eq_none_iff.1 h)
  unfold hbmGet foundFor
  dsimp only
  rw [hf, List.filter_nil]
  dsimp only
  rw [hv.view]

/-- A LOAD of one row from a stack. -/
theorem load_stack {s t U : State} {g : EngId} {ws : List Word} {p : Spot} {d : DieId} (h : DescReady s g 9 ws t) (hk : moveOk ws = true)
    (he : moveEmpty ws = false) (hp : mPool ws = false) (h1 : mRows ws = 1)
    (hg : grants (addBusy t g) (engLivery (addBusy t g) g) (mAddr ws) (mBytes ws) .read (.engine g) = .spot p U) (hd : p.place = .hbm d)
    (hb : badIn (mct U d) p.off (mBytes ws) = none) : ∃ u, exec (.load g) s = .next u ∧ ended u g ws stOk ∧
      (eng u g).rs = memWr (eng t g).rs (128 * mLine ws)
        (memRd (hbmView U d (portOf U (.engine g) d) (engLivery (addBusy t g) g)) p.off (mBytes ws)) ∧
      (∀ m : DieId, (die u m).hbm = (die t m).hbm) ∧ ∀ h : EngId, h ≠ g → eng u h = eng t h := by
  obtain ⟨l, hl⟩ := grants_spot hg
  have hliv : engLivery U g = engLivery (addBusy t g) g := by
    rw [hl]
    rfl
  have hok := hbmGet_ok hb (portOf U (.engine g) d) (engLivery (addBusy t g) g)
  have hread := stackRead_hbmGet U d (portOf U (.engine g) d) (engLivery (addBusy t g) g) p.off (mBytes ws)
  generalize hbs : memRd (hbmView U d (portOf U (.engine g) d) (engLivery (addBusy t g) g)) p.off (mBytes ws) = bs at hok ⊢
  obtain ⟨W, hW⟩ : ∃ W, hbmGet U d (portOf U (.engine g) d) (engLivery (addBusy t g) g) p.off (mBytes ws) = (some bs, W) := ⟨_, Prod.ext hok rfl⟩
  rw [hW] at hread
  have hx : exec (.load g) s = .next (doneOk (rsWr W g (mLine ws) bs) g ws) := by
    have hr : exec (.load g) s = _ := runEng_ready h (o := _) rfl rfl hk he
    rw [hr]
    simp only [loadRun, h1, moveRows, loadRow, hp, Bool.false_eq_true, if_false, Nat.zero_mul, Nat.add_zero, hg, hd, hliv, hW]
  have hen (k : Nat) : eng W k = eng (addBusy t g) k := by
    rw [eng_of_engines hread.engines, hl]
    rfl
  have hb := works_addBusy g t
  have hw := works_rsWr g W (mLine ws) bs
  have hu := descReady_unstarted h
  refine ⟨_, hx, ended_engDone ?_ ?_ _ _ _, ?_, fun m => ?_, fun k hkg => ?_⟩
  · rw [hw.done, hen, hb.done, hu.done]
  · rw [hw.late, hen, hb.late, hu.late]
  · rw [doneOk, eng_engDone (by rw [hw.cut, hen, hb.cut, h.whole])]
    change (eng (rsWr W g (mLine ws) bs) g).rs = _
    rw [rsWr_rs, hen, addBusy_rs]
  · have hdies : (doneOk (rsWr W g (mLine ws) bs) g ws).dies = W.dies := engDone_dies ..
    have hm : (die W m).hbm = (die U m).hbm := by
      by_cases hmd : m = d
      · rw [hmd, hread.hbm]
      · rw [hread.others m (fun hv => hmd (Fin.ext hv))]
    rw [die, hdies, ← die, hm, hl]
    rfl
  · rw [doneOk, eng_engDone_ne _ _ _ _ (fun hv => hkg (Fin.ext hv)), hw.others k hkg, hen, hb.others k hkg]

/-! A write waits in the queue of a stack. -/

theorem sameView_partRead {s : State} {n : Nat} (h : (mct s n).flaws = []) (p : MctPort) (liv : Byte) (off len : Nat) :
    partRead s n p liv off len = (false, (partRead s n p liv off len).2) ∧ SameView n s (partRead s n p liv off len).2 := by
  have hr := forAll_rel (SameView n) (.refl n) .trans (fun t b => sameView_refreshFor t n (32 * b) 32) (partBursts off len) s
  have hf : (mct (forAll s (partBursts off len) (fun s b => refreshFor s n (32 * b) 32)) n).flaws = [] :=
    List.eq_nil_iff_forall_not_mem.2 (fun x hx => by
      have := hr.flaws x hx
      rw [h] at this
      cases this)
  refine ⟨Prod.ext (partRead_flawless h p liv off len) rfl, ?_⟩
  unfold partRead
  dsimp only
  rw [foundPart_flawless hf p liv (by decide)]
  change SameView n s (ueEvents (forAll s _ _) n liv (foundPart (mct (forAll s _ _) n) p liv .ue off len))
  rw [foundPart_flawless hf p liv (by decide)]
  exact hr

/-- A write that the queue has room for stands behind those before it. -/
theorem hbmQueue_room {s : State} {n : Nat} {w : PendWrite} (h : queuedBursts (mct s n) + (burstsOf w.off w.data.length).length ≤ 2048) :
    hbmQueue s n w = modMct s n (fun m => { m with writes := m.writes ++ [{ w with seq := m.seq }], seq := m.seq + 1 }) := by
  have hov : overflow w.off w.data.length = 0 := by
    unfold overflow
    exact if_pos (by omega)
  unfold hbmQueue
  dsimp only
  rw [hov, if_neg (Nat.not_lt.2 h)]
  rfl

/-- A write to a stack without flaws and with room in its queue is accepted. -/
structure Queued (n : Nat) (w : PendWrite) (s t : State) : Prop extends StackWork n s t where
  engines : t.engines = s.engines
  hbm     : (die t n).hbm = (die s n).hbm
  compat  : (mct t n).compat = (mct s n).compat
  writes  : (mct t n).writes = (mct s n).writes ++ [{ w with seq := (mct s n).seq }]

theorem hbmOffer_room {s : State} {n : Nat} {w : PendWrite} (hf : (mct s n).flaws = [])
    (h : queuedBursts (mct s n) + (burstsOf w.off w.data.length).length ≤ 2048) :
    ∃ t, hbmOffer s n w = (none, t) ∧ Queued n w s t := by
  obtain ⟨hp, hv⟩ := sameView_partRead hf w.port w.livery w.off w.data.length
  generalize (partRead s n w.port w.livery w.off w.data.length).2 = t at hp hv
  have hq : queuedBursts (mct t n) + (burstsOf w.off w.data.length).length ≤ 2048 := by
    rwa [queuedBursts, hv.writes, ← queuedBursts]
  refine ⟨hbmQueue t n w, by rw [hbmOffer, hp], ?_⟩
  rw [hbmQueue_room hq]
  refine ⟨hv.toStackWork.trans (stackWork_modDie t n _), hv.engines, ?_, ?_, ?_⟩
  · rw [modMct, die_modDie_self]
    exact hv.hbm
  · rw [mct_modMct_self]
    exact hv.compat
  · rw [mct_modMct_self, ← hv.writes, ← hv.seq]

/-- A write that nobody waits for leaves what an engine is owed. -/
theorem owes_queued {s t : State} {d : DieId} {w : PendWrite} (h : Queued d w s t) (hw : w.owed = false) (g : EngId) :
    owes t g = owes s g := by
  have hm (k : DieId) : (mct t k).writes.any (fun w => w.owed && w.eng == some g) =
      (mct s k).writes.any (fun w => w.owed && w.eng == some g) := by
    by_cases hk : k = d
    · subst hk
      simp [h.writes, hw]
    · rw [mct, h.others k (fun hv => hk (Fin.ext hv)), mct]
  have hh : heldWrites t = heldWrites s := (congrArg heldWrites h.rest :)
  simp only [owes, hm, hh]

/-- What was written last is what every source sees. -/
theorem view_queued {s t : State} {n : Nat} {w : PendWrite} (h : Queued n w s t) (hc : (mct s n).compat = false) (q : MctPort) (l : Byte) :
    memRd (hbmView t n q l) w.off w.data.length = w.data := by
  have hct : (die t n).mct.compat = false := h.compat.trans hc
  have hw : (die t n).mct.writes = _ := h.writes
  simp only [hbmView, hct, hw, Bool.false_eq_true, if_false, List.foldl_append, List.foldl_cons, List.foldl_nil, applyWr]
  exact memRd_memWr ..

/-- The write of a STORE's row to a stack. -/
def rowToStack (s : State) (g : EngId) (d : DieId) (liv : Byte) (off : Nat) (bs : List Byte) : PendWrite :=
  { port := portOf s (.engine g) d, livery := liv, off := off, data := bs, path := linksTo s (.engine g) d, owed := false, eng := some g }

/-- A STORE of one row to a stack. -/
theorem store_stack {s t U : State} {g : EngId} {ws : List Word} {p : Spot} {d : DieId} (h : DescReady s g 0xA ws t) (hk : moveOk ws = true)
    (he : moveEmpty ws = false) (hp : mPool ws = false) (h1 : mRows ws = 1)
    (hg : grants (addBusy t g) (engLivery (addBusy t g) g) (mAddr ws) (mBytes ws) .write (.engine g) = .spot p U) (hd : p.place = .hbm d)
    (hf : (mct U d).flaws = []) (hc : (mct U d).compat = false) (ho : owes U g = false)
    (hroom : queuedBursts (mct U d) + (burstsOf p.off (mBytes ws)).length ≤ 2048) : ∃ u, exec (.store g) s = .next u ∧
      ended u g ws stOk ∧ (eng u g).rs = (eng t g).rs ∧
      (mct u d).writes = (mct U d).writes ++ [{ rowToStack U g d (engLivery (addBusy t g) g) p.off
        (rsRd (addBusy t g) g (mLine ws) (mBytes ws)) with seq := (mct U d).seq }] ∧
      (∀ q l, memRd (hbmView u d q l) p.off (mBytes ws) = rsRd (addBusy t g) g (mLine ws) (mBytes ws)) ∧
      (∀ m : DieId, (die u m).hbm = (die t m).hbm) ∧ ∀ h : EngId, h ≠ g → eng u h = eng t h := by
  obtain ⟨l, hl⟩ := grants_spot hg
  have hliv : engLivery U g = engLivery (addBusy t g) g := by
    rw [hl]
    rfl
  have hlen : (rsRd (addBusy t g) g (mLine ws) (mBytes ws)).length = mBytes ws := memRd_length ..
  generalize hbs : rsRd (addBusy t g) g (mLine ws) (mBytes ws) = bs at hlen ⊢
  obtain ⟨W, hW, hQ⟩ := hbmOffer_room (w := rowToStack U g d (engLivery (addBusy t g) g) p.off bs) hf (by
    rw [show (rowToStack U g d (engLivery (addBusy t g) g) p.off bs).data = bs from rfl, hlen]
    exact hroom)
  have hrow : storeRow g ws (addBusy t g) 0 = .ok W := by
    unfold rowToStack at hW
    simp only [storeRow, hp, Bool.false_eq_true, if_false, Nat.zero_mul, Nat.add_zero, hg, hd, hliv, hc, hbs, hW]
  have hx : exec (.store g) s = .next (doneOk W g ws) := by
    have hr : exec (.store g) s = _ := runEng_ready h (o := _) rfl rfl hk he
    rw [hr]
    simp only [storeRun, h1, moveRows, hrow, owes_queued hQ rfl g, ho]
    rfl
  have hen (k : Nat) : eng W k = eng (addBusy t g) k := by
    rw [eng_of_engines hQ.engines, hl]
    rfl
  have hb := works_addBusy g t
  have hu := descReady_unstarted h
  have hdie (m : Nat) : die (doneOk W g ws) m = die W m := by
    rw [die, show (doneOk W g ws).dies = W.dies from engDone_dies .., die]
  refine ⟨_, hx, ended_engDone ?_ ?_ _ _ _, ?_, ?_, fun q k => ?_, fun m => ?_, fun k hkg => ?_⟩
  · rw [hen, hb.done, hu.done]
  · rw [hen, hb.late, hu.late]
  · rw [doneOk, eng_engDone (by rw [hen, hb.cut, h.whole]), hen]
    exact addBusy_rs t g
  · rw [mct, hdie]
    exact hQ.writes
  · have hv : hbmView (doneOk W g ws) d q k = hbmView W d q k := by
      have hc' : (die W d).mct.compat = false := hQ.compat.trans hc
      simp only [hbmView, hdie, hc']
      rfl
    rw [hv, ← hlen]
    exact view_queued hQ hc q k
  · have hm : (die W m).hbm = (die U m).hbm := by
      by_cases hmd : m = d
      · rw [hmd, hQ.hbm]
      · rw [hQ.others m (fun hv => hmd (Fin.ext hv))]
    rw [hdie, hm, hl]
    rfl
  · rw [doneOk, eng_engDone_ne _ _ _ _ (fun hv => hkg (Fin.ext hv)), hen, hb.others k hkg]

/-- Settles O38: the rows do not meet, and a stack takes its transaction whole. -/
theorem loadsAndStores : Obligations.LoadsAndStores := by
  refine ⟨?_, ?_, ?_, ?_⟩
  · intro s g ws t h hk he hp
    exact load_pool h hk he hp
  · intro s g ws t h hk he hp hg ho
    exact store_pool h hk he hp hg ho
  · rintro s g ws t _ U p d rfl h hk he hp h1 hg hd hb
    exact load_stack h hk he hp h1 hg hd hb
  · rintro s g ws t _ U p d rfl h hk he hp h1 hg hd hf hc ho hroom
    exact store_stack h hk he hp h1 hg hd hf hc ho hroom

end Sys2Proof.Proofs


/-! Halo messages and WAIT (04 R159-R161; 11 R407). -/

namespace Sys2Proof.Proofs

open Sys2Proof.Machine Sys2Proof.Safety Sys2Proof.Laws

/-! HALO_SEND. -/

theorem settleRoute_rerouted (s : State) (a b : DieId) : ∃ l, settleRoute s a b = rerouted s l := by
  unfold settleRoute
  dsimp only
  split
  · exact ⟨s.iod.altRoute, rfl⟩
  · exact ⟨_, rfl⟩

theorem haloSend_waits {s t : State} {g : EngId} {ws : List Word} (h : DescReady s g 0xC ws t) (hk : haloOk ws = true) (hm : hMode ws = 0)
    (hp : hPool ws = false) (ha : dFa ws = 0) (he : haloEmpty ws = false) : ∃ u, exec (.haloSend g) s = .next u ∧
      u.flight = t.flight ++ [(g, hPeer (dieOf g) (hDir ws), !hDir ws, { tag := hTag ws, data := rsRd t g (hPlace ws) (hLen ws) })] ∧
      (eng u g).waiting = some .haloSend ∧ (eng u g).cur = some ws ∧ (eng u g).rs = (eng t g).rs ∧ u.dies = t.dies := by
  have hx : exec (.haloSend g) s = _ := runEng_ready h (o := _) rfl rfl (by simp [hk, hm, hp, ha]) he
  obtain ⟨l, hl⟩ := settleRoute_rerouted (addBusy t g) (homeDie g) (hPeer (dieOf g) (hDir ws))
  have hrs : rsRd (addBusy t g) g (hPlace ws) (hLen ws) = rsRd t g (hPlace ws) (hLen ws) := by rw [rsRd, addBusy_rs, rsRd]
  dsimp only at hx
  rw [hl, hrs] at hx
  refine ⟨_, hx, rfl, ?_, ?_, ?_, rfl⟩
  · rw [eng_modEng_self]
  · rw [eng_modEng_self]
  · rw [eng_modEng_self]
    exact addBusy_rs t g

/-! HALO_MESSAGE_ARRIVE. -/

@[simp] theorem boxOf_setBox_same (d : Die) (p : Bool) (l : List HaloMsg) : boxOf (setBox d p l) p = l := by
  cases p <;> rfl

@[simp] theorem boxOf_setBox_other (d : Die) (p : Bool) (l : List HaloMsg) : boxOf (setBox d p l) (!p) = boxOf d (!p) := by
  cases p <;> rfl

theorem setBox_pool (d : Die) (p : Bool) (l : List HaloMsg) : (setBox d p l).pool = d.pool := by
  cases p <;> rfl

/-- A message under way alone lands where its way is open and its mailbox has room. -/
theorem landing_alone {s : State} {g : EngId} {n : DieId} {p : Bool} {m : HaloMsg} (hf : s.flight = [(g, n, p, m)])
    (hroom : boxBytes (boxOf (die s n) p) + m.data.length ≤ 262144) (hway : wayOpen s (flightWay s (g, n, p, m)) = true) :
    landing s g = some (g, n, p, m) := by
  simp [landing, hf, hway, hroom]

theorem receivers_none {s : State} {n : DieId} {p : Bool} {tag : Nat} (h : ∀ g : EngId, (eng s g).waiting ≠ some .haloRecv) :
    receivers s n p tag = [] := by
  unfold receivers
  rw [List.filter_eq_nil_iff]
  intro g _ hg
  simp only [Bool.and_eq_true, beq_iff_eq] at hg
  exact h g hg.1.2

/-- The state in which a message stands in its mailbox. -/
def landed (s : State) (n : DieId) (p : Bool) (m : HaloMsg) : State :=
  modDie { s with flight := [] } n (fun d => setBox d p (boxOf d p ++ [m]))

theorem eng_landed (s : State) (n : DieId) (p : Bool) (m : HaloMsg) (h : Nat) : eng (landed s n p m) h = eng s h := rfl

theorem haloMessage_lands {s : State} {g : EngId} {n : DieId} {p : Bool} {m : HaloMsg} {ws : List Word} (hf : s.flight = [(g, n, p, m)])
    (hc : (eng s g).cur = some ws) (hd : (eng s g).done = []) (hl : (eng s g).late = [])
    (hroom : boxBytes (boxOf (die s n) p) + m.data.length ≤ 262144) (hway : wayOpen s (flightWay s (g, n, p, m)) = true)
    (hw : ∀ h : EngId, (eng s h).waiting ≠ some .haloRecv) : ∃ u, exec (.haloMessageArrive g) s = .next u ∧ u.flight = [] ∧
      boxOf (die u n) p = boxOf (die s n) p ++ [m] ∧ boxOf (die u n) (!p) = boxOf (die s n) (!p) ∧ ended u g ws stOk ∧
      (∀ d : DieId, d ≠ n → die u d = die s d) ∧ ∀ h : EngId, h ≠ g → eng u h = eng s h := by
  have hend : ended (doneOk (landed s n p m) g ws) g ws stOk :=
    ended_engDone (by rw [eng_landed, hd]) (by rw [eng_landed, hl]) _ _ _
  have hne (h : EngId) (hg : h ≠ g) : eng (doneOk (landed s n p m) g ws) h = eng s h :=
    (eng_engDone_ne _ _ _ _ (fun hv => hg (Fin.ext hv))).trans (eng_landed ..)
  have hrec : receivers (doneOk (landed s n p m) g ws) n p m.tag = [] := receivers_none (fun h => by
    by_cases hg : h = g
    · subst hg
      rw [hend.2.1]
      decide
    · rw [hne h hg]
      exact hw h)
  have hx : exec (.haloMessageArrive g) s = .next (doneOk (landed s n p m) g ws) := by
    change execHaloMessageArrive g s = _
    have hcl : (eng (landed s n p m) g).cur = some ws := by rw [eng_landed, hc]
    unfold execHaloMessageArrive
    rw [landing_alone hf hroom hway]
    dsimp only
    rw [hf, List.erase_cons_head]
    rw [show modDie { s with flight := [] } n (fun d => setBox d p (boxOf d p ++ [m])) = landed s n p m from rfl]
    rw [hcl]
    dsimp only
    rw [hrec]
    rfl
  have hdie (k : Nat) : die (doneOk (landed s n p m) g ws) k = die (landed s n p m) k := by
    rw [die, show (doneOk (landed s n p m) g ws).dies = (landed s n p m).dies from engDone_dies .., die]
  refine ⟨_, hx, ?_, ?_, ?_, hend, fun d hdn => ?_, hne⟩
  · obtain ⟨e, k, h⟩ := engDone_eq (landed s n p m) g stOk ws false
    rw [doneOk, h]
    rfl
  · rw [hdie, landed, die_modDie_self, boxOf_setBox_same]
    rfl
  · rw [hdie, landed, die_modDie_self, boxOf_setBox_other]
    rfl
  · rw [hdie, landed, die_modDie_ne _ _ (fun hv => hdn (Fin.ext hv))]
    rfl

/-! HALO_RECV. -/

/-- The bytes that a HALO_RECV writes. -/
def recvBytes (s : State) (g : EngId) (ws : List Word) (m : HaloMsg) : List Byte :=
  if hMode ws = 1 then (haloSum (dFa ws) (memRd (eng s g).rs (128 * hPlace ws) (hLen ws)) m.data).1 else m.data

/-- A message of the descriptor's length goes to the store. -/
theorem takeHalo_store {s : State} {g : EngId} {ws : List Word} {m : HaloMsg} (hp : hPool ws = false) (hm : m.data.length = hLen ws) :
    ∃ c, takeHalo s g ws m = doneOk (rsWrAt (addCnt (fresh s).2 g c) g (128 * hPlace ws) (recvBytes s g ws m)) g ws := by
  have hd (f : Nat → Byte) : m.data.take (hLen ws) ++ (List.range (hLen ws - m.data.length)).map f = m.data := by
    rw [hm, Nat.sub_self, List.range_zero, List.map_nil, List.append_nil, ← hm, List.take_length]
  unfold takeHalo recvBytes
  simp only [hp, Bool.false_eq_true, if_false, hd]
  split <;> exact ⟨_, rfl⟩

theorem recvRun_takes {s t : State} {g : EngId} {op : Nat} {ws : List Word} {m : HaloMsg} {rest : List HaloMsg} (h : DescReady s g op ws t)
    (ht : takeTag (hTag ws) (boxOf (die t (dieOf g)) (hDir ws)) = some (m, rest)) (hl : m.data.length = hLen ws) (hp : hPool ws = false) :
    ended (recvRun (addBusy t g) g ws) g ws stOk ∧ boxOf (die (recvRun (addBusy t g) g ws) (dieOf g)) (hDir ws) = rest ∧
      (eng (recvRun (addBusy t g) g ws) g).rs = memWr (eng t g).rs (128 * hPlace ws) (recvBytes t g ws m) ∧
      (die (recvRun (addBusy t g) g ws) (dieOf g)).pool = (die t (dieOf g)).pool ∧
      ∀ h : EngId, h ≠ g → eng (recvRun (addBusy t g) g ws) h = eng t h := by
  have hr : recvRun (addBusy t g) g ws = takeHalo (modDie (addBusy t g) (dieOf g) (fun d => setBox d (hDir ws) rest)) g ws m := by
    have ht' : takeTag (hTag ws) (boxOf (die (addBusy t g) (dieOf g)) (hDir ws)) = some (m, rest) := ht
    unfold recvRun
    dsimp only
    rw [ht']
  obtain ⟨c, hc⟩ := takeHalo_store (s := modDie (addBusy t g) (dieOf g) (fun d => setBox d (hDir ws) rest)) (g := g) hp hl
  have hby : recvBytes (modDie (addBusy t g) (dieOf g) (fun d => setBox d (hDir ws) rest)) g ws m = recvBytes t g ws m := by
    unfold recvBytes
    rw [show (eng (modDie (addBusy t g) (dieOf g) _) g).rs = (eng t g).rs from addBusy_rs t g]
  rw [hr, hc, hby]
  generalize recvBytes t g ws m = bs
  have hw := ((works_fresh g (modDie (addBusy t g) (dieOf g) (fun d => setBox d (hDir ws) rest))).trans (works_addCnt g _ c)).trans
    (works_rsWrAt g _ (128 * hPlace ws) bs)
  have hb := works_addBusy g t
  have hu := descReady_unstarted h
  have hdie : die (doneOk (rsWrAt (addCnt (fresh (modDie (addBusy t g) (dieOf g) (fun d => setBox d (hDir ws) rest))).2 g c) g
      (128 * hPlace ws) bs) g ws) (dieOf g) = setBox (die t (dieOf g)) (hDir ws) rest := by
    rw [die, doneOk, engDone_dies]
    change die (modDie (addBusy t g) (dieOf g) (fun d => setBox d (hDir ws) rest)) (dieOf g) = _
    rw [die_modDie_self]
    rfl
  refine ⟨ended_engDone ?_ ?_ _ _ _, ?_, ?_, ?_, fun k hk => ?_⟩
  · exact hw.done.trans (hb.done.trans hu.done)
  · exact hw.late.trans (hb.late.trans hu.late)
  · rw [hdie, boxOf_setBox_same]
  · rw [doneOk, eng_engDone (hw.cut.trans (hb.cut.trans h.whole))]
    change (eng (rsWrAt _ g _ _) g).rs = _
    rw [rsWrAt_rs, addCnt_rs]
    exact congrArg (fun m => memWr m _ _) (addBusy_rs t g)
  · rw [hdie, setBox_pool]
  · rw [doneOk, eng_engDone_ne _ _ _ _ (fun hv => hk (Fin.ext hv)), hw.others k hk]
    exact hb.others k hk

/-! WAIT. -/

theorem obj_modObj (s : State) (k : Nat) (f : SynObj → SynObj) : obj (modObj s k f) k = f (obj s k) := bankGet_bankSet_self _ _ _ _

/-- An engine waits on an object. -/
def waiting (s : State) (g : EngId) (ws : List Word) (k : Nat) : State :=
  modEng s g (fun e => { e with cur := some ws, waiting := some (.object k), st := 6 })

/-- The state in which an engine's WAIT stands at its object. -/
def queuedWait (s : State) (g : EngId) (ws : List Word) (k : Nat) : State :=
  modObj (waiting s g ws k) k (fun o => { o with waiters := o.waiters ++ [.engine g (nth ws 3).toNat] })

theorem waitRun {s t : State} {g : EngId} {ws : List Word} {k : Nat} (h : DescReady s g 0xF ws t) (h2 : df ws 2 31 16 = 0)
    (hz : zeroWords ws 4 13 = true) (h0 : df ws 0 27 16 = 0) (hn : nth ws 3 ≠ 0) (ho : physObj t (eng t g).bctx (df ws 2 15 0) = some k)
    (hst : (obj t k).st = 1) (hlim : (nth ws 3).toNat ≤ (obj t k).limit) : exec (.wait g) s =
      .next (serveObj (queuedWait (addBusy t g) g ws k) k) := by
  have hx : exec (.wait g) s = _ := runEng_ready h (o := _) rfl rfl (by simp [h2, hz, h0]) rfl
  have hp : physObj (addBusy t g) (eng (addBusy t g) g).bctx (df ws 2 15 0) = some k := by
    rw [(works_addBusy g t).bctx]
    exact ho
  have hob : obj (addBusy t g) k = obj t k := rfl
  have hn0 : (nth ws 3).toNat ≠ 0 := fun hv => hn (BitVec.eq_of_toNat_eq hv)
  rw [hx]
  simp only [hp, hob, hst, hn0, Nat.not_lt.2 hlim, if_false, if_neg (show ¬ (1 : Nat) = 0 by decide), if_neg (show ¬ (1 : Nat) = 2 by decide)]
  rfl

/-- The one waiter of an object whose value suffices leaves at once. -/
theorem serveObj_serves {s : State} {k n : Nat} {g : EngId} (hw : (obj s k).waiters = [.engine g n]) (hn : n ≤ (obj s k).value) :
    serveObj s k = endEngWait (modObj s k (fun o => { o with value := o.value - n, waiters := [] })) g stOk := by
  have hs : satisfied (obj s k).value (obj s k).waiters = [(.engine g n, (obj s k).value - n)] := by
    simp [hw, satisfied, waiterN, hn]
  unfold serveObj
  dsimp only
  rw [hs, forAll, List.foldl_cons, List.foldl_nil]
  simp [modObj, hw, releaseWaiter]

/-- The one waiter of an object whose value does not suffice stays. -/
theorem serveObj_waits {s : State} {k n : Nat} {g : EngId} (hw : (obj s k).waiters = [.engine g n]) (hn : (obj s k).value < n) :
    serveObj s k = modObj s k id := by
  have hs : satisfied (obj s k).value (obj s k).waiters = [] := by
    simp [hw, satisfied, waiterN, Nat.not_le.2 hn]
  unfold serveObj
  dsimp only
  rw [hs]
  rfl

theorem queuedWait_obj {s : State} {k : Nat} (hw : (obj s k).waiters = []) (g : EngId) (ws : List Word) :
    obj (queuedWait s g ws k) k = { obj s k with waiters := [.engine g (nth ws 3).toNat] } := by
  rw [queuedWait, obj_modObj]
  have ho : obj (waiting s g ws k) k = obj s k := rfl
  rw [ho, hw, List.nil_append]

theorem wait_satisfied {s t : State} {g : EngId} {ws : List Word} {k : Nat} (h : DescReady s g 0xF ws t) (hw : (obj t k).waiters = [])
    (hv : (nth ws 3).toNat ≤ (obj t k).value) : ended (serveObj (queuedWait (addBusy t g) g ws k) k) g ws stOk ∧
      obj (serveObj (queuedWait (addBusy t g) g ws k) k) k = { obj t k with value := (obj t k).value - (nth ws 3).toNat } ∧
      ∀ h : EngId, h ≠ g → eng (serveObj (queuedWait (addBusy t g) g ws k) k) h = eng t h := by
  have hq := queuedWait_obj (s := addBusy t g) hw g ws
  have hb := works_addBusy g t
  have hu := descReady_unstarted h
  rw [serveObj_serves (by rw [hq]) (by rw [hq]; exact hv)]
  generalize hX : modObj (queuedWait (addBusy t g) g ws k) k _ = X
  have heX (j : Nat) : eng X j = eng (waiting (addBusy t g) g ws k) j := by
    rw [← hX]
    rfl
  have hself : eng X g = { eng (addBusy t g) g with cur := some ws, waiting := some (.object k), st := 6 } := by
    rw [heX, waiting, eng_modEng_self]
  have hend : endEngWait X g stOk = engDone X g stOk ws true := by
    unfold endEngWait
    rw [hself]
  rw [hend]
  refine ⟨ended_engDone ?_ ?_ _ _ _, ?_, fun j hj => ?_⟩
  · rw [hself]
    exact hb.done.trans hu.done
  · rw [hself]
    exact hb.late.trans hu.late
  · obtain ⟨e, n, he⟩ := engDone_eq X g stOk ws true
    rw [he]
    change obj X k = _
    rw [← hX, obj_modObj, hq, ← hw]
    rfl
  · have hne : (j : Nat) ≠ g := fun hv => hj (Fin.ext hv)
    rw [eng_engDone_ne _ _ _ _ hne, heX, waiting, eng_modEng_ne _ _ hne, hb.others j hj]

theorem wait_waits {t : State} {g : EngId} {ws : List Word} {k : Nat} (hw : (obj t k).waiters = [])
    (hv : (obj t k).value < (nth ws 3).toNat) : (eng (serveObj (queuedWait (addBusy t g) g ws k) k) g).waiting = some (.object k) ∧
      (eng (serveObj (queuedWait (addBusy t g) g ws k) k) g).cur = some ws ∧
      obj (serveObj (queuedWait (addBusy t g) g ws k) k) k = { obj t k with waiters := [.engine g (nth ws 3).toNat] } := by
  have hq := queuedWait_obj (s := addBusy t g) hw g ws
  rw [serveObj_waits (by rw [hq]) (by rw [hq]; exact hv)]
  have hself : eng (modObj (queuedWait (addBusy t g) g ws k) k id) g =
      { eng (addBusy t g) g with cur := some ws, waiting := some (.object k), st := 6 } := by
    change eng (waiting (addBusy t g) g ws k) g = _
    rw [waiting, eng_modEng_self]
  refine ⟨by rw [hself], by rw [hself], ?_⟩
  rw [obj_modObj, id, hq]
  rfl

/-- Settles O39: each operation is followed to its end; a mailbox keeps its other side, and an object serves its head. -/
theorem haloAndWait : Obligations.HaloAndWait := by
  refine ⟨?_, ?_, ?_, ?_⟩
  · intro s g ws t h hk hm hp ha he
    exact haloSend_waits h hk hm hp ha he
  · intro s g n p m ws hf hc hd hl hroom hway hw
    exact haloMessage_lands hf hc hd hl hroom hway hw
  · intro s g ws t mode r m rest hr h hk he hmode h0 h1 ht hl hp
    have hx : exec r s = .next (recvRun (addBusy t g) g ws) := by
      simp only [List.mem_cons, List.not_mem_nil, or_false, Prod.mk.injEq] at hr
      rcases hr with ⟨rfl, rfl⟩ | ⟨rfl, rfl⟩
      · exact runEng_ready h (o := _) rfl (by simp [hmode]) (by simp [hk, hmode, h0 rfl]) he
      · exact runEng_ready h (o := _) rfl (by simp [hmode]) (by simp [hk, h1 rfl]) he
    have hmode01 : mode = 0 ∨ mode = 1 := by
      simp only [List.mem_cons, List.not_mem_nil, or_false, Prod.mk.injEq] at hr
      omega
    obtain ⟨hend, hbox, hrs, hpool, hne⟩ := recvRun_takes h ht hl hp
    have hby : recvBytes t g ws m = if mode = 0 then m.data else
        (haloSum (dFa ws) (memRd (eng t g).rs (128 * hPlace ws) (hLen ws)) m.data).1 := by
      rw [recvBytes, hmode]
      rcases hmode01 with rfl | rfl <;> rfl
    exact ⟨_, hx, hend, hbox, hby ▸ hrs, hpool, hne⟩
  · intro s g ws t k h h2 hz h0 hn ho hst hlim hw
    have hx := waitRun h h2 hz h0 hn ho hst hlim
    exact ⟨fun hv => ⟨_, hx, wait_satisfied h hw hv⟩, fun hv => ⟨_, hx, wait_waits hw hv⟩⟩

end Sys2Proof.Proofs


/-! The service of an island stands through what the engines do at the stacks and the queues (16 R516). -/

namespace Sys2Proof.Proofs

open Sys2Proof.Machine Sys2Proof.Safety Sys2Proof.Laws

/-- Island A is in the service state it was in. -/
def SiaKept (s t : State) : Prop := t.sia.st = s.sia.st

theorem SiaKept.refl (s : State) : SiaKept s s := rfl

theorem SiaKept.trans {s t u : State} (h : SiaKept s t) (k : SiaKept t u) : SiaKept s u := Eq.trans k h

theorem sia_forAll {α : Type} {f : State → α → State} (hf : ∀ t x, SiaKept t (f t x)) (l : List α) (s : State) : SiaKept s (forAll s l f) :=
  forAll_rel SiaKept .refl .trans hf l s

theorem sia_logF (s : State) (f : Fact) : SiaKept s (logF s f) := by
  obtain ⟨e, he, -⟩ := isl_logF s f .sia
  exact (congrArg Island.st he).trans (islTake_st _ e)

theorem sia_engDone (s : State) (g : Nat) (st : Byte) (ws : List Word) (skip : Bool) : SiaKept s (engDone s g st ws skip) := by
  obtain ⟨e, n, h⟩ := engDone_eq s g st ws skip
  rw [h]
  rfl

theorem sia_refreshFor (s : State) (n off len : Nat) : SiaKept s (refreshFor s n off len) := by
  unfold refreshFor
  split <;> rfl

theorem sia_ueEvents (s : State) (n : Nat) (liv : Byte) (bs : List Nat) : SiaKept s (ueEvents s n liv bs) :=
  sia_forAll (fun t _ => SiaKept.trans (t := modMct t n _) rfl (sia_logF _ _)) bs s

theorem sia_ceEvent (s : State) (n b : Nat) : SiaKept s (ceEvent s n b) := rfl

theorem sia_correct (s : State) (n : Nat) (p : MctPort) (liv : Byte) (off len : Nat) : SiaKept s (correct s n p liv off len) :=
  sia_forAll (fun t b => sia_ceEvent t n b) _ s

theorem sia_partRead (s : State) (n : Nat) (p : MctPort) (liv : Byte) (off len : Nat) : SiaKept s (partRead s n p liv off len).2 :=
  ((sia_forAll (fun t b => sia_refreshFor t n (32 * b) 32) (partBursts off len) s).trans (sia_forAll (fun t b => sia_ceEvent t n b) _ _)).trans
    (sia_ueEvents _ n liv _)

theorem sia_hbmGet (s : State) (n : Nat) (p : MctPort) (liv : Byte) (off len : Nat) : SiaKept s (hbmGet s n p liv off len).2 := by
  have h := (sia_refreshFor s n off len).trans (sia_correct _ n p liv off len)
  unfold hbmGet
  dsimp only
  split
  · dsimp only
    split
    · exact h
    · exact h
  · exact h.trans (sia_ueEvents _ n liv _)

theorem sia_land (s : State) (n : Nat) (w : PendWrite) : SiaKept s (land s n w) := by
  unfold land
  dsimp only
  split <;> rfl

theorem sia_drainAt (s : State) (n idx : Nat) : SiaKept s (drainAt s n idx) := by
  unfold drainAt
  split
  · rfl
  · have hl (t : State) (w : PendWrite) (compat : Bool) (h : SiaKept s t) : SiaKept s (ackDrained (land t n w) compat w) := by
      unfold ackDrained
      split <;> exact h.trans (sia_land t n w)
    exact hl _ _ _ (sia_refreshFor s n _ _)

theorem sia_finishStores (s : State) : SiaKept s (finishStores s) := by
  refine sia_forAll (fun t h => ?_) _ s
  split
  · split
    · rfl
    · exact sia_engDone ..
  · rfl

theorem sia_drainAll (s : State) (n : Nat) : SiaKept s (drainAll s n) :=
  (sia_forAll (fun t _ => sia_drainAt t n 0) _ s).trans (sia_finishStores _)

theorem sia_hbmSet (s : State) (n : Nat) (liv : Byte) (off : Nat) (data : List Byte) : SiaKept s (hbmSet s n liv off data) := by
  have h := (sia_refreshFor s n off data.length).trans (sia_partRead _ n .spine liv off data.length)
  unfold hbmSet hbmPut
  generalize partRead (refreshFor s n off data.length) n .spine liv off data.length = x at h
  obtain ⟨_ | _, t⟩ := x
  · refine h.trans (.trans ?_ (sia_land _ n _))
    split
    · exact sia_drainAll t n
    · exact .refl t
  · exact h

theorem sia_putCopy (s : State) (n q : Nat) (bs : List Byte) : SiaKept s (putCopy s n q bs) := by
  unfold putCopy
  split
  · split
    · exact sia_hbmSet s n _ _ bs
    · exact .refl s
  · exact .refl s

theorem sia_setQueue (s : State) (q : Nat) (c : QueueCtx) : SiaKept s (setQueue s q c) :=
  (sia_putCopy { s with qmg := { s.qmg with queues := bankSet defQueue s.qmg.queues q c } } _ q _).trans (sia_putCopy _ _ q _)

theorem sia_readCopy (s : State) (n q : Nat) : SiaKept s (readCopy s n q).2 := by
  unfold readCopy
  split
  · rfl
  · split
    · rfl
    · dsimp only
      exact sia_hbmGet s n _ _ _ _

theorem sia_syncQueue (s : State) (q : Nat) : SiaKept s (syncQueue s q) := by
  have hb := (sia_readCopy s s.qmg.primary q).trans (sia_readCopy _ s.qmg.mirror q)
  unfold syncQueue
  split
  · exact .refl s
  · dsimp only
    split
    · split
      · exact hb
      · exact hb.trans (sia_setQueue _ q _)
    · exact hb.trans (sia_setQueue _ q _)
    · exact hb.trans (sia_setQueue _ q _)
    · exact (hb.trans (sia_setQueue _ q _)).trans (sia_logF _ _)

theorem sia_fetchDesc {s t : State} {g : EngId} {c : QueueCtx} {ws : List Word} {ok : Bool} (h : fetchDesc s g c = some (ws, ok, t)) :
    SiaKept s t := by
  unfold fetchDesc at h
  split at h
  · contradiction
  · next n o hr =>
    obtain ⟨l, hl⟩ := settleFor_eq s (.engine g) (.die n 14)
    dsimp only at h
    split at h
    · rw [hl] at h
      simp only [Option.some.injEq, Prod.mk.injEq] at h
      rw [← h.2.2]
      exact SiaKept.trans (t := rerouted s l) rfl (sia_hbmGet _ _ _ _ _ _)
    · contradiction

end Sys2Proof.Proofs


/-! Completions, weight fetches, hangs, withdrawals and self-test slices (04 R151, R168, R170; 14 R504-R508, R645). -/

namespace Sys2Proof.Proofs

open Sys2Proof.Machine Sys2Proof.Safety Sys2Proof.Laws

/-! DESCRIPTOR_COMPLETE. -/

/-- The dispatcher and the stage counter, as a step leaves them. -/
def OrderKept (s t : State) : Prop := t.dis = s.dis ∧ t.stg = s.stg

theorem OrderKept.trans {s t u : State} (h : OrderKept s t) (k : OrderKept t u) : OrderKept s u := ⟨k.1.trans h.1, k.2.trans h.2⟩

theorem OrderKept.of_offTable {s t : State} (h : offTable t = offTable s) : OrderKept s t :=
  ⟨(congrArg State.dis h :), (congrArg State.stg h :)⟩

/-- While no write waits at a stack, none does after, and no other engine than `g` has gone on. -/
def OthersIdle (g : EngId) (s t : State) : Prop :=
  (∀ n : DieId, (mct s n).writes = []) → (∀ n : DieId, (mct t n).writes = []) ∧ ∀ h : EngId, h ≠ g → eng t h = eng s h

theorem OthersIdle.trans {g : EngId} {s t u : State} (h : OthersIdle g s t) (k : OthersIdle g t u) : OthersIdle g s u := fun hs =>
  have ht := h hs
  have hu := k ht.1
  ⟨hu.1, fun j hj => (hu.2 j hj).trans (ht.2 j hj)⟩

theorem IdleKept.others {s t : State} (h : IdleKept s t) (g : EngId) : OthersIdle g s t := fun hs =>
  ⟨(h hs).1, fun j _ => eng_of_engines (h hs).2 j⟩

theorem OthersIdle.of_onlyEngine {g : EngId} {s t : State} (h : OnlyEngine s t g) : OthersIdle g s t := fun hs =>
  ⟨fun n => by rw [h.rest]; exact hs n, h.others⟩

/-- The engine whose oldest completion has been taken, with its signal. -/
def takenEng (c : Completion) (r : List Completion) (e : Engine) : Engine :=
  { e with
    done := r
    sigs := if tbit (nth c.words 14) 31 && c.status.toNat < 0x10 then e.sigs ++ [(c.ctx, fld (nth c.words 14) 15 0)] else e.sigs }

/-- The state in which an engine's oldest completion has been taken, before its milepost. -/
def taken (s : State) (g : EngId) (c : Completion) (r : List Completion) : State :=
  let t := syncQueue (modEng s g (fun e => { e with done := r })) c.queue
  if tbit (nth c.words 14) 31 && c.status.toNat < 0x10 then
    modEng t g (fun e => { e with sigs := e.sigs ++ [(c.ctx, fld (nth c.words 14) 15 0)] }) else t

section

variable {s : State} {g : EngId} {c : Completion} {r : List Completion}

theorem eng_taken (hc : (eng s g).cur = none) : eng (taken s g c r) g = takenEng c r (eng s g) := by
  have hs : eng (syncQueue (modEng s g (fun e => { e with done := r })) c.queue) g = { eng s g with done := r } := by
    rw [stands_syncQueue g (modEng s g (fun e => { e with done := r })) c.queue (by rw [eng_modEng_self, hc]), eng_modEng_self]
  unfold taken takenEng
  dsimp only
  split
  · rw [eng_modEng_self, hs]
  · exact hs

theorem order_taken : OrderKept s (taken s g c r) := by
  have h : OrderKept s (syncQueue (modEng s g (fun e => { e with done := r })) c.queue) :=
    .of_offTable (offTable_syncQueue (modEng s g _) c.queue)
  unfold taken
  dsimp only
  split
  · exact h
  · exact h

theorem others_taken : OthersIdle g s (taken s g c r) := by
  have h := (OthersIdle.of_onlyEngine (onlyEngine_modEng s g (fun e => { e with done := r }))).trans
    ((idle_syncQueue (modEng s g (fun e => { e with done := r })) c.queue).others g)
  unfold taken
  dsimp only
  split
  · exact h.trans (.of_onlyEngine (onlyEngine_modEng _ g _))
  · exact h

/-! Its milepost. -/

theorem queue_putCopy (t : State) (n q : Nat) (bs : List Byte) : queue (putCopy t n q bs) q = queue t q := by
  unfold putCopy
  split
  · split
    · exact congrArg (fun u => bankGet defQueue u.qmg.queues q) (stackWork_hbmSet t n _ _ bs).rest
    · rfl
  · rfl

theorem queue_setQueue (t : State) (q : Nat) (x : QueueCtx) : queue (setQueue t q x) q = x := by
  unfold setQueue
  dsimp only
  rw [queue_putCopy, queue_putCopy]
  exact bankGet_bankSet_self _ _ _ _

theorem milepost_queue (t : State) (q : Nat) (head : Word) : (queue (milepost t g q head) q).mphead = head := by
  unfold milepost modQueue
  dsimp only
  rw [queue_setQueue]

/-- The stores of an engine at a milepost hold nothing defined; what it has to report stands. -/
theorem milepost_eng {t : State} (hc : (eng t g).cur = none) (q : Nat) (head : Word) :
    (∃ ep, (eng (milepost t g q head) g).rs = { cells := [], fill := .free ep }) ∧
      (eng (milepost t g q head) g).done = (eng t g).done ∧ (eng (milepost t g q head) g).sigs = (eng t g).sigs ∧
      (eng (milepost t g q head) g).bindDue = (eng t g).bindDue := by
  have hm (f : Engine → Engine) (hf : (f (eng (standAfter t g) g)).cur = none) :
      eng (modQueue (modEng (standAfter t g) g f) q (fun c => { c with mphead := head })) g = f (eng (standAfter t g) g) := by
    rw [stands_modQueue g _ q _ (by rw [eng_modEng_self, hf]), eng_modEng_self]
  have hs : eng (standAfter t g) g = { eng t g with
      openCmd := false, skipSt := none, cut := false, rs := { cells := [], fill := .free t.free }
      acc0 := { cells := [], fill := .free t.free }, acc1 := { cells := [], fill := .free t.free }
      wbuf0 := { cells := [], fill := .free t.free }, wbuf1 := { cells := [], fill := .free t.free }, pref := none } := by
    rw [standAfter, eng_modEng_self]
    rfl
  unfold milepost
  dsimp only
  rw [hm _ (by rw [hs]; exact hc), hs]
  exact ⟨⟨t.free, rfl⟩, rfl, rfl, rfl⟩

theorem order_modEng (t : State) (g : Nat) (f : Engine → Engine) : OrderKept t (modEng t g f) := ⟨rfl, rfl⟩

theorem order_standAfter (t : State) (g : Nat) : OrderKept t (standAfter t g) := ⟨rfl, rfl⟩

theorem order_milepost (t : State) (q : Nat) (head : Word) : OrderKept t (milepost t g q head) := by
  unfold milepost
  dsimp only
  exact ((order_standAfter t g).trans (order_modEng _ g _)).trans (.of_offTable (offTable_modQueue _ q _))

theorem others_milepost (t : State) (q : Nat) (head : Word) : OthersIdle g t (milepost t g q head) := by
  have hs : OnlyEngine t (standAfter t g) g := by
    unfold standAfter
    exact onlyEngine_trans (onlyEngine_fresh t g) (onlyEngine_modEng _ g _)
  exact ((OthersIdle.of_onlyEngine hs).trans (.of_onlyEngine (onlyEngine_modEng _ g _))).trans
    (((idle_syncQueue _ q).trans (idle_setQueue _ q _)).others g)

/-- The state in which the milepost of a completion's command, if it ends one, has been passed. -/
def passed (s : State) (g : EngId) (c : Completion) (r : List Completion) : State :=
  if tbit (nth c.words 0) 31 then milepost (taken s g c r) g c.queue c.head else taken s g c r

theorem order_passed : OrderKept s (passed s g c r) := by
  unfold passed
  split
  · exact order_taken.trans (order_milepost _ _ _)
  · exact order_taken

theorem others_passed : OthersIdle g s (passed s g c r) := by
  unfold passed
  split
  · exact others_taken.trans (others_milepost _ _ _)
  · exact others_taken

theorem passed_eng (hc : (eng s g).cur = none) : (eng (passed s g c r) g).done = r ∧
    (eng (passed s g c r) g).sigs = (takenEng c r (eng s g)).sigs ∧ (eng (passed s g c r) g).bindDue = (eng s g).bindDue := by
  have he := eng_taken (c := c) (r := r) hc
  unfold passed
  split
  · obtain ⟨-, hd, hs, hb⟩ := milepost_eng (t := taken s g c r) (g := g) (by rw [he]; exact hc) c.queue c.head
    rw [hd, hs, hb, he]
    exact ⟨rfl, rfl, rfl⟩
  · rw [he]
    exact ⟨rfl, rfl, rfl⟩

/-- A completion that no work of the dispatcher stands for. -/
theorem descriptorComplete_eq (hd : (eng s g).done = c :: r) (hc : (eng s g).cur = none) (ho : owes s g = false)
    (hb : (eng s g).bindDue = false) (hi : s.dis.issued = []) (hl : s.stg.inlay = false) :
    exec (.descriptorComplete g) s = .next (emit (passed s g c r) (.record (recordWords g c))) := by
  obtain ⟨hdis, hstg⟩ := order_passed (s := s) (g := g) (c := c) (r := r)
  have ht : takeRecord (emit (passed s g c r) (.record (recordWords g c))) g c = emit (passed s g c r) (.record (recordWords g c)) := by
    unfold takeRecord
    dsimp only
    rw [emit_dis, hdis, hi]
    rfl
  have hbd : (eng (emit (passed s g c r) (.record (recordWords g c))) g).bindDue = false :=
    (passed_eng hc).2.2.trans hb
  have hil : (emit (passed s g c r) (.record (recordWords g c))).stg.inlay = false := by
    rw [emit_stg, hstg, hl]
  change execDescriptorComplete g s = _
  unfold execDescriptorComplete
  rw [hd]
  dsimp only
  rw [if_neg (by rw [ho]; decide)]
  change Host.Outcome.next (let s := takeRecord (emit (passed s g c r) (.record (recordWords g c))) g c
    let s := if (eng s g).bindDue && atMilepost (eng s g) then bindOne s g else s
    if s.stg.inlay then startReexec s else s) = _
  rw [ht]
  dsimp only
  rw [hbd, Bool.false_and, if_neg Bool.false_ne_true, hil, if_neg Bool.false_ne_true]

theorem descriptorComplete_reports (hd : (eng s g).done = c :: r) (hc : (eng s g).cur = none) (ho : owes s g = false)
    (hb : (eng s g).bindDue = false) (hi : s.dis.issued = []) (hl : s.stg.inlay = false) :
    ∃ u, exec (.descriptorComplete g) s = .next u ∧ (eng u g).done = r ∧
      .record (recordWords g c) ∈ u.out ∧ (tbit (nth c.words 14) 31 = true → c.status.toNat < 0x10 →
        (eng u g).sigs = (eng s g).sigs ++ [(c.ctx, fld (nth c.words 14) 15 0)]) ∧
      (tbit (nth c.words 14) 31 = false ∨ 0x10 ≤ c.status.toNat → (eng u g).sigs = (eng s g).sigs) ∧
      (tbit (nth c.words 0) 31 = true → (queue u c.queue).mphead = c.head ∧ ∃ ep, (eng u g).rs = { cells := [], fill := .free ep }) ∧
      (tbit (nth c.words 0) 31 = false → (eng u g).rs = (eng s g).rs) ∧
      ((∀ n : DieId, (mct s n).writes = []) → ∀ h : EngId, h ≠ g → eng u h = eng s h) := by
  obtain ⟨hdone, hsigs, -⟩ := passed_eng (c := c) (r := r) hc
  have he := eng_taken (c := c) (r := r) hc
  refine ⟨_, descriptorComplete_eq hd hc ho hb hi hl, hdone, List.mem_cons_self .., fun h1 h2 => ?_, fun h => ?_, fun h => ?_, fun h => ?_,
    fun hw => (others_passed hw).2⟩
  · refine hsigs.trans ?_
    simp [takenEng, h1, h2]
  · refine hsigs.trans ?_
    have hn : (tbit (nth c.words 14) 31 && decide (c.status.toNat < 0x10)) = false := by
      rcases h with h | h
      · rw [h, Bool.false_and]
      · rw [decide_eq_false (Nat.not_lt.2 h), Bool.and_false]
    simp only [takenEng, hn, Bool.false_eq_true, if_false]
  · have hp : passed s g c r = milepost (taken s g c r) g c.queue c.head := if_pos h
    rw [hp]
    exact ⟨milepost_queue _ _ _, (milepost_eng (by rw [he]; exact hc) _ _).1⟩
  · have hp : passed s g c r = taken s g c r := if_neg (by rw [h]; decide)
    rw [hp]
    exact (congrArg Engine.rs he :)

theorem descriptorComplete_waits (hd : (eng s g).done = c :: r) (ho : owes s g = true) : exec (.descriptorComplete g) s = .next s := by
  change execDescriptorComplete g s = _
  unfold execDescriptorComplete
  rw [hd]
  dsimp only
  rw [if_pos ho]

end

/-! WEIGHT_FETCH. -/

theorem decodeBits_length {book : List (Nat × Nat × Nat)} {bits : List Bool} {n len code : Nat} {acc bs : List Byte} {rest : List Bool}
    (h : decodeBits book bits n len code acc = some (bs, rest)) : bs.length = acc.length + n := by
  induction bits generalizing n len code acc with
  | nil =>
    cases n with
    | zero =>
      obtain ⟨rfl, -⟩ := Prod.mk.inj (Option.some.inj h)
      simp
    | succ n => cases h
  | cons b r ih =>
    cases n with
    | zero =>
      obtain ⟨rfl, -⟩ := Prod.mk.inj (Option.some.inj h)
      simp
    | succ n =>
      unfold decodeBits at h
      dsimp only at h
      split at h
      · rw [ih h, List.length_cons]
        omega
      · split at h
        · cases h
        · exact ih h

/-- A block has at least one byte. -/
theorem blockBytes_pos {mode len : Nat} {payload bs : List Byte} (h : blockBytes mode len payload = some bs) : 1 ≤ bs.length := by
  unfold blockBytes at h
  split at h
  · cases h
  · next hl =>
    have hl : 1 ≤ len := by
      simp only [Bool.or_eq_true, decide_eq_true_eq, not_or] at hl
      omega
    have hb : bs.length = len := by
      split at h
      · split at h
        · next he => rw [← Option.some.inj h, he]
        · cases h
      · split at h
        · split at h
          · rw [← Option.some.inj h, List.length_replicate]
          · cases h
        · split at h
          · dsimp only at h
            split at h
            · cases h
            · split at h
              · next hd =>
                split at h
                · rw [← Option.some.inj h, decodeBits_length hd, List.length_nil, Nat.zero_add]
                · cases h
              · cases h
          · cases h
    omega

theorem hxzBlock_pos {s t : State} {g : EngId} {addr next : Nat} {bs : List Byte} (h : hxzBlock s g addr = (.ok (bs, next), t)) :
    1 ≤ bs.length := by
  unfold hxzBlock at h
  split at h
  · cases h
  · dsimp only at h
    split at h
    · cases h
    · split at h
      · cases h
      · split at h
        · cases h
        · next hb =>
          obtain ⟨hx, -⟩ := Prod.mk.inj h
          obtain ⟨rfl, -⟩ := Prod.mk.inj (Except.ok.inj hx)
          exact blockBytes_pos hb

/-- A stream that does not end early brings what is wanted of it. -/
theorem hxz_enough (g : EngId) {fuel : Nat} {s : State} {addr need : Nat} {acc : List (List Byte)} (hn : need ≤ fuel)
    (h : (hxz g fuel s addr need acc).1.ended = none) : acc.reverse.flatten.length + need ≤ (hxz g fuel s addr need acc).1.bytes.length := by
  induction fuel generalizing s addr need acc with
  | zero =>
    obtain rfl := Nat.le_zero.1 hn
    exact le_refl _
  | succ fuel ih =>
    unfold hxz at h ⊢
    split at h
    · next h0 =>
      rw [if_pos h0, h0]
      exact le_refl _
    · next h0 =>
      rw [if_neg h0]
      split at h
      · cases h
      · next bs next t hb =>
        have hp := hxzBlock_pos hb
        have hi := ih (by omega) h
        rw [List.reverse_cons, List.flatten_append, List.length_append] at hi
        simp only [List.flatten_cons, List.flatten_nil, List.append_nil] at hi
        omega

theorem fillWbuf_pref (n : Nat) (bs : List Byte) (e : Engine) : (fillWbuf n bs e).pref = e.pref := by
  induction n generalizing bs e with
  | zero => rfl
  | succ n ih =>
    unfold fillWbuf
    split
    · rfl
    · dsimp only
      rw [ih]
      split <;> rfl

theorem nextWeights_engines {s t : State} {g : EngId} {ws : List Word} {count : Nat} (h : nextWeights s g = some (ws, count, t)) :
    t.engines = s.engines := by
  unfold nextWeights at h
  obtain ⟨-, h⟩ := Option.ite_none_left_eq_some.1 h
  split at h
  · next hf =>
    split at h
    · simp only [Option.some.injEq, Prod.mk.injEq] at h
      rw [← h.2.2]
      exact fetchDesc_engines hf
    · cases h
  · cases h

theorem weightFetch_starts {s t : State} {g : EngId} {ws : List Word} {count addr need : Nat} (hw : nextWeights s g = some (ws, count, t))
    (hs : streamOf ws = some (addr, need)) (hp : (eng s g).pref = none) : ∃ u, exec (.weightFetch g) s = .next u ∧
      (∃ f, (eng u g).pref = some f ∧ f.count = count ∧ f.addr = addr ∧ (f.ended = none → min need 262144 ≤ f.bytes.length)) ∧
      (eng u g).rs = (eng s g).rs ∧ ∀ h : EngId, h ≠ g → eng u h = eng s h := by
  have hx : exec (.weightFetch g) s = .next (fetchAhead t g count addr need) := by
    change execWeightFetch g s = _
    unfold execWeightFetch
    rw [hw]
    dsimp only
    rw [hs]
    dsimp only
    rw [hp]
    rfl
  have hen (k : Nat) : eng (hxz g (min need wbufHalf) t addr (min need wbufHalf) []).2 k = eng s k :=
    (eng_of_engines (hxz_engines ..) k).trans (eng_of_engines (nextWeights_engines hw) k)
  generalize hy : hxz g (min need wbufHalf) t addr (min need wbufHalf) [] = y at hen
  have hpref : (eng (fetchAhead t g count addr need) g).pref =
      some { count := count, addr := addr, bytes := y.1.bytes, next := y.1.next, ended := y.1.ended } := by
    unfold fetchAhead
    dsimp only
    rw [eng_modEng_self, fillWbuf_pref, hy]
  refine ⟨_, hx, ⟨_, hpref, rfl, rfl, fun he => ?_⟩, ?_, fun k hk => ?_⟩
  · have hb := hxz_enough g (s := t) (addr := addr) (acc := []) (le_refl (min need wbufHalf)) (by rw [hy]; exact he)
    rw [hy] at hb
    simpa using hb
  · unfold fetchAhead
    dsimp only
    rw [eng_modEng_self, (fillWbuf_regs ..).2, hy, hen]
  · unfold fetchAhead
    dsimp only
    rw [eng_modEng_ne _ _ (fun hv => hk (Fin.ext hv)), hy, hen]

end Sys2Proof.Proofs


/-! Hangs, withdrawals and self-test slices (14 R504-R508, R645). -/

namespace Sys2Proof.Proofs

open Sys2Proof.Machine Sys2Proof.Safety Sys2Proof.Laws

/-! ENGINE_HANG. -/

/-- An entry stands at the head of the log of an island in service. -/
theorem flog_logF {s : State} (h : inSvc s.sia = true) (f : Fact) : ∃ q, (logF s f).sia.flog.head? = some q ∧ q.2.cls = f.cls ∧
    q.2.unit = f.unit ∧ q.2.sub = f.sub := by
  have hadd (t : State) (ht : t.sia = s.sia) (e : Entry) : ∃ q, (addEntry t e).sia.flog.head? = some q ∧ q.2.cls = e.cls ∧
      q.2.unit = e.unit ∧ q.2.sub = e.sub := by
    obtain ⟨k, hk⟩ := isl_addEntry t e .sia
    have hk : (addEntry t e).sia = islTake t.sia { e with stage := k } := hk
    rw [hk, ht, islTake, if_pos h]
    exact ⟨_, rfl, rfl, rfl, rfl⟩
  unfold logF
  dsimp only
  split
  · exact hadd (fresh s).2 rfl _
  · exact hadd s rfl _

/-- What the descriptors up to a milepost leave of an engine that runs nothing and is not cut short, when they complete unexecuted. -/
structure Rests (g : Nat) (s t : State) : Prop where
  cur  : (eng t g).cur = none
  cut  : (eng t g).cut = false
  rs   : (eng t g).rs = (eng s g).rs
  inSvc : (eng t g).withdrawn = (eng s g).withdrawn
  done : ∀ c ∈ (eng s g).done, c ∈ (eng t g).done
  sia  : SiaKept s t

theorem Rests.trans {g : Nat} {s t u : State} (h : Rests g s t) (k : Rests g t u) : Rests g s u :=
  ⟨k.cur, k.cut, k.rs.trans h.rs, k.inSvc.trans h.inSvc, fun c hc => k.done c (h.done c hc), h.sia.trans k.sia⟩

section

variable {s t : State} {g : Nat}

theorem rests_of_stands (hc : (eng s g).cur = none) (hcut : (eng s g).cut = false) (h : Stands g s t) (hs : SiaKept s t) : Rests g s t := by
  have he := h hc
  exact ⟨by rw [he, hc], by rw [he, hcut], by rw [he], by rw [he], fun c hx => by rwa [he], hs⟩

theorem rests_engDone (hcut : (eng s g).cut = false) (st : Byte) (ws : List Word) (skip : Bool) : Rests g s (engDone s g st ws skip) := by
  have he := eng_engDone hcut st ws skip
  exact ⟨by rw [he]; rfl, by rw [he]; exact hcut, by rw [he]; rfl, by rw [he]; rfl,
    fun c hc => by rw [he]; exact List.mem_append_left _ hc, sia_engDone ..⟩

theorem rests_headAt (hc : (eng s g).cur = none) (hcut : (eng s g).cut = false) (n : Word) :
    Rests g s (modEng s g (fun e => { e with headAt := n })) :=
  ⟨by rw [eng_modEng_self, hc], by rw [eng_modEng_self, hcut], by rw [eng_modEng_self], by rw [eng_modEng_self],
    fun c hx => by rwa [eng_modEng_self], rfl⟩

end

theorem finishRest_rests (g : EngId) (st : Byte) (k : Nat) {s : State} (hc : (eng s g).cur = none) (hcut : (eng s g).cut = false) :
    Rests g s (finishRest g st k s) := by
  induction k generalizing s with
  | zero => exact rests_of_stands hc hcut (.refl g s) (.refl s)
  | succ k ih =>
    have hq := rests_of_stands hc hcut (stands_syncQueue g s (eng s g).bqueue) (sia_syncQueue s (eng s g).bqueue)
    unfold finishRest
    split
    · exact rests_of_stands hc hcut (.refl g s) (.refl s)
    · dsimp only
      split
      · exact hq
      · split
        · exact hq
        · next ws ok t hf =>
          have ht := hq.trans (rests_of_stands hq.cur hq.cut (.of_engines (fetchDesc_engines hf)) (sia_fetchDesc hf))
          have hs := ht.trans (rests_of_stands ht.cur ht.cut (stands_setQueue g t (eng s g).bqueue
            { queue t (eng s g).bqueue with head := (queue t (eng s g).bqueue).head + 1 }) (sia_setQueue _ _ _))
          have hh := hs.trans (rests_headAt hs.cur hs.cut ((queue t (eng s g).bqueue).head + 1))
          have hd := hh.trans (rests_engDone hh.cut st ws false)
          exact hd.trans (ih hd.cur hd.cut)

/-- A hung engine after its descriptors have completed: what ENGINE_HANG then does. -/
def hangEnd (s : State) (g : EngId) : State :=
  let tag := (eng s g).curTag.toNat
  let s := finishRest g stInternal (qLen (queue s (eng s g).bqueue) + 1) s
  let s := modEng s g (fun e => { e with hung := true, openCmd := false, skipSt := none, cut := false })
  markWithdraw (engLog s g 0x03 3 stInternal tag) g

theorem engineHang_eq {s t : State} {g : EngId} (h : hangDesc s g = some t) : exec (.engineHang g) s = .next (hangEnd t g) := by
  change execEngineHang g s = _
  unfold execEngineHang
  rw [h]
  rfl

/-- A mark for withdrawal is in its engine alone. -/
theorem markWithdraw_eng {s : State} {g : EngId} (h : (eng s g).withdrawn = false) : (eng (markWithdraw s g) g).wdrawNext = true ∧
    (eng (markWithdraw s g) g).hung = (eng s g).hung ∧ (eng (markWithdraw s g) g).openCmd = (eng s g).openCmd ∧
    (eng (markWithdraw s g) g).rs = (eng s g).rs ∧ (eng (markWithdraw s g) g).done = (eng s g).done ∧
    (eng (markWithdraw s g) g).stFail = (eng s g).stFail ∧ (eng (markWithdraw s g) g).stSlice = (eng s g).stSlice := by
  unfold markWithdraw
  split
  · next hw =>
    rw [h, Bool.false_or] at hw
    exact ⟨hw, rfl, rfl, rfl, rfl, rfl, rfl⟩
  · dsimp only
    rw [eng_modEng_self]
    exact ⟨rfl, rfl, rfl, rfl, rfl, rfl, rfl⟩

theorem markWithdraw_rest (s : State) (g : EngId) : (markWithdraw s g).sia = s.sia ∧ (markWithdraw s g).dis = s.dis := by
  unfold markWithdraw
  split <;> exact ⟨rfl, rfl⟩

theorem hangEnd_eng {s : State} {g : EngId} (hc : (eng s g).cur = none) (hcut : (eng s g).cut = false) (hw : (eng s g).withdrawn = false) :
    (eng (hangEnd s g) g).hung = true ∧ (eng (hangEnd s g) g).wdrawNext = true ∧ (eng (hangEnd s g) g).openCmd = false ∧
      (eng (hangEnd s g) g).rs = (eng s g).rs ∧ (∀ c ∈ (eng s g).done, c ∈ (eng (hangEnd s g) g).done) ∧
      (inSvc s.sia = true → ∃ q, (hangEnd s g).sia.flog.head? = some q ∧ q.2.cls = 3 ∧ q.2.unit = dieOf g ∧ q.2.sub = g.val % 8) := by
  have hr := finishRest_rests g stInternal (qLen (queue s (eng s g).bqueue) + 1) hc hcut
  unfold hangEnd
  dsimp only
  generalize finishRest g stInternal (qLen (queue s (eng s g).bqueue) + 1) s = t at hr
  have he : eng (engLog (modEng t g (fun e => { e with hung := true, openCmd := false, skipSt := none, cut := false })) g 0x03 3 stInternal
      (eng s g).curTag.toNat) g = { eng t g with hung := true, openCmd := false, skipSt := none, cut := false } := by
    rw [eng_engLog, eng_modEng_self]
  obtain ⟨h1, h2, h3, h4, h5, -, -⟩ := markWithdraw_eng (s := engLog (modEng t g (fun e => { e with
    hung := true, openCmd := false, skipSt := none, cut := false })) g 0x03 3 stInternal (eng s g).curTag.toNat) (g := g) (by
      rw [he]
      exact hr.inSvc.trans hw)
  rw [h1, h2, h3, h4, h5, he]
  refine ⟨rfl, rfl, rfl, hr.rs, hr.done, fun hi => ?_⟩
  rw [(markWithdraw_rest _ g).1]
  have ht : inSvc (modEng t g (fun e => { e with hung := true, openCmd := false, skipSt := none, cut := false })).sia = true := by
    rw [← hi]
    simp only [inSvc, modEng_sia, show t.sia.st = s.sia.st from hr.sia]
  exact flog_logF ht _

theorem standAfter_stands (t : State) (g : Nat) : (eng (standAfter t g) g).cur = (eng t g).cur ∧ (eng (standAfter t g) g).cut = false ∧
    (eng (standAfter t g) g).withdrawn = (eng t g).withdrawn := by
  rw [standAfter, eng_modEng_self]
  exact ⟨rfl, rfl, rfl⟩

theorem engDone_cut {s : State} {g : Nat} (hc : (eng s g).cut = true) (st : Byte) (ws : List Word) (skip : Bool) :
    engDone s g st ws skip = standAfter (modEng s g (descEnded st ws skip)) g := by
  unfold engDone
  dsimp only
  rw [hc]
  rfl

/-- The end of a descriptor that may have been cut short. -/
theorem engDone_stands (s : State) (g : EngId) (st : Byte) (ws : List Word) (skip : Bool) :
    (eng (engDone s g st ws skip) g).cur = none ∧ (eng (engDone s g st ws skip) g).cut = false ∧
      (eng (engDone s g st ws skip) g).withdrawn = (eng s g).withdrawn := by
  cases hc : (eng s g).cut with
  | false =>
    rw [eng_engDone hc]
    exact ⟨rfl, hc, rfl⟩
  | true =>
    obtain ⟨h1, h2, h3⟩ := standAfter_stands (modEng s g (descEnded st ws skip)) g
    rw [engDone_cut hc, h1, h2, h3, eng_modEng_self]
    exact ⟨rfl, rfl, rfl⟩

theorem hang_executing {s : State} {g : EngId} (he : executing (eng s g) = true) (hw : (eng s g).withdrawn = false)
    (hc : (eng s g).cut = false) : ∃ u, exec (.engineHang g) s = .next u ∧ (eng u g).hung = true ∧ (eng u g).wdrawNext = true ∧
      (eng u g).openCmd = false ∧ (eng u g).rs = (eng s g).rs ∧
      (inSvc s.sia = true → ∃ q, u.sia.flog.head? = some q ∧ q.2.cls = 3 ∧ q.2.unit = dieOf g ∧ q.2.sub = g.val % 8) := by
  obtain ⟨t, ht, hr⟩ : ∃ t, hangDesc s g = some t ∧ Rests g s t := by
    unfold hangDesc
    rw [if_pos he]
    cases hcur : (eng s g).cur with
    | some ws => exact ⟨_, rfl, rests_engDone hc stInternal ws false⟩
    | none => exact ⟨s, rfl, rests_of_stands hcur hc (.refl g s) (.refl s)⟩
  obtain ⟨h1, h2, h3, h4, -, h6⟩ := hangEnd_eng hr.cur hr.cut (hr.inSvc.trans hw)
  refine ⟨_, engineHang_eq ht, h1, h2, h3, h4.trans hr.rs, fun hi => h6 ?_⟩
  rw [← hi]
  simp only [inSvc, show t.sia.st = s.sia.st from hr.sia]

theorem hang_first {s : State} {g : EngId} {x : List Word × Bool × State} (he : executing (eng s g) = false) (hn : nextDesc s g = some x) :
    ∃ u, exec (.engineHang g) s = .next u ∧ (eng u g).hung = true ∧ (eng u g).wdrawNext = true ∧ (eng u g).openCmd = false ∧
      ∃ c ∈ (eng u g).done, c.words = x.1 ∧ c.status = stInternal := by
  obtain ⟨ws, ok, t⟩ := x
  have hu := nextDesc_unstarted hn
  have ht : hangDesc s g = some (engDone t g stInternal ws false) := by
    unfold hangDesc
    rw [if_neg (by rw [he]; decide), hn]
    rfl
  obtain ⟨hc, hcut, hw⟩ := engDone_stands t g stInternal ws false
  obtain ⟨-, -, c, hd, hws, hst⟩ := ended_engDone hu.done hu.late stInternal ws false
  obtain ⟨h1, h2, h3, -, h5, -⟩ := hangEnd_eng hc hcut (hw.trans hu.inSvc)
  exact ⟨_, engineHang_eq ht, h1, h2, h3, c, h5 c (by rw [hd]; exact List.mem_singleton_self c), hws, hst⟩

/-! ENGINE_WITHDRAW. -/

theorem withdraw_marks {s : State} {g : EngId} (hm : 3 ≤ histCount 1000 s.stg.stage (eng s g).mismAt) (hw : (eng s g).withdrawn = false)
    (hn : (eng s g).wdrawNext = false) : ∃ u, exec (.engineWithdraw g) s = .next u ∧ (eng u g).wdrawNext = true ∧
      (eng u g).mismAt = (eng s g).mismAt ∧ (eng u g).wdrawAt = histAdd 100000 s.stg.stage (eng s g).wdrawAt ∧
      ∀ h : EngId, h ≠ g → eng u h = eng s h := by
  refine ⟨markWithdraw s g, congrArg Host.Outcome.next (if_pos hm), ?_⟩
  unfold markWithdraw
  rw [if_neg (by rw [hw, hn]; decide)]
  dsimp only
  rw [eng_modEng_self]
  exact ⟨rfl, rfl, rfl, fun k hk => eng_modEng_ne _ _ (fun hv => hk (Fin.ext hv))⟩

/-! Self-test slices. -/

/-- No set is due that could start. -/
theorem startReexec_none {s : State} (h : s.dis.reexec = []) : startReexec s = s := by
  unfold startReexec
  rw [h]
  rfl

theorem inlay_startReexec {s : State} (h : s.dis.reexec = []) : (if s.stg.inlay then startReexec s else s) = s := by
  rw [startReexec_none h, ite_self]

/-- An engine whose slice has passed. -/
def passedSlice (e : Engine) : Engine :=
  { e with
    st := if e.withdrawn then 5 else 1
    ranDue := true
    stSlice := (e.stSlice + 1) % 16
    stDefer := if e.stSlice = 15 then 0 else e.stDefer
    stSince := if e.stSlice = 15 then 0 else e.stSince
    outDue := if e.stSlice = 15 then false else e.outDue
    backNext := e.backNext || (e.withdrawn && e.stSlice = 15 && !e.wdrawPerm && !e.retired) }

theorem slice_passes {s : State} {g : EngId} (hst : (eng s g).st = 4) (hr : s.dis.reexec = []) :
    exec (.selftestSliceEnd g true) s = .next (modEng s g passedSlice) := by
  change execSelftestSliceEnd g true s = _
  unfold execSelftestSliceEnd
  dsimp only
  rw [if_neg (by rw [hst]; decide), if_pos rfl]
  exact congrArg Host.Outcome.next (inlay_startReexec (s := modEng s g _) hr)

/-- The state in which a slice has failed. -/
def failedSlice (s : State) (g : EngId) : State :=
  let t := modEng s g (fun e => { e with
    st := if (eng s g).withdrawn then 5 else 1, stFail := true, wdrawPerm := e.wdrawPerm || e.withdrawn })
  markWithdraw (logF (setDis t (fun d => { d with incomplete := true })) {
    cls := 0x04, reaction := 3, unit := dieOf g, sub := g.val % 8, kind := if (eng s g).withdrawn then some 2 else none }) g

theorem slice_fails {s : State} {g : EngId} (hst : (eng s g).st = 4) (hr : s.dis.reexec = []) :
    exec (.selftestSliceEnd g false) s = .next (failedSlice s g) := by
  have hd : (failedSlice s g).dis.reexec = [] := by
    unfold failedSlice
    dsimp only
    rw [(markWithdraw_rest _ g).2, logF_dis]
    exact hr
  change execSelftestSliceEnd g false s = _
  unfold execSelftestSliceEnd
  dsimp only
  rw [if_neg (by rw [hst]; decide), if_neg Bool.false_ne_true]
  exact congrArg Host.Outcome.next (inlay_startReexec hd)

theorem failedSlice_eng {s : State} {g : EngId} (hw : (eng s g).withdrawn = false) : (eng (failedSlice s g) g).stFail = true ∧
    (eng (failedSlice s g) g).wdrawNext = true ∧ (failedSlice s g).dis.incomplete = true ∧
    (eng (failedSlice s g) g).stSlice = (eng s g).stSlice := by
  unfold failedSlice
  dsimp only
  generalize hf : ({ cls := 0x04, reaction := 3, unit := dieOf g, sub := g.val % 8, kind := if (eng s g).withdrawn then some 2 else none } : Fact) = f
  generalize ht : modEng s g _ = t
  have he : eng (logF (setDis t (fun d => { d with incomplete := true })) f) g = eng t g := eng_of_engines (logF_engines _ f) g
  have hs : eng t g = { eng s g with
      st := if (eng s g).withdrawn then 5 else 1, stFail := true, wdrawPerm := (eng s g).wdrawPerm || (eng s g).withdrawn } := by
    rw [← ht, eng_modEng_self]
  obtain ⟨h1, -, -, -, -, h6, h7⟩ := markWithdraw_eng (s := logF (setDis t (fun d => { d with incomplete := true })) f) (g := g) (by
    rw [he, hs]
    exact hw)
  rw [h1, h6, h7, he, hs, (markWithdraw_rest _ g).2, logF_dis]
  exact ⟨rfl, rfl, rfl, rfl⟩

/-- Settles O40: what the queues and the stacks do on the way leaves an engine that runs nothing as it stands. -/
theorem engineEvents : Obligations.EngineEvents := by
  refine ⟨?_, ?_, ?_, ?_, ?_, ?_, ?_, ?_, ?_, ?_⟩
  · intro s g c r hd hc ho hb hi hl
    exact descriptorComplete_reports hd hc ho hb hi hl
  · intro s g c r hd ho
    exact descriptorComplete_waits hd ho
  · intro s t g ws count addr need hw hs hp
    exact weightFetch_starts hw hs hp
  · intro s g he hw hc
    exact hang_executing he hw hc
  · intro s g x he hn
    exact hang_first he hn
  · intro s g hm hw hn
    exact withdraw_marks hm hw hn
  · intro s g h
    exact congrArg Host.Outcome.next (if_pos h)
  · intro s g hst hr
    refine ⟨_, slice_passes hst hr, ?_⟩
    rw [eng_modEng_self]
    refine ⟨rfl, rfl, rfl, fun h15 => ?_, rfl, fun k hk => eng_modEng_ne _ _ (fun hv => hk (Fin.ext hv))⟩
    simp [passedSlice, h15]
  · intro s g hst hw hr
    exact ⟨_, slice_fails hst hr, failedSlice_eng hw⟩
  · intro s g h
    exact congrArg Host.Outcome.next (if_pos h)

end Sys2Proof.Proofs


/-! EXP, RECIP, RSQRT, CONVERT and the reductions (05 R178, R179, R199, R206, R210, R211). -/

namespace Sys2Proof.Proofs

open Sys2Proof.Machine Sys2Proof.Safety Sys2Proof.Laws

/-! Rows of the formats of Table 4-5: how many elements are read, how many bytes are written. -/

theorem byteFmt_of_le {f : Nat} (hf : f ≤ 0xA) (h4 : f ≠ 0) (hB : f ≠ 8) : ByteFmt f (fmtBits f / 8) :=
  have hb : ∀ f, f ≤ 0xA → f ≠ 0 → f ≠ 8 → fmtBits f = 8 * (fmtBits f / 8) := by decide
  ⟨hb f hf h4 hB, h4, hB⟩

theorem blkOf_length (bs : List Byte) : (blkOf bs).q.length = 32 := by
  simp [blkOf]

theorem mkBlk_length (xs : List Fl) : (mkBlk xs).1.length = 17 := by
  simp [mkBlk]

theorem blocks32_length {α : Type} (n : Nat) (l : List α) : (blocks32 n l).length = n := by
  induction n generalizing l with
  | zero => rfl
  | succ n ih => simp [blocks32, ih]

/-- A row read has its elements, in whole blocks where the format has blocks. -/
theorem rowNums_count {f n : Nat} (h : f = 8 → n % 32 = 0) (bs : List Byte) : (rowNums f n bs).1.length = n := by
  unfold rowNums
  split
  · next hB =>
    have hn := h hB
    dsimp only
    rw [rowBlks, List.flatMap_map, flatMap_const_length (fun _ => (List.length_map _).trans (blkOf_length _)), List.length_range]
    omega
  · unfold rowCodes
    split <;> simp

/-- A row written has the bytes of its format. -/
theorem numsRow_bytes {f : Nat} (hf : f ≤ 0xA) (trunc : Bool) (xs : List Machine.Num) :
    (numsRow f trunc xs).1.length = rowBytes f xs.length := by
  by_cases hB : f = 8
  · rw [numsRow, if_pos hB, rowBytes, if_pos hB]
    simp only [tally_fst, ← List.flatMap_def]
    rw [flatMap_const_length mkBlk_length, blocks32_length]
  · by_cases h4 : f = 0
    · subst h4
      simp only [numsRow, codesRow, rowBytes, fmtBits, cdiv, tally_fst, if_neg hB, if_true, List.length_map, List.length_range]
      omega
    · exact numsRow_length (byteFmt_of_le hf h4 hB) trunc xs

/-! Integers that need no saturation. -/

theorem sat32_sx {n : Nat} (h0 : 0 < n) (hn : n ≤ 32) (v : Nat) : Safety.sat32 (sx n v) = sx n v := by
  obtain ⟨k, rfl⟩ : ∃ k, n = k + 1 := ⟨n - 1, by omega⟩
  have hp : 2 ^ (k + 1) = 2 * 2 ^ k := Nat.pow_succ'
  have hk : 2 ^ k ≤ 2 ^ 31 := Nat.pow_le_pow_right (by omega) (by omega)
  have hm := Nat.mod_lt v (Nat.two_pow_pos (k + 1))
  have hr : -2147483648 ≤ sx (k + 1) v ∧ sx (k + 1) v ≤ 2147483647 := by
    unfold sx
    rw [Nat.add_sub_cancel]
    split <;> omega
  rw [Safety.sat32, clampI, if_neg (by omega), if_neg (by omega)]

theorem sat32_int8At (m : Mem) (a : Nat) : Safety.sat32 (int8At m a) = int8At m a := sat32_sx (by omega) (by omega) _

theorem sat32_int32At (m : Mem) (a : Nat) : Safety.sat32 (int32At m a) = int32At m a := sat32_sx (by omega) (by omega) _

/-- The greatest element, as REDUCE_MAX finds it. -/
theorem foldl_max_headD {l : List Int} (h : l ≠ []) :
    l.foldl max (l.headD 0) ∈ l ∧ ∀ x ∈ l, x ≤ l.foldl max (l.headD 0) := by
  cases l with
  | nil => exact absurd rfl h
  | cons a l =>
    rw [← List.max?_eq_some_iff, List.max?_cons', List.foldl_cons, List.headD_cons, max_self]

/-! Results of an operation without an upset. -/

section

variable {s t : State} {g : EngId} {ws : List Word} (h : DescReady s g 8 ws t) (chk : Bool) (c : Cnt) (xs : List Machine.Num)
include h

theorem vFinish_rs : (eng (vFinish chk none (addBusy t g) g ws c xs) g).rs =
    memWr (eng t g).rs (128 * vDst ws) (numsRow (dFo ws) false xs).1 := by
  rw [vFinish_ok _ _ _ _ (fun e => by simp [vHit]), eng_doneOk h ((works_addBusy g t).trans (works_vWritten ..)),
    ← addBusy_rs t g]
  exact vWritten_rs ..

/-- The operation completes, and writes the bytes of `n` results alone. -/
theorem vFinish_completes {n : Nat} (hf : dFo ws ≤ 0xA) (hl : xs.length = n) :
    ran t (vFinish chk none (addBusy t g) g ws c xs) g ws stOk ∧
    sameOutside (eng t g).rs (eng (vFinish chk none (addBusy t g) g ws c xs) g).rs (128 * vDst ws) (rowBytes (dFo ws) n) := by
  constructor
  · rw [vFinish_ok _ _ _ _ (fun e => by simp [vHit])]
    exact ran_doneOk h ((works_addBusy g t).trans (works_vWritten ..))
  · intro b hb
    rw [vFinish_rs h, memByte_memWr_outside _ (by rwa [numsRow_bytes hf, hl])]

/-- Integer results in an INT32 destination. -/
theorem vFinish_int32 (hm : memWf (eng t g).rs = true) (ho : dFo ws = fmtInt32) (vs : List Int) (i : Nat) (hi : i < vs.length) :
    int32At (eng (vFinish chk none (addBusy t g) g ws c (vs.map .int)) g).rs (128 * vDst ws + 4 * i) = Safety.sat32 vs[i] := by
  rw [vFinish_rs h, ho, numsRow_int32]
  refine int32At_row (memWf_memWr _ _ _ hm) ?_ i hi
  rw [← flatMap_const_length (fun v => natLe_length 4 (tc 32 (Safety.sat32 v)))]
  exact memRd_memWr ..

end

/-! EXP, RECIP and RSQRT. -/

theorem vecUnOk_fmts {fmtOk : Nat → Bool} {m : List Word → Nat} {ws : List Word} (h : vecUnOk fmtOk m ws = true) :
    fmtOk (dFa ws) = true ∧ fmtOk (dFo ws) = true := by
  simp only [vecUnOk, Bool.and_eq_true] at h
  obtain ⟨⟨⟨⟨-, ha⟩, ho⟩, -⟩, -⟩ := h
  exact ⟨ha, ho⟩

theorem vecFmt_of_isFp {f : Nat} (h : isFp f = true) : vecFmt f = true := by
  rw [vecFmt, h, Bool.or_true]

theorem vecFmt_le {f : Nat} (h : vecFmt f = true) : f ≤ 0xA := by
  simp only [vecFmt, isFp, Bool.or_eq_true, Bool.and_eq_true, decide_eq_true_eq] at h
  omega

theorem vecUn_completes {sub : Nat} {f : Fl → Fl × Cnt} {s t : State} {g : EngId} {ws : List Word} (h : DescReady s g 8 ws t)
    (hs : dSub ws = sub) (hk : vecUnOk isFp vCount ws = true) (hn : vCount ws ≠ 0) : ∃ u, vecUn sub f g none s = .next u ∧
      ran t u g ws stOk ∧ sameOutside (eng t g).rs (eng u g).rs (128 * vDst ws) (rowBytes (dFo ws) (vCount ws)) := by
  obtain ⟨ha, ho⟩ := vecUnOk_fmts hk
  refine ⟨_, runEng_ready h (o := _) rfl (by simp [hs]) hk (by simp [vEmpty, hn]), vFinish_completes h _ _ _ (vecFmt_le (vecFmt_of_isFp ho)) ?_⟩
  rw [List.length_map, tally_fst, List.length_map, vRead_length (vecFmt_of_isFp ha)]

/-! CONVERT. -/

theorem convertOk_fmts {ws : List Word} (h : convertOk ws = true) : dFo ws ≤ 0xA ∧ (dFa ws = 8 → vCount ws % 32 = 0) := by
  simp only [convertOk, Bool.and_eq_true] at h
  obtain ⟨hk, hb⟩ := h
  refine ⟨of_decide_eq_true (vecUnOk_fmts hk).2, fun h8 => ?_⟩
  simpa [h8] using hb

/-- INT8 elements, read where they stand. -/
theorem vRead_int8 {s : State} {g : Nat} (hm : memWf (eng s g).rs = true) (line n : Nat) : (vRead s g 1 line n).1 =
    ((List.range n).map (fun i => int8At (eng s g).rs (128 * line + i))).map .int := by
  rw [vRead, rsRd, rowNums_int8 hm, List.map_map]
  rfl

/-- The elements that CONVERT writes. -/
def convertRes (s : State) (g : EngId) (ws : List Word) : List Machine.Num :=
  let a := (vRead s g (dFa ws) (vSrc1 ws) (vCount ws)).1
  if dFa ws = 8 then a.map (readsAs (dFo ws)) else a

theorem convertRes_length {ws : List Word} (h : convertOk ws = true) (s : State) (g : EngId) :
    (convertRes s g ws).length = vCount ws := by
  have ha : (vRead s g (dFa ws) (vSrc1 ws) (vCount ws)).1.length = vCount ws := rowNums_count (convertOk_fmts h).2 _
  unfold convertRes
  dsimp only
  split
  · rw [List.length_map, ha]
  · exact ha

theorem vecConvert_run {s t : State} {g : EngId} {ws : List Word} (h : DescReady s g 8 ws t) (hs : dSub ws = 9)
    (hk : convertOk ws = true) (hn : vCount ws ≠ 0) : exec (.vecConvert g none) s =
      .next (vFinish (isInt (dFa ws) && isInt (dFo ws)) none (addBusy t g) g ws
        (vRead (addBusy t g) g (dFa ws) (vSrc1 ws) (vCount ws)).2 (convertRes (addBusy t g) g ws)) :=
  runEng_ready h (o := _) rfl (by simp [hs]) hk (by simp [vEmpty, hn])

theorem vecConvert_int8_int32 {s t : State} {g : EngId} {ws : List Word} (h : DescReady s g 8 ws t) (chk : Bool) (c : Cnt)
    (hm : memWf (eng t g).rs = true) (ha : dFa ws = 1) (ho : dFo ws = fmtInt32) {i : Nat} (hi : i < vCount ws) :
    int32At (eng (vFinish chk none (addBusy t g) g ws c (convertRes (addBusy t g) g ws)) g).rs (128 * vDst ws + 4 * i) =
      int8At (eng t g).rs (128 * vSrc1 ws + i) := by
  have hrs : (eng (addBusy t g) g).rs = (eng t g).rs := addBusy_rs t g
  have hres : convertRes (addBusy t g) g ws =
      ((List.range (vCount ws)).map (fun i => int8At (eng t g).rs (128 * vSrc1 ws + i))).map .int := by
    unfold convertRes
    dsimp only
    rw [ha, if_neg (by decide), vRead_int8 (hrs ▸ hm), hrs]
  rw [hres, vFinish_int32 h _ _ hm ho _ i (by simpa using hi), List.getElem_map, List.getElem_range, sat32_int8At]

/-! REDUCE_SUM and REDUCE_MAX. -/

section

variable {opI : List Int → Int} {opF : List Fl → Fl × Cnt} {sub : Nat} {s t : State} {g : EngId} {ws : List Word}
  (h : DescReady s g 8 ws t) (hs : dSub ws = sub) (hk : vecUnOk vecFmt (fun _ => 1) ws = true) (hn : vCount ws ≠ 0)
include h hs hk hn

/-- A reduction has one result, the integer operation's where both formats are integer. -/
theorem vecReduce_run : ∃ chk c x, vecReduce sub opI opF g none s = .next (vFinish chk none (addBusy t g) g ws c [x]) ∧
    (isInt (dFa ws) = true → isInt (dFo ws) = true →
      x = .int (opI ((vRead (addBusy t g) g (dFa ws) (vSrc1 ws) (vCount ws)).1.map numInt))) := by
  have hx : vecReduce sub opI opF g none s = _ := runEng_ready h (o := _) rfl (by simp [hs]) hk (by simp [vEmpty, hn])
  by_cases hi : (isInt (dFa ws) && isInt (dFo ws)) = true
  · exact ⟨true, _, _, hx.trans (congrArg Host.Outcome.next (if_pos hi)), fun _ _ => rfl⟩
  · exact ⟨false, _, _, hx.trans (congrArg Host.Outcome.next (if_neg hi)), fun ha ho => absurd (by simp [ha, ho]) hi⟩

theorem vecReduce_completes : ∃ u, vecReduce sub opI opF g none s = .next u ∧ ran t u g ws stOk ∧
    sameOutside (eng t g).rs (eng u g).rs (128 * vDst ws) (rowBytes (dFo ws) 1) ∧
    (memWf (eng t g).rs = true → dFa ws = fmtInt32 → dFo ws = fmtInt32 → int32At (eng u g).rs (128 * vDst ws) =
      Safety.sat32 (opI ((List.range (vCount ws)).map (fun i => int32At (eng t g).rs (128 * vSrc1 ws + 4 * i))))) := by
  obtain ⟨chk, c, x, hx, hint⟩ := vecReduce_run (opI := opI) (opF := opF) h hs hk hn
  obtain ⟨hran, hout⟩ := vFinish_completes h chk c [x] (n := 1) (vecFmt_le (vecUnOk_fmts hk).2) rfl
  refine ⟨_, hx, hran, hout, fun hm ha ho => ?_⟩
  have hrs : (eng (addBusy t g) g).rs = (eng t g).rs := addBusy_rs t g
  have hv := hint (by rw [ha]; rfl) (by rw [ho]; rfl)
  rw [ha, vRead_int32 (hrs ▸ hm), List.map_map, hrs] at hv
  rw [hv]
  exact vFinish_int32 h chk c hm ho [_] 0 Nat.zero_lt_one

end

/-- Of elements that are INT32 the greatest needs no saturation. -/
theorem sat32_foldl_max {n : Nat} (hn : n ≠ 0) (m : Mem) (a : Nat → Nat) {v : Int}
    (hv : v = Safety.sat32 (((List.range n).map (fun i => int32At m (a i))).foldl max
      (((List.range n).map (fun i => int32At m (a i))).headD 0))) :
    (∃ i, i < n ∧ v = int32At m (a i)) ∧ ∀ i, i < n → int32At m (a i) ≤ v := by
  obtain ⟨hmem, hle⟩ := foldl_max_headD (l := (List.range n).map (fun i => int32At m (a i))) (by simpa using hn)
  obtain ⟨i, hi, he⟩ := List.mem_map.1 hmem
  rw [← he, sat32_int32At] at hv
  subst hv
  refine ⟨⟨i, List.mem_range.1 hi, rfl⟩, fun j hj => ?_⟩
  rw [he]
  exact hle _ (List.mem_map.2 ⟨j, List.mem_range.2 hj, rfl⟩)

/-! The obligation. -/

/-- Settles O33: each operation reads its source whole and then writes one row of its format; an INT32 sum saturates as it is
written, and the greatest of INT32 elements is in range already. -/
theorem vectorFunctions : Obligations.VectorFunctions := by
  refine ⟨?_, ?_, ?_⟩
  · intro s g ws t sub r hm h hs hk hn
    simp only [List.mem_cons, List.not_mem_nil, or_false, Prod.mk.injEq] at hm
    rcases hm with ⟨rfl, rfl⟩ | ⟨rfl, rfl⟩ | ⟨rfl, rfl⟩ <;> exact vecUn_completes h hs hk hn
  · intro s g ws t h hs hk hn
    obtain ⟨hran, hout⟩ := vFinish_completes h _ _ _ (convertOk_fmts hk).1 (convertRes_length hk (addBusy t g) g)
    exact ⟨_, vecConvert_run h hs hk hn, hran, hout, fun hm ha ho i hi => vecConvert_int8_int32 h _ _ hm ha ho hi⟩
  · intro s g ws t sub r hm h hs hk hn
    simp only [List.mem_cons, List.not_mem_nil, or_false, Prod.mk.injEq] at hm
    rcases hm with ⟨rfl, rfl⟩ | ⟨rfl, rfl⟩
    · obtain ⟨u, hx, hran, hout, hv⟩ := vecReduce_completes (opI := List.sum) (opF := reduceSum) h hs hk hn
      exact ⟨u, hx, hran, hout, fun hm ha ho => ⟨fun _ => hv hm ha ho, fun hne => by omega⟩⟩
    · obtain ⟨u, hx, hran, hout, hv⟩ := vecReduce_completes (opI := fun l => l.foldl max (l.headD 0))
        (opF := fun l => (reduceMax l, cnt0)) h hs hk hn
      exact ⟨u, hx, hran, hout, fun hm ha ho => ⟨fun hne => by omega, fun _ => sat32_foldl_max hn _ _ (hv hm ha ho)⟩⟩

end Sys2Proof.Proofs


/-! Pooling, resizing and softmax (06 R242-R246, 07 R275-R277). -/

namespace Sys2Proof.Proofs

open Sys2Proof.Machine Sys2Proof.Safety Sys2Proof.Laws

/-! Work that leaves some bytes of the store as they are. -/

/-- Work in one engine in which the store's bytes of `kept` stay. -/
structure WorksBeside (g : EngId) (kept : Nat → Prop) (s t : State) : Prop extends Works g s t where
  same : ∀ b, kept b → memByte (eng t g).rs b = memByte (eng s g).rs b

section

variable {g : EngId} {kept : Nat → Prop}

theorem Works.beside {s t : State} (h : Works g s t) (hr : (eng t g).rs = (eng s g).rs) : WorksBeside g kept s t :=
  ⟨h, fun _ _ => by rw [hr]⟩

theorem WorksBeside.trans {s t u : State} (h : WorksBeside g kept s t) (k : WorksBeside g kept t u) : WorksBeside g kept s u :=
  ⟨h.toWorks.trans k.toWorks, fun b hb => (k.same b hb).trans (h.same b hb)⟩

theorem worksBeside_addCnt (s : State) (c : Cnt) : WorksBeside g kept s (addCnt s g c) := (works_addCnt g s c).beside (addCnt_rs s g c)

theorem worksBeside_rsWrAt (s : State) {a : Nat} {bs : List Byte} (h : ∀ b, kept b → b < a ∨ a + bs.length ≤ b) :
    WorksBeside g kept s (rsWrAt s g a bs) :=
  ⟨works_rsWrAt g s a bs, fun b hb => by rw [rsWrAt_rs, memByte_memWr_outside _ (h b hb)]⟩

theorem worksBeside_rsWr (s : State) {line : Nat} {bs : List Byte}
    (h : ∀ b, kept b → b < 128 * line ∨ 128 * line + bs.length ≤ b) : WorksBeside g kept s (rsWr s g line bs) :=
  worksBeside_rsWrAt s h

/-- Steps for the items of a list. -/
theorem worksBeside_foldl {α : Type} {f : State → α → State} {l : List α} (h : ∀ s, ∀ x ∈ l, WorksBeside g kept s (f s x)) (s : State) :
    WorksBeside g kept s (l.foldl f s) := by
  induction l generalizing s with
  | nil => exact (Works.refl g s).beside rfl
  | cons x l ih => exact (h s x (by simp)).trans (ih (fun s y hy => h s y (by simp [hy])) _)

/-! Operations row by row. -/

/-- A row of results, converted to fmt_out and written, leaves the bytes outside it. -/
theorem worksBeside_numsRow {ws : List Word} {line : Nat} {xs : List Machine.Num} {n : Nat} (s : State) (c : Cnt) (hf : dFo ws ≤ 0xA)
    (hl : xs.length = n) (h : ∀ b, kept b → b < 128 * line ∨ 128 * line + rowBytes (dFo ws) n ≤ b) :
    WorksBeside g kept s (rsWr (addCnt s g c) g line (numsRow (dFo ws) false xs).1) :=
  (worksBeside_addCnt s c).trans (worksBeside_rsWr _ (by rwa [numsRow_bytes hf, hl]))

/-- An operation whose rows each leave some bytes completes, and leaves them. -/
theorem vRows_completes {s t : State} {ws : List Word} {chk : Bool} {count width : Nat}
    {row : Option (Nat × Bool) → Nat → State → Nat → State} (h : DescReady s g 8 ws t)
    (hrow : ∀ idx s k, k < count → WorksBeside g kept s (row none idx s k)) :
    ran t (vRows chk none g ws count width row (addBusy t g)) g ws stOk ∧
    ∀ b, kept b → memByte (eng (vRows chk none g ws count width row (addBusy t g)) g).rs b = memByte (eng t g).rs b := by
  have hw : WorksBeside g kept t ((List.range count).foldl (row none (addBusy t g).free) (fresh (addBusy t g)).2) :=
    (((works_addBusy g t).trans (works_fresh g _)).beside (addBusy_rs t g)).trans
      (worksBeside_foldl (fun s k hk => hrow _ s k (List.mem_range.1 hk)) _)
  have hv : vRows chk none g ws count width row (addBusy t g) =
      doneOk ((List.range count).foldl (row none (addBusy t g).free) (fresh (addBusy t g)).2) g ws := rfl
  rw [hv, eng_doneOk h hw.toWorks]
  exact ⟨ran_doneOk h hw.toWorks, hw.same⟩

end

/-! Pooling and resizing. -/

/-- Bytes outside the rows of the output planes. -/
def besidePlanes (ws : List Word) (b : Nat) : Prop :=
  ∀ c i, c < vCount ws → i < (poolDesc ws).outH →
    b < 128 * (vDst ws + c * (poolDesc ws).dP + i * (poolDesc ws).dR) ∨
    128 * (vDst ws + c * (poolDesc ws).dP + i * (poolDesc ws).dR) + rowBytes (dFo ws) (poolDesc ws).outW ≤ b

theorem poolOk_fmt {ws : List Word} (h : poolOk ws = true) : vecFmt (dFo ws) = true := by
  simp only [poolOk, Bool.and_eq_true] at h
  tauto

theorem poolOp_completes {mine : Nat → Bool} {value : PoolDesc → (Nat → List Machine.Num) → Nat → Nat → Machine.Num × Cnt}
    {s t : State} {g : EngId} {ws : List Word} (h : DescReady s g 8 ws t) (hs : dSub ws = 0xC) (hm : mine (poolDesc ws).mode = true)
    (hk : poolOk ws = true) (he : poolEmpty ws = false) : ∃ u, poolOp mine value g none s = .next u ∧ ran t u g ws stOk ∧
      ∀ b, besidePlanes ws b → memByte (eng u g).rs b = memByte (eng t g).rs b := by
  have hmine : (decide (dSub ws = 0xC) && mine (df ws 7 31 28)) = true := by rw [hs]; exact hm
  refine ⟨_, runEng_ready h (o := _) rfl hmine hk he, ?_⟩
  dsimp only
  refine vRows_completes h (fun idx s k hkn => ?_)
  have hH : 0 < (poolDesc ws).outH := Nat.pos_of_ne_zero (fun h0 => by simp [h0] at hkn)
  exact worksBeside_numsRow s _ (vecFmt_le (poolOk_fmt hk)) (by simp [withOpen_length])
    (fun b hb => hb _ _ (Nat.div_lt_of_lt_mul (by rwa [Nat.mul_comm])) (Nat.mod_lt k hH))

/-- Each mode's own row carries it out as the general operation. -/
theorem exec_poolOp {g : EngId} {mode : Nat} {r : Instr} (s : State)
    (hm : (mode, r) ∈ [(1, Instr.maxPool g none), (2, .averagePoolPaddingCounted g none), (3, .averagePoolPaddingNotCounted g none),
      (4, .nearestNeighbourResize g none), (5, .bilinearResize g none)]) :
    ∃ mine value, exec r s = poolOp mine value g none s ∧ mine mode = true := by
  simp only [List.mem_cons, List.not_mem_nil, or_false, Prod.mk.injEq] at hm
  rcases hm with ⟨rfl, rfl⟩ | ⟨rfl, rfl⟩ | ⟨rfl, rfl⟩ | ⟨rfl, rfl⟩ | ⟨rfl, rfl⟩
  · exact ⟨_, _, execMaxPool.eq_1 g s none, rfl⟩
  · exact ⟨_, _, execAveragePoolPaddingCounted.eq_1 g s none, rfl⟩
  · exact ⟨_, _, execAveragePoolPaddingNotCounted.eq_1 g s none, rfl⟩
  · exact ⟨_, _, execNearestNeighbourResize.eq_1 g s none, rfl⟩
  · exact ⟨_, _, execBilinearResize.eq_1 g s none, rfl⟩

/-! SOFTMAX_FIRST and SOFTMAX_STEP. -/

/-- Bytes outside the rows of P, the pairs of m and l, and the values c. -/
def besideScan (ws : List Word) (b : Nat) : Prop :=
  ∀ i, i < smRows ws →
    (b < 128 * (vDst ws + i * df ws 8 14 0) ∨ 128 * (vDst ws + i * df ws 8 14 0) + rowBytes (dFo ws) (vCount ws) ≤ b) ∧
    (b < 128 * df ws 9 14 0 + 8 * i ∨ 128 * df ws 9 14 0 + 8 * i + 8 ≤ b) ∧
    (b < 128 * df ws 9 30 16 + 4 * i ∨ 128 * df ws 9 30 16 + 4 * i + 4 ≤ b)

theorem softmaxOk_fmt {ws : List Word} (h : softmaxOk ws = true) : dFo ws ≤ 0xA := by
  simp only [softmaxOk, Bool.and_eq_true] at h
  obtain ⟨-, h⟩ := h
  split at h
  · simp only [isFp, Bool.and_eq_true, decide_eq_true_eq] at h
    omega
  · simp only [Bool.and_eq_true, Bool.or_eq_true, decide_eq_true_eq] at h
    omega

theorem rowCodes_length (f n : Nat) (bs : List Byte) : (rowCodes f n bs).length = n := by
  unfold rowCodes
  split <;> simp

theorem softmaxScan_completes {mine : Nat → Bool} {first : Bool} {s t : State} {g : EngId} {ws : List Word} (h : DescReady s g 8 ws t)
    (hs : dSub ws = 0xD) (hm : mine (df ws 7 31 28) = true) (hk : softmaxOk ws = true) (he : softmaxEmpty ws = false) :
    ∃ u, softmaxScan mine first g none s = .next u ∧ ran t u g ws stOk ∧
      ∀ b, besideScan ws b → memByte (eng u g).rs b = memByte (eng t g).rs b := by
  have hmine : (decide (dSub ws = 0xD) && mine (df ws 7 31 28)) = true := by rw [hs]; exact hm
  refine ⟨_, runEng_ready h (o := _) rfl hmine hk he, ?_⟩
  dsimp only
  refine vRows_completes h (fun idx s r hr => ?_)
  refine ((worksBeside_numsRow (n := vCount ws) s _ (softmaxOk_fmt hk) ?_ (fun b hb => ?_)).trans (worksBeside_rsWrAt _ (fun b hb => ?_))).trans
    (worksBeside_rsWrAt _ (fun b hb => ?_))
  · rw [withOpen_length, List.length_map, rowCodes_length]
  all_goals obtain ⟨hP, hml, hc⟩ := hb r hr
  · exact hP
  · exact hml
  · exact hc

/-- The rows of FIRST and STEP, each with its mode. -/
theorem exec_softmaxScan {g : EngId} {mode : Nat} {r : Instr} (s : State)
    (hm : (mode, r) ∈ [(1, Instr.softmaxFirst g none), (2, .softmaxStep g none)]) :
    ∃ mine first, exec r s = softmaxScan mine first g none s ∧ mine mode = true := by
  simp only [List.mem_cons, List.not_mem_nil, or_false, Prod.mk.injEq] at hm
  rcases hm with ⟨rfl, rfl⟩ | ⟨rfl, rfl⟩
  · exact ⟨_, _, execSoftmaxFirst.eq_1 g s none, rfl⟩
  · exact ⟨_, _, execSoftmaxStep.eq_1 g s none, rfl⟩

/-! SOFTMAX_FINAL. -/

/-- Bytes outside the rows of the output. -/
def besideFinal (ws : List Word) (b : Nat) : Prop :=
  ∀ i, i < smRows ws → b < 128 * (vDst ws + i * df ws 8 14 0) ∨
    128 * (vDst ws + i * df ws 8 14 0) + rowBytes (dFo ws) (smD ws) ≤ b

theorem softmaxFinal_completes {s t : State} {g : EngId} {ws : List Word} (h : DescReady s g 8 ws t) (hs : dSub ws = 0xD)
    (hm : df ws 7 31 28 = 3) (hk : softmaxOk ws = true) (he : softmaxEmpty ws = false) :
    ∃ u, exec (.softmaxFinal g none) s = .next u ∧ ran t u g ws stOk ∧
      ∀ b, besideFinal ws b → memByte (eng u g).rs b = memByte (eng t g).rs b := by
  refine ⟨_, runEng_ready h (o := _) rfl (by simp [hs, hm]) hk he, ?_⟩
  dsimp only
  refine vRows_completes h (fun idx s r hr => ?_)
  refine worksBeside_numsRow s _ (softmaxOk_fmt hk) ?_ (fun b hb => hb r hr)
  rw [withOpen_length, List.length_map]
  have hx (line : Nat) : (vRead s g fmtF32 line (smD ws)).1.length = smD ws := vRead_length rfl ..
  split <;> simp [hx]

/-! The obligation. -/

/-- Settles O34: an operation without an upset writes its rows one by one, and each row has the bytes of its format. -/
theorem poolingAndSoftmax : Obligations.PoolingAndSoftmax := by
  refine ⟨?_, ?_, ?_⟩
  · intro s g ws t mode r hm h hs hd hk he
    obtain ⟨mine, value, hx, hmine⟩ := exec_poolOp s hm
    rw [hx]
    exact poolOp_completes h hs (hd ▸ hmine) hk he
  · intro s g ws t mode r hm h hs hd hk he
    obtain ⟨mine, first, hx, hmine⟩ := exec_softmaxScan s hm
    rw [hx]
    exact softmaxScan_completes h hs (hd ▸ hmine) hk he
  · intro s g ws t h hs hm hk he
    exact softmaxFinal_completes h hs hm hk he

end Sys2Proof.Proofs


/-! The clearance check (08 R296, R297). -/

namespace Sys2Proof.Proofs

open Sys2Proof.Machine Sys2Proof.Safety Sys2Proof.Laws

/-- The smallest number of a list stands in it, and none is smaller. -/
theorem minInt_spec {l : List Int} (h : l ≠ []) (d : Int) : minInt l d ∈ l ∧ ∀ b ∈ l, minInt l d ≤ b := by
  cases l with
  | nil => exact absurd rfl h
  | cons a r => exact List.min?_eq_some_iff.1 List.min?_cons'

theorem checkPoses_clr_le {c : PlanCfg} {f : Field} {ps : List Pose} {q : Pose} (h : q ∈ ps) :
    (checkPoses c f ps).clr ≤ poseClr c f q :=
  have hq : poseClr c f q ∈ ps.map (poseClr c f) := List.mem_map_of_mem h
  (minInt_spec (List.ne_nil_of_mem hq) 0).2 _ hq

theorem checkPoses_clr_mem (c : PlanCfg) (f : Field) {ps : List Pose} (h : ps ≠ []) :
    ∃ q ∈ ps, poseClr c f q = (checkPoses c f ps).clr :=
  List.mem_map.1 (minInt_spec (mt List.map_eq_nil_iff.1 h) 0).1

/-- Where every pose is clear, the check names none. -/
theorem checkPoses_first_none {c : PlanCfg} {f : Field} {ps : List Pose} (h : ∀ q ∈ ps, 0 ≤ poseClr c f q) :
    (checkPoses c f ps).first = 0xFF := by
  have hn : (ps.map (poseClr c f)).findIdx? (fun v => v < 0) = none := by
    rw [List.findIdx?_eq_none_iff]
    intro v hv
    obtain ⟨q, hq, rfl⟩ := List.mem_map.1 hv
    exact decide_eq_false (Int.not_lt.2 (h q hq))
  simp [checkPoses, hn]

/-- Where a pose is not clear, the check names the first such pose. -/
theorem checkPoses_first_spec {c : PlanCfg} {f : Field} {ps : List Pose} (h : ∃ q ∈ ps, poseClr c f q < 0) :
    (∃ q, ps[(checkPoses c f ps).first]? = some q ∧ poseClr c f q < 0) ∧
      ∀ i, i < (checkPoses c f ps).first → ∀ q, ps[i]? = some q → 0 ≤ poseClr c f q := by
  cases hf : (ps.map (poseClr c f)).findIdx? (fun v => v < 0) with
  | none =>
    obtain ⟨q, hq, hv⟩ := h
    rw [List.findIdx?_eq_none_iff] at hf
    exact absurd hv (of_decide_eq_false (hf _ (List.mem_map_of_mem hq)))
  | some k =>
    have he : (checkPoses c f ps).first = k := by simp [checkPoses, hf]
    obtain ⟨hk, hv, hb⟩ := List.findIdx?_eq_some_iff_getElem.1 hf
    simp only [List.length_map, List.getElem_map, decide_eq_true_eq, Int.not_lt] at hk hv hb
    rw [he]
    refine ⟨⟨ps[k], List.getElem?_eq_getElem hk, hv⟩, fun i hi q hq => ?_⟩
    obtain ⟨-, rfl⟩ := List.getElem?_eq_some_iff.1 hq
    exact hb i hi

/-- A trajectory of at most 255 poses is clear when the check names none of them (R297). -/
theorem checkPoses_clear_iff {c : PlanCfg} {f : Field} {ps : List Pose} (hl : ps.length ≤ 255) :
    (checkPoses c f ps).clear = true ↔ ∀ q ∈ ps, 0 ≤ poseClr c f q := by
  refine ⟨fun hc => ?_, fun h => by simp [Check.clear, checkPoses_first_none h]⟩
  by_contra hn
  push Not at hn
  obtain ⟨q, hq, -⟩ := (checkPoses_first_spec hn).1
  have hk := (List.getElem?_eq_some_iff.1 hq).1
  have he : (checkPoses c f ps).first = 0xFF := of_decide_eq_true hc
  omega

/-- Settles O44: the smallest clearance is the least of a list, the first pose that is not clear the first of a list that meets a
test; a trajectory's poses number fewer than the 0xFF that stands for none. -/
theorem trajectoryClear : Obligations.TrajectoryClear := fun c f _ hl =>
  ⟨checkPoses_clear_iff (by omega), fun _ => checkPoses_clr_le, checkPoses_clr_mem c f, checkPoses_first_spec,
    checkPoses_first_none⟩

end Sys2Proof.Proofs


/-! The urgent ports (08 R302, R303; 13 R478). -/

namespace Sys2Proof.Proofs

open Sys2Proof.Machine Sys2Proof.Safety Sys2Proof.Laws

/-- The reply leaves on the island's urgent port, and the island has it. -/
def urgentSends (i : Isl) (r : List Word × State) : State :=
  emit (modIsl r.2 i (fun x => { x with urgReply := x.urgReply ++ [r.1] })) (.urgent i r.1)

@[simp] theorem isl_urgentSends (i : Isl) (r : List Word × State) :
    isl (urgentSends i r) i = { isl r.2 i with urgReply := (isl r.2 i).urgReply ++ [r.1] } := isl_modIsl_self r.2 i _

@[simp] theorem isl_urgentSends_other (i : Isl) (r : List Word × State) :
    isl (urgentSends i r) (otherIsl i) = isl r.2 (otherIsl i) := isl_modIsl_other r.2 i _

@[simp] theorem urgentSends_mpl (i : Isl) (r : List Word × State) : (urgentSends i r).mpl = r.2.mpl := modIsl_mpl r.2 i _

@[simp] theorem urgentSends_out (i : Isl) (r : List Word × State) : (urgentSends i r).out = .urgent i r.1 :: r.2.out :=
  congrArg _ (modIsl_out r.2 i _)

section

variable {s : State} {i : Isl} {req : List Word} {ev : CheckEvent} {ns : Nat}

/-- A request that fails its length or its check word draws no check. -/
theorem urgentCheck_unsealed (h0 : s.mpl.st ≠ 0) (hh : hears s i = true) (ha : asked i (isl s i) req = true)
    (hq : req.length ≠ 8 ∨ sealOk req = false) : exec (.urgentCheckRequest i req ev ns) s =
      .next (urgentSends i (urgentReplyWords req stBadCheck false (openMid s.free) ns, (fresh s).2)) := by
  have hc : (decide (req.length ≠ 8) || !sealOk req) = true := by simpa using hq
  show execUrgentCheckRequest i req ev ns s = _
  simp only [execUrgentCheckRequest, hh, ha, hc]
  simp [h0, urgentSends]

/-- A sealed request that fails a check of R303 from the alive counter on draws its status. -/
theorem urgentCheck_fails {st : Byte} {t : State} (h0 : s.mpl.st ≠ 0) (hh : hears s i = true)
    (ha : asked i (isl s i) req = true) (hl : req.length = 8) (hk : sealOk req = true) (hf : urgentFault s i req = some (st, t)) :
    exec (.urgentCheckRequest i req ev ns) s =
      .next (urgentSends i (urgentReplyWords req st false (openMid t.free) ns, (fresh t).2)) := by
  show execUrgentCheckRequest i req ev ns s = _
  simp only [execUrgentCheckRequest, hh, ha, hl, hk, hf]
  simp [h0, urgentSends]

/-- One that passes them is served. -/
theorem urgentCheck_serves (h0 : s.mpl.st ≠ 0) (hh : hears s i = true) (ha : asked i (isl s i) req = true)
    (hl : req.length = 8) (hk : sealOk req = true) (hf : urgentFault s i req = none) :
    exec (.urgentCheckRequest i req ev ns) s = .next (urgentSends i (urgentServe s i req ev ns)) := by
  show execUrgentCheckRequest i req ev ns s = _
  simp only [execUrgentCheckRequest, hh, ha, hl, hk, hf]
  simp [h0, urgentSends]

/-- An island asks for no slot but its own and slot 9 (R478). -/
theorem asked_slot {x : Island} (hl : req.length = 8) (hk : sealOk req = true) (ha : asked i x req = true) :
    fld (nth req 0) 3 0 = ownSlot i ∨ fld (nth req 0) 3 0 = 9 := by
  have hs : ∀ st, (stepSlots i st).contains (fld (nth req 0) 3 0) = true →
      fld (nth req 0) 3 0 = ownSlot i ∨ fld (nth req 0) 3 0 = 9 := by
    intro st h
    cases st <;> simp [stepSlots] at h <;> tauto
  simp only [asked, hl, hk, ne_eq, not_true_eq_false, decide_false, Bool.not_true, Bool.false_or] at ha
  exact hs _ ha

theorem urgentCheck_unasked (hl : req.length = 8) (hk : sealOk req = true) (ho : fld (nth req 0) 3 0 ≠ ownSlot i)
    (h9 : fld (nth req 0) 3 0 ≠ 9) : exec (.urgentCheckRequest i req ev ns) s = .next s := by
  have ha : asked i (isl s i) req = false := Bool.eq_false_iff.2 (fun h => (asked_slot hl hk h).elim ho h9)
  show execUrgentCheckRequest i req ev ns s = _
  simp [execUrgentCheckRequest, ha]

/-- The checks of R303 begin with the alive value. -/
theorem urgentFault_stale (h : fld (nth req 1) 7 0 ≠ (urgAlive s.mpl i).toNat) : urgentFault s i req = some (stStaleAlive, s) :=
  if_pos h

/-- Word 0 of a request for a check: opcode 1, no reserved bit set, a slot. -/
theorem request_opcode {w : Word} (h : fld w 31 4 = 0x100000) : fld w 31 24 = 1 ∧ fld w 23 4 = 0 := by
  simp only [fld, bits, Nat.shiftRight_eq_div_pow] at h ⊢
  omega

theorem urgentFault_none (ha : fld (nth req 1) 7 0 = (urgAlive s.mpl i).toNat) (ho : fld (nth req 0) 31 4 = 0x100000)
    (h1 : fld (nth req 1) 15 8 = 0) (hz : ((req.drop 2).take 5).any (· != 0) = false) (hf : s.mpl.fieldv = true) :
    urgentFault s i req = none := by
  obtain ⟨hop, hres⟩ := request_opcode ho
  have hv : (setUrgAlive s.mpl i (urgAlive s.mpl i + 1)).fieldv = true := by cases i <;> exact hf
  simp only [urgentFault, ha, hop, hres, h1, hz, setMpl_mpl, hv]
  simp

/-- The planner after a check on an urgent port: the alive value has gone on, the longest service stands. -/
def urgentCounted (m : Mpl) (i : Isl) (ns : Nat) : Mpl :=
  { setUrgAlive m i (urgAlive m i + 1) with maxns := max m.maxns (min ns 4095) }

@[simp] theorem urgAlive_urgentCounted (m : Mpl) (i : Isl) (ns : Nat) : urgAlive (urgentCounted m i ns) i = urgAlive m i + 1 := by
  cases i <;> rfl

@[simp] theorem urgAlive_urgentCounted_other (m : Mpl) (i : Isl) (ns : Nat) :
    urgAlive (urgentCounted m i ns) (otherIsl i) = urgAlive m (otherIsl i) := by
  cases i <;> rfl

/-- The check of a slot goes on from the counted state as from the state before. -/
theorem checkNow_urgentCounted (s : State) (i : Isl) (ns : Nat) (ps : List Pose) :
    checkNow (setMpl s (fun m => urgentCounted m i ns)) ps = checkNow s ps := by
  cases i <;> rfl

/-- A request that R303 lets pass, of a slot that holds 1 to 64 poses, draws the slot's check. -/
theorem urgentServe_clean {ws : List Word} (hw : slotWords s (fld (nth req 0) 3 0) = ws) (h1 : 1 ≤ trajCount ws)
    (h64 : trajCount ws ≤ 64) : urgentServe s i req .clean ns =
      (urgentReplyWords req stOk (checkNow s (wordsTraj ws).poses).clear
        (checkWord (checkNow s (wordsTraj ws).poses) (trajCount ws) :: [toW s.mpl.gen] ++ two s.mpl.ref) ns,
        setMpl s (fun m => urgentCounted m i ns)) := by
  unfold urgentServe
  extract_lets u ws' n tail ep c
  have hs : ws' = ws := by
    rw [← hw]
    cases i <;> rfl
  have hn : n = trajCount ws := congrArg trajCount hs
  have hc : c = checkNow s (wordsTraj ws).poses := by
    rw [← hs]
    exact checkNow_urgentCounted s i ns _
  have ht : tail = [toW s.mpl.gen] ++ two s.mpl.ref := by cases i <;> rfl
  rw [if_neg (by omega), if_neg (by omega), if_neg (by simp), hc, hn, ht]
  rfl

end

/-! The output gate (08 R316-R318). -/

/-- Candidate `r` is clear, and no event of R300 makes its check report not clear. -/
def gateTakes (s : State) (ev : CheckEvent) (r : Nat) : Bool :=
  (checkNow s (wordsTraj (trajUsed (slotWords s r))).poses).clear && !(ev ≠ .clean && r == 0)

theorem gateTakes_clean (s : State) (r : Nat) :
    gateTakes s .clean r = (checkNow s (wordsTraj (trajUsed (slotWords s r))).poses).clear := by
  simp [gateTakes]

/-- The gate's choice is the first candidate that it takes. -/
theorem gateChoice_eq (s : State) (ev : CheckEvent) : gateChoice s ev =
    ((List.range (currentCands s.mpl)).find? (gateTakes s ev)).map (fun r =>
      (r, trajUsed (slotWords s r), checkNow s (wordsTraj (trajUsed (slotWords s r))).poses)) := by
  rw [gateChoice, List.head?_filterMap]
  show List.findSome? (fun r => if gateTakes s ev r then
    some (r, trajUsed (slotWords s r), checkNow s (wordsTraj (trajUsed (slotWords s r))).poses) else none) _ = _
  induction List.range (currentCands s.mpl) with
  | nil => rfl
  | cons r l ih => cases h : gateTakes s ev r <;> simp [h, ih]

theorem gateChoice_some {s : State} {ev : CheckEvent} {r : Nat} (hr : r < currentCands s.mpl) (h : gateTakes s ev r = true)
    (hb : ∀ q, q < r → gateTakes s ev q = false) : gateChoice s ev =
      some (r, trajUsed (slotWords s r), checkNow s (wordsTraj (trajUsed (slotWords s r))).poses) := by
  have hf : (List.range (currentCands s.mpl)).find? (gateTakes s ev) = some r :=
    List.find?_range_eq_some.2 ⟨h, List.mem_range.2 hr, fun q hq => by simp [hb q hq]⟩
  rw [gateChoice_eq, hf]
  rfl

theorem gateChoice_none {s : State} {ev : CheckEvent} (h : ∀ q, q < currentCands s.mpl → gateTakes s ev q = false) :
    gateChoice s ev = none := by
  have hf : (List.range (currentCands s.mpl)).find? (gateTakes s ev) = none :=
    List.find?_range_eq_none.2 (fun q hq => by simp [h q hq])
  rw [gateChoice_eq, hf]
  rfl

/-- The gate passes over candidate 0 where an event of R300 came. -/
theorem gateChoice_rank {s : State} {ev : CheckEvent} (he : ev ≠ .clean) {x : Nat × List Word × Check}
    (h : gateChoice s ev = some x) : x.1 ≠ 0 := by
  rw [gateChoice_eq] at h
  obtain ⟨r, hr, rfl⟩ := Option.map_eq_some_iff.1 h
  rintro (rfl : r = 0)
  have ht := (List.find?_range_eq_some.1 hr).1
  simp [gateTakes, he] at ht

/-- The gate's run is over for its stage, and an event of R300 has left its mark. -/
def gateRun (s : State) (ev : CheckEvent) : State :=
  let t := setMpl s (fun m => { m with gateOpen := false })
  if 0 < currentCands s.mpl then checkEvent t ev else t

theorem gateRun_clean (s : State) : gateRun s .clean = setMpl s (fun m => { m with gateOpen := false }) := ite_self _

/-- An event of R300 writes of the planner the record of lane disagreements alone. -/
theorem checkEvent_mpl (s : State) (ev : CheckEvent) : (checkEvent s ev).mpl = { s.mpl with
    mism := (checkEvent s ev).mpl.mism, ckMism := (checkEvent s ev).mpl.ckMism
    mismStages := (checkEvent s ev).mpl.mismStages } := by
  cases ev <;> simp [checkEvent, laneMismatch, fieldWordError]

theorem gateRun_gateOpen (s : State) (ev : CheckEvent) : (gateRun s ev).mpl.gateOpen = false := by
  unfold gateRun
  dsimp only
  split
  · exact (congrArg Mpl.gateOpen (checkEvent_mpl (setMpl s _) ev) :)
  · rfl

theorem gatedWords_gateRun (s : State) (ev : CheckEvent) (ws : List Word) (c : Check) :
    gatedWords (gateRun s ev) ws c = gatedWords s ws c := by
  have hg : (gateRun s ev).mpl.gen = s.mpl.gen := by
    unfold gateRun
    dsimp only
    split
    · exact (congrArg Mpl.gen (checkEvent_mpl (setMpl s _) ev) :)
    · rfl
  rw [gatedWords, hg]
  rfl

/-- The candidate of rank `r` is gated: its record stands in slot 9. -/
def gatePlaced (s : State) (r : Nat) (rcd : List Word) : State :=
  setMpl (putSlot s 9 rcd) (fun m => { m with gstat := 0, grank := r })

/-- No candidate is gated. -/
def gateEmpty (s : State) : State := setMpl s (fun m => { m with gstat := (gateNone s).toNat, grank := 15 })

theorem outputGate_takes {s : State} {ev : CheckEvent} {r : Nat} {ws : List Word} {c : Check} (hd : gateDue s = true)
    (hc : gateChoice s ev = some (r, ws, c)) : exec (.outputGate ev) s =
      .next (sendReport (gatePlaced (gateRun s ev) r (gatedWords s ws c))
        (gateReportWords (gatePlaced (gateRun s ev) r (gatedWords s ws c)) (crcW (gatedWords s ws c)))) := by
  rw [← gatedWords_gateRun s ev]
  show execOutputGate ev s = _
  unfold execOutputGate
  simp only [hd, hc]
  rfl

theorem outputGate_empty {s : State} {ev : CheckEvent} (hd : gateDue s = true) (hc : gateChoice s ev = none) :
    exec (.outputGate ev) s =
      .next (sendReport (gateEmpty (gateRun s ev)) (gateReportWords (gateEmpty (gateRun s ev)) 0)) := by
  show execOutputGate ev s = _
  unfold execOutputGate
  simp only [hd, hc]
  rfl

@[simp] theorem isl_sendReport (s : State) (ws : List Word) (i : Isl) : isl (sendReport s ws) i =
    if (isl s i).linkUp then { isl s i with reportQ := (isl s i).reportQ ++ [ws] } else isl s i :=
  isl_bothIsl s _ i

@[simp] theorem sendReport_mpl (s : State) (ws : List Word) : (sendReport s ws).mpl = s.mpl := rfl
@[simp] theorem sendReport_stg (s : State) (ws : List Word) : (sendReport s ws).stg = s.stg := rfl
@[simp] theorem sendReport_dis (s : State) (ws : List Word) : (sendReport s ws).dis = s.dis := rfl
@[simp] theorem sendReport_out (s : State) (ws : List Word) : (sendReport s ws).out = s.out := rfl

/-- A gate report carries the rank (Table 13-12). -/
theorem gateReportWords_rank {s : State} (h : s.mpl.grank < 16) (crc : Word) :
    fld (nth (gateReportWords s crc) 0) 11 8 = s.mpl.grank := by
  have hb : b2n (stageComplete s) ≤ 1 := by unfold b2n; split <;> omega
  simp only [gateReportWords, sealW, nth, fld, bits, toW, at_, List.cons_append, List.getD_cons_zero, BitVec.toNat_ofNat,
    Nat.shiftLeft_eq, Nat.shiftRight_eq_div_pow]
  omega

/-- A gate run that takes a candidate at its first clean check (R317). -/
theorem outputGate_clear {s : State} {r : Nat} (hd : gateDue s = true) (hr : r < currentCands s.mpl) (h : gateTakes s .clean r = true)
    (hb : ∀ q, q < r → gateTakes s .clean q = false) :
    ∃ t w, exec (.outputGate .clean) s = .next t ∧
      w = gatedWords s (trajUsed (slotWords s r)) (checkNow s (wordsTraj (trajUsed (slotWords s r))).poses) ∧
      t.mpl = { s.mpl with gateOpen := false, gstat := 0, grank := r, sram := memWrW s.mpl.sram (slotBase 9) w } ∧
      (∀ i, isl t i = if (isl s i).linkUp then { isl s i with
          reportQ := (isl s i).reportQ ++ [sealW [toW (at_ 0 24 + at_ r 8 + b2n (stageComplete s)), toW s.stg.stage, toW s.mpl.gen,
            crcW w]] } else isl s i) ∧
      t.stg = s.stg ∧ t.dis = s.dis ∧ t.out = s.out := by
  have he := outputGate_takes hd (gateChoice_some hr h hb)
  rw [gateRun_clean] at he
  refine ⟨_, _, he, rfl, ?_, fun i => ?_, ?_, ?_, ?_⟩
  · rw [sendReport_mpl]
    rfl
  · rw [isl_sendReport, gatePlaced, isl_setMpl, isl_putSlot, isl_setMpl]
    rfl
  · rw [sendReport_stg]
    rfl
  · rw [sendReport_dis]
    rfl
  · rw [sendReport_out]
    rfl

/-- A gate run that takes none says why (R317). -/
theorem outputGate_none {s : State} (hd : gateDue s = true) (h : ∀ q, q < currentCands s.mpl → gateTakes s .clean q = false) :
    ∃ t, exec (.outputGate .clean) s = .next t ∧ t.mpl.grank = 15 ∧ t.mpl.gateOpen = false ∧ t.mpl.sram = s.mpl.sram ∧
      (0 < currentCands s.mpl → t.mpl.gstat = stCandidateLost.toNat) ∧
      (currentCands s.mpl = 0 → s.mpl.ended = true → t.mpl.gstat = s.mpl.sstat % 256) ∧
      (currentCands s.mpl = 0 → s.mpl.ended = false → t.mpl.gstat = stNotReady.toNat) ∧
      (∀ i, (isl s i).linkUp = true → ∃ w, (isl t i).reportQ = (isl s i).reportQ ++ [w] ∧ fld (nth w 0) 11 8 = 15) ∧
      t.stg = s.stg ∧ t.dis = s.dis ∧ t.out = s.out := by
  have he := outputGate_empty hd (gateChoice_none h)
  have hg : gateNone (gateRun s .clean) = gateNone s := by rw [gateRun_clean]; rfl
  refine ⟨_, he, rfl, ?_, ?_, fun hc => ?_, fun hc hn => ?_, fun hc hn => ?_, fun i hl => ⟨_, ?_,
    gateReportWords_rank (s := gateEmpty (gateRun s .clean)) (show 15 < 16 by decide) 0⟩, ?_⟩
  · exact gateRun_gateOpen s .clean
  · rw [gateRun_clean]; rfl
  · show (gateNone (gateRun s .clean)).toNat = _
    rw [hg, gateNone, if_pos hc]
  · show (gateNone (gateRun s .clean)).toNat = _
    rw [hg, gateNone, if_neg (by omega), if_pos hn, BitVec.toNat_ofNat]
  · show (gateNone (gateRun s .clean)).toNat = _
    rw [hg, gateNone, if_neg (by omega), if_neg (by simp [hn])]
  · have hi : isl (gateEmpty (gateRun s .clean)) i = isl s i := by rw [gateRun_clean, gateEmpty, isl_setMpl, isl_setMpl]
    rw [isl_sendReport, hi, if_pos hl]
  · rw [sendReport_stg, sendReport_dis, sendReport_out, gateRun_clean]
    exact ⟨rfl, rfl, rfl⟩

/-- An event of R300 makes the first check report not clear: candidate 0 is not gated. -/
theorem outputGate_event {s : State} {ev : CheckEvent} (hd : gateDue s = true) (he : ev ≠ .clean) :
    ∃ t, exec (.outputGate ev) s = .next t ∧ t.mpl.gateOpen = false ∧ t.mpl.grank ≠ 0 := by
  cases hc : gateChoice s ev with
  | none => exact ⟨_, outputGate_empty hd hc, gateRun_gateOpen s ev, show 15 ≠ 0 by decide⟩
  | some x => exact ⟨_, outputGate_takes hd hc, gateRun_gateOpen s ev, gateChoice_rank he hc⟩

/-- Settles O46: a request by the checks of R303 in their order, the gate by the first candidate that it takes. -/
theorem urgentChecksAndOutputGate : Obligations.UrgentChecksAndOutputGate := by
  refine ⟨fun s i req ns ws h0 hh ha hl hk hal ho h1 hz hf hw hc h64 => ?_, fun s i req ev ns st h0 hh ha hst => ?_,
    fun s i req ev ns hl hk ho h9 => urgentCheck_unasked hl hk ho h9,
    fun s r hd hr hc hb => outputGate_clear hd hr ((gateTakes_clean s r).trans hc) (fun q hq => (gateTakes_clean s q).trans (hb q hq)),
    fun s hd hb => outputGate_none hd (fun q hq => (gateTakes_clean s q).trans (hb q hq)),
    fun s ev hd _ he => outputGate_event hd he⟩
  · have he := urgentCheck_serves (ev := .clean) (ns := ns) h0 hh ha hl hk (urgentFault_none hal ho h1 hz hf)
    rw [urgentServe_clean hw hc h64] at he
    refine ⟨_, _, he, rfl, by simp, by simp, by simp, by simp, by simp, ?_, ?_⟩
    · rw [urgentSends_mpl]
      cases i <;> rfl
    · rw [urgentSends_mpl]
      rfl
  · rcases hst with ⟨rfl, hq⟩ | ⟨rfl, hl, hk, hal⟩
    · exact ⟨_, openMid s.free, urgentCheck_unsealed h0 hh ha hq, by simp [fresh], by simp [fresh], by simp⟩
    · exact ⟨_, openMid s.free, urgentCheck_fails h0 hh ha hl hk (urgentFault_stale hal), by simp [fresh], by simp [fresh],
        by simp⟩

end Sys2Proof.Proofs


/-! MPL_CHECK (08 R292, R300, Table 8-8). -/

namespace Sys2Proof.Proofs

open Sys2Proof.Machine Sys2Proof.Safety Sys2Proof.Laws

/-! Records (Table 8-3). -/

@[simp] theorem wordsBytes_length (ws : List Word) : (wordsBytes ws).length = 4 * ws.length := by
  induction ws with
  | nil => rfl
  | cons w r ih =>
    show (wordBytes w ++ wordsBytes r).length = _
    rw [List.length_append, ih, List.length_cons]
    simp only [wordBytes, List.length_cons, List.length_nil]
    omega

theorem wordsPoses_length {n : Nat} : ∀ {ws : List Word}, ws.length = 4 * n → (wordsPoses ws).length = n := by
  induction n with
  | zero =>
    intro ws h
    rw [List.eq_nil_of_length_eq_zero h]
    rfl
  | succ n ih =>
    intro ws h
    match ws, h with
    | a :: b :: c :: d :: r, h =>
      simp only [List.length_cons] at h
      simp only [wordsPoses, List.length_cons, ih (show r.length = 4 * n by omega)]

theorem trajWords_length (r : Traj) : (trajWords r).length = 4 + 4 * r.poses.length := by
  have hp : ∀ ps : List Pose, (ps.flatMap poseWords).length = 4 * ps.length := by
    intro ps
    induction ps with
    | nil => rfl
    | cons p r ih =>
      rw [List.flatMap_cons, List.length_append, ih, List.length_cons]
      simp only [poseWords, List.length_cons, List.length_nil]
      omega
  simp only [trajWords, List.length_append, hp, List.length_cons, List.length_nil]

theorem parsFrom_length (k : Pkt) (i : Nat) : (parsFrom k i).length = k.words.length - (5 + i) := by
  simp only [parsFrom, List.length_dropLast, List.length_drop]
  omega

/-- A record placed in a slot leaves the bytes beside it. -/
theorem sameOutside_putSlot (s : State) (n : Nat) (ws : List Word) :
    sameOutside s.mpl.sram (putSlot s n ws).mpl.sram (slotBase n) (4 * ws.length) := by
  rw [← wordsBytes_length]
  exact sameOutside_memWr s.mpl.sram (slotBase n) (wordsBytes ws)

/-! What a check leaves is the same whatever waits at a port. -/

theorem putSlot_setWaiting (s : State) (p : Port) (l : List Pkt) (n : Nat) (ws : List Word) :
    putSlot (setWaiting s p l) n ws = setWaiting (putSlot s n ws) p l := setMpl_setWaiting s p l _

theorem checkEvent_setWaiting (s : State) (p : Port) (l : List Pkt) (ev : CheckEvent) :
    checkEvent (setWaiting s p l) ev = setWaiting (checkEvent s ev) p l := by
  cases ev <;> simp [checkEvent, laneMismatch, fieldWordError, setMpl_setWaiting]

theorem checkNow_setWaiting (s : State) (p : Port) (l : List Pkt) (ps : List Pose) :
    checkNow (setWaiting s p l) ps = checkNow s ps := by simp [checkNow]

theorem slotWords_setWaiting (s : State) (p : Port) (l : List Pkt) (n : Nat) :
    slotWords (setWaiting s p l) n = slotWords s n := by simp [slotWords]

/-- An event of R300 leaves the planner's memory. -/
theorem checkEvent_sram (s : State) (ev : CheckEvent) : (checkEvent s ev).mpl.sram = s.mpl.sram :=
  (congrArg Mpl.sram (checkEvent_mpl s ev) :)

theorem checkEvent_lanes_mpl (s : State) : (checkEvent s .lanes).mpl.mism = true ∧
    (checkEvent s .lanes).mpl.ckMism = min 255 (s.mpl.ckMism + 1) := by
  simp [checkEvent, laneMismatch, satAdd]

theorem eventStatus_eq {ev : CheckEvent} (h : ev ≠ .clean) : eventStatus ev = if ev = .word then stBadCheck else stInternal := by
  cases ev with
  | clean => exact absurd rfl h
  | lanes => rfl
  | word => rfl

/-- A parameter word that names a slot and nothing else. -/
theorem slotParam {w : Word} (h : fld w 31 4 = 0) : tbit w 31 = false ∧ fld w 30 4 = 0 := by
  simp only [fld, bits, Nat.shiftRight_eq_div_pow] at h ⊢
  refine ⟨Nat.testBit_lt_two_pow ?_, ?_⟩ <;> omega

section

variable {s : State} {p : Port} {k : Pkt}

/-- What the row of MPL_CHECK comes to for a slot that holds 1 to 64 poses, whatever waits at the port. -/
theorem rowMplCheck_run {ws : List Word} (ev : CheckEvent) (hs : fld (par k 0) 31 4 = 0) (hc : planCtx s k = true)
    (hf : s.mpl.fieldv = true) (hw : slotWords s (fld (par k 0) 3 0) = ws) (h1 : 1 ≤ trajCount ws) (h64 : trajCount ws ≤ 64)
    (l : List Pkt) : (rowMplCheck ev).run (setWaiting s .host l) k =
      if ev ≠ .clean then
        .answer (eventStatus ev) (failReply s (trajCount ws)) (setWaiting (checkEvent (fresh s).2 ev) .host l)
      else .answer stOk (checkReply s (checkNow s (wordsTraj ws).poses) (trajCount ws)) (setWaiting s .host l) := by
  have hx : planCtx (setWaiting s .host l) k = true := hc
  have hn : (decide (fld (par k 0) 30 4 ≠ 0) || decide (64 < trajCount ws)) = false := by
    rw [(slotParam hs).2]
    simpa using h64
  simp only [rowMplCheck, opDef, slotWords_setWaiting, hw, hx, setWaiting_mpl, hf, hn, checkNow_setWaiting, fresh_setWaiting,
    checkEvent_setWaiting]
  rw [if_neg (by simp), if_neg (by simp), if_neg (by simp), if_neg (by omega)]
  rfl

theorem mplCheck_answers (ev : CheckEvent) {st : Byte} {data : List Word} {t : State} (h : Ready s p 5 2 1 k)
    (hs : fld (par k 0) 31 4 = 0) (hr : ∀ l, (rowMplCheck ev).run (setWaiting s p l) k = .answer st data (setWaiting t p l)) :
    exec (.mplCheck p ev) s = .next (answered p k st data (setWaiting t p [])) :=
  onPort_answers h (ofRow_ready h rfl rfl (by simp [rowMplCheck, opDef, slotParam hs]))
    (by simp [rowMplCheck, opDef, fixedRow, h.len]) rfl hr

/-- The record that inline poses make in slot 15. -/
def inlineRecord (s : State) (ps : List Pose) : Traj :=
  { rstat := Config.openByte s.free 0, clr := (checkNow s ps).clr, first := (checkNow s ps).first, gen := s.mpl.gen, poses := ps }

/-- The planner with that record in its slot. -/
def inlinePlaced (s : State) (ps : List Pose) : State := putSlot (fresh s).2 15 (trajWords (inlineRecord s ps))

theorem inlinePlaced_other (s : State) {ps : List Pose} {n : Nat} (h : ps.length = n) :
    sameOutside s.mpl.sram (inlinePlaced s ps).mpl.sram (slotBase 15) (16 + 16 * n) := by
  have hl : 4 * (trajWords (inlineRecord s ps)).length = 16 + 16 * n := by
    rw [trajWords_length, ← h]
    simp only [inlineRecord]
    omega
  exact hl ▸ sameOutside_putSlot (fresh s).2 15 (trajWords (inlineRecord s ps))

theorem rowMplCheckInline_run {n : Nat} (hn : parN k 1 = n) (hr : fld (par k 0) 30 4 = 0) (hc : planCtx s k = true)
    (hf : s.mpl.fieldv = true) (h1 : 1 ≤ n) (h64 : n ≤ 64) (l : List Pkt) :
    (rowMplCheckInline .clean).run (setWaiting s .host l) k =
      .answer stOk (checkReply s (checkNow s (wordsPoses (parsFrom k 2))) n)
        (setWaiting (inlinePlaced s (wordsPoses (parsFrom k 2))) .host l) := by
  have hx : planCtx (setWaiting s .host l) k = true := hc
  simp only [rowMplCheckInline, opDef, hx, hn, hr, setWaiting_mpl, hf, checkNow_setWaiting, fresh_setWaiting, putSlot_setWaiting]
  rw [if_neg (by simp), if_neg (by simp), if_neg (by omega), if_neg (by simp), if_neg (by omega), if_neg (by simp)]
  rfl

theorem mplCheckInline_answers {n : Nat} (h : Ready s p 5 2 (2 + 4 * n) k) (hn : parN k 1 = n) (hi : tbit (par k 0) 31 = true)
    (hr : fld (par k 0) 30 4 = 0) (hc : planCtx s k = true) (hf : s.mpl.fieldv = true) (h1 : 1 ≤ n) (h64 : n ≤ 64) :
    exec (.mplCheckInline p .clean) s = .next (answered p k stOk (checkReply s (checkNow s (wordsPoses (parsFrom k 2))) n)
      (setWaiting (inlinePlaced s (wordsPoses (parsFrom k 2))) p [])) := by
  obtain rfl := ready_host h rfl
  refine onPort_answers h (ofRow_ready h rfl rfl (by simp [rowMplCheckInline, opDef, hi])) ?_ rfl
    (rowMplCheckInline_run hn hr hc hf h1 h64)
  simp [rowMplCheckInline, opDef, h.len, hn]

end

/-- Settles O45: each form by what its row comes to; inline poses change the bytes of their record in slot 15 and no others. -/
theorem clearanceChecks : Obligations.ClearanceChecks := by
  refine ⟨fun s p k ws h hs hc hf hw h1 h64 => ?_, fun s p k n h hn hi hr hc hf h1 h64 => ?_⟩
  · obtain rfl := ready_host h rfl
    have hrun ev := rowMplCheck_run (k := k) ev hs hc hf hw h1 h64
    refine ⟨?_, fun ev he => ?_⟩
    · rw [took_alone h.alone]
      exact mplCheck_answers .clean h hs (hrun .clean)
    · rw [← eventStatus_eq he]
      refine ⟨_, _, mplCheck_answers ev h hs (fun l => (hrun ev l).trans (if_pos he)), rfl, ?_, ?_⟩
      · rw [setWaiting_mpl, checkEvent_sram]
        rfl
      · rintro rfl
        rw [setWaiting_mpl]
        exact checkEvent_lanes_mpl (fresh s).2
  · have hl : (wordsPoses (parsFrom k 2)).length = n :=
      wordsPoses_length (by rw [parsFrom_length, h.size]; omega)
    refine ⟨_, mplCheckInline_answers h hn hi hr hc hf h1 h64, ?_, ?_⟩
    · obtain rfl := ready_host h rfl
      rw [took_alone h.alone]
      rfl
    · rw [setWaiting_mpl]
      exact inlinePlaced_other s hl

end Sys2Proof.Proofs


/-! The planner's memory: slots that are cleared, the occupancy area as a build reads it (08 R289, R292, R314). -/

namespace Sys2Proof.Proofs

open Sys2Proof.Machine Sys2Proof.Safety Sys2Proof.Laws

/-- A byte range reads byte by byte as it was written, in whatever form the memory stands. -/
theorem memByte_memWr_inside (m : Mem) {a i : Nat} {bs : List Byte} (hi : i < bs.length) :
    memByte (memWr m a bs) (a + i) = bs[i] := by
  have hlt : (m.cells.filter (fun c => decide (c.1 < a))).find? (fun c => c.1 == a + i) = none :=
    find_filter_none _ _ _ (fun c hc => by
      have := beq_iff_eq.1 hc
      exact decide_eq_false (by omega))
  have hge : (m.cells.filter (fun c => decide (a + bs.length ≤ c.1))).find? (fun c => c.1 == a + i) = none :=
    find_filter_none _ _ _ (fun c hc => by
      have := beq_iff_eq.1 hc
      exact decide_eq_false (by omega))
  have hw := (walkRd_rising m.fill bs.length a _ (cellsFrom_rising m.fill a bs).1).symm.trans (walkRd_cellsFrom m.fill bs a)
  calc memByte (memWr m a bs) (a + i) = memByte { cells := cellsFrom m.fill a bs, fill := m.fill } (a + i) := by
        unfold memByte memWr
        rw [List.find?_append, List.find?_append, hlt, hge, Option.none_or, Option.or_none]
    _ = ((List.range bs.length).map
          (fun i => memByte { cells := cellsFrom m.fill a bs, fill := m.fill } (a + i)))[i]'(by simpa using hi) := by simp
    _ = bs[i] := by simp only [hw]

theorem wordsBytes_zero (n : Nat) : wordsBytes (List.replicate n 0) = List.replicate (4 * n) 0 := by
  induction n with
  | zero => rfl
  | succ n ih =>
    rw [List.replicate_succ, Nat.mul_succ, Nat.add_comm, ← List.replicate_append_replicate, ← ih]
    rfl

/-- A slot of the planner's memory cleared whole. -/
def zeroSlot (m : Mem) (n : Nat) : Mem := memWrW m (slotBase n) (List.replicate 512 0)

theorem memByte_zeroSlot (m : Mem) (n b : Nat) : memByte (zeroSlot m n) b =
    if slotBase n ≤ b ∧ b < slotBase (n + 1) then 0 else memByte m b := by
  have he : slotBase (n + 1) = slotBase n + 2048 := by simp only [slotBase]; omega
  rw [zeroSlot, memWrW, wordsBytes_zero, he]
  split
  · next h =>
    obtain ⟨i, rfl⟩ := Nat.exists_eq_add_of_le h.1
    rw [memByte_memWr_inside m (by rw [List.length_replicate]; omega), List.getElem_replicate]
  · next h => exact memByte_memWr_outside m (by rw [List.length_replicate]; omega)

theorem memByte_zeroSlots (l : List Nat) (m : Mem) (b : Nat) : memByte (l.foldl zeroSlot m) b =
    if ∃ n ∈ l, slotBase n ≤ b ∧ b < slotBase (n + 1) then 0 else memByte m b := by
  induction l generalizing m with
  | nil => simp
  | cons n l ih =>
    rw [List.foldl_cons, ih, memByte_zeroSlot]
    by_cases hl : ∃ x ∈ l, slotBase x ≤ b ∧ b < slotBase (x + 1)
    · rw [if_pos hl, if_pos ((List.exists_mem_cons_iff _ _ _).2 (.inr hl))]
    · simp only [List.exists_mem_cons_iff, hl, or_false, if_false]

/-- Slots 0 to 8 read 0 once they are cleared. -/
theorem memByte_zeroSlots_inside (m : Mem) {b : Nat} (h0 : slotBase 0 ≤ b) (h9 : b < slotBase 9) :
    memByte ((List.range 9).foldl zeroSlot m) b = 0 := by
  simp only [slotBase] at h0 h9
  rw [memByte_zeroSlots, if_pos ⟨(b - 0x1780000) / 2048, List.mem_range.2 (by omega), by simp only [slotBase]; omega⟩]

/-- The memory beside them stays. -/
theorem sameOutside_zeroSlots (m : Mem) : sameOutside m ((List.range 9).foldl zeroSlot m) (slotBase 0) (9 * 2048) := by
  intro b hb
  rw [memByte_zeroSlots, if_neg]
  rintro ⟨n, hn, h⟩
  have := List.mem_range.1 hn
  simp only [slotBase] at h hb
  omega

theorem forAll_clearSlot (l : List Nat) (s : State) :
    forAll s l clearSlot = { s with mpl := { s.mpl with sram := l.foldl zeroSlot s.mpl.sram } } := by
  induction l generalizing s with
  | nil => rfl
  | cons n l ih => exact ih (clearSlot s n)

/-- The bytes of a memory from `lo` to before `hi` as a memory of their own. -/
def memArea (lo hi : Nat) (m : Mem) : Mem :=
  { cells := (m.cells.filter (fun c => lo ≤ c.1 && c.1 < hi)).map (fun c => (c.1 - lo, c.2)) }

theorem memByte_memArea {lo hi b : Nat} {m : Mem} (hf : m.fill = .byte 0) (hb : lo + b < hi) :
    memByte (memArea lo hi m) b = memByte m (lo + b) := by
  have he : (memArea lo hi m).cells.find? (fun c => c.1 == b) =
      (m.cells.find? (fun c => c.1 == lo + b)).map (fun c => (c.1 - lo, c.2)) := by
    rw [memArea, List.find?_map, List.find?_filter]
    refine congrArg (fun p => (m.cells.find? p).map _) (funext fun c => ?_)
    rw [Bool.eq_iff_iff]
    simp only [Function.comp, Bool.and_eq_true, decide_eq_true_eq, beq_iff_eq]
    omega
  unfold memByte
  rw [he, hf]
  cases m.cells.find? (fun c => c.1 == lo + b) with
  | none => rfl
  | some c => rfl

end Sys2Proof.Proofs

/-! Searches begin (08 R290-R292, R312, R314). -/

namespace Sys2Proof.Proofs

open Sys2Proof.Machine Sys2Proof.Safety Sys2Proof.Laws

theorem startSearch_eq (s : State) : startSearch s = { s with
    free := s.free + 1
    mpl := { s.mpl with
      sram := (List.range 9).foldl zeroSlot s.mpl.sram, st := 3, current := false, candsHeld := 0, searched := true } } := by
  rw [startSearch, forAll_clearSlot]
  generalize (List.range 9).foldl zeroSlot s.mpl.sram = m
  rfl

/-- The search that MPL_SEARCH names, under the configuration in effect. -/
def searchOf (s : State) (src : SearchSrc) (pkt : Option Pkt) (par : List Word) : Search :=
  { src := src, pkt := pkt, build := tbit (nth par 0) 0, waiting := tbit (nth par 0) 0, building := false
    pose := (nth par 1, nth par 2), t0 := join64 (nth par 3) (nth par 4), cfg := s.mpl.cfg, layover := s.stg.inlay }

/-- A search with a build waits for it, and leaves the planner's memory till then. -/
theorem beginSearch_build (s : State) (src : SearchSrc) (pkt : Option Pkt) {par : List Word} (hb : tbit (nth par 0) 0 = true) :
    beginSearch s src pkt par =
      setMpl (flushMpl s) (fun m => { m with st := 2, search := some (searchOf (flushMpl s) src pkt par) }) := by
  simp only [beginSearch, searchOf, hb]
  rfl

/-- A search without one starts at once. -/
theorem beginSearch_start (s : State) (src : SearchSrc) (pkt : Option Pkt) {par : List Word} (hb : tbit (nth par 0) 0 = false) :
    beginSearch s src pkt par =
      setMpl (startSearch (flushMpl s)) (fun m => { m with st := 3, search := some (searchOf (flushMpl s) src pkt par) }) := by
  simp only [beginSearch, searchOf, hb, startSearch_eq]
  rfl

theorem searchBegun (s : State) (src : SearchSrc) (pkt : Option Pkt) (par : List Word) :
    SearchBegun (flushMpl s) (beginSearch s src pkt par) src pkt par := by
  cases hb : tbit (nth par 0) 0 with
  | true =>
    rw [beginSearch_build s src pkt hb]
    exact { search := rfl, st := by rw [hb]; rfl, slots := fun h => absurd (hb.symm.trans h) (by simp), other := fun _ _ => rfl
            kept := fun _ => rfl, rest := rfl, mpl := by simp [hb] }
  | false =>
    rw [beginSearch_start s src pkt hb, startSearch_eq]
    exact { search := rfl, st := by rw [hb]; rfl, slots := fun _ b => memByte_zeroSlots_inside _
            other := sameOutside_zeroSlots _, kept := fun h => absurd (hb.symm.trans h) (by simp), rest := rfl, mpl := by simp [hb] }

/-- The planner takes a search while none is under way, it is up, and a field to search stands or is asked for (Table 8-8). -/
theorem searchRefusal_none {s : State} {par : List Word} {host : Bool} (hr : fld (nth par 0) 31 1 = 0)
    (hb : tbit (nth par 0) 0 = false → nth par 3 = 0 ∧ nth par 4 = 0 ∧ s.mpl.fieldv = true) (hs : s.mpl.search = none)
    (hl : host = true → s.stg.inlay = false) (h0 : s.mpl.st ≠ 0) : searchRefusal s par host = none := by
  have hi : (host && s.stg.inlay) = false := by cases host <;> simp [hl]
  cases ht : tbit (nth par 0) 0 with
  | true => simp [searchRefusal, hr, ht, hs, hi, h0]
  | false =>
    obtain ⟨h3, h4, hf⟩ := hb ht
    simp [searchRefusal, hr, ht, hs, hi, h0, h3, h4, hf]

/-! A search begins the same whatever waits at a port. -/

theorem flushMpl_setWaiting (s : State) (p : Port) (l : List Pkt) : flushMpl (setWaiting s p l) = setWaiting (flushMpl s) p l := by
  unfold flushMpl
  rw [setWaiting_mpl]
  split
  · split
    · exact setMpl_setWaiting s p l _
    · rfl
  · rfl

theorem startSearch_setWaiting (s : State) (p : Port) (l : List Pkt) :
    startSearch (setWaiting s p l) = setWaiting (startSearch s) p l := by
  rw [startSearch_eq, startSearch_eq]
  rcases p with _ | _ | _ <;> rfl

theorem beginSearch_setWaiting (s : State) (p : Port) (l : List Pkt) (src : SearchSrc) (pkt : Option Pkt) (par : List Word) :
    beginSearch (setWaiting s p l) src pkt par = setWaiting (beginSearch s src pkt par) p l := by
  have hq : searchOf (flushMpl (setWaiting s p l)) src pkt par = searchOf (flushMpl s) src pkt par := by
    simp [searchOf, flushMpl_setWaiting]
  cases hb : tbit (nth par 0) 0 with
  | true => rw [beginSearch_build _ src pkt hb, beginSearch_build _ src pkt hb, hq, flushMpl_setWaiting, setMpl_setWaiting]
  | false =>
    rw [beginSearch_start _ src pkt hb, beginSearch_start _ src pkt hb, hq, flushMpl_setWaiting, startSearch_setWaiting,
      setMpl_setWaiting]

theorem nth_parsFrom {k : Pkt} {n i : Nat} (h : k.words.length = n + 5) (hi : i < n) : nth (parsFrom k 0) i = par k i := by
  have hl : i < (parsFrom k 0).length := by rw [parsFrom_length]; omega
  have hw : 4 + i < k.words.length := by omega
  rw [nth, List.getD_eq_getElem _ _ hl, par, nth, List.getD_eq_getElem _ _ hw]
  simp [parsFrom]

/-- MPL_SEARCH by packet, with a build or without, waits for its end (R290). -/
theorem mplSearch_defers {s : State} {p : Port} {k : Pkt} (h : Ready s p 5 1 5 k) (hc : planCtx s k = true)
    (hr : searchRefusal s (parsFrom k 0) true = none) :
    exec (if tbit (par k 0) 0 then .mplSearchBuild (.packet p) else .mplSearch (.packet p)) s =
      .next (deferred p k .search (setWaiting (beginSearch s (.packet p) (some k) (parsFrom k 0)) p [])) := by
  have hrow : ∀ b, tbit (par k 0) 0 = b → onPort (searchRow b) p s =
      .next (deferred p k .search (setWaiting (beginSearch s (.packet p) (some k) (parsFrom k 0)) p [])) := by
    intro b hb
    obtain rfl := ready_host h rfl
    refine onPort_defers h (ofRow_ready h rfl rfl (by simp [searchRow, opDef, hb]))
      (gate_ready h (by simp [searchRow, opDef, fixedRow, h.len]) rfl) (fun l => ?_)
    have hx : planCtx (setWaiting s .host l) k = true := hc
    have hn : searchRefusal (setWaiting s .host l) (parsFrom k 0) true = none := hr
    simp only [searchRow, opDef, hx, hn, h.alone.port, beginSearch_setWaiting]
    rfl
  cases hb : tbit (par k 0) 0 with
  | true => exact hrow true hb
  | false => exact hrow false hb

/-- MPL_SEARCH by a command of the planning context. -/
theorem mplSearch_timetable {s : State} {ps : List Word} (hr : searchRefusal s ps false = none) :
    exec (if tbit (nth ps 0) 0 then .mplSearchBuild (.timetable ps) else .mplSearch (.timetable ps)) s =
      .next (beginSearch s (.timetable ps) none ps) := by
  have ht : ∀ b, tbit (nth ps 0) 0 = b → timetableSearch b ps s = beginSearch s (.timetable ps) none ps := by
    intro b hb
    rw [timetableSearch, hb, hr, if_pos (by simp)]
  cases hb : tbit (nth ps 0) 0 with
  | true => exact congrArg Host.Outcome.next (ht true hb)
  | false => exact congrArg Host.Outcome.next (ht false hb)

/-! Builds (R288-R291). -/

@[simp] theorem frontField_setBack (m : Mpl) (f : Field) : frontField (setBack m f) = frontField m := by
  cases h : m.front <;> simp [frontField, setBack, h]

@[simp] theorem backField_setBack (m : Mpl) (f : Field) : backField (setBack m f) = f := by
  cases h : m.front <;> simp [backField, setBack, h]

@[simp] theorem setBack_sram (m : Mpl) (f : Field) : (setBack m f).sram = m.sram := by
  unfold setBack; split <;> rfl
@[simp] theorem setBack_front (m : Mpl) (f : Field) : (setBack m f).front = m.front := by
  unfold setBack; split <;> rfl

/-- A build reads the occupancy area into the back buffer. -/
theorem fieldBuildStart_eq {s : State} {q : Search} (hs : s.mpl.search = some q) (hw : q.waiting = true) :
    exec .fieldBuildStart s = .next (setMpl s (fun m => { setBack m {
      occ := memArea occBase primBase s.mpl.sram, infl := (planCfg q.cfg).infl, built := false, t0 := q.t0, gen := 0 } with
      search := some { q with waiting := false, building := true } })) := by
  show execFieldBuildStart s = _
  simp only [execFieldBuildStart, hs, hw]
  rfl

/-- The planner as a build is published: the buffers have changed places. -/
def publishedMpl (m : Mpl) (q : Search) : Mpl :=
  let n := setBack m { backField m with built := true, gen := (m.gen + 1) % 2 ^ 24 }
  { n with front := !n.front, gen := (m.gen + 1) % 2 ^ 24, ref := q.t0, fieldv := true, search := some { q with building := false } }

theorem publishedMpl_frontField (m : Mpl) (q : Search) :
    frontField (publishedMpl m q) = { backField m with built := true, gen := (m.gen + 1) % 2 ^ 24 } := by
  cases h : m.front <;> simp [publishedMpl, frontField, backField, setBack, h]

theorem publishedMpl_backField (m : Mpl) (q : Search) : backField (publishedMpl m q) = frontField m := by
  cases h : m.front <;> simp [publishedMpl, frontField, backField, setBack, h]

/-- A build is published as a whole, and its search starts. -/
theorem fieldPublish_eq {s : State} {q : Search} (hs : s.mpl.search = some q) (hb : q.building = true) :
    exec .fieldPublish s = .next (startSearch { s with mpl := publishedMpl s.mpl q }) := by
  show execFieldPublish s = _
  simp only [execFieldPublish, hs]
  rw [if_pos hb]
  rfl

end Sys2Proof.Proofs

/-! Searches end (08 R309, R314, R315, R318). -/

namespace Sys2Proof.Proofs

open Sys2Proof.Machine Sys2Proof.Safety Sys2Proof.Laws

/-- A candidate into its place by cost, behind those of equal cost (R314). -/
def rankInto (acc : List (Nat × SEntry)) (e : Nat × SEntry) : List (Nat × SEntry) :=
  acc.takeWhile (fun a => a.2.g ≤ e.2.g) ++ e :: acc.dropWhile (fun a => a.2.g ≤ e.2.g)

theorem rankInto_cons (x : Nat × SEntry) (r : List (Nat × SEntry)) (e : Nat × SEntry) :
    rankInto (x :: r) e = if x.2.g ≤ e.2.g then x :: rankInto r e else e :: x :: r := by
  by_cases h : x.2.g ≤ e.2.g <;> simp [rankInto, h]

theorem mem_rankInto {acc : List (Nat × SEntry)} {e a : Nat × SEntry} (h : a ∈ rankInto acc e) : a = e ∨ a ∈ acc := by
  rcases List.mem_append.1 h with h | h
  · exact .inr ((List.takeWhile_sublist _).mem h)
  · exact (List.mem_cons.1 h).imp_right (List.dropWhile_sublist _).mem

theorem pairwise_rankInto {acc : List (Nat × SEntry)} (h : acc.Pairwise (fun a b => a.2.g ≤ b.2.g)) (e : Nat × SEntry) :
    (rankInto acc e).Pairwise (fun a b => a.2.g ≤ b.2.g) := by
  induction acc with
  | nil => simp [rankInto]
  | cons x r ih =>
    obtain ⟨hx, hr⟩ := List.pairwise_cons.1 h
    rw [rankInto_cons]
    split
    · next hle =>
      refine List.pairwise_cons.2 ⟨fun a ha => ?_, ih hr⟩
      rcases mem_rankInto ha with rfl | ha
      · exact hle
      · exact hx a ha
    · next hlt =>
      refine List.pairwise_cons.2 ⟨fun a ha => ?_, h⟩
      rcases List.mem_cons.1 ha with rfl | ha
      · omega
      · have := hx a ha
        omega

/-- The candidates of a search are ranked by cost. -/
theorem rankCands_pairwise (r : SRun) : (rankCands r).Pairwise (fun a b => a.2.g ≤ b.2.g) := by
  have hf : ∀ l acc : List (Nat × SEntry), acc.Pairwise (fun a b => a.2.g ≤ b.2.g) →
      (l.foldl rankInto acc).Pairwise (fun a b => a.2.g ≤ b.2.g) := by
    intro l
    induction l with
    | nil => exact fun _ h => h
    | cons e l ih => exact fun _ h => ih _ (pairwise_rankInto h e)
  exact hf _ [] .nil

/-- Of the state only the planner's memory has changed. -/
def SramOnly (s t : State) : Prop := ∃ m, t = { s with mpl := { s.mpl with sram := m } }

theorem SramOnly.trans {s t u : State} (h : SramOnly s t) (k : SramOnly t u) : SramOnly s u := by
  obtain ⟨m, rfl⟩ := h
  obtain ⟨n, rfl⟩ := k
  exact ⟨n, rfl⟩

theorem sramOnly_putSlot (s : State) (n : Nat) (ws : List Word) : SramOnly s (putSlot s n ws) := ⟨_, rfl⟩

/-- The planner after a search has ended. -/
def endedMpl (s : State) (o : SRun × Nat × Nat) (sram : Mem) : Mpl :=
  { s.mpl with
    st := 1, search := none, sstat := (searchStatus (rankCands o.1).length o.2.1).toNat, cands := (rankCands o.1).length
    candsHeld := (rankCands o.1).length, reason := o.2.1, pops := o.1.pops, qpeak := o.1.peak, evict := min o.1.evict 65535
    drop := min o.1.drop 65535, current := true, ended := true, gateOpen := s.mpl.gateOpen || s.stg.inlay, sram := sram }

/-- The end of a search stores its trajectories, writes the result registers, and draws the reply. -/
theorem finishSearch_eq (s : State) (q : Search) (o : SRun × Nat × Nat) : ∃ sram data,
    finishSearch s q o = completeDefers { s with free := s.free + 1, mpl := endedMpl s o sram } .search
      (searchStatus (rankCands o.1).length o.2.1) data ∧
    (rankCands o.1 ≠ [] → data = summaryWords o.1 (rankCands o.1) o.2.1 o.2.2 (frontField s.mpl).gen) := by
  unfold finishSearch
  extract_lets c f r cands st part sum t u v
  obtain ⟨m, ht⟩ : SramOnly s t := by
    unfold t
    split
    · exact sramOnly_putSlot s 8 part
    · exact forAll_rel SramOnly (fun _ => ⟨_, rfl⟩) .trans (fun t e => sramOnly_putSlot t _ _) _ s
  clear_value t
  subst ht
  exact ⟨m, _, rfl, fun h => if_neg (by simpa [cands] using h)⟩

/-- The islands stand, and nothing new waits to be taken in at the host port. -/
def IslandsKept (s t : State) : Prop := t.hpt.inbound = s.hpt.inbound ∧ t.sia = s.sia ∧ t.sib = s.sib

theorem IslandsKept.trans {s t u : State} (h : IslandsKept s t) (k : IslandsKept t u) : IslandsKept s u :=
  ⟨k.1.trans h.1, k.2.1.trans h.2.1, k.2.2.trans h.2.2⟩

theorem islandsKept_reply (s : State) (k : Pkt) (st : Byte) (data : List Word) : IslandsKept s (reply s k st data) := by
  refine ⟨?_, reply_sia .., reply_sib ..⟩
  cases hp : k.port with
  | host => rw [reply_host _ _ _ _ hp, setHpt_hpt]
  | mgt i =>
    rw [reply_mgt _ _ _ _ i hp]
    cases i <;> rfl

/-- The replies that a work draws leave the islands, and so does the intake that has nothing to take. -/
theorem completeDefers_islands {s : State} (hi : s.hpt.inbound = []) (w : DefKind) (st : Byte) (data : List Word) :
    (completeDefers s w st data).sia = s.sia ∧ (completeDefers s w st data).sib = s.sib := by
  obtain ⟨hin, hisl⟩ : IslandsKept s (drawn s w st data) :=
    forAll_rel IslandsKept (fun _ => ⟨rfl, rfl, rfl⟩) .trans
      (fun (t : State) (d : Deferred) => islandsKept_reply t d.pkt st data) _ _
  have ht : intake (drawn s w st data) = drawn s w st data := by simp [intake, hin, hi]
  rw [completeDefers_eq, ht, ite_self]
  exact hisl

/-- What the end of a search comes to. -/
structure SearchOver (s t : State) (o : SRun × Nat × Nat) : Prop where
  mpl  : t.mpl = endedMpl s o t.mpl.sram
  stg  : t.stg = s.stg
  tt   : t.tt = s.tt
  dies : t.dies = s.dies
  fus  : t.fus = s.fus
  isl  : s.hpt.inbound = [] → t.sia = s.sia ∧ t.sib = s.sib
  drew : rankCands o.1 ≠ [] → drew s t .search stOk (summaryWords o.1 (rankCands o.1) o.2.1 o.2.2 (frontField s.mpl).gen)

theorem searchOver_finishSearch (s : State) (q : Search) (o : SRun × Nat × Nat) : SearchOver s (finishSearch s q o) o := by
  obtain ⟨m, data, he, hd⟩ := finishSearch_eq s q o
  rw [he]
  have hk := signalKept_completeDefers { s with free := s.free + 1, mpl := endedMpl s o m } .search
    (searchStatus (rankCands o.1).length o.2.1) data
  have hisl (hi : s.hpt.inbound = []) := completeDefers_islands (s := { s with free := s.free + 1, mpl := endedMpl s o m }) hi .search
    (searchStatus (rankCands o.1).length o.2.1) data
  refine ⟨?_, hk.stg, hk.tt, hk.dies, hk.fus, hisl, fun hc => ?_⟩
  · rw [hk.mpl]
    rfl
  · have hst : searchStatus (rankCands o.1).length o.2.1 = stOk := if_pos (List.length_pos_iff.2 hc)
    rw [hd hc, hst]
    exact drew_completeDefers { s with free := s.free + 1, mpl := endedMpl s o m } .search stOk _

/-- The ends of a search (Table 8-7): of itself, at its time budget, at the stage deadline of its own part of the stage. -/
theorem search_ends {s : State} {q : Search} {lim : Option Nat} {r : Instr} (hq : running s.mpl = some q)
    (hr : r = .searchEnd ∧ lim = none ∨ r = .searchTimeBudget ∧ lim = none ∧ (searchNow s q lim).2.1 = 2 ∨
      ∃ c, r = .searchStageDeadline c ∧ lim = some c ∧ (searchNow s q lim).2.1 = 3 ∧ q.layover = s.stg.inlay ∧
        s.stg.cutoffPast = false) : exec r s = .next (finishSearch s q (searchNow s q lim)) := by
  rcases hr with ⟨rfl, rfl⟩ | ⟨rfl, rfl, h2⟩ | ⟨c, rfl, rfl, h3, hl, hc⟩
  · show execSearchEnd s = _
    simp only [execSearchEnd, hq]
  · show execSearchTimeBudget s = _
    simp only [execSearchTimeBudget, hq, if_pos h2]
  · show execSearchStageDeadline c s = _
    simp only [execSearchStageDeadline, hq]
    rw [if_pos (by simp [hl, hc, h3])]

/-- Settles O43: the begin of a search by the planner's memory and registers, a build by its two buffers, an end by what
`finishSearch` stores before the reply. -/
theorem searches : Obligations.Searches := by
  refine ⟨fun s p k h hc hr hb hs hl h0 => ?_, fun s ps hr hb hs h0 => ?_, fun s q hs hw hf => ?_, fun s q hs hb => ?_,
    fun s q lim r o hq ho hr => ?_⟩
  · have hn (i : Nat) (hi : i < 5) : nth (parsFrom k 0) i = par k i := nth_parsFrom h.size hi
    rw [← hn 0 (by omega)] at hr
    rw [← hn 0 (by omega), ← hn 3 (by omega), ← hn 4 (by omega)] at hb
    refine ⟨_, ?_, mplSearch_defers h hc (searchRefusal_none hr hb hs (fun _ => hl) h0)⟩
    rw [← beginSearch_setWaiting, took_alone h.alone]
    exact searchBegun ..
  · exact ⟨_, searchBegun .., mplSearch_timetable (searchRefusal_none hr hb hs (by simp) h0)⟩
  · exact ⟨_, fieldBuildStart_eq hs hw, rfl, frontField_setBack s.mpl _,
      fun b hb => (congrArg (fun f => memByte f.occ b) (backField_setBack s.mpl _)).trans
        (memByte_memArea hf (Nat.add_lt_add_left hb occBase)),
      congrArg Field.infl (backField_setBack s.mpl _), setBack_sram s.mpl _, rfl⟩
  · have hm : (publishedMpl s.mpl q).sram = s.mpl.sram := setBack_sram s.mpl _
    rw [fieldPublish_eq hs hb, startSearch_eq]
    refine ⟨_, rfl, congrArg not (setBack_front s.mpl _), rfl, rfl, rfl, rfl, publishedMpl_frontField s.mpl q,
      publishedMpl_backField s.mpl q, rfl, rfl, fun b h0 h9 => memByte_zeroSlots_inside _ h0 h9, ?_, rfl⟩
    rw [← hm]
    exact sameOutside_zeroSlots _
  · subst ho
    have hover := searchOver_finishSearch s q (searchNow s q lim)
    exact ⟨_, search_ends hq hr, hover.mpl, rankCands_pairwise _, hover.stg, hover.tt, hover.dies, hover.fus,
      hover.isl, hover.drew⟩

end Sys2Proof.Proofs


/-! The opcodes of class 0x6 (09 R363, R364, R366, Table 9-10). -/

namespace Sys2Proof.Proofs

open Sys2Proof.Machine Sys2Proof.Safety Sys2Proof.Laws

theorem setFus_setWaiting (s : State) (p : Port) (l : List Pkt) (f : Fus → Fus) :
    setFus (setWaiting s p l) f = setWaiting (setFus s f) p l := by
  rcases p with _ | _ | _ <;> rfl

theorem setFus_id (s : State) : setFus s id = s := rfl

@[simp] theorem fusCtx_setWaiting (s : State) (p : Port) (l : List Pkt) (k : Pkt) :
    fusCtx (setWaiting s p l) k = fusCtx s k := by
  simp [fusCtx]

@[simp] theorem fusCfgBad_setWaiting (s : State) (p : Port) (l : List Pkt) (ws : List Word) :
    fusCfgBad (setWaiting s p l) ws = fusCfgBad s ws := by
  rcases p with _ | _ | _ <;> rfl

@[simp] theorem fusMaskst_setWaiting (s : State) (p : Port) (l : List Pkt) : fusMaskst (setWaiting s p l) = fusMaskst s := by
  simp [fusMaskst, streamMasked, stream]

/-! A mask word with the bit of one stream set or cleared. -/

theorem getLsbD_streamBit (n j : Fin 20) : (BitVec.ofNat 20 (2 ^ n.val)).getLsbD j.val = decide (j = n) := by
  rw [BitVec.getLsbD_ofNat, Nat.testBit_two_pow, decide_eq_true j.isLt, Bool.true_and]
  exact decide_eq_decide.2 ⟨fun h => Fin.ext h.symm, fun h => congrArg Fin.val h.symm⟩

theorem getLsbD_or_stream (m : BitVec 20) (n j : Fin 20) :
    (m ||| BitVec.ofNat 20 (2 ^ n.val)).getLsbD j.val = (decide (j = n) || m.getLsbD j.val) := by
  rw [BitVec.getLsbD_or, getLsbD_streamBit, Bool.or_comm]

theorem getLsbD_and_not_stream (m : BitVec 20) (n j : Fin 20) :
    (m &&& ~~~BitVec.ofNat 20 (2 ^ n.val)).getLsbD j.val = (decide (j ≠ n) && m.getLsbD j.val) := by
  rw [BitVec.getLsbD_and, BitVec.getLsbD_not, getLsbD_streamBit, decide_eq_true j.isLt, Bool.true_and, decide_not, Bool.and_comm]

/-- A ready packet has the length of a row with a fixed number of parameters. -/
theorem lenOk_ready {s : State} {p : Port} {c op n : Nat} {k : Pkt} (h : Ready s p c op n k) :
    (fixedRow c op n).lenOk k = true := by
  simp [fixedRow, h.len]

section

variable {s : State} {p : Port} {k : Pkt}

/-- A ready packet whose row, whatever waits beside it, answers and changes the fusion engine alone. -/
theorem fusRow_answers {op n : Nat} {o : OpDef} {st : Byte} {data : List Word} {f : Fus → Fus} (h : Ready s p 6 op n k)
    (ho : ofRow o k = true) (hl : o.form.lenOk k = true) (hx : o.ctxOk = ctxKnown)
    (hr : ∀ l, o.run (setWaiting s p l) k = .answer st data (setFus (setWaiting s p l) f)) :
    onPort o p s = .next (answered p k st data (setFus (took s p k) f)) := by
  rw [took_alone h.alone, setFus_setWaiting]
  exact onPort_answers h ho hl hx (fun l => (hr l).trans (by rw [setFus_setWaiting]))

theorem fusCfg_answers (h : Ready s p 6 0 27 k) (hc : fusCtx s k = true)
    (hb : fusCfgBad s (fusMask (parsFrom k 0)) = none) (hn : s.fus.round = none) :
    exec (.fusCfg p) s = .next (answered p k stOk [] (setFus (took s p k) (fun u =>
      { u with cfg := fusMask (parsFrom k 0), shadow := fusMask (parsFrom k 0), defCommit := none }))) :=
  fusRow_answers (o := rowFusCfg) h (ofRow_ready h rfl rfl rfl) (lenOk_ready h) rfl
    (fun l => by simp [rowFusCfg, opDef, hc, hb, hn])

/-- A parameter of FUS_MASK that names a stream and sets no reserved bit is not refused. -/
theorem hostMask_stream (set : Bool) {n : Fin 20} (hc : fusCtx s k = true) (h0 : fld (par k 0) 30 5 = 0)
    (hn : fld (par k 0) 4 0 = n.val) : hostMask set s k =
      if !set && !s.fus.hmaskReq.getLsbD n.val then .answer stOkEmpty [] s
      else .answer stOk [fusMaskst s] (setFus s (fun u => { u with
        hmaskReq := if set then u.hmaskReq ||| BitVec.ofNat 20 (2 ^ n.val)
          else u.hmaskReq &&& ~~~BitVec.ofNat 20 (2 ^ n.val) })) := by
  have hlt : ¬ 19 < n.val := by omega
  simp [hostMask, hc, h0, hn, hlt]

/-- A stream masked by the host, from the next round on (R364). -/
theorem fusMask_answers {n : Fin 20} (h : Ready s p 6 1 1 k) (hc : fusCtx s k = true) (h0 : fld (par k 0) 30 5 = 0)
    (hn : fld (par k 0) 4 0 = n.val) (hs : tbit (par k 0) 31 = true) :
    exec (.fusMask p) s = .next (answered p k stOk [fusMaskst s] (setFus (took s p k) (fun u =>
      { u with hmaskReq := u.hmaskReq ||| BitVec.ofNat 20 (2 ^ n.val) }))) :=
  fusRow_answers (o := rowFusMask) h (ofRow_ready h rfl rfl hs) (lenOk_ready h) rfl
    (fun l => (hostMask_stream true ((fusCtx_setWaiting s p l k).trans hc) h0 hn).trans (by simp))

/-- The host mask of a stream lifted, from the next round on (R364). -/
theorem fusUnmask_answers {n : Fin 20} (h : Ready s p 6 1 1 k) (hc : fusCtx s k = true) (h0 : fld (par k 0) 30 5 = 0)
    (hn : fld (par k 0) 4 0 = n.val) (hs : tbit (par k 0) 31 = false) (hm : s.fus.hmaskReq.getLsbD n.val = true) :
    exec (.fusUnmask p) s = .next (answered p k stOk [fusMaskst s] (setFus (took s p k) (fun u =>
      { u with hmaskReq := u.hmaskReq &&& ~~~BitVec.ofNat 20 (2 ^ n.val) }))) :=
  fusRow_answers (o := rowFusUnmask) h (ofRow_ready h rfl rfl (by simp [rowFusUnmask, opDef, hs]))
    (lenOk_ready h) rfl
    (fun l => (hostMask_stream false ((fusCtx_setWaiting s p l k).trans hc) h0 hn).trans (by simp [hm]))

theorem fusUnmask_empty {n : Fin 20} (h : Ready s p 6 1 1 k) (hc : fusCtx s k = true) (h0 : fld (par k 0) 30 5 = 0)
    (hn : fld (par k 0) 4 0 = n.val) (hs : tbit (par k 0) 31 = false) (hm : s.fus.hmaskReq.getLsbD n.val = false) :
    exec (.fusUnmask p) s = .next (answered p k stOkEmpty [] (took s p k)) :=
  fusRow_answers (o := rowFusUnmask) (f := id) h (ofRow_ready h rfl rfl (by simp [rowFusUnmask, opDef, hs]))
    (lenOk_ready h) rfl
    (fun l => (hostMask_stream false ((fusCtx_setWaiting s p l k).trans hc) h0 hn).trans (if_pos (by rw [setWaiting_fus, hm]; rfl)))

/-- A range of the published table's slots, behind the first words of its header. -/
theorem fusTracks_answers (h : Ready s p 6 2 2 k) (hc : fusCtx s k = true) (ha : s.fus.anyPub = true)
    (h0 : parN k 0 ≤ 1023) (h1 : 1 ≤ parN k 1) (h2 : parN k 1 ≤ 1023) (h3 : parN k 0 + parN k 1 ≤ 1024) :
    exec (.fusTracks p) s = .next (answered p k stOk ((tableHeader (pubTable s.fus)).take 8 ++
      (List.range (parN k 1)).flatMap (fun i => slotRecord (pubTable s.fus) (parN k 0 + i))) (took s p k)) := by
  refine fusRow_answers (o := rowFusTracks) (f := id) h (ofRow_ready h rfl rfl rfl)
    (lenOk_ready h) rfl (fun l => ?_)
  have hslots : (decide (1023 < parN k 1) || decide (1024 < parN k 0 + parN k 1)) = false := by
    rw [decide_eq_false (by omega), decide_eq_false (by omega), Bool.or_false]
  simp only [rowFusTracks, opDef, fusCtx_setWaiting, setWaiting_fus, hc, ha, hslots]
  rw [if_neg (by simp), if_neg (by omega), if_neg (by simp), if_neg (by simp), if_neg (by omega)]
  rfl

theorem fusReport_refuses (h : Ready s p 6 3 0 k) (hc : fusCtx s k = true) (hr : s.fus.report = []) :
    exec (.fusReport p) s = .next (refused p k stNotReady 11 0xFFFF (took s p k)) :=
  onPort_refuses (o := rowFusReport) h (ofRow_ready h rfl rfl rfl) (lenOk_ready h) rfl
    (by simp [rowFusReport, opDef, hc, hr])

theorem fusReport_answers (h : Ready s p 6 3 0 k) (hc : fusCtx s k = true) (hr : s.fus.report ≠ []) :
    exec (.fusReport p) s = .next (answered p k (if reportLate s.fus.report then stLateSample else stOk) s.fus.report
      (took s p k)) :=
  fusRow_answers (o := rowFusReport) (f := id) h (ofRow_ready h rfl rfl rfl)
    (lenOk_ready h) rfl
    (fun l => by simp [rowFusReport, opDef, hc, hr, setFus_id])

theorem fusClear_answers (h : Ready s p 6 4 0 k) (hc : fusCtx s k = true) :
    exec (.fusClear p) s = .next (answered p k stOk [] (setFus (took s p k) (fun u => { u with clearReq := true }))) :=
  fusRow_answers (o := rowFusClear) h (ofRow_ready h rfl rfl rfl) (lenOk_ready h) rfl
    (fun l => by simp [rowFusClear, opDef, hc])

/-- Class 0x6 is refused on other contexts than 0 and the fusion context (R363). -/
theorem fusion_refuses {o n : Nat} {r : Instr}
    (hm : (o, n, r) ∈ [(0, 27, Instr.fusCfg p), (2, 2, .fusTracks p), (3, 0, .fusReport p), (4, 0, .fusClear p)])
    (h : Ready s p 6 o n k) (hc : fusCtx s k = false) : exec r s = .next (refused p k stFirewall 10 1 (took s p k)) := by
  simp only [List.mem_cons, Prod.mk.injEq, List.not_mem_nil, or_false] at hm
  rcases hm with ⟨rfl, rfl, rfl⟩ | ⟨rfl, rfl, rfl⟩ | ⟨rfl, rfl, rfl⟩ | ⟨rfl, rfl, rfl⟩
  · exact onPort_refuses h (ofRow_ready h rfl rfl rfl) (lenOk_ready h) rfl
      (by simp [rowFusCfg, opDef, hc])
  · exact onPort_refuses h (ofRow_ready h rfl rfl rfl) (lenOk_ready h) rfl
      (by simp [rowFusTracks, opDef, hc])
  · exact onPort_refuses h (ofRow_ready h rfl rfl rfl) (lenOk_ready h) rfl
      (by simp [rowFusReport, opDef, hc])
  · exact onPort_refuses h (ofRow_ready h rfl rfl rfl) (lenOk_ready h) rfl
      (by simp [rowFusClear, opDef, hc])

/-- A change of the fusion engine as a packet is taken, written out as the statements write it. -/
theorem setFus_took (s : State) (p : Port) (k : Pkt) (f : Fus → Fus) :
    setFus (took s p k) f = { took s p k with fus := f s.fus } := by
  rw [setFus, took, setWaiting_fus]

end

/-- Settles O52: each opcode from its own lemma, the mask by its bits. -/
theorem fusionOpcodes : Obligations.FusionOpcodes := by
  refine ⟨fun s p k h hc hb hn => ?_, fun s p k n h hc h0 hn => ⟨fun hs => ?_, fun hs hm => ?_, fusUnmask_empty h hc h0 hn⟩,
    fun s p k h hc ha h0 h1 h2 h3 => fusTracks_answers h hc ha h0 h1 h2 h3,
    fun s p k h hc => ⟨fusReport_refuses h hc, fusReport_answers h hc⟩, fun s p k h hc => ?_,
    fun s p k o n r hm h hc => fusion_refuses hm h hc⟩
  · rw [fusCfg_answers h hc hb hn, setFus_took]
  · refine ⟨_, fusMask_answers h hc h0 hn hs, ?_, fun j => ?_⟩
    · rw [setFus_took]
    · rw [setFus_took]
      exact getLsbD_or_stream s.fus.hmaskReq n j
  · refine ⟨_, fusUnmask_answers h hc h0 hn hs hm, ?_, fun j => ?_⟩
    · rw [setFus_took]
    · rw [setFus_took]
      exact getLsbD_and_not_stream s.fus.hmaskReq n j
  · rw [fusClear_answers h hc, setFus_took]

end Sys2Proof.Proofs

/-! The host port beside work at the stacks and the queue contexts (10 R368, R371; 12): such work can raise the port's alert by an
entry in the fault log, and writes nothing else of it. -/

namespace Sys2Proof.Proofs

open Sys2Proof.Machine Sys2Proof.Safety Sys2Proof.Laws

/-- A relation that stands through the steps of which all work at the stacks is made. -/
structure StackSteps (R : State → State → Prop) : Prop where
  refl   : ∀ s, R s s
  trans  : ∀ {s t u}, R s t → R t u → R s u
  modDie : ∀ s n f, R s (modDie s n f)
  own    : ∀ (s : State) e n, R s { s with engines := e, free := n }
  emit   : ∀ s e, R s (emit s e)
  logF   : ∀ s f, R s (logF s f)

namespace StackSteps

variable {R : State → State → Prop} (h : StackSteps R)

include h

theorem forAll {α : Type} {f : State → α → State} (hf : ∀ t x, R t (f t x)) (l : List α) (s : State) :
    R s (Machine.forAll s l f) :=
  forAll_rel R h.refl h.trans hf l s

theorem modMct (s : State) (n : Nat) (f : Mct → Mct) : R s (Machine.modMct s n f) := h.modDie s n _

theorem fresh (s : State) : R s (Machine.fresh s).2 := h.own s s.engines (s.free + 1)

theorem refreshFor (s : State) (n off len : Nat) : R s (Machine.refreshFor s n off len) := by
  unfold Machine.refreshFor
  split
  · exact h.refl s
  · exact h.modMct s n _

theorem ueEvents (s : State) (n : Nat) (liv : Byte) (bs : List Nat) : R s (Machine.ueEvents s n liv bs) :=
  h.forAll (fun t _ => h.trans (h.modMct t n _) (h.logF _ _)) bs s

theorem ceEvents (s : State) (n : Nat) (bs : List Nat) : R s (Machine.forAll s bs (fun s b => ceEvent s n b)) :=
  h.forAll (fun t _ => h.modMct t n _) bs s

theorem partRead (s : State) (n : Nat) (p : MctPort) (liv : Byte) (off len : Nat) : R s (Machine.partRead s n p liv off len).2 :=
  h.trans (h.trans (h.forAll (fun t b => h.refreshFor t n (32 * b) 32) (partBursts off len) s) (h.ceEvents _ n _)) (h.ueEvents _ n liv _)

theorem hbmGet (s : State) (n : Nat) (p : MctPort) (liv : Byte) (off len : Nat) : R s (Machine.hbmGet s n p liv off len).2 := by
  have hc := h.trans (h.refreshFor s n off len) (h.ceEvents _ n (foundFor (mct (Machine.refreshFor s n off len) n) p liv .ce off len))
  unfold Machine.hbmGet correct
  dsimp only
  split
  · dsimp only
    split
    · exact h.trans hc (h.fresh _)
    · exact hc
  · exact h.trans hc (h.ueEvents _ n liv _)

theorem land (s : State) (n : Nat) (w : PendWrite) : R s (Machine.land s n w) := by
  unfold Machine.land
  dsimp only
  split
  · exact h.trans (h.modDie s n _) (h.fresh _)
  · exact h.modDie s n _

theorem ackDrained (s : State) (compat : Bool) (w : PendWrite) : R s (Machine.ackDrained s compat w) := by
  unfold Machine.ackDrained
  split
  · exact h.emit s _
  · exact h.refl s

theorem drainAt (s : State) (n idx : Nat) : R s (Machine.drainAt s n idx) := by
  unfold Machine.drainAt
  split
  · exact h.refl s
  · exact h.trans (h.trans (h.trans (h.refreshFor s n _ _) (h.modMct _ n _)) (h.land _ n _)) (h.ackDrained _ _ _)

theorem drainAll (s : State) (n : Nat) : R s (Machine.drainAll s n) := by
  obtain ⟨e, k, hf⟩ := finishStores_eq (Machine.forAll s (mct s n).writes (fun s _ => Machine.drainAt s n 0))
  rw [Machine.drainAll, hf]
  exact h.trans (h.forAll (fun t _ => h.drainAt t n 0) _ s) (h.own _ e k)

theorem hbmSet (s : State) (n : Nat) (liv : Byte) (off : Nat) (data : List Byte) : R s (Machine.hbmSet s n liv off data) := by
  have hp := h.trans (h.refreshFor s n off data.length) (h.partRead _ n .spine liv off data.length)
  unfold Machine.hbmSet hbmPut
  generalize Machine.partRead (Machine.refreshFor s n off data.length) n .spine liv off data.length = x at hp
  obtain ⟨_ | _, t⟩ := x
  · refine h.trans hp (h.trans ?_ (h.land _ n _))
    split
    · exact h.drainAll t n
    · exact h.refl t
  · exact hp

theorem putCopy (s : State) (n q : Nat) (bs : List Byte) : R s (Machine.putCopy s n q bs) := by
  unfold Machine.putCopy
  split
  · split
    · exact h.hbmSet s n _ _ bs
    · exact h.refl s
  · exact h.refl s

theorem readCopy (s : State) (n q : Nat) : R s (Machine.readCopy s n q).2 := by
  unfold Machine.readCopy
  split
  · exact h.refl s
  · split
    · exact h.refl s
    · exact h.hbmGet s n .spine 0x02 _ 32

end StackSteps

/-- A relation that stands through the steps of which all work at the queue contexts is made. -/
structure TableSteps (R : State → State → Prop) : Prop extends StackSteps R where
  queues : ∀ (s : State) b, R s { s with qmg := { s.qmg with queues := b } }

namespace TableSteps

variable {R : State → State → Prop} (h : TableSteps R)

include h

theorem setQueue (s : State) (q : Nat) (c : QueueCtx) : R s (Machine.setQueue s q c) :=
  h.trans (h.trans (h.queues s _) (h.putCopy _ _ q _)) (h.putCopy _ _ q _)

theorem syncQueue (s : State) (q : Nat) : R s (Machine.syncQueue s q) := by
  have hb := h.trans (h.readCopy s s.qmg.primary q) (h.readCopy _ s.qmg.mirror q)
  unfold Machine.syncQueue
  split
  · exact h.refl s
  · dsimp only
    split
    · split
      · exact hb
      · exact h.trans hb (h.setQueue _ q _)
    · exact h.trans hb (h.setQueue _ q _)
    · exact h.trans hb (h.setQueue _ q _)
    · exact h.trans (h.trans hb (h.setQueue _ q _)) (h.logF _ _)

theorem modQueue (s : State) (q : Nat) (f : QueueCtx → QueueCtx) : R s (Machine.modQueue s q f) :=
  h.trans (h.syncQueue s q) (h.setQueue _ q _)

theorem modEng (s : State) (g : Nat) (f : Engine → Engine) : R s (Machine.modEng s g f) := h.own s _ s.free

theorem bindEng (s : State) (g : EngId) (q : Nat) : R s (Machine.bindEng s g q) :=
  h.trans (h.trans (h.syncQueue s q) (h.modEng _ g _)) (h.setQueue _ q _)

theorem unbindEng (s : State) (g : Nat) : R s (Machine.unbindEng s g) := by
  unfold Machine.unbindEng
  dsimp only
  split
  · split
    · exact h.trans (h.trans (h.modEng s g _) (h.syncQueue _ _)) (h.modQueue _ _ _)
    · exact h.trans (h.modEng s g _) (h.syncQueue _ _)
  · exact h.refl s

end TableSteps

/-- The host port stands, but for its alert on faults (R106). -/
def PortStands (s t : State) : Prop := t.hpt = { s.hpt with aFault := t.hpt.aFault }

theorem PortStands.of_eq {s t : State} (h : t.hpt = s.hpt) : PortStands s t := by
  rw [PortStands, h]

theorem PortStands.trans {s t u : State} (h : PortStands s t) (k : PortStands t u) : PortStands s u :=
  Eq.trans k (by rw [h])

theorem portStands_logF (s : State) (f : Fact) : PortStands s (logF s f) := by
  obtain ⟨n, x, y, h | h⟩ := logF_eq s f
  · rw [h]
    rfl
  · rw [PortStands, h, setHpt_hpt]

theorem portStands_table : TableSteps PortStands where
  refl _ := rfl
  trans := .trans
  modDie _ _ _ := rfl
  own _ _ _ := rfl
  emit _ _ := rfl
  logF := portStands_logF
  queues _ _ := rfl

/-- What a deferred work draws is the same whether the port's alert was raised before or not. -/
theorem drew_of_portStands {s u t : State} {w : DefKind} {st : Byte} {data : List Word} (hd : u.dis = s.dis) (hp : PortStands s u)
    (h : drew u t w st data) : drew s t w st data := by
  unfold drew Safety.replied at h ⊢
  rw [← hd]
  rw [hp] at h
  exact h

end Sys2Proof.Proofs

/-! What packets and replies leave of the device (03 R112-R126): all but the ports and the work of the dispatcher. -/

namespace Sys2Proof.Proofs

open Sys2Proof.Machine Sys2Proof.Safety Sys2Proof.Laws

/-- The device without its ports, what leaves it and the work of the dispatcher. -/
def offPorts (s : State) : State := { s with hpt := {}, mgtA := {}, mgtB := {}, out := [], dis := {} }

theorem qmg_of_offPorts {s t : State} (h : offPorts t = offPorts s) : t.qmg = s.qmg := (congrArg State.qmg h :)

theorem engines_of_offPorts {s t : State} (h : offPorts t = offPorts s) : t.engines = s.engines := (congrArg State.engines h :)

theorem offPorts_setWaiting (s : State) (p : Port) (l : List Pkt) : offPorts (setWaiting s p l) = offPorts s := by
  rcases p with _ | _ | _ <;> rfl

theorem offPorts_reply (s : State) (k : Pkt) (st : Byte) (data : List Word) : offPorts (reply s k st data) = offPorts s := by
  cases hp : k.port with
  | host =>
    rw [reply_host _ _ _ _ hp]
    rcases setHpt_eq s { s.hpt with
      fifo := s.hpt.fifo ++ [replyWords k s.hpt.replies.toNat st data], replies := s.hpt.replies + 1 } with h | h <;> rw [h] <;> rfl
  | mgt i =>
    rw [reply_mgt _ _ _ _ i hp]
    cases i <;> rfl

theorem offPorts_flush (s : State) (p : Port) : offPorts (flush s p) = offPorts s := by
  refine forAll_proj offPorts (fun t k => ?_) _ s
  unfold flushOne
  split
  · split
    · rfl
    · exact (offPorts_reply _ _ _ _).trans (offPorts_setWaiting _ _ _)
  · rfl

theorem offPorts_turnAway (s : State) (k : Pkt) (st : Byte) (step expect idx : Nat) :
    offPorts (turnAway s k st step expect idx) = offPorts s :=
  (offPorts_flush _ _).trans (offPorts_setWaiting _ _ _)

theorem offPorts_countErr (s : State) (p : Port) (f : Hpt → Hpt) : offPorts (countErr s p f) = offPorts s := by
  unfold countErr
  split <;> rfl

theorem offPorts_setAlive (s : State) (p : Port) (c : Nat) (v : BitVec 8) : offPorts (setAlive s p c v) = offPorts s := by
  rcases p with _ | _ | _ <;> rfl

theorem offPorts_arrive (s : State) (p : Port) (bs : List Byte) : offPorts (arrive s p bs) = offPorts s := by
  unfold arrive
  dsimp only
  split
  · exact offPorts_turnAway ..
  · split
    · exact (offPorts_turnAway ..).trans (offPorts_countErr ..)
    · split
      · exact offPorts_turnAway ..
      · split
        · exact offPorts_setWaiting ..
        · split
          · exact (offPorts_setWaiting ..).trans (offPorts_setAlive ..)
          · exact (offPorts_turnAway ..).trans (offPorts_countErr ..)

theorem offPorts_intakeList : ∀ (l : List (List Byte)) (s : State), offPorts (intakeList s l) = offPorts s
  | [], _ => rfl
  | b :: r, s => by
    unfold intakeList
    dsimp only
    split
    · exact (offPorts_intakeList r _).trans (offPorts_arrive ..)
    · rfl

theorem offPorts_intake (s : State) : offPorts (intake s) = offPorts s := by
  unfold intake
  split
  · rfl
  · exact offPorts_intakeList _ s

theorem offPorts_completeDefers (s : State) (w : DefKind) (st : Byte) (data : List Word) :
    offPorts (completeDefers s w st data) = offPorts s := by
  have hd : offPorts (drawn s w st data) = offPorts s :=
    (forAll_proj offPorts (fun (t : State) (d : Deferred) => offPorts_reply t d.pkt st data) _ _).trans rfl
  rw [completeDefers_eq]
  split
  · exact (offPorts_intake _).trans hd
  · exact hd

end Sys2Proof.Proofs

/-! Queue contexts, one beside the others; the doorbell and the table mirror (10 R368-R372, R396). -/

namespace Sys2Proof.Proofs

open Sys2Proof.Machine Sys2Proof.Safety Sys2Proof.Laws

theorem queue_of_qmg {s t : State} (h : t.qmg = s.qmg) (q : Nat) : queue t q = queue s q := by
  rw [queue, h, queue]

theorem ctxs_of_offTable {s t : State} (h : offTable t = offTable s) : t.qmg.ctxs = s.qmg.ctxs :=
  (congrArg (fun u => u.qmg.ctxs) h :)

theorem qmg_of_offStack {s t : State} (h : offStack t = offStack s) : t.qmg = s.qmg := (congrArg State.qmg h :)

theorem putCopy_qmg (s : State) (n q : Nat) (bs : List Byte) : (putCopy s n q bs).qmg = s.qmg := by
  unfold putCopy
  split
  · split
    · exact qmg_of_offStack (stackWork_hbmSet s n _ _ bs).rest
    · rfl
  · rfl

theorem readCopy_qmg (s : State) (n q : Nat) : (readCopy s n q).2.qmg = s.qmg := by
  unfold readCopy
  split
  · rfl
  · split
    · rfl
    · dsimp only
      exact qmg_of_offStack (stackRead_hbmGet s n _ _ _ _).rest

theorem queue_setQueue_ne (s : State) {q j : Nat} (c : QueueCtx) (h : j ≠ q) : queue (setQueue s q c) j = queue s j := by
  unfold setQueue
  rw [queue_of_qmg (putCopy_qmg ..), queue_of_qmg (putCopy_qmg ..)]
  exact bankGet_bankSet_ne _ _ _ h

theorem queue_syncQueue_ne (s : State) {q j : Nat} (h : j ≠ q) : queue (syncQueue s q) j = queue s j := by
  have hb : queue (readCopy (readCopy s s.qmg.primary q).2 s.qmg.mirror q).2 j = queue s j := by
    rw [queue_of_qmg (readCopy_qmg ..), queue_of_qmg (readCopy_qmg ..)]
  have hs (c : QueueCtx) := (queue_setQueue_ne (readCopy (readCopy s s.qmg.primary q).2 s.qmg.mirror q).2 c h).trans hb
  unfold syncQueue
  split
  · rfl
  · dsimp only
    split
    · split
      · exact hb
      · exact hs _
    · exact hs _
    · exact hs _
    · exact (queue_of_qmg (logF_qmg _ _) j).trans (hs _)

theorem queue_modQueue_ne (s : State) {q j : Nat} (f : QueueCtx → QueueCtx) (h : j ≠ q) : queue (modQueue s q f) j = queue s j :=
  (queue_setQueue_ne _ _ h).trans (queue_syncQueue_ne s h)

theorem queue_modQueue (s : State) (q : Nat) (f : QueueCtx → QueueCtx) : queue (modQueue s q f) q = f (queue (syncQueue s q) q) :=
  queue_setQueue _ q _

/-- Without an active timetable there is no table to read (R368). -/
theorem syncQueue_inactive {s : State} (h : s.tt.active = none) (q : Nat) : syncQueue s q = s := by
  unfold syncQueue
  rw [h]
  rfl

theorem idle_modQueue (s : State) (q : Nat) (f : QueueCtx → QueueCtx) : IdleKept s (modQueue s q f) :=
  (idle_syncQueue s q).trans (idle_setQueue _ q _)

/-! The doorbell (R372). -/

theorem doorbell_allowed {s : State} {livery : Byte} {tail : Word} (h : livery = 0x01 ∨ islandLivery livery = true) :
    exec (.doorbell livery tail) s = .next (ringBell s (fld s.qmg.dbq 19 0) tail) := by
  have hb : (livery == 0x01 || islandLivery livery) = true := by simpa using h
  show execDoorbell livery tail s = _
  rw [execDoorbell, if_pos hb]

theorem doorbell_refused {s : State} {livery : Byte} {tail : Word} (h1 : livery ≠ 0x01) (hi : islandLivery livery = false) :
    exec (.doorbell livery tail) s = .next (emit (fwRefuse s (.iod 3) livery 0x034 .write) (.fabric livery stFirewall [])) := by
  show execDoorbell livery tail s = _
  rw [execDoorbell, if_neg (by rw [hi, Bool.or_false, beq_iff_eq]; exact h1)]

/-- A good doorbell moves the tail and notes the stage. -/
theorem ringBell_good {s : State} {q : Nat} {tail : Word} (h : badBell (queue (syncQueue s q) q) tail = false) :
    ringBell s q tail = setQueue (syncQueue s q) q
      { queue (syncQueue s q) q with tail := tail, stage := toW (s.stg.stage % 2 ^ 32) } := by
  unfold ringBell
  dsimp only
  rw [if_neg (by simp [h]), (timer_syncQueue s q).1]

/-- A bad one counts, and leaves the queues as they have been read. -/
theorem ringBell_bad {s : State} {q : Nat} {tail : Word} (h : badBell (queue (syncQueue s q) q) tail = true) :
    (ringBell s q tail).qmg = { (syncQueue s q).qmg with dberr := true } := by
  unfold ringBell
  dsimp only
  rw [if_pos h, logF_qmg]

/-! The table mirror (R396). -/

theorem writeTable_qmg (s : State) (n : Nat) : (writeTable s n).qmg = s.qmg :=
  forAll_proj State.qmg (fun t (e : Nat × QueueCtx) => putCopy_qmg t n e.1 (wordsBytes (queueWords e.2))) s.qmg.queues s

theorem writeTable_stg (s : State) (n : Nat) : (writeTable s n).stg = s.stg :=
  forAll_stg (fun t (e : Nat × QueueCtx) => (TimerKept.of_offTable (offTable_putCopy t n e.1 (wordsBytes (queueWords e.2)))).1)
    s.qmg.queues s

theorem idle_writeTable (s : State) (n : Nat) : IdleKept s (writeTable s n) :=
  forAll_rel IdleKept .refl .trans
    (fun t (e : Nat × QueueCtx) => idle_putCopy t n e.1 (wordsBytes (queueWords e.2))) s.qmg.queues s

/-- The device with the new mirror in charge, before its copy is written. -/
def mirrored (s : State) (n : Nat) : State := { s with qmg := { s.qmg with mirror := n, mirrorNew := none, mirrorRun := false } }

theorem tableMirrorEnd_eq {s : State} {n : Nat} (h : s.qmg.mirrorNew = some n) :
    exec .tableMirrorEnd s = .next (writeTable (mirrored s n) n) := by
  show execTableMirrorEnd s = _
  rw [execTableMirrorEnd, h]
  rfl

/-- Settles O19: the doorbell by its livery and by what the queue allows, the mirror by the copies it writes. -/
theorem doorbells : Obligations.Doorbells := by
  refine ⟨fun s livery tail hl hb => ⟨_, doorbell_allowed hl, ?_⟩, fun s livery tail hl hb => ⟨_, doorbell_allowed hl, ?_⟩,
    fun s livery tail h1 hi => ⟨_, doorbell_refused h1 hi, ?_⟩, fun s n hn => ⟨_, tableMirrorEnd_eq hn, ?_⟩⟩
  · rw [ringBell_good hb]
    exact ⟨queue_setQueue _ _ _, ((timer_syncQueue s _).trans (timer_setQueue _ _ _)).1,
      fun hw => ((idle_syncQueue s _).trans (idle_setQueue _ _ _) hw).2⟩
  · rw [ringBell_bad hb]
    exact ⟨rfl, rfl⟩
  · obtain ⟨hd, he, -, hq, -⟩ := blocksKept_fwRefuse s (.iod 3) livery 0x034 .write
    exact ⟨hq, he, hd, _, rfl⟩
  · exact ⟨writeTable_qmg _ n, writeTable_stg _ n, fun hw => (idle_writeTable (mirrored s n) n hw).2⟩

end Sys2Proof.Proofs

/-! Pre-emption and resume (10 R382-R384). -/

namespace Sys2Proof.Proofs

open Sys2Proof.Machine Sys2Proof.Safety Sys2Proof.Laws

/-! Replies and deferred replies of a packet that waits alone. -/

/-- Once the reply of a packet that waits alone has left, nothing is behind it (R123, R124). -/
theorem answered_alone {s u : State} {k : Pkt} (h : Alone s .host k) (hu : PortStands s u) (st : Byte) (data : List Word) :
    answered .host k st data (setWaiting u .host []) = reply (setWaiting u .host []) k st data := by
  have hi : u.hpt.inbound = [] := by
    rw [hu]
    exact h.free
  refine afterPkt_empty ?_ ?_ <;> rw [reply_host _ _ _ _ h.port]
  · simp [Machine.waiting, setWaiting]
  · simp [setWaiting, hi]

/-- Its reply is the last in the reply FIFO. -/
theorem replied_alone {s u : State} {k : Pkt} (h : Alone s .host k) (hu : PortStands s u) (st : Byte) (data : List Word) :
    Safety.replied s (answered .host k st data (setWaiting u .host [])) k st data := by
  have hf : u.hpt.fifo = s.hpt.fifo ∧ u.hpt.replies = s.hpt.replies := by
    rw [hu]
    exact ⟨rfl, rfl⟩
  refine ⟨[], ?_, fun _ _ => rfl⟩
  rw [answered_alone h hu, reply_host _ _ _ _ h.port, setHpt_hpt]
  simp [setWaiting, hf]

/-- What is not a port's stands. -/
theorem offPorts_answered {s u : State} {k : Pkt} (h : Alone s .host k) (hu : PortStands s u) (st : Byte) (data : List Word) :
    offPorts (answered .host k st data (setWaiting u .host [])) = offPorts u := by
  rw [answered_alone h hu]
  exact (offPorts_reply _ _ _ _).trans (offPorts_setWaiting _ _ _)

/-- A packet that waits alone and whose reply is deferred leaves nothing to check or to answer. -/
theorem deferred_alone {s u : State} {k : Pkt} (h : Alone s .host k) (hu : u.hpt = s.hpt) (w : DefKind) :
    deferred .host k w (setWaiting u .host []) =
      setDis (setWaiting u .host []) (fun d => { d with defers := d.defers ++ [{ pkt := k, what := w }] }) :=
  afterPkt_empty rfl ((congrArg Hpt.inbound hu).trans h.free)

/-! The queues and objects of a context get or lose held (R383, R384, R416). -/

/-- One queue gets or loses held. -/
def holdQueue (h : Bool) (s : State) (q : Nat) : State :=
  if (queue s q).st = 0 then s else modQueue s q (fun k => { k with held := h })

theorem holdQueues_eq (s : State) (c : Nat) (h : Bool) : holdQueues s c h = forAll s (ctxQueues s c) (holdQueue h) := rfl

theorem TableSteps.holdQueue {R : State → State → Prop} (hr : TableSteps R) (h : Bool) (s : State) (q : Nat) :
    R s (Proofs.holdQueue h s q) := by
  unfold Proofs.holdQueue
  split
  · exact hr.refl s
  · exact hr.modQueue s q _

theorem offTable_holdQueue (h : Bool) (s : State) (q : Nat) : offTable (holdQueue h s q) = offTable s := by
  unfold holdQueue
  split
  · rfl
  · exact offTable_modQueue s q _

theorem idle_holdQueue (h : Bool) (s : State) (q : Nat) : IdleKept s (holdQueue h s q) := by
  unfold holdQueue
  split
  · exact .refl s
  · exact idle_modQueue s q _

theorem queue_holdQueue_ne (h : Bool) (s : State) {q j : Nat} (hj : j ≠ q) : queue (holdQueue h s q) j = queue s j := by
  unfold holdQueue
  split
  · rfl
  · exact queue_modQueue_ne s _ hj

/-- A queue in use is held, or no longer; as it is read, it changes in nothing else. -/
def Held (h : Bool) (s t : State) (q : Nat) : Prop :=
  (queue t q).held = h ∧ (s.tt.active = none → queue t q = { queue s q with held := h })

theorem held_holdQueue (h : Bool) {s : State} {q : Nat} (hq : (queue s q).st ≠ 0) : Held h s (holdQueue h s q) q := by
  rw [holdQueue, if_neg hq, Held, queue_modQueue]
  exact ⟨rfl, fun ha => by rw [syncQueue_inactive ha]⟩

theorem forAll_cons {α : Type} (s : State) (x : α) (l : List α) (f : State → α → State) :
    forAll s (x :: l) f = forAll (f s x) l f := rfl

theorem queue_forAll_holdQueue (h : Bool) {q : Nat} {l : List Nat} (hq : q ∉ l) (s : State) :
    queue (forAll s l (holdQueue h)) q = queue s q := by
  induction l generalizing s with
  | nil => rfl
  | cons x l ih =>
    rw [List.mem_cons, not_or] at hq
    rw [forAll_cons, ih hq.2, queue_holdQueue_ne h s hq.1]

/-- Each of several queues is held by its own step, and the others leave it. -/
theorem held_forAll (h : Bool) {q : Nat} {l : List Nat} (hn : l.Nodup) (hm : q ∈ l) {s : State} (hq : (queue s q).st ≠ 0) :
    Held h s (forAll s l (holdQueue h)) q := by
  induction l generalizing s with
  | nil => cases hm
  | cons x l ih =>
    obtain ⟨hx, hl⟩ := List.nodup_cons.1 hn
    rw [forAll_cons]
    by_cases he : q = x
    · subst he
      rw [Held, queue_forAll_holdQueue h hx]
      exact held_holdQueue h hq
    · have ht : (holdQueue h s x).tt = s.tt := (TimerKept.of_offTable (offTable_holdQueue h s x)).2
      have hk := queue_holdQueue_ne h s he
      have hs := ih hl ((List.mem_cons.1 hm).resolve_left he) (s := holdQueue h s x) (by rwa [hk])
      rwa [Held, ht, hk] at hs

theorem ctxQueues_nodup (s : State) (c : Nat) : (ctxQueues s c).Nodup :=
  List.nodup_range.map (fun _ _ h => Nat.add_left_cancel h)

theorem offTable_holdQueues (s : State) (c : Nat) (h : Bool) : offTable (holdQueues s c h) = offTable s :=
  forAll_proj offTable (offTable_holdQueue h) _ s

/-- The state in which a context's record has changed and its queues and objects get or lose held. -/
def holdCtx (s : State) (c : Nat) (f : CtxRec → CtxRec) (h : Bool) : State :=
  holdObjs (holdQueues (modCtx s c f) c h) c h

section

variable (s : State) (c : Nat) (f : CtxRec → CtxRec) (h : Bool)

theorem ctxRec_modCtx : ctxRec (modCtx s c f) c = f (ctxRec s c) := bankGet_bankSet_self _ _ _ _

theorem holdCtx_ctxRec : ctxRec (holdCtx s c f h) c = f (ctxRec s c) := by
  have hq : (holdCtx s c f h).qmg.ctxs = (modCtx s c f).qmg.ctxs :=
    (ctxs_of_offTable (offTable_holdQueues (modCtx s c f) c h) :)
  rw [ctxRec, hq]
  exact ctxRec_modCtx s c f

theorem holdCtx_dis : (holdCtx s c f h).dis = s.dis :=
  (congrArg State.dis (offTable_holdQueues (modCtx s c f) c h) :)

theorem portStands_holdCtx : PortStands s (holdCtx s c f h) :=
  portStands_table.forAll (portStands_table.holdQueue h) (ctxQueues (modCtx s c f) c) (modCtx s c f)

theorem idle_holdCtx : IdleKept s (holdCtx s c f h) :=
  forAll_rel IdleKept .refl .trans (idle_holdQueue h) (ctxQueues (modCtx s c f) c) (modCtx s c f)

variable {s c f}

/-- The queues of the context are held, or no longer. -/
theorem held_holdCtx (hb : (f (ctxRec s c)).qbase = (ctxRec s c).qbase) (hc : (f (ctxRec s c)).qcount = (ctxRec s c).qcount) {q : Nat}
    (hm : q ∈ ctxQueues s c) (hq : (queue s q).st ≠ 0) : Held h s (holdCtx s c f h) q := by
  have hl : ctxQueues (modCtx s c f) c = ctxQueues s c := by
    simp only [ctxQueues, ctxRec_modCtx, hb, hc]
  have hk := held_forAll h (ctxQueues_nodup s c) hm (s := modCtx s c f) hq
  rw [← hl, ← holdQueues_eq] at hk
  exact hk

end

/-! CTX_PREEMPT and its end (R382, R383). -/

@[simp] theorem modCtx_setWaiting (s : State) (p : Port) (l : List Pkt) (c : Nat) (f : CtxRec → CtxRec) :
    modCtx (setWaiting s p l) c f = setWaiting (modCtx s c f) p l := by
  rcases p with _ | _ | _ <;> rfl

@[simp] theorem ctxRec_setWaiting (s : State) (p : Port) (l : List Pkt) (c : Nat) : ctxRec (setWaiting s p l) c = ctxRec s c := by
  rw [ctxRec, setWaiting_qmg, ctxRec]

/-- The context of a packet is one of the 64. -/
theorem pktCtx_fin (k : Pkt) : (fin (by decide) (pktCtx k) : CtxId).val = pktCtx k :=
  Nat.mod_eq_of_lt (Nat.mod_lt _ (by decide))

theorem ctxPreempt_defers {s : State} {k : Pkt} (h : Ready s .host 2 3 0 k) (h0 : pktCtx k ≠ 0) (hp : (ctxRec s (pktCtx k)).pre = false) :
    exec (.ctxPreempt .host) s = .next (deferred .host k (.preempt (fin (by decide) (pktCtx k)))
      (modCtx (took s .host k) (fin (by decide) (pktCtx k) : CtxId) (fun r => { r with ppend := true }))) := by
  rw [took_alone h.alone, modCtx_setWaiting]
  refine onPort_defers h (ofRow_ready h rfl rfl rfl) (gate_ready h (by simp [rowCtxPreempt, opDef, fixedRow, h.len]) rfl) (fun l => ?_)
  simp only [rowCtxPreempt, opDef, ctxRec_setWaiting, pktCtx_fin, modCtx_setWaiting]
  rw [if_neg h0, if_neg (by simp [hp])]

/-- A context whose engines all stand at their mileposts is pre-empted. -/
theorem preemptComplete_eq {s : State} {c : CtxId} (hp : (ctxRec s c).ppend = true)
    (hg : ∀ g ∈ ctxEngines s c, atMilepost (eng s g) = true ∧ pendingRebind s g = false) : exec (.preemptComplete c) s =
    .next (completeDefers (holdCtx s c (fun r => { r with pre := true, ppend := false }) true) (.preempt c) stOk
      [toW (ctxEngines s c).length]) := by
  have hall : (ctxEngines s c).all (fun g => atMilepost (eng s g) && !pendingRebind s g) = true :=
    List.all_eq_true.2 (fun g hm => by rw [(hg g hm).1, (hg g hm).2]; rfl)
  show execPreemptComplete c s = _
  unfold execPreemptComplete
  dsimp only
  rw [hp, hall]
  rfl

theorem preemptComplete_reads {s : State} {c : CtxId} (hp : (ctxRec s c).ppend = true)
    (hg : ∀ g ∈ ctxEngines s c, atMilepost (eng s g) = true ∧ pendingRebind s g = false) :
    ∃ t, exec (.preemptComplete c) s = .next t ∧ (ctxRec t c).pre = true ∧ (ctxRec t c).ppend = false ∧
      drew s t (.preempt c) stOk [toW (ctxEngines s c).length] ∧ (∀ q ∈ ctxQueues s c, (queue s q).st ≠ 0 → Held true s t q) ∧
      ((∀ n : DieId, (mct s n).writes = []) → t.engines = s.engines) := by
  refine ⟨_, preemptComplete_eq hp hg, ?_⟩
  have ho := offPorts_completeDefers (holdCtx s c (fun r => { r with pre := true, ppend := false }) true) (.preempt c) stOk
    [toW (ctxEngines s c).length]
  have hq := qmg_of_offPorts ho
  have hc := holdCtx_ctxRec s c (fun r => { r with pre := true, ppend := false }) true
  rw [ctxRec, ← hq] at hc
  refine ⟨(congrArg CtxRec.pre hc :), (congrArg CtxRec.ppend hc :),
    drew_of_portStands (holdCtx_dis ..) (portStands_holdCtx ..) (drew_completeDefers _ _ _ _), fun q hm hs => ?_, fun hw => ?_⟩
  · rw [Held, queue_of_qmg hq]
    exact held_holdCtx true rfl rfl hm hs
  · exact (engines_of_offPorts ho).trans (idle_holdCtx s c _ true hw).2

/-! CTX_RESUME (R384). -/

theorem modQueue_setWaiting (s : State) (p : Port) (l : List Pkt) (q : Nat) (f : QueueCtx → QueueCtx) :
    modQueue (setWaiting s p l) q f = setWaiting (modQueue s q f) p l := by
  simp only [modQueue, syncQueue_setWaiting, queue_setWaiting, setQueue_setWaiting]

theorem holdQueue_setWaiting (h : Bool) (s : State) (p : Port) (l : List Pkt) (q : Nat) :
    holdQueue h (setWaiting s p l) q = setWaiting (holdQueue h s q) p l := by
  unfold holdQueue
  rw [queue_setWaiting, modQueue_setWaiting]
  split <;> rfl

theorem holdObjs_setWaiting (s : State) (p : Port) (l : List Pkt) (c : Nat) (h : Bool) :
    holdObjs (setWaiting s p l) c h = setWaiting (holdObjs s c h) p l := by
  rcases p with _ | _ | _ <;> rfl

theorem holdCtx_setWaiting (s : State) (p : Port) (l : List Pkt) (c : Nat) (f : CtxRec → CtxRec) (h : Bool) :
    holdCtx (setWaiting s p l) c f h = setWaiting (holdCtx s c f h) p l := by
  have hq : ctxQueues (setWaiting (modCtx s c f) p l) c = ctxQueues (modCtx s c f) c := by
    simp only [ctxQueues, ctxRec_setWaiting]
  unfold holdCtx
  rw [modCtx_setWaiting, holdQueues_eq, hq, forAll_setWaiting p l _ (fun t q => holdQueue_setWaiting h t p l q), holdObjs_setWaiting,
    holdQueues_eq]

theorem ctxResume_answers {s : State} {k : Pkt} (h : Ready s .host 2 4 0 k) (hp : (ctxRec s (pktCtx k)).pre = true)
    (hr : s.qmg.rebinds = []) : exec (.ctxResume .host) s = .next (answered .host k stOk []
      (setWaiting (holdCtx s (pktCtx k) (fun r => { r with pre := false }) false) .host [])) := by
  refine onPort_answers h (ofRow_ready h rfl rfl rfl) (by simp [rowCtxResume, opDef, fixedRow, h.len]) rfl (fun l => ?_)
  rw [← holdCtx_setWaiting]
  simp only [rowCtxResume, opDef, ctxRec_setWaiting, setWaiting_qmg, hr, hp]
  rfl

theorem ctxResume_reads {s : State} {k : Pkt} (h : Ready s .host 2 4 0 k) (hp : (ctxRec s (pktCtx k)).pre = true)
    (hr : s.qmg.rebinds = []) : ∃ t, exec (.ctxResume .host) s = .next t ∧ (ctxRec t (pktCtx k)).pre = false ∧
      Safety.replied s t k stOk [] ∧ (∀ q ∈ ctxQueues s (pktCtx k), (queue s q).st ≠ 0 → Held false s t q) ∧
      ((∀ n : DieId, (mct s n).writes = []) → t.engines = s.engines) := by
  refine ⟨_, ctxResume_answers h hp hr, ?_⟩
  have hu := portStands_holdCtx s (pktCtx k) (fun r => { r with pre := false }) false
  have ho := offPorts_answered h.alone hu stOk []
  have hq := qmg_of_offPorts ho
  have hc := holdCtx_ctxRec s (pktCtx k) (fun r => { r with pre := false }) false
  rw [ctxRec, ← hq] at hc
  refine ⟨(congrArg CtxRec.pre hc :), replied_alone h.alone hu stOk [], fun q hm hs => ?_, fun hw => ?_⟩
  · rw [Held, queue_of_qmg hq]
    exact held_holdCtx false rfl rfl hm hs
  · exact (engines_of_offPorts ho).trans (idle_holdCtx s (pktCtx k) _ false hw).2

end Sys2Proof.Proofs

/-! Re-binding (10 R385-R387, Table 10-4). -/

namespace Sys2Proof.Proofs

open Sys2Proof.Machine Sys2Proof.Safety Sys2Proof.Laws

/-! CTX_REBIND (R385-R387). -/

/-- The engine, the target context and the hold flag of a CTX_REBIND. -/
def rebindEng (k : Pkt) : EngId := fin (by decide) (fld (par k 0) 22 16)
def rebindCtx (k : Pkt) : Nat := fld (par k 0) 5 0

/-- Step 10 of a CTX_REBIND: its reserved bits are 0, its engine serves the packet's context, its target is queue `q` of a context. -/
structure RebindWellFormed (s : State) (k : Pkt) (q : Nat) : Prop where
  res    : fld (par k 0) 31 28 = 0 ∧ fld (par k 0) 26 23 = 0 ∧ fld (par k 0) 15 6 = 0
  eng    : fld (par k 0) 22 16 ≤ 95
  ctx    : rebindCtx k ≠ 0 ∧ ctxExists s (rebindCtx k) = true
  served : servedCtx s (rebindEng k) = some (pktCtx k)
  res1   : fld (par k 1) 31 16 = 0
  queue  : globalQueue s (rebindCtx k) (fld (par k 1) 15 0) = some q

/-- Step 11: the engine is in service with no other re-binding about, and the target context is not pre-empted. -/
structure RebindFree (s : State) (k : Pkt) : Prop where
  inSvc : engInSvc s (fld (par k 0) 22 16) = true
  place : leftOut s (rebindEng k) = false
  pre   : (ctxRec s (rebindCtx k)).pre = false
  alone : s.qmg.rebinds = []

/-- The re-binding that a CTX_REBIND asks for. -/
def askedRebind (s : State) (k : Pkt) (q : Nat) : Rebind := {
  eng := rebindEng k, src := (eng s (fld (par k 0) 22 16)).bqueue, dst := q, ctx := fin (by decide) (rebindCtx k)
  hold := tbit (par k 0) 27, done := false, atTick := s.stg.inlay }

/-- The state with one re-binding under way. -/
def withRebind (s : State) (r : Rebind) : State := { s with qmg := { s.qmg with rebinds := [r] } }

theorem ctxRebind_defers {s : State} {k : Pkt} {q : Nat} (h : Ready s .host 2 5 2 k) (hw : RebindWellFormed s k q)
    (hf : RebindFree s k) : exec (.ctxRebind .host) s =
    .next (deferred .host k (.rebind (rebindEng k)) (setWaiting (withRebind s (askedRebind s k q)) .host [])) := by
  refine onPort_defers h (ofRow_ready h rfl rfl rfl) (gate_ready h (by simp [rowCtxRebind, opDef, fixedRow, h.len]) rfl) (fun l => ?_)
  obtain ⟨h0, h1, h2⟩ := hw.res
  obtain ⟨hc, hx⟩ := hw.ctx
  have hx' : ctxExists (setWaiting s .host l) (fld (par k 0) 5 0) = true := hx
  have hs : servedCtx (setWaiting s .host l) (fin (by decide) (fld (par k 0) 22 16)) = some (pktCtx k) := hw.served
  have hq : globalQueue (setWaiting s .host l) (fld (par k 0) 5 0) (fld (par k 1) 15 0) = some q := hw.queue
  have hi : engInSvc (setWaiting s .host l) (fld (par k 0) 22 16) = true := hf.inSvc
  have ho : leftOut (setWaiting s .host l) (fin (by decide) (fld (par k 0) 22 16)) = false := hf.place
  have hp : (ctxRec s (fld (par k 0) 5 0)).pre = false := hf.pre
  have hc' : fld (par k 0) 5 0 ≠ 0 := hc
  have he : ¬ 95 < fld (par k 0) 22 16 := Nat.not_lt.2 hw.eng
  simp only [rowCtxRebind, opDef, hs, hq, setWaiting_qmg, hf.alone]
  rw [if_neg (by simp [h0, h1, h2, hc', hx', he]), if_neg (by simp), if_neg (by simp [hw.res1]), if_neg (by simp [hi, ho, hp]),
    if_neg (by simp)]
  rfl

theorem ctxRebind_reads {s : State} {k : Pkt} {q : Nat} (h : Ready s .host 2 5 2 k) (hw : RebindWellFormed s k q)
    (hf : RebindFree s k) : ∃ t, exec (.ctxRebind .host) s = .next t ∧
      t.qmg = { s.qmg with rebinds := [askedRebind s k q] } ∧
      t.dis.defers = s.dis.defers ++ [{ pkt := k, what := .rebind (rebindEng k) }] ∧ t.engines = s.engines := by
  refine ⟨_, ctxRebind_defers h hw hf, ?_⟩
  rw [deferred_alone (u := withRebind s (askedRebind s k q)) h.alone rfl]
  exact ⟨rfl, rfl, rfl⟩

/-! REBIND_MILEPOST (Table 10-4). -/

theorem others_bindEng (s : State) (g : EngId) (q : Nat) : OthersIdle g s (bindEng s g q) :=
  (((idle_syncQueue s q).others g).trans (.of_onlyEngine (onlyEngine_modEng _ g _))).trans ((idle_setQueue _ q _).others g)

theorem others_unbindEng (s : State) (g : EngId) : OthersIdle g s (unbindEng s g) := by
  have h : OthersIdle g s (syncQueue (modEng s g (fun e => { e with bound := false, bctx := 0, bqueue := 0 })) (eng s g).bqueue) :=
    (OthersIdle.of_onlyEngine (onlyEngine_modEng s g _)).trans ((idle_syncQueue _ _).others g)
  unfold unbindEng
  dsimp only
  split
  · split
    · exact h.trans ((idle_modQueue _ _ _).others g)
    · exact h
  · exact (IdleKept.refl s).others g

/-- An engine that runs nothing runs nothing once it is unbound. -/
theorem unbindEng_cur {s : State} {g : Nat} (h : (eng s g).cur = none) : (eng (unbindEng s g) g).cur = none := by
  have hm : (eng (modEng s g (fun e => { e with bound := false, bctx := 0, bqueue := 0 })) g).cur = none := by
    rw [eng_modEng_self]
    exact h
  have hs := (congrArg Engine.cur (stands_syncQueue g _ (eng s g).bqueue hm)).trans hm
  unfold unbindEng
  dsimp only
  split
  · split
    · exact (congrArg Engine.cur (stands_modQueue g _ _ _ hs)).trans hs
    · exact hs
  · exact h

/-- An engine as it is bound to a queue of a context (R171, R379). -/
def boundTo (ctx q : Nat) (e : Engine) : Engine :=
  let e := if e.served = some ctx then e else clearStores e
  { e with bound := true, bctx := ctx, bqueue := q, served := some ctx, st := if e.st = 0 then 1 else e.st }

theorem eng_bindEng {s : State} {g : EngId} (h : (eng s g).cur = none) (q : Nat) :
    eng (bindEng s g q) g = boundTo (queue (syncQueue s q) q).ctx q (eng s g) := by
  have hb : (boundTo (queue (syncQueue s q) q).ctx q (eng s g)).cur = none := by
    unfold boundTo
    dsimp only
    split <;> exact h
  have hm : eng (modEng (syncQueue s q) g (boundTo (queue (syncQueue s q) q).ctx q)) g =
      boundTo (queue (syncQueue s q) q).ctx q (eng s g) := by
    rw [eng_modEng_self, stands_syncQueue g s q h]
  exact (stands_setQueue g _ q _ ((congrArg Engine.cur hm).trans hb)).trans hm

theorem queue_bindEng (s : State) (g : EngId) (q : Nat) : queue (bindEng s g q) q =
    { queue (syncQueue s q) q with eng := g, st := if (queue (syncQueue s q) q).st = 3 then 3 else 1 } :=
  queue_setQueue _ q _

/-- An engine whose stores are clear is bound with clear stores. -/
theorem boundTo_rs {e : Engine} (h : e.rs = {}) (ctx q : Nat) : (boundTo ctx q e).rs = {} := by
  unfold boundTo
  dsimp only
  split
  · exact h
  · rfl

/-- A re-binding carried out. -/
def carried (s : State) (g : EngId) (r : Rebind) (old : Nat) : State := { s with qmg := { s.qmg with
  rebinds := s.qmg.rebinds.filter (fun x => !(x.eng == g)) ++ [{ r with src := old, done := true }] } }

/-- Steps 2-5 of Table 10-4: the engine has left its queue, with its stores clear. -/
def clearedFor (s : State) (g : EngId) (r : Rebind) : State :=
  modEng (carried (unbindEng (syncQueue s (eng s g).bqueue) g) g r (eng s g).bqueue) g clearStores

theorem rebindMilepost_eq {s : State} {g : EngId} {r : Rebind}
    (hr : s.qmg.rebinds.find? (fun r => r.eng == g && !r.done && !r.atTick) = some r) (hm : atMilepost (eng s g) = true)
    (h4 : (eng s g).st ≠ 4) (hx : inReexec s g = false) : exec (.rebindMilepost g) s =
    .next (completeDefers (bindEng (clearedFor s g r) g r.dst) (.rebind g) stOk [toW (eng s g).bqueue,
      (queue (syncQueue s (eng s g).bqueue) (eng s g).bqueue).head, (queue (syncQueue s (eng s g).bqueue) (eng s g).bqueue).tail,
      toW r.dst]) := by
  show execRebindMilepost g s = _
  unfold execRebindMilepost
  rw [hr]
  dsimp only
  rw [if_neg (by simp [hm, h4, hx])]
  rfl

section

variable (s : State) (g : EngId) (r : Rebind)

theorem portStands_clearedFor : PortStands s (clearedFor s g r) :=
  (portStands_table.trans (portStands_table.syncQueue s (eng s g).bqueue) (portStands_table.unbindEng _ g)).trans (.of_eq rfl)

theorem clearedFor_dis : (clearedFor s g r).dis = s.dis :=
  (congrArg State.dis ((offTable_unbindEng _ g).trans (offTable_syncQueue s (eng s g).bqueue)) :)

theorem others_clearedFor : OthersIdle g s (clearedFor s g r) := by
  have hc (u : State) : OthersIdle g u (carried u g r (eng s g).bqueue) := fun hw => ⟨hw, fun _ _ => rfl⟩
  exact ((((idle_syncQueue s (eng s g).bqueue).others g).trans (others_unbindEng _ g)).trans (hc _)).trans
    (.of_onlyEngine (onlyEngine_modEng _ g _))

theorem clearedFor_rs : (eng (clearedFor s g r) g).rs = {} := by
  rw [clearedFor, eng_modEng_self]
  rfl

variable {s g}

theorem clearedFor_cur (h : (eng s g).cur = none) : (eng (clearedFor s g r) g).cur = none := by
  rw [clearedFor, eng_modEng_self]
  exact unbindEng_cur (s := syncQueue s (eng s g).bqueue) (by rw [stands_syncQueue g s _ h, h])

end

theorem rebindMilepost_reads {s : State} {g : EngId} {r : Rebind}
    (hr : s.qmg.rebinds.find? (fun r => r.eng == g && !r.done && !r.atTick) = some r) (hm : atMilepost (eng s g) = true)
    (h4 : (eng s g).st ≠ 4) (hx : inReexec s g = false) : ∃ t, exec (.rebindMilepost g) s = .next t ∧
      (eng t g).bound = true ∧ (eng t g).bqueue = r.dst ∧ (eng t g).bctx = (queue t r.dst).ctx ∧ (queue t r.dst).eng = g ∧
      (eng t g).rs = {} ∧
      (∀ c, c = queue (syncQueue s (eng s g).bqueue) (eng s g).bqueue →
        drew s t (.rebind g) stOk [toW (eng s g).bqueue, c.head, c.tail, toW r.dst]) ∧
      ((∀ n : DieId, (mct s n).writes = []) → ∀ h : EngId, h ≠ g → eng t h = eng s h) := by
  refine ⟨_, rebindMilepost_eq hr hm h4 hx, ?_⟩
  have hcur : (eng s g).cur = none := by
    simp only [atMilepost, Bool.and_eq_true, Option.isNone_iff_eq_none] at hm
    exact hm.1.2
  have ho := offPorts_completeDefers (bindEng (clearedFor s g r) g r.dst) (.rebind g) stOk [toW (eng s g).bqueue,
    (queue (syncQueue s (eng s g).bqueue) (eng s g).bqueue).head, (queue (syncQueue s (eng s g).bqueue) (eng s g).bqueue).tail,
    toW r.dst]
  have hp : PortStands s (bindEng (clearedFor s g r) g r.dst) :=
    (portStands_clearedFor s g r).trans (portStands_table.bindEng _ g _)
  have hd : (bindEng (clearedFor s g r) g r.dst).dis = s.dis :=
    (congrArg State.dis (offTable_bindEng (clearedFor s g r) g r.dst) :).trans (clearedFor_dis s g r)
  rw [eng_of_engines (engines_of_offPorts ho), queue_of_qmg (qmg_of_offPorts ho), eng_bindEng (clearedFor_cur r hcur), queue_bindEng]
  refine ⟨rfl, rfl, rfl, rfl, boundTo_rs (clearedFor_rs s g r) _ _, ?_, fun hw h hg => ?_⟩
  · rintro _ rfl
    exact drew_of_portStands hd hp (drew_completeDefers _ _ _ _)
  · rw [eng_of_engines (engines_of_offPorts ho)]
    exact ((others_clearedFor s g r).trans (others_bindEng _ g _) hw).2 h hg

/-- Settles O18: each row from its own lemma, the end of a pre-emption by its queues, a re-binding by its engine. -/
theorem preemptionAndRebinding : Obligations.PreemptionAndRebinding :=
  ⟨fun _ _ h h0 hp => ctxPreempt_defers h h0 hp, fun _ _ hp hg => preemptComplete_reads hp hg,
    fun _ _ h hp hr => ctxResume_reads h hp hr,
    fun _ _ _ h h0 h1 h2 he hc hx hs hr hq hi ho hp hn =>
      ctxRebind_reads h ⟨⟨h0, h1, h2⟩, he, ⟨hc, hx⟩, hs, hr, hq⟩ ⟨hi, ho, hp, hn⟩,
    fun _ _ _ hr hm h4 hx => rebindMilepost_reads hr hm h4 hx⟩

end Sys2Proof.Proofs

/-! What a step makes of the queue's front, what reset leaves, and a write's own bytes (12; 95). -/

namespace Sys2Proof.Proofs

open Sys2Proof.Machine Sys2Proof.Safety Sys2Proof.Laws

theorem step_cons {s : State} {c : Instr} {rest : List Instr} (h : s.pending = c :: rest) :
    step s = exec c { s with pending := rest } := by
  simp [step, h]

/-- Settles O1: by the definition of a step. -/
theorem stepRunsFront : Obligations.StepRunsFront := fun _ _ _ h => step_cons h

/-- A memory of which nothing is listed is in canonical form; reset lists nothing. -/
theorem memoriesCanonical_reset : MemoriesCanonical State.reset where
  dies := by simp [State.reset]
  engines := by simp [State.reset]
  ram i := by cases i <;> rfl
  flash i := by cases i <;> rfl
  sram := ⟨rfl, rfl⟩
  field := ⟨rfl, rfl⟩
  fusion := rfl

/-- Settles O4: reset lists no byte of any memory. -/
theorem resetMemoriesCanonical : Obligations.ResetMemoriesCanonical := memoriesCanonical_reset

/-- Settles O5: each register's default is its reset value, and the banks of units are empty. -/
theorem resetRegisters : Obligations.ResetRegisters :=
  ⟨rfl, rfl, by decide, rfl, by decide, rfl, rfl, fun _ => ⟨rfl, rfl⟩, fun _ => rfl, fun _ => rfl, rfl, rfl, rfl⟩

/-- Settles O25: the bytes of a write stand in its cells, and no other cell is touched. -/
theorem readAfterWrite : Obligations.ReadAfterWrite := fun m a bs =>
  ⟨memRd_memWr m a bs, fun _ h => memByte_memWr_outside m h, fun _ h => memByte_memWr_inside m h⟩

/-! Accesses to the islands' memories (R453, R648). -/

@[simp] theorem isl_setIsl_self (s : State) (i : Isl) (x : Island) : isl (setIsl s i x) i = x := by cases i <;> rfl

theorem flashBytes_length (x : Island) (ep off len : Nat) : (flashBytes x ep off len).length = len := by
  simp [flashBytes, memRd_length]

/-- Outside the state record and the logbook the flash reads as it stands. -/
theorem flashBytes_outside (x : Island) (ep : Nat) {off len : Nat} (h : 0x60000 ≤ off ∨ off + len ≤ 0x10000) :
    flashBytes x ep off len = memRd x.flash off len := by
  unfold flashBytes
  refine List.ext_getElem (by simp) (fun i h1 h2 => ?_)
  have hi : i < len := by simpa [memRd_length] using h2
  have hn : (decide (0x10000 ≤ off + i) && decide (off + i < 0x60000)) = false := by
    rw [Bool.and_eq_false_iff, decide_eq_false_iff_not, decide_eq_false_iff_not]
    omega
  simp only [List.getElem_map, List.getElem_zipIdx, Nat.zero_add, hn, Bool.false_eq_true, if_false]

/-- The bytes of an island's memory that an access reads first. -/
def firstRead (s : State) (i : Isl) (a : Access) : List Byte :=
  if isFlash a then flashBytes (isl s i) s.free (a.addr.toNat % 0x4000000) a.len
  else memRd (isl s i).ram (a.addr.toNat % 0x4000000) a.len

theorem firstRead_length (s : State) (i : Isl) (a : Access) : (firstRead s i a).length = a.len := by
  unfold firstRead
  split
  · exact flashBytes_length ..
  · exact memRd_length ..

/-- The state in which a piece is served: the free bytes of a flash read are drawn. -/
def drawnFor (s : State) (a : Access) : State := if isFlash a then (fresh s).2 else s

@[simp] theorem isl_drawnFor (s : State) (a : Access) (i : Isl) : isl (drawnFor s a) i = isl s i := by
  unfold drawnFor
  split <;> cases i <;> rfl

@[simp] theorem out_drawnFor (s : State) (a : Access) : (drawnFor s a).out = s.out := by
  unfold drawnFor
  split <;> rfl

/-- A short read ends with its first piece. -/
theorem islandMemPiece_read {s : State} {i : Isl} {a : Access} (hp : (isl s i).pieces = [a]) (hk : a.kind = .read)
    (hd : a.data = []) (hl : a.len ≤ 32) : exec (.islandMemPiece i) s =
      .next (emit (setIsl (drawnFor s a) i { isl s i with pieces := [] }) (.fabric a.livery stOk (firstRead s i a))) := by
  have hq : pieceOf (isl s i) s.free a = (isl s i, { a with data := firstRead s i a }) := by
    simp [pieceOf, hk, hd, Nat.min_eq_right hl, firstRead]
  have hn : pieceDone { a with data := firstRead s i a } = true := by simp [pieceDone, hk, firstRead_length]
  show Host.Outcome.next (servePiece s i) = _
  unfold servePiece
  rw [hp]
  dsimp only
  rw [hq, if_pos hn, if_pos hk]
  rfl

/-- So does a short write. -/
theorem islandMemPiece_write {s : State} {i : Isl} {a : Access} (hp : (isl s i).pieces = [a]) (hk : a.kind = .write)
    (hl : a.data.length ≤ 32) : exec (.islandMemPiece i) s = .next (emit (setIsl (drawnFor s a) i { isl s i with
      ram := memWr (isl s i).ram (a.addr.toNat % 0x4000000) a.data, pieces := [] }) (.fabric a.livery stOk [])) := by
  have hq : pieceOf (isl s i) s.free a = ({ isl s i with ram := memWr (isl s i).ram (a.addr.toNat % 0x4000000) a.data },
      { a with addr := a.addr + BitVec.ofNat 48 a.data.length, data := [] }) := by
    simp [pieceOf, hk, Nat.min_eq_right hl]
  have hn : pieceDone { a with addr := a.addr + BitVec.ofNat 48 a.data.length, data := [] } = true := by simp [pieceDone, hk]
  show Host.Outcome.next (servePiece s i) = _
  unfold servePiece
  rw [hp]
  dsimp only
  rw [hq, if_pos hn, if_neg (show ¬ a.kind = .read by simp [hk])]
  rfl

/-- Settles O29: a read or a write of up to 32 bytes is served by its first piece. -/
theorem islandMemories : Obligations.IslandMemories := by
  refine ⟨fun s i a hp hk hd hl hf => ?_, fun s i a hp hk hd hl => ?_, fun s i a hp hk hl => ?_⟩
  · refine ⟨_, islandMemPiece_read hp hk hd hl, ?_, ?_, ?_⟩
    · cases i <;> rfl
    · cases i <;> rfl
    · have hb : firstRead s i a =
          memRd (if isFlash a then (isl s i).flash else (isl s i).ram) (a.addr.toNat % 0x4000000) a.len := by
        unfold firstRead
        split
        · exact flashBytes_outside _ _ (hf ‹_›)
        · rfl
      simp [emit, hb]
  · refine ⟨_, firstRead s i a, islandMemPiece_read hp hk hd hl, ?_, ?_, firstRead_length s i a, ?_⟩
    · cases i <;> rfl
    · simp [emit]
    · cases i <;> rfl
  · refine ⟨_, islandMemPiece_write hp hk hl, ?_, ?_, ?_, ?_⟩
    · cases i <;> rfl
    · cases i <;> rfl
    · cases i <;> rfl
    · simp [emit]

end Sys2Proof.Proofs

/-! What every step keeps: the commands that wait, and the canonical form of every memory (95; 12). Each function of the machine has
one rule, named after it; the rules have the shape of the function's own body. -/

namespace Sys2Proof.Proofs

open Sys2Proof.Machine Sys2Proof.Safety Sys2Proof.Laws

/-! The parts of the device that hold memories. What is said of them is said under a condition `c`: with a true one the rules speak of
the memories, with a false one of the queue of commands alone. -/

/-- A memory is canonical. -/
def MemOk (c : Prop) (m : Mem) : Prop := c → memWf m = true

/-- A memory is canonical, and what it does not list reads as zero. -/
def ZeroOk (c : Prop) (m : Mem) : Prop := c → memWf m = true ∧ m.fill = .byte 0

/-! A part's predicate is a conjunction, not a structure, so that a change of its other fields leaves it by definition. -/

def DieOk (c : Prop) (d : Die) : Prop := MemOk c d.hbm ∧ MemOk c d.pool

def EngOk (c : Prop) (e : Engine) : Prop :=
  MemOk c e.rs ∧ MemOk c e.acc0 ∧ MemOk c e.acc1 ∧ MemOk c e.wbuf0 ∧ MemOk c e.wbuf1

def IslOk (c : Prop) (x : Island) : Prop := MemOk c x.ram ∧ MemOk c x.flash

def MplOk (c : Prop) (m : Mpl) : Prop := ZeroOk c m.sram ∧ MemOk c m.buf0.occ ∧ MemOk c m.buf1.occ

def FusOk (c : Prop) (u : Fus) : Prop := MemOk c u.mem

/-- A state whose waiting commands are `q` and whose memories are canonical. -/
structure Canon (c : Prop) (q : List Instr) (s : State) : Prop where
  pending : s.pending = q
  dies    : ∀ e ∈ s.dies, DieOk c e.2
  engines : ∀ e ∈ s.engines, EngOk c e.2
  sia     : IslOk c s.sia
  sib     : IslOk c s.sib
  mpl     : MplOk c s.mpl
  fus     : FusOk c s.fus

/-- An outcome that goes on, goes on in such a state. -/
def CanonOut (c : Prop) (q : List Instr) (o : Out) : Prop := ∀ t, o = .next t → Canon c q t

/-- So does a packet's verdict. -/
def VerdictOk (c : Prop) (q : List Instr) : Verdict → Prop
  | .refuse .. => True
  | .refuseIn _ _ _ t => Canon c q t
  | .answer _ _ t => Canon c q t
  | .later _ t => Canon c q t

/-- And the rows of a list of opcodes. -/
def RowOk (c : Prop) (q : List Instr) (o : OpDef) : Prop := ∀ s k, Canon c q s → VerdictOk c q (o.run s k)

/-- And what the checks of an access come to. -/
def AdmitOk (c : Prop) (q : List Instr) : Admit → Prop
  | .refused _ t => Canon c q t
  | .spot _ t => Canon c q t

/-- And an engine's operation. -/
def EngOpOk (c : Prop) (q : List Instr) (o : EngOp) : Prop := ∀ s g ws, Canon c q s → Canon c q (o.run s g ws)

/-- What `Canon` says of a state. -/
def keptPart (s : State) : List Instr × Bank Die × Bank Engine × (Mem × Mem) × (Mem × Mem) × (Mem × Mem × Mem) × Mem :=
  (s.pending, s.dies, s.engines, (s.sia.ram, s.sia.flash), (s.sib.ram, s.sib.flash),
    (s.mpl.sram, s.mpl.buf0.occ, s.mpl.buf1.occ), s.fus.mem)

section
variable {c : Prop} {q : List Instr} {s t : State}

/-- A change of anything else keeps it. -/
theorem kept_same (h : Canon c q s) (e : keptPart t = keptPart s) : Canon c q t := by
  simp only [keptPart, Prod.mk.injEq] at e
  obtain ⟨hp, hd, he, ⟨ha, hb⟩, ⟨ha', hb'⟩, ⟨hm, h0, h1⟩, hf⟩ := e
  exact ⟨hp.trans h.pending, hd ▸ h.dies, he ▸ h.engines, ⟨ha ▸ h.sia.1, hb ▸ h.sia.2⟩, ⟨ha' ▸ h.sib.1, hb' ▸ h.sib.2⟩,
    ⟨hm ▸ h.mpl.1, h0 ▸ h.mpl.2.1, h1 ▸ h.mpl.2.2⟩, by
      unfold FusOk
      rw [hf]
      exact h.fus⟩

theorem kept_ite {p : Prop} {d : Decidable p} (hs : Canon c q s) (ht : Canon c q t) : Canon c q (if p then s else t) := by
  split
  · exact hs
  · exact ht

theorem ite_ok {α : Type} {P : α → Prop} {p : Prop} {d : Decidable p} {a b : α} (ha : P a) (hb : P b) : P (if p then a else b) := by
  split
  · exact ha
  · exact hb

theorem elim_ok {α β : Type} {P : β → Prop} {o : Option α} {b : β} {f : α → β} (hb : P b) (hf : ∀ x, P (f x)) : P (o.elim b f) := by
  cases o with
  | none => exact hb
  | some x => exact hf x

theorem kept_of_refused {x : Admit} {st : Byte} (h : AdmitOk c q x) (e : x = .refused st s) : Canon c q s := by
  subst e
  exact h

theorem kept_of_spot {x : Admit} {p : Spot} (h : AdmitOk c q x) (e : x = .spot p s) : Canon c q s := by
  subst e
  exact h

/-- A change for every item of a list. -/
theorem kept_foldl {α : Type} {f : State → α → State} {l : List α} (h : Canon c q s) (hf : ∀ u x, Canon c q u → Canon c q (f u x)) :
    Canon c q (l.foldl f s) := by
  induction l generalizing s with
  | nil => exact h
  | cons x r ih => exact ih (hf _ x h)

theorem kept_forAll {α : Type} {f : State → α → State} {l : List α} (h : Canon c q s) (hf : ∀ u x, Canon c q u → Canon c q (f u x)) :
    Canon c q (forAll s l f) := kept_foldl h hf

theorem kept_of_snd {α : Type} {x : α × State} {a : α} {u : State} (h : Canon c q x.2) (e : x = (a, u)) : Canon c q u := by
  subst e
  exact h

/-! Memories. -/

theorem memOk_empty {f : Fill} : MemOk c { cells := [], fill := f } := fun _ => rfl

theorem memOk_memWr {m : Mem} {a : Nat} {bs : List Byte} (h : MemOk c m) : MemOk c (memWr m a bs) :=
  fun hc => memWf_memWr m a bs (h hc)

theorem zeroOk_memWr {m : Mem} {a : Nat} {bs : List Byte} (h : ZeroOk c m) : ZeroOk c (memWr m a bs) :=
  fun hc => ⟨memWf_memWr m a bs (h hc).1, (h hc).2⟩

theorem memOk_memWrW {m : Mem} {a : Nat} {ws : List Word} (h : MemOk c m) : MemOk c (memWrW m a ws) := memOk_memWr h

theorem zeroOk_memWrW {m : Mem} {a : Nat} {ws : List Word} (h : ZeroOk c m) : ZeroOk c (memWrW m a ws) := zeroOk_memWr h

/-! Units by number. -/

theorem dieOk_die {n : Nat} (h : Canon c q s) : DieOk c (die s n) := by
  unfold die
  rcases bankGet_mem defDie s.dies n with hd | ⟨e, he, _, hd⟩
  · rw [hd]
    exact ⟨memOk_empty, memOk_empty⟩
  · rw [← hd]
    exact h.dies e he

theorem kept_setDie {n : Nat} {d : Die} (h : Canon c q s) (hd : DieOk c d) : Canon c q (setDie s n d) :=
  { h with
    dies := fun e he => by
      rcases mem_bankSet he with he | rfl
      · exact h.dies e he
      · exact hd }

theorem kept_modDie {n : Nat} {f : Die → Die} (h : Canon c q s) (hf : ∀ d, DieOk c d → DieOk c (f d)) : Canon c q (modDie s n f) :=
  kept_setDie h (hf _ (dieOk_die h))

theorem kept_modMct {n : Nat} {f : Mct → Mct} (h : Canon c q s) : Canon c q (modMct s n f) := kept_modDie h fun _ hd => hd

theorem engOk_eng {g : Nat} (h : Canon c q s) : EngOk c (eng s g) := by
  unfold eng
  rcases bankGet_mem defEngine s.engines g with hd | ⟨e, he, _, hd⟩
  · rw [hd]
    exact ⟨memOk_empty, memOk_empty, memOk_empty, memOk_empty, memOk_empty⟩
  · rw [← hd]
    exact h.engines e he

theorem kept_setEng {g : Nat} {x : Engine} (h : Canon c q s) (hx : EngOk c x) : Canon c q (setEng s g x) :=
  { h with
    engines := fun e he => by
      rcases mem_bankSet he with he | rfl
      · exact h.engines e he
      · exact hx }

theorem kept_modEng {g : Nat} {f : Engine → Engine} (h : Canon c q s) (hf : ∀ e, EngOk c e → EngOk c (f e)) :
    Canon c q (modEng s g f) := kept_setEng h (hf _ (engOk_eng h))

theorem kept_setCvu {k : Nat} {x : Cvu} (h : Canon c q s) : Canon c q (setCvu s k x) := kept_same h rfl

theorem kept_modCvu {k : Nat} {f : Cvu → Cvu} (h : Canon c q s) : Canon c q (modCvu s k f) := kept_setCvu h

theorem islOk_isl {i : Isl} (h : Canon c q s) : IslOk c (isl s i) := by
  cases i with
  | sia => exact h.sia
  | sib => exact h.sib

theorem kept_setIsl {i : Isl} {x : Island} (h : Canon c q s) (hx : IslOk c x) : Canon c q (setIsl s i x) := by
  cases i with
  | sia => exact { h with sia := hx }
  | sib => exact { h with sib := hx }

theorem kept_modIsl {i : Isl} {f : Island → Island} (h : Canon c q s) (hf : ∀ x, IslOk c x → IslOk c (f x)) : Canon c q (modIsl s i f) :=
  kept_setIsl h (hf _ (islOk_isl h))

theorem kept_bothIsl {f : Island → Island} (h : Canon c q s) (hf : ∀ x, IslOk c x → IslOk c (f x)) : Canon c q (bothIsl s f) :=
  kept_modIsl (kept_modIsl h hf) hf

theorem kept_setEdge {e : Edge} {x : RingEdge} (h : Canon c q s) : Canon c q (setEdge s e x) := by cases e <;> exact kept_same h rfl

theorem kept_modEdge {e : Edge} {f : RingEdge → RingEdge} (h : Canon c q s) : Canon c q (modEdge s e f) := kept_setEdge h

theorem kept_bothEdge {f : RingEdge → RingEdge} (h : Canon c q s) : Canon c q (bothEdge s f) := kept_modEdge (kept_modEdge h)

theorem kept_modMgt {i : Isl} {f : Mgt → Mgt} (h : Canon c q s) : Canon c q (modMgt s i f) := by cases i <;> exact kept_same h rfl

theorem kept_modFwl {g : FwTarget} {f : Firewall → Firewall} (h : Canon c q s) : Canon c q (modFwl s g f) := kept_same h rfl

theorem kept_setMpl {f : Mpl → Mpl} (h : Canon c q s) (hf : ∀ m, MplOk c m → MplOk c (f m)) : Canon c q (setMpl s f) :=
  { h with mpl := hf _ h.mpl }

theorem kept_setFus {f : Fus → Fus} (h : Canon c q s) (hf : ∀ u, FusOk c u → FusOk c (f u)) : Canon c q (setFus s f) :=
  { h with fus := hf _ h.fus }

/-- A change of parts that hold no memory. -/
theorem kept_with {free : Nat} {vtime : Nat} {out : List Emit} {hpt : Hpt} {mgtA : Mgt} {mgtB : Mgt} {stg : Stg} {tt : Tt} {dis : Dis}
    {qmg : Qmg} {syn : Syn} {kpm : Kpm} {cvus : Bank Cvu} {flight : List (EngId × DieId × Bool × HaloMsg)} {fws : Bank
    Firewall} {edgeA : RingEdge} {edgeB : RingEdge} {clk : Clk} {iod : Iod} {latches : List (PairId × Word)}
    (h : Canon c q s) : Canon c q { s with
      free := free, vtime := vtime, out := out, hpt := hpt, mgtA := mgtA, mgtB := mgtB, stg := stg
      tt := tt, dis := dis, qmg := qmg, syn := syn, kpm := kpm, cvus := cvus, flight := flight
      fws := fws, edgeA := edgeA, edgeB := edgeB, clk := clk, iod := iod, latches := latches } := kept_same h rfl

/-- A change of parts of which four hold memories. -/
theorem kept_parts {free : Nat} {vtime : Nat} {out : List Emit} {hpt : Hpt} {mgtA : Mgt} {mgtB : Mgt} {stg : Stg} {tt : Tt} {dis : Dis}
    {qmg : Qmg} {syn : Syn} {kpm : Kpm} {cvus : Bank Cvu} {flight : List (EngId × DieId × Bool × HaloMsg)} {fws : Bank
    Firewall} {edgeA : RingEdge} {edgeB : RingEdge} {clk : Clk} {iod : Iod} {latches : List (PairId × Word)}
    {sia sib : Island} {mpl : Mpl} {fus : Fus} (h : Canon c q s) (ha : IslOk c sia) (hb : IslOk c sib) (hm : MplOk c mpl)
    (hf : FusOk c fus) : Canon c q { s with
      free := free, vtime := vtime, out := out, hpt := hpt, mgtA := mgtA, mgtB := mgtB, stg := stg
      tt := tt, dis := dis, qmg := qmg, syn := syn, kpm := kpm, cvus := cvus, flight := flight
      fws := fws, edgeA := edgeA, edgeB := edgeB, clk := clk, iod := iod, latches := latches
      sia := sia, sib := sib, mpl := mpl, fus := fus } := ⟨h.pending, h.dies, h.engines, ha, hb, hm, hf⟩

theorem keptOut_next (h : Canon c q s) : CanonOut c q (.next s) := fun _ e => by
  cases e
  exact h

end

end Sys2Proof.Proofs

/-! What every step keeps: the parts of the state, the resets, and what waits at the ports (95; 12). -/

namespace Sys2Proof.Proofs

open Sys2Proof.Machine Sys2Proof.Safety Sys2Proof.Laws

section
variable {c : Prop} {q : List Instr}

theorem kept_execPowerGood {ref hptv pce : Bool} {s : State} (h : Canon c q s) : CanonOut c q (execPowerGood ref hptv pce s) := by
  unfold execPowerGood
  split
  · exact keptOut_next h
  · exact keptOut_next (kept_with h)

theorem kept_noteEnded {s : State} {l : List Ended} (h : Canon c q s) : Canon c q (noteEnded s l) :=
  kept_with h

theorem kept_emit {s : State} {e : Emit} (h : Canon c q s) : Canon c q (emit s e) :=
  kept_with h

theorem kept_fresh {s : State} (h : Canon c q s) : Canon c q (fresh s).2 := by
  unfold fresh
  dsimp only
  exact kept_with h

theorem kept_standAfter {s : State} {g : Nat} (h : Canon c q s) : Canon c q (standAfter s g) := by
  unfold standAfter
  exact kept_modEng (kept_fresh h) (fun _ _ => ⟨memOk_empty, memOk_empty, memOk_empty, memOk_empty, memOk_empty⟩)

theorem kept_engDone {s : State} {g : Nat} {st : Byte} {ws : List Word} {skip : Bool} (h : Canon c q s) : Canon c q
    (engDone s g st ws skip) :=
  kept_ite (kept_standAfter (kept_modEng h (fun _ h1 => h1))) (kept_modEng h (fun _ h2 => h2))

theorem kept_failDesc {s : State} {g : EngId} (h : Canon c q s) : Canon c q (failDesc s g) := by
  unfold failDesc
  split
  · exact kept_engDone h
  · exact h

theorem kept_failWrite {s : State} {w : PendWrite} (h : Canon c q s) : Canon c q (failWrite s w) := by
  unfold failWrite
  split
  · exact kept_failDesc h
  · exact kept_emit h

theorem kept_failMct {s : State} {l : LinkId} {n : DieId} (h : Canon c q s) : Canon c q (failMct s l n) :=
  kept_forAll (kept_forAll (kept_noteEnded (kept_modMct h)) (fun _ _ h1 => kept_emit h1)) (fun _ _ h2 => kept_failWrite h2)

theorem kept_failPieces {s : State} {l : LinkId} {i : Isl} (h : Canon c q s) : Canon c q (failPieces s l i) :=
  kept_forAll (kept_modIsl (kept_noteEnded h) (fun _ h1 => h1)) (fun _ _ h2 => kept_emit h2)

theorem kept_setLink {s : State} {l : LinkId} {up : Bool} (h : Canon c q s) : Canon c q (setLink s l up) := by
  unfold setLink
  split
  · exact kept_ite (kept_with (kept_modDie h (fun _ h3 => h3))) (kept_modDie h (fun _ h4 => h4))
  · exact kept_modDie (kept_modDie h (fun _ h7 => h7)) (fun _ h8 => h8)
  · exact kept_ite (kept_with (kept_modIsl h (fun _ h11 => h11))) (kept_modIsl h (fun _ h12 => h12))

theorem kept_setHpt {s : State} {h' : Hpt} (h : Canon c q s) : Canon c q (setHpt s h') :=
  kept_ite (kept_emit (kept_with h)) (kept_with h)

theorem kept_mgtSend {s : State} {i : Isl} {mk : Nat → List Word} (h : Canon c q s) : Canon c q (mgtSend s i mk) :=
  kept_emit (kept_modMgt h)

theorem kept_reply {s : State} {p : Pkt} {st : Byte} {data : List Word} (h : Canon c q s) : Canon c q (reply s p st data) := by
  unfold reply
  split
  · exact kept_setHpt h
  · exact kept_mgtSend h

theorem kept_setWaiting {s : State} {p : Port} {l : List Pkt} (h : Canon c q s) : Canon c q (setWaiting s p l) := by
  unfold setWaiting
  split
  · exact kept_with h
  · exact kept_modMgt h

theorem kept_refuse {s : State} {p : Pkt} {st : Byte} {step expect idx : Nat} (h : Canon c q s) : Canon c q
    (refuse s p st step expect idx) :=
  kept_reply h

theorem kept_flushOne {s : State} {k : Pkt} (h : Canon c q s) : Canon c q (flushOne s k) := by
  unfold flushOne
  split
  · exact kept_ite h (kept_refuse (kept_setWaiting h))
  · exact h

theorem kept_flush {s : State} {p : Port} (h : Canon c q s) : Canon c q (flush s p) :=
  kept_forAll h (fun _ _ h1 => kept_flushOne h1)

theorem kept_turnAway {s : State} {k : Pkt} {st : Byte} {step expect idx : Nat} (h : Canon c q s) : Canon c q
    (turnAway s k st step expect idx) :=
  kept_flush (kept_setWaiting h)

theorem kept_countErr {s : State} {p : Port} {f : Hpt → Hpt} (h : Canon c q s) : Canon c q (countErr s p f) :=
  kept_ite (kept_with h) h

theorem kept_setAlive {s : State} {p : Port} {c' : Nat} {v : BitVec 8} (h : Canon c q s) : Canon c q (setAlive s p c' v) := by
  unfold setAlive
  split
  · exact kept_with h
  · exact kept_modMgt h

theorem kept_arrive {s : State} {port : Port} {bs : List Byte} (h : Canon c q s) : Canon c q (arrive s port bs) :=
  kept_ite (kept_turnAway h) (kept_ite (kept_turnAway (kept_countErr h))
      (kept_ite (kept_turnAway h) (kept_ite (kept_setWaiting h) (kept_ite (kept_setWaiting (kept_setAlive h))
      (kept_turnAway (kept_countErr h))))))

theorem kept_intakeList {s : State} {l : List (List Byte)} (h : Canon c q s) : Canon c q (intakeList s l) := by
  induction l generalizing s with
  | nil => exact kept_with h
  | cons b r ih =>
    unfold intakeList
    exact kept_ite (ih (kept_arrive h)) (kept_with h)

theorem kept_intake {s : State} (h : Canon c q s) : Canon c q (intake s) :=
  kept_ite h (kept_intakeList h)

theorem kept_completeDefers {s : State} {k : DefKind} {st : Byte} {data : List Word} (h : Canon c q s) : Canon c q
    (completeDefers s k st data) :=
  kept_ite (kept_intake (kept_forAll (kept_with h) (fun _ _ h1 => kept_reply h1)))
      (kept_forAll (kept_with h) (fun _ _ h2 => kept_reply h2))

theorem kept_refreshFor {s : State} {n off len : Nat} (h : Canon c q s) : Canon c q (refreshFor s n off len) := by
  unfold refreshFor
  split
  · exact h
  · exact kept_modMct h

theorem islOk_islTake {x : Island} {e : Entry} (h : IslOk c x) : IslOk c (islTake x e) :=
  ite_ok h h

theorem kept_addEntry {s : State} {e : Entry} (h : Canon c q s) : Canon c q (addEntry s e) :=
  kept_ite (kept_bothIsl h (fun _ h1 => islOk_islTake h1)) (kept_setHpt (kept_bothIsl h (fun _ h2 => islOk_islTake h2)))

theorem kept_logF {s : State} {f : Fact} (h : Canon c q s) : Canon c q (logF s f) :=
  kept_addEntry (kept_ite (kept_fresh h) h)

theorem kept_ueEvent {s : State} {n b : Nat} {liv : Byte} {scrub : Bool} (h : Canon c q s) : Canon c q (ueEvent s n b liv scrub) :=
  kept_logF (kept_modMct h)

theorem kept_ueEvents {s : State} {n : Nat} {liv : Byte} {bs : List Nat} (h : Canon c q s) : Canon c q (ueEvents s n liv bs) :=
  kept_forAll h (fun _ _ h1 => kept_ueEvent h1)

theorem kept_ceEvent {s : State} {n b : Nat} (h : Canon c q s) : Canon c q (ceEvent s n b) :=
  kept_modMct h

theorem kept_correct {s : State} {n : Nat} {p : MctPort} {liv : Byte} {off len : Nat} (h : Canon c q s) : Canon c q
    (correct s n p liv off len) :=
  kept_forAll h (fun _ _ h1 => kept_ceEvent h1)

theorem kept_copyReach {s : State} {x : MemCopy} {len : Nat} (h : Canon c q s) : Canon c q (copyReach s x len).2.2 := by
  unfold copyReach
  dsimp only
  split
  · exact kept_ueEvents (kept_ite (kept_ueEvents (kept_correct (kept_refreshFor h))) (kept_correct (kept_refreshFor h)))
  · exact kept_ueEvents (kept_correct (kept_refreshFor h))





theorem kept_partRead {s : State} {n : Nat} {p : MctPort} {liv : Byte} {off len : Nat} (h : Canon c q s) : Canon c q
    (partRead s n p liv off len).2 := by
  unfold partRead
  dsimp only
  exact kept_ueEvents (kept_forAll (kept_forAll h (fun _ _ h1 => kept_refreshFor h1)) (fun _ _ h2 => kept_ceEvent h2))

theorem memOk_foldl {α : Type} {f : Mem → α → Mem} {l : List α} {m : Mem} (h : MemOk c m) (hf : ∀ m x, MemOk c m → MemOk c (f m x)) :
    MemOk c (l.foldl f m) := by
  induction l generalizing m with
  | nil => exact h
  | cons x r ih => exact ih (hf _ x h)

theorem memOk_landWr {compat : Bool} {ep : Nat} {m : Mem} {w : PendWrite} (h : MemOk c m) : MemOk c (landWr compat ep m w) :=
  ite_ok (memOk_memWr h) (memOk_foldl h fun _ _ h => ite_ok (memOk_memWr h) h)

theorem kept_land {s : State} {n : Nat} {w : PendWrite} (h : Canon c q s) : Canon c q (land s n w) :=
  kept_ite (kept_fresh (kept_modDie h (fun _ h1 => ⟨memOk_landWr h1.1, h1.2⟩))) (kept_modDie h (fun _ h2 => ⟨memOk_landWr h2.1, h2.2⟩))

theorem kept_finishStores {s : State} (h : Canon c q s) : Canon c q (finishStores s) :=
  kept_forAll h (fun _ _ h1 => by
    split
    · exact kept_ite h1 (kept_engDone h1)
    · exact h1)

theorem kept_ackDrained {s : State} {compat : Bool} {w : PendWrite} (h : Canon c q s) : Canon c q (ackDrained s compat w) :=
  kept_ite (kept_emit h) h

theorem kept_drainAt {s : State} {n idx : Nat} (h : Canon c q s) : Canon c q (drainAt s n idx) := by
  unfold drainAt
  split
  · exact h
  · exact kept_ackDrained (kept_land (kept_modMct (kept_refreshFor h)))

theorem kept_drainAll {s : State} {n : Nat} (h : Canon c q s) : Canon c q (drainAll s n) :=
  kept_finishStores (kept_forAll h (fun _ _ h1 => kept_drainAt h1))

theorem kept_hbmPut {s : State} {n : Nat} {liv : Byte} {off : Nat} {data : List Byte} {p : optParam MctPort MctPort.spine}
    (h : Canon c q s) : Canon c q (hbmPut s n liv off data p).2 := by
  unfold hbmPut
  split
  · rename_i u2 e3
    have hu2 := kept_of_snd (kept_partRead (kept_refreshFor h)) e3
    exact hu2
  · rename_i u5 e6
    have hu5 := kept_of_snd (kept_partRead (kept_refreshFor h)) e6
    dsimp only
    exact kept_land (kept_ite (kept_drainAll hu5) hu5)

theorem kept_hbmSet {s : State} {n : Nat} {liv : Byte} {off : Nat} {data : List Byte} (h : Canon c q s) : Canon c q
    (hbmSet s n liv off data) :=
  kept_hbmPut h

theorem kept_copyMove {s : State} {x : MemCopy} {len : Nat} (h : Canon c q s) : Canon c q (copyMove s x len).2.2 := by
  have hr := kept_copyReach (x := x) (len := len) h
  unfold copyMove
  dsimp only
  exact kept_hbmSet hr

theorem kept_dropCopy {s : State} {id : Nat} (h : Canon c q s) : Canon c q (dropCopy s id) :=
  kept_with h

theorem kept_failCopy {s : State} {c' : MemCopy} (h : Canon c q s) : Canon c q (failCopy s c') := by
  unfold failCopy
  exact kept_completeDefers (kept_copyMove (kept_fresh (kept_dropCopy h)))

theorem kept_failCopies {s : State} {l : LinkId} (h : Canon c q s) : Canon c q (failCopies s l) :=
  kept_forAll (kept_noteEnded h) (fun _ _ h1 => kept_failCopy h1)

theorem kept_dropHeldWrites {s : State} {gone : HeldWrite → Bool} (h : Canon c q s) : Canon c q (dropHeldWrites s gone) :=
  kept_parts h h.sia h.sib h.mpl h.fus

theorem kept_failHeldWrite {s : State} {w : HeldWrite} (h : Canon c q s) : Canon c q (failHeldWrite s w) := by
  unfold failHeldWrite
  split
  · exact kept_failDesc h
  · exact kept_ite (kept_emit h) h

theorem kept_failHeld {s : State} {l : LinkId} (h : Canon c q s) : Canon c q (failHeld s l) :=
  kept_forAll (kept_noteEnded (kept_dropHeldWrites h)) (fun _ _ h1 => kept_failHeldWrite h1)

theorem kept_failFlight {s : State} {l : LinkId} (h : Canon c q s) : Canon c q (failFlight s l) :=
  kept_forAll (kept_noteEnded (kept_with h)) (fun _ _ h1 => kept_failDesc h1)

theorem kept_dropLink {s : State} {l : LinkId} (h : Canon c q s) : Canon c q (dropLink s l) :=
  kept_setLink (kept_failCopies (kept_failHeld (kept_failFlight (kept_failPieces (kept_failPieces
      (kept_forAll h (fun _ _ h1 => kept_failMct h1)))))))

theorem kept_closeRun {s : State} {t : FwTarget} (h : Canon c q s) : Canon c q (closeRun s t) := by
  unfold closeRun
  split
  · exact h
  · exact kept_logF (kept_modFwl h)

theorem kept_dropFws {s : State} {lo n : Nat} (h : Canon c q s) : Canon c q (dropFws s lo n) :=
  kept_with (kept_forAll h (fun _ _ h1 => kept_closeRun h1))

theorem kept_resetDie {s : State} {n : DieId} (h : Canon c q s) : Canon c q (resetDie s n) := by
  unfold resetDie
  extract_lets s1 s2 ep s3 s4 d
  have h1 : Canon c q s1 := kept_modDie (kept_forAll h fun _ _ h => kept_dropLink h) fun _ h => h
  have h2 : Canon c q s2 := kept_forAll h1 fun _ _ h => kept_setEng h ⟨memOk_empty, memOk_empty, memOk_empty, memOk_empty, memOk_empty⟩
  have h4 : Canon c q s4 := kept_with (kept_dropFws (kept_fresh h2))
  exact kept_setDie h4 ⟨memOk_empty, memOk_empty⟩

theorem kept_padDie {s : State} {n : DieId} (h : Canon c q s) : Canon c q (padDie s n) := by
  unfold padDie
  exact kept_modDie (kept_resetDie h) (fun _ h1 => h1)

theorem kept_hbmGet {s : State} {n : Nat} {p : MctPort} {liv : Byte} {off len : Nat} (h : Canon c q s) : Canon c q
    (hbmGet s n p liv off len).2 := by
  unfold hbmGet
  extract_lets s1
  have hs1 : Canon c q s1 := kept_correct (kept_refreshFor h)
  split
  · dsimp only
    exact kept_ite (kept_fresh hs1) hs1
  · dsimp only
    exact kept_ueEvents hs1

theorem kept_readCopy {s : State} {n q' : Nat} (h : Canon c q s) : Canon c q (readCopy s n q').2 := by
  unfold readCopy
  split
  · exact h
  · split
    · exact h
    · dsimp only
      exact kept_hbmGet h

theorem kept_putCopy {s : State} {n q' : Nat} {bs : List Byte} (h : Canon c q s) : Canon c q (putCopy s n q' bs) := by
  unfold putCopy
  split
  · exact kept_ite (kept_hbmSet h) h
  · exact h

theorem kept_setQueue {s : State} {q' : Nat} {c' : QueueCtx} (h : Canon c q s) : Canon c q (setQueue s q' c') :=
  kept_putCopy (kept_putCopy (kept_with h))

theorem kept_syncQueue {s : State} {q' : Nat} (h : Canon c q s) : Canon c q (syncQueue s q') := by
  unfold syncQueue
  dsimp only
  exact kept_ite h (by
    split
    · exact kept_ite (kept_readCopy (kept_readCopy h)) (kept_setQueue (kept_readCopy (kept_readCopy h)))
    · exact kept_setQueue (kept_readCopy (kept_readCopy h))
    · exact kept_setQueue (kept_readCopy (kept_readCopy h))
    · exact kept_logF (kept_setQueue (kept_readCopy (kept_readCopy h))))

theorem kept_settleRoute {s : State} {a b : DieId} (h : Canon c q s) : Canon c q (settleRoute s a b) :=
  kept_ite h (kept_with h)

theorem kept_settleFor {s : State} {src : Initiator} {t : FwTarget} (h : Canon c q s) : Canon c q (settleFor s src t) := by
  unfold settleFor
  split
  · exact kept_ite h (kept_settleRoute h)
  · exact h

theorem kept_fetchDesc {s : State} {g : EngId} {x : QueueCtx} (h : Canon c q s) (u : List Word × Bool × State)
    (hu : fetchDesc s g x = some u) : Canon c q u.2.2 := by
  unfold fetchDesc at hu
  split at hu
  · cases hu
  · dsimp only at hu
    split at hu
    · rw [← Option.some.inj hu]
      dsimp only
      exact kept_hbmGet (kept_settleFor h)
    · cases hu

theorem kept_finishRest {g : EngId} {st : Byte} {n : Nat} {s : State} (h : Canon c q s) : Canon c q (finishRest g st n s) := by
  induction n generalizing s with
  | zero => exact h
  | succ n ih =>
    unfold finishRest
    refine kept_ite h (kept_ite (kept_syncQueue h) ?_)
    split
    · exact kept_syncQueue h
    · rename_i e
      exact ih (kept_engDone (kept_modEng (kept_setQueue (kept_fetchDesc (kept_syncQueue h) _ e)) fun _ h => h))

theorem kept_loseWait {s : State} {g : EngId} (h : Canon c q s) : Canon c q (loseWait s g) := by
  unfold loseWait
  split
  · exact kept_forAll (kept_finishRest (kept_engDone h)) fun _ _ h => kept_emit h
  · exact h

theorem kept_recordDie {s : State} {n : DieId} {on : Bool} (h : Canon c q s) : Canon c q (recordDie s n on) :=
  kept_bothIsl h (fun _ h1 => h1)

theorem kept_undoReadmit {s : State} {n : DieId} (h : Canon c q s) : Canon c q (undoReadmit s n) := by
  unfold undoReadmit
  split
  · exact h
  · exact kept_ite (kept_recordDie (kept_modDie h (fun _ h8 => h8))) (kept_modDie h (fun _ h9 => h9))

theorem engOk_stopEngine {e : Engine} (h : EngOk c e) : EngOk c (stopEngine e) := h

theorem kept_resetIod {s : State} {cause : Nat} (h : Canon c q s) : Canon c q (resetIod s cause) := by
  unfold resetIod
  extract_lets s1 s2 s3 ended kept x s4
  have h1 : Canon c q s1 := kept_forAll (kept_forAll h fun _ _ h => kept_dropLink h) fun _ _ h => kept_loseWait h
  have h2 : Canon c q s2 := kept_forAll (kept_dropHeldWrites h1) fun _ _ h => kept_failHeldWrite h
  have h3 : Canon c q s3 := kept_forAll h2 fun _ _ h => kept_undoReadmit h
  clear_value s3
  have h4 : Canon c q s4 := {
    pending := h3.pending, dies := h3.dies, sia := h3.sia, sib := h3.sib
    engines := fun e he => by
      obtain ⟨x, hx, rfl⟩ := List.mem_map.1 he
      exact engOk_stopEngine (h3.engines x hx)
    mpl := ⟨fun _ => ⟨rfl, rfl⟩, memOk_empty, memOk_empty⟩
    fus := memOk_empty }
  exact kept_forAll (kept_bothIsl (kept_dropFws h4) fun _ h => h) fun _ _ h => kept_reply h

theorem kept_clearDown {s : State} {n : DieId} (h : Canon c q s) : Canon c q (clearDown s n) :=
  kept_modDie h (fun _ h1 => h1)

theorem kept_execPorstAssert {s : State} (h : Canon c q s) : CanonOut c q (execPorstAssert s) := by
  unfold execPorstAssert
  refine keptOut_next (kept_with (kept_bothEdge (kept_forAll (kept_resetIod (kept_forAll (kept_forAll h ?_) ?_)) ?_)))
  · exact fun _ _ h => kept_forAll h fun _ _ h => kept_dropLink h
  · exact fun _ _ h => kept_padDie h
  · exact fun _ _ h => kept_clearDown h

theorem islOk_shareLevels {x other : Island} (h : IslOk c x) (h'1 : IslOk c other) : IslOk c (shareLevels x other) :=
  ite_ok h h

theorem kept_logBoot {s : State} {i : Isl} {f : Fact} (h : Canon c q s) : Canon c q (logBoot s i f) := by
  unfold logBoot
  exact kept_modIsl (kept_logF (kept_modIsl h (fun _ h1 => h1))) (fun _ h2 => h2)

theorem kept_fixRecord {s : State} {i : Isl} (h : Canon c q s) : Canon c q (fixRecord s i) :=
  kept_logBoot (kept_modIsl h (fun _ h1 => ⟨h1.1, memOk_memWr h1.2⟩))

theorem kept_checkRecord {s : State} {i : Isl} (h : Canon c q s) : Canon c q (checkRecord s i) :=
  kept_ite (kept_modIsl h (fun _ h1 => h1)) (kept_ite (kept_modIsl (kept_fixRecord h) (fun _ h2 => h2)) h)

theorem kept_noteSlots {s : State} {f : State → State} {n : Nat} (h : Canon c q s) (hf : ∀ u, Canon c q u → Canon c q (f u)) :
    Canon c q (noteSlots s f n) := by
  induction n generalizing s with
  | zero => exact h
  | succ n ih => exact ih (hf _ h)

theorem kept_setVersion {s : State} {i : Isl} {v : Word} (h : Canon c q s) : Canon c q (setVersion s i v) :=
  kept_with h

theorem kept_bootIsl {s : State} {i : Isl} (h : Canon c q s) : Canon c q (bootIsl s i) := by
  unfold bootIsl
  extract_lets x
  have hx : IslOk c x := islOk_isl h
  split
  · exact kept_modIsl (kept_noteSlots h (fun _ h3 => kept_logBoot (kept_modIsl h3 (fun _ h4 => h4)))) (fun _ h5 => h5)
  · exact kept_setVersion (kept_modIsl (kept_noteSlots h (fun _ h9 => kept_logBoot (kept_modIsl h9 (fun _ h10 => h10))))
        (fun _ h11 => h11))

theorem kept_execIslandResetRelease {i : Isl} {b : BootFacts} {s : State} (h : Canon c q s) : CanonOut c q (execIslandResetRelease i b s)
    := by
  unfold execIslandResetRelease
  split
  · exact keptOut_next h
  · extract_lets s3
    have hs3 : Canon c q s3 := kept_modIsl h (fun _ h4 => islOk_shareLevels h4 (islOk_isl h))
    split
    · exact keptOut_next (kept_bootIsl (kept_checkRecord hs3))
    · exact keptOut_next (kept_checkRecord hs3)

theorem islOk_keptIsl {x : Island} {ep : Nat} (h : IslOk c x) : IslOk c (keptIsl x ep) :=
  ⟨memOk_empty, h.2⟩

theorem kept_setDis {s : State} {f : Dis → Dis} (h : Canon c q s) : Canon c q (setDis s f) :=
  kept_with h

theorem kept_dropLatches {s : State} {mine : PairId → Bool} (h : Canon c q s) : Canon c q (dropLatches s mine) :=
  kept_with h

theorem mplOk_setUrgAlive {m : Mpl} {i : Isl} {v : BitVec 8} (h : MplOk c m) : MplOk c (setUrgAlive m i v) := by
  unfold setUrgAlive
  split
  · exact h
  · exact h

theorem kept_resetIsl {s : State} {i : Isl} (h : Canon c q s) : Canon c q (resetIsl s i) :=
  kept_setMpl (kept_dropLatches (kept_dropFws (kept_setDis (kept_modMgt (kept_setIsl (kept_fresh (kept_dropLink h))
      (islOk_keptIsl (islOk_isl (kept_fresh (kept_dropLink h))))))))) (fun _ h1 => mplOk_setUrgAlive h1)

theorem islOk_withOther {x : Island} {st : Nat} (h : IslOk c x) : IslOk c (withOther x st) :=
  ite_ok h h

theorem kept_execIslandResetAssert {i : Isl} {s : State} (h : Canon c q s) : CanonOut c q (execIslandResetAssert i s) := by
  unfold execIslandResetAssert
  dsimp only
  exact keptOut_next (kept_modIsl (kept_ite h (kept_modIsl (kept_resetIsl h) (fun _ h1 => islOk_withOther h1))) (fun _ h2 => h2))

theorem kept_dropOwn {s : State} {i : Isl} {k : DefKind} (h : Canon c q s) : Canon c q (dropOwn s i k) :=
  kept_setDis h

theorem kept_execIslandActive {i : Isl} {s : State} (h : Canon c q s) : CanonOut c q (execIslandActive i s) := by
  unfold execIslandActive
  extract_lets x
  have hx : IslOk c x := islOk_isl h
  split
  · exact keptOut_next h
  · split
    · exact keptOut_next (kept_completeDefers (kept_dropOwn (kept_completeDefers (kept_modIsl h (fun _ h4 => h4)))))
    · exact keptOut_next (kept_completeDefers (kept_dropOwn (kept_completeDefers (kept_modIsl h (fun _ h6 => h6)))))

theorem kept_readyCores {s : State} (h : Canon c q s) : Canon c q (readyCores s) :=
  kept_with h

theorem kept_startIod {s : State} {i : Isl} {sl : Bool} (h : Canon c q s) : Canon c q (startIod s i sl) :=
  kept_ite (kept_bothEdge (kept_readyCores (kept_with (kept_with h)))) (kept_with h)

theorem kept_execIodResetRelease {slotB : Bool} {s : State} (h : Canon c q s) : CanonOut c q (execIodResetRelease slotB s) := by
  unfold execIodResetRelease
  split
  · exact keptOut_next h
  · split
    · exact keptOut_next h
    · extract_lets p
      split
      · exact keptOut_next h
      · split
        · exact keptOut_next (kept_with (kept_noteSlots h (fun _ h12 => kept_logF (kept_bothIsl h12 (fun _ h13 => ite_ok h13 h13)))))
        · exact keptOut_next (kept_startIod (kept_noteSlots h (fun _ h17 => kept_logF (kept_bothIsl h17 (fun _ h18 => ite_ok h18 h18)))))

theorem kept_execComputePairRelease {i : Fin 6} {s : State} (h : Canon c q s) : CanonOut c q (execComputePairRelease i s) := by
  unfold execComputePairRelease
  split
  · exact keptOut_next h
  · exact keptOut_next (kept_forAll h (fun _ _ h3 => kept_ite (kept_modDie h3 (fun _ h4 => h4)) h3))

theorem kept_execMctTrainingEnd {n : DieId} {s : State} (h : Canon c q s) : CanonOut c q (execMctTrainingEnd n s) := by
  unfold execMctTrainingEnd
  split
  · exact keptOut_next h
  · exact keptOut_next (kept_modDie h (fun _ h3 => ⟨memOk_empty, h3.2⟩))

theorem kept_execLinkTrained {l : LinkId} {s : State} (h : Canon c q s) : CanonOut c q (execLinkTrained l s) := by
  unfold execLinkTrained
  split
  · dsimp only
    exact keptOut_next (kept_with (kept_setLink h))
  · exact keptOut_next h

theorem kept_wakeEngines {s : State} {n : DieId} (h : Canon c q s) : Canon c q (wakeEngines s n) :=
  kept_forAll h (fun _ _ h1 => kept_modEng h1 (fun _ h2 => h2))

theorem kept_hbmTake {s : State} {n : Nat} {liv : Byte} {off len : Nat} (h : Canon c q s) : Canon c q (hbmTake s n liv off len).2 := by
  have hx := kept_hbmGet (n := n) (p := .spine) (liv := liv) (off := off) (len := len) h
  unfold hbmTake
  extract_lets bad x
  split
  · exact hx
  · exact kept_fresh hx

theorem kept_restoreImage {s : State} {n : DieId} (h : Canon c q s) : Canon c q (restoreImage s n) := by
  unfold restoreImage
  extract_lets s1
  have hs1 : Canon c q s1 := kept_modDie h (fun _ h2 => h2)
  split
  · exact hs1
  · split
    · exact hs1
    · split
      · exact kept_hbmSet (kept_hbmTake hs1)
      · exact hs1

theorem kept_execDieReady {n : DieId} {ok : Bool} {s : State} (h : Canon c q s) : CanonOut c q (execDieReady n ok s) := by
  unfold execDieReady
  extract_lets d
  have hd : DieOk c d := dieOk_die h
  split
  · exact keptOut_next h
  · split
    · split
      · exact keptOut_next (kept_logF (kept_modDie h (fun _ h5 => h5)))
      · exact keptOut_next (kept_modDie h (fun _ h7 => h7))
    · split
      · exact keptOut_next h
      · split
        · exact keptOut_next (kept_modDie (kept_wakeEngines h) (fun _ h12 => h12))
        · exact keptOut_next (kept_completeDefers (kept_restoreImage (kept_modDie (kept_wakeEngines h) (fun _ h14 => h14))))

theorem kept_openPort {s : State} (h : Canon c q s) : Canon c q (openPort s) :=
  kept_setHpt (kept_parts (kept_readyCores h) ((kept_readyCores h).sia) ((kept_readyCores h).sib) ((kept_readyCores h).mpl)
      ((kept_readyCores h).fus))

theorem kept_execPortReady {s : State} (h : Canon c q s) : CanonOut c q (execPortReady s) := by
  unfold execPortReady
  split
  · exact keptOut_next h
  · split
    · exact keptOut_next (kept_openPort (kept_with h))
    · exact keptOut_next h

theorem kept_failIsl {s : State} {i : Isl} (h : Canon c q s) : Canon c q (failIsl s i) := by
  unfold failIsl
  exact kept_modIsl (kept_logF h) (fun _ h1 => h1)

theorem kept_ramFails {s : State} {i : Isl} (h : Canon c q s) : Canon c q (ramFails s i) :=
  kept_failIsl (kept_modIsl h (fun _ h1 => h1))

theorem kept_seatTable {s : State} (h : Canon c q s) : Canon c q (seatTable s) :=
  kept_with h

theorem kept_modCtx {s : State} {c' : Nat} {f : CtxRec → CtxRec} (h : Canon c q s) : Canon c q (modCtx s c' f) :=
  kept_with h

theorem kept_setObj {s : State} {k : Nat} {o : SynObj} (h : Canon c q s) : Canon c q (setObj s k o) :=
  kept_with h

theorem kept_startCtx {s : State} {d : CtxDecl} (h : Canon c q s) : Canon c q (startCtx s d) :=
  kept_forAll (kept_with (kept_with (kept_forAll (kept_modCtx h) (fun _ _ h1 => kept_setQueue h1)))) (fun _ _ h2 => kept_setObj h2)

theorem kept_ownObjects {s : State} (h : Canon c q s) : Canon c q (ownObjects s) := by
  unfold ownObjects
  split
  · exact kept_forAll h (fun _ _ h7 => kept_ite (kept_setObj h7) (kept_ite (kept_setObj h7) h7))
  · exact h

theorem kept_switchCvus {s : State} {old new : Option Timetable} {carry : List CtxId} (h : Canon c q s) : Canon c q
    (switchCvus s old new carry) :=
  kept_forAll h (fun _ _ h1 => kept_ite h1 (kept_setCvu h1))

theorem kept_setKpm {s : State} {f : Kpm → Kpm} (h : Canon c q s) : Canon c q (setKpm s f) :=
  kept_with h

theorem kept_setHeaps {s : State} {t : Timetable} (h : Canon c q s) : Canon c q (setHeaps s t) :=
  kept_setKpm h

theorem kept_loadRegion {s : State} {d : RegionDecl} (h : Canon c q s) : Canon c q (loadRegion s d) :=
  kept_modFwl h

theorem kept_loadRegions {s : State} {sel : FwTarget → Bool} (h : Canon c q s) : Canon c q (loadRegions s sel) := by
  unfold loadRegions
  split
  · exact h
  · exact kept_forAll h (fun _ _ h6 => kept_loadRegion h6)

theorem kept_dropRegions {s : State} (h : Canon c q s) : Canon c q (dropRegions s) :=
  kept_with h

theorem kept_loadOrp {s : State} {e : Edge} (h : Canon c q s) : Canon c q (loadOrp s e) :=
  kept_ite h (kept_modEdge h)

theorem kept_loadSettings {s : State} {t : Timetable} (h : Canon c q s) : Canon c q (loadSettings s t) :=
  kept_loadOrp (kept_loadOrp (kept_loadRegions (kept_dropRegions (kept_parts (kept_setHeaps h) ((kept_setHeaps h).sia)
      ((kept_setHeaps h).sib) ((kept_setHeaps h).mpl) ((kept_setHeaps h).fus)))))

theorem kept_reactivate {s : State} {t : Timetable} (h : Canon c q s) : Canon c q (reactivate s t) :=
  kept_bothIsl (kept_ownObjects (kept_switchCvus (kept_loadSettings (kept_forAll (kept_seatTable (kept_with h))
      (fun _ _ h1 => kept_startCtx h1))))) (fun _ h2 => ite_ok h2 h2)

theorem kept_execIodCoreReady {s : State} {ramFault : optParam Bool false} (h : Canon c q s) : CanonOut c q (execIodCoreReady s ramFault)
    := by
  unfold execIodCoreReady
  split
  · exact keptOut_next h
  · split
    · exact keptOut_next h
    · split
      · exact keptOut_next (kept_ramFails h)
      · dsimp only
        exact keptOut_next (kept_completeDefers (kept_openPort (kept_ite (kept_with h) (by
          split
          · exact kept_reactivate (kept_with h)
          · exact kept_logF (kept_bothIsl (kept_with h) (fun _ h15 => h15))))))

theorem kept_restartIod {s : State} {cause : Nat} {back : Bool} (h : Canon c q s) : Canon c q (restartIod s cause back) := by
  unfold restartIod
  extract_lets s1 s2 s3
  have h2 : Canon c q s2 := kept_ite (kept_bothIsl (kept_setDis h) fun _ h => h) (kept_setDis h)
  have h3 : Canon c q s3 := kept_resetIod h2
  exact kept_ite (kept_with h3) h3

theorem kept_execIodCoreReset {s : State} (h : Canon c q s) : CanonOut c q (execIodCoreReset s) := by
  unfold execIodCoreReset
  split
  · exact keptOut_next h
  · exact keptOut_next (kept_restartIod h)

theorem kept_badTx {s : State} (h : Canon c q s) : Canon c q (badTx s) :=
  kept_with h

theorem kept_execHtPut {len : Nat} {bytes : List Byte} {s : State} (h : Canon c q s) : CanonOut c q (execHtPut len bytes s) := by
  unfold execHtPut
  extract_lets bs
  split
  · exact keptOut_next (kept_badTx h)
  · split
    · exact keptOut_next (kept_setHpt h)
    · split
      · exact keptOut_next (kept_badTx h)
      · exact keptOut_next (kept_intake (kept_with h))

theorem kept_sendWords {s : State} {ws : List Word} (h : Canon c q s) : Canon c q (sendWords s ws) :=
  kept_emit h

theorem kept_execHtGet {len clocked : Nat} {s : State} (h : Canon c q s) : CanonOut c q (execHtGet len clocked s) := by
  unfold execHtGet
  split
  · exact keptOut_next (kept_badTx h)
  · dsimp only
    exact keptOut_next (kept_intake (kept_sendWords (kept_with h)))

theorem kept_execHtReget {len clocked : Nat} {s : State} (h : Canon c q s) : CanonOut c q (execHtReget len clocked s) := by
  unfold execHtReget
  split
  · exact keptOut_next (kept_badTx h)
  · dsimp only
    exact keptOut_next (kept_sendWords (kept_with h))

theorem kept_execHtStat {s : State} (h : Canon c q s) : CanonOut c q (execHtStat s) :=
  keptOut_next (kept_sendWords h)

theorem kept_execHtClr {bytes : List Byte} {s : State} (h : Canon c q s) : CanonOut c q (execHtClr bytes s) := by
  unfold execHtClr
  split
  · exact keptOut_next (kept_badTx h)
  · exact keptOut_next (kept_with h)

theorem kept_execHtInvalid {code second lenLo : Byte} {s : State} {lenHi : optParam Byte 0} (h : Canon c q s) : CanonOut c q
    (execHtInvalid code second lenLo s lenHi) := by
  unfold execHtInvalid
  split
  · exact keptOut_next h
  · exact keptOut_next (kept_badTx h)

end

end Sys2Proof.Proofs

/-! What every step keeps: the opcodes of the tables, row by row (95; 12). -/

namespace Sys2Proof.Proofs

open Sys2Proof.Machine Sys2Proof.Safety Sys2Proof.Laws

section
variable {c : Prop} {q : List Instr}

theorem rowOk_rowSysIdentity : RowOk c q rowSysIdentity := fun s k h => by
  unfold rowSysIdentity
  dsimp -zeta only [opDef, fixedRow]
  exact h

theorem rowOk_rowSysEcho : RowOk c q rowSysEcho := fun s k h => by
  unfold rowSysEcho
  dsimp -zeta only [opDef, fixedRow]
  exact ite_ok trivial (ite_ok h h)

theorem rowOk_rowSysAliveSync : RowOk c q rowSysAliveSync := fun s k h => by
  unfold rowSysAliveSync
  dsimp -zeta only [opDef, fixedRow]
  exact ite_ok trivial (kept_setAlive h)

theorem rowOk_rowSysAlertEn : RowOk c q rowSysAlertEn := fun s k h => by
  unfold rowSysAlertEn
  dsimp -zeta only [opDef, fixedRow]
  exact ite_ok trivial (kept_setHpt h)

theorem rowOk_rowStgGet : RowOk c q rowStgGet := fun s k h => by
  unfold rowStgGet
  dsimp -zeta only [opDef, fixedRow]
  exact h

theorem kept_setStg {s : State} {f : Stg → Stg} (h : Canon c q s) : Canon c q (setStg s f) :=
  kept_with h

theorem rowOk_rowStgSet : RowOk c q rowStgSet := fun s k h => by
  unfold rowStgSet
  dsimp -zeta only [opDef, fixedRow]
  exact ite_ok (kept_setStg h) trivial

theorem kept_setTt {s : State} {f : Tt → Tt} (h : Canon c q s) : Canon c q (setTt s f) :=
  kept_with h

theorem rowOk_rowTtOpen : RowOk c q rowTtOpen := fun s k h => by
  unfold rowTtOpen
  dsimp -zeta only [opDef, fixedRow]
  exact ite_ok trivial (by
    split
    · exact trivial
    · exact ite_ok trivial (ite_ok trivial (kept_setTt h)))

theorem rowOk_rowTtWrite : RowOk c q rowTtWrite := fun s k h => by
  unfold rowTtWrite
  dsimp -zeta only [opDef, fixedRow]
  exact ite_ok trivial (ite_ok trivial (ite_ok trivial (ite_ok trivial (ite_ok h (by
    split
    · exact trivial
    · split
      · rename_i u9 e10
        have hu9 := kept_of_snd (kept_hbmPut h) e10
        exact hu9
      · rename_i u13 e14
        have hu13 := kept_of_snd (kept_hbmPut h) e14
        exact hu13)))))

theorem rowOk_rowTtVerify : RowOk c q rowTtVerify := fun s k h => by
  unfold rowTtVerify
  dsimp -zeta only [opDef, fixedRow]
  exact ite_ok (kept_setTt h) trivial

theorem rowOk_rowTtArm : RowOk c q rowTtArm := fun s k h => by
  unfold rowTtArm
  dsimp -zeta only [opDef, fixedRow]
  exact ite_ok trivial (ite_ok trivial (kept_setTt h))

theorem kept_modWb {s : State} {id : Nat} {f : Waybill → Waybill} (h : Canon c q s) : Canon c q (modWb s id f) :=
  kept_with h

theorem kept_dropHeld {s : State} {st : Byte} {sel : Waybill → Bool} (h : Canon c q s) : Canon c q (dropHeld s st sel) :=
  kept_forAll (kept_forAll h (fun _ _ h1 => kept_modWb h1)) (fun _ _ h2 => kept_completeDefers h2)

theorem rowOk_rowTtCancel : RowOk c q rowTtCancel := fun s k h => by
  unfold rowTtCancel
  dsimp -zeta only [opDef, fixedRow]
  split
  · exact h
  · exact kept_dropHeld (kept_setTt h)
  · exact kept_setTt h

theorem rowOk_rowTtStatus : RowOk c q rowTtStatus := fun s k h => by
  unfold rowTtStatus
  dsimp -zeta only [opDef, fixedRow]
  exact h

theorem rowOk_rowProfileSet : RowOk c q rowProfileSet := fun s k h => by
  unfold rowProfileSet
  dsimp -zeta only [opDef, fixedRow]
  exact ite_ok trivial (ite_ok trivial (ite_ok trivial (kept_setStg h)))

theorem rowOk_rowWbSubmit : RowOk c q rowWbSubmit := fun s k h => by
  unfold rowWbSubmit
  dsimp -zeta only [opDef, fixedRow]
  extract_lets n
  split
  · exact trivial
  · exact ite_ok trivial (ite_ok trivial (ite_ok trivial (by
      split
      · exact trivial
      · exact ite_ok trivial (ite_ok h (kept_setDis h)))))

theorem rowOk_rowWbStatus : RowOk c q rowWbStatus := fun s k h => by
  unfold rowWbStatus
  dsimp -zeta only [opDef, fixedRow]
  extract_lets stage
  split
  · exact trivial
  · exact ite_ok trivial h

theorem rowOk_rowQQuery : RowOk c q rowQQuery := fun s k h => by
  unfold rowQQuery
  dsimp -zeta only [opDef, fixedRow]
  exact ite_ok trivial (ite_ok trivial (ite_ok h (kept_forAll h (fun _ _ h1 => kept_syncQueue h1))))

theorem rowOk_rowCtxPreempt : RowOk c q rowCtxPreempt := fun s k h => by
  unfold rowCtxPreempt
  dsimp -zeta only [opDef, fixedRow]
  exact ite_ok trivial (ite_ok h (kept_modCtx h))

theorem kept_holdObjs {s : State} {c' : Nat} {h' : Bool} (h : Canon c q s) : Canon c q (holdObjs s c' h') :=
  kept_with h

theorem kept_modQueue {s : State} {q' : Nat} {f : QueueCtx → QueueCtx} (h : Canon c q s) : Canon c q (modQueue s q' f) :=
  kept_setQueue (kept_syncQueue h)

theorem kept_holdQueues {s : State} {c' : Nat} {h' : Bool} (h : Canon c q s) : Canon c q (holdQueues s c' h') :=
  kept_forAll h (fun _ _ h1 => kept_ite h1 (kept_modQueue h1))

theorem rowOk_rowCtxResume : RowOk c q rowCtxResume := fun s k h => by
  unfold rowCtxResume
  dsimp -zeta only [opDef, fixedRow]
  exact ite_ok h (ite_ok trivial (kept_holdObjs (kept_holdQueues (kept_modCtx h))))

theorem rowOk_rowCtxRebind : RowOk c q rowCtxRebind := fun s k h => by
  unfold rowCtxRebind
  dsimp -zeta only [opDef, fixedRow]
  exact ite_ok trivial (ite_ok trivial (ite_ok trivial (by
    split
    · exact trivial
    · exact ite_ok trivial (ite_ok trivial (kept_with h)))))

theorem rowOk_rowSynInit : RowOk c q rowSynInit := fun s k h => by
  unfold rowSynInit
  dsimp -zeta only [opDef, fixedRow]
  split
  · exact trivial
  · exact ite_ok trivial (ite_ok trivial (ite_ok trivial (ite_ok trivial (ite_ok trivial (kept_setObj h)))))

theorem verdictOk_opPrecheck {o : SynObj} {n : Nat} {w : Bool} (v : Verdict) (hv : opPrecheck o n w = some v) : VerdictOk c q v := by
  unfold opPrecheck at hv
  split at hv
  · cases hv
    exact trivial
  · split at hv
    · cases hv
      exact trivial
    · cases hv

theorem verdictOk_synOp {s : State} {k : Pkt} {op : State → Nat → Nat → Byte × State} (h : Canon c q s)
    (hf : ∀ u n m, Canon c q u → Canon c q (op u n m).2) : VerdictOk c q (synOp s k op) := by
  unfold synOp
  split
  · exact trivial
  · refine ite_ok trivial ?_
    split
    · rename_i e
      exact verdictOk_opPrecheck _ e
    · exact ite_ok h (ite_ok h (hf _ _ _ h))

theorem kept_modObj {s : State} {k : Nat} {f : SynObj → SynObj} (h : Canon c q s) : Canon c q (modObj s k f) :=
  kept_setObj h

theorem kept_endEngWait {s : State} {g : Nat} {st : Byte} (h : Canon c q s) : Canon c q (endEngWait s g st) := by
  unfold endEngWait
  split
  · exact kept_engDone h
  · exact kept_modEng h (fun _ h6 => h6)

theorem kept_releaseWaiter {s : State} {w : Waiter} {st : Byte} {v : Nat} (h : Canon c q s) : Canon c q (releaseWaiter s w st v) := by
  unfold releaseWaiter
  split
  · exact kept_completeDefers h
  · exact kept_endEngWait h

theorem kept_serveObj {s : State} {k : Nat} (h : Canon c q s) : Canon c q (serveObj s k) :=
  kept_forAll (kept_modObj h) (fun _ _ h1 => kept_releaseWaiter h1)

theorem kept_signalObj {s : State} {k n : Nat} (h : Canon c q s) : Canon c q (signalObj s k n).2 := by
  unfold signalObj
  dsimp only
  exact kept_serveObj (kept_ite (kept_with (kept_setObj h)) (kept_setObj h))

theorem rowOk_rowSynSignal : RowOk c q rowSynSignal := fun s k h => by
  unfold rowSynSignal
  dsimp -zeta only [opDef, fixedRow]
  exact verdictOk_synOp h (fun _ _ _ h1 => kept_signalObj h1)

theorem kept_decrementObj {s : State} {k n : Nat} (h : Canon c q s) : Canon c q (decrementObj s k n).2 := by
  unfold decrementObj
  dsimp only
  exact kept_ite (kept_with (kept_setObj h)) (kept_setObj h)

theorem rowOk_rowSynDecrement : RowOk c q rowSynDecrement := fun s k h => by
  unfold rowSynDecrement
  dsimp -zeta only [opDef, fixedRow]
  exact verdictOk_synOp h (fun _ _ _ h1 => kept_decrementObj h1)

theorem rowOk_rowSynWait : RowOk c q rowSynWait := fun s k h => by
  unfold rowSynWait
  dsimp -zeta only [opDef, fixedRow]
  split
  · exact trivial
  · exact ite_ok trivial (by
      split
      · rename_i u7 e8
        have hs9 : VerdictOk c q u7 := verdictOk_opPrecheck _ e8
        exact hs9
      · exact ite_ok h (ite_ok h (ite_ok (kept_setObj h) (ite_ok (kept_with h) (kept_with (kept_modObj h))))))

theorem rowOk_rowSynQuery : RowOk c q rowSynQuery := fun s k h => by
  unfold rowSynQuery
  dsimp -zeta only [opDef, fixedRow]
  exact ite_ok trivial (ite_ok trivial (ite_ok h h))

theorem kept_decodeRefuse {s : State} {a : Nat} {liv : Byte} (h : Canon c q s) : Canon c q (decodeRefuse s a liv) :=
  kept_logF h

theorem kept_fwRefuse {s : State} {t : FwTarget} {liv : Byte} {off : Nat} {k : Kind} (h : Canon c q s) : Canon c q
    (fwRefuse s t liv off k) := by
  unfold fwRefuse
  exact kept_modFwl (kept_ite h (kept_closeRun h))

theorem kept_firewalled {s : State} {p : Spot} {liv : Byte} {len : Nat} {k : Kind} (h : Canon c q s) (u : State)
    (hu : firewalled s p liv len k = some u) : Canon c q u := by
  unfold firewalled at hu
  split at hu
  · cases hu
    exact kept_fwRefuse h
  · split at hu
    · cases hu
      exact h
    · cases hu

theorem verdictOk_namedRange {s : State} {k : Pkt} {addr len idx : Nat} {ok : Bool} {kind : Kind} (h : Canon c q s) (v : Verdict)
    (hv : namedRange s k addr len ok kind idx = some v) : VerdictOk c q v := by
  unfold namedRange at hv
  dsimp only at hv
  split at hv
  · cases hv
    exact kept_decodeRefuse h
  · obtain ⟨t, ht, rfl⟩ := Option.map_eq_some_iff.1 hv
    exact kept_firewalled h t ht

theorem kept_abandonRebind {s : State} {g : EngId} (h : Canon c q s) : Canon c q (abandonRebind s g) :=
  kept_ite (kept_completeDefers (kept_with h)) h

theorem kept_orphanObj {s : State} {k : Nat} (h : Canon c q s) : Canon c q (orphanObj s k) :=
  kept_forAll (kept_with (kept_setObj h)) (fun _ _ h1 => kept_releaseWaiter h1)

theorem kept_orphanDie {s : State} {n : Nat} (h : Canon c q s) : Canon c q (orphanDie s n) :=
  kept_forAll (kept_forAll h (fun _ _ h1 => kept_orphanObj h1)) (fun _ _ h2 => kept_logF h2)

theorem kept_loseQueues {s : State} {n : Nat} (h : Canon c q s) : Canon c q (loseQueues s n) :=
  kept_forAll h (fun _ _ h1 => kept_modQueue h1)

theorem kept_lostTable {s : State} {n : Nat} (h : Canon c q s) : Canon c q (lostTable s n) :=
  kept_ite (kept_with h) (kept_ite (kept_with h) h)

theorem kept_discard {s : State} {gone : List Issued} (h : Canon c q s) : Canon c q (discard s gone) :=
  kept_forAll (kept_setDis h) (fun _ _ h1 => kept_modWb h1)

theorem kept_loseWork {s : State} {mine : List EngId} (h : Canon c q s) : Canon c q (loseWork s mine) :=
  kept_discard h

theorem kept_setPage {s : State} {i : Nat} {p : Page} (h : Canon c q s) : Canon c q (setPage s i p) :=
  kept_with h

theorem kept_modPage {s : State} {i : Nat} {f : Page → Page} (h : Canon c q s) : Canon c q (modPage s i f) :=
  kept_setPage h

theorem kept_losePages {s : State} {n : Nat} (h : Canon c q s) : Canon c q (losePages s n) :=
  kept_forAll h (fun _ _ h1 => kept_modPage h1)

theorem kept_requeueSets {s : State} {n : DieId} (h : Canon c q s) : Canon c q (requeueSets s n) := by
  unfold requeueSets
  exact kept_setDis h

theorem kept_loseState {s : State} {n : DieId} (h : Canon c q s) : Canon c q (loseState s n) :=
  kept_losePages (kept_requeueSets (kept_lostTable (kept_loseWork (kept_ite (kept_logF (kept_loseQueues
      (kept_forAll (kept_with (kept_orphanDie (kept_with (kept_with (kept_forAll h (fun _ _ h1 => kept_abandonRebind h1))))))
      (fun _ _ h2 => kept_serveObj h2)))) (kept_loseQueues (kept_forAll (kept_with (kept_orphanDie
      (kept_with (kept_with (kept_forAll h (fun _ _ h3 => kept_abandonRebind h3)))))) (fun _ _ h4 => kept_serveObj h4)))))))

theorem kept_loseDie {s : State} {n : DieId} {counted : Bool} {reaction : Nat} (h : Canon c q s) : Canon c q
    (loseDie s n counted reaction) :=
  kept_resetDie (kept_loseState (kept_ite (kept_logF (kept_ite (kept_modDie (kept_modDie h (fun _ h1 => h1)) (fun _ h2 => h2))
      (kept_modDie h (fun _ h3 => h3)))) (kept_ite (kept_modDie (kept_modDie h (fun _ h4 => h4)) (fun _ h5 => h5))
      (kept_modDie h (fun _ h6 => h6)))))

theorem kept_faultIod {s : State} (h : Canon c q s) : Canon c q (faultIod s) :=
  kept_logF (kept_restartIod h)

theorem kept_timeOut {s : State} {u : UnitId} (h : Canon c q s) : Canon c q (timeOut s u) := by
  unfold timeOut
  extract_lets s1
  have hs1 : Canon c q s1 := kept_setDis h
  split
  · exact kept_ite (kept_loseDie (kept_logF hs1)) (kept_logF hs1)
  · exact kept_ite (kept_faultIod (kept_logF hs1)) (kept_logF hs1)
  · exact kept_logF hs1

theorem admitOk_grants {s : State} {liv : Byte} {addr len : Nat} {k : Kind} {src : Initiator} (h : Canon c q s) : AdmitOk c q
    (grants s liv addr len k src) := by
  unfold grants
  split
  · exact kept_decodeRefuse h
  · exact ite_ok (kept_timeOut (kept_settleFor h)) (by
      split
      · rename_i u7 e8
        have hs9 : Canon c q u7 := kept_firewalled (kept_settleFor h) _ e8
        exact hs9
      · exact ite_ok (kept_settleFor h) (kept_settleFor h))

theorem admitOk_admitPkt {s : State} {k : Pkt} {addr len : Nat} {kind : Kind} (h : Canon c q s) :
    AdmitOk c q (admitPkt s k addr len kind) := by
  unfold admitPkt
  refine ite_ok (admitOk_grants h) ?_
  split
  · exact kept_decodeRefuse h
  · cases e : firewalled s _ (ctxLivery s (pktCtx k)) 4 kind with
    | none => exact h
    | some t => exact kept_firewalled h t e

theorem verdictOk_refusedAt {st : Byte} {idx : Nat} {s : State} (h : Canon c q s) : VerdictOk c q (refusedAt st idx s) :=
  ite_ok h h

theorem kept_pieceOf {x : Island} {ep : Nat} {a : Access} (h : IslOk c x) : IslOk c (pieceOf x ep a).1 := by
  unfold pieceOf
  extract_lets off
  split
  · exact h
  · dsimp only
    exact ⟨memOk_memWr h.1, h.2⟩

theorem kept_servePiece {s : State} {i : Isl} (h : Canon c q s) : Canon c q (servePiece s i) := by
  unfold servePiece
  split
  · exact h
  · exact kept_ite (kept_emit (kept_setIsl (kept_ite (kept_fresh h) h) (kept_pieceOf (islOk_isl h))))
        (kept_setIsl (kept_ite (kept_fresh h) h) (kept_pieceOf (islOk_isl h)))

theorem kept_servePieces {s : State} {i : Isl} (h : Canon c q s) : Canon c q (servePieces s i) :=
  kept_foldl h (fun _ _ h1 => kept_servePiece h1)

theorem kept_latchSet {s : State} {p : PairId} {w : Word} (h : Canon c q s) : Canon c q (latchSet s p w) :=
  kept_with h

theorem kept_readLo {s : State} {p : PairId} (h : Canon c q s) : Canon c q (readLo s p).2 := by
  unfold readLo
  dsimp only
  exact kept_fresh (kept_latchSet h)

theorem kept_latchClear {s : State} {p : PairId} (h : Canon c q s) : Canon c q (latchClear s p) :=
  kept_with h

theorem kept_readHi {s : State} {p : PairId} (h : Canon c q s) : Canon c q (readHi s p).2 := by
  unfold readHi
  extract_lets a
  split
  · dsimp only
    exact kept_latchClear h
  · exact h

theorem kept_readReg {s : State} {t : FwTarget} {o : Nat} (h : Canon c q s) : Canon c q (readReg s t o).2 := by
  unfold readReg
  split
  · exact kept_readLo h
  · exact kept_readHi h
  · exact h

theorem kept_readRegs {s : State} {t : FwTarget} {n o : Nat} (h : Canon c q s) : Canon c q (readRegs s t n o).2 := by
  induction n generalizing s o with
  | zero => exact h
  | succ n ih => exact ih (kept_readReg h)

theorem kept_readSpot {s : State} {p : Spot} {len : Nat} (h : Canon c q s) : Canon c q (readSpot s p len).2 := by
  unfold readSpot
  split
  · dsimp only
    exact kept_readRegs h
  · exact h
  · dsimp only
    exact kept_fresh h
  · dsimp only
    exact kept_fresh h
  · exact h
  · dsimp only
    exact kept_fresh h
  · exact h

theorem rowOk_rowMemRead : RowOk c q rowMemRead := fun s k h => by
  unfold rowMemRead
  dsimp -zeta only [opDef, fixedRow]
  extract_lets +onlyGivenNames _ n _
  refine ite_ok trivial ?_
  split
  · exact verdictOk_namedRange h _ ‹_›
  · refine ite_ok trivial ?_
    have ha := admitOk_admitPkt (k := k) (addr := par64 k 0) (len := parN k 2) (kind := .read) h
    split
    · exact verdictOk_refusedAt (kept_of_refused ha ‹_›)
    · rename_i p t e
      have ht := kept_of_spot ha e
      refine ite_ok ht ?_
      extract_lets u
      have hu : Canon c q u := by
        unfold u
        split
        · exact kept_servePieces ht
        · exact kept_servePieces ht
        · exact ht
      clear_value u
      split
      · rename_i d _
        have hg : Canon c q (hbmGet u d .spine (ctxLivery u (pktCtx k)) p.off (parN k 2)).2 := kept_hbmGet hu
        split
        · rename_i e
          exact kept_of_snd hg e
        · rename_i e
          exact kept_of_snd hg e
      · exact kept_readSpot hu

theorem kept_profileWrite {s : State} {v : Word} (h : Canon c q s) : Canon c q (profileWrite s v) :=
  kept_ite (kept_setStg h) (kept_setStg h)

theorem kept_writeStg {s : State} {o : Nat} {v : Word} (h : Canon c q s) : Canon c q (writeStg s o v) := by
  unfold writeStg
  split
  · exact kept_setStg h
  · exact kept_setStg h
  · exact kept_profileWrite h
  · exact h

theorem kept_ringBell {s : State} {q' : Nat} {tail : Word} (h : Canon c q s) : Canon c q (ringBell s q' tail) :=
  kept_ite (kept_logF (kept_with (kept_syncQueue h))) (kept_setQueue (kept_syncQueue h))

theorem kept_writeQmg {s : State} {o : Nat} {v : Word} (h : Canon c q s) : Canon c q (writeQmg s o v) := by
  unfold writeQmg
  split
  · exact kept_with h
  · exact kept_with h
  · exact kept_ringBell h
  · exact h

theorem kept_clrHwm {s : State} (h : Canon c q s) : Canon c q (clrHwm s) :=
  kept_setKpm h

theorem kept_writeKpm {s : State} {o : Nat} {v : Word} (h : Canon c q s) : Canon c q (writeKpm s o v) := by
  unfold writeKpm
  split
  · exact kept_setKpm h
  · exact kept_ite (kept_clrHwm h) h
  · exact h

theorem mplOk_mplStatClr {m : Mpl} {v : Word} (h : MplOk c m) : MplOk c (mplStatClr m v) :=
  h

theorem mplOk_mplClrck {m : Mpl} (h : MplOk c m) : MplOk c (mplClrck m) :=
  h

theorem kept_commitMpl {s : State} (h : Canon c q s) : Canon c q (commitMpl s) :=
  kept_ite (kept_setMpl h (fun _ h1 => h1)) (kept_setMpl h (fun _ h2 => h2))

theorem mplOk_commitKept {m : Mpl} {ws : List Word} (h : MplOk c m) : MplOk c (commitKept m ws) :=
  ite_ok h h

theorem kept_flushMpl {s : State} (h : Canon c q s) : Canon c q (flushMpl s) := by
  unfold flushMpl
  split
  · exact kept_ite (kept_setMpl h (fun _ h4 => mplOk_commitKept h4)) h
  · exact h

theorem kept_mplCommitNow {s : State} (h : Canon c q s) : Canon c q (mplCommitNow s) :=
  kept_ite (kept_setMpl h (fun _ h1 => h1)) (kept_commitMpl (kept_flushMpl h))

theorem kept_writeMpl {s : State} {o : Nat} {v : Word} (h : Canon c q s) : Canon c q (writeMpl s o v) := by
  unfold writeMpl
  split
  · exact kept_setMpl h (fun _ h2 => mplOk_mplStatClr h2)
  · exact kept_ite (kept_mplCommitNow (kept_ite (kept_setMpl h (fun _ h4 => mplOk_mplClrck h4)) h))
        (kept_ite (kept_setMpl h (fun _ h5 => mplOk_mplClrck h5)) h)
  · exact elim_ok h (fun _ => kept_setMpl h (fun _ h9 => h9))

theorem kept_commitFus {s : State} (h : Canon c q s) : Canon c q (commitFus s) :=
  kept_ite (kept_setFus h (fun _ h1 => h1)) (kept_setFus h (fun _ h2 => h2))

theorem fusOk_fusKept {u : Fus} {ws : List Word} {ok : Bool} (h : FusOk c u) : FusOk c (fusKept u ws ok) :=
  ite_ok h h

theorem kept_flushFus {s : State} (h : Canon c q s) : Canon c q (flushFus s) := by
  unfold flushFus
  split
  · exact kept_ite (kept_setFus h (fun _ h4 => fusOk_fusKept h4)) h
  · exact h

theorem kept_fusCommitNow {s : State} (h : Canon c q s) : Canon c q (fusCommitNow s) :=
  kept_ite (kept_setFus h (fun _ h1 => h1)) (kept_commitFus (kept_flushFus h))

theorem kept_writeFus {s : State} {o : Nat} {v : Word} (h : Canon c q s) : Canon c q (writeFus s o v) := by
  have hp (i : Nat) : Canon c q (setFus s (fun u => { u with shadow := fusMask (u.shadow.set i v) })) := kept_setFus h fun _ h => h
  unfold writeFus
  split
  · exact kept_setFus h fun _ h => h
  · exact kept_ite (kept_fusCommitNow h) h
  · split
    · exact hp _
    · exact hp _
    · exact h

theorem kept_setClk {s : State} {f : Clk → Clk} (h : Canon c q s) : Canon c q (setClk s f) :=
  kept_with h

theorem kept_writeFwl {s : State} {n : Nat} {t : Nat → FwTarget} {o : Nat} {v : Word} (h : Canon c q s) : Canon c q (writeFwl s n t o v)
    :=
  kept_ite (kept_modFwl h) h

theorem kept_setIod {s : State} {f : Iod → Iod} (h : Canon c q s) : Canon c q (setIod s f) :=
  kept_with h

theorem kept_writeHpt {s : State} {o : Nat} {v : Word} (h : Canon c q s) : Canon c q (writeHpt s o v) := by
  unfold writeHpt
  split
  · exact kept_with h
  · exact kept_with h
  · exact kept_setHpt h
  · exact h

theorem kept_writeIod {s : State} {t o : Nat} {v : Word} (h : Canon c q s) : Canon c q (writeIod s t o v) := by
  unfold writeIod
  split
  · exact kept_writeStg h
  · exact kept_writeQmg h
  · exact kept_ite (kept_with h) h
  · exact kept_writeKpm h
  · exact kept_writeMpl h
  · exact kept_writeFus h
  · exact kept_modCvu h
  · exact kept_ite (kept_setClk h) h
  · exact kept_writeFwl h
  · exact kept_ite (kept_setIod h) h
  · exact kept_writeHpt h
  · exact kept_ite (kept_setIod h) h
  · exact kept_ite (kept_setIod h) h
  · exact kept_ite (kept_setIod h) (kept_ite (kept_setIod h) h)
  · exact kept_modEdge h
  · exact kept_modEdge h
  · exact h

theorem engOk_teStatClr {e : Engine} {v : Word} (h : EngOk c e) : EngOk c (teStatClr e v) :=
  h

theorem engOk_teCfgSet {e : Engine} {v : Word} (h : EngOk c e) : EngOk c (teCfgSet e v) :=
  ite_ok h (ite_ok h h)

theorem engOk_clrChk {e : Engine} (h : EngOk c e) : EngOk c (clrChk e) :=
  h

theorem engOk_clrNum {e : Engine} (h : EngOk c e) : EngOk c (clrNum e) :=
  h

theorem engOk_writeTe {e : Engine} {o : Nat} {v : Word} (h : EngOk c e) : EngOk c (writeTe e o v) := by
  unfold writeTe
  split
  · exact engOk_teStatClr h
  · exact engOk_teCfgSet h
  · exact ite_ok (engOk_clrChk h) h
  · exact ite_ok (engOk_clrNum h) h
  · exact h
  · exact h

theorem kept_hbmAnswer {s : State} {n : Nat} {r : HeldRead} (h : Canon c q s) : Canon c q (hbmAnswer s n r) := by
  unfold hbmAnswer
  extract_lets s1
  have hs1 : Canon c q s1 := kept_correct (kept_refreshFor h)
  split
  · exact kept_emit hs1
  · exact kept_emit (kept_fresh (kept_ueEvents hs1))

theorem kept_settleMct {s : State} {n : Nat} (h : Canon c q s) : Canon c q (settleMct s n) :=
  kept_forAll (kept_modMct (kept_drainAll h)) (fun _ _ h1 => kept_hbmAnswer h1)

theorem kept_commitMct {s : State} {n : Nat} (h : Canon c q s) : Canon c q (commitMct s n) :=
  kept_ite (kept_ite (kept_modMct (kept_settleMct h)) (kept_modDie (kept_fresh (kept_settleMct h)) (fun _ h1 => ⟨memOk_empty, h1.2⟩)))
      (kept_modMct h)

theorem kept_writeMct {s : State} {n : DieId} {o : Nat} {v : Word} (h : Canon c q s) : Canon c q (writeMct s n o v) := by
  unfold writeMct
  split
  · exact kept_modMct h
  · exact kept_modMct h
  · exact kept_modMct h
  · exact kept_ite (kept_commitMct (kept_ite (kept_modMct h) h)) (kept_ite (kept_modMct h) h)
  · exact h

theorem dieOk_lnkStatClr {d : Die} {v : Word} (h : DieOk c d) : DieOk c (lnkStatClr d v) :=
  h

theorem kept_lnkClr {s : State} {n : DieId} (h : Canon c q s) : Canon c q (lnkClr s n) :=
  kept_with (kept_modDie h (fun _ h1 => h1))

theorem kept_writeDie {s : State} {n : DieId} {t o : Nat} {v : Word} (h : Canon c q s) : Canon c q (writeDie s n t o v) :=
  kept_ite (kept_modEng h (fun _ h1 => engOk_writeTe h1)) (by
    split
    · exact kept_writeMct h
    · exact kept_ite (kept_modDie h (fun _ h4 => dieOk_lnkStatClr h4)) (kept_ite (kept_lnkClr h) h)
    · exact kept_writeFwl h
    · exact h)

theorem islOk_sisStatClr {x : Island} {v : Word} (h : IslOk c x) : IslOk c (sisStatClr x v) :=
  h

theorem islOk_clrSis {x : Island} (h : IslOk c x) : IslOk c (clrSis x) :=
  h

theorem kept_beatIsl {s : State} {i : Isl} {now : Nat} (h : Canon c q s) : Canon c q (beatIsl s i now) :=
  kept_modIsl h (fun _ h1 => h1)

theorem islOk_secStatClr {x : Island} {v : Word} (h : IslOk c x) : IslOk c (secStatClr x v) :=
  h

theorem kept_writeIsl {s : State} {i : Isl} {t o : Nat} {v : Word} (h : Canon c q s) : Canon c q (writeIsl s i t o v) := by
  unfold writeIsl
  split
  · exact kept_ite (kept_modIsl h (fun _ h2 => islOk_sisStatClr h2)) (kept_ite (kept_ite (kept_beatIsl
        (kept_ite (kept_modIsl h (fun _ h3 => islOk_clrSis h3)) h)) (kept_ite (kept_modIsl h (fun _ h4 => islOk_clrSis h4)) h)) h)
  · exact kept_ite (kept_modIsl h (fun _ h6 => islOk_secStatClr h6)) h
  · exact kept_ite (kept_modIsl h (fun _ h8 => h8)) h
  · exact kept_writeFwl h
  · exact h

theorem kept_writeReg {s : State} {t : FwTarget} {o : Nat} {v : Word} (h : Canon c q s) : Canon c q (writeReg s t o v) := by
  unfold writeReg
  split
  · exact kept_writeIod h
  · exact kept_writeDie h
  · exact kept_writeIsl h

theorem kept_writeRegs {s : State} {t : FwTarget} {o : Nat} {vs : List Word} (h : Canon c q s) : Canon c q (writeRegs s t o vs) := by
  induction vs generalizing s o with
  | nil => exact h
  | cons v r ih => exact ih (kept_writeReg h)

theorem kept_releaseWrite {s : State} {w : HeldWrite} (h : Canon c q s) : Canon c q (releaseWrite s w) :=
  kept_setMpl h (fun _ h1 => ⟨zeroOk_memWr h1.1, h1.2.1, h1.2.2⟩)

theorem kept_writeMplMem {s : State} {w : HeldWrite} (h : Canon c q s) : Canon c q (writeMplMem s w).2 := by
  unfold writeMplMem
  extract_lets occ
  split
  · dsimp only
    exact kept_setMpl h (fun _ h2 => h2)
  · split
    · dsimp only
      exact kept_setMpl h (fun _ h5 => h5)
    · dsimp only
      exact kept_releaseWrite h

theorem kept_modStream {s : State} {n : Nat} {f : Stream → Stream} (h : Canon c q s) : Canon c q (modStream s n f) :=
  kept_setFus h (fun _ h1 => h1)

theorem kept_publishWord {s : State} {n : Nat} {w : Word} {now : Nat} (h : Canon c q s) : Canon c q (publishWord s n w now) := by
  unfold publishWord
  exact kept_modStream (kept_setFus h (fun _ h1 => memOk_memWrW h1))

theorem kept_writeFusMem {s : State} {w : HeldWrite} (h : Canon c q s) : Canon c q (writeFusMem s w).2 := by
  unfold writeFusMem
  split
  · dsimp only
    exact kept_publishWord h
  · split
    · dsimp only
      exact kept_setFus h (fun _ h4 => h4)
    · dsimp only
      exact kept_setFus h (fun _ h6 => memOk_memWr h6)

theorem kept_writeSpot {s : State} {p : Spot} {src : Initiator} {owed : Bool} {liv : Byte} {data : List Byte} (h : Canon c q s) : Canon c
    q (writeSpot s p src owed liv data).2 := by
  unfold writeSpot
  extract_lets w
  split
  · dsimp only
    exact kept_writeRegs h
  · exact kept_writeMplMem h
  · exact kept_writeFusMem h
  · dsimp only
    exact kept_modIsl h (fun _ h11 => ⟨memOk_memWr h11.1, h11.2⟩)
  · exact h

theorem verdictOk_putRange {s : State} {k : Pkt} {q' : Spot} {data : List Byte} (h : Canon c q s) : VerdictOk c q (putRange s k q' data)
    := by
  unfold putRange
  extract_lets liv
  split
  · split
    · rename_i u5 e6
      have hu5 := kept_of_snd (kept_hbmPut h) e6
      exact hu5
    · rename_i u9 e10
      have hu9 := kept_of_snd (kept_hbmPut h) e10
      exact hu9
  · exact kept_writeSpot (kept_servePieces h)
  · exact kept_writeSpot h

theorem rowOk_rowMemWrite : RowOk c q rowMemWrite := fun s k h => by
  unfold rowMemWrite
  dsimp -zeta only [opDef, fixedRow]
  exact ite_ok trivial (by
    split
    · rename_i u2 e3
      have hs4 : VerdictOk c q u2 := verdictOk_namedRange h _ e3
      exact hs4
    · split
      · rename_i e10
        have hs11 := kept_of_refused (admitOk_admitPkt h) e10
        exact verdictOk_refusedAt hs11
      · rename_i e15
        have hs16 := kept_of_spot (admitOk_admitPkt h) e15
        exact ite_ok hs16 (verdictOk_putRange hs16))

theorem rowOk_rowMemFill : RowOk c q rowMemFill := fun s k h => by
  unfold rowMemFill
  dsimp -zeta only [opDef, fixedRow]
  exact ite_ok trivial (by
    split
    · rename_i u2 e3
      have hs4 : VerdictOk c q u2 := verdictOk_namedRange h _ e3
      exact hs4
    · exact ite_ok trivial (by
        split
        · rename_i e10
          have hs11 := kept_of_refused (admitOk_admitPkt h) e10
          exact verdictOk_refusedAt hs11
        · rename_i e15
          have hs16 := kept_of_spot (admitOk_admitPkt h) e15
          exact ite_ok hs16 (verdictOk_putRange hs16)))

theorem rowOk_rowMemCopy : RowOk c q rowMemCopy := fun s k h => by
  unfold rowMemCopy
  dsimp -zeta only [opDef, fixedRow]
  extract_lets a
  split
  · exact trivial
  · split
    · rename_i u300 e301
      have hs302 : VerdictOk c q u300 := verdictOk_namedRange h _ e301
      exact hs302
    · split
      · exact trivial
      · split
        · rename_i u378 e379
          have hs380 : VerdictOk c q u378 := verdictOk_namedRange h _ e379
          exact hs380
        · split
          · exact trivial
          · split
            · exact trivial
            · split
              · rename_i e430
                have hs431 := kept_of_refused (admitOk_admitPkt h) e430
                exact verdictOk_refusedAt hs431
              · rename_i e435
                have hs436 := kept_of_spot (admitOk_admitPkt h) e435
                split
                · rename_i e440
                  have hs441 := kept_of_refused (admitOk_admitPkt hs436) e440
                  exact verdictOk_refusedAt hs441
                · rename_i e445
                  have hs446 := kept_of_spot (admitOk_admitPkt hs436) e445
                  exact ite_ok hs446 (kept_setDis hs446)

theorem rowOk_rowMctCommit : RowOk c q rowMctCommit := fun s k h => by
  unfold rowMctCommit
  dsimp -zeta only [opDef, fixedRow]
  exact ite_ok trivial (ite_ok trivial (ite_ok h (kept_forAll h (fun _ _ h1 => kept_commitMct h1))))

theorem kept_allocPage {s : State} {z f n d x : Nat} {cow : Option Nat} (h : Canon c q s) (u : Nat × State)
    (hu : allocPage s z f n d x cow = some u) : Canon c q u.2 := by
  unfold allocPage at hu
  split at hu
  · cases hu
  · split at hu
    · cases hu
    · dsimp only at hu
      rw [← Option.some.inj hu]
      dsimp only
      exact kept_setKpm (kept_setPage (kept_fresh h))

theorem kept_allocMany {z f n d x k : Nat} {s : State} {acc : List Nat} (h : Canon c q s) (u : List Nat × State)
    (hu : allocMany z f n d x k s acc = some u) : Canon c q u.2 := by
  induction k generalizing s acc with
  | zero =>
    cases hu
    exact h
  | succ k ih =>
    unfold allocMany at hu
    split at hu
    · rename_i e
      exact ih (kept_allocPage h _ e) hu
    · cases hu

theorem kept_noAlloc {s : State} (h : Canon c q s) : Canon c q (noAlloc s) :=
  kept_setKpm h

theorem rowOk_rowKvAlloc : RowOk c q rowKvAlloc := fun s k h => by
  unfold rowKvAlloc
  dsimp -zeta only [opDef, fixedRow]
  exact ite_ok trivial (ite_ok trivial (ite_ok trivial (by
    split
    · exact kept_noAlloc h
    · rename_i u5 e6
      have hs7 : Canon c q u5 := kept_allocMany h _ e6
      exact ite_ok h hs7)))

theorem kept_kvEach {s : State} {op : State → Nat → Nat × Byte × State} {is : List Word} (h : Canon c q s)
    (hf : ∀ u n, Canon c q u → Canon c q (op u n).2.2) : Canon c q (kvEach s op is).2.2 := by
  have hl (l : List Word) (x : List Word × List Byte × State) (hx : Canon c q x.2.2) : Canon c q (l.foldl
      (fun (a : List Word × List Byte × State) w =>
        let r := op a.2.2 w.toNat
        (a.1 ++ [toW r.1], a.2.1 ++ [r.2.1], r.2.2)) x).2.2 := by
    induction l generalizing x with
    | nil => exact hx
    | cons w r ih => exact ih _ (hf _ _ hx)
  exact hl is _ h

theorem rowOk_kvList {code : Nat} {a : Bool} {op : State → Nat → Nat × Byte × State}
    (hf : ∀ u n, Canon c q u → Canon c q (op u n).2.2) : RowOk c q (kvList code a op) := fun s k h => by
  unfold kvList
  dsimp -zeta only [opDef]
  split
  · exact trivial
  · exact ite_ok trivial (ite_ok h (kept_kvEach h hf))

theorem kept_dropRef {s : State} {i : Nat} (h : Canon c q s) : Canon c q (dropRef s i).2.2 := by
  unfold dropRef
  extract_lets p
  split
  · dsimp only
    exact kept_setKpm h
  · split
    · exact h
    · dsimp only
      exact kept_setPage h

theorem rowOk_rowKvFree : RowOk c q rowKvFree := rowOk_kvList fun _ _ h => kept_dropRef h

theorem kept_addRef {s : State} {i : Nat} (h : Canon c q s) : Canon c q (addRef s i).2.2 := by
  unfold addRef
  extract_lets p
  split
  · dsimp only
    exact kept_setKpm (kept_setPage h)
  · dsimp only
    exact kept_setPage h

theorem rowOk_rowKvShare : RowOk c q rowKvShare := rowOk_kvList fun _ _ h => kept_addRef h

theorem rowOk_rowKvQuery : RowOk c q rowKvQuery := fun s k h => by
  unfold rowKvQuery
  dsimp -zeta only [opDef, fixedRow]
  exact ite_ok trivial (ite_ok trivial (ite_ok h h))

theorem rowOk_rowKvStats : RowOk c q rowKvStats := fun s k h => by
  unfold rowKvStats
  dsimp -zeta only [opDef, fixedRow]
  exact h

theorem rowOk_rowMplCfg : RowOk c q rowMplCfg := fun s k h => by
  unfold rowMplCfg
  dsimp -zeta only [opDef, fixedRow]
  exact ite_ok trivial (by
    split
    · exact trivial
    · exact ite_ok trivial (kept_setMpl (kept_flushMpl h) (fun _ h6 => h6)))

theorem rowOk_rowMplCandidates : RowOk c q rowMplCandidates := fun s k h => by
  unfold rowMplCandidates
  dsimp -zeta only [opDef, fixedRow]
  exact ite_ok trivial (ite_ok trivial (ite_ok trivial (ite_ok h h)))

theorem rowOk_rowMplStatus : RowOk c q rowMplStatus := fun s k h => by
  unfold rowMplStatus
  dsimp -zeta only [opDef, fixedRow]
  exact ite_ok trivial h

theorem rowOk_rowFusCfg : RowOk c q rowFusCfg := fun s k h => by
  unfold rowFusCfg
  dsimp -zeta only [opDef, fixedRow]
  exact ite_ok trivial (by
    split
    · exact trivial
    · exact ite_ok trivial (kept_setFus h (fun _ h6 => h6)))

theorem verdictOk_hostMask {set : Bool} {s : State} {k : Pkt} (h : Canon c q s) : VerdictOk c q (hostMask set s k) :=
  ite_ok trivial (ite_ok trivial (ite_ok h (kept_setFus h (fun _ h1 => h1))))

theorem rowOk_rowFusMask : RowOk c q rowFusMask := fun s k h => by
  unfold rowFusMask
  dsimp -zeta only [opDef, fixedRow]
  exact verdictOk_hostMask h

theorem rowOk_rowFusUnmask : RowOk c q rowFusUnmask := fun s k h => by
  unfold rowFusUnmask
  dsimp -zeta only [opDef, fixedRow]
  exact verdictOk_hostMask h

theorem rowOk_rowFusTracks : RowOk c q rowFusTracks := fun s k h => by
  unfold rowFusTracks
  dsimp -zeta only [opDef, fixedRow]
  exact ite_ok trivial (ite_ok trivial (ite_ok trivial (ite_ok trivial (ite_ok h h))))

theorem rowOk_rowFusReport : RowOk c q rowFusReport := fun s k h => by
  unfold rowFusReport
  dsimp -zeta only [opDef, fixedRow]
  exact ite_ok trivial (ite_ok trivial h)

theorem rowOk_rowFusClear : RowOk c q rowFusClear := fun s k h => by
  unfold rowFusClear
  dsimp -zeta only [opDef, fixedRow]
  exact ite_ok trivial (kept_setFus h (fun _ h1 => h1))

theorem kept_putSlot {s : State} {n : Nat} {ws : List Word} (h : Canon c q s) : Canon c q (putSlot s n ws) :=
  kept_setMpl h (fun _ h1 => ⟨zeroOk_memWrW h1.1, h1.2.1, h1.2.2⟩)

theorem kept_clearSlot {s : State} {n : Nat} (h : Canon c q s) : Canon c q (clearSlot s n) :=
  kept_putSlot h

theorem kept_startSearch {s : State} (h : Canon c q s) : Canon c q (startSearch s) :=
  kept_setMpl (kept_fresh (kept_forAll h (fun _ _ h1 => kept_clearSlot h1))) (fun _ h2 => h2)

theorem kept_beginSearch {s : State} {src : SearchSrc} {pkt : Option Pkt} {par : List Word} (h : Canon c q s) : Canon c q
    (beginSearch s src pkt par) := by
  unfold beginSearch
  exact kept_setMpl (kept_ite (kept_flushMpl h) (kept_startSearch (kept_flushMpl h))) (fun _ h1 => h1)

theorem rowOk_searchRow {build : Bool} : RowOk c q (searchRow build) := fun s k h => by
  unfold searchRow
  dsimp -zeta only [opDef]
  refine ite_ok trivial ?_
  split
  · exact trivial
  · exact kept_beginSearch h

theorem rowOk_rowMplSearch : RowOk c q rowMplSearch := rowOk_searchRow

theorem rowOk_rowMplSearchBuild : RowOk c q rowMplSearchBuild := rowOk_searchRow

theorem kept_laneMismatch {s : State} (h : Canon c q s) : Canon c q (laneMismatch s) :=
  kept_logF (kept_setMpl h (fun _ h1 => h1))

theorem kept_fieldWordError {s : State} (h : Canon c q s) : Canon c q (fieldWordError s) :=
  kept_logF h

theorem kept_checkEvent {s : State} {a2 : CheckEvent} (h : Canon c q s) : Canon c q (checkEvent s a2) := by
  unfold checkEvent
  split
  · exact h
  · exact kept_laneMismatch h
  · exact kept_fieldWordError h

theorem rowOk_rowMplCheck {ev : CheckEvent} : RowOk c q (rowMplCheck ev) := fun s k h => by
  unfold rowMplCheck
  dsimp -zeta only [opDef, fixedRow]
  exact ite_ok trivial (ite_ok trivial (ite_ok trivial (ite_ok h (ite_ok (kept_checkEvent (kept_fresh h)) h))))

theorem rowOk_rowMplCheckInline {ev : CheckEvent} : RowOk c q (rowMplCheckInline ev) := fun s k h => by
  unfold rowMplCheckInline
  dsimp -zeta only [opDef, fixedRow]
  exact ite_ok trivial (ite_ok trivial (ite_ok trivial (ite_ok trivial (ite_ok h (ite_ok (kept_checkEvent (kept_putSlot (kept_fresh h)))
      (kept_putSlot (kept_fresh h)))))))

theorem rowOk_rowCvuCfg : RowOk c q rowCvuCfg := fun s k h => by
  unfold rowCvuCfg
  dsimp -zeta only [opDef, fixedRow]
  exact ite_ok trivial (ite_ok trivial (by
    split
    · exact trivial
    · exact ite_ok trivial (kept_modCvu h)))

theorem rowOk_rowCvuFeed : RowOk c q rowCvuFeed := fun s k h => by
  unfold rowCvuFeed
  dsimp -zeta only [opDef, fixedRow]
  exact ite_ok trivial (ite_ok trivial (ite_ok trivial (ite_ok trivial (ite_ok h (kept_modCvu h)))))

theorem verdictOk_resultVerdict {after : Cvu → Cvu} {s : State} {k : Pkt} (h : Canon c q s) : VerdictOk c q (resultVerdict after s k) :=
  ite_ok trivial (ite_ok trivial (kept_modCvu h))

theorem rowOk_rowCvuResult : RowOk c q rowCvuResult := fun s k h => by
  unfold rowCvuResult
  dsimp -zeta only [opDef, fixedRow]
  exact verdictOk_resultVerdict h

theorem rowOk_rowCvuResultReset : RowOk c q rowCvuResultReset := fun s k h => by
  unfold rowCvuResultReset
  dsimp -zeta only [opDef, fixedRow]
  exact verdictOk_resultVerdict h

theorem verdictOk_aliveVerdict {rsv : Word} {ready : Cvu → Bool} {f : Cvu → Word → Cvu} {s : State} {k : Pkt} (h : Canon c q s) :
    VerdictOk c q (aliveVerdict rsv ready f s k) :=
  ite_ok trivial (ite_ok trivial (ite_ok trivial (ite_ok trivial (kept_setCvu h))))

theorem rowOk_rowCvuAliveRead : RowOk c q rowCvuAliveRead := fun s k h => by
  unfold rowCvuAliveRead
  dsimp -zeta only [opDef, fixedRow]
  exact verdictOk_aliveVerdict h

theorem rowOk_rowCvuAliveLoad : RowOk c q rowCvuAliveLoad := fun s k h => by
  unfold rowCvuAliveLoad
  dsimp -zeta only [opDef, fixedRow]
  exact verdictOk_aliveVerdict h

theorem rowOk_rowCvuAliveCheck : RowOk c q rowCvuAliveCheck := fun s k h => by
  unfold rowCvuAliveCheck
  dsimp -zeta only [opDef]
  have hv := verdictOk_aliveVerdict (rsv := 0xFFFFFF00) (ready := fun c => !c.send)
    (f := fun c v => cvuCheck c (BitVec.ofNat 8 (fld v 7 0))) (k := k) h
  split
  · rename_i e
    rw [e] at hv
    exact hv
  · exact hv

theorem rowOk_rowCvuAliveAdvance : RowOk c q rowCvuAliveAdvance := fun s k h => by
  unfold rowCvuAliveAdvance
  dsimp -zeta only [opDef, fixedRow]
  exact verdictOk_aliveVerdict h

theorem verdictOk_logVerdict {s : State} {k : Pkt} {i : Isl} {l : List (Nat × Entry)} {first count idx : Nat} (h : Canon c q s) :
    VerdictOk c q (logVerdict s k i l first count idx) :=
  ite_ok trivial (ite_ok trivial (ite_ok h h))

theorem rowOk_rowDiagLogRead {ramFault : Bool} : RowOk c q (rowDiagLogRead ramFault) := fun s k h => by
  unfold rowDiagLogRead
  dsimp -zeta only [opDef]
  refine ite_ok trivial (ite_ok trivial (ite_ok trivial ?_))
  have hv := verdictOk_logVerdict (k := k) (i := islBit (par k 0)) (l := (isl s (islBit (par k 0))).flog) (first := parN k 1)
    (count := parN k 2) (idx := 6) h
  split
  · rename_i e
    rw [e] at hv
    exact ite_ok (kept_ramFails hv) hv
  · exact hv

theorem rowOk_rowDiagCounters : RowOk c q rowDiagCounters := fun s k h => by
  unfold rowDiagCounters
  dsimp -zeta only [opDef, fixedRow]
  exact ite_ok trivial h

theorem rowOk_rowDiagSelftest : RowOk c q rowDiagSelftest := fun s k h => by
  unfold rowDiagSelftest
  dsimp -zeta only [opDef, fixedRow]
  exact ite_ok trivial h

theorem rowOk_rowSisStatus : RowOk c q rowSisStatus := fun s k h => by
  unfold rowSisStatus
  dsimp -zeta only [opDef, fixedRow]
  exact h

theorem verdictOk_startFlash {s : State} {k : Pkt} {bs : List Byte} (h : Canon c q s) : VerdictOk c q (startFlash s k bs) :=
  ite_ok trivial (ite_ok h (kept_modIsl h (fun _ h1 => h1)))

theorem rowOk_rowSisFlashErase : RowOk c q rowSisFlashErase := fun s k h => by
  unfold rowSisFlashErase
  dsimp -zeta only [opDef, fixedRow]
  split
  · exact trivial
  · exact ite_ok trivial (verdictOk_startFlash h)

theorem rowOk_rowSisFlashProgram : RowOk c q rowSisFlashProgram := fun s k h => by
  unfold rowSisFlashProgram
  dsimp -zeta only [opDef, fixedRow]
  extract_lets bs
  split
  · exact trivial
  · exact ite_ok trivial (verdictOk_startFlash h)

theorem rowOk_rowSisLogbook : RowOk c q rowSisLogbook := fun s k h => by
  unfold rowSisLogbook
  dsimp -zeta only [opDef, fixedRow]
  exact ite_ok trivial (ite_ok trivial (verdictOk_logVerdict h))

theorem rowOk_rowSecToken : RowOk c q rowSecToken := fun s k h => by
  unfold rowSecToken
  dsimp only [opDef]
  split
  · exact kept_logF h
  · exact kept_with (kept_bothEdge (kept_logF h))

theorem rowOk_rowSecAttest : RowOk c q rowSecAttest := fun s k h => by
  unfold rowSecAttest
  dsimp -zeta only [opDef, fixedRow]
  split
  · exact trivial
  · exact kept_modIsl (kept_fresh (kept_fresh h)) (fun _ h6 => h6)

theorem rowOk_rowSecFwOpen : RowOk c q rowSecFwOpen := fun s k h => by
  unfold rowSecFwOpen
  dsimp -zeta only [opDef, fixedRow]
  exact ite_ok trivial (ite_ok trivial (ite_ok trivial (ite_ok trivial (ite_ok trivial (ite_ok trivial (kept_with h))))))

theorem memOk_programLoad {m : Mem} {base off : Nat} {bs : List Byte} (h : MemOk c m) : MemOk c (programLoad m base off bs) :=
  memOk_memWr (memOk_foldl h (fun _ _ h1 => memOk_memWr h1))

theorem rowOk_rowSecFwWrite : RowOk c q rowSecFwWrite := fun s k h => by
  unfold rowSecFwWrite
  dsimp -zeta only [opDef, fixedRow]
  exact ite_ok trivial (ite_ok trivial (by
    split
    · exact trivial
    · exact ite_ok h (kept_with (kept_forAll h (fun _ _ h6 => kept_modIsl h6 (fun _ h7 => ⟨h7.1, memOk_programLoad h7.2⟩))))))

theorem kept_failLoad {s : State} {t : Nat} (h : Canon c q s) : Canon c q (failLoad s t) :=
  kept_with (kept_forAll (kept_ite (kept_with h) (kept_modIsl h (fun _ h1 => h1))) (fun _ _ h2 => kept_modIsl h2 (fun _ h3 => h3)))

theorem kept_orderIsl {s : State} {a2 : Isl} (h : Canon c q s) : Canon c q (orderIsl s a2) := by
  unfold orderIsl
  exact kept_modIsl (kept_resetIsl h) (fun _ h1 => ite_ok h1 h1)

theorem rowOk_rowSecFwActivate : RowOk c q rowSecFwActivate := fun s k h => by
  unfold rowSecFwActivate
  dsimp -zeta only [opDef, fixedRow]
  exact ite_ok trivial (ite_ok trivial (ite_ok trivial (by
    split
    · exact trivial
    · exact ite_ok trivial (ite_ok trivial (ite_ok (kept_failLoad h) (ite_ok (kept_with (kept_with h))
          (kept_orderIsl (kept_modIsl (kept_with h) (fun _ h6 => h6)))))))))

theorem rowOk_rowClkStatus : RowOk c q rowClkStatus := fun s k h => by
  unfold rowClkStatus
  dsimp -zeta only [opDef, fixedRow]
  exact ite_ok trivial h

theorem rowOk_rowClkSelect : RowOk c q rowClkSelect := fun s k h => by
  unfold rowClkSelect
  dsimp -zeta only [opDef, fixedRow]
  exact ite_ok trivial (ite_ok trivial (ite_ok h (kept_setClk h)))

theorem kept_setGate {s : State} {g l : Nat} {closed : Bool} (h : Canon c q s) : Canon c q (setGate s g l closed) :=
  kept_setClk h

theorem rowOk_rowClkGateOpen : RowOk c q rowClkGateOpen := fun s k h => by
  unfold rowClkGateOpen
  dsimp -zeta only [opDef, fixedRow]
  exact ite_ok trivial (ite_ok trivial (ite_ok h (ite_ok trivial (kept_setGate h))))

theorem rowOk_rowClkGateClose : RowOk c q rowClkGateClose := fun s k h => by
  unfold rowClkGateClose
  dsimp -zeta only [opDef, fixedRow]
  exact ite_ok trivial (ite_ok trivial (ite_ok h (kept_setGate h)))

theorem verdictOk_rstRun {f : State → Pkt → UnitId → Option EngId → Verdict} {s : State} {k : Pkt} (h : Canon c q s)
    (hf : ∀ u e, VerdictOk c q (f s k u e)) : VerdictOk c q (rstRun f s k) := by
  unfold rstRun
  refine ite_ok trivial (ite_ok trivial ?_)
  split
  · exact h
  · exact ite_ok trivial (ite_ok trivial (ite_ok trivial (hf _ _)))

theorem kept_rstEngine {s : State} {g : EngId} (h : Canon c q s) : Canon c q (rstEngine s g) :=
  kept_modEng h (fun _ h1 => h1)

theorem kept_resetOut {s : State} {n : DieId} (h : Canon c q s) : Canon c q (resetOut s n) :=
  kept_resetDie (kept_modDie (kept_ite (kept_loseState h) (kept_orphanDie h)) (fun _ h1 => h1))

theorem kept_rstDie {s : State} {n : DieId} (h : Canon c q s) : Canon c q (rstDie s n) :=
  kept_ite (kept_loseDie h) (kept_logF (kept_resetOut h))

theorem kept_cutOff {s : State} {i : Isl} (h : Canon c q s) : Canon c q (cutOff s i) :=
  kept_ite (kept_orderIsl (kept_failIsl h)) h

theorem kept_resetEdge {s : State} {e : Edge} (h : Canon c q s) : Canon c q (resetEdge s e) :=
  kept_ite (kept_cutOff (kept_modEdge (kept_dropLink h))) (kept_modEdge (kept_dropLink h))

theorem rowOk_rowRstUnitReset : RowOk c q rowRstUnitReset := fun s k h => by
  unfold rowRstUnitReset
  dsimp -zeta only [opDef, fixedRow]
  exact verdictOk_rstRun h (fun _ _ => by
    split
    · exact kept_rstEngine h
    · exact kept_rstDie h
    · exact kept_restartIod h
    · exact kept_resetEdge h
    · exact ite_ok trivial (kept_orderIsl h))

theorem kept_decided {s : State} {n : DieId} {g : Option EngId} {reaction : Nat} (h : Canon c q s) : Canon c q (decided s n g reaction) :=
  kept_logF h

theorem kept_readmitDie {s : State} {n : DieId} (h : Canon c q s) : Canon c q (readmitDie s n) :=
  kept_ite (kept_resetDie (kept_modDie (kept_modDie (kept_recordDie (kept_decided h)) (fun _ h1 => h1)) (fun _ h2 => h2)))
      (kept_ite (kept_modDie (kept_modDie (kept_recordDie (kept_decided h)) (fun _ h3 => h3)) (fun _ h4 => h4))
      (kept_modDie (kept_recordDie (kept_decided h)) (fun _ h5 => h5)))

theorem kept_recordEng {s : State} {g : EngId} {on : Bool} (h : Canon c q s) : Canon c q (recordEng s g on) :=
  kept_bothIsl h (fun _ h1 => h1)

theorem rowOk_rowRstUnitReadmit : RowOk c q rowRstUnitReadmit := fun s k h => by
  unfold rowRstUnitReadmit
  dsimp -zeta only [opDef, fixedRow]
  exact verdictOk_rstRun h (fun _ _ => by
    split
    · exact ite_ok h (kept_readmitDie h)
    · exact ite_ok h (kept_modEng (kept_recordEng (kept_decided h)) (fun _ h8 => h8))
    · exact ite_ok h h
    · exact ite_ok h h
    · exact ite_ok h h)

theorem rowOk_rowRstUnitRetire : RowOk c q rowRstUnitRetire := fun s k h => by
  unfold rowRstUnitRetire
  dsimp -zeta only [opDef, fixedRow]
  exact verdictOk_rstRun h (fun _ _ => by
    split
    · exact kept_ite (kept_loseDie (kept_modDie (kept_recordDie (kept_decided h)) (fun _ h4 => h4)))
          (kept_modDie (kept_with (kept_modDie (kept_recordDie (kept_decided h)) (fun _ h5 => h5))) (fun _ h6 => h6))
    · exact kept_modEng (kept_recordEng (kept_decided h)) (fun _ h11 => h11)
    · exact trivial)

theorem rowOk_rowOrpBypassClose : RowOk c q rowOrpBypassClose := fun s k h => by
  unfold rowOrpBypassClose
  dsimp -zeta only [opDef, fixedRow]
  exact ite_ok trivial (ite_ok h (ite_ok trivial (kept_modEdge h)))

theorem rowOk_rowOrpBypassOpen : RowOk c q rowOrpBypassOpen := fun s k h => by
  unfold rowOrpBypassOpen
  dsimp -zeta only [opDef, fixedRow]
  exact ite_ok trivial (ite_ok h (ite_ok trivial (kept_modEdge h)))

theorem rowOk_rowThmStatus : RowOk c q rowThmStatus := fun s k h => by
  unfold rowThmStatus
  dsimp -zeta only [opDef, fixedRow]
  exact kept_fresh h

theorem rowOk_rowThmLimits : RowOk c q rowThmLimits := fun s k h => by
  unfold rowThmLimits
  dsimp -zeta only [opDef, fixedRow]
  exact ite_ok trivial (ite_ok trivial (ite_ok trivial (ite_ok trivial (kept_bothIsl h (fun _ h1 => h1)))))

theorem rowOk_rowThmAgeing : RowOk c q rowThmAgeing := fun s k h => by
  unfold rowThmAgeing
  dsimp -zeta only [opDef, fixedRow]
  exact h

theorem rowsOk_sysRows : ∀ o ∈ sysRows, RowOk c q o := by
  simp only [sysRows, List.forall_mem_cons, List.not_mem_nil, false_implies, implies_true, and_true]
  exact ⟨rowOk_rowSysIdentity, rowOk_rowSysEcho, rowOk_rowSysAliveSync, rowOk_rowSysAlertEn, rowOk_rowStgGet, rowOk_rowStgSet,
    rowOk_rowTtOpen, rowOk_rowTtWrite, rowOk_rowTtVerify, rowOk_rowTtArm, rowOk_rowTtCancel, rowOk_rowTtStatus,
    rowOk_rowProfileSet⟩

theorem rowsOk_queueRows : ∀ o ∈ queueRows, RowOk c q o := by
  simp only [queueRows, List.forall_mem_cons, List.not_mem_nil, false_implies, implies_true, and_true]
  exact ⟨rowOk_rowWbSubmit, rowOk_rowWbStatus, rowOk_rowQQuery, rowOk_rowCtxPreempt, rowOk_rowCtxResume, rowOk_rowCtxRebind,
    rowOk_rowSynInit, rowOk_rowSynSignal, rowOk_rowSynDecrement, rowOk_rowSynWait, rowOk_rowSynQuery⟩

theorem rowsOk_memRows : ∀ o ∈ memRows, RowOk c q o := by
  simp only [memRows, List.forall_mem_cons, List.not_mem_nil, false_implies, implies_true, and_true]
  exact ⟨rowOk_rowMemRead, rowOk_rowMemWrite, rowOk_rowMemFill, rowOk_rowMemCopy, rowOk_rowMctCommit, rowOk_rowKvAlloc,
    rowOk_rowKvFree, rowOk_rowKvShare, rowOk_rowKvQuery, rowOk_rowKvStats⟩

theorem rowsOk_planRows : ∀ o ∈ planRows, RowOk c q o := by
  simp only [planRows, List.forall_mem_cons, List.not_mem_nil, false_implies, implies_true, and_true]
  exact ⟨rowOk_rowMplCfg, rowOk_rowMplCandidates, rowOk_rowMplStatus, rowOk_rowFusCfg, rowOk_rowFusMask, rowOk_rowFusUnmask,
    rowOk_rowFusTracks, rowOk_rowFusReport, rowOk_rowFusClear, rowOk_rowMplSearch, rowOk_rowMplSearchBuild, rowOk_rowMplCheck,
    rowOk_rowMplCheckInline⟩

theorem rowsOk_checkRows : ∀ o ∈ checkRows, RowOk c q o := by
  simp only [checkRows, List.forall_mem_cons, List.not_mem_nil, false_implies, implies_true, and_true]
  exact ⟨rowOk_rowCvuCfg, rowOk_rowCvuFeed, rowOk_rowCvuResult, rowOk_rowCvuResultReset, rowOk_rowCvuAliveRead,
    rowOk_rowCvuAliveLoad, rowOk_rowCvuAliveCheck, rowOk_rowCvuAliveAdvance, rowOk_rowDiagLogRead, rowOk_rowDiagCounters,
    rowOk_rowDiagSelftest, rowOk_rowSisStatus, rowOk_rowSisFlashErase, rowOk_rowSisFlashProgram, rowOk_rowSisLogbook⟩

theorem rowsOk_platRows : ∀ o ∈ platRows, RowOk c q o := by
  simp only [platRows, List.forall_mem_cons, List.not_mem_nil, false_implies, implies_true, and_true]
  exact ⟨rowOk_rowSecToken, rowOk_rowSecAttest, rowOk_rowSecFwOpen, rowOk_rowSecFwWrite, rowOk_rowSecFwActivate, rowOk_rowClkStatus,
    rowOk_rowClkSelect, rowOk_rowClkGateOpen, rowOk_rowClkGateClose, rowOk_rowRstUnitReset, rowOk_rowRstUnitReadmit,
    rowOk_rowRstUnitRetire, rowOk_rowOrpBypassClose, rowOk_rowOrpBypassOpen, rowOk_rowThmStatus, rowOk_rowThmLimits,
    rowOk_rowThmAgeing⟩

theorem rowOk_opTable (o : OpDef) (ho : o ∈ opTable) : RowOk c q o := by
  simp only [opTable, List.mem_append] at ho
  rcases ho with ((((ho | ho) | ho) | ho) | ho) | ho
  · exact rowsOk_sysRows o ho
  · exact rowsOk_queueRows o ho
  · exact rowsOk_memRows o ho
  · exact rowsOk_planRows o ho
  · exact rowsOk_checkRows o ho
  · exact rowsOk_platRows o ho

theorem kept_rowOf {k : Pkt} (u : OpDef) (hu : rowOf k = some u) : RowOk c q u :=
  rowOk_opTable u (List.mem_of_find?_eq_some hu)

theorem kept_mgtIntakeList {s : State} {i : Isl} {l : List (List Byte)} (h : Canon c q s) : Canon c q (mgtIntakeList s i l) := by
  induction l generalizing s with
  | nil => exact kept_modMgt h
  | cons b r ih =>
    unfold mgtIntakeList
    exact kept_ite (ih (kept_arrive h)) (kept_modMgt h)

theorem kept_mgtIntake {s : State} {i : Isl} (h : Canon c q s) : Canon c q (mgtIntake s i) :=
  kept_ite h (kept_mgtIntakeList h)

theorem kept_afterPkt {s : State} {p : Port} (h : Canon c q s) : Canon c q (afterPkt s p) := by
  unfold afterPkt
  extract_lets s1
  have hs1 : Canon c q s1 := kept_flush h
  split
  · exact kept_intake hs1
  · exact kept_mgtIntake hs1

theorem kept_settle {s : State} {k : Pkt} {f : Fate} (h : Canon c q s) : Canon c q (settle s k f) :=
  kept_setWaiting h

theorem kept_noteToken {s : State} {k : Pkt} {st : Byte} (h : Canon c q s) : Canon c q (noteToken s k st) :=
  kept_ite (kept_logF h) h

theorem kept_checkPkt {row : Pkt → Option OpDef} {s : State} {k : Pkt} (hr : ∀ (a : Pkt) (u : OpDef), row a = some u → RowOk c q u)
    (h : Canon c q s) : Canon c q (checkPkt row s k) := by
  unfold checkPkt
  refine kept_ite h ?_
  cases e : row k with
  | none => exact kept_settle h
  | some o =>
    have hv := hr k o e s k h
    dsimp only
    split
    · exact kept_settle (kept_noteToken h)
    · split
      · exact kept_settle h
      · rename_i e2
        rw [e2] at hv
        exact kept_settle hv
      · exact kept_settle h

theorem kept_checkAll {row : Pkt → Option OpDef} {s : State} {p : Port} (hr : ∀ (a : Pkt) (u : OpDef), row a = some u → RowOk c q u)
    (h : Canon c q s) : Canon c q (checkAll row s p) :=
  kept_afterPkt (kept_forAll h fun _ _ h => kept_checkPkt hr h)

theorem kept_leave {s : State} {k : Pkt} (h : Canon c q s) : Canon c q (leave s k) :=
  kept_setWaiting h

theorem kept_applyVerdict {s : State} {p : Pkt} {v : Verdict} (h : Canon c q s) (hv : VerdictOk c q v) : Canon c q (applyVerdict s p v) :=
    by
  cases v with
  | refuse => exact kept_reply (kept_leave h)
  | refuseIn => exact kept_reply (kept_leave hv)
  | answer => exact kept_reply (kept_leave hv)
  | later => exact kept_with (kept_leave hv)

theorem kept_carryOut {row : Pkt → Option OpDef} {p : Port} {s : State} {k : Pkt}
    (hr : ∀ (a : Pkt) (u : OpDef), row a = some u → RowOk c q u)
    (h : Canon c q s) : Canon c q (carryOut row p s k) := by
  unfold carryOut
  dsimp only
  split
  · exact h
  · rename_i o e
    exact kept_afterPkt (kept_applyVerdict h (hr _ o e _ _ h))

theorem kept_turn {row : Pkt → Option OpDef} {p : Port} {n : Nat} {s : State} (hr : ∀ (a : Pkt) (u : OpDef), row a = some u → RowOk c q u)
    (h : Canon c q s) : Canon c q (turn row p n s) :=
  turn_keeps (Canon c q) row p (fun _ h => kept_checkAll hr h) (fun _ _ h => kept_carryOut hr h) n s h

end

end Sys2Proof.Proofs

/-! What every step keeps: the packets, the timetable and the stages (95; 12). -/

namespace Sys2Proof.Proofs

open Sys2Proof.Machine Sys2Proof.Safety Sys2Proof.Laws

section
variable {c : Prop} {q : List Instr}

theorem kept_execUndefinedOpcode {p : Port} {s : State} (h : Canon c q s) : CanonOut c q (execUndefinedOpcode p s) :=
  keptOut_next (kept_ite (kept_turn (fun _ => kept_rowOf) h) h)

theorem kept_rowsWith {row : Pkt → Option OpDef} {o : OpDef} {k : Pkt} (hr : ∀ (a : Pkt) (u : OpDef), row a = some u → RowOk c q u)
    (ho : RowOk c q o) (u : OpDef) (hu : rowsWith row o k = some u) : RowOk c q u := by
  unfold rowsWith at hu
  split at hu
  · cases hu
    exact ho
  · exact hr k u hu

theorem kept_runRow {row : Pkt → Option OpDef} {o : OpDef} {p : Port} {s : State}
    (hr : ∀ (a : Pkt) (u : OpDef), row a = some u → RowOk c q u)
    (ho : RowOk c q o) (h : Canon c q s) : Canon c q (runRow row o p s) :=
  kept_ite (kept_turn (fun _ => kept_rowsWith hr ho) h) h

theorem kept_onPort {o : OpDef} {p : Port} {s : State} (ho : RowOk c q o) (h : Canon c q s) : CanonOut c q (onPort o p s) :=
  keptOut_next (kept_runRow (fun _ => kept_rowOf) ho h)

theorem kept_execSysIdentity {p : Port} {s : State} (h : Canon c q s) : CanonOut c q (execSysIdentity p s) :=
  kept_onPort rowOk_rowSysIdentity h

theorem kept_execSysEcho {p : Port} {s : State} (h : Canon c q s) : CanonOut c q (execSysEcho p s) :=
  kept_onPort rowOk_rowSysEcho h

theorem kept_execSysAliveSync {p : Port} {s : State} (h : Canon c q s) : CanonOut c q (execSysAliveSync p s) :=
  kept_onPort rowOk_rowSysAliveSync h

theorem kept_execSysAlertEn {p : Port} {s : State} (h : Canon c q s) : CanonOut c q (execSysAlertEn p s) :=
  kept_onPort rowOk_rowSysAlertEn h

theorem kept_execStgGet {p : Port} {s : State} (h : Canon c q s) : CanonOut c q (execStgGet p s) :=
  kept_onPort rowOk_rowStgGet h

theorem kept_execStgSet {p : Port} {s : State} (h : Canon c q s) : CanonOut c q (execStgSet p s) :=
  kept_onPort rowOk_rowStgSet h

theorem kept_execTtOpen {p : Port} {s : State} (h : Canon c q s) : CanonOut c q (execTtOpen p s) :=
  kept_onPort rowOk_rowTtOpen h

theorem kept_execTtWrite {p : Port} {s : State} (h : Canon c q s) : CanonOut c q (execTtWrite p s) :=
  kept_onPort rowOk_rowTtWrite h

theorem kept_execTtVerify {p : Port} {s : State} (h : Canon c q s) : CanonOut c q (execTtVerify p s) :=
  kept_onPort rowOk_rowTtVerify h

theorem kept_copyImage {s : State} {src : DieId} {img : List Byte} (h : Canon c q s) : Canon c q (copyImage s src img) :=
  kept_forAll h (fun _ _ h1 => by
    split
    · exact kept_hbmSet h1
    · exact h1)

theorem kept_execTtVerifyEnd {x : TtContents} {copyFault : Bool} {s : State} (h : Canon c q s) : CanonOut c q
    (execTtVerifyEnd x copyFault s) := by
  unfold execTtVerifyEnd
  refine keptOut_next (kept_ite h ?_)
  extract_lets +onlyGivenNames ended
  have he (t : State) (f : Tt → Tt) (h : Canon c q t) : Canon c q (ended t f) := kept_setHpt (kept_setTt h)
  clear_value ended
  split
  · exact he _ _ h
  · rename_i n base _ _
    have hg : Canon c q (hbmGet s n .spine 0x01 base s.tt.len).2 := kept_hbmGet h
    split
    · rename_i e
      exact he _ _ (kept_of_snd hg e)
    · rename_i img t e
      have ht := kept_copyImage (src := n) (img := img) (kept_of_snd hg e)
      exact kept_ite (he _ _ ht) (he _ _ ht)

theorem kept_execTtArm {p : Port} {s : State} (h : Canon c q s) : CanonOut c q (execTtArm p s) :=
  kept_onPort rowOk_rowTtArm h

theorem kept_execTtCancel {p : Port} {s : State} (h : Canon c q s) : CanonOut c q (execTtCancel p s) :=
  kept_onPort rowOk_rowTtCancel h

theorem kept_execTtStatus {p : Port} {s : State} (h : Canon c q s) : CanonOut c q (execTtStatus p s) :=
  kept_onPort rowOk_rowTtStatus h

theorem kept_execProfileSet {p : Port} {s : State} (h : Canon c q s) : CanonOut c q (execProfileSet p s) :=
  kept_onPort rowOk_rowProfileSet h

theorem kept_loadProfile {s : State} (h : Canon c q s) : Canon c q (loadProfile s) := by
  unfold loadProfile
  split
  · exact kept_ite (kept_setStg h) (kept_setStg h)
  · exact h

theorem kept_execProfileApply {s : State} (h : Canon c q s) : CanonOut c q (execProfileApply s) := by
  unfold execProfileApply
  split
  · exact keptOut_next (kept_loadProfile h)
  · exact keptOut_next h

theorem kept_switchHeld {s : State} (h : Canon c q s) : Canon c q (switchHeld s) := by
  unfold switchHeld
  exact kept_setDis (kept_dropHeld h)

theorem kept_freeObj {s : State} {k : Nat} (h : Canon c q s) : Canon c q (freeObj s k) :=
  kept_forAll (kept_setObj h) (fun _ _ h1 => kept_releaseWaiter h1)

theorem kept_freePage {s : State} {i : Nat} (h : Canon c q s) : Canon c q (freePage s i) :=
  kept_ite (kept_setKpm (kept_setPage h)) (kept_setPage h)

theorem kept_emptyPages {s : State} {c' : Nat} (h : Canon c q s) : Canon c q (emptyPages s c') :=
  kept_forAll h (fun _ _ h1 => kept_freePage h1)

theorem kept_endCtx {s : State} {c' : CtxId} (h : Canon c q s) : Canon c q (endCtx s c') :=
  kept_forAll (kept_ite (kept_completeDefers (kept_emptyPages (kept_forAll h (fun _ _ h1 => kept_freeObj h1))))
      (kept_emptyPages (kept_forAll h (fun _ _ h2 => kept_freeObj h2)))) (fun _ _ h3 => kept_abandonRebind h3)

theorem kept_resumeCtx {s : State} {k : Machine.Kept} {d : CtxDecl} (h : Canon c q s) : Canon c q (resumeCtx s k d) := by
  unfold resumeCtx
  extract_lets _ s1 _ s2 _ _ s3 s4 s5
  have h2 : Canon c q s2 := kept_forAll (kept_modCtx h) fun _ _ h => kept_setQueue h
  have h4 : Canon c q s4 := kept_forAll (kept_with h2) fun _ _ h => kept_ite (kept_setObj h) h
  have h5 : Canon c q s5 := kept_forAll h4 fun _ _ h => kept_setObj h
  clear_value s5
  exact { h5 with
    engines := fun e he => by
      obtain ⟨x, hx, rfl⟩ := List.mem_map.1 he
      exact h5.engines x hx }

theorem kept_dropTracks {s : State} (h : Canon c q s) : Canon c q (dropTracks s) :=
  kept_setFus h (fun _ h1 => h1)

theorem kept_recordActive {s : State} {t : Timetable} (h : Canon c q s) : Canon c q (recordActive s t) :=
  kept_bothIsl h (fun _ h1 => ite_ok h1 h1)

theorem kept_switchTo {s : State} {t : Timetable} (h : Canon c q s) : Canon c q (switchTo s t) := by
  unfold switchTo
  extract_lets old keep _ s1 s2 s3 _ _ _ s4 s5 s6 s7 s8 s9
  have h3 : Canon c q s3 :=
    kept_forAll (kept_forAll (kept_switchHeld h) fun _ _ h => kept_endCtx h) fun _ _ h => kept_setQueue h
  have h4 : Canon c q s4 := kept_with h3
  have h5 : Canon c q s5 := kept_ite (kept_seatTable h4) h4
  have h6 : Canon c q s6 := kept_forAll h5 fun _ _ h => by
    split
    · exact kept_resumeCtx h
    · exact kept_startCtx h
  have h7 : Canon c q s7 := kept_switchCvus (kept_loadSettings h6)
  have h8 : Canon c q s8 := kept_ite h7 (kept_dropTracks h7)
  exact kept_recordActive (kept_forAll h8 fun _ _ h => kept_modDie h fun _ h => h)

theorem kept_ttSwitch {s : State} (h : Canon c q s) : Canon c q (ttSwitch s) :=
  kept_ite (by
    split
    · exact kept_switchTo h
    · exact h) h

theorem kept_execTtSwitch {s : State} (h : Canon c q s) : CanonOut c q (execTtSwitch s) := by
  unfold execTtSwitch
  split
  · exact keptOut_next (kept_ttSwitch h)
  · exact keptOut_next h

theorem kept_discardMain {s : State} (h : Canon c q s) : Canon c q (discardMain s) :=
  kept_forAll (kept_discard h) (fun _ _ h1 => kept_modQueue (kept_syncQueue h1))

theorem kept_closeCommands {s : State} (h : Canon c q s) : Canon c q (closeCommands s) :=
  kept_forAll h (fun _ _ h1 => kept_ite h1 (by
    split
    · exact kept_finishRest h1
    · exact kept_ite (kept_modEng h1 (fun _ h7 => h7)) (kept_standAfter h1)))

theorem kept_endWait {s : State} {g : EngId} (h : Canon c q s) : Canon c q (endWait s g) := by
  unfold endWait
  dsimp only
  split
  · exact h
  · refine kept_engDone (kept_modEng ?_ fun _ h => h)
    split
    · exact kept_modObj (kept_with h)
    · exact kept_with h

theorem kept_endWaits {s : State} (h : Canon c q s) : Canon c q (endWaits s) :=
  kept_forAll (kept_forAll h (fun _ _ h1 => kept_endWait h1)) (fun _ _ h2 => kept_serveObj h2)

theorem kept_endWork {s : State} (h : Canon c q s) : Canon c q (endWork s) := by
  unfold endWork
  exact kept_setDis (kept_discardMain (kept_closeCommands (kept_endWaits (kept_setDis h))))

theorem kept_abandonMoves {s : State} (h : Canon c q s) : Canon c q (abandonMoves s) :=
  kept_forAll (kept_with (kept_ite (kept_logF (kept_with (kept_with h))) h)) (fun _ _ h1 => kept_logF (kept_with h1))

theorem kept_closeRuns {s : State} (h : Canon c q s) : Canon c q (closeRuns s) :=
  kept_forAll h (fun _ _ h1 => kept_closeRun h1)

theorem kept_countDefer {s : State} {g : EngId} (h : Canon c q s) : Canon c q (countDefer s g) :=
  kept_ite h (kept_modEng h (fun _ h1 => h1))

theorem kept_commitTiming {s : State} (h : Canon c q s) : Canon c q (commitTiming s) :=
  kept_ite h (kept_ite (kept_setStg h) (kept_setStg h))

theorem kept_noteLosses {s : State} (h : Canon c q s) : Canon c q (noteLosses s) :=
  kept_ite (kept_setStg (kept_forAll (kept_setStg h) (fun _ _ h1 => kept_ite h1 (kept_ite (kept_setStg h1)
      (kept_ite (kept_setStg h1) h1))))) (kept_forAll (kept_setStg h) (fun _ _ h2 => kept_ite h2
      (kept_ite (kept_setStg h2) (kept_ite (kept_setStg h2) h2))))

theorem kept_returnDie {s : State} {n : DieId} (h : Canon c q s) : Canon c q (returnDie s n) :=
  kept_completeDefers (kept_ite (kept_loadRegions (kept_setKpm (kept_modDie (kept_ite h (kept_restoreImage h)) (fun _ h1 => h1))))
      (kept_logF (kept_loadRegions (kept_setKpm (kept_modDie (kept_ite h (kept_restoreImage h)) (fun _ h2 => h2))))))

theorem kept_returnDies {s : State} (h : Canon c q s) : Canon c q (returnDies s) :=
  kept_forAll (kept_with h) (fun _ _ h1 => kept_returnDie h1)

theorem kept_readmitEngine {s : State} {g : EngId} (h : Canon c q s) : Canon c q (readmitEngine s g) :=
  kept_ite (kept_ite (kept_modDie (kept_completeDefers (kept_modEng h (fun _ h1 => h1))) (fun _ h2 => h2))
      (kept_completeDefers (kept_modEng h (fun _ h3 => h3)))) h

theorem kept_unbindEng {s : State} {g : Nat} (h : Canon c q s) : Canon c q (unbindEng s g) :=
  kept_ite (kept_ite (kept_modQueue (kept_syncQueue (kept_modEng h (fun _ h1 => h1)))) (kept_syncQueue (kept_modEng h (fun _ h2 => h2))))
      h

theorem kept_excludeDie {s : State} {n : DieId} (h : Canon c q s) : Canon c q (excludeDie s n) := by
  unfold excludeDie
  exact kept_setStg (kept_modDie h (fun _ h1 => h1))

theorem kept_withdrawEngine {s : State} {g : EngId} (h : Canon c q s) : Canon c q (withdrawEngine s g) :=
  kept_ite (kept_ite (kept_loseDie (kept_modEng (kept_abandonRebind (kept_unbindEng h)) (fun _ h1 => h1)))
      (kept_ite (kept_excludeDie (kept_modEng (kept_abandonRebind (kept_unbindEng h)) (fun _ h2 => h2)))
      (kept_modEng (kept_abandonRebind (kept_unbindEng h)) (fun _ h3 => h3)))) h

theorem kept_tightenRelay {s : State} (h : Canon c q s) : Canon c q (tightenRelay s) :=
  kept_with h

theorem kept_countRelay {s : State} (h : Canon c q s) : Canon c q (countRelay s) :=
  kept_ite (kept_with h) h

theorem kept_placeMoved {s : State} (h : Canon c q s) : Canon c q (placeMoved s) :=
  kept_forAll (kept_with h) (fun _ _ h1 => kept_hbmSet h1)

theorem kept_advanceRelay {s : State} (h : Canon c q s) : Canon c q (advanceRelay s) :=
  kept_ite (kept_countRelay h) (kept_ite (kept_countRelay (kept_setStg (kept_placeMoved (kept_with h)))) (kept_with h))

theorem kept_commitPorts {s : State} (h : Canon c q s) : Canon c q (commitPorts s) :=
  kept_with (kept_bothEdge h)

theorem kept_tickFus {s : State} (h : Canon c q s) : Canon c q (tickFus s) :=
  kept_ite (kept_setFus h (fun _ h1 => h1)) (kept_commitFus (kept_flushFus h))

theorem kept_tickMpl {s : State} (h : Canon c q s) : Canon c q (tickMpl s) :=
  kept_ite (kept_setMpl h (fun _ h1 => h1)) (kept_commitMpl (kept_flushMpl h))

theorem kept_commitShadows {s : State} (h : Canon c q s) : Canon c q (commitShadows s) :=
  kept_commitPorts (kept_tickFus (kept_tickMpl (kept_forAll h (fun _ _ h1 => kept_commitMct h1))))

theorem kept_openStage {s : State} {changed : Bool} {now : Nat} (h : Canon c q s) : Canon c q (openStage s changed now) :=
  kept_ite (kept_ite (kept_logF (kept_setStg h)) (kept_setStg h)) (kept_ite (kept_setStg h) (kept_setStg (kept_fresh h)))

theorem kept_endRebinds {s : State} {changed : Bool} (h : Canon c q s) : Canon c q (endRebinds s changed) :=
  kept_with h

theorem kept_placeRings {s : State} {changed : Bool} (h : Canon c q s) : Canon c q (placeRings s changed) := by
  unfold placeRings
  split
  · exact h
  · exact kept_forAll h (fun _ _ h6 => kept_ite (kept_syncQueue h6) (kept_ite (kept_ite (kept_setQueue (kept_syncQueue h6))
        (kept_syncQueue h6)) (kept_ite (kept_setQueue (kept_syncQueue h6)) (kept_syncQueue h6))))

theorem engOk_clearStores {e : Engine} : EngOk c (clearStores e) := ⟨memOk_empty, memOk_empty, memOk_empty, memOk_empty, memOk_empty⟩

theorem kept_bindEng {s : State} {g : EngId} {q' : Nat} (h : Canon c q s) : Canon c q (bindEng s g q') :=
  kept_setQueue (kept_modEng (kept_syncQueue h) (fun _ h1 => ite_ok h1 engOk_clearStores))

theorem kept_bindOne {s : State} {g : EngId} (h : Canon c q s) : Canon c q (bindOne s g) := by
  unfold bindOne
  extract_lets s1
  have hs1 : Canon c q s1 := kept_modEng h (fun _ h2 => h2)
  split
  · exact kept_unbindEng hs1
  · exact kept_bindEng (kept_ite (kept_unbindEng hs1) hs1)

theorem kept_bindAll {s : State} (h : Canon c q s) : Canon c q (bindAll s) :=
  kept_forAll h (fun _ _ h1 => kept_ite (kept_modEng h1 (fun _ h2 => h2)) (kept_bindOne h1))

theorem kept_place {s : State} (h : Canon c q s) : Canon c q (place s) :=
  kept_with (kept_bindAll (kept_ite (kept_ownObjects (kept_endRebinds (kept_placeRings h))) (kept_endRebinds (kept_placeRings h))))

theorem kept_chooseOut {s : State} (h : Canon c q s) : Canon c q (chooseOut s) :=
  kept_forAll (kept_with h) (fun _ _ h1 => kept_ite h1 (kept_modEng h1 (fun _ h2 => h2)))

theorem kept_releasePages {s : State} (h : Canon c q s) : Canon c q (releasePages s) :=
  kept_forAll h (fun _ _ h1 => kept_freePage h1)

theorem kept_issueDesc {s : State} {work : WorkId} {q' : Nat} {again : Bool} {ws : List Word} (h : Canon c q s) : Canon c q
    (issueDesc s work q' again ws) :=
  kept_with (kept_ringBell (by
    split
    · exact kept_hbmSet h
    · exact h))

theorem kept_issueCmd {s : State} {work : WorkId} {q' : Nat} {again : Bool} {d : CmdDecl} {arg : Nat} (h : Canon c q s) : Canon c q
    (issueCmd s work q' again d arg) :=
  kept_forAll h (fun _ _ h1 => kept_issueDesc h1)

theorem kept_fillOne {s : State} {w : Waybill} (h : Canon c q s) : Canon c q (fillOne s w) :=
  kept_modWb (kept_forAll h (fun _ _ h1 => by
    split
    · exact kept_modWb (kept_issueCmd h1)
    · exact h1))

theorem kept_fillStage {s : State} (h : Canon c q s) : Canon c q (fillStage s) :=
  kept_forAll h (fun _ _ h1 => kept_fillOne h1)

theorem kept_openWork {s : State} (h : Canon c q s) : Canon c q (openWork s) :=
  kept_ite (kept_fillStage (kept_setDis h)) (kept_setDis (kept_setDis h))

theorem kept_pushRep {s : State} {p : StageRep} {now : Nat} (h : Canon c q s) : Canon c q (pushRep s p now) :=
  kept_forAll (kept_bothEdge h) (fun _ _ h1 => kept_ite h1 (kept_modIsl h1 (fun _ h2 => h2)))

theorem kept_stageTick {s : State} {now : Nat} (h : Canon c q s) : Canon c q (stageTick s now) := by
  unfold stageTick
  extract_lets +onlyGivenNames s1 s2 was s3 num prof s4 s5 s6 s7 s8 s9 s10 s11 s12 s13 s14 s15 s16 s17 p
  have h2 : Canon c q s2 :=
    kept_forAll (kept_endWork (kept_abandonMoves (kept_closeRuns (kept_with h)))) fun _ _ h => kept_countDefer h
  have h4 : Canon c q s4 := kept_ite (kept_ttSwitch (kept_commitTiming h2)) (kept_setTt (kept_commitTiming h2))
  have h6 : Canon c q s6 :=
    kept_noteLosses (kept_returnDies (kept_forAll (kept_setStg h4) fun _ _ h => kept_readmitEngine h))
  have h7 : Canon c q s7 := kept_noteLosses (kept_forAll h6 fun _ _ h => kept_withdrawEngine h)
  have h8 : Canon c q s8 := kept_ite (kept_loadProfile h7) h7
  have h10 : Canon c q s10 := kept_commitShadows (kept_tightenRelay (kept_advanceRelay h8))
  have h13 : Canon c q s13 := kept_place (kept_chooseOut (kept_openStage (kept_setStg h10)))
  have h15 : Canon c q s15 := kept_setMpl (kept_releasePages h13) fun _ h => h
  have h16 : Canon c q s16 := kept_openWork h15
  have h17 : Canon c q s17 := by
    unfold s17
    split
    · exact kept_recordActive h16
    · exact h16
  exact kept_emit (kept_pushRep h17)

theorem kept_execStageTick {now : Nat} {s : State} (h : Canon c q s) : CanonOut c q (execStageTick now s) := by
  unfold execStageTick
  split
  · exact keptOut_next (kept_stageTick h)
  · exact keptOut_next h

theorem kept_noteOutput {s : State} {stage : Nat} {shoe : Bool} (h : Canon c q s) : Canon c q (noteOutput s stage shoe) :=
  kept_ite (kept_setHpt (kept_setDis h)) (kept_setDis h)

theorem kept_transmit {s : State} {e : Edge} {o : Output} {a b imm : Bool} {stage : Nat} (h : Canon c q s) : Canon c q
    (transmit s e o a b imm stage) :=
  kept_ite (kept_modEdge (kept_emit h)) h

theorem kept_stageOutput {s : State} {e : Edge} (h : Canon c q s) : Canon c q (stageOutput s e) :=
  kept_ite h (by
    split
    · exact h
    · exact kept_noteOutput (kept_transmit h))

theorem islOk_islTick {x : Island} (h : IslOk c x) : IslOk c (islTick x) := by
  unfold islTick
  split
  · exact h
  · exact h

theorem kept_execReplicaTick {r : Replica} {now : Nat} {s : State} (h : Canon c q s) : CanonOut c q (execReplicaTick r now s) := by
  unfold execReplicaTick
  split
  · split
    · exact keptOut_next h
    · dsimp only
      exact keptOut_next (kept_modEdge (kept_stageOutput (kept_with h)))
  · split
    · exact keptOut_next h
    · dsimp only
      exact keptOut_next (kept_modIsl (kept_with (kept_ite h (kept_closeRuns h))) (fun _ h9 => islOk_islTick h9))

theorem kept_noteOverrun {s : State} {was : Bool} (h : Canon c q s) : Canon c q (noteOverrun s was) :=
  kept_ite (kept_logF (kept_setStg h)) h

theorem kept_finishSearch {s : State} {q' : Search} {out : SRun × Nat × Nat} (h : Canon c q s) : Canon c q (finishSearch s q' out) :=
  kept_completeDefers (kept_setMpl (kept_fresh (kept_ite (kept_putSlot h) (kept_forAll h (fun _ _ h1 => kept_putSlot h1))))
      (fun _ h2 => h2))

theorem kept_endLate {s : State} {layover : Bool} (h : Canon c q s) : Canon c q (endLate s layover) := by
  unfold endLate
  split
  · exact h
  · exact kept_ite (kept_finishSearch (kept_fresh h)) h

theorem kept_startMoves {s : State} (h : Canon c q s) : Canon c q (startMoves s) :=
  kept_ite (kept_ite (kept_with h) (kept_with h)) h

theorem kept_deferMoves {s : State} (h : Canon c q s) : Canon c q (deferMoves s) :=
  kept_with h

theorem kept_reexecNext {s : State} {r : Reexec} {g : EngId} (h : Canon c q s) : Canon c q (reexecNext s r g) := by
  unfold reexecNext
  split
  · exact h
  · split
    · exact kept_issueCmd (kept_bindEng (kept_unbindEng h))
    · exact h

theorem kept_startSet {s : State} {r : Reexec} (h : Canon c q s) : Canon c q (startSet s r) := by
  unfold startSet
  extract_lets l
  split
  · exact h
  · exact kept_reexecNext (kept_setDis (kept_modEng (kept_deferMoves (kept_fresh h)) (fun _ h6 => h6)))

theorem kept_startReexec {s : State} (h : Canon c q s) : Canon c q (startReexec s) :=
  kept_forAll h (fun _ _ h1 => kept_ite (kept_startSet h1) h1)

theorem kept_mod14 {s : State} (h : Canon c q s) : Canon c q (mod14 s) :=
  kept_logF h

theorem kept_stopRound {s : State} (h : Canon c q s) : Canon c q (stopRound s) :=
  kept_ite (kept_mod14 (kept_setFus h (fun _ h1 => h1))) h

theorem kept_repairImage {s : State} {n : DieId} (h : Canon c q s) : Canon c q (repairImage s n) :=
  kept_ite h (kept_forAll h (fun _ _ h1 => by
    split
    · rename_i u4 e5
      have hu4 := kept_of_snd (kept_hbmGet h1) e5
      exact kept_hbmSet hu4
    · rename_i u7 e8
      have hu7 := kept_of_snd (kept_hbmGet h1) e8
      exact hu7))

theorem kept_layoverStart {s : State} (h : Canon c q s) : Canon c q (layoverStart s) := by
  unfold layoverStart
  exact kept_setMpl (kept_forAll (kept_stopRound (kept_startReexec (kept_startMoves (kept_setStg
      (kept_noteOverrun (kept_discardMain (kept_closeCommands (kept_endWaits (kept_endLate h))))))))) (fun _ _ h1 => kept_repairImage h1))
      (fun _ h2 => h2)

theorem kept_execLayoverStart {s : State} (h : Canon c q s) : CanonOut c q (execLayoverStart s) := by
  unfold execLayoverStart
  split
  · exact keptOut_next (kept_layoverStart h)
  · exact keptOut_next h

theorem kept_logOpen {s : State} {unit : Nat} (h : Canon c q s) : Canon c q (logOpen s unit) :=
  kept_logF (kept_fresh h)

theorem kept_cutIod {s : State} (h : Canon c q s) : Canon c q (cutIod s) :=
  kept_ite (kept_endLate (kept_abandonMoves (kept_setStg h))) h

theorem kept_execOutputCutoff {s : State} (h : Canon c q s) : CanonOut c q (execOutputCutoff s) := by
  unfold execOutputCutoff
  extract_lets reason missed cut judge
  have hc (t : State) (e : Edge) (h : Canon c q t) : Canon c q (cut t e) := kept_ite h (kept_modEdge h)
  have hj (t : State) (i : Isl) (h : Canon c q t) : Canon c q (judge t i) := by
    have hm := kept_modIsl (i := i) (f := fun x => { x with cutoff := true, relOut := if missed then none else x.relOut }) h fun _ h => h
    exact kept_ite h (kept_ite (kept_logOpen (kept_modIsl hm fun _ h => h)) hm)
  exact keptOut_next (kept_cutIod (hj _ _ (hj _ _ (hc _ _ (hc _ _ h)))))

theorem kept_execReexecSetEnd {cmd : Nat} {s : State} (h : Canon c q s) : CanonOut c q (execReexecSetEnd cmd s) := by
  unfold execReexecSetEnd
  refine keptOut_next ?_
  split
  · exact h
  · extract_lets s1 s2
    have h2 : Canon c q s2 := by
      dsimp only [s2]
      split
      · exact kept_unbindEng (kept_setDis h)
      · exact kept_setDis h
    exact kept_ite (kept_startReexec h2) h2

theorem kept_execRelayMoveDue {s : State} (h : Canon c q s) : CanonOut c q (execRelayMoveDue s) := by
  unfold execRelayMoveDue
  split
  · exact keptOut_next (kept_with h)
  · exact keptOut_next h

theorem kept_takeRegions {l : List (Nat × Nat × Nat × Nat)} {s : State} (h : Canon c q s) : Canon c q (takeRegions l s).2 := by
  induction l generalizing s with
  | nil => exact h
  | cons x r ih => exact ih (kept_hbmTake h)

theorem kept_execRelayMoveEnd {s : State} (h : Canon c q s) : CanonOut c q (execRelayMoveEnd s) := by
  unfold execRelayMoveEnd
  split
  · split
    · exact keptOut_next h
    · dsimp only
      exact keptOut_next (kept_with (kept_takeRegions h))
  · exact keptOut_next h

theorem kept_execReadmitMoveEnd {n : DieId} {s : State} (h : Canon c q s) : CanonOut c q (execReadmitMoveEnd n s) := by
  unfold execReadmitMoveEnd
  split
  · dsimp only
    exact keptOut_next (kept_with (kept_forAll h (fun _ _ h2 => by
      split
      · exact h2
      · exact kept_hbmSet (kept_hbmTake (kept_fresh h2)))))
  · exact keptOut_next h

theorem kept_execAsSyncLost {s : State} (h : Canon c q s) : CanonOut c q (execAsSyncLost s) := by
  unfold execAsSyncLost
  extract_lets s1
  have hs1 : Canon c q s1 := kept_bothEdge h
  split
  · exact keptOut_next hs1
  · exact keptOut_next (kept_setStg hs1)

theorem kept_execAsSyncRegained {offset : Int} {s : State} (h : Canon c q s) : CanonOut c q (execAsSyncRegained offset s) := by
  unfold execAsSyncRegained
  extract_lets s1
  have hs1 : Canon c q s1 := kept_modEdge h
  split
  · exact keptOut_next hs1
  · exact keptOut_next (kept_setStg hs1)

theorem kept_execAsPortFailover {s : State} (h : Canon c q s) : CanonOut c q (execAsPortFailover s) :=
  keptOut_next (kept_setStg (kept_modEdge h))

theorem kept_execAsPortReturn {s : State} (h : Canon c q s) : CanonOut c q (execAsPortReturn s) :=
  keptOut_next (kept_setStg (kept_modEdge h))

theorem kept_execWbSubmit {p : Port} {s : State} (h : Canon c q s) : CanonOut c q (execWbSubmit p s) :=
  kept_onPort rowOk_rowWbSubmit h

theorem kept_execWaybillComplete {id : Nat} {s : State} (h : Canon c q s) : CanonOut c q (execWaybillComplete id s) := by
  unfold execWaybillComplete
  split
  · exact keptOut_next h
  · split
    · exact keptOut_next h
    · dsimp only
      exact keptOut_next (kept_completeDefers (kept_modWb h))

theorem kept_execWbStatus {p : Port} {s : State} (h : Canon c q s) : CanonOut c q (execWbStatus p s) :=
  kept_onPort rowOk_rowWbStatus h

theorem kept_execQQuery {p : Port} {s : State} (h : Canon c q s) : CanonOut c q (execQQuery p s) :=
  kept_onPort rowOk_rowQQuery h

theorem kept_execCtxPreempt {p : Port} {s : State} (h : Canon c q s) : CanonOut c q (execCtxPreempt p s) :=
  kept_onPort rowOk_rowCtxPreempt h

theorem kept_execPreemptComplete {c' : CtxId} {s : State} (h : Canon c q s) : CanonOut c q (execPreemptComplete c' s) := by
  unfold execPreemptComplete
  extract_lets gs
  split
  · exact keptOut_next (kept_completeDefers (kept_holdObjs (kept_holdQueues (kept_modCtx h))))
  · exact keptOut_next h

theorem kept_execCtxResume {p : Port} {s : State} (h : Canon c q s) : CanonOut c q (execCtxResume p s) :=
  kept_onPort rowOk_rowCtxResume h

theorem kept_execCtxRebind {p : Port} {s : State} (h : Canon c q s) : CanonOut c q (execCtxRebind p s) :=
  kept_onPort rowOk_rowCtxRebind h

theorem kept_execRebindMilepost {g : EngId} {s : State} (h : Canon c q s) : CanonOut c q (execRebindMilepost g s) := by
  unfold execRebindMilepost
  split
  · exact keptOut_next h
  · extract_lets e
    have he : EngOk c e := engOk_eng h
    split
    · exact keptOut_next h
    · exact keptOut_next (kept_completeDefers (kept_bindEng (kept_modEng (kept_with (kept_unbindEng (kept_syncQueue h)))
          (fun _ _ => engOk_clearStores))))

theorem kept_execDoorbell {livery : Byte} {tail : Word} {s : State} (h : Canon c q s) : CanonOut c q (execDoorbell livery tail s) := by
  unfold execDoorbell
  split
  · exact keptOut_next (kept_ringBell h)
  · exact keptOut_next (kept_emit (kept_fwRefuse h))

theorem kept_writeTable {s : State} {n : Nat} (h : Canon c q s) : Canon c q (writeTable s n) :=
  kept_forAll h (fun _ _ h1 => kept_putCopy h1)

theorem kept_execTableMirrorEnd {s : State} (h : Canon c q s) : CanonOut c q (execTableMirrorEnd s) := by
  unfold execTableMirrorEnd
  split
  · exact keptOut_next h
  · exact keptOut_next (kept_writeTable (kept_with h))

theorem kept_execSynInit {p : Port} {s : State} (h : Canon c q s) : CanonOut c q (execSynInit p s) :=
  kept_onPort rowOk_rowSynInit h

theorem kept_execSynSignal {p : Port} {s : State} (h : Canon c q s) : CanonOut c q (execSynSignal p s) :=
  kept_onPort rowOk_rowSynSignal h

theorem kept_execSynDecrement {p : Port} {s : State} (h : Canon c q s) : CanonOut c q (execSynDecrement p s) :=
  kept_onPort rowOk_rowSynDecrement h

theorem kept_execSynWait {p : Port} {s : State} (h : Canon c q s) : CanonOut c q (execSynWait p s) :=
  kept_onPort rowOk_rowSynWait h

theorem kept_execSynWaitTimeout {id : Nat} {s : State} (h : Canon c q s) : CanonOut c q (execSynWaitTimeout id s) := by
  unfold execSynWaitTimeout
  split
  · exact keptOut_next h
  · dsimp only
    exact keptOut_next (kept_serveObj (kept_completeDefers (kept_modObj h)))

theorem kept_execSynQuery {p : Port} {s : State} (h : Canon c q s) : CanonOut c q (execSynQuery p s) :=
  kept_onPort rowOk_rowSynQuery h

theorem kept_execDescriptorSignal {g : EngId} {s : State} (h : Canon c q s) : CanonOut c q (execDescriptorSignal g s) := by
  unfold execDescriptorSignal
  split
  · exact keptOut_next h
  · extract_lets s8
    have hs8 : Canon c q s8 := kept_modEng h (fun _ h9 => h9)
    split
    · exact keptOut_next (kept_logF (kept_with hs8))
    · split
      · exact keptOut_next (kept_signalObj hs8)
      · exact keptOut_next (kept_logF (kept_with hs8))

theorem kept_execMemRead {p : Port} {s : State} (h : Canon c q s) : CanonOut c q (execMemRead p s) :=
  kept_onPort rowOk_rowMemRead h

theorem kept_execMemWrite {p : Port} {s : State} (h : Canon c q s) : CanonOut c q (execMemWrite p s) :=
  kept_onPort rowOk_rowMemWrite h

theorem kept_execMemFill {p : Port} {s : State} (h : Canon c q s) : CanonOut c q (execMemFill p s) :=
  kept_onPort rowOk_rowMemFill h

theorem kept_execMemCopy {p : Port} {s : State} (h : Canon c q s) : CanonOut c q (execMemCopy p s) :=
  kept_onPort rowOk_rowMemCopy h

theorem kept_execMemCopyEnd {id : Nat} {s : State} (h : Canon c q s) : CanonOut c q (execMemCopyEnd id s) := by
  unfold execMemCopyEnd
  split
  · exact keptOut_next h
  · split
    · exact keptOut_next (kept_failCopy (kept_timeOut h))
    · dsimp only
      exact keptOut_next (kept_completeDefers (kept_copyMove (kept_dropCopy h)))

theorem kept_execMctCommit {p : Port} {s : State} (h : Canon c q s) : CanonOut c q (execMctCommit p s) :=
  kept_onPort rowOk_rowMctCommit h

theorem kept_acceptRead {s : State} {n : Nat} {port : MctPort} {liv : Byte} {path : List LinkId} {off len : Nat} (h : Canon c q s) : Canon
    c q (acceptRead s n port liv path off len).2 := by
  unfold acceptRead
  dsimp only
  exact kept_modMct (kept_fresh h)

theorem kept_hbmQueue {s : State} {n : Nat} {w : PendWrite} (h : Canon c q s) : Canon c q (hbmQueue s n w) := by
  unfold hbmQueue
  exact kept_modMct (kept_ite (kept_ite (kept_drainAll h) h) (kept_land (kept_refreshFor (kept_ite (kept_drainAll h) h))))

theorem kept_hbmOffer {s : State} {n : Nat} {w : PendWrite} (h : Canon c q s) : Canon c q (hbmOffer s n w).2 := by
  unfold hbmOffer
  split
  · rename_i u2 e3
    have hu2 := kept_of_snd (kept_partRead h) e3
    exact hu2
  · rename_i u5 e6
    have hu5 := kept_of_snd (kept_partRead h) e6
    dsimp only
    exact kept_hbmQueue hu5

end

end Sys2Proof.Proofs

/-! What every step keeps: the memory controllers and the engines (95; 12). -/

namespace Sys2Proof.Proofs

open Sys2Proof.Machine Sys2Proof.Safety Sys2Proof.Laws

section
variable {c : Prop} {q : List Instr}

theorem kept_hbmAccess {s : State} {n : DieId} {off : Nat} {a : Access} (h : Canon c q s) : Canon c q (hbmAccess s n off a) := by
  have h1 : Canon c q (modMct s n (fun m => addFlaws m (off / 32) a.flaws)) := kept_modMct h
  unfold hbmAccess
  dsimp only
  split
  · exact kept_ite (kept_hbmAnswer (kept_acceptRead h1)) (kept_modMct (kept_acceptRead h1))
  · split
    · rename_i e
      exact kept_emit (kept_of_snd (kept_hbmOffer h1) e)
    · rename_i e
      have ht := kept_of_snd (kept_hbmOffer h1) e
      exact kept_ite ht (kept_emit ht)

theorem kept_execFabricAccess {a : Access} {s : State} (h : Canon c q s) : CanonOut c q (execFabricAccess a s) := by
  unfold execFabricAccess
  split
  · rename_i e4
    have hs5 := kept_of_refused (admitOk_grants h) e4
    exact keptOut_next (kept_emit hs5)
  · rename_i e9
    have hs10 := kept_of_spot (admitOk_grants h) e9
    split
    · exact keptOut_next (kept_hbmAccess hs10)
    · exact keptOut_next (kept_modIsl hs10 (fun _ h17 => h17))
    · exact keptOut_next (kept_modIsl hs10 (fun _ h21 => h21))
    · split
      · dsimp only
        exact keptOut_next (kept_emit (kept_readSpot hs10))
      · extract_lets r
        have hr : Canon c q r.2 := kept_writeSpot hs10
        split
        · exact keptOut_next (kept_emit hr)
        · exact keptOut_next hr

theorem kept_drainOne {s : State} {n idx : Nat} (h : Canon c q s) : Canon c q (drainOne s n idx) := by
  unfold drainOne
  split
  · exact h
  · exact kept_ite (kept_finishStores (kept_drainAt h)) h

theorem kept_execWriteDrain {n : DieId} {idx : Nat} {s : State} (h : Canon c q s) : CanonOut c q (execWriteDrain n idx s) :=
  keptOut_next (kept_drainOne h)

theorem kept_execMctHeldRead {n : DieId} {idx : Nat} {s : State} (h : Canon c q s) : CanonOut c q (execMctHeldRead n idx s) := by
  unfold execMctHeldRead
  split
  · exact keptOut_next h
  · split
    · exact keptOut_next (kept_hbmAnswer (kept_modMct h))
    · exact keptOut_next h

theorem kept_execHbmUeLimit {n : DieId} {s : State} (h : Canon c q s) : CanonOut c q (execHbmUeLimit n s) := by
  unfold execHbmUeLimit
  split
  · exact keptOut_next (kept_loseDie h)
  · exact keptOut_next h

theorem kept_execHbmCeNotice {n : DieId} {s : State} (h : Canon c q s) : CanonOut c q (execHbmCeNotice n s) := by
  unfold execHbmCeNotice
  split
  · exact keptOut_next (kept_logF (kept_modMct h))
  · exact keptOut_next h

theorem kept_execRefreshDebtAccrue {n : DieId} {s : State} {flaws : optParam (List (Fin 536870912 × Nat)) []} (h : Canon c q s) : CanonOut
    c q (execRefreshDebtAccrue n s flaws) := by
  unfold execRefreshDebtAccrue
  split
  · exact keptOut_next (kept_modMct h)
  · exact keptOut_next h

theorem kept_execRefreshIssue {n : DieId} {pc : Fin 32} {bank : Fin 64} {s : State} (h : Canon c q s) : CanonOut c q
    (execRefreshIssue n pc bank s) := by
  unfold execRefreshIssue
  extract_lets k
  split
  · exact keptOut_next (kept_modMct h)
  · exact keptOut_next h

theorem kept_execForcedRefresh {n : DieId} {pc : Fin 32} {bank : Fin 64} {s : State} (h : Canon c q s) : CanonOut c q
    (execForcedRefresh n pc bank s) := by
  unfold execForcedRefresh
  extract_lets k
  split
  · exact keptOut_next (kept_modMct h)
  · exact keptOut_next h

theorem kept_execPatrolScrub {n : DieId} {burst : Fin 536870912} {flaws : List Nat} {s : State} (h : Canon c q s) : CanonOut c q
    (execPatrolScrub n burst flaws s) := by
  unfold execPatrolScrub
  split
  · exact keptOut_next h
  · extract_lets s3
    have hs3 : Canon c q s3 := kept_modMct h
    split
    · exact keptOut_next hs3
    · exact keptOut_next (kept_ceEvent hs3)
    · exact keptOut_next (kept_ueEvent hs3)

theorem kept_execIslandMemPiece {i : Isl} {s : State} (h : Canon c q s) : CanonOut c q (execIslandMemPiece i s) :=
  keptOut_next (kept_servePiece h)

theorem kept_execLinkFlitError {l : LinkId} {e : LinkEnd} {s : State} (h : Canon c q s) : CanonOut c q (execLinkFlitError l e s) := by
  unfold execLinkFlitError
  split
  · exact keptOut_next (kept_modDie h (fun _ h4 => h4))
  · exact keptOut_next (kept_with h)
  · exact keptOut_next (kept_modDie h (fun _ h11 => h11))
  · exact keptOut_next (kept_modDie h (fun _ h15 => h15))
  · exact keptOut_next h

theorem kept_exhaust {s : State} {l : LinkId} (h : Canon c q s) : Canon c q (exhaust s l) :=
  kept_with (kept_dropLink (kept_forAll (kept_logF (kept_with h)) (fun _ _ h1 => kept_logF h1)))

theorem kept_execRetryExhaustion {l : LinkId} {s : State} (h : Canon c q s) : CanonOut c q (execRetryExhaustion l s) := by
  unfold execRetryExhaustion
  split
  · split
    · exact keptOut_next (kept_cutOff (kept_exhaust h))
    · exact keptOut_next h
  · split
    · exact keptOut_next (kept_exhaust h)
    · exact keptOut_next h

theorem kept_execLinkDown {l : LinkId} {s : State} (h : Canon c q s) : CanonOut c q (execLinkDown l s) := by
  unfold execLinkDown
  extract_lets s1
  have hs1 : Canon c q s1 := kept_logF h
  split
  · exact keptOut_next (kept_modDie (kept_with (kept_dropLink hs1)) (fun _ h7 => h7))
  · exact keptOut_next (kept_with (kept_dropLink hs1))
  · exact keptOut_next (kept_cutOff (kept_with (kept_dropLink hs1)))

theorem kept_execRouteChange {src dst : DieId} {s : State} (h : Canon c q s) : CanonOut c q (execRouteChange src dst s) :=
  keptOut_next (kept_settleRoute h)

theorem kept_dropFlight {s : State} {n : DieId} (h : Canon c q s) : Canon c q (dropFlight s n).2 := by
  unfold dropFlight
  split
  · exact h
  · dsimp only
    exact kept_failDesc (kept_with h)

theorem kept_turnTo {s : State} {g : EngId} (h : Canon c q s) : Canon c q (turnTo s g).2 := by
  unfold turnTo
  dsimp only
  exact kept_ite (kept_syncQueue h) (kept_bindEng (kept_unbindEng (kept_syncQueue h)))

theorem kept_startDesc {s : State} {g : EngId} {q' : Nat} {ws : List Word} (h : Canon c q s) : Canon c q (startDesc s g q' ws) := by
  unfold startDesc
  exact kept_modEng (kept_setQueue h) (fun _ h1 => h1)

theorem kept_dropFetch {s : State} {n : DieId} (h : Canon c q s) : Canon c q (dropFetch s n).2 := by
  unfold dropFetch
  split
  · exact h
  · split
    · rename_i u8 e9
      have hu8 := kept_of_snd (kept_turnTo h) e9
      split
      · exact h
      · dsimp only
        exact kept_engDone (kept_startDesc hu8)

theorem kept_dropAtDie {s : State} {n : DieId} (h : Canon c q s) : Canon c q (dropAtDie s n).2 := by
  have hr (r : HeldRead) : Canon c q (emit (modMct s n (fun m => { m with reads := m.reads.erase r })) (.fabric r.livery stInternal []))
      :=
    kept_emit (kept_modMct h)
  have hw (w : PendWrite) : Canon c q (failWrite (modMct s n (fun m => { m with
      writes := m.writes.map (fun x => if x = w then { x with owed := false } else x) })) w) := kept_failWrite (kept_modMct h)
  unfold dropAtDie
  dsimp only
  split
  · split
    · exact kept_dropFlight h
    · exact kept_dropFetch h
  · exact hr _
  · exact hw _
  · split
    · exact hr _
    · exact hw _

theorem kept_dropPiece {s : State} {i : Isl} (h : Canon c q s) : Canon c q (dropPiece s i).2 := by
  unfold dropPiece
  split
  · exact h
  · dsimp only
    exact kept_emit (kept_modIsl h (fun _ h7 => h7))

theorem kept_dropHeldOne {s : State} (h : Canon c q s) : Canon c q (dropHeldOne s).2 := by
  unfold dropHeldOne
  split
  · exact h
  · dsimp only
    exact kept_failHeldWrite (kept_dropHeldWrites h)

theorem kept_dropOldest {s : State} {a2 : UnitId} (h : Canon c q s) : Canon c q (dropOldest s a2).2 := by
  unfold dropOldest
  split
  · exact kept_dropAtDie h
  · exact kept_dropPiece h
  · exact kept_dropHeldOne h
  · exact h

theorem kept_noteLate {s : State} {u : UnitId} {e : Ended} (h : Canon c q s) : Canon c q (noteLate s u e) :=
  kept_logF (kept_with h)

theorem kept_execFabricTimeout {u : UnitId} {s : State} {late : Bool} (h : Canon c q s) : CanonOut c q (execFabricTimeout u s late) := by
  have hr : Canon c q (dropOldest s u).2 := kept_dropOldest h
  unfold execFabricTimeout
  refine keptOut_next ?_
  dsimp only
  split
  · exact kept_noteLate h
  · split
    · rename_i e
      exact kept_timeOut (kept_of_snd hr e)
    · rename_i e
      exact kept_timeOut (kept_noteEnded (kept_of_snd hr e))

theorem kept_nextDesc {s : State} {g : EngId} (h : Canon c q s) (u : List Word × Bool × State) (hu : nextDesc s g = some u) :
    Canon c q u.2.2 := by
  unfold nextDesc at hu
  split at hu
  · have ht := kept_turnTo (g := g) h
    generalize turnTo s g = r at hu ht
    obtain ⟨n, t⟩ := r
    dsimp only at hu
    split at hu
    · obtain ⟨x, hx, rfl⟩ := Option.map_eq_some_iff.1 hu
      exact kept_startDesc (kept_fetchDesc ht _ hx)
    · cases hu
  · cases hu

theorem kept_engLog {s : State} {g cls reaction : Nat} {st : Byte} {detail : Nat} (h : Canon c q s) : Canon c q
    (engLog s g cls reaction st detail) :=
  kept_logF h

theorem kept_addBusy {s : State} {g : Nat} (h : Canon c q s) : Canon c q (addBusy s g) :=
  kept_modEng (kept_fresh h) (fun _ h1 => h1)

theorem kept_runDesc {o : EngOp} {g : EngId} {s : State} {ws : List Word} {ok : Bool} (ho : EngOpOk c q o) (h : Canon c q s) (u : State)
    (hu : runDesc o g s ws ok = some u) : Canon c q u := by
  unfold runDesc at hu
  split at hu
  · cases hu
    exact kept_engDone h
  · split at hu
    · cases hu
      exact kept_engDone (kept_engLog (kept_modEng h fun _ h => h))
    · split at hu
      · cases hu
        exact kept_engDone (kept_engLog h)
      · split at hu
        · split at hu
          · cases hu
            exact kept_engDone (kept_engLog h)
          · split at hu
            · cases hu
              exact kept_engDone h
            · cases hu
              exact ho _ _ _ (kept_addBusy h)
        · cases hu

theorem kept_overtake {g : EngId} {o : EngOp} {s : State} (ho : EngOpOk c q o) (h : Canon c q s) : Canon c q (overtake g o s) := by
  have h1 : Canon c q (modEng s g (fun e => { e with cur := none, waiting := none, late := [], st := 2 })) :=
    kept_modEng h fun _ h => h
  unfold overtake
  refine kept_ite h ?_
  split
  · exact h
  · rename_i ws ok t e
    have ht := kept_nextDesc h1 _ e
    refine kept_ite h ?_
    cases e2 : runDesc o g t ws ok with
    | none => exact h
    | some u => exact kept_ite h (kept_modEng (kept_runDesc ho ht _ e2) fun _ h => h)

theorem kept_runEng {g : EngId} {o : EngOp} {s : State} (ho : EngOpOk c q o) (h : Canon c q s) : CanonOut c q (runEng g o s) := by
  unfold runEng
  refine keptOut_next ?_
  cases e : nextDesc s g with
  | none => exact kept_overtake ho h
  | some x =>
    obtain ⟨ws, ok, t⟩ := x
    show Canon c q ((runDesc o g t ws ok).getD s)
    have ht : Canon c q t := kept_nextDesc h _ e
    cases hr : runDesc o g t ws ok with
    | none => exact h
    | some u => exact kept_runDesc ho ht u hr

theorem kept_doneOk {s : State} {g : Nat} {ws : List Word} (h : Canon c q s) : Canon c q (doneOk s g ws) :=
  kept_engDone h

theorem kept_execNop {g : EngId} {s : State} (h : Canon c q s) : CanonOut c q (execNop g s) :=
  kept_runEng (fun _ _ _ h1 => kept_doneOk h1) h

theorem kept_wFetch {s : State} {g : EngId} {addr len : Nat} (h : Canon c q s) : Canon c q (wFetch s g addr len).2 := by
  unfold wFetch
  extract_lets n
  split
  · dsimp only
    exact kept_engLog h
  · split
    · dsimp only
      exact kept_fwRefuse h
    · split
      · rename_i u7 e8
        have hu7 := kept_of_snd (kept_hbmGet h) e8
        exact hu7
      · rename_i u10 e11
        have hu10 := kept_of_snd (kept_hbmGet h) e11
        exact hu10

theorem kept_hxzBlock {s : State} {g : EngId} {addr : Nat} (h : Canon c q s) : Canon c q (hxzBlock s g addr).2 := by
  unfold hxzBlock
  split
  · rename_i u3 e4
    have hu3 := kept_of_snd (kept_wFetch h) e4
    exact hu3
  · rename_i u7 e8
    have hu7 := kept_of_snd (kept_wFetch h) e8
    extract_lets plen
    split
    · exact hu7
    · split
      · rename_i u13 e14
        have hu13 := kept_of_snd (by
            split
            · exact hu7
            · exact kept_wFetch hu7) e14
        exact hu13
      · rename_i u19 e20
        have hu19 := kept_of_snd (by
            split
            · exact hu7
            · exact kept_wFetch hu7) e20
        split
        · exact hu19
        · exact hu19

theorem kept_hxz {g : EngId} {fuel : Nat} {s : State} {addr need : Nat} {acc : List (List Byte)} (h : Canon c q s) :
    Canon c q (hxz g fuel s addr need acc).2 := by
  induction fuel generalizing s addr need acc with
  | zero => exact h
  | succ n ih =>
    unfold hxz
    split
    · exact h
    · split
      · rename_i e
        exact kept_of_snd (kept_hxzBlock h) e
      · rename_i e
        exact ih (kept_of_snd (kept_hxzBlock h) e)

theorem engOk_fillWbuf {n : Nat} {bs : List Byte} {e : Engine} (h : EngOk c e) : EngOk c (fillWbuf n bs e) := by
  induction n generalizing bs e with
  | zero => exact h
  | succ n ih =>
    obtain ⟨hr, h0, h1, w0, w1⟩ := h
    unfold fillWbuf
    split
    · exact ⟨hr, h0, h1, w0, w1⟩
    · refine ih ?_
      split
      · exact ⟨hr, h0, h1, w0, memOk_memWr w1⟩
      · exact ⟨hr, h0, h1, memOk_memWr w0, w1⟩

theorem kept_weights {s : State} {g : EngId} {addr need : Nat} (h : Canon c q s) : Canon c q (weights s g addr need).2.2 := by
  unfold weights
  dsimp only
  exact kept_modEng (by
    split
    · split
      · split
        · exact h
        · dsimp only
          exact kept_hxz h
      · split
        · exact h
        · dsimp only
          exact kept_hxz h
    · split
      · exact h
      · dsimp only
        exact kept_hxz h) (fun _ h14 => engOk_fillWbuf h14)

theorem kept_gemmWeights {s : State} {g : EngId} {ws : List Word} (h : Canon c q s) : Canon c q (gemmWeights s g ws).2.2 :=
  kept_weights h

theorem engOk_putAcc {m : Nat} {e : Engine} {w : Nat × Nat × List Machine.Num} (h : EngOk c e) : EngOk c (putAcc m e w) := by
  obtain ⟨hr, h0, h1, w0, w1⟩ := h
  have hp (a : Mem) (ha : MemOk c a) : MemOk c (w.2.2.zipIdx.foldl
      (fun a v => memWr a (6 * (128 * (w.1 % 512) + v.2)) (accBytes v.1)) a) := memOk_foldl ha fun _ _ h => memOk_memWr h
  unfold putAcc
  dsimp only
  split
  · exact ⟨hr, hp _ h0, h1, w0, w1⟩
  · exact ⟨hr, h0, hp _ h1, w0, w1⟩

theorem kept_addCnt {s : State} {g : Nat} {c' : Cnt} (h : Canon c q s) : Canon c q (addCnt s g c') :=
  kept_modEng h (fun _ h1 => h1)

theorem kept_markBad {s : State} {l : List WorkId} (h : Canon c q s) : Canon c q (markBad s l) :=
  kept_setDis h

theorem kept_scheduleReexec {s : State} {k : WorkId} {g : EngId} {other : Bool} (h : Canon c q s) : Canon c q (scheduleReexec s k g other)
    :=
  kept_ite (kept_setDis (kept_markBad h)) (kept_setDis (kept_setDis (kept_markBad h)))

theorem kept_checkFail {s : State} {g : EngId} {otherDie : Bool} (h : Canon c q s) : Canon c q (checkFail s g otherDie) := by
  unfold checkFail
  extract_lets s1
  have hs1 : Canon c q s1 := kept_modEng h (fun _ h2 => h2)
  split
  · exact kept_ite hs1 (kept_scheduleReexec hs1)
  · exact hs1

theorem kept_doneMismatch {s : State} {g : EngId} {ws : List Word} {sum res : Bool} (h : Canon c q s) : Canon c q
    (doneMismatch s g ws sum res) :=
  kept_engDone (kept_engLog (kept_checkFail (kept_modEng h (fun _ h1 => h1))))

theorem kept_finishMat {s : State} {g : EngId} {ws : List Word} {m : Nat} {n : Cnt} {o : MatOut} {ends : State → State}
    {put : State → Nat × Nat × List Machine.Num → State × Cnt} (h : Canon c q s) (he : ∀ t, Canon c q t → Canon c q (ends t))
    (hp : ∀ t x, Canon c q t → Canon c q (put t x).1) : Canon c q (finishMat s g ws m n o ends put) := by
  unfold finishMat
  extract_lets s1 w s2
  have h1 : Canon c q s1 := kept_modEng (kept_fresh h) fun e he =>
    List.foldlRecOn (motive := EngOk c) _ _ he fun _ h _ _ => engOk_putAcc h
  have h2 : Canon c q s2 :=
    kept_addCnt (List.foldlRecOn (motive := fun a : State × Cnt => Canon c q a.1) _ _ h1 fun _ h _ _ => hp _ _ h)
  exact kept_ite (kept_doneMismatch h2) (he _ h2)

theorem kept_doneFw {s : State} {g : Nat} {ws : List Word} (h : Canon c q s) : Canon c q (doneFw s g ws) :=
  kept_engDone (kept_modEng h (fun _ h1 => h1))

theorem kept_doneStream {s : State} {g : EngId} {ws : List Word} (h : Canon c q s) : Canon c q (doneStream s g ws) :=
  kept_engDone (kept_engLog (kept_checkFail (kept_modEng h (fun _ h1 => h1))))

theorem kept_doneEarly {s : State} {g : EngId} {ws : List Word} {e : StreamEnd} (h : Canon c q s) : Canon c q (doneEarly s g ws e) := by
  unfold doneEarly
  split
  · exact kept_doneFw h
  · exact kept_doneStream h

theorem kept_doneStreamed {g : EngId} {ws : List Word} {early : Option StreamEnd} {s : State} (h : Canon c q s) : Canon c q
    (doneStreamed g ws early s) := by
  unfold doneStreamed
  split
  · exact kept_doneEarly h
  · exact kept_doneOk h

theorem kept_rsWrAt {s : State} {g addr : Nat} {bs : List Byte} (h : Canon c q s) : Canon c q (rsWrAt s g addr bs) :=
  kept_modEng h (fun _ h1 => ⟨memOk_memWr h1.1, h1.2.1, h1.2.2.1, h1.2.2.2.1, h1.2.2.2.2⟩)

theorem kept_gemmRun {u : Option Upset} {s : State} {g : EngId} {ws : List Word} {cols : List Vec × Cnt} {full : Nat}
    {early : Option StreamEnd} (h : Canon c q s) : Canon c q (gemmRun u s g ws cols full early) := by
  unfold gemmRun
  exact kept_finishMat h (fun _ h1 => kept_doneStreamed h1) (fun _ _ h2 => kept_rsWrAt h2)

theorem kept_execGemm {g : EngId} {s : State} {u : optParam (Option Upset) none} (h : Canon c q s) : CanonOut c q (execGemm g s u) :=
  kept_runEng (fun _ _ _ h1 => kept_gemmRun (kept_gemmWeights h1)) h

theorem kept_execGemmAa {g : EngId} {s : State} {u : optParam (Option Upset) none} (h : Canon c q s) : CanonOut c q (execGemmAa g s u) :=
  kept_runEng (fun _ _ _ h1 => kept_gemmRun h1) h

theorem kept_convWeights {s : State} {g : EngId} {ws : List Word} {p : ConvPlan} (h : Canon c q s) : Canon c q (convWeights s g ws p).2.2
    :=
  kept_weights h

theorem kept_putBlk {addr : Nat} {mine : List (Nat × Machine.Num)} {a : EngId × State × Cnt} {b : Nat} (h : Canon c q a.2.1) :
    Canon c q (putBlk addr mine a b).2.1 := by
  unfold putBlk
  dsimp only
  split
  · exact h
  · split
    · exact kept_rsWrAt h
    · exact kept_rsWrAt (kept_fresh h)

theorem kept_putHxb4 {s : State} {g : EngId} {d : ConvDesc} {vals : List ((Nat × Nat × Nat) × Machine.Num)} (h : Canon c q s) :
    Canon c q (putHxb4 s g d vals).1 := by
  have hb (addr : Nat) (mine : List (Nat × Machine.Num)) (l : List Nat) (a : EngId × State × Cnt) (h : Canon c q a.2.1) :
      Canon c q (l.foldl (putBlk addr mine) a).2.1 := by
    induction l generalizing a with
    | nil => exact h
    | cons x r ih => exact ih _ (kept_putBlk h)
  unfold putHxb4
  dsimp only
  generalize (vals.map (fun v => (v.1.1, v.1.2.1))).eraseDups = rows
  generalize hx : (g, s, cnt0) = x
  have h : Canon c q x.2.1 := by
    rw [← hx]
    exact h
  clear hx
  induction rows generalizing x with
  | nil => exact h
  | cons r l ih => exact ih _ (hb _ _ _ _ h)

theorem kept_putElem {s : State} {g f addr x c' : Nat} (h : Canon c q s) : Canon c q (putElem s g f addr x c') :=
  kept_ite (kept_rsWrAt h) (kept_rsWrAt h)

theorem kept_convRun {u : Option Upset} {s : State} {g : EngId} {ws : List Word} {p : ConvPlan} {cols : List Vec} {full : Nat}
    {early : Option StreamEnd} (h : Canon c q s) : Canon c q (convRun u s g ws p cols full early) := by
  unfold convRun
  dsimp only
  split
  · exact kept_finishMat (kept_putHxb4 h) (fun _ h => kept_doneStreamed h) fun _ _ h => h
  · refine kept_finishMat h (fun _ h => kept_doneStreamed h) fun t x h => ?_
    exact List.foldlRecOn (motive := fun a : State × Cnt => Canon c q a.1) _ _ h fun _ h _ _ => kept_putElem h

theorem kept_convOp {plan : ConvDesc → ConvPlan} {u : Option Upset} {s : State} {g : EngId} {ws : List Word} (h : Canon c q s) : Canon c q
    (convOp plan u s g ws) :=
  kept_convRun (kept_addCnt (kept_convWeights h))

theorem kept_execConvDense {g : EngId} {s : State} {u : optParam (Option Upset) none} (h : Canon c q s) : CanonOut c q
    (execConvDense g s u) :=
  kept_runEng (fun _ _ _ h1 => kept_convOp h1) h

theorem kept_execConvGrouped {g : EngId} {s : State} {u : optParam (Option Upset) none} (h : Canon c q s) : CanonOut c q
    (execConvGrouped g s u) :=
  kept_runEng (fun _ _ _ h1 => kept_convOp h1) h

theorem kept_execConvDepthwise {g : EngId} {s : State} {u : optParam (Option Upset) none} (h : Canon c q s) : CanonOut c q
    (execConvDepthwise g s u) :=
  kept_runEng (fun _ _ _ h1 => kept_convOp h1) h

theorem kept_doneCheck {s : State} {g : EngId} {ws : List Word} (h : Canon c q s) : Canon c q (doneCheck s g ws) :=
  kept_engDone (kept_checkFail h)

theorem kept_doneKv {s : State} {g : EngId} {ws : List Word} {a4 : KvEnd} (h : Canon c q s) : Canon c q (doneKv s g ws a4) := by
  unfold doneKv
  split
  · exact kept_engDone (kept_engLog h)
  · exact kept_engDone (kept_engLog (kept_checkFail (kept_setKpm h)))
  · exact kept_engDone h
  · exact kept_doneFw (kept_engLog h)
  · exact kept_doneCheck h

theorem kept_kvRow {s : State} {g : EngId} {value : Bool} {fs : List Found} {p : Nat} (h : Canon c q s) : Canon c q
    (kvRow s g value fs p).2 := by
  unfold kvRow
  split
  · exact h
  · extract_lets q7
    split
    · exact h
    · split
      · dsimp only
        exact kept_fwRefuse h
      · split
        · rename_i u14 e15
          have hu14 := kept_of_snd (kept_hbmGet h) e15
          exact hu14
        · rename_i u17 e18
          have hu17 := kept_of_snd (kept_hbmGet h) e18
          exact hu17

theorem kept_kvRows {g : EngId} {value : Bool} {fs : List Found} {n : Nat} {s : State} {p : Nat} {acc : List (Option (List Byte))}
    (h : Canon c q s) : Canon c q (kvRows g value fs n s p acc).2.2 := by
  induction n generalizing s p acc with
  | zero => exact h
  | succ n ih =>
    have hr := kept_kvRow (g := g) (value := value) (fs := fs) (p := p) h
    unfold kvRows
    split
    · rename_i e
      exact ih (kept_of_snd hr e)
    · rename_i e
      exact kept_of_snd hr e

theorem kept_scoreRun {u : Option Upset} {s : State} {g : EngId} {ws : List Word} (h : Canon c q s) : Canon c q (scoreRun u s g ws) := by
  unfold scoreRun
  extract_lets +onlyGivenNames _
  refine kept_ite (kept_doneKv h) (kept_ite (kept_engDone h) ?_)
  extract_lets +onlyGivenNames _ _ rd s1 stop
  have h1 : Canon c q s1 := kept_kvRows h
  clear_value stop
  refine kept_finishMat h1 (fun t ht => ?_) fun _ _ h => kept_rsWrAt h
  cases stop
  · exact kept_doneOk ht
  · exact kept_doneKv ht

theorem kept_wear {s : State} {w : Option Wear} (h : Canon c q s) : Canon c q (wear s w) := by
  unfold wear
  split
  · exact kept_ite h (kept_modPage h)
  · exact h

theorem kept_execAttnScore {g : EngId} {s : State} {u : optParam (Option Upset) none} {w : optParam (Option Wear) none} (h : Canon c q s)
    : CanonOut c q (execAttnScore g s u w) :=
  kept_runEng (fun _ _ _ h1 => kept_scoreRun h1) (kept_wear h)

theorem kept_valueRun {u : Option Upset} {s : State} {g : EngId} {ws : List Word} (h : Canon c q s) : Canon c q (valueRun u s g ws) := by
  unfold valueRun
  dsimp only
  split
  · exact kept_doneKv h
  · split
    · exact kept_doneKv (kept_kvRows h)
    · exact kept_finishMat (kept_kvRows h) (fun _ h => kept_doneOk h) fun _ _ h => kept_rsWrAt h

theorem kept_execAttnValue {g : EngId} {s : State} {u : optParam (Option Upset) none} {w : optParam (Option Wear) none} (h : Canon c q s)
    : CanonOut c q (execAttnValue g s u w) :=
  kept_runEng (fun _ _ _ h1 => kept_valueRun h1) (kept_wear h)

theorem kept_keepMade {s : State} {g : EngId} (h : Canon c q s) : Canon c q (keepMade s g) :=
  kept_setKpm h

theorem kept_kvPut {s : State} {g : EngId} {a : Nat} {bs : List Byte} (h : Canon c q s) : Canon c q (kvPut s g a bs).2 := by
  unfold kvPut
  extract_lets n
  split
  · dsimp only
    exact kept_fwRefuse h
  · split
    · rename_i u4 e5
      have hu4 := kept_of_snd (kept_hbmPut h) e5
      exact hu4
    · rename_i u8 e9
      have hu8 := kept_of_snd (kept_hbmPut h) e9
      exact hu8

theorem kept_kvPuts {g : EngId} {l : List (Nat × List Byte)} {s : State} (h : Canon c q s) : Canon c q (kvPuts g l s).2 := by
  induction l generalizing s with
  | nil => exact h
  | cons x r ih =>
    have hp := kept_kvPut (g := g) (a := x.1) (bs := x.2) h
    unfold kvPuts
    split
    · rename_i e
      exact ih (kept_of_snd hp e)
    · exact hp

/-- A run over an island's pages. -/
theorem kept_appendRows {s : State} {g : EngId} {ws : List Word} (h : Canon c q s) : Canon c q (appendRows s g ws) := by
  unfold appendRows
  extract_lets fs row one r
  have h1 (a : Option KvEnd × State) (r : Nat) (h : Canon c q a.2) : Canon c q (one a r).2 := by
    unfold one
    split
    · exact h
    · split
      · exact h
      · extract_lets t k v p
        rename_i idx i _
        have hp : Canon c q (kvPuts g [(pageAddr p false i, k.1), (pageAddr p true i, v.1)] (addCnt t g (k.2.add v.2))).2 :=
          kept_kvPuts (kept_addCnt h)
        split
        · rename_i e
          dsimp only
          exact kept_modPage (kept_of_snd hp e)
        · exact hp
  have hr : Canon c q r.2 := List.foldlRecOn (motive := fun a : Option KvEnd × State => Canon c q a.2) _ _ h fun a h r _ => h1 a r h
  split
  · exact kept_doneOk hr
  · exact kept_doneKv hr

theorem kept_compactRows {s : State} {g : EngId} {ws : List Word} (h : Canon c q s) : Canon c q (compactRows s g ws) := by
  unfold compactRows
  extract_lets +onlyGivenNames fs ks n one r
  have h1 (a : Option KvEnd × State) (e : Nat × Nat) (h : Canon c q a.2) : Canon c q (one a e).2 := by
    unfold one
    split
    · exact h
    · split
      · split
        · exact h
        · extract_lets +onlyGivenNames t p u rb k v
          have hv : Canon c q v.2 := kept_hbmGet (kept_hbmGet h)
          clear_value v k
          split
          · exact kept_kvPuts hv
          · exact hv
      · exact h
  have hr : Canon c q r.2 := List.foldlRecOn (motive := fun a : Option KvEnd × State => Canon c q a.2) _ _ h fun a h e _ => h1 a e h
  clear_value r
  split
  · exact kept_doneKv hr
  · refine kept_doneOk (kept_foldl hr fun u f h => ?_)
    split
    · exact kept_ite (kept_ite (kept_modPage h) (kept_ite (kept_modPage h) h)) (kept_ite (kept_modPage h) (kept_ite (kept_modPage h) h))
    · exact h

theorem kept_writeRows {s : State} {g : EngId} {ws : List Word} (h : Canon c q s) : Canon c q (writeRows s g ws) :=
  kept_ite (kept_appendRows (kept_keepMade h)) (kept_compactRows (kept_keepMade h))

theorem kept_stepPrep {s : State} {g : EngId} {ws : List Word} {i : Nat} (h : Canon c q s) : Canon c q (stepPrep s g ws i) := by
  unfold stepPrep
  split
  · exact kept_doneKv (kept_setKpm (kept_keepMade h))
  · exact kept_modEng h (fun _ h7 => h7)
  · exact kept_ite (kept_modEng h (fun _ h10 => h10)) (kept_writeRows h)

theorem kept_apRun {s : State} {g : EngId} {ws : List Word} (h : Canon c q s) : Canon c q (apRun s g ws) :=
  kept_ite (kept_doneKv h) (kept_stepPrep h)

theorem kept_execAppend {g : EngId} {s : State} {w : optParam (Option Wear) none} (h : Canon c q s) : CanonOut c q (execAppend g s w) :=
  kept_runEng (fun _ _ _ h1 => kept_apRun h1) (kept_wear h)

theorem kept_execCompact {g : EngId} {s : State} {w : optParam (Option Wear) none} (h : Canon c q s) : CanonOut c q (execCompact g s w) :=
  kept_runEng (fun _ _ _ h1 => kept_apRun h1) (kept_wear h)

theorem kept_rsWr {s : State} {g line : Nat} {bs : List Byte} (h : Canon c q s) : Canon c q (rsWr s g line bs) :=
  kept_modEng h (fun _ h1 => ⟨memOk_memWr h1.1, h1.2.1, h1.2.2.1, h1.2.2.2.1, h1.2.2.2.2⟩)

theorem kept_vFinish {chk : Bool} {u : Option Upset} {s : State} {g : EngId} {ws : List Word} {x : Cnt} {xs : List Machine.Num}
    (h : Canon c q s) : Canon c q (vFinish chk u s g ws x xs) := by
  unfold vFinish
  dsimp only
  split
  · exact kept_doneMismatch (kept_rsWr (kept_addCnt (kept_fresh h)))
  · exact kept_doneOk (kept_rsWr (kept_addCnt (kept_fresh h)))

theorem kept_vecBin {sub : Nat} {opI : Int → Int → Int → Int} {opF : Fl → Fl → Fl → Fl × Cnt} {g : EngId} {u : Option Upset} {s : State}
    (h : Canon c q s) : CanonOut c q (vecBin sub opI opF g u s) :=
  kept_runEng (fun _ _ _ h1 => kept_ite (kept_vFinish h1) (kept_vFinish h1)) h

theorem kept_execVecAdd {g : EngId} {s : State} {u : optParam (Option Upset) none} (h : Canon c q s) : CanonOut c q (execVecAdd g s u) :=
  kept_vecBin h

theorem kept_execVecMul {g : EngId} {s : State} {u : optParam (Option Upset) none} (h : Canon c q s) : CanonOut c q (execVecMul g s u) :=
  kept_vecBin h

theorem kept_execVecFma {g : EngId} {s : State} {u : optParam (Option Upset) none} (h : Canon c q s) : CanonOut c q (execVecFma g s u) :=
  kept_vecBin h

theorem kept_execVecMax {g : EngId} {s : State} {u : optParam (Option Upset) none} (h : Canon c q s) : CanonOut c q (execVecMax g s u) :=
  kept_vecBin h

theorem kept_execVecMin {g : EngId} {s : State} {u : optParam (Option Upset) none} (h : Canon c q s) : CanonOut c q (execVecMin g s u) :=
  kept_vecBin h

theorem kept_vecUn {sub : Nat} {f : Fl → Fl × Cnt} {g : EngId} {u : Option Upset} {s : State} (h : Canon c q s) : CanonOut c q
    (vecUn sub f g u s) :=
  kept_runEng (fun _ _ _ h1 => kept_vFinish h1) h

theorem kept_execVecExp {g : EngId} {s : State} {u : optParam (Option Upset) none} (h : Canon c q s) : CanonOut c q (execVecExp g s u) :=
  kept_vecUn h

theorem kept_execVecRecip {g : EngId} {s : State} {u : optParam (Option Upset) none} (h : Canon c q s) : CanonOut c q (execVecRecip g s u)
    :=
  kept_vecUn h

theorem kept_execVecRsqrt {g : EngId} {s : State} {u : optParam (Option Upset) none} (h : Canon c q s) : CanonOut c q (execVecRsqrt g s u)
    :=
  kept_vecUn h

theorem kept_execVecConvert {g : EngId} {s : State} {u : optParam (Option Upset) none} (h : Canon c q s) : CanonOut c q
    (execVecConvert g s u) :=
  kept_runEng (fun _ _ _ h1 => kept_vFinish h1) h

theorem kept_vecReduce {sub : Nat} {opI : List Int → Int} {opF : List Fl → Fl × Cnt} {g : EngId} {u : Option Upset} {s : State}
    (h : Canon c q s) : CanonOut c q (vecReduce sub opI opF g u s) :=
  kept_runEng (fun _ _ _ h1 => kept_ite (kept_vFinish h1) (kept_vFinish h1)) h

theorem kept_execVecReduceSum {g : EngId} {s : State} {u : optParam (Option Upset) none} (h : Canon c q s) : CanonOut c q
    (execVecReduceSum g s u) :=
  kept_vecReduce h

theorem kept_execVecReduceMax {g : EngId} {s : State} {u : optParam (Option Upset) none} (h : Canon c q s) : CanonOut c q
    (execVecReduceMax g s u) :=
  kept_vecReduce h

theorem kept_vRows {chk : Bool} {u : Option Upset} {g : EngId} {ws : List Word} {count width : Nat}
    {row : Option (Nat × Bool) → Nat → State → Nat → State} {s : State} (h : Canon c q s)
    (hf : ∀ hit idx u r, Canon c q u → Canon c q (row hit idx u r)) : Canon c q (vRows chk u g ws count width row s) := by
  unfold vRows
  dsimp only
  split
  · exact kept_doneMismatch (kept_foldl (kept_fresh h) fun _ _ h => hf _ _ _ _ h)
  · exact kept_doneOk (kept_foldl (kept_fresh h) fun _ _ h => hf _ _ _ _ h)

theorem kept_poolOp {mine : Nat → Bool} {value : PoolDesc → (Nat → List Machine.Num) → Nat → Nat → Machine.Num × Cnt} {g : EngId}
    {u : Option Upset} {s : State} (h : Canon c q s) : CanonOut c q (poolOp mine value g u s) := by
  refine kept_runEng (fun s g ws h => ?_) h
  dsimp -zeta only
  extract_lets +onlyGivenNames d src
  refine kept_vRows h fun hit idx t k h => ?_
  exact kept_rsWr (kept_addCnt h)

theorem kept_execMaxPool {g : EngId} {s : State} {u : optParam (Option Upset) none} (h : Canon c q s) : CanonOut c q (execMaxPool g s u)
    :=
  kept_poolOp h

theorem kept_execAveragePoolPaddingCounted {g : EngId} {s : State} {u : optParam (Option Upset) none} (h : Canon c q s) : CanonOut c q
    (execAveragePoolPaddingCounted g s u) :=
  kept_poolOp h

theorem kept_execAveragePoolPaddingNotCounted {g : EngId} {s : State} {u : optParam (Option Upset) none} (h : Canon c q s) : CanonOut c q
    (execAveragePoolPaddingNotCounted g s u) :=
  kept_poolOp h

theorem kept_execNearestNeighbourResize {g : EngId} {s : State} {u : optParam (Option Upset) none} (h : Canon c q s) : CanonOut c q
    (execNearestNeighbourResize g s u) :=
  kept_poolOp h

theorem kept_execBilinearResize {g : EngId} {s : State} {u : optParam (Option Upset) none} (h : Canon c q s) : CanonOut c q
    (execBilinearResize g s u) :=
  kept_poolOp h

theorem kept_softmaxScan {mine : Nat → Bool} {first : Bool} {g : EngId} {u : Option Upset} {s : State} (h : Canon c q s) :
    CanonOut c q (softmaxScan mine first g u s) := by
  refine kept_runEng (fun s g ws h => ?_) h
  dsimp -zeta only
  refine kept_vRows h fun hit idx t k h => ?_
  extract_lets +onlyGivenNames xs o ps p t1 t2
  have h1 : Canon c q t1 := kept_rsWr (kept_addCnt h)
  have h2 : Canon c q t2 := kept_rsWrAt h1
  exact kept_rsWrAt h2

theorem kept_execSoftmaxFirst {g : EngId} {s : State} {u : optParam (Option Upset) none} (h : Canon c q s) : CanonOut c q
    (execSoftmaxFirst g s u) :=
  kept_softmaxScan h

theorem kept_execSoftmaxStep {g : EngId} {s : State} {u : optParam (Option Upset) none} (h : Canon c q s) : CanonOut c q
    (execSoftmaxStep g s u) :=
  kept_softmaxScan h

theorem kept_execSoftmaxFinal {g : EngId} {s : State} {u : Option Upset} (h : Canon c q s) : CanonOut c q (execSoftmaxFinal g s u) := by
  refine kept_runEng (fun s g ws h => ?_) h
  dsimp -zeta only
  refine kept_vRows h fun hit idx t k h => ?_
  exact kept_rsWr (kept_addCnt h)

theorem kept_moveRefused {s : State} {g : EngId} {ws : List Word} {st : Byte} (h : Canon c q s) : Canon c q (moveRefused s g ws st) :=
  kept_ite (kept_doneFw h) (kept_engDone h)

theorem kept_settlePlace {s : State} {p : Place} (h : Canon c q s) : Canon c q (settlePlace s p) := by
  unfold settlePlace
  split
  · exact kept_servePieces h
  · exact kept_servePieces h
  · exact h

/-- What the rows of a move leave, whether they end or stop. -/
def moveOk (c : Prop) (q : List Instr) : Except State State → Prop
  | .ok t => Canon c q t
  | .error t => Canon c q t

theorem moveOk_moveRows {one : State → Nat → Except State State} (hf : ∀ s r, Canon c q s → moveOk c q (one s r)) {n r : Nat} {s : State}
    (h : Canon c q s) : moveOk c q (moveRows one n r s) := by
  induction n generalizing r s with
  | zero => exact h
  | succ n ih =>
    have h1 := hf s r h
    unfold moveRows
    split
    · rename_i e
      rw [e] at h1
      exact ih h1
    · rename_i e
      rw [e] at h1
      exact h1

theorem moveOk_loadRow {g : EngId} {ws : List Word} {s : State} {r : Nat} (h : Canon c q s) : moveOk c q (loadRow g ws s r) := by
  unfold loadRow
  extract_lets a n line
  split
  · exact kept_rsWr h
  · have hg : AdmitOk c q (grants s (engLivery s g) a n .read (.engine g)) := admitOk_grants h
    split
    · exact kept_moveRefused (kept_of_refused hg ‹_›)
    · rename_i p t e
      have ht := kept_of_spot hg e
      split
      · rename_i d _
        have hr : Canon c q (hbmGet t d (portOf t (.engine g) d) (engLivery t g) p.off n).2 := kept_hbmGet ht
        split
        · exact kept_rsWr (kept_of_snd hr ‹_›)
        · exact kept_doneCheck (kept_of_snd hr ‹_›)
      · exact kept_rsWr (kept_readSpot (kept_settlePlace ht))

theorem kept_loadRun {s : State} {g : EngId} {ws : List Word} (h : Canon c q s) : Canon c q (loadRun s g ws) := by
  have hm : moveOk c q (moveRows (loadRow g ws) (mRows ws) 0 s) := moveOk_moveRows (fun _ _ h => moveOk_loadRow h) h
  unfold loadRun
  split
  · rename_i e
    rw [e] at hm
    exact kept_doneOk hm
  · rename_i e
    rw [e] at hm
    exact hm

theorem kept_execLoad {g : EngId} {s : State} (h : Canon c q s) : CanonOut c q (execLoad g s) :=
  kept_runEng (fun _ _ _ h1 => kept_loadRun h1) h

theorem kept_poolWr {s : State} {n off : Nat} {bs : List Byte} (h : Canon c q s) : Canon c q (poolWr s n off bs) :=
  kept_modDie h (fun _ h1 => ⟨h1.1, memOk_memWr h1.2⟩)

theorem moveOk_storeRow {g : EngId} {ws : List Word} {s : State} {r : Nat} (h : Canon c q s) : moveOk c q (storeRow g ws s r) := by
  unfold storeRow
  extract_lets a n bs
  split
  · exact kept_poolWr h
  · have hg : AdmitOk c q (grants s (engLivery s g) a n .write (.engine g)) := admitOk_grants h
    split
    · exact kept_moveRefused (kept_of_refused hg ‹_›)
    · rename_i p t e
      have ht := kept_of_spot hg e
      split
      · rename_i d _
        have hr := kept_hbmOffer (n := d.val) (w := {
            port := portOf t (.engine g) d, livery := engLivery t g, off := p.off, data := bs, path := linksTo t (.engine g) d
            owed := (mct t d).compat, eng := some g }) ht
        split
        · exact kept_of_snd hr ‹_›
        · exact kept_doneCheck (kept_of_snd hr ‹_›)
      · exact kept_writeSpot (kept_settlePlace ht)

theorem kept_storeRun {s : State} {g : EngId} {ws : List Word} (h : Canon c q s) : Canon c q (storeRun s g ws) := by
  have hm : moveOk c q (moveRows (storeRow g ws) (mRows ws) 0 s) := moveOk_moveRows (fun _ _ h => moveOk_storeRow h) h
  unfold storeRun
  split
  · rename_i e
    rw [e] at hm
    exact kept_ite (kept_modEng hm fun _ h => h) (kept_doneOk hm)
  · rename_i e
    rw [e] at hm
    exact hm

theorem kept_execStore {g : EngId} {s : State} (h : Canon c q s) : CanonOut c q (execStore g s) :=
  kept_runEng (fun _ _ _ h1 => kept_storeRun h1) h

theorem kept_execHaloSend {g : EngId} {s : State} (h : Canon c q s) : CanonOut c q (execHaloSend g s) := by
  refine kept_runEng (fun s g ws h => ?_) h
  dsimp -zeta only
  exact kept_modEng (kept_with (kept_settleRoute h)) fun _ h => h

theorem dieOk_setBox {d : Die} {pred : Bool} {l : List HaloMsg} (h : DieOk c d) : DieOk c (setBox d pred l) :=
  ite_ok h h

theorem kept_takeHalo {s : State} {g : EngId} {ws : List Word} {m : HaloMsg} (h : Canon c q s) : Canon c q (takeHalo s g ws m) :=
  kept_doneOk (kept_ite (kept_poolWr (kept_addCnt (kept_fresh h))) (kept_rsWrAt (kept_addCnt (kept_fresh h))))

theorem kept_recvRun {s : State} {g : EngId} {ws : List Word} (h : Canon c q s) : Canon c q (recvRun s g ws) := by
  unfold recvRun
  extract_lets n
  split
  · exact kept_takeHalo (kept_modDie h (fun _ h5 => dieOk_setBox h5))
  · exact kept_modEng h (fun _ h8 => h8)

theorem kept_execHaloMessageArrive {g : EngId} {s : State} (h : Canon c q s) : CanonOut c q (execHaloMessageArrive g s) := by
  unfold execHaloMessageArrive
  refine keptOut_next ?_
  split
  · exact h
  · extract_lets n pred m s1 s2 s3 l
    have h2 : Canon c q s2 := kept_modDie (kept_with h) fun d h => by
      unfold setBox
      split <;> exact h
    have h3 : Canon c q s3 := by
      dsimp only [s3]
      split
      · exact kept_doneOk h2
      · exact h2
    split
    · exact h3
    · split
      · exact kept_recvRun (kept_fresh h3)
      · exact h3

theorem kept_execHaloRecvCopy {g : EngId} {s : State} (h : Canon c q s) : CanonOut c q (execHaloRecvCopy g s) :=
  kept_runEng (fun _ _ _ h1 => kept_recvRun h1) h

theorem kept_execHaloRecvAdd {g : EngId} {s : State} (h : Canon c q s) : CanonOut c q (execHaloRecvAdd g s) :=
  kept_runEng (fun _ _ _ h1 => kept_recvRun h1) h

theorem kept_queueWaiter {s : State} {k : Nat} {w : Waiter} (h : Canon c q s) : Canon c q (queueWaiter s k w) :=
  kept_serveObj (kept_modObj h)

theorem kept_execWait {g : EngId} {s : State} (h : Canon c q s) : CanonOut c q (execWait g s) := by
  refine kept_runEng (fun s g ws h => ?_) h
  dsimp only
  split
  · exact kept_engDone h
  · refine kept_ite (kept_engDone h) (kept_ite (kept_engDone h) (kept_ite (kept_engDone h) (kept_ite (kept_engDone h) ?_)))
    exact kept_queueWaiter (kept_modEng h fun _ h => h)

theorem kept_milepost {s : State} {g : EngId} {q' : Nat} {head : Word} (h : Canon c q s) : Canon c q (milepost s g q' head) := by
  unfold milepost
  exact kept_modQueue (kept_modEng (kept_standAfter h) (fun _ h1 => h1))

theorem kept_failSet {s : State} {g : EngId} (h : Canon c q s) : Canon c q (failSet s g) :=
  kept_setDis h

theorem kept_reexecStep {s : State} {g : EngId} {k : WorkId} (h : Canon c q s) : Canon c q (reexecStep s g k) := by
  unfold reexecStep
  split
  · exact h
  · exact kept_ite (kept_reexecNext (kept_setDis h)) h

theorem kept_takeRecord {s : State} {g : EngId} {c' : Completion} (h : Canon c q s) : Canon c q (takeRecord s g c') := by
  unfold takeRecord
  extract_lets count
  split
  · exact h
  · exact kept_ite (kept_ite (kept_reexecStep (kept_ite (kept_failSet (kept_modWb (kept_setDis h))) (kept_modWb (kept_setDis h))))
        (kept_ite (kept_failSet (kept_modWb (kept_setDis h))) (kept_modWb (kept_setDis h))))
        (kept_ite (kept_scheduleReexec (kept_modWb (kept_setDis h))) (kept_modWb (kept_setDis h)))

theorem kept_execDescriptorComplete {g : EngId} {s : State} (h : Canon c q s) : CanonOut c q (execDescriptorComplete g s) := by
  unfold execDescriptorComplete
  refine keptOut_next ?_
  split
  · exact h
  · refine kept_ite h ?_
    extract_lets s1 s2 w s3 s4 s5 s6
    have h1 : Canon c q s1 := kept_modEng h fun _ h => h
    have h2 : Canon c q s2 := kept_syncQueue h1
    have h3 : Canon c q s3 := kept_ite (kept_modEng h2 fun _ h => h) h2
    have h4 : Canon c q s4 := kept_ite (kept_milepost h3) h3
    have h5 : Canon c q s5 := kept_takeRecord (kept_emit h4)
    have h6 : Canon c q s6 := kept_ite (kept_bindOne h5) h5
    exact kept_ite (kept_startReexec h6) h6

theorem kept_nextWeights {s : State} {g : EngId} (h : Canon c q s) (u : List Word × Nat × State) (hu : nextWeights s g = some u) :
    Canon c q u.2.2 := by
  unfold nextWeights at hu
  obtain ⟨_, hu⟩ := Option.ite_none_left_eq_some.1 hu
  split at hu
  · rename_i e
    obtain ⟨_, hu⟩ := Option.ite_none_right_eq_some.1 hu
    rw [← Option.some.inj hu]
    exact kept_fetchDesc h _ e
  · cases hu

theorem kept_fetchAhead {s : State} {g : EngId} {count addr need : Nat} (h : Canon c q s) : Canon c q (fetchAhead s g count addr need) :=
    by
  unfold fetchAhead
  exact kept_modEng (kept_hxz h) (fun _ h1 => engOk_fillWbuf h1)

theorem kept_execWeightFetch {g : EngId} {s : State} (h : Canon c q s) : CanonOut c q (execWeightFetch g s) := by
  unfold execWeightFetch
  split
  · exact keptOut_next h
  · rename_i u6 e7
    have hs8 : Canon c q u6 := kept_nextWeights h _ e7
    split
    · exact keptOut_next h
    · split
      · exact keptOut_next h
      · exact keptOut_next (kept_fetchAhead hs8)

theorem kept_hangDesc {s : State} {g : EngId} (h : Canon c q s) (u : State) (hu : hangDesc s g = some u) : Canon c q u := by
  unfold hangDesc at hu
  split at hu
  · rw [← Option.some.inj hu]
    split
    · exact kept_engDone h
    · exact h
  · obtain ⟨x, hx, rfl⟩ := Option.map_eq_some_iff.1 hu
    exact kept_engDone (kept_nextDesc h _ hx)

theorem kept_markWithdraw {s : State} {g : EngId} (h : Canon c q s) : Canon c q (markWithdraw s g) :=
  kept_ite h (kept_modEng h (fun _ h1 => h1))

theorem kept_execEngineHang {g : EngId} {s : State} (h : Canon c q s) : CanonOut c q (execEngineHang g s) := by
  unfold execEngineHang
  split
  · exact keptOut_next h
  · rename_i u4 e5
    have hs6 : Canon c q u4 := kept_hangDesc h _ e5
    dsimp only
    exact keptOut_next (kept_markWithdraw (kept_engLog (kept_modEng (kept_finishRest hs6) (fun _ h7 => h7))))

theorem kept_execEngineWithdraw {g : EngId} {s : State} (h : Canon c q s) : CanonOut c q (execEngineWithdraw g s) := by
  unfold execEngineWithdraw
  split
  · exact keptOut_next (kept_markWithdraw h)
  · exact keptOut_next h

theorem kept_execSelftestSlice {g : EngId} {s : State} (h : Canon c q s) : CanonOut c q (execSelftestSlice g s) := by
  unfold execSelftestSlice
  split
  · exact keptOut_next (kept_modEng h (fun _ h2 => h2))
  · exact keptOut_next h

end

end Sys2Proof.Proofs

/-! What every step keeps: the other units, and the step itself (95; 12). -/

namespace Sys2Proof.Proofs

open Sys2Proof.Machine Sys2Proof.Safety Sys2Proof.Laws

section
variable {c : Prop} {q : List Instr}

theorem kept_execSelftestSliceEnd {g : EngId} {pass : Bool} {s : State} (h : Canon c q s) : CanonOut c q (execSelftestSliceEnd g pass s)
    := by
  have hn (t : State) (h : Canon c q t) : Canon c q (if t.stg.inlay then startReexec t else t) := kept_ite (kept_startReexec h) h
  unfold execSelftestSliceEnd
  refine keptOut_next (kept_ite h (hn _ (kept_ite (kept_modEng h fun _ h => h) ?_)))
  exact kept_markWithdraw (kept_logF (kept_setDis (kept_modEng h fun _ h => h)))

theorem kept_execSelftestDeferLimit {g : EngId} {s : State} (h : Canon c q s) : CanonOut c q (execSelftestDeferLimit g s) := by
  unfold execSelftestDeferLimit
  split
  · exact keptOut_next (kept_modEng h (fun _ h2 => h2))
  · exact keptOut_next h

theorem kept_execKvAlloc {p : Port} {s : State} (h : Canon c q s) : CanonOut c q (execKvAlloc p s) :=
  kept_onPort rowOk_rowKvAlloc h

theorem kept_execKvFree {p : Port} {s : State} (h : Canon c q s) : CanonOut c q (execKvFree p s) :=
  kept_onPort rowOk_rowKvFree h

theorem kept_execKvShare {p : Port} {s : State} (h : Canon c q s) : CanonOut c q (execKvShare p s) :=
  kept_onPort rowOk_rowKvShare h

theorem kept_execKvQuery {p : Port} {s : State} (h : Canon c q s) : CanonOut c q (execKvQuery p s) :=
  kept_onPort rowOk_rowKvQuery h

theorem kept_execKvStats {p : Port} {s : State} (h : Canon c q s) : CanonOut c q (execKvStats p s) :=
  kept_onPort rowOk_rowKvStats h

theorem kept_copyEnded {s : State} {new : Nat} (h : Canon c q s) : Canon c q (copyEnded s new) :=
  kept_forAll (kept_setKpm h) (fun _ _ h1 => by
    split
    · exact kept_ite h1 (kept_writeRows h1)
    · exact h1)

theorem kept_unmake {s : State} {x : MadePage} (h : Canon c q s) : Canon c q (unmake s x) :=
  kept_ite (kept_copyEnded (by
    split
    · exact kept_freePage (kept_poolWr h)
    · exact kept_ite (kept_freePage (kept_poolWr h)) (kept_modPage (kept_addRef (kept_freePage (kept_poolWr h)))))) (by
    split
    · exact kept_freePage (kept_poolWr h)
    · exact kept_ite (kept_freePage (kept_poolWr h)) (kept_modPage (kept_addRef (kept_freePage (kept_poolWr h)))))

theorem kept_noPage {s : State} {g : EngId} {ws : List Word} (h : Canon c q s) : Canon c q (noPage s g ws) :=
  kept_engDone (kept_engLog (kept_forAll (kept_keepMade (kept_with h)) (fun _ _ h1 => kept_unmake h1)))

theorem kept_putEntry {s : State} {g plist i idx base : Nat} (h : Canon c q s) : Canon c q (putEntry s g plist i idx base) :=
  kept_poolWr h

theorem kept_putMade {s : State} {g : EngId} {plist i new base : Nat} {src : Option Nat} (h : Canon c q s) : Canon c q
    (putMade s g plist i new base src) :=
  kept_putEntry (kept_setKpm h)

theorem kept_copyPage {s : State} {a b : Nat} (h : Canon c q s) : Canon c q (copyPage s a b) := by
  unfold copyPage
  exact kept_modPage (kept_hbmSet (kept_hbmSet h))

theorem kept_execKvWritePrepare {g : EngId} {s : State} (h : Canon c q s) : CanonOut c q (execKvWritePrepare g s) := by
  unfold execKvWritePrepare
  split
  · rename_i u1 u2 _ _ _ _
    split
    · split
      · exact keptOut_next (kept_noPage h)
      · rename_i u13 e14
        have hs15 : Canon c q u13 := kept_allocPage h _ e14
        exact keptOut_next (kept_stepPrep (kept_putMade hs15))
    · extract_lets p
      split
      · exact keptOut_next (kept_stepPrep (kept_ite h (kept_setKpm h)))
      · split
        · exact keptOut_next (kept_noPage h)
        · rename_i u26 e27
          have hs28 : Canon c q u26 := kept_allocPage h _ e27
          dsimp only
          exact keptOut_next (kept_stepPrep (kept_putMade (kept_setKpm (kept_dropRef (kept_copyPage hs28)))))
    · exact keptOut_next (kept_stepPrep h)
  · exact keptOut_next h

theorem kept_execKvCopyEnd {page : Fin 524288} {s : State} (h : Canon c q s) : CanonOut c q (execKvCopyEnd page s) := by
  unfold execKvCopyEnd
  split
  · exact keptOut_next (kept_copyEnded h)
  · exact keptOut_next h

theorem kept_execMplCfg {p : Port} {s : State} (h : Canon c q s) : CanonOut c q (execMplCfg p s) :=
  kept_onPort rowOk_rowMplCfg h

theorem kept_timetableSearch {build : Bool} {par : List Word} {s : State} (h : Canon c q s) : Canon c q (timetableSearch build par s) :=
  kept_ite (kept_beginSearch h) h

theorem kept_execMplSearch {src : SearchSrc} {s : State} (h : Canon c q s) : CanonOut c q (execMplSearch src s) := by
  unfold execMplSearch
  split
  · exact kept_onPort rowOk_rowMplSearch h
  · exact keptOut_next (kept_timetableSearch h)

theorem kept_execMplSearchBuild {src : SearchSrc} {s : State} (h : Canon c q s) : CanonOut c q (execMplSearchBuild src s) := by
  unfold execMplSearchBuild
  split
  · exact kept_onPort rowOk_rowMplSearchBuild h
  · exact keptOut_next (kept_timetableSearch h)

theorem mplOk_setBack {m : Mpl} {f : Field} (h : MplOk c m) (hf : MemOk c f.occ) : MplOk c (setBack m f) := by
  obtain ⟨hs, h0, h1⟩ := h
  unfold setBack
  split
  · exact ⟨hs, hf, h1⟩
  · exact ⟨hs, h0, hf⟩

/-- Rising cells from `b` on still rise when `b` is taken off each address. -/
theorem rising_sub {l : List Host.Cell} {n b : Nat} (h : risingFrom n l = true) (hb : ∀ x ∈ l, b ≤ x.1) :
    risingFrom (n - b) (l.map (fun x => (x.1 - b, x.2))) = true := by
  induction l generalizing n with
  | nil => rfl
  | cons x r ih =>
    simp only [risingFrom, Bool.and_eq_true, decide_eq_true_eq, List.map_cons] at h ⊢
    have hr := ih h.2 fun y hy => hb y (List.mem_cons_of_mem _ hy)
    rw [Nat.sub_add_comm (hb x List.mem_cons_self)] at hr
    exact ⟨by omega, hr⟩

/-- A part of a memory that reads as zero where nothing is listed is canonical in its own addresses. -/
theorem memWf_part {m : Mem} {b e : Nat} (h : memWf m = true) (hf : m.fill = .byte 0) :
    memWf { cells := (m.cells.filter (fun x => b ≤ x.1 && x.1 < e)).map (fun x => (x.1 - b, x.2)) } = true := by
  obtain ⟨hr, hn⟩ := (memWf_iff m).1 h
  refine (memWf_iff _).2 ⟨?_, fun x hx => ?_⟩
  · have hs := rising_sub (b := b) (rising_filter (fun x => decide (b ≤ x.1) && decide (x.1 < e)) hr) fun x hx => by
      have := (List.mem_filter.1 hx).2
      simp at this
      exact this.1
    rwa [Nat.zero_sub] at hs
  · obtain ⟨y, hy, rfl⟩ := List.mem_map.1 hx
    have hv := hn y (List.mem_filter.1 hy).1
    rwa [hf] at hv

theorem kept_execFieldBuildStart {s : State} (h : Canon c q s) : CanonOut c q (execFieldBuildStart s) := by
  unfold execFieldBuildStart
  refine keptOut_next ?_
  split
  · exact h
  · refine kept_ite (kept_setMpl h fun m hm => ?_) h
    exact mplOk_setBack hm fun hc => memWf_part (h.mpl.1 hc).1 (h.mpl.1 hc).2

theorem kept_execFieldPublish {s : State} (h : Canon c q s) : CanonOut c q (execFieldPublish s) := by
  have hb : MemOk c (backField s.mpl).occ := by
    obtain ⟨_, h0, h1⟩ := h.mpl
    unfold backField
    split
    · exact h0
    · exact h1
  unfold execFieldPublish
  refine keptOut_next ?_
  split
  · exact h
  · refine kept_ite (kept_startSearch ?_) h
    exact { h with mpl := mplOk_setBack h.mpl hb }

theorem kept_execSearchTimeBudget {s : State} (h : Canon c q s) : CanonOut c q (execSearchTimeBudget s) := by
  unfold execSearchTimeBudget
  split
  · exact keptOut_next h
  · split
    · exact keptOut_next (kept_finishSearch h)
    · exact keptOut_next h

theorem kept_execSearchStageDeadline {cycles : Nat} {s : State} (h : Canon c q s) : CanonOut c q (execSearchStageDeadline cycles s) := by
  unfold execSearchStageDeadline
  split
  · exact keptOut_next h
  · split
    · exact keptOut_next (kept_finishSearch h)
    · exact keptOut_next h

theorem kept_execSearchEnd {s : State} (h : Canon c q s) : CanonOut c q (execSearchEnd s) := by
  unfold execSearchEnd
  split
  · exact keptOut_next h
  · exact keptOut_next (kept_finishSearch h)

theorem kept_execMplCheck {p : Port} {ev : CheckEvent} {s : State} (h : Canon c q s) : CanonOut c q (execMplCheck p ev s) :=
  kept_onPort rowOk_rowMplCheck h

theorem kept_execMplCheckInline {p : Port} {ev : CheckEvent} {s : State} (h : Canon c q s) : CanonOut c q (execMplCheckInline p ev s) :=
  kept_onPort rowOk_rowMplCheckInline h

theorem kept_execMplCandidates {p : Port} {s : State} (h : Canon c q s) : CanonOut c q (execMplCandidates p s) :=
  kept_onPort rowOk_rowMplCandidates h

theorem kept_execMplStatus {p : Port} {s : State} (h : Canon c q s) : CanonOut c q (execMplStatus p s) :=
  kept_onPort rowOk_rowMplStatus h

theorem kept_urgentFault {s : State} {i : Isl} {req : List Word} (h : Canon c q s) (u : Byte × State)
    (hu : urgentFault s i req = some u) : Canon c q u.2 := by
  unfold urgentFault at hu
  have hm : Canon c q (setMpl s (fun m => setUrgAlive m i (urgAlive m i + 1))) :=
    kept_setMpl h fun _ h => by
      unfold setUrgAlive
      split <;> exact h
  split at hu
  · cases hu
    exact h
  · dsimp only at hu
    split at hu
    · cases hu
      exact hm
    · split at hu
      · cases hu
        exact hm
      · split at hu
        · cases hu
          exact hm
        · cases hu

theorem kept_urgentServe {s : State} {i : Isl} {req : List Word} {ev : CheckEvent} {ns : Nat} (h : Canon c q s) : Canon c q
    (urgentServe s i req ev ns).2 := by
  unfold urgentServe
  extract_lets s1
  have hs1 : Canon c q s1 := kept_setMpl h (fun _ h2 => mplOk_setUrgAlive h2)
  split
  · dsimp only
    exact kept_fresh hs1
  · split
    · dsimp only
      exact kept_fresh hs1
    · split
      · dsimp only
        exact kept_checkEvent (kept_fresh hs1)
      · exact hs1

theorem kept_execUrgentCheckRequest {i : Isl} {req : List Word} {ev : CheckEvent} {serviceNs : Nat} {s : State} (h : Canon c q s) :
    CanonOut c q (execUrgentCheckRequest i req ev serviceNs s) := by
  unfold execUrgentCheckRequest
  split
  · exact keptOut_next h
  · dsimp only
    exact keptOut_next (kept_emit (kept_modIsl (by
      split
      · dsimp only
        exact kept_fresh h
      · split
        · rename_i u7 e8
          have hs9 : Canon c q u7 := kept_urgentFault h _ e8
          dsimp only
          exact kept_fresh hs9
        · exact kept_urgentServe h) (fun _ h12 => h12)))

theorem kept_sendReport {s : State} {ws : List Word} (h : Canon c q s) : Canon c q (sendReport s ws) :=
  kept_bothIsl h (fun _ h1 => ite_ok h1 h1)

theorem kept_execOutputGate {ev : CheckEvent} {s : State} (h : Canon c q s) : CanonOut c q (execOutputGate ev s) := by
  unfold execOutputGate
  refine keptOut_next (kept_ite h ?_)
  extract_lets choice s1 s2
  have h1 : Canon c q s1 := kept_setMpl h fun _ h => h
  have h2 : Canon c q s2 := kept_ite (kept_checkEvent h1) h1
  clear_value choice
  split
  · exact kept_sendReport (kept_setMpl (kept_putSlot h2) fun _ h => h)
  · exact kept_sendReport (kept_setMpl h2 fun _ h => h)

theorem kept_heldDone {s : State} {w : HeldWrite} (h : Canon c q s) : Canon c q (heldDone s w) := by
  unfold heldDone
  split
  · exact kept_finishStores h
  · exact kept_ite (kept_emit h) h

theorem kept_execOccupancyWriteRelease {s : State} (h : Canon c q s) : CanonOut c q (execOccupancyWriteRelease s) := by
  unfold execOccupancyWriteRelease
  split
  · exact keptOut_next h
  · split
    · exact keptOut_next h
    · exact keptOut_next (kept_heldDone (kept_releaseWrite (kept_setMpl h (fun _ h9 => h9))))

theorem kept_execPrimitiveWriteRelease {s : State} (h : Canon c q s) : CanonOut c q (execPrimitiveWriteRelease s) := by
  unfold execPrimitiveWriteRelease
  split
  · exact keptOut_next h
  · split
    · exact keptOut_next h
    · exact keptOut_next (kept_heldDone (kept_releaseWrite (kept_setMpl h (fun _ h9 => h9))))

theorem kept_execMplDeferredCommit {s : State} (h : Canon c q s) : CanonOut c q (execMplDeferredCommit s) :=
  keptOut_next (kept_flushMpl h)

theorem kept_execSamplePublish {livery : Byte} {stream : Fin 20} {w : Word} {now : Nat} {s : State} (h : Canon c q s) : CanonOut c q
    (execSamplePublish livery stream w now s) := by
  unfold execSamplePublish
  extract_lets s1
  have hs1 : Canon c q s1 := kept_with h
  split
  · exact keptOut_next (kept_emit (kept_fwRefuse hs1))
  · split
    · exact keptOut_next (kept_emit hs1)
    · split
      · exact keptOut_next (kept_emit hs1)
      · exact keptOut_next (kept_emit (kept_publishWord hs1))

theorem kept_execSampleBufferWriteRelease {s : State} (h : Canon c q s) : CanonOut c q (execSampleBufferWriteRelease s) := by
  unfold execSampleBufferWriteRelease
  split
  · exact keptOut_next h
  · dsimp only
    exact keptOut_next (kept_heldDone (kept_setFus h (fun _ h7 => memOk_memWr h7)))

theorem kept_takeSample {n : Nat} {acc : State × Stream × Bool} {p : Publish} (h : Canon c q acc.1) : Canon c q (takeSample n acc p).1 :=
    by
  unfold takeSample
  split
  · extract_lets q5
    split
    · exact h
    · dsimp only
      exact kept_mod14 h

theorem kept_phaseOne {x : FusCfg} {start : Nat} {s : State} {n : Nat} (h : Canon c q s) : Canon c q (phaseOne x start s n) := by
  have hl (l : List Publish) (a : State × Stream × Bool) (ha : Canon c q a.1) : Canon c q (l.foldl (takeSample n) a).1 := by
    induction l generalizing a with
    | nil => exact ha
    | cons p r ih => exact ih _ (kept_takeSample ha)
  unfold phaseOne
  extract_lets st st0
  refine kept_ite (kept_modStream h) ?_
  have h0 := hl st.pubs (s, st0, false) h
  generalize st.pubs.foldl (takeSample n) (s, st0, false) = r at h0
  obtain ⟨u, st1, failed⟩ := r
  exact kept_modStream (kept_ite (kept_mod14 h0) h0)

theorem kept_execFusionRoundStart {now : Nat} {s : State} (h : Canon c q s) : CanonOut c q (execFusionRoundStart now s) := by
  unfold execFusionRoundStart
  refine keptOut_next ?_
  extract_lets +onlyGivenNames s1
  have h1 : Canon c q s1 := kept_flushFus h
  generalize roundStart s1 = r
  split
  refine kept_ite h1 ?_
  extract_lets +onlyGivenNames x clear s2 s3 s4 used
  have h3 : Canon c q s3 := kept_setFus (kept_with h1) fun _ h => h
  have h4 : Canon c q s4 := kept_forAll h3 fun _ _ h => kept_phaseOne h
  exact kept_setFus h4 fun _ h => h

theorem kept_maskOutlier {s : State} {n : Nat} (h : Canon c q s) : Canon c q (maskOutlier s n) := by
  unfold maskOutlier
  exact kept_modStream (kept_ite h (kept_mod14 h))

theorem kept_egoPhase {s : State} {c' : FusCfg} {used : List (Nat × Sample)} (h : Canon c q s) : Canon c q (egoPhase s c' used).2 := by
  unfold egoPhase
  dsimp only
  exact kept_forAll h (fun _ _ h1 => kept_ite (kept_maskOutlier (kept_modStream h1)) (kept_modStream h1))

theorem kept_liftOutlier {c' : FusCfg} {s : State} {n : Nat} (h : Canon c q s) : Canon c q (liftOutlier c' s n) :=
  kept_modStream h

theorem kept_fusSignal {s : State} (h : Canon c q s) : Canon c q (fusSignal s) :=
  kept_ite h (by
    split
    · exact kept_logF (kept_with h)
    · exact kept_ite (kept_signalObj h) (kept_logF (kept_with h)))

theorem kept_publishRound {s : State} {r : Round} {now : Nat} (h : Canon c q s) : Canon c q (publishRound s r now) := by
  unfold publishRound
  extract_lets +onlyGivenNames _ _ _ s1 _
  have he : Canon c q (egoPhase s1 (fusCfg s.fus.cfg) r.used).2 := kept_egoPhase (kept_fresh h)
  split
  rename_i e s2 heq
  have h2 := kept_of_snd he heq
  split
  extract_lets +onlyGivenNames dns base tracks pos blocks a got maskedN tracks1 coverOf voted tracks2 outs s3 newMask s4 tracks3 alive
      deleted backs free b flags gen tab usedOf rep s5 s6 s7
  have h3 : Canon c q s3 := kept_forAll h2 fun _ _ h => kept_modStream h
  have h4 : Canon c q s4 := kept_forAll h3 fun _ _ h => kept_maskOutlier h
  have h5 : Canon c q s5 := kept_forAll h4 fun _ _ h => kept_modStream h
  have h6 : Canon c q s6 := kept_forAll h5 fun _ _ h => kept_liftOutlier h
  refine kept_fusSignal (kept_setFus h6 fun u h => ?_)
  have hu : FusOk c (if u.pub then { u with table0 := tab } else { u with table1 := tab }) := ite_ok h h
  exact hu

theorem kept_execFusionPublish {now : Nat} {s : State} (h : Canon c q s) : CanonOut c q (execFusionPublish now s) := by
  unfold execFusionPublish
  split
  · exact keptOut_next h
  · exact keptOut_next (kept_publishRound (kept_with h))

theorem kept_execFusDeferredCommit {s : State} (h : Canon c q s) : CanonOut c q (execFusDeferredCommit s) :=
  keptOut_next (kept_flushFus h)

theorem kept_execFusCfg {p : Port} {s : State} (h : Canon c q s) : CanonOut c q (execFusCfg p s) :=
  kept_onPort rowOk_rowFusCfg h

theorem kept_execFusMask {p : Port} {s : State} (h : Canon c q s) : CanonOut c q (execFusMask p s) :=
  kept_onPort rowOk_rowFusMask h

theorem kept_execFusUnmask {p : Port} {s : State} (h : Canon c q s) : CanonOut c q (execFusUnmask p s) :=
  kept_onPort rowOk_rowFusUnmask h

theorem kept_execFusTracks {p : Port} {s : State} (h : Canon c q s) : CanonOut c q (execFusTracks p s) :=
  kept_onPort rowOk_rowFusTracks h

theorem kept_execFusReport {p : Port} {s : State} (h : Canon c q s) : CanonOut c q (execFusReport p s) :=
  kept_onPort rowOk_rowFusReport h

theorem kept_execFusClear {p : Port} {s : State} (h : Canon c q s) : CanonOut c q (execFusClear p s) :=
  kept_onPort rowOk_rowFusClear h

theorem kept_execCvuCfg {p : Port} {s : State} (h : Canon c q s) : CanonOut c q (execCvuCfg p s) :=
  kept_onPort rowOk_rowCvuCfg h

theorem kept_execCvuFeed {p : Port} {s : State} (h : Canon c q s) : CanonOut c q (execCvuFeed p s) :=
  kept_onPort rowOk_rowCvuFeed h

theorem kept_execCvuResult {p : Port} {s : State} (h : Canon c q s) : CanonOut c q (execCvuResult p s) :=
  kept_onPort rowOk_rowCvuResult h

theorem kept_execCvuResultReset {p : Port} {s : State} (h : Canon c q s) : CanonOut c q (execCvuResultReset p s) :=
  kept_onPort rowOk_rowCvuResultReset h

theorem kept_execCvuAliveRead {p : Port} {s : State} (h : Canon c q s) : CanonOut c q (execCvuAliveRead p s) :=
  kept_onPort rowOk_rowCvuAliveRead h

theorem kept_execCvuAliveLoad {p : Port} {s : State} (h : Canon c q s) : CanonOut c q (execCvuAliveLoad p s) :=
  kept_onPort rowOk_rowCvuAliveLoad h

theorem kept_execCvuAliveCheck {p : Port} {s : State} (h : Canon c q s) : CanonOut c q (execCvuAliveCheck p s) :=
  kept_onPort rowOk_rowCvuAliveCheck h

theorem kept_execCvuAliveAdvance {p : Port} {s : State} (h : Canon c q s) : CanonOut c q (execCvuAliveAdvance p s) :=
  kept_onPort rowOk_rowCvuAliveAdvance h

theorem kept_atOpen {s : State} {t : FwTarget} {f : State → State} (h : Canon c q s) (hf : ∀ u, Canon c q u → Canon c q (f u)) :
    CanonOut c q (atOpen s t f) := keptOut_next (kept_ite (hf _ h) h)

theorem kept_atCvu {s : State} {k : CvuId} {f : Cvu → Cvu} (h : Canon c q s) : CanonOut c q (atCvu s k f) :=
  kept_atOpen h (fun _ h1 => kept_modCvu h1)

theorem kept_execCvuFeed8 {k : CvuId} {v : Word} {s : State} (h : Canon c q s) : CanonOut c q (execCvuFeed8 k v s) :=
  kept_atCvu h

theorem kept_execCvuFeed16 {k : CvuId} {v : Word} {s : State} (h : Canon c q s) : CanonOut c q (execCvuFeed16 k v s) :=
  kept_atCvu h

theorem kept_execCvuFeed32 {k : CvuId} {v : Word} {s : State} (h : Canon c q s) : CanonOut c q (execCvuFeed32 k v s) :=
  kept_atCvu h

theorem kept_execCvuConfigWrite {k : CvuId} {reg : Fin 5} {v : Word} {s : State} (h : Canon c q s) : CanonOut c q
    (execCvuConfigWrite k reg v s) :=
  kept_atCvu h

theorem kept_execCvuAliveWrite {k : CvuId} {v : Word} {s : State} (h : Canon c q s) : CanonOut c q (execCvuAliveWrite k v s) :=
  kept_atCvu h

theorem kept_execCvuAlchkWrite {k : CvuId} {v : Word} {s : State} (h : Canon c q s) : CanonOut c q (execCvuAlchkWrite k v s) :=
  kept_atCvu h

theorem kept_execCvuReset {k : CvuId} {s : State} (h : Canon c q s) : CanonOut c q (execCvuReset k s) :=
  kept_atCvu h

theorem kept_execCvuAdvance {k : CvuId} {s : State} (h : Canon c q s) : CanonOut c q (execCvuAdvance k s) :=
  kept_atCvu h

theorem kept_execCvuClrcnt {k : CvuId} {s : State} {skipHit repHit : optParam Bool false} (h : Canon c q s) : CanonOut c q
    (execCvuClrcnt k s skipHit repHit) :=
  kept_atCvu h

theorem kept_execLatchedLoRead {pair : PairId} {s : State} (h : Canon c q s) : CanonOut c q (execLatchedLoRead pair s) := by
  unfold execLatchedLoRead
  split
  · dsimp only
    exact keptOut_next (kept_emit (kept_readLo h))
  · exact keptOut_next h

theorem kept_execLatchedHiRead {pair : PairId} {s : State} (h : Canon c q s) : CanonOut c q (execLatchedHiRead pair s) := by
  unfold execLatchedHiRead
  split
  · dsimp only
    exact keptOut_next (kept_emit (kept_readHi h))
  · exact keptOut_next h

theorem kept_execRegisterWrite {livery : Byte} {addr : BitVec 48} {v : Word} {s : State} (h : Canon c q s) : CanonOut c q
    (execRegisterWrite livery addr v s) := by
  unfold execRegisterWrite
  split
  · rename_i e4
    have hs5 := kept_of_refused (admitOk_grants h) e4
    exact keptOut_next (kept_emit hs5)
  · rename_i e9
    have hs10 := kept_of_spot (admitOk_grants h) e9
    split
    · exact keptOut_next (kept_emit (kept_writeReg hs10))
    · exact keptOut_next hs10

theorem kept_execLnkClrcnt {n : DieId} {s : State} {spHit scHit pcHit iodHit : optParam Bool false} (h : Canon c q s) : CanonOut c q
    (execLnkClrcnt n s spHit scHit pcHit iodHit) :=
  kept_atOpen h (fun _ h1 => kept_with (kept_modDie (kept_lnkClr h1) (fun _ h2 => h2)))

theorem kept_execTeCfgWrite {g : EngId} {v : Word} {s : State} (h : Canon c q s) : CanonOut c q (execTeCfgWrite g v s) :=
  kept_atOpen h (fun _ h1 => kept_modEng h1 (fun _ h2 => engOk_teCfgSet h2))

theorem kept_execTeChkstatClr {g : EngId} {s : State} {wsHit resHit abftHit : optParam Bool false} (h : Canon c q s) : CanonOut c q
    (execTeChkstatClr g s wsHit resHit abftHit) :=
  kept_atOpen h (fun _ h1 => kept_modEng h1 (fun _ h2 => engOk_clrChk h2))

theorem kept_execTeNumcntClr {g : EngId} {s : State} {satHit nanHit : optParam Bool false} (h : Canon c q s) : CanonOut c q
    (execTeNumcntClr g s satHit nanHit) :=
  kept_atOpen h (fun _ h1 => kept_modEng h1 (fun _ h2 => engOk_clrNum h2))

theorem kept_execKpmClrhwm {s : State} (h : Canon c q s) : CanonOut c q (execKpmClrhwm s) :=
  kept_atOpen h (fun _ h1 => kept_clrHwm h1)

theorem kept_execMplCommit {s : State} (h : Canon c q s) : CanonOut c q (execMplCommit s) :=
  kept_atOpen h (fun _ h1 => kept_mplCommitNow h1)

theorem kept_execMplClrck {s : State} {mismHit : optParam Bool false} (h : Canon c q s) : CanonOut c q (execMplClrck s mismHit) :=
  kept_atOpen h (fun _ h1 => kept_setMpl h1 (fun _ h2 => mplOk_mplClrck h2))

theorem kept_execFusCommit {s : State} (h : Canon c q s) : CanonOut c q (execFusCommit s) :=
  kept_atOpen h (fun _ h1 => kept_fusCommitNow h1)

theorem kept_execMctCtlCommit {n : DieId} {s : State} (h : Canon c q s) : CanonOut c q (execMctCtlCommit n s) :=
  kept_atOpen h (fun _ h1 => kept_commitMct h1)

theorem kept_execMctClrcnt {n : DieId} {s : State} {ceHit ueHit forcedHit : optParam Bool false} (h : Canon c q s) : CanonOut c q
    (execMctClrcnt n s ceHit ueHit forcedHit) :=
  kept_atOpen h (fun _ h1 => kept_modMct h1)

theorem kept_execSisBeat {i : Isl} {now : Nat} {s : State} (h : Canon c q s) : CanonOut c q (execSisBeat i now s) :=
  keptOut_next (kept_beatIsl (kept_with h))

theorem kept_execSisClrcnt {i : Isl} {s : State} {withheldHit disagreeHit timeoutHit : optParam Bool false} (h : Canon c q s) : CanonOut c
    q (execSisClrcnt i s withheldHit disagreeHit timeoutHit) :=
  keptOut_next (kept_modIsl h (fun _ h1 => islOk_clrSis h1))

theorem kept_execFwlRegionWrite {livery : Byte} {t : FwTarget} {off : Fin 16384} {v : Word} {s : State} (h : Canon c q s) : CanonOut c q
    (execFwlRegionWrite livery t off v s) := by
  unfold execFwlRegionWrite
  extract_lets b
  split
  · exact keptOut_next (kept_emit (kept_decodeRefuse h))
  · split
    · exact keptOut_next (kept_emit (kept_timeOut h))
    · split
      · split
        · exact keptOut_next (kept_emit h)
        · exact keptOut_next (kept_emit (kept_modFwl h))
      · exact keptOut_next (kept_emit (kept_fwRefuse h))

theorem kept_execStateMessageSend {i : Isl} {s : State} (h : Canon c q s) : CanonOut c q (execStateMessageSend i s) := by
  unfold execStateMessageSend
  extract_lets x
  have hx : IslOk c x := islOk_isl h
  split
  · exact keptOut_next h
  · exact keptOut_next (kept_modIsl (kept_ite (kept_modEdge (kept_ite (kept_modEdge (kept_emit h)) (kept_emit h)))
        (kept_ite (kept_modEdge (kept_emit h)) (kept_emit h))) (fun _ h3 => h3))

theorem kept_execIslandStateMessage {i : Isl} {msg : List Word} {s : State} (h : Canon c q s) : CanonOut c q
    (execIslandStateMessage i msg s) := by
  unfold execIslandStateMessage
  extract_lets x
  have hx : IslOk c x := islOk_isl h
  split
  · exact keptOut_next h
  · split
    · exact keptOut_next (kept_orderIsl (kept_modIsl h (fun _ h4 => islOk_withOther h4)))
    · exact keptOut_next (kept_modIsl h (fun _ h6 => islOk_withOther h6))

theorem kept_execHeartbeatLapse {i : Isl} {now : Nat} {s : State} (h : Canon c q s) : CanonOut c q (execHeartbeatLapse i now s) := by
  unfold execHeartbeatLapse
  extract_lets x
  have hx : IslOk c x := islOk_isl h
  split
  · exact keptOut_next h
  · exact keptOut_next (kept_failIsl (kept_modIsl (kept_with h) (fun _ h3 => h3)))

theorem kept_execXmonLapse {i : Isl} {differ : Bool} {s : State} (h : Canon c q s) : CanonOut c q (execXmonLapse i differ s) := by
  unfold execXmonLapse
  extract_lets x
  have hx : IslOk c x := islOk_isl h
  split
  · exact keptOut_next h
  · exact keptOut_next (kept_logOpen (kept_modIsl h (fun _ h3 => h3)))

theorem kept_execLockstepMismatch {i : Isl} {s : State} (h : Canon c q s) : CanonOut c q (execLockstepMismatch i s) := by
  unfold execLockstepMismatch
  split
  · exact keptOut_next h
  · exact keptOut_next (kept_orderIsl (kept_failIsl h))

theorem kept_sendCheck {s : State} {i : Isl} {st : IslStep} (h : Canon c q s) : Canon c q (sendCheck s i st) :=
  kept_modIsl h (fun _ h1 => h1)

theorem kept_islStep5 {s : State} {i : Isl} (h : Canon c q s) : Canon c q (islStep5 s i) :=
  kept_ite (kept_sendCheck h) (kept_modIsl h (fun _ h1 => h1))

theorem kept_islStep4 {s : State} {i : Isl} (h : Canon c q s) : Canon c q (islStep4 s i) :=
  kept_ite (kept_modIsl h (fun _ h1 => h1)) (kept_islStep5 (kept_modIsl h (fun _ h2 => by
    split
    · exact h2
    · exact h2)))

theorem kept_islStep3 {s : State} {i : Isl} (h : Canon c q s) : Canon c q (islStep3 s i) :=
  kept_modIsl h (fun _ h1 => by
    split
    · exact h1
    · exact h1)

theorem kept_islStep2 {s : State} {i : Isl} (h : Canon c q s) : Canon c q (islStep2 s i) := by
  unfold islStep2
  extract_lets x
  have hx : IslOk c x := islOk_isl h
  split
  · exact kept_ite (kept_sendCheck (kept_putSlot (kept_fresh h))) (kept_islStep4 (kept_islStep3 h))
  · exact kept_islStep4 (kept_islStep3 h)

theorem kept_islStep1 {s : State} {i : Isl} (h : Canon c q s) : Canon c q (islStep1 s i) :=
  kept_ite (kept_sendCheck (kept_putSlot h)) (kept_islStep2 h)

theorem kept_execGateReport {i : Isl} {ramFault : Bool} {s : State} (h : Canon c q s) : CanonOut c q (execGateReport i ramFault s) := by
  unfold execGateReport
  refine keptOut_next ?_
  split
  · exact h
  · extract_lets s1 x take again
    have h1 : Canon c q s1 := kept_modIsl h fun _ h => h
    have ht : Canon c q (take s1) := kept_modIsl h1 fun _ h => h
    have ha : Canon c q (again (take s1)) := kept_modIsl ht fun _ h => h
    refine kept_ite h1 (kept_ite (kept_ramFails h1) (kept_ite h1 ?_))
    split
    · exact kept_ite (kept_islStep5 ha) (kept_ite h1 (kept_islStep1 ht))
    · exact kept_islStep5 ha
    · exact ht

theorem kept_execIslandNoReportStart {i : Isl} {ramFault : Bool} {s : State} (h : Canon c q s) : CanonOut c q
    (execIslandNoReportStart i ramFault s) := by
  unfold execIslandNoReportStart
  extract_lets x
  have hx : IslOk c x := islOk_isl h
  split
  · exact keptOut_next h
  · split
    · exact keptOut_next (kept_ramFails h)
    · exact keptOut_next (kept_islStep1 (kept_modIsl h (fun _ h5 => h5)))

theorem kept_checkLost {s : State} {i : Isl} (h : Canon c q s) : Canon c q (checkLost s i) := by
  unfold checkLost
  extract_lets s1
  have hs1 : Canon c q s1 := kept_modIsl h (fun _ h2 => h2)
  split
  · exact kept_modIsl hs1 (fun _ h5 => h5)
  · exact kept_islStep4 (kept_islStep3 hs1)

theorem kept_retryCheck {s : State} {i : Isl} {v : BitVec 8} (h : Canon c q s) : Canon c q (retryCheck s i v) :=
  kept_ite (kept_checkLost h) (kept_modIsl h (fun _ h1 => h1))

theorem kept_adoptShoe {s : State} {i : Isl} (h : Canon c q s) : Canon c q (adoptShoe s i) :=
  kept_bothEdge (kept_modIsl h (fun _ h1 => h1))

theorem kept_holdSlot {s : State} {i : Isl} {r : List Word} {step : Nat} {clear : Bool} (h : Canon c q s) : Canon c q
    (holdSlot s i r step clear) := by
  unfold holdSlot
  exact kept_modIsl h (fun _ h1 => h1)

theorem kept_checkDone {s : State} {i : Isl} {r : List Word} (h : Canon c q s) : Canon c q (checkDone s i r) := by
  unfold checkDone
  extract_lets clear
  split
  · exact h
  · exact kept_ite (kept_islStep4 (kept_adoptShoe (kept_holdSlot h))) (kept_islStep2 h)
  · exact kept_islStep4 (kept_holdSlot h)
  · exact kept_ite (kept_modIsl h (fun _ h9 => h9)) (kept_modIsl h (fun _ h10 => h10))

theorem kept_execUrgentReply {i : Isl} {roundTripNs : Nat} {s : State} {ramFault : optParam Bool false} (h : Canon c q s) : CanonOut c q
    (execUrgentReply i roundTripNs s ramFault) := by
  unfold execUrgentReply
  split
  · exact keptOut_next h
  · extract_lets s7
    have hs7 : Canon c q s7 := kept_modIsl h (fun _ h8 => h8)
    split
    · exact keptOut_next hs7
    · split
      · exact keptOut_next (kept_ramFails hs7)
      · split
        · exact keptOut_next (kept_retryCheck (kept_modIsl hs7 (fun _ h14 => h14)))
        · exact keptOut_next (kept_checkDone (kept_modIsl hs7 (fun _ h16 => h16)))

theorem kept_execUrgentReplyTimeout {i : Isl} {s : State} {ramFault : optParam Bool false} (h : Canon c q s) : CanonOut c q
    (execUrgentReplyTimeout i s ramFault) := by
  unfold execUrgentReplyTimeout
  extract_lets x
  have hx : IslOk c x := islOk_isl h
  split
  · exact keptOut_next h
  · split
    · exact keptOut_next (kept_ramFails h)
    · exact keptOut_next (kept_retryCheck h)

theorem kept_execReleaseMessage {e : Edge} {i : Isl} {s : State} (h : Canon c q s) : CanonOut c q (execReleaseMessage e i s) := by
  unfold execReleaseMessage
  split
  · exact keptOut_next h
  · extract_lets x
    split
    · exact keptOut_next h
    · exact keptOut_next (kept_modEdge h)

theorem kept_execDragShoeRecord {e : Edge} {i : Isl} {s : State} (h : Canon c q s) : CanonOut c q (execDragShoeRecord e i s) := by
  unfold execDragShoeRecord
  split
  · exact keptOut_next h
  · extract_lets x
    split
    · exact keptOut_next h
    · split
      · exact keptOut_next (kept_modEdge h)
      · split
        · exact keptOut_next (kept_modEdge h)
        · exact keptOut_next (kept_modEdge h)

theorem kept_execImmediateDragShoe {i : Isl} {s : State} (h : Canon c q s) : CanonOut c q (execImmediateDragShoe i s) := by
  unfold execImmediateDragShoe
  refine keptOut_next (kept_ite h ?_)
  extract_lets s1 s2 one
  have hone (u : State) (e : Edge) (hu : Canon c q u) : Canon c q (one u e) := by
    dsimp only [one]
    split
    · exact hu
    · exact kept_ite (kept_transmit hu) hu
  exact hone _ _ (hone _ _ (kept_setDis (kept_modIsl h fun _ h => h)))

theorem kept_execDieLost {n : DieId} {s : State} (h : Canon c q s) : CanonOut c q (execDieLost n s) := by
  unfold execDieLost
  split
  · exact keptOut_next (kept_loseDie h)
  · exact keptOut_next h

theorem kept_execIodCoreFault {s : State} (h : Canon c q s) : CanonOut c q (execIodCoreFault s) := by
  unfold execIodCoreFault
  split
  · exact keptOut_next (kept_faultIod h)
  · exact keptOut_next h

theorem kept_execRingEdgeFault {e : Edge} {s : State} (h : Canon c q s) : CanonOut c q (execRingEdgeFault e s) := by
  unfold execRingEdgeFault
  split
  · exact keptOut_next h
  · exact keptOut_next (kept_resetEdge (kept_logF h))

theorem kept_execRingEdgeReady {e : Edge} {s : State} (h : Canon c q s) : CanonOut c q (execRingEdgeReady e s) := by
  unfold execRingEdgeReady
  split
  · exact keptOut_next h
  · exact keptOut_next (kept_completeDefers (kept_loadOrp (kept_modEdge h)))

theorem kept_orderImm {s : State} {i : Isl} (h : Canon c q s) : Canon c q (orderImm s i) :=
  kept_modIsl h (fun _ h1 => h1)

theorem kept_execSupplyFault {dies : BitVec 12} {iod : Bool} {s : State} (h : Canon c q s) : CanonOut c q (execSupplyFault dies iod s) :=
    by
  unfold execSupplyFault
  extract_lets named
  split
  · exact keptOut_next h
  · split
    · exact keptOut_next (kept_faultIod (kept_forAll (kept_forAll (kept_logF h) (fun _ _ h4 => kept_ite (kept_orderImm h4) h4))
          (fun _ _ h5 => kept_loseDie h5)))
    · exact keptOut_next (kept_forAll (kept_forAll (kept_logF h) (fun _ _ h7 => kept_ite (kept_orderImm h7) h7))
          (fun _ _ h8 => kept_loseDie h8))

theorem kept_execClearanceMismatchLimit {s : State} (h : Canon c q s) : CanonOut c q (execClearanceMismatchLimit s) := by
  unfold execClearanceMismatchLimit
  split
  · exact keptOut_next (kept_restartIod h)
  · exact keptOut_next h

theorem kept_execMgtNotice {i : Isl} {s : State} (h : Canon c q s) : CanonOut c q (execMgtNotice i s) := by
  unfold execMgtNotice
  split
  · exact keptOut_next h
  · split
    · exact keptOut_next (kept_mgtSend (kept_modIsl h (fun _ h8 => h8)))
    · exact keptOut_next h

theorem kept_execLogbookProgram {i : Isl} {s : State} (h : Canon c q s) : CanonOut c q (execLogbookProgram i s) :=
  keptOut_next (kept_modIsl h (fun _ h1 => by
    split
    · exact h1
    · exact ite_ok h1 h1))

theorem kept_execDecisionDueNotice {u : UnitId} {te : Option (Fin 8)} {s : State} {link : optParam Bool false} (h : Canon c q s) :
    CanonOut c q (execDecisionDueNotice u te s link) := by
  unfold execDecisionDueNotice
  split
  · split
    · exact keptOut_next (kept_logF h)
    · exact keptOut_next h
  · exact keptOut_next h

theorem kept_execDiagLogRead {p : Port} {s : State} {ramFault : optParam Bool false} (h : Canon c q s) : CanonOut c q
    (execDiagLogRead p s ramFault) :=
  kept_onPort rowOk_rowDiagLogRead h

theorem kept_execDiagCounters {p : Port} {s : State} (h : Canon c q s) : CanonOut c q (execDiagCounters p s) :=
  kept_onPort rowOk_rowDiagCounters h

theorem kept_execDiagSelftest {p : Port} {s : State} (h : Canon c q s) : CanonOut c q (execDiagSelftest p s) :=
  kept_onPort rowOk_rowDiagSelftest h

theorem kept_execSisStatus {p : Port} {s : State} (h : Canon c q s) : CanonOut c q (execSisStatus p s) :=
  kept_onPort rowOk_rowSisStatus h

theorem kept_execSisFlashErase {p : Port} {s : State} (h : Canon c q s) : CanonOut c q (execSisFlashErase p s) :=
  kept_onPort rowOk_rowSisFlashErase h

theorem kept_execSisFlashProgram {p : Port} {s : State} (h : Canon c q s) : CanonOut c q (execSisFlashProgram p s) :=
  kept_onPort rowOk_rowSisFlashProgram h

theorem kept_execFlashOperationEnd {i : Isl} {s : State} (h : Canon c q s) : CanonOut c q (execFlashOperationEnd i s) := by
  unfold execFlashOperationEnd
  split
  · exact keptOut_next h
  · exact keptOut_next (kept_completeDefers (kept_modIsl h (fun _ h8 => ⟨h8.1, memOk_memWr h8.2⟩)))

theorem kept_execSisLogbook {p : Port} {s : State} (h : Canon c q s) : CanonOut c q (execSisLogbook p s) :=
  kept_onPort rowOk_rowSisLogbook h

theorem kept_execSecToken {p : Port} {s : State} (h : Canon c q s) : CanonOut c q (execSecToken p s) :=
  kept_onPort rowOk_rowSecToken h

theorem kept_execSecAttest {p : Port} {s : State} (h : Canon c q s) : CanonOut c q (execSecAttest p s) :=
  kept_onPort rowOk_rowSecAttest h

theorem kept_execSecFwOpen {p : Port} {s : State} (h : Canon c q s) : CanonOut c q (execSecFwOpen p s) :=
  kept_onPort rowOk_rowSecFwOpen h

theorem kept_execSecFwWrite {p : Port} {s : State} (h : Canon c q s) : CanonOut c q (execSecFwWrite p s) :=
  kept_onPort rowOk_rowSecFwWrite h

theorem kept_execSecFwActivate {p : Port} {s : State} (h : Canon c q s) : CanonOut c q (execSecFwActivate p s) :=
  kept_onPort rowOk_rowSecFwActivate h

theorem kept_execFwSwitch {s : State} (h : Canon c q s) : CanonOut c q (execFwSwitch s) := by
  unfold execFwSwitch
  split
  · exact keptOut_next h
  · split
    · exact keptOut_next h
    · dsimp only
      exact keptOut_next (kept_completeDefers (kept_with h))

theorem kept_execFwTrialConfirm {u : UnitId} {s : State} (h : Canon c q s) : CanonOut c q (execFwTrialConfirm u s) := by
  unfold execFwTrialConfirm
  split
  · split
    · dsimp only
      exact keptOut_next (kept_with (kept_bothIsl h (fun _ h3 => h3)))
    · exact keptOut_next h
  · split
    · exact keptOut_next (kept_modIsl h (fun _ h8 => h8))
    · exact keptOut_next h
  · exact keptOut_next h

theorem kept_execClkStatus {p : Port} {s : State} (h : Canon c q s) : CanonOut c q (execClkStatus p s) :=
  kept_onPort rowOk_rowClkStatus h

theorem kept_execClkSelect {p : Port} {s : State} (h : Canon c q s) : CanonOut c q (execClkSelect p s) :=
  kept_onPort rowOk_rowClkSelect h

theorem kept_execClkGateOpen {p : Port} {s : State} (h : Canon c q s) : CanonOut c q (execClkGateOpen p s) :=
  kept_onPort rowOk_rowClkGateOpen h

theorem kept_execClkGateClose {p : Port} {s : State} (h : Canon c q s) : CanonOut c q (execClkGateClose p s) :=
  kept_onPort rowOk_rowClkGateClose h

theorem kept_execClockSourceLost {c' : ClkSrc} {s : State} (h : Canon c q s) : CanonOut c q (execClockSourceLost c' s) := by
  unfold execClockSourceLost
  split
  · exact keptOut_next h
  · extract_lets k
    split
    · exact keptOut_next (kept_setClk h)
    · exact keptOut_next (kept_logF (kept_setClk h))

theorem kept_execClockSourceReady {c' : ClkSrc} {s : State} (h : Canon c q s) : CanonOut c q (execClockSourceReady c' s) := by
  unfold execClockSourceReady
  split
  · exact keptOut_next h
  · dsimp only
    exact keptOut_next (kept_setClk h)

theorem kept_execClockRampEnd {grp : Fin 13} {s : State} (h : Canon c q s) : CanonOut c q (execClockRampEnd grp s) :=
  keptOut_next (kept_setClk h)

theorem kept_execRstUnitReset {p : Port} {s : State} (h : Canon c q s) : CanonOut c q (execRstUnitReset p s) :=
  kept_onPort rowOk_rowRstUnitReset h

theorem kept_execRstUnitReadmit {p : Port} {s : State} (h : Canon c q s) : CanonOut c q (execRstUnitReadmit p s) :=
  kept_onPort rowOk_rowRstUnitReadmit h

theorem kept_execRstUnitRetire {p : Port} {s : State} (h : Canon c q s) : CanonOut c q (execRstUnitRetire p s) :=
  kept_onPort rowOk_rowRstUnitRetire h

theorem kept_execOrpBypassClose {p : Port} {s : State} (h : Canon c q s) : CanonOut c q (execOrpBypassClose p s) :=
  kept_onPort rowOk_rowOrpBypassClose h

theorem kept_execOrpBypassOpen {p : Port} {s : State} (h : Canon c q s) : CanonOut c q (execOrpBypassOpen p s) :=
  kept_onPort rowOk_rowOrpBypassOpen h

theorem kept_execBypassAutoClose {e : Edge} {s : State} (h : Canon c q s) : CanonOut c q (execBypassAutoClose e s) :=
  keptOut_next (kept_modEdge h)

theorem kept_execBypassAutoOpen {e : Edge} {s : State} (h : Canon c q s) : CanonOut c q (execBypassAutoOpen e s) := by
  unfold execBypassAutoOpen
  split
  · exact keptOut_next h
  · extract_lets s3
    have hs3 : Canon c q s3 := kept_modEdge h
    split
    · exact keptOut_next (kept_modEdge hs3)
    · exact keptOut_next hs3

theorem kept_bypassFault {s : State} {e : Edge} {close : Bool} (h : Canon c q s) : Canon c q (bypassFault s e close) :=
  kept_completeDefers (kept_logF h)

theorem kept_overtaken {s : State} {e : Edge} {goal : Bool} (h : Canon c q s) : Canon c q (overtaken s e goal) :=
  kept_ite (kept_bypassFault h) h

theorem kept_execBypassMoveEnd {e : Edge} {ok : Bool} {s : State} (h : Canon c q s) : CanonOut c q (execBypassMoveEnd e ok s) := by
  unfold execBypassMoveEnd
  extract_lets x
  split
  · exact keptOut_next h
  · split
    · exact keptOut_next (kept_bypassFault (kept_modEdge (kept_overtaken h)))
    · split
      · exact keptOut_next (kept_completeDefers (kept_modEdge (kept_overtaken h)))
      · exact keptOut_next (kept_modEdge (kept_overtaken h))

theorem kept_execDownstreamLinkUp {e : Edge} {s : State} (h : Canon c q s) : CanonOut c q (execDownstreamLinkUp e s) := by
  unfold execDownstreamLinkUp
  split
  · exact keptOut_next h
  · dsimp only
    exact keptOut_next (kept_completeDefers (kept_modEdge h))

theorem kept_deliverRing {s : State} (h : Canon c q s) : Canon c q (deliverRing s) := by
  unfold deliverRing
  split
  · exact h
  · split
    · exact h
    · exact kept_hbmSet (kept_fresh h)

theorem kept_deliverFrame {s : State} {e : Edge} {f : Frame} (h : Canon c q s) : Canon c q (deliverFrame s e f) :=
  kept_ite (kept_deliverRing (kept_ite (kept_emit h) h)) (kept_ite (kept_emit h) h)

theorem kept_passOn {s : State} {e : Edge} {f : Frame} {waiting : Nat} (h : Canon c q s) : Canon c q (passOn s e f waiting) :=
  kept_ite h (kept_ite (kept_modEdge h) (kept_emit h))

theorem kept_execRingFrameReceive {e : Edge} {f : Frame} {waiting : Nat} {s : State} (h : Canon c q s) : CanonOut c q
    (execRingFrameReceive e f waiting s) := by
  unfold execRingFrameReceive
  split
  · exact keptOut_next h
  · split
    · split
      · exact keptOut_next (kept_modEdge h)
      · exact keptOut_next h
    · split
      · exact keptOut_next h
      · exact keptOut_next (kept_deliverFrame (kept_passOn h))

theorem kept_execMgtFrameReceive {i : Isl} {f : Frame} {s : State} (h : Canon c q s) : CanonOut c q (execMgtFrameReceive i f s) := by
  unfold execMgtFrameReceive
  split
  · exact keptOut_next h
  · exact keptOut_next (kept_mgtIntake (kept_modMgt h))

theorem kept_execPciePostedWrite {bar : Fin 6} {off : Nat} {data : List Byte} {s : State} (h : Canon c q s) :
    CanonOut c q (execPciePostedWrite bar off data s) := by
  unfold execPciePostedWrite
  refine keptOut_next (kept_ite h (kept_ite ?_ (kept_with h)))
  split
  · exact kept_hbmPut h
  · exact kept_with h

theorem kept_execPcieRead {bar : Fin 6} {off len : Nat} {s : State} {ramFault : optParam Bool false} (h : Canon c q s) : CanonOut c q
    (execPcieRead bar off len s ramFault) := by
  unfold execPcieRead
  split
  · exact keptOut_next h
  · split
    · split
      · exact keptOut_next (kept_emit h)
      · split
        · exact keptOut_next (kept_emit h)
        · split
          · rename_i u15 e16
            have hu15 := kept_of_snd (kept_hbmGet h) e16
            exact keptOut_next (kept_emit hu15)
          · rename_i u18 e19
            have hu18 := kept_of_snd (kept_hbmGet h) e19
            exact keptOut_next (kept_emit hu18)
    · split
      · split
        · exact keptOut_next (kept_emit h)
        · split
          · exact keptOut_next (kept_emit (kept_ramFails h))
          · exact keptOut_next (kept_emit (kept_fresh h))
          · exact keptOut_next (kept_emit (kept_fresh h))
      · exact keptOut_next (kept_emit h)

theorem kept_execThmStatus {p : Port} {s : State} (h : Canon c q s) : CanonOut c q (execThmStatus p s) :=
  kept_onPort rowOk_rowThmStatus h

theorem kept_execThmLimits {p : Port} {s : State} (h : Canon c q s) : CanonOut c q (execThmLimits p s) :=
  kept_onPort rowOk_rowThmLimits h

theorem kept_execThmAgeing {p : Port} {s : State} (h : Canon c q s) : CanonOut c q (execThmAgeing p s) :=
  kept_onPort rowOk_rowThmAgeing h

theorem kept_dropReports {s : State} (h : Canon c q s) : Canon c q (dropReports s) :=
  kept_bothEdge (kept_bothIsl h (fun _ h1 => h1))

theorem kept_rootGate {s : State} {g : Nat} {closed : Bool} (h : Canon c q s) : Canon c q (rootGate s g closed) :=
  kept_setGate h

theorem kept_holdAll {s : State} (h : Canon c q s) : Canon c q (holdAll s) :=
  kept_ite h (kept_forAll (kept_forAll (kept_dropReports (kept_restartIod (kept_with h))) (fun _ _ h1 => kept_resetDie h1))
      (fun _ _ h2 => kept_rootGate h2))

theorem kept_declareSudden {s : State} {i : Isl} (h : Canon c q s) : Canon c q (declareSudden s i) :=
  kept_holdAll (kept_orderImm (kept_modIsl (kept_bothIsl (kept_logF h) (fun _ h1 => h1)) (fun _ h2 => h2)))

theorem kept_execLidSensorSample {i : Isl} {x : LidSample} {s : State} (h : Canon c q s) : CanonOut c q (execLidSensorSample i x s) := by
  unfold execLidSensorSample
  split
  · exact keptOut_next h
  · extract_lets ok
    split
    · exact keptOut_next (kept_declareSudden (kept_ite (kept_logF (kept_modIsl h (fun _ h4 => h4))) (kept_modIsl h (fun _ h5 => h5))))
    · exact keptOut_next (kept_ite (kept_logF (kept_modIsl h (fun _ h7 => h7))) (kept_modIsl h (fun _ h8 => h8)))

theorem kept_execOutletSlopeEval {i : Isl} {s : State} (h : Canon c q s) : CanonOut c q (execOutletSlopeEval i s) := by
  unfold execOutletSlopeEval
  split
  · exact keptOut_next h
  · extract_lets s3
    have hs3 : Canon c q s3 := kept_modIsl h (fun _ h4 => h4)
    split
    · exact keptOut_next (kept_declareSudden hs3)
    · exact keptOut_next hs3

theorem islOk_evalLevel {s : State} {x : Island} (h : Canon c q s) (h'1 : IslOk c x) : IslOk c (evalLevel s x) :=
  h'1

theorem kept_execThermalLevelEval {i : Isl} {s : State} (h : Canon c q s) : CanonOut c q (execThermalLevelEval i s) := by
  unfold execThermalLevelEval
  extract_lets was
  split
  · split
    · exact keptOut_next (kept_logF (kept_bothIsl (kept_setIsl h (islOk_evalLevel h (islOk_isl h))) (fun _ h3 => h3)))
    · exact keptOut_next (kept_setHpt (kept_logF (kept_bothIsl (kept_setIsl h (islOk_evalLevel h (islOk_isl h))) (fun _ h5 => h5))))
  · exact keptOut_next (kept_bothIsl (kept_setIsl h (islOk_evalLevel h (islOk_isl h))) (fun _ h7 => h7))

theorem kept_ageNote {s : State} {unit : Nat} (h : Canon c q s) : Canon c q (ageNote s unit) :=
  kept_logF h

theorem kept_execJunctionReport {u : ThmUnit} {logic hbm : Int} {degr hot : Nat} {s : State} (h : Canon c q s) :
    CanonOut c q (execJunctionReport u logic hbm degr hot s) := by
  unfold execJunctionReport
  refine keptOut_next ?_
  extract_lets +onlyGivenNames dg ht
  split
  · rename_i n
    extract_lets s1 put s2 s3
    have hp (t : State) (h : Canon c q t) : Canon c q (put t) := kept_modDie h fun _ h => h
    have h1 : Canon c q s1 := kept_ite (kept_ageNote (kept_modDie h fun _ h => h)) h
    have h3 : Canon c q s3 := kept_modDie (kept_logF h1) fun _ h => h
    exact kept_ite (hp _ (kept_rootGate (kept_ite h3 (kept_ite (kept_loseDie h3) (kept_resetOut h3))))) (hp _ h1)
  · extract_lets s1 put s2
    have hp (t : State) (h : Canon c q t) : Canon c q (put t) := kept_setIod h
    have h1 : Canon c q s1 := kept_ite (kept_ageNote (kept_setIod h)) h
    exact kept_ite (hp _ (kept_restartIod (kept_setIod (kept_logF h1)))) (hp _ h1)
  · exact kept_modIsl (kept_ite (kept_ageNote (kept_modIsl h fun _ h => h)) h) fun _ h => h

theorem kept_releaseDie {s : State} {n : DieId} (h : Canon c q s) : Canon c q (releaseDie s n) :=
  kept_ite (kept_modDie h (fun _ h1 => h1)) h

theorem kept_execThermalDieRestart {n : DieId} {s : State} (h : Canon c q s) : CanonOut c q (execThermalDieRestart n s) := by
  have h1 : Canon c q (modDie s n fun d => { d with thermal := false }) := kept_modDie h fun _ h => h
  exact keptOut_next (kept_ite (kept_releaseDie (kept_ite h1 (kept_rootGate h1))) h)

theorem kept_execIodThermalRelease {s : State} (h : Canon c q s) : CanonOut c q (execIodThermalRelease s) := by
  unfold execIodThermalRelease
  split
  · exact keptOut_next (kept_setIod h)
  · exact keptOut_next h

theorem kept_execSuddenLossHoldEnd {s : State} (h : Canon c q s) : CanonOut c q (execSuddenLossHoldEnd s) :=
  keptOut_next (kept_ite (kept_forAll (kept_rootGate (kept_setIod h)) fun _ _ h => kept_ite h (kept_releaseDie (kept_rootGate h))) h)

theorem kept_execPortLinkUp {l : ExtLink} {s : State} (h : Canon c q s) : CanonOut c q (execPortLinkUp l s) := by
  unfold execPortLinkUp
  split
  · split
    · exact keptOut_next h
    · exact keptOut_next (kept_setIod h)
  · split
    · exact keptOut_next h
    · exact keptOut_next (kept_setIod h)
  · split
    · exact keptOut_next h
    · exact keptOut_next (kept_emit (kept_setIod h))
  · split
    · exact keptOut_next h
    · exact keptOut_next (kept_modMgt h)
  · exact keptOut_next h

theorem kept_execPortLinkDown {l : ExtLink} {s : State} (h : Canon c q s) : CanonOut c q (execPortLinkDown l s) := by
  unfold execPortLinkDown
  split
  · split
    · exact keptOut_next (kept_setIod h)
    · exact keptOut_next h
  · split
    · exact keptOut_next (kept_setIod h)
    · exact keptOut_next h
  · exact keptOut_next (kept_setIod h)
  · exact keptOut_next (kept_modMgt h)
  · exact keptOut_next (kept_modEdge h)

theorem kept_execDownstreamLinkTimeout {e : Edge} {s : State} (h : Canon c q s) : CanonOut c q (execDownstreamLinkTimeout e s) := by
  unfold execDownstreamLinkTimeout
  split
  · exact keptOut_next (kept_bypassFault h)
  · exact keptOut_next h

theorem kept_execSensorDataReceive {stream : Fin 20} {data : List Byte} {s : State} (h : Canon c q s) : CanonOut c q
    (execSensorDataReceive stream data s) := by
  unfold execSensorDataReceive
  split
  · exact keptOut_next h
  · split
    · exact keptOut_next h
    · dsimp only
      exact keptOut_next (kept_hbmSet (kept_fresh (kept_fresh h)))

theorem kept_exec {i : Instr} {s : State} (h : Canon c q s) : CanonOut c q (exec i s) := by
  unfold exec
  split
  · exact kept_execPowerGood h
  · exact kept_execPorstAssert h
  · exact kept_execIslandResetRelease h
  · exact kept_execIslandResetAssert h
  · exact kept_execIslandActive h
  · exact kept_execIodResetRelease h
  · exact kept_execComputePairRelease h
  · exact kept_execMctTrainingEnd h
  · exact kept_execLinkTrained h
  · exact kept_execDieReady h
  · exact kept_execPortReady h
  · exact kept_execIodCoreReady h
  · exact kept_execIodCoreReset h
  · exact kept_execHtPut h
  · exact kept_execHtGet h
  · exact kept_execHtReget h
  · exact kept_execHtStat h
  · exact kept_execHtClr h
  · exact kept_execHtInvalid h
  · exact kept_execUndefinedOpcode h
  · exact kept_execSysIdentity h
  · exact kept_execSysEcho h
  · exact kept_execSysAliveSync h
  · exact kept_execSysAlertEn h
  · exact kept_execStgGet h
  · exact kept_execStgSet h
  · exact kept_execTtOpen h
  · exact kept_execTtWrite h
  · exact kept_execTtVerify h
  · exact kept_execTtVerifyEnd h
  · exact kept_execTtArm h
  · exact kept_execTtCancel h
  · exact kept_execTtStatus h
  · exact kept_execProfileSet h
  · exact kept_execProfileApply h
  · exact kept_execTtSwitch h
  · exact kept_execStageTick h
  · exact kept_execReplicaTick h
  · exact kept_execLayoverStart h
  · exact kept_execOutputCutoff h
  · exact kept_execReexecSetEnd h
  · exact kept_execRelayMoveDue h
  · exact kept_execRelayMoveEnd h
  · exact kept_execReadmitMoveEnd h
  · exact kept_execAsSyncLost h
  · exact kept_execAsSyncRegained h
  · exact kept_execAsPortFailover h
  · exact kept_execAsPortReturn h
  · exact kept_execWbSubmit h
  · exact kept_execWaybillComplete h
  · exact kept_execWbStatus h
  · exact kept_execQQuery h
  · exact kept_execCtxPreempt h
  · exact kept_execPreemptComplete h
  · exact kept_execCtxResume h
  · exact kept_execCtxRebind h
  · exact kept_execRebindMilepost h
  · exact kept_execDoorbell h
  · exact kept_execTableMirrorEnd h
  · exact kept_execSynInit h
  · exact kept_execSynSignal h
  · exact kept_execSynDecrement h
  · exact kept_execSynWait h
  · exact kept_execSynWaitTimeout h
  · exact kept_execSynQuery h
  · exact kept_execDescriptorSignal h
  · exact kept_execMemRead h
  · exact kept_execMemWrite h
  · exact kept_execMemFill h
  · exact kept_execMemCopy h
  · exact kept_execMemCopyEnd h
  · exact kept_execMctCommit h
  · exact kept_execFabricAccess h
  · exact kept_execWriteDrain h
  · exact kept_execMctHeldRead h
  · exact kept_execHbmUeLimit h
  · exact kept_execHbmCeNotice h
  · exact kept_execRefreshDebtAccrue h
  · exact kept_execRefreshIssue h
  · exact kept_execForcedRefresh h
  · exact kept_execPatrolScrub h
  · exact kept_execIslandMemPiece h
  · exact kept_execLinkFlitError h
  · exact kept_execRetryExhaustion h
  · exact kept_execLinkDown h
  · exact kept_execRouteChange h
  · exact kept_execFabricTimeout h
  · exact kept_execNop h
  · exact kept_execGemm h
  · exact kept_execGemmAa h
  · exact kept_execConvDense h
  · exact kept_execConvGrouped h
  · exact kept_execConvDepthwise h
  · exact kept_execAttnScore h
  · exact kept_execAttnValue h
  · exact kept_execAppend h
  · exact kept_execCompact h
  · exact kept_execVecAdd h
  · exact kept_execVecMul h
  · exact kept_execVecFma h
  · exact kept_execVecMax h
  · exact kept_execVecMin h
  · exact kept_execVecExp h
  · exact kept_execVecRecip h
  · exact kept_execVecRsqrt h
  · exact kept_execVecConvert h
  · exact kept_execVecReduceSum h
  · exact kept_execVecReduceMax h
  · exact kept_execMaxPool h
  · exact kept_execAveragePoolPaddingCounted h
  · exact kept_execAveragePoolPaddingNotCounted h
  · exact kept_execNearestNeighbourResize h
  · exact kept_execBilinearResize h
  · exact kept_execSoftmaxFirst h
  · exact kept_execSoftmaxStep h
  · exact kept_execSoftmaxFinal h
  · exact kept_execLoad h
  · exact kept_execStore h
  · exact kept_execHaloSend h
  · exact kept_execHaloMessageArrive h
  · exact kept_execHaloRecvCopy h
  · exact kept_execHaloRecvAdd h
  · exact kept_execWait h
  · exact kept_execDescriptorComplete h
  · exact kept_execWeightFetch h
  · exact kept_execEngineHang h
  · exact kept_execEngineWithdraw h
  · exact kept_execSelftestSlice h
  · exact kept_execSelftestSliceEnd h
  · exact kept_execSelftestDeferLimit h
  · exact kept_execKvAlloc h
  · exact kept_execKvFree h
  · exact kept_execKvShare h
  · exact kept_execKvQuery h
  · exact kept_execKvStats h
  · exact kept_execKvWritePrepare h
  · exact kept_execKvCopyEnd h
  · exact kept_execMplCfg h
  · exact kept_execMplSearch h
  · exact kept_execMplSearchBuild h
  · exact kept_execFieldBuildStart h
  · exact kept_execFieldPublish h
  · exact kept_execSearchTimeBudget h
  · exact kept_execSearchStageDeadline h
  · exact kept_execSearchEnd h
  · exact kept_execMplCheck h
  · exact kept_execMplCheckInline h
  · exact kept_execMplCandidates h
  · exact kept_execMplStatus h
  · exact kept_execUrgentCheckRequest h
  · exact kept_execOutputGate h
  · exact kept_execOccupancyWriteRelease h
  · exact kept_execPrimitiveWriteRelease h
  · exact kept_execMplDeferredCommit h
  · exact kept_execSamplePublish h
  · exact kept_execSampleBufferWriteRelease h
  · exact kept_execFusionRoundStart h
  · exact kept_execFusionPublish h
  · exact kept_execFusDeferredCommit h
  · exact kept_execFusCfg h
  · exact kept_execFusMask h
  · exact kept_execFusUnmask h
  · exact kept_execFusTracks h
  · exact kept_execFusReport h
  · exact kept_execFusClear h
  · exact kept_execCvuCfg h
  · exact kept_execCvuFeed h
  · exact kept_execCvuResult h
  · exact kept_execCvuResultReset h
  · exact kept_execCvuAliveRead h
  · exact kept_execCvuAliveLoad h
  · exact kept_execCvuAliveCheck h
  · exact kept_execCvuAliveAdvance h
  · exact kept_execCvuFeed8 h
  · exact kept_execCvuFeed16 h
  · exact kept_execCvuFeed32 h
  · exact kept_execCvuConfigWrite h
  · exact kept_execCvuAliveWrite h
  · exact kept_execCvuAlchkWrite h
  · exact kept_execCvuReset h
  · exact kept_execCvuAdvance h
  · exact kept_execCvuClrcnt h
  · exact kept_execLatchedLoRead h
  · exact kept_execLatchedHiRead h
  · exact kept_execRegisterWrite h
  · exact kept_execLnkClrcnt h
  · exact kept_execTeCfgWrite h
  · exact kept_execTeChkstatClr h
  · exact kept_execTeNumcntClr h
  · exact kept_execKpmClrhwm h
  · exact kept_execMplCommit h
  · exact kept_execMplClrck h
  · exact kept_execFusCommit h
  · exact kept_execMctCtlCommit h
  · exact kept_execMctClrcnt h
  · exact kept_execSisBeat h
  · exact kept_execSisClrcnt h
  · exact kept_execFwlRegionWrite h
  · exact kept_execStateMessageSend h
  · exact kept_execIslandStateMessage h
  · exact kept_execHeartbeatLapse h
  · exact kept_execXmonLapse h
  · exact kept_execLockstepMismatch h
  · exact kept_execGateReport h
  · exact kept_execIslandNoReportStart h
  · exact kept_execUrgentReply h
  · exact kept_execUrgentReplyTimeout h
  · exact kept_execReleaseMessage h
  · exact kept_execDragShoeRecord h
  · exact kept_execImmediateDragShoe h
  · exact kept_execDieLost h
  · exact kept_execIodCoreFault h
  · exact kept_execRingEdgeFault h
  · exact kept_execRingEdgeReady h
  · exact kept_execSupplyFault h
  · exact kept_execClearanceMismatchLimit h
  · exact kept_execMgtNotice h
  · exact kept_execLogbookProgram h
  · exact kept_execDecisionDueNotice h
  · exact kept_execDiagLogRead h
  · exact kept_execDiagCounters h
  · exact kept_execDiagSelftest h
  · exact kept_execSisStatus h
  · exact kept_execSisFlashErase h
  · exact kept_execSisFlashProgram h
  · exact kept_execFlashOperationEnd h
  · exact kept_execSisLogbook h
  · exact kept_execSecToken h
  · exact kept_execSecAttest h
  · exact kept_execSecFwOpen h
  · exact kept_execSecFwWrite h
  · exact kept_execSecFwActivate h
  · exact kept_execFwSwitch h
  · exact kept_execFwTrialConfirm h
  · exact kept_execClkStatus h
  · exact kept_execClkSelect h
  · exact kept_execClkGateOpen h
  · exact kept_execClkGateClose h
  · exact kept_execClockSourceLost h
  · exact kept_execClockSourceReady h
  · exact kept_execClockRampEnd h
  · exact kept_execRstUnitReset h
  · exact kept_execRstUnitReadmit h
  · exact kept_execRstUnitRetire h
  · exact kept_execOrpBypassClose h
  · exact kept_execOrpBypassOpen h
  · exact kept_execBypassAutoClose h
  · exact kept_execBypassAutoOpen h
  · exact kept_execBypassMoveEnd h
  · exact kept_execDownstreamLinkUp h
  · exact kept_execRingFrameReceive h
  · exact kept_execMgtFrameReceive h
  · exact kept_execPciePostedWrite h
  · exact kept_execPcieRead h
  · exact kept_execThmStatus h
  · exact kept_execThmLimits h
  · exact kept_execThmAgeing h
  · exact kept_execLidSensorSample h
  · exact kept_execOutletSlopeEval h
  · exact kept_execThermalLevelEval h
  · exact kept_execJunctionReport h
  · exact kept_execThermalDieRestart h
  · exact kept_execIodThermalRelease h
  · exact kept_execSuddenLossHoldEnd h
  · exact kept_execPortLinkUp h
  · exact kept_execPortLinkDown h
  · exact kept_execDownstreamLinkTimeout h
  · exact kept_execSensorDataReceive h

end

end Sys2Proof.Proofs

/-! A step: the commands left, and the memories (95; 12). -/

namespace Sys2Proof.Proofs

open Sys2Proof.Machine Sys2Proof.Safety Sys2Proof.Laws

theorem step_nil {s : State} (h : s.pending = []) : step s = .next s := by
  simp [step, h]

theorem memoriesCanonical_of_kept {q : List Instr} {s : State} (h : Canon True q s) : MemoriesCanonical s where
  dies e he := ⟨(h.dies e he).1 trivial, (h.dies e he).2 trivial⟩
  engines e he := by
    obtain ⟨hr, h0, h1, w0, w1⟩ := h.engines e he
    exact ⟨hr trivial, h0 trivial, h1 trivial, w0 trivial, w1 trivial⟩
  ram i := (islOk_isl h).1 trivial
  flash i := (islOk_isl h).2 trivial
  sram := h.mpl.1 trivial
  field := ⟨h.mpl.2.1 trivial, h.mpl.2.2 trivial⟩
  fusion := h.fus trivial

theorem kept_of_memoriesCanonical {s : State} (h : MemoriesCanonical s) (q : List Instr) : Canon True q { s with pending := q } where
  pending := rfl
  dies e he := ⟨fun _ => (h.dies e he).1, fun _ => (h.dies e he).2⟩
  engines e he := by
    obtain ⟨hr, h0, h1, w0, w1⟩ := h.engines e he
    exact ⟨fun _ => hr, fun _ => h0, fun _ => h1, fun _ => w0, fun _ => w1⟩
  sia := ⟨fun _ => h.ram .sia, fun _ => h.flash .sia⟩
  sib := ⟨fun _ => h.ram .sib, fun _ => h.flash .sib⟩
  mpl := ⟨fun _ => h.sram, fun _ => h.field.1, fun _ => h.field.2⟩
  fus := fun _ => h.fusion

/-- Under the false condition nothing is said of the memories. -/
theorem kept_pending {s : State} {q : List Instr} : Canon False q { s with pending := q } where
  pending := rfl
  dies _ _ := ⟨False.elim, False.elim⟩
  engines _ _ := ⟨False.elim, False.elim, False.elim, False.elim, False.elim⟩
  sia := ⟨False.elim, False.elim⟩
  sib := ⟨False.elim, False.elim⟩
  mpl := ⟨False.elim, False.elim, False.elim⟩
  fus := False.elim

/-- Settles O2: every command keeps the queue it finds, and a step hands it the rest of the queue. -/
theorem stepTakesOneCommand : Obligations.StepTakesOneCommand := by
  unfold Obligations.StepTakesOneCommand
  refine ⟨fun s => step_nil, fun s t hs => ?_⟩
  cases hp : s.pending with
  | nil =>
    rw [step_nil hp] at hs
    cases hs
    exact hp
  | cons x r =>
    rw [step_cons hp] at hs
    exact (kept_exec kept_pending t hs).pending

/-- Settles O3: every command keeps the canonical form of every memory. -/
theorem memoriesStayCanonical : Obligations.MemoriesStayCanonical := by
  unfold Obligations.MemoriesStayCanonical
  intro s t h hs
  cases hp : s.pending with
  | nil =>
    rw [step_nil hp] at hs
    cases hs
    exact h
  | cons x r =>
    rw [step_cons hp] at hs
    exact memoriesCanonical_of_kept (kept_exec (kept_of_memoriesCanonical h r) t hs)

end Sys2Proof.Proofs

/-! Synchronisation objects (11 R400-R412, Table 11-2). -/

namespace Sys2Proof.Proofs

open Sys2Proof.Machine Sys2Proof.Safety Sys2Proof.Laws

/-! Objects, one beside the others. -/

theorem obj_setObj (s : State) (n : Nat) (o : SynObj) : obj (setObj s n o) n = o := bankGet_bankSet_self _ _ _ _

theorem obj_setObj_ne (s : State) {n m : Nat} (o : SynObj) (h : m ≠ n) : obj (setObj s n o) m = obj s m := bankGet_bankSet_ne _ _ _ h

theorem setObj_hpt (s : State) (n : Nat) (o : SynObj) : (setObj s n o).hpt = s.hpt := rfl

theorem obj_of_syn {s t : State} (h : t.syn.objs = s.syn.objs) (m : Nat) : obj t m = obj s m := congrArg (bankGet defObj · m) h

theorem setObj_setWaiting (s : State) (p : Port) (l : List Pkt) (n : Nat) (o : SynObj) :
    setObj (setWaiting s p l) n o = setWaiting (setObj s n o) p l := by
  rcases p with _ | _ | _ <;> rfl

theorem obj_setWaiting (s : State) (p : Port) (l : List Pkt) (n : Nat) : obj (setWaiting s p l) n = obj s n := by
  rcases p with _ | _ | _ <;> rfl

theorem pktObj_setWaiting (s : State) (p : Port) (l : List Pkt) (k : Pkt) (r : Word) : pktObj (setWaiting s p l) k r = pktObj s k r := by
  rcases p with _ | _ | _ <;> rfl

theorem syn_of_offPorts {s t : State} (h : offPorts t = offPorts s) : t.syn = s.syn := (congrArg State.syn h :)

/-- The objects stand through the reply to a packet that waits alone. -/
theorem obj_answered {s u : State} {k : Pkt} (h : Alone s .host k) (hu : u.hpt = s.hpt) (st : Byte) (data : List Word) (m : Nat) :
    obj (answered .host k st data (setWaiting u .host [])) m = obj u m :=
  obj_of_syn (congrArg Syn.objs (syn_of_offPorts (offPorts_answered h (.of_eq hu) st data))) m

/-- An object's waiters whose demand is met: what they took, that they are the first, and that the next finds too little. -/
theorem satisfied_takes (v : Nat) (ws : List Waiter) :
    ((satisfied v ws).map (fun e => waiterN e.1)).sum + ((satisfied v ws).getLast?.map (·.2)).getD v = v ∧
    (satisfied v ws).map (·.1) = ws.take (satisfied v ws).length ∧
    ∀ w, (ws.drop (satisfied v ws).length).head? = some w → ((satisfied v ws).getLast?.map (·.2)).getD v < waiterN w := by
  induction ws generalizing v with
  | nil => simp [satisfied]
  | cons w r ih =>
    obtain ⟨hsum, hfirst, hnext⟩ := ih (v - waiterN w)
    by_cases hw : waiterN w ≤ v
    · have hs : satisfied v (w :: r) = (w, v - waiterN w) :: satisfied (v - waiterN w) r := if_pos hw
      have hl : ((satisfied v (w :: r)).getLast?.map (·.2)).getD v =
          ((satisfied (v - waiterN w) r).getLast?.map (·.2)).getD (v - waiterN w) := by
        rw [hs, List.getLast?_cons]
        cases (satisfied (v - waiterN w) r).getLast? <;> rfl
      rw [hl, hs]
      refine ⟨?_, ?_, hnext⟩
      · rw [List.map_cons, List.sum_cons, Nat.add_assoc, hsum]
        exact Nat.add_sub_cancel' hw
      · simp [hfirst]
    · have hs : satisfied v (w :: r) = [] := if_neg hw
      simp [hs, Nat.lt_of_not_le hw]

/-- An object without waiters serves nobody. -/
theorem serveObj_idle {s : State} {n : Nat} (h : (obj s n).waiters = []) : serveObj s n = setObj s n (obj s n) := by
  unfold serveObj
  simp [h, satisfied, forAll, modObj]
  rw [← h]

/-- An object after a signal. -/
def counted (o : SynObj) (c : Nat) : SynObj :=
  { o with value := min (o.value + c) o.limit, sat := o.sat || decide (o.limit < o.value + c) }

/-- The state in which a signal has counted, before the object serves its waiters. -/
def countedAt (s : State) (n c : Nat) : State :=
  if (obj s n).limit < (obj s n).value + c then
    { setObj s n (counted (obj s n) c) with syn := { (setObj s n (counted (obj s n) c)).syn with sat := true } }
  else setObj s n (counted (obj s n) c)

theorem signalObj_eq (s : State) (n c : Nat) : signalObj s n c =
    (if (obj s n).limit < (obj s n).value + c then stSaturated else stOk, serveObj (countedAt s n c) n) := rfl

theorem countedAt_objs (s : State) (n c : Nat) : (countedAt s n c).syn.objs = (setObj s n (counted (obj s n) c)).syn.objs := by
  unfold countedAt
  split <;> rfl

theorem obj_countedAt (s : State) (n c : Nat) : obj (countedAt s n c) n = counted (obj s n) c :=
  (obj_of_syn (countedAt_objs s n c) n).trans (obj_setObj _ _ _)

theorem countedAt_hpt (s : State) (n c : Nat) : (countedAt s n c).hpt = s.hpt := by
  unfold countedAt
  split <;> rfl

theorem countedAt_setWaiting (s : State) (p : Port) (l : List Pkt) (n c : Nat) :
    countedAt (setWaiting s p l) n c = setWaiting (countedAt s n c) p l := by
  unfold countedAt
  rw [obj_setWaiting, setObj_setWaiting]
  split
  · rcases p with _ | _ | _ <;> rfl
  · rfl

/-- A signal of an object without waiters counts and does nothing else. -/
theorem serveObj_countedAt {s : State} {n : Nat} (h : (obj s n).waiters = []) (c : Nat) :
    serveObj (countedAt s n c) n = setObj (countedAt s n c) n (counted (obj s n) c) := by
  rw [serveObj_idle (by rw [obj_countedAt]; exact h), obj_countedAt]

theorem obj_counted_ne (s : State) {n m : Nat} (c : Nat) (o : SynObj) (h : m ≠ n) : obj (setObj (countedAt s n c) n o) m = obj s m :=
  (obj_setObj_ne _ _ h).trans ((obj_of_syn (countedAt_objs s n c) m).trans (obj_setObj_ne _ _ h))

/-! The opcodes of class 0x3 (Table 11-2). -/

/-- The record that SYN_INIT makes. -/
def madeObj (s : State) (k : Pkt) : SynObj := {
  st := 1, binary := tbit (par k 0) 16, held := (ctxRec s (pktCtx k)).pre, owner := fld (par k 0) 23 20, value := parN k 1
  limit := parN k 2, named := true }

theorem synInit_answers {s : State} {k : Pkt} {n : Nat} (h : Ready s .host 3 0 3 k) (hn : pktObj s k 0xFF0E0000 = some n)
    (h13 : fld (par k 0) 23 20 ≠ 13) (h14 : fld (par k 0) 23 20 ≠ 14)
    (hd : fld (par k 0) 23 20 < 12 → dieInSvc s (fld (par k 0) 23 20) = true) (hv : parN k 1 ≤ parN k 2) (h1 : 1 ≤ parN k 2)
    (hl : parN k 2 ≤ 0xFFFFFF) (hb : tbit (par k 0) 16 = true → parN k 2 = 1) (hw : (obj s n).waiters = []) :
    exec (.synInit .host) s =
      .next (answered .host k stOk [objWord0 (obj s n)] (setWaiting (setObj s n (madeObj s k)) .host [])) := by
  refine onPort_answers h (ofRow_ready h rfl rfl rfl) (by simp [rowSynInit, opDef, fixedRow, h.len]) rfl (fun l => ?_)
  have hd' : (decide (fld (par k 0) 23 20 < 12) && !dieInSvc (setWaiting s .host l) (fld (par k 0) 23 20)) = false := by
    by_cases hf : fld (par k 0) 23 20 < 12
    · have hi : dieInSvc (setWaiting s .host l) (fld (par k 0) 23 20) = true := hd hf
      simp [hi]
    · simp [hf]
  have hb' : (tbit (par k 0) 16 && decide (parN k 2 ≠ 1)) = false := by
    cases hx : tbit (par k 0) 16 with
    | false => rfl
    | true => simp [hb hx]
  simp only [rowSynInit, opDef, pktObj_setWaiting, hn, obj_setWaiting, ctxRec_setWaiting, hd', hb', setObj_setWaiting]
  rw [if_neg (by simp [h13, h14]), if_neg (by simp; omega), if_neg (by simp; omega), if_neg (by simp [hw]), if_neg (by simp)]
  rfl

/-- SYN_SIGNAL and SYN_DECREMENT of an ACTIVE object do their operation and answer with the value. -/
theorem synOp_acts {s : State} {k : Pkt} {n : Nat} {op : State → Nat → Nat → Byte × State} (hn : pktObj s k 0x7FFF0000 = some n)
    (h1 : 1 ≤ parN k 1) (hl : parN k 1 ≤ 0xFFFFFF) (ha : (obj s n).st = 1) :
    synOp s k op = .answer (op s n (parN k 1)).1 [toW (obj (op s n (parN k 1)).2 n).value] (op s n (parN k 1)).2 := by
  simp only [synOp, hn, opPrecheck, ha]
  rw [if_neg (by omega), if_neg (by decide)]
  simp only [Bool.false_and, Bool.false_eq_true, if_false]
  rw [if_neg (by omega), if_neg (by decide)]

theorem synSignal_answers {s : State} {k : Pkt} {n : Nat} (h : Ready s .host 3 1 2 k) (hs : isDecrement k = false)
    (hn : pktObj s k 0x7FFF0000 = some n) (h1 : 1 ≤ parN k 1) (hl : parN k 1 ≤ 0xFFFFFF) (ha : (obj s n).st = 1)
    (hw : (obj s n).waiters = []) : exec (.synSignal .host) s =
      .next (answered .host k (if (obj s n).limit < (obj s n).value + parN k 1 then stSaturated else stOk)
        [toW (counted (obj s n) (parN k 1)).value]
        (setWaiting (setObj (countedAt s n (parN k 1)) n (counted (obj s n) (parN k 1))) .host [])) := by
  refine onPort_answers h (ofRow_ready h rfl rfl (by simp [rowSynSignal, opDef, hs])) (by simp [rowSynSignal, opDef, fixedRow, h.len]) rfl
    (fun l => ?_)
  have hx : signalObj (setWaiting s .host l) n (parN k 1) =
      (if (obj s n).limit < (obj s n).value + parN k 1 then stSaturated else stOk,
        setWaiting (setObj (countedAt s n (parN k 1)) n (counted (obj s n) (parN k 1))) .host l) := by
    rw [signalObj_eq, serveObj_countedAt (by rw [obj_setWaiting]; exact hw), countedAt_setWaiting, obj_setWaiting, setObj_setWaiting]
  have hr := synOp_acts (s := setWaiting s .host l) (op := signalObj) (by rw [pktObj_setWaiting]; exact hn) h1 hl
    (by rw [obj_setWaiting]; exact ha)
  rw [hx, obj_setWaiting, obj_setObj] at hr
  exact hr

theorem synQuery_answers {s : State} {k : Pkt} (h : Ready s .host 3 3 2 k) (h1 : 1 ≤ parN k 1) (hc : parN k 1 ≤ 4094)
    (hr : parN k 0 + parN k 1 ≤ synSize s (pktCtx k)) : exec (.synQuery .host) s = .next (answered .host k stOk
      ((List.range (parN k 1)).flatMap (fun i => objWords (obj s (synBase s (pktCtx k) + parN k 0 + i)))) (took s .host k)) := by
  rw [took_alone h.alone]
  refine onPort_answers h (ofRow_ready h rfl rfl rfl) (by simp [rowSynQuery, opDef, fixedRow, h.len]) rfl (fun l => ?_)
  have hz : synSize (setWaiting s .host l) (pktCtx k) = synSize s (pktCtx k) := rfl
  have hb : synBase (setWaiting s .host l) (pktCtx k) = synBase s (pktCtx k) := rfl
  simp only [rowSynQuery, opDef, hz, hb, obj_setWaiting]
  rw [if_neg (by omega), if_neg (by simp; omega), if_neg (by omega)]

/-- Settles O20: each opcode from its own lemma, the waiters by `satisfied_takes`. -/
theorem synchronisationValues : Obligations.SynchronisationValues := by
  refine ⟨?_, ?_, fun _ _ h h1 hc hr => synQuery_answers h h1 hc hr, satisfied_takes⟩
  · intro s k n h hn h13 h14 hd hv h1 hl hb hw
    have hp := setObj_hpt s n (madeObj s k)
    refine ⟨_, synInit_answers h hn h13 h14 hd hv h1 hl hb hw, ?_, ?_, fun m hm => ?_⟩
    · exact replied_alone h.alone (.of_eq hp) _ _
    · rw [obj_answered h.alone hp, obj_setObj]
      rfl
    · rw [obj_answered h.alone hp, obj_setObj_ne _ _ hm]
  · intro s k n h hs hn h1 hl ha hw
    have hp := (setObj_hpt _ n (counted (obj s n) (parN k 1))).trans (countedAt_hpt s n (parN k 1))
    refine ⟨_, synSignal_answers h hs hn h1 hl ha hw, ?_, ?_, fun m hm => ?_⟩
    · rw [obj_answered h.alone hp, obj_setObj]
      rfl
    · rw [obj_answered h.alone hp, obj_setObj]
      exact replied_alone h.alone (.of_eq hp) _ _
    · rw [obj_answered h.alone hp, obj_counted_ne _ _ _ hm]

/-! SYN_DECREMENT (R406). -/

/-- An object after a decrement. -/
def lowered (o : SynObj) (c : Nat) : SynObj := { o with value := o.value - c, under := o.under || decide (o.value < c) }

/-- The state after a decrement. -/
def loweredAt (s : State) (n c : Nat) : State :=
  if (obj s n).value < c then
    { setObj s n (lowered (obj s n) c) with syn := { (setObj s n (lowered (obj s n) c)).syn with under := true } }
  else setObj s n (lowered (obj s n) c)

theorem decrementObj_eq (s : State) (n c : Nat) : decrementObj s n c =
    (if (obj s n).value < c then stUnderflow else stOk, loweredAt s n c) := rfl

theorem loweredAt_objs (s : State) (n c : Nat) : (loweredAt s n c).syn.objs = (setObj s n (lowered (obj s n) c)).syn.objs := by
  unfold loweredAt
  split <;> rfl

theorem obj_loweredAt (s : State) (n c : Nat) : obj (loweredAt s n c) n = lowered (obj s n) c :=
  (obj_of_syn (loweredAt_objs s n c) n).trans (obj_setObj _ _ _)

theorem obj_loweredAt_ne (s : State) {n m : Nat} (c : Nat) (h : m ≠ n) : obj (loweredAt s n c) m = obj s m :=
  (obj_of_syn (loweredAt_objs s n c) m).trans (obj_setObj_ne _ _ h)

theorem loweredAt_hpt (s : State) (n c : Nat) : (loweredAt s n c).hpt = s.hpt := by
  unfold loweredAt
  split <;> rfl

theorem loweredAt_setWaiting (s : State) (p : Port) (l : List Pkt) (n c : Nat) :
    loweredAt (setWaiting s p l) n c = setWaiting (loweredAt s n c) p l := by
  unfold loweredAt
  rw [obj_setWaiting, setObj_setWaiting]
  split
  · rcases p with _ | _ | _ <;> rfl
  · rfl

theorem synDecrement_answers {s : State} {k : Pkt} {n : Nat} (h : Ready s .host 3 1 2 k) (hs : isDecrement k = true)
    (hn : pktObj s k 0x7FFF0000 = some n) (h1 : 1 ≤ parN k 1) (hl : parN k 1 ≤ 0xFFFFFF) (ha : (obj s n).st = 1) :
    exec (.synDecrement .host) s = .next (answered .host k (if (obj s n).value < parN k 1 then stUnderflow else stOk)
      [toW (lowered (obj s n) (parN k 1)).value] (setWaiting (loweredAt s n (parN k 1)) .host [])) := by
  refine onPort_answers h (ofRow_ready h rfl rfl (by simp [rowSynDecrement, opDef, hs]))
    (by simp [rowSynDecrement, opDef, fixedRow, h.len]) rfl (fun l => ?_)
  have hr := synOp_acts (s := setWaiting s .host l) (op := decrementObj) (by rw [pktObj_setWaiting]; exact hn) h1 hl
    (by rw [obj_setWaiting]; exact ha)
  rw [decrementObj_eq, loweredAt_setWaiting, obj_setWaiting, obj_setWaiting, obj_loweredAt] at hr
  exact hr

/-- Settles O21: a decrement never looks at the waiters. -/
theorem decrements : Obligations.Decrements := by
  intro s k n h hs hn h1 hl ha
  have hp := loweredAt_hpt s n (parN k 1)
  refine ⟨_, synDecrement_answers h hs hn h1 hl ha, ?_, ?_, fun m hm => ?_⟩
  · rw [obj_answered h.alone hp, obj_loweredAt]
    rfl
  · rw [obj_answered h.alone hp, obj_loweredAt]
    exact replied_alone h.alone (.of_eq hp) _ _
  · rw [obj_answered h.alone hp, obj_loweredAt_ne _ _ hm]

/-! Waits of the host, and signals of descriptors (R407-R412, R423). -/

/-- A SYN_WAIT that the value suffices for and that finds nobody waiting takes its count. -/
theorem synWait_takes {s : State} {k : Pkt} {n : Nat} (h : Ready s .host 3 2 3 k) (hn : pktObj s k 0xFFFF0000 = some n)
    (h1 : 1 ≤ parN k 1) (hl : parN k 1 ≤ 0xFFFFFF) (ha : (obj s n).st = 1) (hm : parN k 1 ≤ (obj s n).limit)
    (hw : (obj s n).waiters = []) (hv : parN k 1 ≤ (obj s n).value) : exec (.synWait .host) s =
      .next (answered .host k stOk [toW ((obj s n).value - parN k 1)]
        (setWaiting (setObj s n { obj s n with value := (obj s n).value - parN k 1 }) .host [])) := by
  refine onPort_answers h (ofRow_ready h rfl rfl rfl) (by simp [rowSynWait, opDef, fixedRow, h.len]) rfl (fun l => ?_)
  simp only [rowSynWait, opDef, pktObj_setWaiting, hn, obj_setWaiting, opPrecheck, setObj_setWaiting]
  rw [if_neg (by omega), if_neg (by omega), if_neg (by simp; omega)]
  dsimp only
  rw [if_neg (by omega), if_neg (by omega), if_pos (by simp [hw, hv])]

/-- The state in which a host waits at an object. -/
def hostQueued (s : State) (n c timeout : Nat) : State :=
  { modObj s n (fun o => { o with waiters := o.waiters ++ [.host s.syn.nextId c timeout] }) with
    syn := { (modObj s n (fun o => { o with waiters := o.waiters ++ [.host s.syn.nextId c timeout] })).syn with
      nextId := s.syn.nextId + 1, peak := max s.syn.peak (hostWaits s + 1) } }

theorem synWait_queues {s : State} {k : Pkt} {n : Nat} (h : Ready s .host 3 2 3 k) (hn : pktObj s k 0xFFFF0000 = some n)
    (h1 : 1 ≤ parN k 1) (hl : parN k 1 ≤ 0xFFFFFF) (ha : (obj s n).st = 1) (hm : parN k 1 ≤ (obj s n).limit)
    (hv : (obj s n).value < parN k 1) (hr : hostWaits s < 4096) : exec (.synWait .host) s =
      .next (deferred .host k (.synWait s.syn.nextId) (setWaiting (hostQueued s n (parN k 1) (parN k 2)) .host [])) := by
  refine onPort_defers h (ofRow_ready h rfl rfl rfl) (gate_ready h (by simp [rowSynWait, opDef, fixedRow, h.len]) rfl) (fun l => ?_)
  have hh : hostWaits (setWaiting s .host l) = hostWaits s := rfl
  simp only [rowSynWait, opDef, pktObj_setWaiting, hn, obj_setWaiting, opPrecheck, hh]
  rw [if_neg (by omega), if_neg (by omega), if_neg (by simp; omega)]
  dsimp only
  rw [if_neg (by omega), if_neg (by omega), if_neg (by simp; omega), if_neg (by omega)]
  rfl

theorem isHostWait_self {id c timeout : Nat} (h : timeout ≠ 0) : isHostWait id (.host id c timeout) = true := by
  simp [isHostWait, h]

/-- The state in which a host's wait has timed out, before its object serves the others. -/
def waitGone (s : State) (n : Nat) (id : Nat) : State :=
  completeDefers (modObj s n (fun o => { o with waiters := o.waiters.filter (fun w => !isHostWait id w) })) (.synWait id) stNotReady
    [execDetail]

theorem synWaitTimeout_eq {s : State} {n id c timeout : Nat} {o : SynObj} (hs : s.syn.objs = [(n, o)])
    (hw : o.waiters = [.host id c timeout]) (ht : timeout ≠ 0) : exec (.synWaitTimeout id) s = .next (serveObj (waitGone s n id) n) := by
  have hf : s.syn.objs.find? (fun e => e.2.waiters.any (isHostWait id)) = some (n, o) := by
    rw [hs, List.find?_cons_of_pos]
    simp [hw, isHostWait_self ht]
  show execSynWaitTimeout id s = _
  unfold execSynWaitTimeout
  rw [hf]
  rfl

theorem obj_waitGone {s : State} {n id c timeout : Nat} {o : SynObj} (hs : s.syn.objs = [(n, o)])
    (hw : o.waiters = [.host id c timeout]) (ht : timeout ≠ 0) : obj (waitGone s n id) n = { o with waiters := [] } := by
  have ho : obj s n = o := by simp [obj, bankGet, hs]
  have hx := obj_of_syn (congrArg Syn.objs (syn_of_offPorts (offPorts_completeDefers (modObj s n (fun o =>
    { o with waiters := o.waiters.filter (fun w => !isHostWait id w) })) (.synWait id) stNotReady [execDetail]))) n
  rw [waitGone, hx, obj_modObj, ho, hw]
  simp [isHostWait_self ht]

/-- The time-out takes the wait from its object and answers the host. -/
theorem synWaitTimeout_ends {s : State} {n id c timeout : Nat} {o : SynObj} (hs : s.syn.objs = [(n, o)])
    (hw : o.waiters = [.host id c timeout]) (ht : timeout ≠ 0) : ∃ t, exec (.synWaitTimeout id) s = .next t ∧
      obj t n = { o with waiters := [] } ∧ drew s t (.synWait id) stNotReady [execDetail] := by
  have ho := obj_waitGone hs hw ht
  refine ⟨_, synWaitTimeout_eq hs hw ht, ?_⟩
  rw [serveObj_idle (by rw [ho])]
  refine ⟨(obj_setObj _ _ _).trans ho, ?_⟩
  have hd := drew_completeDefers (modObj s n (fun o => { o with waiters := o.waiters.filter (fun w => !isHostWait id w) }))
    (.synWait id) stNotReady [execDetail]
  exact drew_of_portStands (s := s) rfl (.of_eq rfl) hd

/-- The signal of a descriptor leaves the engine. -/
def sigTaken (s : State) (g : EngId) (r : List (Nat × Nat)) : State := modEng s g (fun e => { e with sigs := r })

theorem descriptorSignal_counts {s : State} {g : EngId} {c v n : Nat} {r : List (Nat × Nat)} (hs : (eng s g).sigs = (c, v) :: r)
    (hp : physObj s c v = some n) (ha : (obj s n).st = 1) (hw : (obj s n).waiters = []) :
    ∃ t, exec (.descriptorSignal g) s = .next t ∧ (eng t g).sigs = r ∧
      (obj t n).value = min ((obj s n).value + 1) (obj s n).limit ∧ t.qmg = s.qmg := by
  have hx : exec (.descriptorSignal g) s =
      .next (setObj (countedAt (sigTaken s g r) n 1) n (counted (obj s n) 1)) := by
    show execDescriptorSignal g s = _
    have hp' : physObj (sigTaken s g r) c v = some n := hp
    have ha' : (obj (sigTaken s g r) n).st = 1 := ha
    unfold execDescriptorSignal
    rw [hs]
    dsimp only
    rw [← sigTaken, hp']
    dsimp only
    rw [if_pos ha', signalObj_eq]
    exact congrArg _ (serveObj_countedAt (s := sigTaken s g r) hw 1)
  have he : eng (setObj (countedAt (sigTaken s g r) n 1) n (counted (obj s n) 1)) g = eng (sigTaken s g r) g := by
    unfold countedAt
    split <;> rfl
  refine ⟨_, hx, ?_, ?_, ?_⟩
  · rw [he, sigTaken, eng_modEng_self]
  · rw [obj_setObj]
    rfl
  · unfold countedAt
    split <;> rfl

theorem descriptorSignal_drops {s : State} {g : EngId} {c v n : Nat} {r : List (Nat × Nat)} (hs : (eng s g).sigs = (c, v) :: r)
    (hp : physObj s c v = some n) (ha : (obj s n).st ≠ 1) : ∃ t, exec (.descriptorSignal g) s = .next t ∧ (eng t g).sigs = r ∧
      t.syn.badsig = true ∧ t.syn.objs = s.syn.objs := by
  have hx : exec (.descriptorSignal g) s = .next (logF { sigTaken s g r with syn := { (sigTaken s g r).syn with badsig := true } }
      { cls := 0x11, unit := dieOf g, sub := g.val % 8, livery := ctxLivery (sigTaken s g r) c }) := by
    show execDescriptorSignal g s = _
    have hp' : physObj (sigTaken s g r) c v = some n := hp
    have ha' : ¬ (obj (sigTaken s g r) n).st = 1 := ha
    unfold execDescriptorSignal
    rw [hs]
    dsimp only
    rw [← sigTaken, hp']
    dsimp only
    rw [if_neg ha']
  refine ⟨_, hx, ?_, by simp, by simp [sigTaken]⟩
  have he : eng (logF { sigTaken s g r with syn := { (sigTaken s g r).syn with badsig := true } }
      { cls := 0x11, unit := dieOf g, sub := g.val % 8, livery := ctxLivery (sigTaken s g r) c }) g = eng (sigTaken s g r) g :=
    eng_of_engines (by simp) g
  rw [he, sigTaken, eng_modEng_self]

/-- Settles O22: each clause from its own lemma. -/
theorem waits : Obligations.Waits := by
  refine ⟨?_, ?_, fun _ _ _ _ _ _ hs hw ht => synWaitTimeout_ends hs hw ht,
    fun _ _ _ _ _ _ hs hp ha hw => descriptorSignal_counts hs hp ha hw, fun _ _ _ _ _ _ hs hp ha => descriptorSignal_drops hs hp ha⟩
  · intro s k n h hn h1 hl ha hm hw hv
    have hp := setObj_hpt s n { obj s n with value := (obj s n).value - parN k 1 }
    refine ⟨_, synWait_takes h hn h1 hl ha hm hw hv, ?_, ?_, ?_⟩
    · exact replied_alone h.alone (.of_eq hp) _ _
    · rw [obj_answered h.alone hp, obj_setObj]
    · rw [answered_alone h.alone (.of_eq hp), reply_dis]
      rfl
  · intro s k n h hn h1 hl ha hm hv hr
    have hp : (hostQueued s n (parN k 1) (parN k 2)).hpt = s.hpt := rfl
    refine ⟨_, synWait_queues h hn h1 hl ha hm hv hr, ?_, ?_⟩ <;> rw [deferred_alone h.alone hp]
    · exact obj_setObj s n _
    · rfl

end Sys2Proof.Proofs

/-! Firewalls that refuse, and accesses at a stack (12 R432, R433; 13 R468, R469). -/

namespace Sys2Proof.Proofs

open Sys2Proof.Machine Sys2Proof.Safety Sys2Proof.Laws

/-! Entries of the fault log, in the islands (R516, R517). -/

/-- An island takes the entry of a fact. -/
theorem isl_logF_entry (s : State) (f : Fact) (i : Isl) : ∃ e : Entry, isl (logF s f) i = islTake (isl s i) e ∧ e.cls = f.cls ∧
    e.unit = f.unit ∧ e.status = f.status := by
  unfold logF
  dsimp only
  split
  · obtain ⟨g, he⟩ := isl_addEntry (fresh s).2 _ i
    exact ⟨_, he.trans (by rw [isl_fresh]), rfl, rfl, rfl⟩
  · obtain ⟨g, he⟩ := isl_addEntry s _ i
    exact ⟨_, he, rfl, rfl, rfl⟩

/-- An island in service has it as the newest. -/
theorem logged_islTake {t : State} {i : Isl} {x : Island} {e : Entry} (ht : isl t i = islTake x e) (h : inSvc x = true) {c : Entry → Prop}
    (hc : c e) : logged t i c := by
  refine ⟨(x.flogSeq.toNat, e), ?_, hc⟩
  rw [ht, islTake, if_pos h]
  rfl

theorem logged_logF {s : State} {f : Fact} {i : Isl} (h : inSvc (isl s i) = true) {c : Entry → Prop}
    (hc : ∀ e : Entry, e.cls = f.cls → e.unit = f.unit → e.status = f.status → c e) : logged (logF s f) i c := by
  obtain ⟨e, he, h1, h2, h3⟩ := isl_logF_entry s f i
  exact logged_islTake he h (hc e h1 h2 h3)

@[simp] theorem islTake_ram (x : Island) (e : Entry) : (islTake x e).ram = x.ram := by unfold islTake; split <;> rfl

@[simp] theorem islTake_flash (x : Island) (e : Entry) : (islTake x e).flash = x.flash := by unfold islTake; split <;> rfl

theorem logF_ram_flash (s : State) (f : Fact) (i : Isl) :
    (isl (logF s f) i).ram = (isl s i).ram ∧ (isl (logF s f) i).flash = (isl s i).flash := by
  obtain ⟨e, he, -, -, -⟩ := isl_logF_entry s f i
  rw [he]
  exact ⟨islTake_ram _ _, islTake_flash _ _⟩

/-! Firewalls (R468, R469). -/

theorem regionAllows_iff (r : Region) (l : Byte) (off n : Nat) (k : Kind) : regionAllows r l off n k = true ↔
    r.en = true ∧ r.size ≠ 0 ∧ 4096 * r.base ≤ off ∧ off + n ≤ 4096 * (r.base + r.size) ∧ r.allow.getLsbD l.toNat = true ∧ l ≠ 0xFF ∧
      (k = .read → r.r = true) ∧ (k = .write → r.w = true) := by
  cases k <;> simp [regionAllows, and_assoc]

theorem fwAllows_iff (s : State) (g : FwTarget) (l : Byte) (off n : Nat) (k : Kind) : fwAllows s g l off n k = true ↔
    ∃ e ∈ (fwl s g).regions, e.2.en = true ∧ e.2.size ≠ 0 ∧ 4096 * e.2.base ≤ off ∧ off + n ≤ 4096 * (e.2.base + e.2.size) ∧
      e.2.allow.getLsbD l.toNat = true ∧ l ≠ 0xFF ∧ (k = .read → e.2.r = true) ∧ (k = .write → e.2.w = true) := by
  simp only [fwAllows, List.any_eq_true, regionAllows_iff]

/-- What is neither a firewall, nor an island's log, nor the host port's alert, nor a route stands as before. -/
structure BehindKept (s t : State) : Prop where
  blocks : BlocksKept s t
  tt     : t.tt = s.tt
  edgeA  : t.edgeA = s.edgeA
  edgeB  : t.edgeB = s.edgeB
  mems   : ∀ i, (isl t i).ram = (isl s i).ram ∧ (isl t i).flash = (isl s i).flash

theorem behindKept_closeRun (s : State) (t : FwTarget) : BehindKept s (closeRun s t) := by
  refine ⟨blocksKept_closeRun s t, ?_, ?_, ?_, fun i => ?_⟩ <;> unfold closeRun <;> split
  · rfl
  · simp
  · rfl
  · simp
  · rfl
  · simp
  · exact ⟨rfl, rfl⟩
  · refine (logF_ram_flash _ _ i).imp (fun h => h.trans ?_) (fun h => h.trans ?_) <;> cases i <;> rfl

theorem behindKept_fwRefuse (s : State) (t : FwTarget) (l : Byte) (off : Nat) (k : Kind) : BehindKept s (fwRefuse s t l off k) := by
  obtain ⟨b, f, he, -⟩ := fwRefuse_eq s t l off k
  refine ⟨blocksKept_fwRefuse s t l off k, ?_, ?_, ?_, ?_⟩ <;> rw [he] <;> cases b
  · exact (behindKept_closeRun s t).tt
  · rfl
  · exact (behindKept_closeRun s t).edgeA
  · rfl
  · exact (behindKept_closeRun s t).edgeB
  · rfl
  · exact (behindKept_closeRun s t).mems
  · exact fun i => by cases i <;> exact ⟨rfl, rfl⟩

theorem fwl_modFwl_self (s : State) (t : FwTarget) (f : Firewall → Firewall) : fwl (modFwl s t f) t = f (fwl s t) :=
  bankGet_bankSet_self _ _ _ _

theorem closeRun_refcnt (s : State) (t : FwTarget) : (fwl (closeRun s t) t).refcnt = (fwl s t).refcnt := by
  unfold closeRun
  split
  · rfl
  · rw [fwl_logF, fwl_modFwl_self]

/-- A refusal is recorded and counted. -/
theorem fwRefuse_counts (s : State) (t : FwTarget) (l : Byte) (off : Nat) (k : Kind) : (fwl (fwRefuse s t l off k) t).refd = true ∧
    (fwl (fwRefuse s t l off k) t).refcnt = min 0xFFFFFFFF ((fwl s t).refcnt + 1) := by
  unfold fwRefuse
  dsimp only
  rw [fwl_modFwl_self]
  have hc (b : Bool) : (fwl (if b then s else closeRun s t) t).refcnt = (fwl s t).refcnt := by
    cases b
    · exact closeRun_refcnt s t
    · rfl
  exact ⟨rfl, congrArg (fun x => min 0xFFFFFFFF (x + 1)) (hc _)⟩

/-- A transaction that no region of its target's firewall allows is refused there. -/
theorem grants_refused {s : State} {l : Byte} {addr n : Nat} {k : Kind} {src : Initiator} {p : Spot} (hp : decodeRange addr n = some p)
    (hr : reachable (settleFor s src p.tgt) p src = true) (hf : fwAllows s p.tgt l p.off n k = false) :
    ∃ r, grants s l addr n k src = .refused stFirewall (fwRefuse (rerouted s r) p.tgt l p.off k) := by
  obtain ⟨r, hs⟩ := settleFor_eq s src p.tgt
  rw [hs] at hr
  have hf' : fwAllows (rerouted s r) p.tgt l p.off n k = false := hf
  refine ⟨r, ?_⟩
  unfold grants firewalled
  rw [hp]
  dsimp only
  rw [hs, hr, hf']
  rfl

theorem fabricAccess_refused {s : State} {a : Access} {p : Spot} (hp : decodeRange a.addr.toNat (accLen a) = some p)
    (hr : reachable (settleFor s a.src p.tgt) p a.src = true) (hf : fwAllows s p.tgt a.livery p.off (accLen a) a.kind = false) :
    ∃ r, exec (.fabricAccess a) s =
      .next (emit (fwRefuse (rerouted s r) p.tgt a.livery p.off a.kind) (.fabric a.livery stFirewall [])) := by
  obtain ⟨r, hg⟩ := grants_refused hp hr hf
  refine ⟨r, ?_⟩
  show execFabricAccess a s = _
  unfold execFabricAccess
  rw [hg]

/-- Settles O23: what a refusal writes is the firewall's, and the entry of a run of refusals that it ends. -/
theorem firewallRefuses : Obligations.FirewallRefuses := by
  refine ⟨fwAllows_iff, fun s a p hp hr hf => ?_⟩
  obtain ⟨r, hx⟩ := fabricAccess_refused hp hr hf
  obtain ⟨hd, hc⟩ := fwRefuse_counts (rerouted s r) p.tgt a.livery p.off a.kind
  obtain ⟨⟨h1, h2, h3, h4, h5, h6, h7, h8, h9, h10⟩, ht, ha, hb, hm⟩ := behindKept_fwRefuse (rerouted s r) p.tgt a.livery p.off a.kind
  exact ⟨_, hx, ⟨_, rfl⟩, hd, hc, fwRefuse_regions _ _ _ _ _ _, h1, h2, h3, ht, h4, h5, h6, h7, h8, h9, h10, ha, hb, hm⟩

end Sys2Proof.Proofs

/-! Accesses at a stack (12 R432, R433). -/

namespace Sys2Proof.Proofs

open Sys2Proof.Machine Sys2Proof.Safety Sys2Proof.Laws

/-- A value written back where it was read adds no entry. -/
theorem mem_of_mem_bankMod_id {α : Type} [DecidableEq α] {d : α} {m : Bank α} {k : Nat} {x : Nat × α} (h : x ∈ bankMod d m k id) : x ∈ m := by
  rcases bankGet_mem d m k with hd | ⟨e, he, hk, hd⟩
  · rw [bankMod, hd] at h
    exact mem_of_mem_bankSet_default h
  · rcases mem_bankSet h with h | rfl
    · exact h
    · rw [id, ← hd, ← hk]
      exact he

/-- An access that brings no flaw leaves the stack as reads see it. -/
theorem sameView_noFlaws (s : State) (n b : Nat) : SameView n s (modMct s n (fun m => addFlaws m b [])) :=
  sameView_modMct s n rfl rfl rfl fun _ h => mem_of_mem_bankMod_id h

theorem stuckBanks_noFlaws (m : Mct) (b off len : Nat) : stuckBanks (addFlaws m b []) off len = stuckBanks m off len := rfl

theorem refreshFor_none {s : State} {n off len : Nat} (h : stuckBanks (mct s n) off len = []) : refreshFor s n off len = s := by
  unfold refreshFor
  rw [h]

theorem correct_out (s : State) (n : Nat) (p : MctPort) (l : Byte) (off len : Nat) : (correct s n p l off len).out = s.out :=
  forAll_proj State.out (f := fun s b => ceEvent s n b) (fun _ _ => rfl) _ s

theorem refreshFor_out (s : State) (n off len : Nat) : (refreshFor s n off len).out = s.out := by
  unfold refreshFor
  split <;> rfl

theorem partRead_out {s : State} {n : Nat} (h : (mct s n).flaws = []) (p : MctPort) (l : Byte) (off len : Nat) :
    (partRead s n p l off len).2.out = s.out := by
  have hr := forAll_rel (SameView n) (.refl n) .trans (fun t b => sameView_refreshFor t n (32 * b) 32) (partBursts off len) s
  have hf : (mct (forAll s (partBursts off len) (fun s b => refreshFor s n (32 * b) 32)) n).flaws = [] :=
    List.eq_nil_iff_forall_not_mem.2 (fun x hx => by
      have := hr.flaws x hx
      rw [h] at this
      cases this)
  unfold partRead
  dsimp only
  rw [foundPart_flawless hf p l (by decide)]
  change (ueEvents (forAll s _ _) n l (foundPart (mct (forAll s _ _) n) p l .ue off len)).out = _
  rw [foundPart_flawless hf p l (by decide)]
  exact forAll_proj State.out (f := fun s b => refreshFor s n (32 * b) 32) (fun t _ => refreshFor_out t n _ _) _ s

/-- Nothing leaves the device when a write is taken into a queue that has room for it. -/
theorem hbmOffer_out {s t : State} {n : Nat} {w : PendWrite} (hf : (mct s n).flaws = []) (ht : hbmOffer s n w = (none, t))
    (h : queuedBursts (mct s n) + (burstsOf w.off w.data.length).length ≤ 2048) : t.out = s.out := by
  have hp := partRead_out hf w.port w.livery w.off w.data.length
  have hq := (stackRead_partRead s n w.port w.livery w.off w.data.length).writes
  unfold hbmOffer at ht
  generalize partRead s n w.port w.livery w.off w.data.length = r at ht hp hq
  obtain ⟨b, u⟩ := r
  cases b with
  | true => cases ht
  | false =>
    have hu := (Prod.mk.inj ht).2
    rw [hbmQueue_room (by rwa [queuedBursts, hq, ← queuedBursts])] at hu
    rw [← hu]
    exact hp

/-- A read that finds the stack free of waiting writes, stuck banks and uncorrectable errors delivers what its source sees. -/
theorem hbmAccess_read {s : State} {n : DieId} {off : Nat} {a : Access} (hk : a.kind = .read) (hf : a.flaws = [])
    (hb : stuckBanks (mct s n) off a.len = []) (hw : ∀ w ∈ (mct s n).writes, wrOverlaps off a.len w = false)
    (hu : badIn (mct s n) off a.len = none) : ∃ t, hbmAccess s n off a =
      emit t (.fabric a.livery stOk (memRd (hbmView s n (portOf s a.src n) a.livery) off a.len)) ∧ t.out = s.out ∧
      (die t n).hbm = (die s n).hbm ∧ (mct t n).writes = (mct s n).writes ∧ ∀ m : DieId, m ≠ n → die t m = die s m := by
  have h1 := sameView_noFlaws s n (off / 32)
  have hb1 : stuckBanks (mct (modMct s n (fun m => addFlaws m (off / 32) [])) n) off a.len = [] := by
    rw [mct_modMct_self, stuckBanks_noFlaws, hb]
  unfold hbmAccess
  rw [hf]
  generalize hs1 : modMct s n (fun m => addFlaws m (off / 32) []) = s1 at h1 hb1
  have hport : portOf s1 a.src n = portOf s a.src n := by
    rw [← hs1]
    rfl
  have hout : s1.out = s.out := by
    rw [← hs1]
    rfl
  have hf1 := foundIn_mono h1.flaws (List.head?_eq_none_iff.1 hu)
  have hbad : foundFor (mct s1 n) (portOf s1 a.src n) a.livery .ue off a.len = [] := by
    rw [foundFor, hf1]
    rfl
  generalize hs2 : modMct (fresh s1).2 n (fun m => { m with seq := m.seq + 1 }) = s2
  have h2 : StackRead n s1 s2 := by
    rw [← hs2]
    exact (stackRead_fresh s1 n).trans (stackRead_modMct _ n rfl)
  have hb2 : stuckBanks (mct s2 n) off a.len = [] := by
    rw [← hs2, mct_modMct_self]
    exact hb1
  have hfree : readFree (mct s2 n) (acceptRead s1 n (portOf s1 a.src n) a.livery (linksTo s1 a.src n) off a.len).1 = true := by
    simp only [readFree, Bool.and_eq_true, List.all_eq_true]
    refine ⟨List.isEmpty_iff.2 hb2, fun w hm => ?_⟩
    rw [h2.writes, h1.writes] at hm
    have hno : wrOverlaps off a.len w = false := hw w hm
    show (_ || !wrOverlaps off a.len w || _) = true
    rw [hno]
    simp
  have hacc : acceptRead s1 n (portOf s1 a.src n) a.livery (linksTo s1 a.src n) off a.len =
      ((acceptRead s1 n (portOf s1 a.src n) a.livery (linksTo s1 a.src n) off a.len).1, s2) := by
    rw [← hs2]
    rfl
  have hc := stackRead_correct s2 n (portOf s1 a.src n) a.livery off a.len
  refine ⟨correct s2 n (portOf s1 a.src n) a.livery off a.len, ?_, ?_, ?_, ?_, fun m hm => ?_⟩
  · dsimp only
    rw [hk]
    dsimp only
    rw [hacc, if_pos hfree]
    unfold hbmAnswer
    dsimp only [acceptRead]
    rw [hbad, refreshFor_none hb2, h1.view, hport]
  · rw [correct_out, ← hs2]
    exact hout
  · rw [hc.hbm, h2.hbm, h1.hbm]
  · rw [hc.writes, h2.writes, h1.writes]
  · have hne : (m : Nat) ≠ n := fun hv => hm (Fin.ext hv)
    rw [hc.others m hne, h2.others m hne, h1.others m hne]

/-- A write that the queue has room for is accepted and seen by every source. -/
theorem hbmAccess_write {s : State} {n : DieId} {off : Nat} {a : Access} (hk : a.kind = .write) (hf : a.flaws = [])
    (hm : (mct s n).flaws = []) (hc : (mct s n).compat = false)
    (hr : queuedBursts (mct s n) + (burstsOf off a.data.length).length ≤ 2048) : ∃ t, hbmAccess s n off a =
      emit t (.fabric a.livery stOk []) ∧ t.out = s.out ∧ (die t n).hbm = (die s n).hbm ∧
      (mct t n).writes = (mct s n).writes ++ [{
        port := portOf s a.src n, livery := a.livery, off := off, data := a.data, path := linksTo s a.src n, owed := false
        seq := (mct s n).seq }] ∧
      (∀ q l, memRd (hbmView t n q l) off a.data.length = a.data) ∧ ∀ m : DieId, m ≠ n → die t m = die s m := by
  have h1 := sameView_noFlaws s n (off / 32)
  unfold hbmAccess
  rw [hf]
  generalize hs1 : modMct s n (fun m => addFlaws m (off / 32) []) = s1 at h1
  have hsrc : portOf s1 a.src n = portOf s a.src n ∧ linksTo s1 a.src n = linksTo s a.src n ∧ s1.out = s.out := by
    rw [← hs1]
    exact ⟨rfl, rfl, rfl⟩
  obtain ⟨hport, hlinks, hout⟩ := hsrc
  have hm1 : (mct s1 n).flaws = [] := List.eq_nil_iff_forall_not_mem.2 fun x hx => by
    have := h1.flaws x hx
    rw [hm] at this
    cases this
  have hc1 : (mct s1 n).compat = false := h1.compat.trans hc
  have hr1 : queuedBursts (mct s1 n) + (burstsOf off a.data.length).length ≤ 2048 := by rwa [queuedBursts, h1.writes, ← queuedBursts]
  obtain ⟨t, ht, hq⟩ := hbmOffer_room (s := s1) (w := {
    port := portOf s1 a.src n, livery := a.livery, off := off, data := a.data, path := linksTo s1 a.src n, owed := false }) hm1 hr1
  refine ⟨t, ?_, ?_, ?_, ?_, fun q l => view_queued hq hc1 q l, fun m hmn => ?_⟩
  · dsimp only
    rw [hk]
    dsimp only
    rw [hc1, ht]
    rfl
  · exact (hbmOffer_out hm1 ht hr1).trans hout
  · rw [hq.hbm, h1.hbm]
  · rw [hq.writes, h1.writes, h1.seq, hport, hlinks]
  · have hne : (m : Nat) ≠ n := fun hv => hmn (Fin.ext hv)
    rw [hq.others m hne, h1.others m hne]

/-! A queued write reaches the stack (R433). -/

/-- A byte after a write, from what it was. -/
def overlay (b : Nat) (v : Byte) (w : PendWrite) : Byte := if w.off ≤ b then w.data.getD (b - w.off) v else v

theorem memByte_applyWr (m : Mem) (w : PendWrite) (b : Nat) : memByte (applyWr m w) b = overlay b (memByte m b) w := by
  unfold applyWr overlay
  split
  · next h =>
    by_cases hb : b - w.off < w.data.length
    · have hi := memByte_memWr_inside m (a := w.off) hb
      rw [Nat.add_sub_cancel' h] at hi
      rw [hi, List.getD_eq_getElem _ _ hb]
    · rw [memByte_memWr_outside m (.inr (by omega)), List.getD_eq_default _ _ (by omega)]
  · exact memByte_memWr_outside m (.inl (by omega))

theorem memByte_applyWrs (l : List PendWrite) (m : Mem) (b : Nat) :
    memByte (l.foldl applyWr m) b = l.foldl (overlay b) (memByte m b) := by
  induction l generalizing m with
  | nil => rfl
  | cons w l ih => rw [List.foldl_cons, ih, memByte_applyWr, List.foldl_cons]

/-- Two writes without a burst in common change each byte in either order. -/
theorem overlay_comm {w e : PendWrite} (h : wrOverlaps w.off w.data.length e = false) (b : Nat) (v : Byte) :
    overlay b (overlay b v w) e = overlay b (overlay b v e) w := by
  have hout : (b < w.off ∨ w.off + w.data.length ≤ b) ∨ b < e.off ∨ e.off + e.data.length ≤ b := by
    simp only [wrOverlaps, overlap, Bool.and_eq_false_iff, decide_eq_false_iff_not] at h
    omega
  have hskip (x : PendWrite) (u : Byte) (hx : b < x.off ∨ x.off + x.data.length ≤ b) : overlay b u x = u := by
    unfold overlay
    split
    · exact List.getD_eq_default _ _ (by omega)
    · rfl
  rcases hout with hw | he
  · rw [hskip w _ hw, hskip w _ hw]
  · rw [hskip e _ he, hskip e _ he]

theorem overlays_comm {w : PendWrite} {l : List PendWrite} (h : ∀ e ∈ l, wrOverlaps w.off w.data.length e = false) (b : Nat) (v : Byte) :
    l.foldl (overlay b) (overlay b v w) = overlay b (l.foldl (overlay b) v) w := by
  induction l generalizing v with
  | nil => rfl
  | cons e l ih =>
    rw [List.foldl_cons, overlay_comm (h e List.mem_cons_self), ih fun x hx => h x (List.mem_cons_of_mem _ hx), List.foldl_cons]

/-- A write without a burst in common with those before it can go first. -/
theorem overlays_eraseIdx {l : List PendWrite} {i : Nat} {w : PendWrite} (hw : l[i]? = some w)
    (h : ∀ e ∈ l.take i, wrOverlaps w.off w.data.length e = false) (b : Nat) (v : Byte) :
    (l.eraseIdx i).foldl (overlay b) (overlay b v w) = l.foldl (overlay b) v := by
  obtain ⟨hi, rfl⟩ := List.getElem?_eq_some_iff.1 hw
  conv_rhs => rw [← List.take_append_drop i l, List.drop_eq_getElem_cons hi]
  rw [List.eraseIdx_eq_take_drop_succ, List.foldl_append, List.foldl_append, List.foldl_cons, overlays_comm h]

theorem mayDrain_strict {m : Mct} {i : Nat} {w : PendWrite} (h : mayDrain m i w = true) (hc : m.compat = false) :
    stuckBanks m w.off w.data.length = [] ∧ ∀ e ∈ m.writes.take i, wrOverlaps w.off w.data.length e = false := by
  simp only [mayDrain, hc, Bool.and_eq_true, List.all_eq_true, Bool.false_and, Bool.or_false, Bool.not_eq_true'] at h
  exact ⟨List.isEmpty_iff.1 h.1, h.2⟩

/-- The state in which the write at `i` of a queue has reached the stack. -/
def queueLanded (s : State) (n i : Nat) (w : PendWrite) : State :=
  land (modMct s n (fun m => { m with writes := m.writes.eraseIdx i })) n w

theorem die_queueLanded {s : State} {n i : Nat} (w : PendWrite) (hc : (mct s n).compat = false) :
    (die (queueLanded s n i w) n).hbm = memWr (die s n).hbm w.off w.data ∧
      (mct (queueLanded s n i w) n).writes = (mct s n).writes.eraseIdx i ∧ (mct (queueLanded s n i w) n).compat = false ∧
      (queueLanded s n i w).out = s.out := by
  have hc' : (die s n).mct.compat = false := hc
  unfold queueLanded land
  dsimp only
  rw [if_neg (by rw [mct_modMct_self]; simp [hc])]
  rw [mct, die_modDie_self, modMct, die_modDie_self]
  dsimp only
  refine ⟨?_, ?_, ?_, rfl⟩
  · simp [landWr, hc', applyWr]
  · simp [markMixed, clearBad, hc', mct]
  · simp [markMixed, clearBad, hc']

/-- A write that may drain does, and no byte that a source reads changes by it. -/
theorem writeDrain_lands {s : State} {n : DieId} {i : Nat} {w : PendWrite} (hw : (mct s n).writes[i]? = some w)
    (hd : mayDrain (mct s n) i w = true) (hc : (mct s n).compat = false) : ∃ t, exec (.writeDrain n i) s = .next t ∧
      (mct t n).writes = (mct s n).writes.eraseIdx i ∧ (die t n).hbm = memWr (die s n).hbm w.off w.data ∧ t.out = s.out ∧
      ∀ q l b, memByte (hbmView t n q l) b = memByte (hbmView s n q l) b := by
  obtain ⟨hb, ho⟩ := mayDrain_strict hd hc
  obtain ⟨e, k, hfin⟩ := finishStores_eq (queueLanded s n i w)
  have hx : exec (.writeDrain n i) s = .next { queueLanded s n i w with engines := e, free := k } := by
    show Host.Outcome.next (drainOne s n i) = _
    have ha : drainAt s n i = queueLanded s n i w := by
      unfold drainAt
      rw [hw]
      dsimp only
      rw [refreshFor_none hb, hc]
      rfl
    simp only [drainOne, hw, hd, if_true, ha, hfin]
  obtain ⟨hhbm, hwr, hcm, hout⟩ := die_queueLanded (i := i) w hc
  refine ⟨_, hx, hwr, hhbm, hout, fun q l b => ?_⟩
  have hv (u : State) (hu : (mct u n).compat = false) : hbmView u n q l = (mct u n).writes.foldl applyWr (die u n).hbm := by
    have hu' : (die u n).mct.compat = false := hu
    simp only [hbmView, hu']
    rfl
  rw [hv s hc]
  have hvt := hv { queueLanded s n i w with engines := e, free := k } hcm
  rw [hvt]
  change memByte ((mct (queueLanded s n i w) n).writes.foldl applyWr (die (queueLanded s n i w) n).hbm) b = _
  rw [hwr, hhbm, memByte_applyWrs, memByte_applyWrs]
  have hbyte := memByte_applyWr (die s n).hbm w b
  unfold applyWr at hbyte
  rw [hbyte, overlays_eraseIdx hw ho]

/-- Settles O24: an access is granted, and the stack takes it. -/
theorem stackAccess : Obligations.StackAccess := by
  refine ⟨?_, ?_, fun s n i w hw hd hc => writeDrain_lands hw hd hc⟩
  · intro s u a p n hk hf hg hp hb hw hu
    obtain ⟨l, rfl⟩ := grants_spot hg
    obtain ⟨t, ht, hout, hhbm, hwr, hne⟩ := hbmAccess_read hk hf hb hw hu
    have hlen : accLen a = a.len := by simp [accLen, hk]
    have hx : exec (.fabricAccess a) s = .next (hbmAccess (rerouted s l) n p.off a) := by
      show execFabricAccess a s = _
      unfold execFabricAccess
      rw [hlen, hk, hg]
      dsimp only
      rw [hp]
    rw [ht] at hx
    exact ⟨_, hx, congrArg _ hout, hhbm, hwr, hne⟩
  · intro s u a p n hk hf hg hp hm hc hr
    obtain ⟨l, rfl⟩ := grants_spot hg
    obtain ⟨t, ht, hout, hhbm, hwr, hview, hne⟩ := hbmAccess_write (s := rerouted s l) hk hf hm hc hr
    have hlen : accLen a = a.data.length := by simp [accLen, hk]
    have hx : exec (.fabricAccess a) s = .next (hbmAccess (rerouted s l) n p.off a) := by
      show execFabricAccess a s = _
      unfold execFabricAccess
      rw [hlen, hk, hg]
      dsimp only
      rw [hp]
    rw [ht] at hx
    exact ⟨_, hx, congrArg _ hout, hhbm, hwr, hview, hne⟩

end Sys2Proof.Proofs

/-! What the loss of a die leaves of the other queue contexts, and of its own: none but `lost` (10 R368, R395; 14 R503). -/

namespace Sys2Proof.Proofs

open Sys2Proof.Machine Sys2Proof.Safety Sys2Proof.Laws

/-- The queue contexts in the device stand as before. -/
@[simp] abbrev QueuesKept (s t : State) : Prop := t.qmg.queues = s.qmg.queues

@[simp] theorem forAll_queues {α : Type} {f : State → α → State} (hf : ∀ t x, (f t x).qmg.queues = t.qmg.queues) (l : List α) (s : State) :
    (forAll s l f).qmg.queues = s.qmg.queues :=
  forAll_rel QueuesKept (fun _ => rfl) (fun h k => k.trans h) hf l s

@[simp] theorem queues_forAll_emit {α : Type} (g : α → Emit) (l : List α) (s : State) :
    QueuesKept s (forAll s l (fun s x => emit s (g x))) := forAll_queues (fun _ _ => by simp) l s

theorem queuesKept_of_signal {s t : State} (h : SignalKept s t) : QueuesKept s t := congrArg Qmg.queues h.qmg

theorem queuesKept_of_offStack {s t : State} (h : offStack t = offStack s) : QueuesKept s t := congrArg Qmg.queues (qmg_of_offStack h)

@[simp] theorem queues_engDone (s : State) (g : Nat) (st : Byte) (ws : List Word) (skip : Bool) :
    QueuesKept s (engDone s g st ws skip) := by
  obtain ⟨e, n, h⟩ := engDone_eq s g st ws skip
  simp [h]

@[simp] theorem queues_failDesc (s : State) (g : EngId) : QueuesKept s (failDesc s g) := by
  unfold failDesc
  split <;> simp

@[simp] theorem queues_failWrite (s : State) (w : PendWrite) : QueuesKept s (failWrite s w) := by
  unfold failWrite
  split <;> simp

@[simp] theorem queues_failHeldWrite (s : State) (w : HeldWrite) : QueuesKept s (failHeldWrite s w) := by
  unfold failHeldWrite
  split
  · simp
  · split <;> simp

@[simp] theorem queues_noteEnded (s : State) (l : List Ended) : QueuesKept s (noteEnded s l) := rfl

@[simp] theorem queues_failMct (s : State) (l : LinkId) (n : DieId) : QueuesKept s (failMct s l n) := by simp [failMct]

@[simp] theorem queues_failPieces (s : State) (l : LinkId) (i : Isl) : QueuesKept s (failPieces s l i) := by simp [failPieces]

@[simp] theorem queues_failFlight (s : State) (l : LinkId) : QueuesKept s (failFlight s l) := by simp [failFlight]

@[simp] theorem queues_failHeld (s : State) (l : LinkId) : QueuesKept s (failHeld s l) := by simp [failHeld, dropHeldWrites]

@[simp] theorem queues_ueEvents (s : State) (n : Nat) (l : Byte) (bs : List Nat) : QueuesKept s (ueEvents s n l bs) :=
  queuesKept_of_offStack (stackRead_ueEvents s n l bs).rest

@[simp] theorem queues_refreshFor (s : State) (n off len : Nat) : QueuesKept s (refreshFor s n off len) :=
  queuesKept_of_offStack (stackRead_refreshFor s n off len).rest

@[simp] theorem queues_correct (s : State) (n : Nat) (p : MctPort) (l : Byte) (off len : Nat) : QueuesKept s (correct s n p l off len) :=
  queuesKept_of_offStack (stackRead_correct s n p l off len).rest

@[simp] theorem queues_hbmSet (s : State) (n : Nat) (l : Byte) (off : Nat) (bs : List Byte) : QueuesKept s (hbmSet s n l off bs) :=
  queuesKept_of_offStack (stackWork_hbmSet s n l off bs).rest

@[simp] theorem queues_completeDefers (s : State) (k : DefKind) (st : Byte) (data : List Word) :
    QueuesKept s (completeDefers s k st data) := queuesKept_of_signal (signalKept_completeDefers s k st data)

@[simp] theorem queues_copyReach (s : State) (x : MemCopy) (len : Nat) : QueuesKept s (copyReach s x len).2.2 := by
  unfold copyReach
  dsimp only
  split
  · dsimp only
    split <;> simp
  · simp

@[simp] theorem queues_fresh (s : State) : QueuesKept s (fresh s).2 := rfl

@[simp] theorem queues_failCopy (s : State) (x : MemCopy) : QueuesKept s (failCopy s x) := by simp [failCopy, copyMove, dropCopy]

@[simp] theorem queues_failCopies (s : State) (l : LinkId) : QueuesKept s (failCopies s l) := by simp [failCopies]

@[simp] theorem queues_setLink (s : State) (l : LinkId) (up : Bool) : QueuesKept s (setLink s l up) := by
  unfold setLink
  dsimp only
  split
  · split <;> simp
  · simp
  · split <;> simp

@[simp] theorem queues_dropLink (s : State) (l : LinkId) : QueuesKept s (dropLink s l) := by simp [dropLink]

@[simp] theorem queues_closeRun (s : State) (t : FwTarget) : QueuesKept s (closeRun s t) := by
  unfold closeRun
  split <;> simp

@[simp] theorem queues_dropFws (s : State) (lo n : Nat) : QueuesKept s (dropFws s lo n) := by simp [dropFws]

@[simp] theorem queues_resetDie (s : State) (n : DieId) : QueuesKept s (resetDie s n) := by
  have h (s : State) (l : List EngId) (e : State → EngId → Engine) : QueuesKept s (forAll s l (fun s g => setEng s g (e s g))) :=
    forAll_queues (fun _ _ => by simp) l s
  simp [resetDie, h]

@[simp] theorem queues_abandonRebind (s : State) (g : EngId) : QueuesKept s (abandonRebind s g) := by
  unfold abandonRebind
  split <;> simp

@[simp] theorem queues_releaseWaiter (s : State) (w : Waiter) (st : Byte) (v : Nat) : QueuesKept s (releaseWaiter s w st v) :=
  queuesKept_of_signal (signalKept_releaseWaiter s w st v)

@[simp] theorem queues_serveObj (s : State) (k : Nat) : QueuesKept s (serveObj s k) := queuesKept_of_signal (signalKept_serveObj s k)

@[simp] theorem queues_orphanObj (s : State) (k : Nat) : QueuesKept s (orphanObj s k) := by simp [orphanObj]

@[simp] theorem queues_orphanDie (s : State) (n : Nat) : QueuesKept s (orphanDie s n) := by simp [orphanDie]

@[simp] theorem queues_modWb (s : State) (id : Nat) (f : Waybill → Waybill) : QueuesKept s (modWb s id f) := rfl

@[simp] theorem queues_discard (s : State) (l : List Issued) : QueuesKept s (Machine.discard s l) := by simp [Machine.discard]

@[simp] theorem queues_lostTable (s : State) (n : Nat) : QueuesKept s (lostTable s n) := by
  unfold lostTable
  dsimp only
  split
  · rfl
  · split <;> rfl

@[simp] theorem queues_losePages (s : State) (n : Nat) : QueuesKept s (losePages s n) :=
  forAll_queues (fun _ _ => by simp [modPage]) _ s

@[simp] theorem queues_requeueSets (s : State) (n : DieId) : QueuesKept s (requeueSets s n) := rfl

theorem queue_of_kept {s t : State} (h : QueuesKept s t) (q : Nat) : queue t q = queue s q := congrArg (bankGet defQueue · q) h

theorem mem_queues {s : State} {q : Nat} (h : (queue s q).st ≠ 0) : ∃ e ∈ s.qmg.queues, e.1 = q ∧ e.2 = queue s q := by
  rcases bankGet_mem defQueue s.qmg.queues q with hd | ⟨e, he, hk, hv⟩
  · exact absurd (congrArg QueueCtx.st hd) h
  · exact ⟨e, he, hk, hv⟩

/-- A queue taken out is out, whatever its copies say. -/
theorem loseQueue_st (s : State) (q j : Nat) (h : (queue s j).st = 3 ∨ j = q) :
    (queue (modQueue s q (fun x => { x with st := 3 })) j).st = 3 := by
  by_cases hj : j = q
  · subst hj
    rw [queue_modQueue]
  · rw [queue_modQueue_ne s _ hj]
    exact h.resolve_right hj

theorem loseQueues_list (q : Nat) (l : List (Nat × QueueCtx)) (s : State) (h : (queue s q).st = 3 ∨ q ∈ l.map (·.1)) :
    (queue (forAll s l (fun s e => modQueue s e.1 (fun x => { x with st := 3 }))) q).st = 3 := by
  induction l generalizing s with
  | nil => exact h.resolve_right (by simp)
  | cons e l ih =>
    refine ih _ ?_
    rw [List.map_cons, List.mem_cons] at h
    rcases h with h | h | h
    · exact .inl (loseQueue_st s e.1 q (.inl h))
    · exact .inl (loseQueue_st s e.1 q (.inr h))
    · exact .inr h

theorem loseQueues_st {s : State} {n q : Nat} (h : (queue s q).st ≠ 0) (hb : (queue s q).base / 2 ^ 34 = n) :
    (queue (loseQueues s n) q).st = 3 := by
  obtain ⟨e, he, rfl, hv⟩ := mem_queues h
  refine loseQueues_list _ _ s (.inr (List.mem_map.2 ⟨e, List.mem_filter.2 ⟨he, ?_⟩, rfl⟩))
  simp only [onDie, hv, Bool.and_eq_true, decide_eq_true_eq]
  exact ⟨h, hb⟩

theorem loseState_queue {s : State} {n : DieId} {q : Nat} (h : (queue s q).st ≠ 0) (hb : (queue s q).base / 2 ^ 34 = n.val) :
    (queue (loseState s n) q).st = 3 := by
  unfold loseState
  extract_lets +onlyGivenNames mine s1 x s2 s3 s4 dead ks y s5 s6 lost s7 s8 s9
  have h6 : QueuesKept s s6 := by simp [s6, s5, s4, s3, s2, s1]
  have h7 : (queue s7 q).st = 3 := by
    rw [← queue_of_kept h6 q] at h hb
    exact loseQueues_st h hb
  have h9 : QueuesKept s7 s9 := by
    have h8 : QueuesKept s7 s8 := by
      unfold s8
      split <;> simp
    simp [s9, loseWork, h8]
  rw [queue_of_kept (s := s9) (by simp), queue_of_kept h9]
  exact h7

theorem loseDie_queue {s : State} {n : DieId} {q : Nat} (counted : Bool) (reaction : Nat) (h : (queue s q).st ≠ 0)
    (hb : (queue s q).base / 2 ^ 34 = n.val) : (queue (loseDie s n counted reaction) q).st = 3 := by
  unfold loseDie
  extract_lets s1 count perm s2 s3
  have h3 : QueuesKept s s3 := by
    have h2 : QueuesKept s s2 := by
      unfold s2
      split <;> rfl
    unfold s3
    split
    · simp [h2]
    · exact h2
  rw [queue_of_kept (queues_resetDie ..)]
  rw [← queue_of_kept h3 q] at h hb
  exact loseState_queue h hb

end Sys2Proof.Proofs

/-! Held reads, error limits and patrol scrub (12 R433, R444, R448; 14 R503). -/

namespace Sys2Proof.Proofs

open Sys2Proof.Machine Sys2Proof.Safety Sys2Proof.Laws

theorem mct_logF (s : State) (f : Fact) (n : Nat) : mct (logF s f) n = mct s n := by
  rw [mct, die_of_dies (logF_dies s f), mct]

theorem hbm_logF (s : State) (f : Fact) (n : Nat) : (die (logF s f) n).hbm = (die s n).hbm := by
  rw [die_of_dies (logF_dies s f)]

theorem hbm_modMct (s : State) (n : Nat) (f : Mct → Mct) : (die (modMct s n f) n).hbm = (die s n).hbm := by
  rw [modMct, die_modDie_self]

theorem ceEvent_reads (s : State) (n b : Nat) : (mct (ceEvent s n b) n).reads = (mct s n).reads := by
  rw [ceEvent, mct_modMct_self]

theorem correct_reads (s : State) (n : Nat) (p : MctPort) (l : Byte) (off len : Nat) :
    (mct (correct s n p l off len) n).reads = (mct s n).reads :=
  forAll_proj (fun s => (mct s n).reads) (fun t b => ceEvent_reads t n b) _ s

/-- A held read that is free delivers its bytes and leaves the queue of reads. -/
theorem mctHeldRead_delivers {s : State} {n : DieId} {i : Nat} {r : HeldRead} (hr : (mct s n).reads[i]? = some r)
    (hf : readFree (mct s n) r = true) (hb : r.bad = []) : ∃ t, exec (.mctHeldRead n i) s = .next t ∧
      t.out = .fabric r.livery stOk r.data :: s.out ∧ (mct t n).reads = (mct s n).reads.eraseIdx i ∧
      (die t n).hbm = (die s n).hbm := by
  obtain ⟨s1, hs1⟩ : ∃ t, modMct s n (fun m => { m with reads := m.reads.eraseIdx i }) = t := ⟨_, rfl⟩
  have hstuck : stuckBanks (mct s1 n) r.off r.len = [] := by
    rw [← hs1, mct_modMct_self]
    simp only [readFree, Bool.and_eq_true] at hf
    exact List.isEmpty_iff.1 hf.1
  have hx : exec (.mctHeldRead n i) s =
      .next (emit (correct s1 n r.port r.livery r.off r.len) (.fabric r.livery stOk r.data)) := by
    show execMctHeldRead n i s = _
    unfold execMctHeldRead
    rw [hr]
    dsimp only
    rw [if_pos hf, hs1]
    unfold hbmAnswer
    rw [hb, refreshFor_none hstuck]
  refine ⟨_, hx, ?_, ?_, ?_⟩
  · show _ :: (correct s1 n r.port r.livery r.off r.len).out = _
    rw [correct_out, ← hs1]
    rfl
  · show (mct (correct s1 n r.port r.livery r.off r.len) n).reads = _
    rw [correct_reads, ← hs1, mct_modMct_self]
  · show (die (correct s1 n r.port r.livery r.off r.len) n).hbm = _
    rw [(stackRead_correct s1 n _ _ _ _).hbm, ← hs1, hbm_modMct]

theorem resetDie_flaws (s : State) (n : DieId) : (mct (resetDie s n) n).flaws = [] := by
  unfold resetDie
  dsimp only
  rw [mct, die_setDie_self]

/-- A die with too many uncorrectable errors is lost, and with it what stood in its stack (R503). -/
theorem hbmUeLimit_loses {s : State} {n : DieId} (hi : dieInSvc s n = true) (hu : ueRule s n = true) :
    ∃ t, exec (.hbmUeLimit n) s = .next t ∧ (die t n).inService = false ∧ (mct t n).flaws = [] ∧
      ∀ q, (queue s q).st ≠ 0 → (queue s q).base / 2 ^ 34 = n.val → (queue t q).st = 3 := by
  have hx : exec (.hbmUeLimit n) s = .next (loseDie s n true 5) := by
    show execHbmUeLimit n s = _
    simp [execHbmUeLimit, hi, hu]
  exact ⟨_, hx, loseDie_inService s n true 5, resetDie_flaws _ n, fun q h hb => loseDie_queue true 5 h hb⟩

/-- Too many corrected errors in a day are noted, and the count begins again. -/
theorem hbmCeNotice_notes {s : State} {n : DieId} (h : 4096 < histCount dayNs s.vtime (mct s n).ce24) :
    ∃ t, exec (.hbmCeNotice n) s = .next t ∧ (mct t n).ce24 = [] ∧ (die t n).hbm = (die s n).hbm ∧
      (inSvc s.sia = true → ∃ q, t.sia.flog.head? = some q ∧ q.2.cls = 5 ∧ q.2.unit = n.val) := by
  have hx : exec (.hbmCeNotice n) s = .next (logF (modMct s n (fun m => { m with ce24 := [] }))
      { cls := 0x05, unit := n, sub := 0x13, detail := histCount dayNs s.vtime (mct s n).ce24 }) := by
    show execHbmCeNotice n s = _
    unfold execHbmCeNotice
    rw [if_pos h]
  refine ⟨_, hx, ?_, ?_, fun hi => ?_⟩
  · rw [mct_logF, mct_modMct_self]
  · rw [hbm_logF, hbm_modMct]
  · change logged _ .sia (fun e => e.cls = 5 ∧ e.unit = n.val)
    refine logged_logF ?_ fun e h1 h2 _ => ⟨h1, h2⟩
    exact hi

/-! Patrol scrub (R444, R448). -/

/-- The state in which the flaws found by a scrub are in the stack. -/
def scrubSeen (s : State) (n : DieId) (b : Fin 536870912) (l : List Nat) : State := modMct s n (fun m => addFlaws m b l)

theorem mct_scrubSeen (s : State) (n : DieId) (b : Fin 536870912) (l : List Nat) :
    mct (scrubSeen s n b l) n = addFlaws (mct s n) b l := mct_modMct_self _ _ _

theorem patrolScrub_eq {s : State} {n : DieId} (b : Fin 536870912) (l : List Nat) (h : (mct s n).st = 2) :
    exec (.patrolScrub n b l) s = .next (match finding (flawsOf (addFlaws (mct s n) b l) b) with
      | .clean => scrubSeen s n b l
      | .ce => ceEvent (scrubSeen s n b l) n b
      | .ue => ueEvent (scrubSeen s n b l) n b 0x00 true) := by
  show execPatrolScrub n b l s = _
  unfold execPatrolScrub
  rw [if_neg (by simp [h])]
  dsimp only
  rw [← scrubSeen, mct_scrubSeen] <;> rfl

theorem patrolScrub_uncorrectable {s : State} {n : DieId} {b : Fin 536870912} {l : List Nat} (h : (mct s n).st = 2)
    (hf : finding (flawsOf (addFlaws (mct s n) b l) b) = .ue) : ∃ t, exec (.patrolScrub n b l) s = .next t ∧
      (mct t n).ueCnt = min 65535 ((mct s n).ueCnt + 1) ∧ (mct t n).ue = true ∧ isBad (mct t n) b = true ∧
      b.val ∈ (mct t n).scrubbed ∧ (mct t n).ueAt = (mct s n).ueAt ∧ (die t n).hbm = (die s n).hbm := by
  have hx := patrolScrub_eq b l h
  rw [hf] at hx
  refine ⟨_, hx, ?_, ?_, ?_, ?_, ?_, ?_⟩ <;> dsimp only [ueEvent]
  · rw [mct_logF, mct_modMct_self, mct_scrubSeen]
    rfl
  · rw [mct_logF, mct_modMct_self]
  · rw [mct_logF, mct_modMct_self, mct_scrubSeen]
    exact beq_iff_eq.2 hf
  · rw [mct_logF, mct_modMct_self, mct_scrubSeen]
    exact mem_addNew _ _
  · rw [mct_logF, mct_modMct_self, mct_scrubSeen]
    rfl
  · rw [hbm_logF, hbm_modMct, scrubSeen, hbm_modMct]

theorem patrolScrub_correctable {s : State} {n : DieId} {b : Fin 536870912} {l : List Nat} (h : (mct s n).st = 2)
    (hf : finding (flawsOf (addFlaws (mct s n) b l) b) = .ce) : ∃ t, exec (.patrolScrub n b l) s = .next t ∧
      (mct t n).ceCnt = min 65535 ((mct s n).ceCnt + 1) ∧ (mct t n).ce = true ∧ (mct t n).ueCnt = (mct s n).ueCnt ∧
      (die t n).hbm = (die s n).hbm := by
  have hx := patrolScrub_eq b l h
  rw [hf] at hx
  refine ⟨_, hx, ?_, ?_, ?_, ?_⟩ <;> dsimp only [ceEvent]
  · rw [mct_modMct_self, mct_scrubSeen]
    rfl
  · rw [mct_modMct_self]
  · rw [mct_modMct_self, mct_scrubSeen]
    rfl
  · rw [hbm_modMct, scrubSeen, hbm_modMct]

/-- Settles O26: each event from its own lemma. -/
theorem stackErrors : Obligations.StackErrors :=
  ⟨fun _ _ _ _ hr hf hb => mctHeldRead_delivers hr hf hb, fun _ _ hi hu => hbmUeLimit_loses hi hu, fun _ _ h => hbmCeNotice_notes h,
    fun _ _ _ _ h hf => patrolScrub_uncorrectable h hf, fun _ _ _ _ h hf => patrolScrub_correctable h hf⟩

end Sys2Proof.Proofs

/-! The commits of a memory controller, its refresh debts (12 R428-R431, R441-R443, R456). -/

namespace Sys2Proof.Proofs

open Sys2Proof.Machine Sys2Proof.Safety Sys2Proof.Laws

/-! What the work of a stack leaves of its controller: the registers, their shadows and the reads that wait. -/

/-- The registers of a memory controller with their shadows, and its reads that wait. -/
def ctlOf (m : Mct) : Word × Word × Bool × Bool × List HeldRead := (m.map, m.mapSh, m.compat, m.compatSh, m.reads)

/-- The registers of the memory controller of die `n` and its reads that wait stand as before. -/
abbrev CtlKept (n : Nat) (s t : State) : Prop := ctlOf (mct t n) = ctlOf (mct s n)

theorem CtlKept.trans {n : Nat} {s t u : State} (h : CtlKept n s t) (k : CtlKept n t u) : CtlKept n s u := Eq.trans k h

theorem CtlKept.compat {n : Nat} {s t : State} (h : CtlKept n s t) : (mct t n).compat = (mct s n).compat :=
  (congrArg (fun x => x.2.2.1) h :)

theorem CtlKept.reads {n : Nat} {s t : State} (h : CtlKept n s t) : (mct t n).reads = (mct s n).reads :=
  (congrArg (fun x => x.2.2.2.2) h :)

theorem ctlKept_modMct {s : State} {n : Nat} {f : Mct → Mct} (h : ctlOf (f (mct s n)) = ctlOf (mct s n)) : CtlKept n s (modMct s n f) := by
  rw [CtlKept, mct_modMct_self, h]

theorem ctlKept_forAll {α : Type} {n : Nat} {f : State → α → State} (hf : ∀ t x, CtlKept n t (f t x)) (l : List α) (s : State) :
    CtlKept n s (forAll s l f) :=
  forAll_proj (fun t => ctlOf (mct t n)) hf l s

theorem ctlKept_refreshFor (s : State) (n off len : Nat) : CtlKept n s (refreshFor s n off len) := by
  have hf (l : List Nat) : ∀ m : Mct, ctlOf (l.foldl forceRefresh m) = ctlOf m := by
    induction l with
    | nil => exact fun _ => rfl
    | cons k l ih => exact fun m => ih (forceRefresh m k)
  unfold refreshFor
  split
  · rfl
  · exact ctlKept_modMct (hf _ _)

theorem ctlKept_correct (s : State) (n : Nat) (p : MctPort) (l : Byte) (off len : Nat) : CtlKept n s (correct s n p l off len) :=
  ctlKept_forAll (fun _ _ => ctlKept_modMct rfl) _ s

theorem ctlKept_ueEvents (s : State) (n : Nat) (l : Byte) (bs : List Nat) : CtlKept n s (ueEvents s n l bs) :=
  ctlKept_forAll (fun t _ => CtlKept.trans (ctlKept_modMct (s := t) rfl) (congrArg ctlOf (mct_logF _ _ n))) bs s

theorem ctlKept_land (s : State) (n : Nat) (w : PendWrite) : CtlKept n s (land s n w) := by
  have hm (m : Mct) : ctlOf (markMixed (clearBad m w.off w.data.length) w) = ctlOf m := by
    unfold markMixed
    split <;> rfl
  have h : CtlKept n s (modDie s n (fun d => { d with
      hbm := landWr d.mct.compat s.free d.hbm w, mct := markMixed (clearBad d.mct w.off w.data.length) w })) := by
    rw [CtlKept, mct, die_modDie_self]
    exact hm _
  unfold land
  dsimp only
  split
  · exact h
  · exact h

theorem ctlKept_ackDrained (s : State) (n : Nat) (c : Bool) (w : PendWrite) : CtlKept n s (ackDrained s c w) := by
  unfold ackDrained
  split <;> rfl

theorem ctlKept_drainAt (s : State) (n i : Nat) : CtlKept n s (drainAt s n i) := by
  unfold drainAt
  split
  · rfl
  · exact (((ctlKept_refreshFor s n _ _).trans (ctlKept_modMct rfl)).trans (ctlKept_land _ n _)).trans (ctlKept_ackDrained _ n _ _)

theorem ctlKept_drainAll (s : State) (n : Nat) : CtlKept n s (drainAll s n) := by
  obtain ⟨e, k, h⟩ := finishStores_eq (forAll s (mct s n).writes (fun s _ => drainAt s n 0))
  rw [drainAll, h]
  exact ctlKept_forAll (fun t _ => ctlKept_drainAt t n 0) (mct s n).writes s

theorem ctlKept_hbmAnswer (s : State) (n : Nat) (r : HeldRead) : CtlKept n s (hbmAnswer s n r) := by
  have h := (ctlKept_refreshFor s n r.off r.len).trans (ctlKept_correct _ n r.port r.livery r.off r.len)
  unfold hbmAnswer
  dsimp only
  split
  · exact h
  · exact h.trans (ctlKept_ueEvents _ n r.livery _)

theorem stackRead_emit (s : State) (n : Nat) (e : Emit) : StackRead n s (emit s e) := ⟨⟨rfl, fun _ _ => rfl⟩, rfl, rfl, rfl⟩

theorem stackRead_hbmAnswer (s : State) (n : Nat) (r : HeldRead) : StackRead n s (hbmAnswer s n r) := by
  have h := (stackRead_refreshFor s n r.off r.len).trans (stackRead_correct _ n r.port r.livery r.off r.len)
  unfold hbmAnswer
  dsimp only
  split
  · exact h.trans (stackRead_emit _ n _)
  · exact ((h.trans (stackRead_ueEvents _ n r.livery _)).trans (stackRead_fresh _ n)).trans (stackRead_emit _ n _)

/-! A drained queue (R433). -/

theorem land_writes (s : State) (n : Nat) (w : PendWrite) : (mct (land s n w) n).writes.length = (mct s n).writes.length := by
  have hm (m : Mct) : (markMixed (clearBad m w.off w.data.length) w).writes.length = m.writes.length := by
    unfold markMixed
    split
    · exact List.length_map ..
    · rfl
  have h : (mct (modDie s n (fun d => { d with
      hbm := landWr d.mct.compat s.free d.hbm w, mct := markMixed (clearBad d.mct w.off w.data.length) w })) n).writes.length =
      (mct s n).writes.length := by
    rw [mct, die_modDie_self]
    exact hm _
  unfold land
  dsimp only
  split
  · exact h
  · exact h

theorem ackDrained_writes (s : State) (n : Nat) (c : Bool) (w : PendWrite) : (mct (ackDrained s c w) n).writes = (mct s n).writes := by
  unfold ackDrained
  split <;> rfl

theorem drainAt_writes (s : State) (n : Nat) : (mct (drainAt s n 0) n).writes.length = (mct s n).writes.length - 1 := by
  unfold drainAt
  split
  · next h =>
    rw [List.getElem?_eq_none_iff] at h
    omega
  · next w h =>
    have hl := (List.getElem?_eq_some_iff.1 h).1
    dsimp only
    rw [ackDrained_writes, land_writes, mct_modMct_self, (stackRead_refreshFor s n _ _).writes, List.length_eraseIdx_of_lt hl]

theorem drainAt_strict {s : State} {n : Nat} {w : PendWrite} {r : List PendWrite} (hw : (mct s n).writes = w :: r)
    (hc : (mct s n).compat = false) : (mct (drainAt s n 0) n).writes = r ∧ (die (drainAt s n 0) n).hbm = applyWr (die s n).hbm w := by
  have hr := stackRead_refreshFor s n w.off w.data.length
  obtain ⟨hh, hq, -, -⟩ := die_queueLanded (i := 0) w ((ctlKept_refreshFor s n w.off w.data.length).compat.trans hc)
  have hx : drainAt s n 0 = queueLanded (refreshFor s n w.off w.data.length) n 0 w := by
    unfold drainAt
    rw [hw]
    dsimp only [List.getElem?_cons_zero]
    rw [(ctlKept_refreshFor s n w.off w.data.length).compat, hc]
    rfl
  rw [hx, hq, hh, hr.writes, hr.hbm, hw]
  exact ⟨rfl, rfl⟩

/-- A queue drained as often as it is long is empty; a strict stack has taken its writes in order. -/
theorem drains_empty {α : Type} {n : Nat} : ∀ (l : List α) {s : State}, (mct s n).writes.length = l.length →
    (mct (forAll s l (fun s _ => drainAt s n 0)) n).writes = [] ∧ ((mct s n).compat = false →
      (die (forAll s l (fun s _ => drainAt s n 0)) n).hbm = (mct s n).writes.foldl applyWr (die s n).hbm)
  | [], s, h => by
    have hn := List.length_eq_zero_iff.1 h
    exact ⟨hn, fun _ => by rw [hn]; rfl⟩
  | x :: l, s, h => by
    have hl : (mct (drainAt s n 0) n).writes.length = l.length := by rw [drainAt_writes, h, List.length_cons, Nat.add_sub_cancel]
    obtain ⟨hw, hb⟩ := drains_empty l hl
    refine ⟨hw, fun hc => (hb ((ctlKept_drainAt s n 0).compat.trans hc)).trans ?_⟩
    obtain ⟨w, r, hq⟩ := List.exists_cons_of_length_eq_add_one h
    obtain ⟨h1, h2⟩ := drainAt_strict hq hc
    rw [h1, h2, hq, List.foldl_cons]

theorem drainAll_empty (s : State) (n : Nat) : (mct (drainAll s n) n).writes = [] ∧ ((mct s n).compat = false →
    (die (drainAll s n) n).hbm = (mct s n).writes.foldl applyWr (die s n).hbm) := by
  obtain ⟨e, k, h⟩ := finishStores_eq (forAll s (mct s n).writes (fun s _ => drainAt s n 0))
  rw [drainAll, h]
  exact drains_empty (mct s n).writes rfl

/-! What was accepted before completes first (R430). -/

/-- The reads of a drained stack that wait are taken out of its queue. -/
def readsTaken (s : State) (n : Nat) : State := modMct (drainAll s n) n (fun m => { m with reads := [] })

theorem settleMct_eq (s : State) (n : Nat) :
    settleMct s n = forAll (readsTaken s n) (mct (drainAll s n) n).reads (fun s r => hbmAnswer s n r) := rfl

theorem stackRead_settled (s : State) (n : Nat) : StackRead n (drainAll s n) (settleMct s n) := by
  rw [settleMct_eq]
  exact (stackRead_modMct _ n rfl).trans (stackRead_forAll (fun t r => stackRead_hbmAnswer t n r) _ _)

theorem settleMct_ctl (s : State) (n : Nat) : ctlOf (mct (settleMct s n) n) =
    ((mct s n).map, (mct s n).mapSh, (mct s n).compat, (mct s n).compatSh, []) := by
  have ha : ctlOf (mct (settleMct s n) n) = ctlOf (mct (readsTaken s n) n) := by
    rw [settleMct_eq]
    exact ctlKept_forAll (fun t r => ctlKept_hbmAnswer t n r) _ _
  have hd := ctlKept_drainAll s n
  simp only [CtlKept, ctlOf, Prod.mk.injEq] at hd
  obtain ⟨h1, h2, h3, h4, -⟩ := hd
  rw [ha, readsTaken, mct_modMct_self, ctlOf, h1, h2, h3, h4]

theorem stackWork_settleMct (s : State) (n : Nat) : StackWork n s (settleMct s n) :=
  (stackWork_drainAll s n).trans (stackRead_settled s n).toStackWork

/-- The registers as a commit puts them in force. -/
def putShadows (m : Mct) : Mct := { m with map := m.mapSh, compat := m.compatSh }

/-- A commit that keeps the mapping of the stack changes the registers alone; another one empties the stack of what it held. -/
theorem commitMct_ok {s : State} {n : Nat} (h : commitOk s n = true) : ∃ (e : Nat) (m : Mem) (f : Mct → Mct),
    commitMct s n = modDie { settleMct s n with free := e } n (fun d => { d with
      hbm := if mapKeys (mct s n).mapSh = mapKeys (mct s n).map then d.hbm else m, mct := putShadows (f d.mct) }) ∧
      ∀ x, ctlOf (f x) = ctlOf x ∧ (f x).writes = x.writes := by
  have hc := settleMct_ctl s n
  simp only [ctlOf, Prod.mk.injEq] at hc
  obtain ⟨h1, h2, -, -, -⟩ := hc
  unfold commitMct
  rw [if_pos h]
  dsimp only
  rw [h1, h2]
  by_cases hk : mapKeys (mct s n).mapSh = mapKeys (mct s n).map
  · refine ⟨(settleMct s n).free, (die s n).hbm, id, ?_, fun _ => ⟨rfl, rfl⟩⟩
    rw [if_pos (beq_iff_eq.2 hk)]
    simp only [if_pos hk]
    rfl
  · rw [if_neg (mt beq_iff_eq.1 hk)]
    simp only [if_neg hk]
    exact ⟨_, _, fun m => { m with
      flaws := m.flaws.foldl (fun l e => bankSet [] l (moveBurst (mct s n).map (mct s n).mapSh e.1) e.2) []
      badRead := m.badRead.map (moveBurst (mct s n).map (mct s n).mapSh)
      scrubbed := m.scrubbed.map (moveBurst (mct s n).map (mct s n).mapSh) }, rfl, fun _ => ⟨rfl, rfl⟩⟩

theorem commitMct_puts {s : State} {n : Nat} (h : commitOk s n = true) : (mct (commitMct s n) n).map = (mct s n).mapSh ∧
    (mct (commitMct s n) n).compat = (mct s n).compatSh ∧ (mct (commitMct s n) n).writes = [] ∧ (mct (commitMct s n) n).reads = [] ∧
    (mapKeys (mct s n).mapSh = mapKeys (mct s n).map → (mct s n).compat = false →
      (die (commitMct s n) n).hbm = (mct s n).writes.foldl applyWr (die s n).hbm) ∧
    ∀ m, m ≠ n → die (commitMct s n) m = die s m := by
  obtain ⟨e, m, f, hx, hf⟩ := commitMct_ok h
  have hm : mct (commitMct s n) n = putShadows (f (mct (settleMct s n) n)) := by
    rw [hx, mct, die_modDie_self]
    rfl
  have hb : mapKeys (mct s n).mapSh = mapKeys (mct s n).map → (die (commitMct s n) n).hbm = (die (settleMct s n) n).hbm := by
    intro hk
    rw [hx, die_modDie_self]
    exact if_pos hk
  obtain ⟨hfc, hfw⟩ := hf (mct (settleMct s n) n)
  have hc := hfc.trans (settleMct_ctl s n)
  simp only [ctlOf, Prod.mk.injEq] at hc
  obtain ⟨-, h2, -, h4, h5⟩ := hc
  obtain ⟨hw, hbm⟩ := drainAll_empty s n
  refine ⟨?_, ?_, ?_, ?_, fun hk hc => ?_, fun j hj => ?_⟩
  · rw [hm]
    exact h2
  · rw [hm]
    exact h4
  · rw [hm]
    exact (hfw.trans (stackRead_settled s n).writes).trans hw
  · rw [hm]
    exact h5
  · rw [hb hk, (stackRead_settled s n).hbm, hbm hc]
  · rw [hx, die_modDie_ne _ _ hj]
    exact (stackWork_settleMct s n).others j hj

theorem commitMct_drops {s : State} {n : Nat} (h : commitOk s n = false) :
    commitMct s n = modMct s n (fun m => { m with mapSh := m.map, compatSh := m.compat, badcfg := true }) := by
  unfold commitMct
  rw [if_neg (by simp [h])]

namespace StackSteps

variable {R : State → State → Prop} (h : StackSteps R)

include h

theorem hbmAnswer (s : State) (n : Nat) (r : HeldRead) : R s (Machine.hbmAnswer s n r) := by
  have hc := h.trans (h.refreshFor s n r.off r.len)
    (h.ceEvents _ n (foundFor (mct (Machine.refreshFor s n r.off r.len) n) r.port r.livery .ce r.off r.len))
  unfold Machine.hbmAnswer correct
  dsimp only
  split
  · exact h.trans hc (h.emit _ _)
  · exact h.trans (h.trans (h.trans hc (h.ueEvents _ n r.livery _)) (h.fresh _)) (h.emit _ _)

theorem settleMct (s : State) (n : Nat) : R s (Machine.settleMct s n) := by
  rw [settleMct_eq]
  exact h.trans (h.trans (h.drainAll s n) (h.modMct _ n _)) (h.forAll (fun t r => h.hbmAnswer t n r) _ _)

theorem commitMct (s : State) (n : Nat) : R s (Machine.commitMct s n) := by
  cases hc : commitOk s n with
  | true =>
    obtain ⟨e, m, f, hx, -⟩ := commitMct_ok hc
    rw [hx]
    exact h.trans (h.trans (h.settleMct s n) (h.own _ _ e)) (h.modDie _ n _)
  | false =>
    rw [commitMct_drops hc]
    exact h.modMct s n _

end StackSteps

theorem hbmAnswer_setWaiting (s : State) (p : Port) (l : List Pkt) (n : Nat) (r : HeldRead) :
    hbmAnswer (setWaiting s p l) n r = setWaiting (hbmAnswer s n r) p l := by
  simp only [hbmAnswer, refreshFor_setWaiting, correct_setWaiting, ueEvents_setWaiting, fresh_setWaiting, emit_setWaiting, setWaiting_free]
  split <;> rfl

theorem settleMct_setWaiting (s : State) (p : Port) (l : List Pkt) (n : Nat) :
    settleMct (setWaiting s p l) n = setWaiting (settleMct s n) p l := by
  rw [settleMct_eq, settleMct_eq, readsTaken, readsTaken, drainAll_setWaiting, modMct_setWaiting, mct_setWaiting,
    forAll_setWaiting p l _ (fun s r => hbmAnswer_setWaiting s p l n r)]

theorem commitOk_setWaiting (s : State) (p : Port) (l : List Pkt) (n : Nat) : commitOk (setWaiting s p l) n = commitOk s n := by
  rcases p with _ | _ | _ <;> rfl

theorem commitMct_setWaiting (s : State) (p : Port) (l : List Pkt) (n : Nat) :
    commitMct (setWaiting s p l) n = setWaiting (commitMct s n) p l := by
  simp only [commitMct, commitOk_setWaiting, settleMct_setWaiting, mct_setWaiting, modMct_setWaiting, fresh_setWaiting,
    modDie_setWaiting, setWaiting_free]
  split
  · split <;> rfl
  · rfl

/-! MCT_COMMIT (Table 12-3). -/

theorem one_die_named (n : DieId) : dieList.filter (fun m => (2 ^ n.val).testBit m.val) = [n] ∧
    (toW (2 ^ n.val)).toNat = 2 ^ n.val ∧ fld (toW (2 ^ n.val)) 31 12 = 0 ∧ dieMask (fun m => (2 ^ n.val).testBit m.val) = 2 ^ n.val := by
  revert n
  decide

theorem dieMask_congr {f g : DieId → Bool} (h : ∀ n, f n = g n) : dieMask f = dieMask g := congrArg dieMask (funext h)

/-- MCT_COMMIT for one ready stack whose shadows can come into force commits them. -/
theorem mctCommit_commits {s : State} {k : Pkt} {n : DieId} (h : Ready s .host 4 4 1 k) (hp : par k 0 = toW (2 ^ n.val))
    (hs : 2 ≤ (mct s n).st) (hc : commitOk s n = true) : exec (.mctCommit .host) s =
      .next (answered .host k stOk [toW (2 ^ n.val)] (setWaiting (commitMct s n) .host [])) := by
  obtain ⟨hn, hv, hf, hm⟩ := one_die_named n
  refine onPort_answers h (ofRow_ready h rfl rfl rfl) (by simp [rowMctCommit, opDef, fixedRow, h.len]) rfl (fun l => ?_)
  have hgood : dieMask (fun m => (2 ^ n.val).testBit m.val && commitOk s m) = 2 ^ n.val := by
    refine (dieMask_congr fun m => ?_).trans hm
    by_cases hmn : m = n
    · rw [hmn, hc, Bool.and_true]
    · rw [Nat.testBit_two_pow, decide_eq_false fun hv => hmn (Fin.ext hv.symm), Bool.false_and]
  have hst : ¬(mct s n).st ≤ 1 := by omega
  have hz : ¬(2 ^ n.val = 0) := Nat.two_pow_pos _ |>.ne'
  simp only [rowMctCommit, opDef, parN, hp, hv, hf, hn, ne_eq, not_true, if_false, List.any_cons, List.any_nil, Bool.or_false,
    mct_setWaiting, decide_eq_true_eq, hst, hz, commitOk_setWaiting, hgood, if_true]
  exact congrArg _ (commitMct_setWaiting s .host l n)

/-! Refresh debts (R441-R443). -/

theorem foldl_addFlaws_debt (l : List (Fin 536870912 × Nat)) (m : Mct) :
    (l.foldl (fun m f => addFlaws m f.1 [f.2]) m).debt = m.debt := by
  induction l generalizing m with
  | nil => rfl
  | cons f l ih => exact ih _

theorem bankGet_map_range {N k : Nat} (g : Nat → Nat) (h : k < N) : bankGet 0 ((List.range N).map (fun j => (j, g j))) k = g k := by
  have hf : ((List.range N).map (fun j => (j, g j))).find? (fun e => e.1 == k) = some (k, g k) := by
    rw [List.find?_map]
    have : (List.range N).find? ((fun e : Nat × Nat => e.1 == k) ∘ fun j => (j, g j)) = some k := by
      refine List.find?_range_eq_some.2 ⟨?_, List.mem_range.2 h, fun j hj => ?_⟩
      · exact beq_self_eq_true k
      · simpa using hj.ne
    rw [this]
    rfl
  rw [bankGet, hf]

/-- Every bank with one unit of debt more, up to 8. -/
@[irreducible] def accrued (m : Mct) : Bank Nat := (List.range 2048).map (fun k => (k, min 8 (bankGet 0 m.debt k + 1)))

/-- A controller after an interval, with the flaws found in it. -/
def accrue (l : List (Fin 536870912 × Nat)) (m : Mct) : Mct :=
  l.foldl (fun m f => addFlaws m f.1 [f.2]) { m with debt := accrued m, peak := max m.peak (((accrued m).map (·.2)).foldl max 0) }

theorem accrue_debt (l : List (Fin 536870912 × Nat)) (m : Mct) : (accrue l m).debt = accrued m := by
  rw [accrue, foldl_addFlaws_debt]

theorem bankGet_accrued (m : Mct) {k : Nat} (h : k < 2048) : bankGet 0 (accrued m) k = min 8 (bankGet 0 m.debt k + 1) := by
  unfold accrued
  exact bankGet_map_range (fun k => min 8 (bankGet 0 m.debt k + 1)) h

theorem refreshDebtAccrue_adds {s : State} {n : DieId} (l : List (Fin 536870912 × Nat)) (h : (mct s n).st = 2) :
    ∃ t, exec (.refreshDebtAccrue n l) s = .next t ∧
      (∀ k, k < 2048 → bankGet 0 (mct t n).debt k = min 8 (bankGet 0 (mct s n).debt k + 1)) ∧ (die t n).hbm = (die s n).hbm := by
  have hx : exec (.refreshDebtAccrue n l) s = .next (modMct s n (accrue l)) := by
    show execRefreshDebtAccrue n s l = _
    unfold execRefreshDebtAccrue accrue accrued
    rw [if_pos h]
  refine ⟨_, hx, fun k hk => ?_, hbm_modMct s n _⟩
  rw [mct_modMct_self, accrue_debt, bankGet_accrued _ hk]

theorem refreshIssue_takes {s : State} {n : DieId} {pc : Fin 32} {b : Fin 64} (h1 : 1 ≤ bankGet 0 (mct s n).debt (bankNo pc b))
    (h8 : bankGet 0 (mct s n).debt (bankNo pc b) < 8) (hq : bankQuiet (mct s n) pc b = true) : ∃ t,
      exec (.refreshIssue n pc b) s = .next t ∧
      bankGet 0 (mct t n).debt (bankNo pc b) = bankGet 0 (mct s n).debt (bankNo pc b) - 1 ∧
      (∀ k, k ≠ bankNo pc b → bankGet 0 (mct t n).debt k = bankGet 0 (mct s n).debt k) ∧ (die t n).hbm = (die s n).hbm := by
  refine ⟨_, congrArg Host.Outcome.next (if_pos (by simp [h1, h8, hq])), ?_, fun k hk => ?_, hbm_modMct s n _⟩
  · rw [mct_modMct_self]
    exact bankGet_bankSet_self _ _ _ _
  · rw [mct_modMct_self]
    exact bankGet_bankSet_ne _ _ _ hk

theorem forcedRefresh_takes {s : State} {n : DieId} {pc : Fin 32} {b : Fin 64} (h : bankGet 0 (mct s n).debt (bankNo pc b) = 8) :
    ∃ t, exec (.forcedRefresh n pc b) s = .next t ∧ bankGet 0 (mct t n).debt (bankNo pc b) = 4 ∧
      (mct t n).forced = min 65535 ((mct s n).forced + 1) ∧ (mct t n).frcref = true ∧ (die t n).hbm = (die s n).hbm := by
  refine ⟨_, congrArg Host.Outcome.next (if_pos h), ?_, ?_, ?_, hbm_modMct s n _⟩
  · rw [mct_modMct_self]
    exact bankGet_bankSet_self _ _ _ _
  · rw [mct_modMct_self]
    rfl
  · rw [mct_modMct_self]
    rfl

theorem mctCtlCommit_eq (s : State) (n : DieId) : exec (.mctCtlCommit n) s = atOpen s (.die n 8) (fun s => commitMct s n) := rfl

theorem mctClrcnt_eq (s : State) (n : DieId) (ce ue forced : Bool) : exec (.mctClrcnt n ce ue forced) s =
    atOpen s (.die n 8) (fun s => modMct s n (fun m => { clrMct m with ceCnt := b2n ce, ueCnt := b2n ue, forced := b2n forced })) := rfl

/-- Settles O27: a commit settles the stack first, and each other event changes its own registers. -/
theorem refreshAndCommit : Obligations.RefreshAndCommit := by
  have hne {n m : DieId} (h : m ≠ n) : (m : Nat) ≠ n := fun hv => h (Fin.ext hv)
  refine ⟨fun s n ho hc => ?_, fun s n ho hc => ?_, fun s n ce ue forced ho => ?_, fun s n r hr ho => ?_, fun s k n h hp hs hc => ?_,
    fun _ _ l h => refreshDebtAccrue_adds l h, fun _ _ _ _ h1 h8 hq => refreshIssue_takes h1 h8 hq,
    fun _ _ _ _ h => forcedRefresh_takes h⟩
  · obtain ⟨h1, h2, h3, h4, h5, h6⟩ := commitMct_puts hc
    exact ⟨_, (mctCtlCommit_eq s n).trans (atOpen_open _ ho), h1, h2, h3, h4, h5, fun m hm => h6 m (hne hm)⟩
  · refine ⟨_, (mctCtlCommit_eq s n).trans (atOpen_open _ ho), ?_⟩
    rw [commitMct_drops hc, mct_modMct_self, hbm_modMct]
    exact ⟨rfl, rfl, rfl, rfl⟩
  · refine ⟨_, (mctClrcnt_eq s n ce ue forced).trans (atOpen_open _ ho), ?_⟩
    rw [mct_modMct_self, hbm_modMct]
    exact ⟨rfl, rfl, rfl, rfl, rfl, fun m hm => die_modDie_ne s _ (hne hm)⟩
  · rcases hr with rfl | ⟨a, b, c, rfl⟩
    · exact (mctCtlCommit_eq s n).trans (atOpen_closed _ ho)
    · exact (mctClrcnt_eq s n a b c).trans (atOpen_closed _ ho)
  · obtain ⟨h1, h2, -, -, -, h6⟩ := commitMct_puts hc
    have hd : (answered .host k stOk [toW (2 ^ n.val)] (setWaiting (commitMct s n) .host [])).dies = (commitMct s n).dies :=
      (congrArg State.dies (offPorts_answered h.alone (portStands_table.commitMct s n) stOk _) :)
    refine ⟨_, mctCommit_commits h hp hs hc, replied_alone h.alone (portStands_table.commitMct s n) _ _, ?_, ?_, fun m hm => ?_⟩
    · rw [mct, die_of_dies hd]
      exact h1
    · rw [mct, die_of_dies hd]
      exact h2
    · rw [die_of_dies hd, h6 m (hne hm)]

end Sys2Proof.Proofs

/-! MEM_READ, MEM_WRITE, MEM_FILL and MEM_COPY (12 R449-R451, Table 12-3). -/

namespace Sys2Proof.Proofs

open Sys2Proof.Machine Sys2Proof.Safety Sys2Proof.Laws

/-! What admits the range of a packet. -/

/-- The range of a packet lies at `q`, can be reached, and is open to the packet's context. -/
structure RangeOpen (s : State) (k : Pkt) (addr len : Nat) (kind : Kind) (q : Spot) : Prop where
  at_    : decodeRange addr len = some q
  up     : reachable s q .iod = true
  fw     : fwAllows s q.tgt (ctxLivery s (pktCtx k)) q.off len kind = true
  block  : blockAllows s q.tgt (ctxLivery s (pktCtx k)) q.off len kind = true
  place  : placeAllows s q (ctxLivery s (pktCtx k)) len kind = true
  ungated : gated s q.tgt = false

theorem firewalled_none_iff (s : State) (q : Spot) (l : Byte) (len : Nat) (kind : Kind) : firewalled s q l len kind = none ↔
    fwAllows s q.tgt l q.off len kind = true ∧ blockAllows s q.tgt l q.off len kind = true ∧ placeAllows s q l len kind = true := by
  unfold firewalled
  cases fwAllows s q.tgt l q.off len kind <;> cases blockAllows s q.tgt l q.off len kind <;> cases placeAllows s q l len kind <;> simp

theorem grants_iod_iff {s u : State} {l : Byte} {a n : Nat} {kind : Kind} {q : Spot} : grants s l a n kind .iod = .spot q u ↔
    decodeRange a n = some q ∧ reachable s q .iod = true ∧ firewalled s q l n kind = none ∧ gated s q.tgt = false ∧ u = s := by
  unfold grants
  cases hd : decodeRange a n with
  | none => simp
  | some p =>
    have hs : settleFor s .iod p.tgt = s := rfl
    dsimp only
    rw [hs]
    cases hr : reachable s p .iod <;> cases hf : firewalled s p l n kind <;> cases hg : gated s p.tgt <;> simp <;> grind

theorem admitPkt_spot_iff {s u : State} {k : Pkt} {a n : Nat} {kind : Kind} {q : Spot} (hn : n ≠ 0) :
    admitPkt s k a n kind = .spot q u ↔ RangeOpen s k a n kind q ∧ u = s := by
  unfold admitPkt
  rw [if_pos hn, grants_iod_iff, firewalled_none_iff]
  constructor
  · rintro ⟨h1, h2, ⟨h3, h4, h5⟩, h6, h7⟩
    exact ⟨⟨h1, h2, h3, h4, h5, h6⟩, h7⟩
  · rintro ⟨⟨h1, h2, h3, h4, h5, h6⟩, h7⟩
    exact ⟨h1, h2, ⟨h3, h4, h5⟩, h6, h7⟩

theorem rangeOpen_setWaiting {s : State} {p : Port} {l : List Pkt} {k : Pkt} {a n : Nat} {kind : Kind} {q : Spot} :
    RangeOpen (setWaiting s p l) k a n kind q ↔ RangeOpen s k a n kind q := by
  constructor <;> rintro ⟨h1, h2, h3, h4, h5, h6⟩ <;> rcases p with _ | _ | _ <;> exact ⟨h1, h2, h3, h4, h5, h6⟩

theorem RangeOpen.firewalled {s : State} {k : Pkt} {a n : Nat} {kind : Kind} {q : Spot} (h : RangeOpen s k a n kind q) :
    firewalled s q (ctxLivery s (pktCtx k)) n kind = none :=
  (firewalled_none_iff ..).2 ⟨h.fw, h.block, h.place⟩

/-- An open range is not refused before it is admitted. -/
theorem RangeOpen.named {s : State} {k : Pkt} {a n : Nat} {kind : Kind} {q : Spot} (h : RangeOpen s k a n kind q) (hn : n ≠ 0) (idx : Nat) :
    namedRange s k a n true kind idx = none := by
  unfold namedRange
  simp only [ne_eq, hn, not_false_eq_true, decide_true, Bool.and_self, if_true, h.at_, h.firewalled, Option.map_none]

/-- The range that a packet taken off its port is admitted to is open, whatever waits beside it. -/
theorem rangeOpen_of_took {s u : State} {k : Pkt} {a n : Nat} {kind : Kind} {q : Spot} {p : Port} (hk : Alone s p k) (hn : n ≠ 0)
    (h : admitPkt (took s p k) k a n kind = .spot q u) : RangeOpen s k a n kind q ∧ u = took s p k := by
  rw [admitPkt_spot_iff hn, took_alone hk, rangeOpen_setWaiting] at h
  rwa [took_alone hk]

theorem RangeOpen.admitted {s : State} {k : Pkt} {a n : Nat} {kind : Kind} {q : Spot} (h : RangeOpen s k a n kind q) (hn : n ≠ 0) :
    admitPkt s k a n kind = .spot q s := (admitPkt_spot_iff hn).2 ⟨h, rfl⟩

theorem ctxLivery_setWaiting (s : State) (p : Port) (l : List Pkt) (c : Nat) : ctxLivery (setWaiting s p l) c = ctxLivery s c := by
  rcases p with _ | _ | _ <;> rfl

/-! MEM_READ. -/

theorem memRead_answers {s : State} {k : Pkt} {q : Spot} {d : DieId} (h : Ready s .host 4 0 3 k) (ha : par64 k 0 % 4 = 0)
    (hn : parN k 2 % 4 = 0) (h1 : 1 ≤ parN k 2) (h2 : parN k 2 ≤ 65516) (ho : RangeOpen s k (par64 k 0) (parN k 2) .read q)
    (hp : q.place = .hbm d) (hb : badIn (mct s d) q.off (parN k 2) = none) : exec (.memRead .host) s =
      .next (answered .host k stOk (bytesWords (memRd (hbmView s d .spine (ctxLivery s (pktCtx k))) q.off (parN k 2)))
        (setWaiting (hbmGet s d .spine (ctxLivery s (pktCtx k)) q.off (parN k 2)).2 .host [])) := by
  have hz : parN k 2 ≠ 0 := by omega
  refine onPort_answers h (ofRow_ready h rfl rfl rfl) (by simp [rowMemRead, opDef, fixedRow, h.len]) rfl (fun l => ?_)
  have ho' := (rangeOpen_setWaiting (p := .host) (l := l)).2 ho
  have hok := hbmGet_ok hb .spine (ctxLivery s (pktCtx k))
  simp only [rowMemRead, opDef, ha, hn, h2, ne_eq, not_true, if_false, decide_true, Bool.and_self, ho'.named hz, Bool.not_true,
    Bool.false_eq_true, ho'.admitted hz, hz, hp, ctxLivery_setWaiting, hbmGet_setWaiting]
  rw [show hbmGet s d .spine (ctxLivery s (pktCtx k)) q.off (parN k 2) = (_, _) from Prod.ext hok rfl]

/-! MEM_WRITE and MEM_FILL. -/

/-- A write at a stack without errors and without waiting writes reaches the stack, and nothing else changes there. -/
theorem hbmPut_idle {s : State} {n : Nat} (hf : (mct s n).flaws = []) (hw : (mct s n).writes = []) (liv : Byte) (off : Nat)
    (data : List Byte) : (hbmPut s n liv off data).1 = none ∧
      (die (hbmPut s n liv off data).2 n).hbm = memWr (die s n).hbm off data := by
  have hr := (stackRead_refreshFor s n off data.length).trans (stackRead_partRead _ n .spine liv off data.length)
  have hp := partRead_flawless (flaws_refreshFor hf off data.length) .spine liv off data.length
  unfold hbmPut
  rcases hx : partRead (refreshFor s n off data.length) n .spine liv off data.length with ⟨bad, t⟩
  rw [hx] at hp hr
  obtain rfl : bad = false := hp
  have hw' : (mct t n).writes = [] := hr.writes.trans hw
  dsimp only
  rw [hw', List.any_nil, if_neg Bool.false_ne_true, die_land]
  exact ⟨rfl, by simp [landWr, applyWr, hr.hbm]⟩

theorem putRange_setWaiting {s : State} {k : Pkt} {q : Spot} {d : DieId} (hp : q.place = .hbm d) (hf : (mct s d).flaws = [])
    (hw : (mct s d).writes = []) (data : List Byte) (l : List Pkt) : putRange (setWaiting s .host l) k q data =
      .answer stOk [] (setWaiting (hbmSet s d (ctxLivery s (pktCtx k)) q.off data) .host l) := by
  have hx := (hbmPut_idle hf hw (ctxLivery s (pktCtx k)) q.off data).1
  simp only [putRange, hp, ctxLivery_setWaiting, hbmPut_setWaiting]
  rw [show hbmPut s d (ctxLivery s (pktCtx k)) q.off data = (none, _) from Prod.ext hx rfl]
  rfl

/-- What a packet that writes `bs` at an open range of an idle stack leaves. -/
theorem putRange_leaves {s : State} {k : Pkt} {q : Spot} {d : DieId} {bs : List Byte} (h : Alone s .host k) (hf : (mct s d).flaws = [])
    (hw : (mct s d).writes = []) (liv : Byte) : ∃ t,
      Host.Outcome.next (answered .host k stOk [] (setWaiting (hbmSet s d liv q.off bs) .host [])) = (.next t : Out) ∧
      Safety.replied s t k stOk [] ∧ memRd (die t d).hbm q.off bs.length = bs ∧
      (∀ b, b < q.off ∨ q.off + bs.length ≤ b → memByte (die t d).hbm b = memByte (die s d).hbm b) ∧
      ∀ m : DieId, m ≠ d → die t m = die s m := by
  have hs := portStands_table.hbmSet s d liv q.off bs
  have hd : (answered .host k stOk [] (setWaiting (hbmSet s d liv q.off bs) .host [])).dies = (hbmSet s d liv q.off bs).dies :=
    (congrArg State.dies (offPorts_answered h hs stOk []) :)
  have hb : (die (hbmSet s d liv q.off bs) d).hbm = memWr (die s d).hbm q.off bs := (hbmPut_idle hf hw liv q.off bs).2
  refine ⟨_, rfl, replied_alone h hs _ _, ?_, fun b ho => ?_, fun m hm => ?_⟩
  · rw [die_of_dies hd, hb, memRd_memWr]
  · rw [die_of_dies hd, hb, memByte_memWr_outside _ ho]
  · rw [die_of_dies hd, (stackWork_hbmSet s d liv q.off bs).others m fun hv => hm (Fin.ext hv)]

theorem memWrite_writes {s : State} {k : Pkt} {q : Spot} {d : DieId} (h : Ready s .host 4 1 (parN k 2 + 3) k) (ha : par64 k 0 % 4 = 0)
    (h1 : 1 ≤ parN k 2) (ho : RangeOpen s k (par64 k 0) (4 * parN k 2) .write q) (hp : q.place = .hbm d) (hf : (mct s d).flaws = [])
    (hw : (mct s d).writes = []) : exec (.memWrite .host) s = .next (answered .host k stOk []
      (setWaiting (hbmSet s d (ctxLivery s (pktCtx k)) q.off (wordsBytes (parsFrom k 3))) .host [])) := by
  have hz : 4 * parN k 2 ≠ 0 := by omega
  refine onPort_answers h (ofRow_ready h rfl rfl rfl) (by simp [rowMemWrite, opDef, h.len]) rfl (fun l => ?_)
  have ho' := (rangeOpen_setWaiting (p := .host) (l := l)).2 ho
  simp only [rowMemWrite, opDef, ha, ne_eq, not_true, if_false, ho'.named hz, ho'.admitted hz, hz]
  exact putRange_setWaiting hp hf hw _ l

theorem memFill_writes {s : State} {k : Pkt} {q : Spot} {d : DieId} (h : Ready s .host 4 2 5 k) (ha : par64 k 0 % 4 = 0)
    (hn : par64 k 2 % 4 = 0) (h1 : 1 ≤ par64 k 2) (h2 : par64 k 2 ≤ 2 ^ 24) (he : par64 k 0 + par64 k 2 ≤ hbmEnd)
    (ho : RangeOpen s k (par64 k 0) (par64 k 2) .write q) (hp : q.place = .hbm d) (hf : (mct s d).flaws = [])
    (hw : (mct s d).writes = []) : exec (.memFill .host) s = .next (answered .host k stOk [] (setWaiting
      (hbmSet s d (ctxLivery s (pktCtx k)) q.off (List.replicate (par64 k 2 / 4) (wordBytes (par k 4))).flatten) .host [])) := by
  have hz : par64 k 2 ≠ 0 := by omega
  have hin : (par64 k 0 % 4 ≠ 0 || hbmEnd ≤ par64 k 0 || (par64 k 2 % 4 = 0 && par64 k 2 ≤ 2 ^ 24) && hbmEnd < par64 k 0 + par64 k 2) =
      false := by
    simp only [Bool.or_eq_false_iff, Bool.and_eq_false_iff, decide_eq_false_iff_not]
    omega
  refine onPort_answers h (ofRow_ready h rfl rfl rfl) (by simp [rowMemFill, opDef, fixedRow, h.len]) rfl (fun l => ?_)
  have ho' := (rangeOpen_setWaiting (p := .host) (l := l)).2 ho
  have hok : (par64 k 2 % 4 = 0 && par64 k 2 ≤ 2 ^ 24) = true := by rw [hn, decide_eq_true h2]; rfl
  dsimp only [rowMemFill, opDef]
  rw [hin, hok, ho'.named hz, if_neg Bool.false_ne_true]
  simp only [Bool.not_true, Bool.false_eq_true, if_false, ho'.admitted hz, hz]
  exact putRange_setWaiting hp hf hw _ l

/-! MEM_COPY. -/

theorem memCopy_defers {s : State} {k : Pkt} {q r : Spot} (h : Ready s .host 4 3 6 k) (ha : par64 k 0 % 4 = 0) (hb : par64 k 2 % 4 = 0)
    (hn : par64 k 4 % 4 = 0) (h1 : 1 ≤ par64 k 4) (h2 : par64 k 4 ≤ 2 ^ 34) (hea : par64 k 0 + par64 k 4 ≤ hbmEnd)
    (heb : par64 k 2 + par64 k 4 ≤ hbmEnd) (hx : anyOverlap (par64 k 0) (par64 k 4) (par64 k 2) (par64 k 4) = false)
    (ho : RangeOpen s k (par64 k 0) (par64 k 4) .read q) (hw : RangeOpen s k (par64 k 2) (par64 k 4) .write r) :
    exec (.memCopy .host) s = .next (deferred .host k (.memCopy s.dis.nextId) (setDis (took s .host k) (fun d => { d with
      nextId := s.dis.nextId + 1
      copies := s.dis.copies ++ [{ id := s.dis.nextId, src := par64 k 0, dst := par64 k 2, len := par64 k 4
                                   livery := ctxLivery s (pktCtx k) }] }))) := by
  have hz : par64 k 4 ≠ 0 := by omega
  have hin (a : Nat) (ha : a % 4 = 0) (he : a + par64 k 4 ≤ hbmEnd) :
      (a % 4 ≠ 0 || hbmEnd ≤ a || (par64 k 4 % 4 = 0 && par64 k 4 ≤ 2 ^ 34) && hbmEnd < a + par64 k 4) = false := by
    simp only [Bool.or_eq_false_iff, Bool.and_eq_false_iff, decide_eq_false_iff_not]
    omega
  have hok : (par64 k 4 % 4 = 0 && par64 k 4 ≤ 2 ^ 34) = true := by rw [hn, decide_eq_true h2]; rfl
  rw [took_alone h.alone, setDis_setWaiting]
  refine onPort_defers h (ofRow_ready h rfl rfl rfl) (gate_ready h (by simp [rowMemCopy, opDef, fixedRow, h.len]) rfl) (fun l => ?_)
  have ho' := (rangeOpen_setWaiting (p := .host) (l := l)).2 ho
  have hw' := (rangeOpen_setWaiting (p := .host) (l := l)).2 hw
  dsimp only [rowMemCopy, opDef]
  rw [hin _ ha hea, hin _ hb heb, hok, ho'.named hz, hw'.named hz, hx, if_neg Bool.false_ne_true]
  simp only [Bool.not_true, Bool.false_eq_true, if_false, ho'.admitted hz, hw'.admitted hz, hz, setDis_setWaiting, ctxLivery_setWaiting]
  rfl

/-- A copy between stacks without errors reaches all of its bytes. -/
theorem copyReach_flawless {s : State} {c : MemCopy} (len : Nat) (hs : (mct s (c.src / 2 ^ 34)).flaws = [])
    (hd : (mct s (c.dst / 2 ^ 34)).flaws = []) :
    copyReach s c len = (len, false, refreshFor s (c.src / 2 ^ 34) (c.src % 2 ^ 34) len) := by
  have hs' := flaws_refreshFor hs (c.src % 2 ^ 34) len
  have hd' : (mct (refreshFor s (c.src / 2 ^ 34) (c.src % 2 ^ 34) len) (c.dst / 2 ^ 34)).flaws = [] := by
    by_cases he : c.dst / 2 ^ 34 = c.src / 2 ^ 34
    · rw [he]
      exact hs'
    · rw [mct, (stackRead_refreshFor s (c.src / 2 ^ 34) _ _).others _ he]
      exact hd
  unfold copyReach correct
  dsimp only
  rw [foundFor_flawless hs' .spine c.livery .ue, List.head?_nil, Option.elim_none, foundPart_flawless hd' .spine c.livery (by decide),
    List.head?_nil, Option.elim_none, foundFor_flawless hs' .spine c.livery .ce]
  rfl

theorem drew_of_defers {s u t : State} {w : DefKind} {st : Byte} {data : List Word} (hd : u.dis.defers = s.dis.defers)
    (hp : PortStands s u) (h : drew u t w st data) : drew s t w st data := by
  unfold drew Safety.replied at h ⊢
  rw [← hd]
  rw [hp] at h
  exact h

/-- At its end a copy between stacks without errors draws its reply, and the bytes stand at the destination. -/
theorem memCopyEnd_moves {s : State} {id : Nat} {c : MemCopy} (h : s.dis.copies.find? (fun c => c.id == id) = some c)
    (hu : copyUp s c = none) (hs : (mct s (c.src / 2 ^ 34)).flaws = []) (hd : (mct s (c.dst / 2 ^ 34)).flaws = []) :
    ∃ t, exec (.memCopyEnd id) s = .next t ∧ drew s t (.memCopy id) stOk (two c.len) ∧ (∀ x ∈ t.dis.copies, x.id ≠ id) ∧
      memRd (die t (c.dst / 2 ^ 34)).hbm (c.dst % 2 ^ 34) c.len =
        memRd (hbmView s (c.src / 2 ^ 34) .spine c.livery) (c.src % 2 ^ 34) c.len := by
  obtain ⟨u, hu'⟩ : ∃ u, refreshFor (dropCopy s id) (c.src / 2 ^ 34) (c.src % 2 ^ 34) c.len = u := ⟨_, rfl⟩
  have hr := sameView_refreshFor (dropCopy s id) (c.src / 2 ^ 34) (c.src % 2 ^ 34) c.len
  have hq := portStands_table.refreshFor (dropCopy s id) (c.src / 2 ^ 34) (c.src % 2 ^ 34) c.len
  obtain ⟨bs, hbs⟩ : ∃ bs, memRd (hbmView s (c.src / 2 ^ 34) .spine c.livery) (c.src % 2 ^ 34) c.len = bs := ⟨_, rfl⟩
  have hm : copyMove (dropCopy s id) c c.len = (c.len, false, hbmSet u (c.dst / 2 ^ 34) c.livery (c.dst % 2 ^ 34) bs) := by
    unfold copyMove
    rw [copyReach_flawless (s := dropCopy s id) c.len hs hd]
    dsimp only
    rw [hr.view, hu', ← hbs]
    rfl
  have hdu : (mct u (c.dst / 2 ^ 34)).flaws = [] := by
    by_cases he : c.dst / 2 ^ 34 = c.src / 2 ^ 34
    · rw [he, ← hu']
      exact flaws_refreshFor (s := dropCopy s id) hs _ _
    · rw [← hu', mct, hr.others _ he]
      exact hd
  have hx : exec (.memCopyEnd id) s = .next (completeDefers (hbmSet u (c.dst / 2 ^ 34) c.livery (c.dst % 2 ^ 34) bs) (.memCopy id) stOk
      (two c.len)) := by
    show execMemCopyEnd id s = _
    unfold execMemCopyEnd
    rw [h]
    dsimp only
    rw [hu]
    dsimp only
    rw [hm]
    rfl
  rw [hu'] at hr hq
  have hw := stackWork_hbmSet u (c.dst / 2 ^ 34) c.livery (c.dst % 2 ^ 34) bs
  have hdis : (hbmSet u (c.dst / 2 ^ 34) c.livery (c.dst % 2 ^ 34) bs).dis = (dropCopy s id).dis :=
    (congrArg State.dis (hw.rest.trans hr.rest) :)
  refine ⟨_, hx, drew_of_defers (by rw [hdis]; rfl) ?_ (drew_completeDefers _ _ _ _), fun x hx => ?_, ?_⟩
  · have hp : PortStands s (dropCopy s id) := .of_eq (s := s) (t := dropCopy s id) rfl
    exact (hp.trans hq).trans (portStands_table.hbmSet u _ _ _ _)
  · rw [completeDefers_dis, hdis] at hx
    have := (List.mem_filter.1 hx).2
    simpa using this
  · have hd := (signalKept_completeDefers (hbmSet u (c.dst / 2 ^ 34) c.livery (c.dst % 2 ^ 34) bs) (.memCopy id) stOk (two c.len)).dies
    have hl : bs.length = c.len := by rw [← hbs, memRd_length]
    rw [die_of_dies hd, hbs, ← hl]
    exact memRd_hbmSet hdu c.livery _ bs

/-- Settles O28: each opcode from its own lemma, the ranges by what admits them. -/
theorem memoryOpcodes : Obligations.MemoryOpcodes := by
  refine ⟨fun s u k q d h ha hn h1 h2 hadm hp hb => ?_, fun s u k q d bs h ha h1 hbs hadm hp hf hw => ?_,
    fun s u k q d bs h ha hn h1 h2 he hbs hadm hp hf hw => ?_, fun s u v k q r h ha hb hn h1 h2 hea heb hx hr hw => ?_,
    fun _ _ _ h hu hs hd => memCopyEnd_moves h hu hs hd⟩
  · obtain ⟨ho, rfl⟩ := rangeOpen_of_took h.alone (by omega) hadm
    rw [memRead_answers h ha hn h1 h2 ho hp hb, took_alone h.alone, hbmGet_setWaiting]
    exact ⟨rfl, rfl⟩
  · obtain ⟨ho, -⟩ := rangeOpen_of_took h.alone (by omega) hadm
    rw [memWrite_writes h ha h1 ho hp hf hw, hbs]
    exact putRange_leaves h.alone hf hw _
  · obtain ⟨ho, -⟩ := rangeOpen_of_took h.alone (by omega) hadm
    rw [memFill_writes h ha hn h1 h2 he ho hp hf hw, hbs]
    exact putRange_leaves h.alone hf hw _
  · obtain ⟨ho, rfl⟩ := rangeOpen_of_took h.alone (by omega) hr
    obtain ⟨hw, -⟩ := rangeOpen_of_took h.alone (by omega) hw
    exact memCopy_defers h ha hb hn h1 h2 hea heb hx ho hw

end Sys2Proof.Proofs

/-! What links that go down and units that are reset leave of the device: all but the ports, the dies, the work under way and the
logs (01 R26-R28; 14 R499; 16 Table 16-4). -/

namespace Sys2Proof.Proofs

open Sys2Proof.Machine Sys2Proof.Safety Sys2Proof.Laws

/-- An island without its logs, its link, the accesses to its memories and the retirements it records. -/
def offIsl (x : Island) : Island :=
  { x with pieces := [], linkUp := false, flog := [], flogSeq := 0, flogCnt := 0, pendBook := [], notices := [], retired := [] }

/-- The host port without its packets and replies and its alert on faults. -/
def offHpt (h : Hpt) : Hpt :=
  { h with inbound := [], wait := [], fifo := [], replies := 0, alive := [], stale := 0, badchk := 0, aFault := false }

/-- The dispatcher without the packets and copies under way and what links have ended. -/
def offDis (d : Dis) : Dis := { d with defers := [], copies := [], ended := [] }

/-- The blocks without the dies and the work under way. -/
def offBlocks (s : State) : State := { s with
  free := 0, qmg := { s.qmg with queues := [] }, mpl := { s.mpl with heldOcc := [], heldPrim := [] }, fus := { s.fus with held := [] }
  engines := [], dies := [], flight := [], fws := [], sia := offIsl s.sia, sib := offIsl s.sib, latches := []
  iod := { s.iod with spdown := 0, isldown := 0, altRoute := [] } }

/-- The device without what a link that goes down and the reset of a die can write. -/
def offLink (s : State) : State := { offBlocks (offPorts s) with hpt := offHpt s.hpt, dis := offDis s.dis }

/-- All but what a link that goes down and the reset of a die can write stands as before. -/
def LinkKept (s t : State) : Prop := offLink t = offLink s

theorem LinkKept.trans {s t u : State} (h : LinkKept s t) (k : LinkKept t u) : LinkKept s u := Eq.trans k h

theorem offIsl_islTake (x : Island) (e : Entry) : offIsl (islTake x e) = offIsl x := by
  unfold islTake
  split <;> rfl

theorem offIsl_logF (s : State) (f : Fact) (i : Isl) : offIsl (isl (logF s f) i) = offIsl (isl s i) := by
  obtain ⟨e, he, -, -, -⟩ := isl_logF_entry s f i
  rw [he, offIsl_islTake]

theorem linkKept_setHpt (s : State) {h : Hpt} (hh : offHpt h = offHpt s.hpt) : LinkKept s (setHpt s h) := by
  rcases setHpt_eq s h with hx | hx <;> rw [hx] <;> exact congrArg (fun y => { offBlocks (offPorts s) with hpt := y, dis := offDis s.dis }) hh

theorem linkKept_logF (s : State) (f : Fact) : LinkKept s (logF s f) := by
  have ha := offIsl_logF s f .sia
  have hb := offIsl_logF s f .sib
  obtain ⟨n, x, y, h⟩ := logF_eq s f
  have hi : LinkKept s { s with free := n, sia := x, sib := y } := by
    rcases h with h | h <;> rw [h] at ha hb
    · unfold LinkKept offLink offBlocks
      dsimp only [offPorts]
      rw [show offIsl x = offIsl s.sia from ha, show offIsl y = offIsl s.sib from hb]
    · rw [isl_setHpt] at ha hb
      unfold LinkKept offLink offBlocks
      dsimp only [offPorts]
      rw [show offIsl x = offIsl s.sia from ha, show offIsl y = offIsl s.sib from hb]
  rcases h with h | h <;> rw [h]
  · exact hi
  · exact hi.trans (linkKept_setHpt { s with free := n, sia := x, sib := y } rfl)

/-- Work at the queue contexts and the stacks leaves it all. -/
theorem linkKept_table : TableSteps LinkKept where
  refl _ := rfl
  trans := .trans
  modDie _ _ _ := rfl
  own _ _ _ := rfl
  emit _ _ := rfl
  logF := linkKept_logF
  queues _ _ := rfl

theorem linkKept_of_ports {s t : State} (hr : offPorts t = offPorts s) (hh : offHpt t.hpt = offHpt s.hpt) (hd : offDis t.dis = offDis s.dis) :
    LinkKept s t := by
  unfold LinkKept offLink
  rw [hr, hh, hd]

theorem linkKept_completeDefers (s : State) (w : DefKind) (st : Byte) (data : List Word) : LinkKept s (completeDefers s w st data) := by
  have hp := portWork_completeDefers s w st data
  refine linkKept_of_ports (offPorts_completeDefers s w st data) ?_ ?_
  · rw [hp]
    rfl
  · rw [completeDefers_dis]
    rfl

theorem linkKept_forAll {α : Type} {f : State → α → State} (hf : ∀ t x, LinkKept t (f t x)) (l : List α) (s : State) :
    LinkKept s (forAll s l f) :=
  forAll_proj offLink hf l s

theorem linkKept_modIsl (s : State) (i : Isl) {f : Island → Island} (hf : ∀ x, offIsl (f x) = offIsl x) : LinkKept s (modIsl s i f) := by
  cases i
  · exact congrArg (fun x => { offLink s with sia := x }) (hf s.sia)
  · exact congrArg (fun x => { offLink s with sib := x }) (hf s.sib)

/-! A link goes down (R28). -/

theorem linkKept_engDone (s : State) (g : Nat) (st : Byte) (ws : List Word) (skip : Bool) : LinkKept s (engDone s g st ws skip) := by
  obtain ⟨e, n, h⟩ := engDone_eq s g st ws skip
  rw [h]
  rfl

theorem linkKept_failDesc (s : State) (g : EngId) : LinkKept s (failDesc s g) := by
  unfold failDesc
  split
  · exact linkKept_engDone ..
  · rfl

theorem linkKept_failWrite (s : State) (w : PendWrite) : LinkKept s (failWrite s w) := by
  unfold failWrite
  split
  · exact linkKept_failDesc ..
  · rfl

theorem linkKept_failHeldWrite (s : State) (w : HeldWrite) : LinkKept s (failHeldWrite s w) := by
  unfold failHeldWrite
  split
  · exact linkKept_failDesc ..
  · split <;> rfl

theorem linkKept_failMct (s : State) (l : LinkId) (n : DieId) : LinkKept s (failMct s l n) :=
  LinkKept.trans (t := modMct s n (cutMct (mct s n).compat l)) rfl
    (.trans (linkKept_forAll (fun t (r : HeldRead) => linkKept_table.emit t (.fabric r.livery stInternal []))
      ((mct s n).reads.filter (fun r => r.path.contains l)) (noteEnded (modMct s n (cutMct (mct s n).compat l)) _))
      (linkKept_forAll linkKept_failWrite _ _))

theorem linkKept_failPieces (s : State) (l : LinkId) (i : Isl) : LinkKept s (failPieces s l i) := by
  unfold failPieces
  dsimp only
  refine .trans ?_ (linkKept_forAll (fun t a => linkKept_table.emit t _) _ _)
  exact LinkKept.trans (t := noteEnded s _) rfl (linkKept_modIsl _ i fun _ => rfl)

theorem linkKept_failFlight (s : State) (l : LinkId) : LinkKept s (failFlight s l) := by
  unfold failFlight
  dsimp only
  refine .trans ?_ (linkKept_forAll (fun t (f : EngId × DieId × Bool × HaloMsg) => linkKept_failDesc t f.1) _ _)
  rfl

theorem linkKept_failHeld (s : State) (l : LinkId) : LinkKept s (failHeld s l) := by
  unfold failHeld
  dsimp only
  refine .trans ?_ (linkKept_forAll linkKept_failHeldWrite _ _)
  rfl

theorem linkKept_copyReach (s : State) (c : MemCopy) (len : Nat) : LinkKept s (copyReach s c len).2.2 := by
  have hr (t : State) (n : Nat) (p : MctPort) (l : Byte) (off k : Nat) : LinkKept t (correct t n p l off k) :=
    linkKept_table.ceEvents t n _
  unfold copyReach
  dsimp only
  split
  · dsimp only
    refine .trans ?_ (linkKept_table.ueEvents _ _ _ _)
    split
    · exact ((linkKept_table.refreshFor s _ _ _).trans (hr _ _ _ _ _ _)).trans (linkKept_table.ueEvents _ _ _ _)
    · exact (linkKept_table.refreshFor s _ _ _).trans (hr _ _ _ _ _ _)
  · exact ((linkKept_table.refreshFor s _ _ _).trans (hr _ _ _ _ _ _)).trans (linkKept_table.ueEvents _ _ _ _)

theorem linkKept_failCopy (s : State) (c : MemCopy) : LinkKept s (failCopy s c) := by
  unfold failCopy copyMove
  dsimp only
  refine .trans (.trans ?_ (linkKept_table.hbmSet _ _ _ _ _)) (linkKept_completeDefers _ _ _ _)
  exact LinkKept.trans (t := (fresh (dropCopy s c.id)).2) rfl (linkKept_copyReach _ c _)

theorem linkKept_failCopies (s : State) (l : LinkId) : LinkKept s (failCopies s l) := by
  unfold failCopies
  dsimp only
  refine .trans ?_ (linkKept_forAll linkKept_failCopy _ _)
  rfl

theorem linkKept_spdown (s : State) (v : BitVec 12) : LinkKept s { s with iod := { s.iod with spdown := v } } := rfl

theorem linkKept_isldown (s : State) (v : BitVec 2) : LinkKept s { s with iod := { s.iod with isldown := v } } := rfl

theorem linkKept_setLink (s : State) (l : LinkId) (up : Bool) : LinkKept s (setLink s l up) := by
  cases l with
  | spine n =>
    have h := linkKept_table.modDie s n (fun d => { d with spup := up, spdown := d.spdown || ((die s n).spup && !up) })
    unfold setLink
    dsimp only
    split
    · exact h.trans (linkKept_spdown _ _)
    · exact h
  | coupling n => exact (linkKept_table.modDie s n _).trans (linkKept_table.modDie _ _ _)
  | island i =>
    have h := linkKept_modIsl s i (f := fun x => { x with linkUp := up }) fun _ => rfl
    unfold setLink
    dsimp only
    split
    · exact h.trans (linkKept_isldown _ _)
    · exact h

theorem linkKept_dropLink (s : State) (l : LinkId) : LinkKept s (dropLink s l) := by
  unfold dropLink
  dsimp only
  have h1 := linkKept_forAll (fun t (n : DieId) => linkKept_failMct t l n) dieList s
  have h2 := (h1.trans (linkKept_failPieces _ l .sia)).trans (linkKept_failPieces _ l .sib)
  exact (((h2.trans (linkKept_failFlight _ l)).trans (linkKept_failHeld _ l)).trans (linkKept_failCopies _ l)).trans
    (linkKept_setLink _ l false)

/-! Units that are reset. -/

theorem linkKept_closeRun (s : State) (t : FwTarget) : LinkKept s (closeRun s t) := by
  unfold closeRun
  split
  · rfl
  · exact LinkKept.trans (t := modFwl s t (fun f => { f with run := none })) rfl (linkKept_logF _ _)

theorem linkKept_dropFws (s : State) (lo n : Nat) : LinkKept s (dropFws s lo n) :=
  (linkKept_forAll (fun t g => linkKept_closeRun t g) _ s).trans rfl

theorem linkKept_dropLatches (s : State) (mine : PairId → Bool) : LinkKept s (dropLatches s mine) := rfl

theorem linkKept_setEng (s : State) (g : Nat) (e : Engine) : LinkKept s (setEng s g e) := rfl

theorem linkKept_resetDie (s : State) (n : DieId) : LinkKept s (resetDie s n) := by
  have h1 := linkKept_forAll (fun t l => linkKept_dropLink t l) (dieLinks n) s
  have h2 := h1.trans (linkKept_table.modDie _ (predDie n).val (fun d => { d with scfailed := false }))
  unfold resetDie
  generalize modDie (forAll s (dieLinks n) dropLink) (predDie n).val (fun d => { d with scfailed := false }) = u at h2
  dsimp only
  refine h2.trans (.trans ?_ (linkKept_table.modDie _ n fun _ => _))
  refine .trans (.trans ?_ (linkKept_dropFws _ (32 + 15 * n.val) 15)) (linkKept_dropLatches _ fun p => ofDie n p)
  exact (linkKept_forAll (fun t (g : EngId) => linkKept_setEng t g _) _ u).trans (linkKept_table.fresh _)

theorem linkKept_settleFor (s : State) (src : Initiator) (t : FwTarget) : LinkKept s (settleFor s src t) := by
  obtain ⟨l, h⟩ := settleFor_eq s src t
  rw [h]
  rfl

theorem linkKept_fetchDesc {s t : State} {g : EngId} {c : QueueCtx} {ws : List Word} {ok : Bool} (h : fetchDesc s g c = some (ws, ok, t)) :
    LinkKept s t := by
  unfold fetchDesc at h
  split at h
  · cases h
  · dsimp only at h
    split at h
    · simp only [Option.some.injEq, Prod.mk.injEq] at h
      obtain ⟨-, -, rfl⟩ := h
      exact (linkKept_settleFor s _ _).trans (linkKept_table.hbmGet _ _ _ _ _ _)
    · cases h

theorem linkKept_finishRest (g : EngId) (st : Byte) : ∀ (n : Nat) (s : State), LinkKept s (finishRest g st n s)
  | 0, _ => rfl
  | k + 1, s => by
    unfold finishRest
    split
    · rfl
    · dsimp only
      split
      · exact linkKept_table.syncQueue s _
      · split
        · exact linkKept_table.syncQueue s _
        · next hf =>
          have ht := (linkKept_table.syncQueue s (eng s g).bqueue).trans (linkKept_fetchDesc hf)
          refine .trans (.trans (.trans ?_ (linkKept_table.modEng _ g _)) (linkKept_engDone _ g st _ false)) (linkKept_finishRest g st k _)
          exact ht.trans (linkKept_table.setQueue _ _ _)

theorem linkKept_loseWait (s : State) (g : EngId) : LinkKept s (loseWait s g) := by
  unfold loseWait
  split
  · refine .trans ?_ (linkKept_forAll (fun t c => linkKept_table.emit t _) _ _)
    exact (linkKept_engDone ..).trans (linkKept_finishRest ..)
  · rfl

theorem linkKept_recordDie (s : State) (n : DieId) (on : Bool) : LinkKept s (recordDie s n on) :=
  (linkKept_modIsl s .sia fun _ => rfl).trans (linkKept_modIsl _ .sib fun _ => rfl)

theorem linkKept_undoReadmit (s : State) (n : DieId) : LinkKept s (undoReadmit s n) := by
  unfold undoReadmit
  split
  · rfl
  · dsimp only
    split
    · exact LinkKept.trans (linkKept_table.modDie s n _) (linkKept_recordDie _ n true)
    · exact linkKept_table.modDie s n _

end Sys2Proof.Proofs

/-! The IOD core enters its reset (16 R541, Table 16-4). -/

namespace Sys2Proof.Proofs

open Sys2Proof.Machine Sys2Proof.Safety Sys2Proof.Laws

/-! What the fall of links and the end of work leaves of the dies. -/

/-- What only the reset of a die or its loss writes of it. -/
def dieCore (d : Die) : Bool × Bool × Bool × Int × Mem := (d.inReset, d.inService, d.thermal, d.tjLogic, d.pool)

/-- Every die stands in its reset or out of it, and no spine comes up. -/
structure DiesStand (s t : State) : Prop where
  core : ∀ n : Nat, dieCore (die t n) = dieCore (die s n)
  down : ∀ n : Nat, (die s n).spup = false → (die t n).spup = false

theorem DiesStand.refl (s : State) : DiesStand s s := ⟨fun _ => rfl, fun _ h => h⟩

theorem DiesStand.trans {s t u : State} (h : DiesStand s t) (k : DiesStand t u) : DiesStand s u :=
  ⟨fun n => (k.core n).trans (h.core n), fun n hn => k.down n (h.down n hn)⟩

theorem DiesStand.inReset {s t : State} (h : DiesStand s t) (n : Nat) : (die t n).inReset = (die s n).inReset :=
  (congrArg (fun x => x.1) (h.core n) :)

theorem DiesStand.inService {s t : State} (h : DiesStand s t) (n : Nat) : (die t n).inService = (die s n).inService :=
  (congrArg (fun x => x.2.1) (h.core n) :)

theorem DiesStand.thermal {s t : State} (h : DiesStand s t) (n : Nat) : (die t n).thermal = (die s n).thermal :=
  (congrArg (fun x => x.2.2.1) (h.core n) :)

theorem DiesStand.tjLogic {s t : State} (h : DiesStand s t) (n : Nat) : (die t n).tjLogic = (die s n).tjLogic :=
  (congrArg (fun x => x.2.2.2.1) (h.core n) :)

theorem DiesStand.pool {s t : State} (h : DiesStand s t) (n : Nat) : (die t n).pool = (die s n).pool :=
  (congrArg (fun x => x.2.2.2.2) (h.core n) :)

theorem DiesStand.of_dies {s t : State} (h : t.dies = s.dies) : DiesStand s t :=
  ⟨fun n => by rw [die_of_dies h], fun n hn => by rwa [die_of_dies h]⟩

theorem DiesKept.stand {s t : State} (h : DiesKept s t) : DiesStand s t :=
  ⟨fun n => (congrArg dieCore (h.regs n) :), fun n hn => (h.spup n).trans hn⟩

theorem diesStand_forAll {α : Type} {f : State → α → State} (hf : ∀ t x, DiesStand t (f t x)) (l : List α) (s : State) :
    DiesStand s (forAll s l f) :=
  forAll_rel DiesStand .refl .trans hf l s

theorem diesStand_modDie (s : State) (n : Nat) {f : Die → Die} (hc : ∀ d, dieCore (f d) = dieCore d)
    (hd : ∀ d, d.spup = false → (f d).spup = false) : DiesStand s (modDie s n f) := by
  refine ⟨fun m => ?_, fun m hm => ?_⟩ <;> rw [die_modDie] <;> split
  · next h => rw [hc, h]
  · rfl
  · next h => exact hd _ (h ▸ hm)
  · exact hm

theorem diesStand_setLink (s : State) (l : LinkId) : DiesStand s (setLink s l false) := by
  cases l with
  | spine n =>
    refine ⟨fun m => ?_, fun m hm => ?_⟩ <;> rw [die_setLink_spine] <;> split
    · next h => rw [h]; rfl
    · rfl
    · rfl
    · exact hm
  | coupling n =>
    rw [setLink_coupling]
    exact (diesStand_modDie s n (f := startDown (die s n).scup) (fun _ => rfl) fun _ h => h).trans
      (diesStand_modDie _ _ (f := endDown (die s n).scup) (fun _ => rfl) fun _ h => h)
  | island i =>
    refine .of_dies ?_
    unfold setLink
    dsimp only
    split <;> cases i <;> rfl

theorem diesStand_dropLink (s : State) (l : LinkId) : DiesStand s (dropLink s l) := by
  obtain ⟨u, hu, hk, -, -⟩ := dropLink_eq s l
  rw [hu]
  exact hk.stand.trans (diesStand_setLink u l)

theorem dropLink_spine_down (s : State) (n : DieId) : (die (dropLink s (.spine n)) n).spup = false := by
  obtain ⟨u, hu, -, -, -⟩ := dropLink_eq s (.spine n)
  rw [hu, die_setLink_spine, if_pos rfl]

/-- After the spines of a list have gone down, none of them is up. -/
theorem dropSpines_down (l : List DieId) (s : State) :
    ∀ n ∈ l, (die (forAll s l (fun s (n : DieId) => dropLink s (.spine n))) n).spup = false := by
  induction l generalizing s with
  | nil => exact fun _ hn => nomatch hn
  | cons m l ih =>
    intro n hn
    have hs := diesStand_forAll (fun t (m : DieId) => diesStand_dropLink t (.spine m)) l (dropLink s (.spine m))
    rw [forAll_cons]
    rcases List.mem_cons.1 hn with h | h
    · rw [h]
      exact hs.down m (dropLink_spine_down s m)
    · exact ih (dropLink s (.spine m)) n h

theorem diesKept_fetchDesc {s t : State} {g : EngId} {c : QueueCtx} {ws : List Word} {ok : Bool} (h : fetchDesc s g c = some (ws, ok, t)) :
    DiesKept s t := by
  unfold fetchDesc at h
  split at h
  · cases h
  · dsimp only at h
    split at h
    · simp only [Option.some.injEq, Prod.mk.injEq] at h
      obtain ⟨-, -, rfl⟩ := h
      obtain ⟨l, hl⟩ := settleFor_eq s (.engine g) (.die ‹DieId› 14)
      rw [hl]
      exact DiesKept.trans (t := rerouted s l) (.of_dies rfl) (stackOnly_hbmGet _ _ _ _ _ _).toDiesKept
    · cases h

theorem diesKept_finishRest (g : EngId) (st : Byte) : ∀ (n : Nat) (s : State), DiesKept s (finishRest g st n s)
  | 0, s => .refl s
  | k + 1, s => by
    unfold finishRest
    split
    · exact .refl s
    · dsimp only
      split
      · exact (stackOnly_syncQueue s _).toDiesKept
      · split
        · exact (stackOnly_syncQueue s _).toDiesKept
        · next hf =>
          have ht := (stackOnly_syncQueue s (eng s g).bqueue).toDiesKept.trans (diesKept_fetchDesc hf)
          refine .trans (.trans (.trans ?_ (stackOnly_modEng _ g _).toDiesKept) (stackOnly_engDone _ g st _ false).toDiesKept)
            (diesKept_finishRest g st k _)
          exact ht.trans (stackOnly_setQueue _ _ _).toDiesKept

theorem diesKept_loseWait (s : State) (g : EngId) : DiesKept s (loseWait s g) := by
  unfold loseWait
  split
  · refine .trans ?_ (endsKept_forAll (fun t c => endsKept_emit t _) _ _).stackOnly.toDiesKept
    exact (stackOnly_engDone ..).toDiesKept.trans (diesKept_finishRest ..)
  · exact .refl s

theorem diesStand_undoReadmit (s : State) (n : DieId) : DiesStand s (undoReadmit s n) := by
  unfold undoReadmit
  split
  · exact .refl s
  · next dec ret at_ _ =>
    have hm := diesStand_modDie s n (f := fun d => { d with before := none, decision := dec, retired := ret, lossAt := at_ })
      (fun _ => rfl) fun _ h => h
    dsimp only
    split
    · exact hm.trans (.of_dies rfl)
    · exact hm

/-! The reset of the core, in its parts. -/

/-- The core's links are down and the work it held has ended. -/
def coreStopped (s : State) : State :=
  let s := forAll (forAll s dieList (fun s (n : DieId) => dropLink s (.spine n))) engList loseWait
  let s := forAll (dropHeldWrites s (fun _ => true)) (heldWrites s) failHeldWrite
  forAll s dieList undoReadmit

/-- The packets of the management ports whose work the core's reset ends. -/
def coreEnded (s : State) : List Deferred := s.dis.defers.filter (fun d => d.pkt.port != .host && iodWork d.what)

/-- The blocks of the core at their reset values. -/
def coreCleared (s : State) (cause : Nat) : State :=
  { s with
    hpt := { epoch := s.hpt.epoch }
    stg := {}
    tt := { ever := s.tt.ever }
    dis := {
      defers := s.dis.defers.filter (fun d => d.pkt.port != .host && !iodWork d.what)
      shoeStages := s.dis.shoeStages, immShoes := s.dis.immShoes, reexecRun := s.dis.reexecRun
      iodRestarts := s.dis.iodRestarts, timeouts := s.dis.timeouts, timeoutLog := s.dis.timeoutLog }
    qmg := {}
    syn := {}
    kpm := {}
    mpl := {}
    fus := {}
    cvus := []
    flight := []
    engines := s.engines.map (fun e => (e.1, stopEngine e.2))
    latches := s.latches.filter (fun e => match e.1 with
      | .teBusy _ => true
      | .mctErr _ => true
      | .fwlLast (.iod _) => false
      | .fwlLast _ => true
      | _ => false)
    iod := { s.iod with
      inReset := true, ready := false, cause := cause, fwArm := none, spdown := 0, isldown := 0, spretry := []
      tj := if s.iod.thermal then s.iod.tj else 0
      degr := 0, hot95 := 0, aphDown := 0, aphUp := 0, ethDown := 0, ethUp := 0, ethCfg := 0xF, ethCfgSh := 0xF
      pceDrop := false, pceWidth := 0, pceSpeed := 0, pceUp := false } }

/-- What the islands held for the core is gone with it. -/
def urgDropped (s : State) : State := bothIsl (dropFws s 0 24) (fun x => { x with urgReply := [], aliveNext := 0 })

theorem resetIod_eq (s : State) (cause : Nat) : resetIod s cause =
    forAll (urgDropped (coreCleared (coreStopped s) cause)) (coreEnded (coreStopped s)) (fun s d => reply s d.pkt stNotReady [execDetail]) := by
  unfold resetIod
  extract_lets +onlyGivenNames s1 s2 s3 ended kept iod cleared dropped
  have h3 : s3 = coreStopped s := rfl
  have hc : cleared = coreCleared s3 cause := rfl
  have hd : dropped = urgDropped cleared := by
    clear_value cleared
    rfl
  have he : ended = coreEnded s3 := rfl
  rw [hd, hc, he, h3]

theorem linkKept_dropHeldWrites (s : State) (gone : HeldWrite → Bool) : LinkKept s (dropHeldWrites s gone) := rfl

theorem linkKept_coreStopped (s : State) : LinkKept s (coreStopped s) := by
  have h1 := linkKept_forAll (fun t (n : DieId) => linkKept_dropLink t (.spine n)) dieList s
  have h2 := h1.trans (linkKept_forAll linkKept_loseWait engList _)
  unfold coreStopped
  generalize forAll (forAll s dieList fun s (n : DieId) => dropLink s (.spine n)) engList loseWait = u at h2
  exact ((h2.trans (linkKept_dropHeldWrites u _)).trans (linkKept_forAll linkKept_failHeldWrite _ _)).trans
    (linkKept_forAll linkKept_undoReadmit _ _)

theorem diesStand_dropHeldWrites (s : State) (gone : HeldWrite → Bool) : DiesStand s (dropHeldWrites s gone) := .of_dies rfl

theorem diesStand_failHeldWrite (s : State) (w : HeldWrite) : DiesStand s (failHeldWrite s w) := .of_dies (endsKept_failHeldWrite s w).dies

/-- The dies stand, and every spine is down. -/
theorem coreStopped_dies (s : State) : DiesStand s (coreStopped s) ∧ ∀ n : DieId, (die (coreStopped s) n).spup = false := by
  have h1 := diesStand_forAll (fun t (n : DieId) => diesStand_dropLink t (.spine n)) dieList s
  have hd := dropSpines_down dieList s
  have h2 := diesStand_forAll (fun t g => (diesKept_loseWait t g).stand) engList (forAll s dieList fun s (n : DieId) => dropLink s (.spine n))
  unfold coreStopped
  generalize forAll s dieList (fun s (n : DieId) => dropLink s (.spine n)) = u at h1 hd h2
  have h3 := (h2.trans (diesStand_dropHeldWrites _ fun _ => true)).trans
    (diesStand_forAll diesStand_failHeldWrite (heldWrites (forAll u engList loseWait)) _)
  have h4 := h3.trans (diesStand_forAll diesStand_undoReadmit dieList _)
  exact ⟨h1.trans h4, fun n => h4.down n (hd n (List.mem_finRange n))⟩

/-! The runs of refusals that a reset closes leave the host port of a core in reset as it is. -/

theorem hpt_logF_inReset {s : State} (f : Fact) (h : s.iod.inReset = true) : (logF s f).hpt = s.hpt ∧ (logF s f).iod = s.iod := by
  have ha (t : State) (e : Entry) (ht : t.iod.inReset = true) : (addEntry t e).hpt = t.hpt := by
    unfold addEntry
    dsimp only
    rw [if_pos (show (bothIsl t _).iod.inReset = true from ht)]
    rfl
  refine ⟨?_, logF_iod s f⟩
  unfold logF
  dsimp only
  split
  · exact ha (fresh s).2 _ h
  · exact ha s _ h

theorem hpt_dropFws_inReset {s : State} (h : s.iod.inReset = true) (lo n : Nat) : (dropFws s lo n).hpt = s.hpt := by
  refine (forAll_rel (fun s t => s.iod.inReset = true → t.hpt = s.hpt ∧ t.iod.inReset = true) (fun _ h => ⟨rfl, h⟩)
    (fun h k hs => ⟨(k (h hs).2).1.trans (h hs).1, (k (h hs).2).2⟩) (fun t g ht => ?_) _ s h).1
  unfold closeRun
  split
  · exact ⟨rfl, ht⟩
  · next l _ c _ =>
    obtain ⟨h1, h2⟩ := hpt_logF_inReset (s := modFwl t g (fun f => { f with run := none }))
      { cls := 0x10, unit := tgtUnit g, status := stFirewall, livery := l, detail := c } ht
    exact ⟨h1, by rw [h2]; exact ht⟩

theorem behind_dropFws (s : State) (lo n : Nat) : (dropFws s lo n).mpl = s.mpl ∧ (dropFws s lo n).dies = s.dies :=
  ⟨forAll_proj State.mpl (fun t g => (behindKept_closeRun t g).blocks.2.2.2.2.2.2.1) _ s,
    forAll_proj State.dies (fun t g => (behindKept_closeRun t g).blocks.1) _ s⟩

theorem reply_hpt_mgt (s : State) {k : Pkt} (h : k.port ≠ .host) (st : Byte) (data : List Word) : (reply s k st data).hpt = s.hpt := by
  cases hp : k.port with
  | host => exact absurd hp h
  | mgt i =>
    rw [reply_mgt _ _ _ _ i hp]
    cases i <;> rfl

/-- Replies at the management ports leave the host port, the blocks and the islands. -/
theorem mgtReplies_kept {l : List Deferred} (hl : ∀ d ∈ l, d.pkt.port ≠ .host) (s : State) (st : Byte) (data : List Word) :
    (forAll s l (fun s d => reply s d.pkt st data)).hpt = s.hpt ∧
    offPorts (forAll s l (fun s d => reply s d.pkt st data)) = offPorts s ∧ (forAll s l (fun s d => reply s d.pkt st data)).dis = s.dis := by
  refine ⟨?_, forAll_proj offPorts (fun t (d : Deferred) => offPorts_reply t d.pkt st data) l s,
    forAll_proj State.dis (fun t (d : Deferred) => reply_dis t d.pkt st data) l s⟩
  induction l generalizing s with
  | nil => rfl
  | cons d l ih =>
    exact (ih (fun x hx => hl x (List.mem_cons_of_mem _ hx)) _).trans (reply_hpt_mgt s (hl d List.mem_cons_self) st data)

theorem urgDropped_blocks (s : State) : (urgDropped s).mpl = s.mpl ∧ (urgDropped s).dies = s.dies := behind_dropFws s 0 24

theorem urgDropped_reads {s : State} (h : s.iod.inReset = true) : (urgDropped s).hpt = s.hpt ∧ (urgDropped s).stg = s.stg ∧
    (urgDropped s).tt = s.tt ∧ offDis (urgDropped s).dis = offDis s.dis ∧ (urgDropped s).edgeA = s.edgeA ∧ (urgDropped s).edgeB = s.edgeB ∧
    (urgDropped s).clk = s.clk ∧ { (urgDropped s).iod with spdown := 0, isldown := 0, altRoute := [] } =
      { s.iod with spdown := 0, isldown := 0, altRoute := [] } := by
  have hk := linkKept_dropFws s 0 24
  exact ⟨hpt_dropFws_inReset h 0 24, (congrArg State.stg hk :), (congrArg State.tt hk :), (congrArg State.dis hk :),
    (congrArg State.edgeA hk :), (congrArg State.edgeB hk :), (congrArg State.clk hk :), (congrArg State.iod hk :)⟩

/-- What the reset of the IOD core leaves: its blocks at their reset values, and the dies and ring edges as they stand. -/
structure CoreReset (s t : State) (cause : Nat) : Prop where
  iod   : ∃ v : Iod, t.iod = { v with spdown := t.iod.spdown, isldown := t.iod.isldown, altRoute := t.iod.altRoute } ∧
    v.inReset = true ∧ v.ready = false ∧ v.cause = cause ∧ v.porst = s.iod.porst ∧ v.thermal = s.iod.thermal ∧ v.sudden = s.iod.sudden ∧
    v.fw = s.iod.fw ∧ v.tj = (if s.iod.thermal then s.iod.tj else 0)
  hpt   : t.hpt = { epoch := s.hpt.epoch }
  stg   : t.stg = {}
  tt    : t.tt = { ever := s.tt.ever }
  mpl   : t.mpl = {}
  dis   : t.dis.iodRestarts = s.dis.iodRestarts
  clk   : t.clk = s.clk
  edgeA : t.edgeA = s.edgeA
  edgeB : t.edgeB = s.edgeB
  dies  : DiesStand s t
  down  : ∀ n : DieId, (die t n).spup = false

theorem resetIod_resets (s : State) (cause : Nat) : CoreReset s (resetIod s cause) cause := by
  have hk := linkKept_coreStopped s
  obtain ⟨hd, hs⟩ := coreStopped_dies s
  rw [resetIod_eq]
  generalize coreStopped s = u at hk hd hs
  have hmgt : ∀ d ∈ coreEnded u, d.pkt.port ≠ .host := fun d hd => by
    have := (List.mem_filter.1 hd).2
    simp only [Bool.and_eq_true, bne_iff_ne] at this
    exact this.1
  obtain ⟨h1, h2, h3, h4, h5, h6, h7, h8⟩ := urgDropped_reads (s := coreCleared u cause) rfl
  obtain ⟨hm, hdie⟩ := urgDropped_blocks (coreCleared u cause)
  obtain ⟨r1, r2, r3⟩ := mgtReplies_kept hmgt (urgDropped (coreCleared u cause)) stNotReady [execDetail]
  generalize forAll (urgDropped (coreCleared u cause)) (coreEnded u) (fun s d => reply s d.pkt stNotReady [execDetail]) = t at r1 r2 r3
  generalize urgDropped (coreCleared u cause) = w at h1 h2 h3 h4 h5 h6 h7 h8 hm hdie r1 r2 r3
  have hdies : t.dies = u.dies := ((congrArg State.dies r2 :) : t.dies = w.dies).trans hdie
  have hiod : t.iod = w.iod := (congrArg State.iod r2 :)
  have hst : DiesStand s t := hd.trans (.of_dies hdies)
  have hu : ∀ {β : Type} (g : State → β), g (offLink u) = g (offLink s) := fun g => congrArg g hk
  refine {
    iod := ⟨(coreCleared u cause).iod, ?_, rfl, rfl, rfl, hu (·.iod.porst), hu (·.iod.thermal), hu (·.iod.sudden), hu (·.iod.fw), ?_⟩
    hpt := (r1.trans h1).trans (congrArg (fun e => ({ epoch := e } : Hpt)) (hu (·.hpt.epoch)))
    stg := (congrArg State.stg r2 :).trans h2
    tt := ((congrArg State.tt r2 :).trans h3).trans (congrArg (fun e => ({ ever := e } : Tt)) (hu (·.tt.ever)))
    mpl := (congrArg State.mpl r2 :).trans hm
    dis := ((congrArg Dis.iodRestarts r3).trans (congrArg Dis.iodRestarts h4 :)).trans (hu (·.dis.iodRestarts))
    clk := ((congrArg State.clk r2 :).trans h7).trans (hu State.clk)
    edgeA := ((congrArg State.edgeA r2 :).trans h5).trans (hu State.edgeA)
    edgeB := ((congrArg State.edgeB r2 :).trans h6).trans (hu State.edgeB)
    dies := hst
    down := fun n => by rw [die_of_dies hdies]; exact hs n }
  · rw [hiod]
    exact (congrArg (fun v : Iod => { v with spdown := w.iod.spdown, isldown := w.iod.isldown, altRoute := w.iod.altRoute }) h8 :)
  · show (if u.iod.thermal then u.iod.tj else 0) = _
    have ht : u.iod.thermal = s.iod.thermal := hu (·.iod.thermal)
    have hj : u.iod.tj = s.iod.tj := hu (·.iod.tj)
    rw [ht, hj]

theorem CoreReset.inReset {s t : State} {cause : Nat} (h : CoreReset s t cause) : t.iod.inReset = true ∧ t.iod.cause = cause := by
  obtain ⟨v, hv, h1, -, h2, -⟩ := h.iod
  rw [hv]
  exact ⟨h1, h2⟩

/-! A die's reset beside the other dies. -/

/-- The reset of a die leaves the others in their reset or out of it. -/
theorem resetDie_others (s : State) (n : DieId) {m : Nat} (h : m ≠ n) : dieCore (die (resetDie s n) m) = dieCore (die s m) := by
  have h1 := diesStand_forAll (fun t l => diesStand_dropLink t l) (dieLinks n) s
  have h2 := h1.trans (diesStand_modDie _ (predDie n).val (f := fun d => { d with scfailed := false }) (fun _ => rfl) fun _ h => h)
  unfold resetDie
  generalize modDie (forAll s (dieLinks n) dropLink) (predDie n).val (fun d => { d with scfailed := false }) = u at h2
  dsimp only
  rw [die_setDie_ne _ _ h]
  refine Eq.trans (congrArg dieCore (die_of_dies ?_ m)) (h2.core m)
  refine (behind_dropFws _ (32 + 15 * n.val) 15).2.trans ?_
  exact forAll_proj State.dies (f := fun s (g : EngId) => setEng s g _) (fun _ _ => rfl) _ u

theorem padDie_self (s : State) (n : DieId) : (die (padDie s n) n).inReset = true := by
  rw [padDie]
  dsimp only
  rw [die_modDie_self]

/-- A die whose supply pad falls is in reset, and a die in reset stays there. -/
theorem padDie_inReset (s : State) (n : DieId) {m : Nat} (h : (die s m).inReset = true) : (die (padDie s n) m).inReset = true := by
  by_cases hm : m = n
  · rw [hm]
    exact padDie_self s n
  · rw [padDie]
    dsimp only
    rw [die_modDie_ne _ _ hm]
    exact (congrArg (fun x => x.1) (resetDie_others s n hm) :).trans h

theorem padDies_inReset (l : List DieId) (s : State) : ∀ n ∈ l, (die (forAll s l padDie) n).inReset = true := by
  induction l generalizing s with
  | nil => exact fun _ hn => nomatch hn
  | cons m l ih =>
    intro n hn
    rw [forAll_cons]
    rcases List.mem_cons.1 hn with h | h
    · rw [h]
      exact forAll_keeps (fun t => (die t m).inReset = true) padDie (fun t x ht => padDie_inReset t x ht) l _ (padDie_self s m)
    · exact ih (padDie s m) n h

theorem diesStand_clearDown (s : State) (n : DieId) : DiesStand s (clearDown s n) := diesStand_modDie s n (fun _ => rfl) fun _ h => h

theorem linkKept_clearDown (s : State) (n : DieId) : LinkKept s (clearDown s n) := rfl

end Sys2Proof.Proofs

/-! The power pads and the resets of the IOD core (16 R541-R544, R568, Table 16-4). -/

namespace Sys2Proof.Proofs

open Sys2Proof.Machine Sys2Proof.Safety Sys2Proof.Laws

/-- POWER_GOOD is the rise of PORST_N, at which the straps are sampled. -/
theorem powerGood_samples {s : State} (ref hptv pce : Bool) (h : s.iod.porst = false) : exec (.powerGood ref hptv pce) s =
    .next { s with iod := { s.iod with
      porst := true, cause := 0, straps := BitVec.ofNat 4 (flagAt pce 2 + flagAt hptv 1 + flagAt ref 0) } } := by
  show execPowerGood ref hptv pce s = _
  simp [execPowerGood, h]

/-- The device with every die and the IOD core in reset, its spines cleared of what they counted. -/
def allReset (s : State) : State :=
  forAll (resetIod (forAll (forAll s dieList (fun s n => forAll s (dieLinks n) dropLink)) dieList padDie) 0) dieList clearDown

/-- What PORST_N resets beside them. -/
def padsLow (s : State) : State :=
  { s with hpt := {}, tt := {}, clk := { xready := s.clk.xready }, iod := { s.iod with porst := false, testMode := false } }

theorem porstAssert_eq (s : State) :
    execPorstAssert s = .next (padsLow (bothEdge (allReset s) (fun e => { e with held := false }))) := by
  unfold execPorstAssert allReset padsLow
  rfl

theorem clearedDown_kept (l : List DieId) (u : State) : LinkKept u (forAll u l clearDown) ∧ DiesStand u (forAll u l clearDown) :=
  ⟨linkKept_forAll linkKept_clearDown l u, diesStand_forAll diesStand_clearDown l u⟩

theorem LinkKept.iod_inReset {s t : State} (h : LinkKept s t) : t.iod.inReset = s.iod.inReset := (congrArg (fun v : State => v.iod.inReset) h :)

theorem LinkKept.stg {s t : State} (h : LinkKept s t) : t.stg = s.stg := (congrArg State.stg h :)

theorem allReset_resets (s : State) : (allReset s).iod.inReset = true ∧ (allReset s).stg = {} ∧
    ∀ n : DieId, (die (allReset s) n).inReset = true := by
  obtain ⟨w, hw⟩ : ∃ w, forAll (forAll s dieList (fun s n => forAll s (dieLinks n) dropLink)) dieList padDie = w := ⟨_, rfl⟩
  have hp : ∀ n : DieId, (die w n).inReset = true := fun n => by
    rw [← hw]
    exact padDies_inReset dieList _ n (List.mem_finRange n)
  have hr := resetIod_resets w 0
  obtain ⟨hk, hd⟩ := clearedDown_kept dieList (resetIod w 0)
  have hv : allReset s = forAll (resetIod w 0) dieList clearDown := by rw [allReset, hw]
  rw [hv]
  exact ⟨hk.iod_inReset.trans hr.inReset.1, hk.stg.trans hr.stg,
    fun n => ((hd.inReset n).trans (hr.dies.inReset n)).trans (hp n)⟩

/-- The state in which the pads have fallen on a device in reset. -/
def padsFallen (u : State) : State := padsLow (bothEdge u (fun e => { e with held := false }))

theorem padsFallen_reads {u : State} (h1 : u.iod.inReset = true) (h2 : u.stg = {}) (h3 : ∀ n : DieId, (die u n).inReset = true) :
    (padsFallen u).iod.inReset = true ∧ (padsFallen u).iod.porst = false ∧ (padsFallen u).iod.testMode = false ∧ (padsFallen u).hpt = {} ∧
    (padsFallen u).tt = {} ∧ (padsFallen u).stg = {} ∧ (∀ e, (edge (padsFallen u) e).held = false) ∧
    ∀ n : DieId, (die (padsFallen u) n).inReset = true :=
  ⟨h1, rfl, rfl, rfl, rfl, h2, fun e => by cases e <;> rfl, h3⟩

theorem porstAssert_next (s : State) : exec .porstAssert s = .next (padsFallen (allReset s)) := porstAssert_eq s

theorem porstAssert_resets (s : State) : ∃ t, exec .porstAssert s = .next t ∧ t.iod.inReset = true ∧ t.iod.porst = false ∧
    t.iod.testMode = false ∧ t.hpt = {} ∧ t.tt = {} ∧ t.stg = {} ∧ (∀ e, (edge t e).held = false) ∧
    ∀ n : DieId, (die t n).inReset = true := by
  obtain ⟨h1, h2, h3⟩ := allReset_resets s
  exact ⟨padsFallen (allReset s), porstAssert_next s, padsFallen_reads h1 h2 h3⟩

theorem iodCoreReset_restarts {s : State} (h : s.iod.inReset = false) (ha : anyIsl s = true) :
    exec .iodCoreReset s = .next (resetIod (setDis s (fun d => { d with iodRestarts := satAdd 65535 d.iodRestarts 1 })) 1) := by
  show execIodCoreReset s = _
  simp [execIodCoreReset, h, ha, restartIod]

/-! The IOD core leaves its reset (R568). -/

/-- An island after it has noted that a slot of the IOD's firmware does not verify. -/
structure SlotNoted (s t : State) : Prop where
  flash   : ∀ i, (isl t i).flash = (isl s i).flash
  iod     : t.iod = s.iod
  dies    : t.dies = s.dies
  engines : t.engines = s.engines
  clk     : t.clk = s.clk
  qmg     : t.qmg = s.qmg
  syn     : t.syn = s.syn
  edgeA   : t.edgeA = s.edgeA
  edgeB   : t.edgeB = s.edgeB

theorem SlotNoted.refl (s : State) : SlotNoted s s := ⟨fun _ => rfl, rfl, rfl, rfl, rfl, rfl, rfl, rfl, rfl⟩

/-- An island that an IOD slot has failed is marked so, when it is in service. -/
def fwMarked (x : Island) : Island := if inSvc x then { x with fwfail := true } else x

theorem fwMarked_flash (x : Island) : (fwMarked x).flash = x.flash := by
  unfold fwMarked
  split <;> rfl

theorem slotNoted_once (s : State) (f : Fact) : SlotNoted s (logF (bothIsl s fwMarked) f) := by
  have hb (i : Isl) : (isl (bothIsl s fwMarked) i).flash = (isl s i).flash := by
    cases i <;> exact fwMarked_flash _
  exact ⟨fun i => (logF_ram_flash _ f i).2.trans (hb i), logF_iod .., logF_dies .., logF_engines .., logF_clk .., logF_qmg .., logF_syn ..,
    logF_edgeA .., logF_edgeB ..⟩

theorem startIod_starts {s t : State} {i : Isl} {sl : Bool} (h : SlotNoted s t) :
    (startIod t i sl).iod = { s.iod with
      inReset := false, running := true, serial := recordSerial (isl s i)
      verIod := imageWord (isl s i) (iodSlot sl) 8, fw := bootFrom s.iod.fw sl } ∧
    (s.iod.cause = 0 → ∀ e, (edge (startIod t i sl) e).inReset = false) ∧
    (s.iod.cause ≠ 0 → (startIod t i sl).edgeA = s.edgeA ∧ (startIod t i sl).edgeB = s.edgeB) ∧
    (startIod t i sl).dies = s.dies ∧ (startIod t i sl).engines = s.engines ∧
    (startIod t i sl).sia = t.sia ∧ (startIod t i sl).sib = t.sib := by
  have hr : recordSerial (isl t i) = recordSerial (isl s i) := by simp only [recordSerial, h.flash]
  have hw : imageWord (isl t i) (iodSlot sl) 8 = imageWord (isl s i) (iodSlot sl) 8 := by simp only [imageWord, h.flash]
  unfold startIod
  dsimp only
  rw [hr, hw, h.iod]
  split
  · next hc =>
    exact ⟨rfl, fun _ e => by cases e <;> rfl, fun hn => absurd hc hn, h.dies, h.engines, rfl, rfl⟩
  · next hc => exact ⟨rfl, fun h0 => absurd h0 hc, fun _ => ⟨h.edgeA, h.edgeB⟩, h.dies, h.engines, rfl, rfl⟩

/-- The core starts from the recorded slot where that verifies, and else from the other one, the islands told of it. -/
theorem iodResetRelease_starts {s : State} {i : Isl} {sl : Bool} (hr : s.iod.inReset = true) (hp : s.iod.porst = true)
    (hs : s.iod.sudden = false) (ht : s.iod.thermal = false) (hl : loadIsl s = some i) (ho : iodSlotOk s i sl = true)
    (hsl : sl = s.iod.fw.recB ∨ iodSlotOk s i s.iod.fw.recB = false) :
    ∃ u, exec (.iodResetRelease sl) s = .next (startIod u i sl) ∧ SlotNoted s u ∧ (sl = s.iod.fw.recB → u = s) := by
  have hx : ∃ n, pickSlot (iodSlotOk s i) s.iod.fw.recB = (some sl, n) ∧ n ≤ 1 ∧ (sl = s.iod.fw.recB → n = 0) := by
    unfold pickSlot
    by_cases hb : sl = s.iod.fw.recB
    · rw [← hb, if_pos ho]
      exact ⟨0, rfl, by omega, fun _ => rfl⟩
    · have hf := hsl.resolve_left hb
      have hn : (!s.iod.fw.recB) = sl := by
        revert hb
        cases sl <;> cases s.iod.fw.recB <;> decide
      rw [hf, if_neg Bool.false_ne_true, hn, if_pos ho]
      exact ⟨1, rfl, by omega, fun h => absurd h hb⟩
  obtain ⟨n, hx, hn, h0⟩ := hx
  refine ⟨noteSlots s (fun s => logF (bothIsl s fwMarked) { cls := 0x0B, unit := unitIod }) n, ?_, ?_, fun h => ?_⟩
  · show execIodResetRelease sl s = _
    unfold execIodResetRelease
    simp only [hr, hp, hs, ht, Bool.not_true, Bool.or_self, Bool.false_eq_true, if_false, hl, hx, Option.elim_some, bne_self_eq_false]
    rfl
  · rcases Nat.le_one_iff_eq_zero_or_eq_one.1 hn with rfl | rfl
    · exact .refl s
    · exact slotNoted_once s _
  · rw [h0 h]
    rfl

/-- Settles O6: the pads and the core's reset from their own lemmas, its start from the slot that the islands verify. -/
theorem padsAndIodCore : Obligations.PadsAndIodCore := by
  refine ⟨fun _ ref hptv pce h => powerGood_samples ref hptv pce h, porstAssert_resets,
    fun s i sl hr hp hs ht hl ho hsl => ?_, fun s h ha => ?_⟩
  · obtain ⟨u, hx, hn, he⟩ := iodResetRelease_starts hr hp hs ht hl ho hsl
    obtain ⟨h1, h2, h3, h4, h5, h6, h7⟩ := startIod_starts (i := i) (sl := sl) hn
    exact ⟨_, hx, h1, h2, h3, h4, h5, fun hb => ⟨h6.trans (by rw [he hb]), h7.trans (by rw [he hb])⟩⟩
  · have hr := resetIod_resets (setDis s (fun d => { d with iodRestarts := satAdd 65535 d.iodRestarts 1 })) 1
    exact ⟨_, iodCoreReset_restarts h ha, hr.inReset.1, hr.inReset.2, hr.hpt, hr.tt, hr.mpl, hr.dis, hr.edgeA, hr.edgeB,
      fun n => ⟨hr.down n, hr.dies.inReset n, hr.dies.inService n, hr.dies.pool n⟩⟩

end Sys2Proof.Proofs

/-! An island enters its reset, and leaves it (13 Table 13-1, R462-R464; 16 R541-R543, R568). -/

namespace Sys2Proof.Proofs

open Sys2Proof.Machine Sys2Proof.Safety Sys2Proof.Laws

/-! An island's link goes down. -/

/-- A die goes on in its service and its stack stands. -/
structure StacksStand (s t : State) : Prop where
  hbm       : ∀ n : Nat, (die t n).hbm = (die s n).hbm
  inService : ∀ n : Nat, (die t n).inService = (die s n).inService

theorem StacksStand.refl (s : State) : StacksStand s s := ⟨fun _ => rfl, fun _ => rfl⟩

theorem StacksStand.trans {s t u : State} (h : StacksStand s t) (k : StacksStand t u) : StacksStand s u :=
  ⟨fun n => (k.hbm n).trans (h.hbm n), fun n => (k.inService n).trans (h.inService n)⟩

theorem StacksStand.of_dies {s t : State} (h : t.dies = s.dies) : StacksStand s t := by
  constructor <;> intro n <;> rw [die_of_dies h]

theorem stacksStand_failMct (s : State) (l : LinkId) (n : DieId) : StacksStand s (failMct s l n) :=
  ⟨failMct_hbm s l n, (stackOnly_failMct s l n).toDiesKept.inService⟩

/-- No copy between stacks is on an island's link. -/
theorem copyLinks_island (c : MemCopy) (i : Isl) : (copyLinks c).contains (.island i) = false := by
  simp [copyLinks]

theorem failCopies_island (s : State) (i : Isl) : failCopies s (.island i) = noteEnded s [] := by
  have h : s.dis.copies.filter (fun c => (copyLinks c).contains (.island i)) = [] := by
    simp only [copyLinks_island, List.filter_false]
  simp only [failCopies, h]
  rfl

theorem stacksStand_dropIsland (s : State) (i : Isl) : StacksStand s (dropLink s (.island i)) := by
  have h1 : StacksStand s (forAll s dieList (fun s n => failMct s (.island i) n)) :=
    forAll_rel StacksStand .refl .trans (fun t (n : DieId) => stacksStand_failMct t (.island i) n) dieList s
  unfold dropLink
  dsimp only
  generalize forAll s dieList (fun s n => failMct s (.island i) n) = t at h1
  have h2 := (((endsKept_failPieces t (.island i) .sia).trans (endsKept_failPieces _ (.island i) .sib)).trans
    (endsKept_failFlight _ (.island i))).trans (endsKept_failHeld _ (.island i))
  generalize failHeld (failFlight (failPieces (failPieces t (.island i) .sia) (.island i) .sib) (.island i)) (.island i) = u at h2
  rw [failCopies_island]
  have h3 : (setLink (noteEnded u []) (.island i) false).dies = u.dies := by
    unfold setLink
    dsimp only
    split <;> cases i <;> rfl
  exact h1.trans (.of_dies (h3.trans h2.dies))

/-! The reset. -/

/-- An entry leaves an island that is not in service as it is. -/
theorem isl_logF_idle {s : State} {i : Isl} (h : inSvc (isl s i) = false) (f : Fact) : isl (logF s f) i = isl s i := by
  obtain ⟨e, he, -⟩ := isl_logF_entry s f i
  rw [he, islTake, if_neg (by simp [h])]

theorem isl_closeRun_idle {s : State} {i : Isl} (h : inSvc (isl s i) = false) (t : FwTarget) : isl (closeRun s t) i = isl s i := by
  unfold closeRun
  split
  · rfl
  · have hi : isl (modFwl s t (fun f => { f with run := none })) i = isl s i := by cases i <;> rfl
    rw [isl_logF_idle (by rw [hi, h]), hi]

theorem isl_dropFws_idle {s : State} {i : Isl} (h : inSvc (isl s i) = false) (lo n : Nat) : isl (dropFws s lo n) i = isl s i := by
  have hr := forAll_rel (fun s t => inSvc (isl s i) = false → isl t i = isl s i) (fun _ _ => rfl)
    (fun h k hs => (k (by rw [h hs]; exact hs)).trans (h hs)) (fun t g ht => isl_closeRun_idle ht g)
    (allTargets.filter (fun t => (lo ≤ fwNum t && fwNum t < lo + n) && (fwl s t).run.isSome)) s h
  rw [← hr]
  cases i <;> rfl

theorem mgt_closeRun (s : State) (t : FwTarget) (i : Isl) : mgt (closeRun s t) i = mgt s i := by
  unfold closeRun
  split
  · rfl
  · cases i
    · exact logF_mgtA ..
    · exact logF_mgtB ..

theorem mgt_dropFws (s : State) (lo n : Nat) (i : Isl) : mgt (dropFws s lo n) i = mgt s i := by
  rw [← forAll_proj (fun s => mgt s i) (fun t g => mgt_closeRun t g i)
    (allTargets.filter (fun t => (lo ≤ fwNum t && fwNum t < lo + n) && (fwl s t).run.isSome)) s]
  cases i <;> rfl

/-- The island's registers, its RAM and its port at their reset values, its link down. -/
def islCleared (s : State) (i : Isl) : State :=
  setDis (modMgt (setIsl (fresh s).2 i (keptIsl (isl (fresh s).2 i) s.free)) i (fun m => { up := m.up }))
    (fun d => { d with defers := d.defers.filter (fun q => q.pkt.port != .mgt i) })

/-- What stands for the island outside it. -/
def islForgotten (s : State) (i : Isl) : State :=
  setMpl (dropLatches (dropFws s (fwNum (.island i 0)) 9) (fun p => match p with | .fwlLast (.island j _) => j == i | _ => false))
    (fun m => setUrgAlive m i 0)

theorem resetIsl_eq (s : State) (i : Isl) : resetIsl s i = islForgotten (islCleared (dropLink s (.island i)) i) i := by
  unfold resetIsl islForgotten islCleared
  dsimp only <;> rfl

theorem isl_islCleared (s : State) (i : Isl) : isl (islCleared s i) i = keptIsl (isl s i) s.free ∧
    isl (islCleared s i) (otherIsl i) = isl s (otherIsl i) := by
  cases i <;> exact ⟨rfl, rfl⟩

theorem islForgotten_reads (s : State) (i : Isl) : (inSvc (isl s i) = false → isl (islForgotten s i) i = isl s i) ∧
    (∀ j, offIsl (isl (islForgotten s i) j) = offIsl (isl s j)) ∧ (∀ j, mgt (islForgotten s i) j = mgt s j) ∧
    (islForgotten s i).dies = s.dies := by
  have hk := linkKept_dropFws s (fwNum (.island i 0)) 9
  have hi (u : State) (p : PairId → Bool) (j : Isl) : isl (setMpl (dropLatches u p) (fun m => setUrgAlive m i 0)) j = isl u j := by
    cases j <;> rfl
  refine ⟨fun h => (hi _ _ i).trans (isl_dropFws_idle h _ _), fun j => ?_, fun j => ?_, (behind_dropFws s _ 9).2⟩
  · refine (congrArg offIsl (hi _ _ j)).trans ?_
    cases j
    · exact (congrArg State.sia hk :)
    · exact (congrArg State.sib hk :)
  · refine Eq.trans ?_ (mgt_dropFws s (fwNum (.island i 0)) 9 j)
    cases j <;> rfl

/-- What the reset of island `i` leaves. -/
structure IslReset (i : Isl) (s t : State) : Prop where
  own   : ∃ x n, isl t i = keptIsl x n ∧ offIsl x = offIsl (isl s i)
  other : offIsl (isl t (otherIsl i)) = offIsl (isl s (otherIsl i))
  port  : ∃ b, mgt t i = { up := b }
  dies  : StacksStand s t
  iod   : { t.iod with spdown := 0, isldown := 0, altRoute := [] } = { s.iod with spdown := 0, isldown := 0, altRoute := [] }

theorem resetIsl_resets (s : State) (i : Isl) : IslReset i s (resetIsl s i) := by
  have hd := stacksStand_dropIsland s i
  have hk := linkKept_dropLink s (.island i)
  rw [resetIsl_eq]
  generalize dropLink s (.island i) = u at hd hk
  obtain ⟨h1, h2⟩ := isl_islCleared u i
  obtain ⟨k1, k2, k3, k4⟩ := islForgotten_reads (islCleared u i) i
  have hu (j : Isl) : offIsl (isl u j) = offIsl (isl s j) := by
    cases j
    · exact (congrArg State.sia hk :)
    · exact (congrArg State.sib hk :)
  have hc : (islCleared u i).dies = u.dies := by cases i <;> rfl
  have hw := linkKept_dropFws (islCleared u i) (fwNum (.island i 0)) 9
  refine ⟨⟨isl u i, u.free, ?_, hu i⟩, ?_, ⟨(mgt u i).up, ?_⟩, hd.trans (.of_dies (k4.trans hc)), ?_⟩
  · rw [k1 (by rw [h1]; rfl), h1]
  · rw [k2, h2, hu]
  · rw [k3]
    cases i <;> rfl
  · have h3 := (congrArg State.iod hw :)
    have h4 := (congrArg State.iod hk :)
    refine Eq.trans h3 (Eq.trans ?_ h4)
    cases i <;> rfl

theorem IslReset.off {i : Isl} {s t : State} (h : IslReset i s t) : (isl t i).inReset = true ∧ (isl t i).st = 0 ∧
    (isl t i).linkUp = false ∧ (isl t i).flog = [] ∧ (isl t i).flash = (isl s i).flash ∧ (isl t i).fw = (isl s i).fw := by
  obtain ⟨x, n, hx, hk⟩ := h.own
  rw [hx]
  exact ⟨rfl, rfl, rfl, rfl, (congrArg Island.flash hk :), (congrArg Island.fw hk :)⟩

theorem IslReset.otherSt {i : Isl} {s t : State} (h : IslReset i s t) : (isl t (otherIsl i)).st = (isl s (otherIsl i)).st :=
  (congrArg Island.st h.other :)

theorem inSvc_of_st {x y : Island} (h : x.st = y.st) : inSvc x = inSvc y := by rw [inSvc, h, inSvc]

/-! The pads of the islands, and the island that becomes ACTIVE or SOLE. -/

theorem otherIsl_otherIsl (i : Isl) : otherIsl (otherIsl i) = i := by cases i <;> rfl

theorem isl_modIsl_of_other (s : State) (i : Isl) (f : Island → Island) : isl (modIsl s (otherIsl i) f) i = isl s i := by
  cases i <;> rfl

theorem mgt_modIsl (s : State) (i j : Isl) (f : Island → Island) : mgt (modIsl s i f) j = mgt s j := by cases i <;> cases j <;> rfl

theorem dies_modIsl (s : State) (i : Isl) (f : Island → Island) : (modIsl s i f).dies = s.dies := by cases i <;> rfl

theorem islandResetAssert_resets {s : State} {i : Isl} (h : (isl s i).inReset = false) : ∃ t, exec (.islandResetAssert i) s = .next t ∧
    (isl t i).inReset = true ∧ (isl t i).st = 0 ∧ (isl t i).linkUp = false ∧ (isl t i).flog = [] ∧
    (isl t i).flash = (isl s i).flash ∧ (mgt t i).wait = [] ∧ (mgt t i).requester = none ∧
    (∀ n : DieId, (die t n).hbm = (die s n).hbm ∧ (die t n).inService = (die s n).inService) ∧
    (inSvc (isl s (otherIsl i)) = true → (isl t (otherIsl i)).st = 3) := by
  have hr := resetIsl_resets s i
  have hx : exec (.islandResetAssert i) s =
      .next (modIsl (modIsl (resetIsl s i) (otherIsl i) (fun x => withOther x 0)) i (fun x => { x with padLow := true })) := by
    show execIslandResetAssert i s = _
    simp [execIslandResetAssert, h]
  generalize resetIsl s i = u at hr hx
  obtain ⟨h1, h2, h3, h4, h5, -⟩ := hr.off
  obtain ⟨b, hb⟩ := hr.port
  have ht : isl (modIsl (modIsl u (otherIsl i) (fun x => withOther x 0)) i (fun x => { x with padLow := true })) i =
      { isl u i with padLow := true } := by rw [isl_modIsl_self, isl_modIsl_of_other]
  have hm : mgt (modIsl (modIsl u (otherIsl i) (fun x => withOther x 0)) i (fun x => { x with padLow := true })) i = { up := b } := by
    rw [mgt_modIsl, mgt_modIsl, hb]
  refine ⟨_, hx, ?_⟩
  rw [ht, hm]
  refine ⟨h1, h2, h3, h4, h5, rfl, rfl, fun n => ?_, fun ho => ?_⟩
  · rw [die_of_dies ((dies_modIsl _ i _).trans (dies_modIsl u (otherIsl i) _))]
    exact ⟨hr.dies.hbm n, hr.dies.inService n⟩
  · rw [isl_modIsl_other, isl_modIsl_self, withOther, if_pos ((inSvc_of_st hr.otherSt).trans ho)]
    rfl

theorem isl_completeDefers (s : State) (k : DefKind) (st : Byte) (data : List Word) (i : Isl) :
    isl (completeDefers s k st data) i = isl s i := by
  have h := offPorts_completeDefers s k st data
  cases i
  · exact (congrArg State.sia h :)
  · exact (congrArg State.sib h :)

/-- An island whose firmware runs is ACTIVE beside one in service, and SOLE without it. -/
theorem islandActive_joins {s : State} {i : Isl} (h : (isl s i).inReset = false) (hb : (isl s i).boots = true) (h1 : (isl s i).st = 1) :
    ∃ t, exec (.islandActive i) s = .next t ∧ (isl t i).st = (if inSvc (isl s (otherIsl i)) then 2 else 3) ∧
      isl t (otherIsl i) = isl s (otherIsl i) ∧ t.dies = s.dies ∧ t.stg = s.stg := by
  obtain ⟨v, hv⟩ : ∃ v, v = modIsl s i (fun x => { x with
      st := if inSvc (isl s (otherIsl i)) then 2 else 3, rep := if x.rep.stage = 0 then repNow s else x.rep }) := ⟨_, rfl⟩
  obtain ⟨u, hu⟩ : ∃ u, u = dropOwn (completeDefers v (.rstIsl i) stOk []) i (.fwIsl i) := ⟨_, rfl⟩
  have hisl (j : Isl) : isl u j = isl v j := by
    rw [hu, ← isl_completeDefers v (.rstIsl i) stOk [] j]
    cases j <;> rfl
  have hd : u.dies = s.dies := by
    rw [hu]
    refine (signalKept_completeDefers v (.rstIsl i) stOk []).dies.trans ?_
    rw [hv, dies_modIsl]
  have hs : u.stg = s.stg := by
    rw [hu]
    refine (signalKept_completeDefers v (.rstIsl i) stOk []).stg.trans ?_
    rw [hv]
    exact modIsl_stg s i _
  have hx : ∃ st d, exec (.islandActive i) s = .next (completeDefers u (.fwIsl i) st d) := by
    have he : exec (.islandActive i) s = .next (if (isl s i).fw.trial.isSome then completeDefers u (.fwIsl i) stOk []
        else completeDefers u (.fwIsl i) stBadCheck [execDetail]) := by
      show execIslandActive i s = _
      unfold execIslandActive
      simp only [h, hb, h1, Bool.not_true, Bool.or_self, ne_eq, not_true, decide_false, Bool.false_eq_true, if_false, hu, hv]
    rw [he]
    split
    · exact ⟨_, _, rfl⟩
    · exact ⟨_, _, rfl⟩
  obtain ⟨st, d, hx⟩ := hx
  have hk := signalKept_completeDefers u (.fwIsl i) st d
  refine ⟨_, hx, ?_, ?_, hk.dies.trans hd, hk.stg.trans hs⟩
  · rw [isl_completeDefers, hisl, hv, isl_modIsl_self]
  · rw [isl_completeDefers, hisl, hv, isl_modIsl_other]

/-! An island leaves its reset (R568). -/

/-- An island whose reset pad has risen, beside the other one. -/
def padRisen (mgtm : Bool) (other x : Island) : Island :=
  shareLevels { x with inReset := false, st := 1, boots := false, mgtm := if x.padLow then mgtm else x.mgtm, padLow := false } other

/-- Nothing of its flash, and of what its firmware is checked by, has changed. -/
theorem padRisen_reads (mgtm : Bool) (other x : Island) : (padRisen mgtm other x).inReset = false ∧ (padRisen mgtm other x).st = 1 ∧
    (padRisen mgtm other x).mgtm = (if x.padLow then mgtm else x.mgtm) ∧ (padRisen mgtm other x).flash = x.flash ∧
    (padRisen mgtm other x).rom = x.rom ∧ (padRisen mgtm other x).fw = x.fw ∧
    (∀ r, recordOk r (padRisen mgtm other x) = recordOk r x) ∧ (∀ i, recordIdKey (padRisen mgtm other x) i = recordIdKey x i) ∧
    ∀ n base, slotOk { padRisen mgtm other x with recok := true } n base = slotOk x n base := by
  unfold padRisen shareLevels
  split <;> exact ⟨rfl, rfl, rfl, rfl, rfl, rfl, fun _ => rfl, fun _ => rfl, fun _ _ => rfl⟩

/-- An island with a good record that has risen, and whose recorded slot verifies, boots from it. -/
theorem bootIsl_boots {s : State} {i : Isl} (h : slotOk (isl s i) 0 (islSlot (isl s i).fw.recB) = true) : bootIsl s i =
    setVersion (modIsl s i (fun x => { x with boots := true, fw := bootFrom x.fw (isl s i).fw.recB })) i
      (imageWord (isl (modIsl s i (fun x => { x with boots := true, fw := bootFrom x.fw (isl s i).fw.recB })) i)
        (islSlot (isl s i).fw.recB) 8) := by
  unfold bootIsl pickSlot
  dsimp only
  rw [if_pos h]
  rfl

theorem setVersion_reads (s : State) (i : Isl) (v : Word) : (∀ j, isl (setVersion s i v) j = isl s j) ∧ (setVersion s i v).dies = s.dies ∧
    (setVersion s i v).hpt = s.hpt :=
  ⟨fun j => by cases j <;> rfl, rfl, rfl⟩

theorem islandResetRelease_boots {s : State} {i : Isl} {b : BootFacts} (h : (isl s i).inReset = true)
    (hr : recordOk (isl s i).rom (isl s i) = true) (hk : recordIdKey (isl s i) i = b.idKey)
    (hs : slotOk (isl s i) 0 (islSlot (isl s i).fw.recB) = true) : ∃ t, exec (.islandResetRelease i b) s = .next t ∧
      (isl t i).inReset = false ∧ (isl t i).st = 1 ∧ (isl t i).recok = true ∧ (isl t i).boots = true ∧
      (isl t i).mgtm = (if (isl s i).padLow then b.mgtm else (isl s i).mgtm) ∧ (isl t i).fw.slotB = (isl s i).fw.recB ∧
      (isl t i).flash = (isl s i).flash ∧ isl t (otherIsl i) = isl s (otherIsl i) ∧ t.dies = s.dies ∧ t.hpt = s.hpt := by
  obtain ⟨h1, h2, h3, h4, h5, h6, h7, h8, h9⟩ := padRisen_reads b.mgtm (isl s (otherIsl i)) (isl s i)
  obtain ⟨w, hw⟩ : ∃ w, w = modIsl (modIsl s i (padRisen b.mgtm (isl s (otherIsl i)))) i (fun x => { x with recok := true }) := ⟨_, rfl⟩
  have hwi : isl w i = { padRisen b.mgtm (isl s (otherIsl i)) (isl s i) with recok := true } := by
    rw [hw, isl_modIsl_self, isl_modIsl_self]
  have hwo : isl w (otherIsl i) = isl s (otherIsl i) := by rw [hw, isl_modIsl_other, isl_modIsl_other]
  have hc : checkRecord (modIsl s i (padRisen b.mgtm (isl s (otherIsl i)))) i = w := by
    unfold checkRecord
    dsimp only
    rw [isl_modIsl_self, h5, h7, if_pos hr, hw]
  have hrec : recordIdKey (isl w i) i = b.idKey := by
    rw [hwi]
    exact (h8 i).trans hk
  have hfw : (isl w i).fw = (isl s i).fw := by rw [hwi]; exact h6
  have hslot : slotOk (isl w i) 0 (islSlot (isl w i).fw.recB) = true := by
    rw [hfw, hwi, h9]
    exact hs
  have hx : exec (.islandResetRelease i b) s = .next (bootIsl w i) := by
    show execIslandResetRelease i b s = _
    unfold execIslandResetRelease
    rw [if_neg (by simp [h])]
    dsimp only
    change Host.Outcome.next (if (isl (checkRecord (modIsl s i (padRisen b.mgtm (isl s (otherIsl i)))) i) i).recok &&
      recordIdKey (isl (checkRecord (modIsl s i (padRisen b.mgtm (isl s (otherIsl i)))) i) i) i == b.idKey then _ else _) = _
    rw [hc, hrec, hwi, beq_self_eq_true, Bool.and_true, if_pos rfl]
    exact congrArg (fun v => Host.Outcome.next (bootIsl v i)) hc
  rw [bootIsl_boots hslot] at hx
  obtain ⟨k1, k2, k3⟩ := setVersion_reads (modIsl w i (fun x => { x with boots := true, fw := bootFrom x.fw (isl w i).fw.recB })) i
    (imageWord (isl (modIsl w i (fun x => { x with boots := true, fw := bootFrom x.fw (isl w i).fw.recB })) i)
      (islSlot (isl w i).fw.recB) 8)
  refine ⟨_, hx, ?_⟩
  rw [k1, k1, k2, k3, isl_modIsl_self, isl_modIsl_other, hfw, hwi, hwo]
  have hd : (modIsl w i fun x => { x with boots := true, fw := bootFrom x.fw (isl s i).fw.recB }).dies = s.dies := by
    rw [dies_modIsl, hw, dies_modIsl, dies_modIsl]
  have hp : (modIsl w i fun x => { x with boots := true, fw := bootFrom x.fw (isl s i).fw.recB }).hpt = s.hpt := by
    rw [hw]
    cases i <;> rfl
  exact ⟨h1, h2, rfl, rfl, h3, rfl, h4, rfl, hd, hp⟩

/-- Settles O7: each event of an island from its own lemma. -/
theorem islandsStartAndStop : Obligations.IslandsStartAndStop :=
  ⟨fun _ _ _ h hr hk hs => islandResetRelease_boots h hr hk hs, fun _ _ h => islandResetAssert_resets h,
    fun _ _ h hb h1 => islandActive_joins h hb h1⟩

end Sys2Proof.Proofs

/-! The reset of a FAILED island, at a host port (13 R462, R465; 14 R516). -/

namespace Sys2Proof.Proofs

open Sys2Proof.Machine Sys2Proof.Safety Sys2Proof.Laws

/-- The state message of an island that is FAILED. -/
def failedMessage : List Word := sealW [4, 0, 0, 0]

/-- Both islands are in service and the IOD core is out of reset; the firewall of SIB's block 0 is in a run of refusals, which has
not made its entry yet. -/
def refusingState : State :=
  { sia := { st := 2, inReset := false, boots := true, linkUp := true }
    sib := { st := 2, inReset := false, boots := true, linkUp := true }
    iod := { inReset := false, running := true, ready := true }
    fws := [(272, { run := some (0x10, .read, 1) })] }

/-- The alert of the host port on faults, after a step. -/
def alertAfter : Out → Bool
  | .next t => t.hpt.aFault
  | _ => false

/-- The reset of SIB closes the run of its firewall, the run's entry raises the alert of the host port. -/
theorem failedMessage_alerts : alertAfter (exec (.islandStateMessage .sia failedMessage) refusingState) = true := by decide +kernel

theorem failedMessage_sealed : failedMessage.length = 5 ∧ sealOk failedMessage = true ∧ fld (nth failedMessage 0) 3 0 = 4 := by
  decide +kernel

/-- Refutes O47: the third clause has the host port unchanged when a FAILED island is reset; a run of refusals at a firewall of that
island ends with its reset, and the entry of the run raises the port's alert on faults. -/
theorem not_islandMessages : ¬ Obligations.IslandMessages := by
  intro h
  obtain ⟨-, -, hreset, -⟩ := h
  obtain ⟨hl, hs, hf⟩ := failedMessage_sealed
  obtain ⟨t, hx, -, -, -, -, hp, -⟩ := hreset refusingState .sia failedMessage rfl hl hs hf rfl
  have ha := failedMessage_alerts
  rw [hx] at ha
  have hn : t.hpt.aFault = false := by rw [hp]; rfl
  exact absurd (ha.symm.trans hn) Bool.true_eq_false.mp

end Sys2Proof.Proofs

/-! A stage output that is the drag shoe, and the interrupt it brings (03 R106; 13 R482; 14 R520). -/

namespace Sys2Proof.Proofs

open Sys2Proof.Machine Sys2Proof.Safety Sys2Proof.Laws

/-- A drag shoe of no record. -/
def emptyShoe : Shoe :=
  { rcd := [], gen := 0, t0 := 0, recheck := false, clear := false, step := 1, reason := 6, source := 1, stage := 0 }

/-- The port is ready, its PCIe link up and no alert raised; ring edge A may transmit, and has a drag shoe alone to issue. -/
def shoeState : State :=
  { hpt := { ready := true }, iod := { inReset := false, running := true, ready := true, pceUp := true }
    edgeA := { inReset := false, adopted := true, linkup := true, bypass := 0, newest := some emptyShoe } }

/-- How many emissions stand after a step. -/
def emitted : Out → Nat
  | .next t => t.out.length
  | _ => 0

/-- The tick sends the frame, and the alert on the drag shoe raises the interrupt of the host beside it. -/
theorem shoeState_interrupts : emitted (exec (.replicaTick (.edge .a) 0) shoeState) = 2 := by decide +kernel

/-- Refutes O49: its sixth clause has the frame as all that a tick emits; where the output is the drag shoe and no alert was raised
before, the alert of the host port emits an interrupt too. -/
theorem not_stageOutput : ¬ Obligations.StageOutput := by
  intro h
  obtain ⟨-, -, -, -, -, htick, -⟩ := h
  obtain ⟨t, hx, hout, -⟩ := htick shoeState .a 0 (shoeOutput emptyShoe 5 3 false) rfl rfl rfl
  have ht := shoeState_interrupts
  rw [hx] at ht
  have hn : t.out.length = 1 := by rw [hout]; rfl
  exact absurd (ht.symm.trans hn) (by decide)

end Sys2Proof.Proofs

/-! A fault of the island RAM under a PCIe read, and the interrupt it brings (03 R106; 13 R465; 17 R594). -/

namespace Sys2Proof.Proofs

open Sys2Proof.Machine Sys2Proof.Safety Sys2Proof.Laws

/-- The port is ready, its PCIe link up and no alert raised; SIA serves it. -/
def servedState : State :=
  { hpt := { ready := true }, iod := { inReset := false, running := true, ready := true, pceUp := true }
    sia := { st := 2, inReset := false, boots := true, linkUp := true } }

/-- The read is answered, and the alert on the island's fault raises the interrupt of the host before it. -/
theorem servedState_interrupts : emitted (exec (.pcieRead 2 0 0 true) servedState) = 2 := by decide +kernel

/-- Refutes O58: its clause on PCIe reads has the refused read as all that is emitted where a record of the island RAM fails its
check; the island's fault is logged, and where no alert was raised before, the alert on faults emits an interrupt too. -/
theorem not_ports : ¬ Obligations.Ports := by
  intro h
  obtain ⟨-, -, -, -, -, -, -, -, -, -, -, hread, -⟩ := h
  obtain ⟨-, hfault, -⟩ := hread servedState 2 0 0 true rfl rfl
  obtain ⟨t, hx, hout, -⟩ := hfault .sia rfl (by decide) rfl rfl
  have ht := servedState_interrupts
  rw [hx] at ht
  have hn : t.out.length = 1 := by rw [hout]; rfl
  exact absurd (ht.symm.trans hn) (by decide)

end Sys2Proof.Proofs

/-! Check-value units (15). -/

namespace Sys2Proof.Proofs

open Sys2Proof.Machine Sys2Proof.Safety Sys2Proof.Laws

/-! The register of a unit over the bytes of a message (R528). -/

theorem crcBits_lt {w poly : Nat} (hp : poly < 2 ^ w) (b : Nat) : ∀ (k r : Nat), r < 2 ^ w → crcBits w poly b k r < 2 ^ w
  | 0, _, h => h
  | k + 1, r, _ => by
    unfold crcBits
    dsimp only
    refine crcBits_lt hp b k _ ?_
    have hm : 2 * r % 2 ^ w < 2 ^ w := Nat.mod_lt _ (Nat.two_pow_pos w)
    split
    · exact Nat.xor_lt_two_pow hm hp
    · exact hm

/-- A bit shifted in leaves a value of the register's width. -/
theorem crcBits_succ_lt {w poly : Nat} (hp : poly < 2 ^ w) (b k r : Nat) : crcBits w poly b (k + 1) r < 2 ^ w := by
  unfold crcBits
  dsimp only
  refine crcBits_lt hp b k _ ?_
  have hm : 2 * r % 2 ^ w < 2 ^ w := Nat.mod_lt _ (Nat.two_pow_pos w)
  split
  · exact Nat.xor_lt_two_pow hm hp
  · exact hm

theorem cvuOk_bounds {c : Cvu} (h : cvuOk c = true) : cvuPoly c < 2 ^ cvuWidth c ∧ cvuInit c < 2 ^ cvuWidth c ∧ 2 ^ cvuWidth c ≤ 2 ^ 64 := by
  simp only [cvuOk, cvuValid, Bool.and_eq_true, decide_eq_true_eq] at h
  obtain ⟨⟨⟨⟨-, hw⟩, -⟩, hp⟩, hi⟩ := h
  exact ⟨hp, hi, Nat.pow_le_pow_right (by decide) hw⟩

theorem cvuReg_lt {c : Cvu} (h : cvuOk c = true) : cvuReg c < 2 ^ 64 := by
  obtain ⟨-, hi, hw⟩ := cvuOk_bounds h
  unfold cvuReg
  split
  · exact c.reg.isLt
  · exact Nat.lt_of_lt_of_le hi hw

theorem cvuBytes_lt {c : Cvu} (h : cvuOk c = true) (bs : List Byte) {r : Nat} (hr : r < 2 ^ 64) : bs.foldl (cvuByte c) r < 2 ^ 64 := by
  obtain ⟨hp, -, hw⟩ := cvuOk_bounds h
  induction bs generalizing r with
  | nil => exact hr
  | cons b bs ih => exact ih (Nat.lt_of_lt_of_le (crcBits_succ_lt hp _ 7 r) hw)

/-- A unit with a message of `n` bytes under way, whose register holds `r`. -/
def cvuFed (c : Cvu) (r n : Nat) : Cvu := { c with opened := true, reg := BitVec.ofNat 64 r, count := n }

/-- A unit of a valid configuration after bytes that are not none. -/
theorem cvuFeed_ok {c : Cvu} (h : cvuOk c = true) {bs : List Byte} (hb : bs ≠ []) :
    cvuFeed c bs = cvuFed c (bs.foldl (cvuByte c) (cvuReg c)) (satAdd 0xFFFFFFFF c.count bs.length) := by
  unfold cvuFeed
  rw [if_neg (by simp [hb]), h, Bool.not_true, Bool.and_false, if_neg Bool.false_ne_true]
  rfl

theorem cvuReg_cvuFed (c : Cvu) {r : Nat} (h : r < 2 ^ 64) (n : Nat) : cvuReg (cvuFed c r n) = r := by
  rw [cvuReg, if_pos (show (cvuFed c r n).opened = true from rfl)]
  exact (BitVec.toNat_ofNat ..).trans (Nat.mod_eq_of_lt h)

theorem cvuFeed_nil (c : Cvu) : cvuFeed c [] = c := rfl

/-- Bytes fed in parts give what they give whole. -/
theorem cvuFeed_append {c : Cvu} (h : cvuOk c = true) (a b : List Byte) : cvuFeed (cvuFeed c a) b = cvuFeed c (a ++ b) := by
  by_cases ha : a = []
  · rw [ha, cvuFeed_nil, List.nil_append]
  by_cases hb : b = []
  · rw [hb, cvuFeed_nil, List.append_nil]
  have hab : a ++ b ≠ [] := by simp [ha]
  have hlt := cvuBytes_lt h a (cvuReg_lt h)
  have hok (r n : Nat) : cvuOk (cvuFed c r n) = true := h
  have hcount : satAdd 0xFFFFFFFF (satAdd 0xFFFFFFFF c.count a.length) b.length = satAdd 0xFFFFFFFF c.count (a ++ b).length := by
    simp only [satAdd, List.length_append]
    omega
  rw [cvuFeed_ok h hab, cvuFeed_ok h ha, cvuFeed_ok (hok _ _) hb, cvuReg_cvuFed c hlt, ← hcount, List.foldl_append]
  rfl

/-! Commands at one unit (R530, R537, R562). -/

theorem onlyCvu_modCvu (s : State) (k : Nat) (f : Cvu → Cvu) : OnlyCvu s (modCvu s k f) k := ⟨rfl, fun _ h => cvu_modCvu_ne s f h⟩

/-- A command at a unit that is open to it changes that unit alone. -/
theorem atCvu_acts {s : State} (h : opened s (.iod 8) = true) (k : CvuId) (f : Cvu → Cvu) :
    ∃ t, atCvu s k f = .next t ∧ OnlyCvu s t k.val ∧ cvu t k.val = f (cvu s k.val) :=
  ⟨_, atOpen_open _ h, onlyCvu_modCvu s k f, cvu_modCvu_self s k f⟩

theorem cvuFeed_bad {c : Cvu} (h : cvuOk c = false) (ho : c.opened = false) {bs : List Byte} (hb : bs ≠ []) :
    cvuFeed c bs = { c with badcfg := true } := by
  unfold cvuFeed
  rw [if_neg (by simp [hb]), h, ho]
  rfl

theorem wordBytes_take {v : Word} {n : Nat} (h1 : 1 ≤ n) (h4 : n ≤ 4) : (wordBytes v).take n ≠ [] ∧ ((wordBytes v).take n).length = n := by
  have hl : (wordBytes v).length = 4 := rfl
  have ht : ((wordBytes v).take n).length = n := by rw [List.length_take, hl]; omega
  exact ⟨fun h => by rw [h] at ht; simp at ht; omega, ht⟩

theorem atCvu_closed {s : State} (h : opened s (.iod 8) = false) (k : CvuId) (f : Cvu → Cvu) : atCvu s k f = .next s :=
  atOpen_closed _ h

theorem cvuFeedWord_feeds {s : State} (h : opened s (.iod 8) = true) (k : CvuId) (v : Word) {n : Nat} (h1 : 1 ≤ n) (h4 : n ≤ 4) :
    ∃ t, atCvu s k (fun c => cvuFeed c ((wordBytes v).take n)) = .next t ∧ OnlyCvu s t k.val ∧
    (cvuOk (cvu s k.val) = true → (cvu t k.val).opened = true ∧
      (cvu t k.val).reg = BitVec.ofNat 64 (((wordBytes v).take n).foldl (cvuByte (cvu s k.val)) (cvuReg (cvu s k.val))) ∧
      (cvu t k.val).count = min 0xFFFFFFFF ((cvu s k.val).count + n) ∧ (cvu t k.val).cfg = (cvu s k.val).cfg) ∧
    (cvuOk (cvu s k.val) = false → (cvu s k.val).opened = false → cvu t k.val = { cvu s k.val with badcfg := true }) := by
  obtain ⟨t, hx, ho, hc⟩ := atCvu_acts h k (fun c => cvuFeed c ((wordBytes v).take n))
  obtain ⟨hb, hl⟩ := wordBytes_take (v := v) h1 h4
  refine ⟨t, hx, ho, fun hok => ?_, fun hok hop => hc.trans (cvuFeed_bad hok hop hb)⟩
  rw [hc, cvuFeed_ok hok hb, hl, cvuFed]
  exact ⟨rfl, rfl, rfl, rfl⟩

/-! The rows of class 0x8 (Tables 15-3, 15-4). -/

theorem setCvu_setWaiting (s : State) (p : Port) (l : List Pkt) (k : Nat) (c : Cvu) :
    setCvu (setWaiting s p l) k c = setWaiting (setCvu s k c) p l := by
  rcases p with _ | _ | _ <;> rfl

theorem cvu_setWaiting (s : State) (p : Port) (l : List Pkt) (k : Nat) : cvu (setWaiting s p l) k = cvu s k := by
  rcases p with _ | _ | _ <;> rfl

theorem modCvu_setWaiting (s : State) (p : Port) (l : List Pkt) (k : Nat) (f : Cvu → Cvu) :
    modCvu (setWaiting s p l) k f = setWaiting (modCvu s k f) p l := by
  rw [modCvu, cvu_setWaiting, setCvu_setWaiting, modCvu]

theorem ownsCvu_setWaiting (s : State) (p : Port) (l : List Pkt) (k : Pkt) (u : Nat) : ownsCvu (setWaiting s p l) k u = ownsCvu s k u := by
  rw [ownsCvu, cvu_setWaiting, ownsCvu]

theorem ownsCvu_iff (s : State) (k : Pkt) (u : Nat) : ownsCvu s k u = true ↔ (cvu s u).owner = pktCtx k := beq_iff_eq

/-- The unit of a packet with the packet taken. -/
theorem cvuActed {s : State} {p : Port} {k : Pkt} (h : Alone s p k) (u : Nat) (f : Cvu → Cvu) :
    setWaiting (modCvu s u f) p [] = modCvu (took s p k) u f ∧ cvu (modCvu (took s p k) u f) u = f (cvu s u) := by
  rw [took_alone h, modCvu_setWaiting, ← modCvu_setWaiting, cvu_modCvu_self, cvu_setWaiting]
  exact ⟨rfl, rfl⟩

/-- What an opcode that answers after a change of one unit leaves. -/
theorem cvuAnswered {s : State} {p : Port} {k : Pkt} {x : Out} {st : Byte} {d : List Word} {u : Nat} {f : Cvu → Cvu} (h : Alone s p k)
    (hx : x = .next (answered p k st d (setWaiting (modCvu s u f) p []))) :
    ∃ t, x = .next (answered p k st d t) ∧ OnlyCvu (took s p k) t u ∧ cvu t u = f (cvu s u) := by
  obtain ⟨he, hc⟩ := cvuActed h u f
  exact ⟨_, hx.trans (by rw [he]), onlyCvu_modCvu _ u f, hc⟩

theorem cvuCfg_answers {s : State} {p : Port} {k : Pkt} (h : Ready s p 8 0 6 k) (hu : parN k 0 ≤ 63)
    (ho : (cvu s (parN k 0)).owner = pktCtx k) (hb : cvuCfgBad k = none) (hn : (cvu s (parN k 0)).opened = false) :
    exec (.cvuCfg p) s = .next (answered p k stOk [] (setWaiting (modCvu s (parN k 0) (fun c => { cvuEnd c with
      cfg := par k 1, polyLo := par k 2, polyHi := par k 3, initLo := par k 4, initHi := par k 5 })) p [])) := by
  refine onPort_answers h (ofRow_ready h rfl rfl rfl) (by simp [rowCvuCfg, opDef, fixedRow, h.len]) rfl (fun l => ?_)
  have hu' : ¬63 < parN k 0 := by omega
  simp only [rowCvuCfg, opDef, hu', ownsCvu_setWaiting, (ownsCvu_iff s k _).2 ho, hb, cvu_setWaiting, hn, modCvu_setWaiting, Bool.not_true,
    Bool.false_eq_true, if_false]

theorem cvuFeed_answers {s : State} {p : Port} {k : Pkt} (h : Ready s p 8 1 (2 + cdiv (parN k 1) 4) k) (hu : parN k 0 ≤ 63)
    (h1 : 1 ≤ parN k 1) (h2 : parN k 1 ≤ 65508) (ho : (cvu s (parN k 0)).owner = pktCtx k) (hok : cvuOk (cvu s (parN k 0)) = true) :
    exec (.cvuFeed p) s = .next (answered p k stOk [toW (parN k 1)] (setWaiting (modCvu s (parN k 0)
      (fun c => cvuFeed c ((wordsBytes (parsFrom k 2)).take (parN k 1)))) p [])) := by
  refine onPort_answers h (ofRow_ready h rfl rfl rfl) (by simp [rowCvuFeed, opDef, h.len]) rfl (fun l => ?_)
  have hu' : ¬63 < parN k 0 := by omega
  have h2' : ¬65508 < parN k 1 := by omega
  have h1' : ¬parN k 1 = 0 := by omega
  simp only [rowCvuFeed, opDef, hu', ownsCvu_setWaiting, (ownsCvu_iff s k _).2 ho, h2', h1', cvu_setWaiting, hok, modCvu_setWaiting, Bool.not_true,
    Bool.and_false, Bool.false_eq_true, if_false]

theorem resultVerdict_answers {s : State} {k : Pkt} (h0 : fld (par k 0) 30 6 = 0) (ho : (cvu s (fld (par k 0) 5 0)).owner = pktCtx k)
    (after : Cvu → Cvu) (p : Port) (l : List Pkt) : resultVerdict after (setWaiting s p l) k =
      .answer stOk (two (cvuRes (cvu s (fld (par k 0) 5 0))) ++ [toW (cvu s (fld (par k 0) 5 0)).count])
        (setWaiting (modCvu s (fld (par k 0) 5 0) after) p l) := by
  simp only [resultVerdict, h0, ownsCvu_setWaiting, (ownsCvu_iff s k _).2 ho, cvu_setWaiting, modCvu_setWaiting, ne_eq, not_true, Bool.not_true,
    Bool.false_eq_true, if_false]
  rfl

theorem cvuResult_answers {s : State} {p : Port} {k : Pkt} (h : Ready s p 8 2 1 k) (h0 : fld (par k 0) 30 6 = 0)
    (ho : (cvu s (fld (par k 0) 5 0)).owner = pktCtx k) : exec (if tbit (par k 0) 31 then .cvuResultReset p else .cvuResult p) s =
      .next (answered p k stOk (two (cvuRes (cvu s (fld (par k 0) 5 0))) ++ [toW (cvu s (fld (par k 0) 5 0)).count])
        (setWaiting (modCvu s (fld (par k 0) 5 0) (if tbit (par k 0) 31 then cvuEnd else id)) p [])) := by
  cases ht : tbit (par k 0) 31 with
  | true =>
    exact onPort_answers h (ofRow_ready h rfl rfl ht) (by simp [rowCvuResultReset, opDef, fixedRow, h.len]) rfl
      (fun l => resultVerdict_answers h0 ho cvuEnd p l)
  | false =>
    exact onPort_answers h (ofRow_ready h rfl rfl (by simp [rowCvuResult, opDef, ht])) (by simp [rowCvuResult, opDef, fixedRow, h.len]) rfl
      (fun l => resultVerdict_answers h0 ho id p l)

/-- The alive opcodes name their unit in the low bits of parameter 0. -/
theorem aliveParam (j : Fin 4) (u : Fin 64) : toW (0x100 * j.val + u.val) &&& 0xFFFFFCC0 = 0 ∧ fld (toW (0x100 * j.val + u.val)) 9 8 = j.val := by
  revert j u
  decide

theorem aliveVerdict_answers {s : State} {k : Pkt} {u : Nat} {rsv : Word} {ready : Cvu → Bool} (f : Cvu → Word → Cvu)
    (hu : fld (par k 0) 5 0 = u) (h0 : par k 0 &&& 0xFFFFFCC0 = 0) (ho : (cvu s u).owner = pktCtx k) (h1 : par k 1 &&& rsv = 0)
    (hr : ready (cvu s u) = true) (p : Port) (l : List Pkt) : aliveVerdict rsv ready f (setWaiting s p l) k =
      .answer stOk [cvuAlive (f (cvu s u) (par k 1)), cvuStat (f (cvu s u) (par k 1))]
        (setWaiting (modCvu s u (fun c => f c (par k 1))) p l) := by
  simp only [aliveVerdict, hu, h0, ownsCvu_setWaiting, (ownsCvu_iff s k u).2 ho, h1, cvu_setWaiting, hr, setCvu_setWaiting, ne_eq, not_true,
    Bool.not_true, Bool.false_eq_true, if_false]
  rfl

theorem cvuAliveRow_ready {s : State} {p : Port} {k : Pkt} {u : Nat} (h : Ready s p 8 3 2 k) (hu : fld (par k 0) 5 0 = u) {j : Fin 4}
    (hp : par k 0 = toW (0x100 * j.val + u)) {o : OpDef} (ho : o.form = aliveRow j.val) : ofRow o k = true ∧ o.form.lenOk k = true ∧
      par k 0 &&& 0xFFFFFCC0 = 0 := by
  have hlt : u < 64 := by
    rw [← hu]
    exact Nat.mod_lt _ (by decide)
  obtain ⟨h0, h9⟩ := aliveParam j ⟨u, hlt⟩
  refine ⟨ofRow_ready h (by rw [ho]; rfl) (by rw [ho]; rfl) ?_, ?_, by rw [hp]; exact h0⟩
  · rw [ho]
    show (fld (par k 0) 9 8 == j.val) = true
    rw [hp, h9, beq_self_eq_true]
  · rw [ho]
    show (pktLen k == 2) = true
    rw [h.len]
    rfl

theorem cvuAliveRead_answers {s : State} {p : Port} {k : Pkt} {u : Nat} (h : Ready s p 8 3 2 k) (hu : fld (par k 0) 5 0 = u)
    (ho : (cvu s u).owner = pktCtx k) (hp : par k 0 = toW u) (h1 : par k 1 = 0) : exec (.cvuAliveRead p) s =
      .next (answered p k stOk [cvuAlive (cvu s u), cvuStat (cvu s u)] (setWaiting (modCvu s u (fun c => c)) p [])) := by
  obtain ⟨hr, hl, h0⟩ := cvuAliveRow_ready (j := 0) (o := rowCvuAliveRead) h hu (by simpa using hp) rfl
  exact onPort_answers h hr hl rfl (fun l => aliveVerdict_answers (rsv := 0xFFFFFFFF) (ready := fun _ => true) (fun c _ => c) hu h0 ho (by rw [h1]; rfl) rfl p l)

theorem cvuAliveLoad_answers {s : State} {p : Port} {k : Pkt} {u : Nat} (h : Ready s p 8 3 2 k) (hu : fld (par k 0) 5 0 = u)
    (ho : (cvu s u).owner = pktCtx k) (hp : par k 0 = toW (0x100 + u)) (h1 : par k 1 &&& 0xFFFFFE00 = 0) :
    exec (.cvuAliveLoad p) s = .next (answered p k stOk [cvuAlive (cvuLoad (cvu s u) (par k 1)), cvuStat (cvuLoad (cvu s u) (par k 1))]
      (setWaiting (modCvu s u (fun c => cvuLoad c (par k 1))) p [])) := by
  obtain ⟨hr, hl, h0⟩ := cvuAliveRow_ready (j := 1) (o := rowCvuAliveLoad) h hu hp rfl
  exact onPort_answers h hr hl rfl (fun l => aliveVerdict_answers (ready := fun _ => true) cvuLoad hu h0 ho h1 rfl p l)

theorem cvuAliveAdvance_answers {s : State} {p : Port} {k : Pkt} {u : Nat} (h : Ready s p 8 3 2 k) (hu : fld (par k 0) 5 0 = u)
    (ho : (cvu s u).owner = pktCtx k) (hp : par k 0 = toW (0x300 + u)) (h1 : par k 1 = 0) (hs : (cvu s u).send = true) :
    exec (.cvuAliveAdvance p) s = .next (answered p k stOk [cvuAlive (cvuAdvance (cvu s u)), cvuStat (cvuAdvance (cvu s u))]
      (setWaiting (modCvu s u (fun c => cvuAdvance c)) p [])) := by
  obtain ⟨hr, hl, h0⟩ := cvuAliveRow_ready (j := 3) (o := rowCvuAliveAdvance) h hu hp rfl
  exact onPort_answers h hr hl rfl (fun l => aliveVerdict_answers (fun c _ => cvuAdvance c) hu h0 ho (by rw [h1]; rfl) hs p l)

/-- The check of an alive value, by parameter 1. -/
def aliveChecked (k : Pkt) (c : Cvu) : Cvu := cvuCheck c (BitVec.ofNat 8 (fld (par k 1) 7 0))

theorem cvuAliveCheck_answers {s : State} {p : Port} {k : Pkt} {u : Nat} (h : Ready s p 8 3 2 k) (hu : fld (par k 0) 5 0 = u)
    (ho : (cvu s u).owner = pktCtx k) (hp : par k 0 = toW (0x200 + u)) (h1 : par k 1 &&& 0xFFFFFF00 = 0) (hs : (cvu s u).send = false) :
    exec (.cvuAliveCheck p) s = .next (answered p k (if (aliveChecked k (cvu s u)).alres = 0 then stOk else stStaleAlive)
      [cvuAlive (aliveChecked k (cvu s u)), cvuStat (aliveChecked k (cvu s u))] (setWaiting (modCvu s u (aliveChecked k)) p [])) := by
  obtain ⟨hr, hl, h0⟩ := cvuAliveRow_ready (j := 2) (o := rowCvuAliveCheck) h hu hp rfl
  refine onPort_answers h hr hl rfl (fun l => ?_)
  have hv := aliveVerdict_answers (ready := fun c => !c.send) (fun c v => cvuCheck c (BitVec.ofNat 8 (fld v 7 0))) hu h0 ho h1
    (by rw [hs]; rfl) p l
  dsimp only [rowCvuAliveCheck, opDef]
  rw [hv, hu]
  dsimp only
  rw [cvu_setWaiting, cvu_modCvu_self]
  rfl

theorem aliveChecked_alres (k : Pkt) {c : Cvu} (h : c.send = false) : (aliveChecked k c).alres = 0 ↔ BitVec.ofNat 8 (fld (par k 1) 7 0) = c.value := by
  unfold aliveChecked cvuCheck
  rw [h, if_neg Bool.false_ne_true]
  split
  · simp [*]
  · split <;> simp [*]

theorem aliveChecked_value (k : Pkt) {c : Cvu} (h : c.send = false) (hv : BitVec.ofNat 8 (fld (par k 1) 7 0) = c.value) :
    (aliveChecked k c).value = c.value + 1 := by
  unfold aliveChecked cvuCheck
  rw [h, if_neg Bool.false_ne_true, if_pos hv]

/-! Units of another context (R537). -/

theorem smallParam (u : Fin 64) : tbit (toW u.val) 31 = false ∧ fld (toW u.val) 30 6 = 0 ∧ fld (toW u.val) 5 0 = u.val := by
  revert u
  decide

theorem par_eq_toW (k : Pkt) (i : Nat) : par k i = toW (parN k i) := (BitVec.ofNat_toNat 32 (par k i)).symm.trans rfl

theorem cvuCfg_refuses {s : State} {p : Port} {k : Pkt} (h : Ready s p 8 0 6 k) (hu : parN k 0 ≤ 63)
    (ho : (cvu s (parN k 0)).owner ≠ pktCtx k) : exec (.cvuCfg p) s = .next (refused p k stFirewall 10 4 (took s p k)) := by
  refine onPort_refuses h (ofRow_ready h rfl rfl rfl) (by simp [rowCvuCfg, opDef, fixedRow, h.len]) rfl ?_
  have hu' : ¬63 < parN k 0 := by omega
  simp only [rowCvuCfg, opDef, hu', if_false, ownsCvu, beq_eq_false_iff_ne.2 ho, Bool.not_false, if_true]

theorem cvuResult_refuses {s : State} {p : Port} {k : Pkt} (h : Ready s p 8 2 1 k) (hu : parN k 0 ≤ 63)
    (ho : (cvu s (parN k 0)).owner ≠ pktCtx k) : exec (.cvuResult p) s = .next (refused p k stFirewall 10 4 (took s p k)) := by
  obtain ⟨h1, h2, h3⟩ := smallParam ⟨parN k 0, by omega⟩
  rw [← par_eq_toW] at h1 h2 h3
  refine onPort_refuses h (ofRow_ready h rfl rfl (by simp [rowCvuResult, opDef, h1])) (by simp [rowCvuResult, opDef, fixedRow, h.len]) rfl ?_
  show resultVerdict id s k = _
  simp only [resultVerdict, h2, h3, ne_eq, not_true, if_false, ownsCvu, beq_eq_false_iff_ne.2 ho, Bool.not_false, if_true]

/-- Settles O53: bytes by the register's fold, each command and opcode from its own lemma. -/
theorem checkValueUnits : Obligations.CheckValueUnits := by
  refine ⟨fun _ a b h => cvuFeed_append h a b, fun s k v n r hm ho => ?_, fun s k v r f hm ho => ?_, fun s k v reg a b r hm hc => ?_,
    fun s p k h hu ho hb hn => cvuAnswered h.alone (cvuCfg_answers h hu ho hb hn), fun s p k n h hu hn h1 h2 ho hok => ?_,
    fun s p k u h h0 hu ho hok => ?_, fun s p k u c h hu hc ho => ⟨fun hp h1 => ?_, fun hp h1 => ?_, fun hp h1 hs => ?_, fun hp h1 hs => ?_⟩,
    fun s p k o n r hm h hu ho => ?_⟩
  · simp only [List.mem_cons, Prod.mk.injEq, List.not_mem_nil, or_false] at hm
    rcases hm with ⟨rfl, rfl⟩ | ⟨rfl, rfl⟩ | ⟨rfl, rfl⟩
    · exact cvuFeedWord_feeds (n := 1) ho k v (by decide) (by decide)
    · exact cvuFeedWord_feeds (n := 2) ho k v (by decide) (by decide)
    · exact cvuFeedWord_feeds (n := 4) ho k v (by decide) (by decide)
  · simp only [List.mem_cons, Prod.mk.injEq, List.not_mem_nil, or_false] at hm
    rcases hm with ⟨rfl, rfl⟩ | ⟨rfl, rfl⟩ | ⟨rfl, rfl⟩ | ⟨rfl, rfl⟩ | ⟨rfl, rfl⟩ | ⟨rfl, rfl⟩ | ⟨rfl, rfl⟩ | ⟨rfl, rfl⟩ | ⟨rfl, rfl⟩ |
      ⟨rfl, rfl⟩ | ⟨rfl, rfl⟩ | ⟨rfl, rfl⟩ | ⟨rfl, rfl⟩ <;> exact atCvu_acts ho k _
  · simp only [List.mem_cons, List.not_mem_nil, or_false] at hm
    rcases hm with rfl | rfl | rfl | rfl | rfl | rfl | rfl | rfl | rfl <;> exact atCvu_closed hc k _
  · obtain rfl := hn
    exact cvuAnswered h.alone (cvuFeed_answers h hu h1 h2 ho hok)
  · obtain rfl := hu
    obtain ⟨t, hx, hot, hct⟩ := cvuAnswered h.alone (cvuResult_answers h h0 ho)
    refine ⟨t, hx, ?_, fun j hj => ?_, ?_⟩
    · rw [hct]
      split <;> rfl
    · rw [hot.2 j hj, took_alone h.alone, cvu_setWaiting]
    · rw [hot.1]
  · obtain rfl := hc
    exact cvuAnswered h.alone (cvuAliveRead_answers h hu ho hp h1)
  · obtain rfl := hc
    obtain ⟨t, hx, hot, hct⟩ := cvuAnswered h.alone (cvuAliveLoad_answers h hu ho hp h1)
    exact ⟨t, _, hx, hot, hct⟩
  · obtain rfl := hc
    obtain ⟨t, hx, hot, hct⟩ := cvuAnswered h.alone (cvuAliveCheck_answers h hu ho hp h1 hs)
    simp only [aliveChecked_alres k hs] at hx
    exact ⟨t, _, hx, hot, fun hv => by rw [hct, aliveChecked_value k hs hv]⟩
  · obtain rfl := hc
    obtain ⟨t, hx, hot, hct⟩ := cvuAnswered h.alone (cvuAliveAdvance_answers h hu ho hp h1 hs)
    exact ⟨t, _, hx, hot, by rw [hct, cvuAdvance, if_pos hs]⟩
  · simp only [List.mem_cons, Prod.mk.injEq, List.not_mem_nil, or_false] at hm
    rcases hm with ⟨rfl, rfl, rfl⟩ | ⟨rfl, rfl, rfl⟩
    · exact cvuCfg_refuses h hu ho
    · exact cvuResult_refuses h hu ho

end Sys2Proof.Proofs

/-! Clock sources and gates (16 R553-R561; O57). -/

namespace Sys2Proof.Proofs

open Sys2Proof.Machine Sys2Proof.Safety Sys2Proof.Laws

/-! The bits of a gate register: a clear bit set, a set bit cleared. -/

theorem testBit_add_two_pow {l : Nat} : ∀ {x : Nat}, x.testBit l = false → ∀ i, (x + 2 ^ l).testBit i = (x.testBit i || i == l) := by
  induction l with
  | zero =>
    intro x h i
    rw [Nat.testBit_zero, decide_eq_false_iff_not] at h
    cases i with
    | zero => simp; omega
    | succ i => simp [Nat.testBit_succ, show (x + 1) / 2 = x / 2 by omega]
  | succ l ih =>
    intro x h i
    rw [Nat.testBit_succ] at h
    cases i with
    | zero => simp [Nat.pow_succ]
    | succ i => simp [Nat.testBit_succ, Nat.pow_succ, show (x + 2 ^ l * 2) / 2 = x / 2 + 2 ^ l by omega, ih h]

theorem testBit_sub_two_pow {l : Nat} : ∀ {x : Nat}, x.testBit l = true → ∀ i, (x - 2 ^ l).testBit i = (x.testBit i && !(i == l)) := by
  induction l with
  | zero =>
    intro x h i
    rw [Nat.testBit_zero, decide_eq_true_iff] at h
    cases i with
    | zero => simp; omega
    | succ i => simp [Nat.testBit_succ, show (x - 1) / 2 = x / 2 by omega]
  | succ l ih =>
    intro x h i
    rw [Nat.testBit_succ] at h
    have hl : 2 ^ l ≤ x / 2 := Nat.ge_two_pow_of_testBit h
    cases i with
    | zero => rw [Nat.testBit_zero, Nat.testBit_zero, Nat.pow_succ]; simp; omega
    | succ i => simp [Nat.testBit_succ, Nat.pow_succ, show (x - 2 ^ l * 2) / 2 = x / 2 - 2 ^ l by omega, ih h]

theorem gateClosed_setGate (s : State) (g l : Nat) (b : Bool) (g' l' : Nat) : gateClosed (setGate s g l b).clk g' l' =
    if g' = g ∧ l' = l then b else gateClosed s.clk g' l' := by
  unfold setGate setClk
  dsimp only
  by_cases hb : (bankGet 0 s.clk.gates g).testBit l = b
  · rw [if_pos hb]
    split
    case isTrue h => obtain ⟨rfl, rfl⟩ := h; exact hb
    case isFalse => rfl
  rw [if_neg hb]
  by_cases hg : g' = g
  case neg => simp [gateClosed, bankGet_bankSet_ne _ _ _ hg, hg]
  subst hg
  cases b with
  | false => by_cases hl : l' = l <;> simp [gateClosed, testBit_sub_two_pow (Bool.not_eq_false _ ▸ hb), hl]
  | true => by_cases hl : l' = l <;> simp [gateClosed, testBit_add_two_pow (Bool.not_eq_true _ ▸ hb), hl]

/-! Groups moved to a source. -/

theorem clkSrc_moveGroup (c : Clk) (g : Fin 13) (src : Nat) (j : Fin 13) :
    clkSrc (moveGroup c g src) j = if j = g then src else clkSrc c j := by
  unfold moveGroup
  by_cases h : clkSrc c g = src
  · rw [if_pos h]
    split
    case isTrue hj => rw [hj, h]
    case isFalse => rfl
  rw [if_neg h]
  by_cases hj : j = g
  · rw [if_pos hj, hj]
    exact bankGet_bankSet_self 2 c.src g.val src
  · rw [if_neg hj]
    exact bankGet_bankSet_ne 2 c.src src (fun he => hj (Fin.ext he))

theorem clkSrc_moveGroups (l : List (Fin 13)) (src : Nat) (c : Clk) (j : Fin 13) :
    clkSrc (l.foldl (fun k g => moveGroup k g src) c) j = if j ∈ l then src else clkSrc c j := by
  induction l generalizing c with
  | nil => simp
  | cons g l ih =>
    rw [List.foldl_cons, ih, clkSrc_moveGroup]
    by_cases hl : j ∈ l <;> by_cases hg : j = g <;> simp [hl, hg]

/-- What a move of groups leaves as it is: the ready bits and the sources of the edges. -/
def sources (c : Clk) : Bool × Bool × Bool × ClkSrc × ClkSrc := (c.r0ready, c.r1ready, c.xready, c.edgeA, c.edgeB)

theorem sources_moveGroups (l : List (Fin 13)) (src : Nat) (c : Clk) :
    sources (l.foldl (fun k g => moveGroup k g src) c) = sources c := by
  refine foldl_keeps (fun k g => ?_) l c
  unfold moveGroup
  split <;> rfl

theorem srcReady_of_sources {c k : Clk} (h : sources k = sources c) (d : ClkSrc) : srcReady k d = srcReady c d := by
  cases d
  · exact congrArg (·.1) h
  · exact congrArg (·.2.1) h
  · exact congrArg (·.2.2.1) h

theorem mem_groupList (g : Fin 13) : g ∈ groupList := List.mem_finRange g

/-- The registers once a source is lost, before its groups move. -/
def unready (k : Clk) : ClkSrc → Clk
  | .rec0 => { k with r0ready := false, r0lost := true }
  | .rec1 => { k with r1ready := false, r1lost := true }
  | .xref => { k with xready := false, xlost := true }

theorem clkSrc_unready (k : Clk) (c : ClkSrc) (g : Nat) : clkSrc (unready k c) g = clkSrc k g := by
  cases c <;> rfl

/-- The registers after the loss of a source (R553, R556): its groups run from the first source that is ready, the edges that
recovered it from the reference. -/
structure Lost (k : Clk) (c : ClkSrc) (m : Clk) : Prop where
  src : ∀ g : Fin 13, clkSrc m g = if clkSrc k g = srcCode c then firstReady (unready k c) else clkSrc k g
  bits : sources m = ((unready k c).r0ready, (unready k c).r1ready, (unready k c).xready,
    if c = .rec0 then .xref else k.edgeA, if c = .rec1 then .xref else k.edgeB)

theorem clockSourceLost_lost {s : State} {c : ClkSrc} (h : srcReady s.clk c = true) : ∃ t, exec (.clockSourceLost c) s = .next t ∧
    Lost s.clk c t.clk ∧ t.dies = s.dies ∧ t.stg = s.stg := by
  refine ⟨_, by show execClockSourceLost c s = _; unfold execClockSourceLost; rw [if_neg (by simp [h])], ?_⟩
  extract_lets +onlyGivenNames k₀ k l d m m' m'' u
  have hk : k = unready s.clk c := by cases c <;> rfl
  have hl : ∀ g, g ∈ l ↔ clkSrc s.clk g = srcCode c := fun g => by
    rw [← clkSrc_unready s.clk c, ← hk]
    simp [l, mem_groupList]
  have hm : Lost s.clk c m'' := by
    have hs : m''.src = m.src := by
      simp only [m'', m']
      split
      · rfl
      · split <;> rfl
    have hb : sources m'' = (m.r0ready, m.r1ready, m.xready, if c = .rec0 then .xref else m.edgeA, if c = .rec1 then .xref else m.edgeB) := by
      simp only [m'', m', sources]
      split
      · rfl
      · split <;> rfl
    have hmk : sources m = sources (unready s.clk c) := by rw [← hk]; exact sources_moveGroups l d k
    refine ⟨fun g => ?_, ?_⟩
    · have hg := clkSrc_moveGroups l d k g
      simp only [hl] at hg
      show bankGet 2 m''.src g = _
      rw [hs, show bankGet 2 m.src g = clkSrc m g from rfl, hg, hk, clkSrc_unready]
      show (if _ then firstReady k else _) = _
      rw [hk]
    · rw [hb]
      obtain ⟨h0, h1, h2, ha, hb⟩ : m.r0ready = (unready s.clk c).r0ready ∧ m.r1ready = (unready s.clk c).r1ready ∧
          m.xready = (unready s.clk c).xready ∧ m.edgeA = (unready s.clk c).edgeA ∧ m.edgeB = (unready s.clk c).edgeB := by
        simpa [sources] using hmk
      rw [h0, h1, h2, ha, hb]
      cases c <;> rfl
  split
  · exact ⟨hm, rfl, rfl⟩
  · exact ⟨by rw [logF_clk]; exact hm, logF_dies .., logF_stg ..⟩

theorem srcReady_unready (k : Clk) (c d : ClkSrc) : srcReady (unready k c) d = (srcReady k d && !decide (d = c)) := by
  cases c <;> cases d <;> simp [unready, srcReady]

theorem Lost.ready {k m : Clk} {c : ClkSrc} (h : Lost k c m) (d : ClkSrc) : srcReady m d = srcReady (unready k c) d := by
  have hb := h.bits
  simp only [sources, Prod.mk.injEq] at hb
  obtain ⟨h0, h1, h2, -⟩ := hb
  cases d
  · exact h0
  · exact h1
  · exact h2

theorem firstReady_of_ready {k m : Clk} (h : ∀ d, srcReady m d = srcReady k d) : firstReady m = firstReady k := by
  have h0 := h .rec0
  have h1 := h .rec1
  have h2 := h .xref
  simp only [srcReady] at h0 h1 h2
  simp only [firstReady, h0, h1, h2]

/-! A source that gets ready. -/

theorem clockSourceReady_moves {s : State} {c : ClkSrc} (h : srcReady s.clk c = false) (hc : c = .xref ∨ s.iod.straps.getLsbD 0 = false) :
    ∃ k : Clk, exec (.clockSourceReady c) s = .next { s with clk := k } ∧ srcReady k c = true ∧
      ∀ g : Fin 13, clkSrc k g = if clkSrc s.clk g = 3 then srcCode c else clkSrc s.clk g := by
  have hf : ¬(srcReady s.clk c || (c ≠ .xref && s.iod.straps.getLsbD 0)) = true := by
    rcases hc with rfl | hs
    · simp [h]
    · rw [h, hs]
      simp
  refine ⟨_, by show execClockSourceReady c s = _; unfold execClockSourceReady; rw [if_neg hf]; rfl, ?_, fun g => ?_⟩
  · rw [srcReady_of_sources (sources_moveGroups _ _ _)]
    cases c <;> rfl
  · rw [clkSrc_moveGroups]
    have hk : ∀ k : Clk, k.src = s.clk.src → ∀ g : Nat, clkSrc k g = clkSrc s.clk g := fun k h g => congrArg (bankGet 2 · g) h
    simp only [List.mem_filter, mem_groupList, true_and, beq_iff_eq]
    rw [hk _ (by cases c <;> rfl)]

/-! The rows of class 0x9 on clocks. -/

theorem needsIod_ready {s : State} {p : Port} {k : Pkt} {c o n : Nat} (h : Ready s p c o n k) (hi : p ≠ .host → iodReady s = true)
    (l : List Pkt) : needsIod (setWaiting s p l) k = false := by
  have hp := h.alone.port
  unfold needsIod
  rw [hp]
  rcases p with _ | i
  · rfl
  · show (!iodReady (setWaiting s (.mgt i) l)) = false
    rw [show iodReady (setWaiting s (.mgt i) l) = iodReady s by cases i <;> rfl, hi (by simp)]
    rfl

theorem clk_setWaiting (s : State) (p : Port) (l : List Pkt) : (setWaiting s p l).clk = s.clk := by
  rcases p with _ | _ | _ <;> rfl

theorem clkStatus_answers {s : State} {p : Port} {k : Pkt} (h : Ready s p 9 0 0 k) (hi : p ≠ .host → iodReady s = true) :
    exec (.clkStatus p) s = .next (answered p k stOk ([clkSrcstat s.clk, clkSrcsel s.clk] ++ (List.range 13).map (gateStat s.clk)) (took s p k)) := by
  rw [took_alone h.alone]
  refine onPort_answers h (ofRow_ready h rfl rfl rfl) (lenOk_ready h) rfl (fun l => ?_)
  show (if needsIod (setWaiting s p l) k then _ else _) = _
  rw [needsIod_ready h hi, if_neg Bool.false_ne_true, clk_setWaiting]

theorem srcCode_lt (c : ClkSrc) : srcCode c ≠ 3 := by
  cases c <;> decide

theorem codeSrc_srcCode (c : ClkSrc) : codeSrc (srcCode c) = c := by
  cases c <;> rfl

section

variable {s : State} {p : Port} {k : Pkt} {c : ClkSrc}

theorem clkSelect_refuses (h : Ready s p 9 1 1 k) (h1 : fld (par k 0) 31 18 = 0) (h2 : fld (par k 0) 15 13 = 0)
    (hc : fld (par k 0) 17 16 = srcCode c) (hr : srcReady s.clk c = false) :
    exec (.clkSelect p) s = .next (refused p k stNotReady 11 0xFFFF (took s p k)) := by
  refine onPort_refuses h (ofRow_ready h rfl rfl rfl) (lenOk_ready h) rfl ?_
  simp [rowClkSelect, opDef, h1, h2, hc, srcCode_lt, codeSrc_srcCode, hr]

/-- The registers once the groups that parameter 0 names have moved. -/
def selected (k : Pkt) (c : Clk) : Clk :=
  (groupList.filter (fun g => (fld (par k 0) 12 0).testBit g.val)).foldl (fun c g => moveGroup c g (fld (par k 0) 17 16)) c

theorem clkSelect_answers (h : Ready s p 9 1 1 k) (h1 : fld (par k 0) 31 18 = 0) (h2 : fld (par k 0) 15 13 = 0)
    (hc : fld (par k 0) 17 16 = srcCode c) (hr : srcReady s.clk c = true) (hm : fld (par k 0) 12 0 ≠ 0) :
    exec (.clkSelect p) s = .next (answered p k stOk [clkSrcsel (selected k s.clk)] (setWaiting (setClk s (selected k)) p [])) := by
  refine onPort_answers h (ofRow_ready h rfl rfl rfl) (lenOk_ready h) rfl (fun l => ?_)
  have hs : ∀ f, setClk (setWaiting s p l) f = setWaiting (setClk s f) p l := fun f => by rcases p with _ | _ | _ <;> rfl
  have hx : srcReady s.clk (codeSrc (fld (par k 0) 17 16)) = true := by rw [hc, codeSrc_srcCode, hr]
  have h3 : fld (par k 0) 17 16 ≠ 3 := hc ▸ srcCode_lt c
  simp only [rowClkSelect, opDef, h1, h2, h3, hm, ne_eq, not_true, decide_false, Bool.or_self, Bool.false_eq_true, if_false, hs,
    clk_setWaiting, hx]
  rw [Bool.not_true, if_neg Bool.false_ne_true]
  rfl

theorem testBit_fld (w : Word) (g : Fin 13) : (fld w 12 0).testBit g = tbit w g := by
  simp only [fld, bits, tbit, Nat.shiftRight_zero]
  rw [Nat.testBit_mod_two_pow, decide_eq_true (show g.val < 12 - 0 + 1 by omega), Bool.true_and]

theorem clkSrc_selected (hc : fld (par k 0) 17 16 = srcCode c) (m : Clk) (g : Fin 13) :
    clkSrc (selected k m) g = if tbit (par k 0) g then srcCode c else clkSrc m g := by
  unfold selected
  rw [clkSrc_moveGroups, hc]
  simp only [List.mem_filter, mem_groupList, true_and, testBit_fld]

end

theorem setGate_setWaiting (s : State) (p : Port) (l : List Pkt) (g m : Nat) (b : Bool) :
    setGate (setWaiting s p l) g m b = setWaiting (setGate s g m b) p l := by
  rcases p with _ | _ | _ <;> rfl

/-- The state with the gate that parameter 0 names closed or open. -/
def withGate (s : State) (k : Pkt) (b : Bool) : State := setGate s (gateGroup k) (gateLeaf k) b

section

variable {s : State} {p : Port} {k : Pkt}

theorem dieHeld_setWaiting (s : State) (p : Port) (l : List Pkt) (n : Nat) : dieHeld (setWaiting s p l) n = dieHeld s n := by
  rcases p with _ | _ | _ <;> rfl

theorem gateInUse_setWaiting (s : State) (p : Port) (l : List Pkt) (g m : Nat) : gateInUse (setWaiting s p l) g m = gateInUse s g m := by
  rcases p with _ | _ | _ <;> rfl

theorem clkGateOpen_answers (h : Ready s p 9 2 1 k) (hb : gateBad k = false) (ho : isOpen k = true)
    (hroot : gateLeaf k ≠ 0 → gateClosed s.clk (gateGroup k) 0 = false) (hc : gateClosed s.clk (gateGroup k) (gateLeaf k) = true)
    (hh : gateLeaf k = 0 → dieHeld s (gateGroup k) = false) :
    exec (.clkGateOpen p) s = .next (answered p k stOk [gateStat (withGate s k false).clk (gateGroup k)] (setWaiting (withGate s k false) p [])) := by
  refine onPort_answers h (ofRow_ready h rfl rfl ho) (lenOk_ready h) rfl (fun l => ?_)
  have hr : (decide (gateLeaf k ≠ 0) && gateClosed s.clk (gateGroup k) 0) = false := by simpa using hroot
  have hd : (decide (gateLeaf k = 0) && dieHeld s (gateGroup k)) = false := by simpa using hh
  simp only [rowClkGateOpen, opDef, hb, clk_setWaiting, hr, hc, dieHeld_setWaiting, hd, setGate_setWaiting, Bool.false_eq_true, Bool.not_true,
    if_false]
  rfl

theorem clkGateOpen_refuses (h : Ready s p 9 2 1 k) (hb : gateBad k = false) (ho : isOpen k = true) (h0 : gateLeaf k = 0)
    (hc : gateClosed s.clk (gateGroup k) 0 = true) (hh : dieHeld s (gateGroup k) = true) :
    exec (.clkGateOpen p) s = .next (refused p k stNotReady 11 0xFFFF (took s p k)) := by
  refine onPort_refuses h (ofRow_ready h rfl rfl ho) (lenOk_ready h) rfl ?_
  simp [rowClkGateOpen, opDef, hb, h0, hc, hh]

theorem clkGateClose_refuses (h : Ready s p 9 2 1 k) (hb : gateBad k = false) (ho : isOpen k = false)
    (hu : gateInUse s (gateGroup k) (gateLeaf k) = true) :
    exec (.clkGateClose p) s = .next (refused p k stRefusedInUse 11 0xFFFF (took s p k)) := by
  refine onPort_refuses h (ofRow_ready h rfl rfl (by simp [rowClkGateClose, opDef, ho])) (lenOk_ready h) rfl ?_
  simp [rowClkGateClose, opDef, hb, hu]

theorem clkGateClose_answers (h : Ready s p 9 2 1 k) (hb : gateBad k = false) (ho : isOpen k = false)
    (hu : gateInUse s (gateGroup k) (gateLeaf k) = false) (hc : gateClosed s.clk (gateGroup k) (gateLeaf k) = false) :
    exec (.clkGateClose p) s = .next (answered p k stOk [gateStat (withGate s k true).clk (gateGroup k)] (setWaiting (withGate s k true) p [])) := by
  refine onPort_answers h (ofRow_ready h rfl rfl (by simp [rowClkGateClose, opDef, ho])) (lenOk_ready h) rfl (fun l => ?_)
  simp only [rowClkGateClose, opDef, hb, gateInUse_setWaiting, hu, clk_setWaiting, hc, setGate_setWaiting, Bool.false_eq_true, if_false]
  rfl

end

theorem gateClosed_opened (s : State) (k : Pkt) (g l : Nat) : gateClosed (withGate s k false).clk g l =
    (gateClosed s.clk g l && !(g == gateGroup k && l == gateLeaf k)) := by
  rw [withGate, gateClosed_setGate]
  by_cases hg : g = gateGroup k <;> by_cases hl : l = gateLeaf k <;> simp [hg, hl]

theorem gateClosed_shut (s : State) (k : Pkt) (g l : Nat) : gateClosed (withGate s k true).clk g l =
    (gateClosed s.clk g l || (g == gateGroup k && l == gateLeaf k)) := by
  rw [withGate, gateClosed_setGate]
  by_cases hg : g = gateGroup k <;> by_cases hl : l = gateLeaf k <;> simp [hg, hl]

/-- A packet that changes the clock registers alone. -/
theorem answered_clk {s : State} {p : Port} {k : Pkt} {x : Instr} {m : Clk} {f : Clk → Word} (h : Alone s p k)
    (hx : exec x s = .next (answered p k stOk [f m] (setWaiting { s with clk := m } p []))) :
    ∃ t, exec x s = .next (answered p k stOk [f t.clk] t) ∧ t.clk = m ∧ t = { took s p k with clk := t.clk } := by
  refine ⟨setWaiting { s with clk := m } p [], by rw [clk_setWaiting]; exact hx, clk_setWaiting _ p [], ?_⟩
  rw [took_alone h]
  rcases p with _ | _ | _ <;> rfl

/-- Settles O57: groups move by their sources, gates by the bit of their leaf. -/
theorem clocksAndGates : Obligations.ClocksAndGates := by
  refine ⟨fun s c hr => ?_, fun s c hr hc => ?_, fun _ _ => rfl, fun s p k h hi => clkStatus_answers h hi,
    fun s p k c h h1 h2 hc => ⟨clkSelect_refuses h h1 h2 hc, fun hr hm => ?_⟩, fun s p k h hb ho hroot hc hh => ?_,
    fun s p k h hb ho h0 hc hh => clkGateOpen_refuses h hb ho h0 hc hh,
    fun s p k h hb ho => ⟨clkGateClose_refuses h hb ho, fun hu hc => ?_⟩⟩
  · obtain ⟨t, hx, ht, hd, hs⟩ := clockSourceLost_lost hr
    have hb := ht.bits
    simp only [sources, Prod.mk.injEq] at hb
    obtain ⟨-, -, -, ha, hb⟩ := hb
    refine ⟨t, hx, by rw [ht.ready, srcReady_unready]; simp, fun d hd => by rw [ht.ready, srcReady_unready]; simp [hd],
      fun g => by rw [ht.src g, firstReady_of_ready ht.ready], fun h => by rw [ha, if_pos h], fun h => by rw [hb, if_pos h], hd, hs⟩
  · obtain ⟨m, hx, hm, hg⟩ := clockSourceReady_moves hr hc
    exact ⟨{ s with clk := m }, hx, hm, hg, rfl⟩
  · obtain ⟨t, hx, ht, hf⟩ := answered_clk h.alone (clkSelect_answers h h1 h2 hc hr hm)
    exact ⟨t, hx, fun g => by rw [ht, clkSrc_selected hc], hf⟩
  · obtain ⟨t, hx, ht, hf⟩ := answered_clk (f := fun c => gateStat c (gateGroup k)) h.alone (clkGateOpen_answers h hb ho hroot hc hh)
    exact ⟨t, hx, fun g l => by rw [ht, gateClosed_opened], hf⟩
  · obtain ⟨t, hx, ht, hf⟩ := answered_clk (f := fun c => gateStat c (gateGroup k)) h.alone (clkGateClose_answers h hb ho hu hc)
    exact ⟨t, hx, fun g l => by rw [ht, gateClosed_shut], hf⟩

end Sys2Proof.Proofs

/-! Logs, notices and the flash of the islands (13 R465; 14 R512-R518, Table 14-7; 13 R493; O60). -/

namespace Sys2Proof.Proofs

open Sys2Proof.Machine Sys2Proof.Safety Sys2Proof.Laws

/-! What a row reads of the islands does not depend on the packets that wait. -/

theorem isl_setWaiting (s : State) (p : Port) (l : List Pkt) (i : Isl) : isl (setWaiting s p l) i = isl s i := by
  rcases p with _ | _ | _ <;> cases i <;> rfl

theorem modIsl_setWaiting (s : State) (p : Port) (l : List Pkt) (i : Isl) (f : Island → Island) :
    modIsl (setWaiting s p l) i f = setWaiting (modIsl s i f) p l := by
  rcases p with _ | _ | _ <;> cases i <;> rfl

theorem ramFails_setWaiting (s : State) (p : Port) (l : List Pkt) (i : Isl) :
    ramFails (setWaiting s p l) i = setWaiting (ramFails s i) p l := by
  simp only [ramFails, failIsl, modIsl_setWaiting, logF_setWaiting]

theorem partialUnless_eq (b : Bool) : partialUnless b = if b = true then stOk else stOkPartial := rfl

/-! Commands of the islands. -/

section

variable {s : State} {i : Isl} {q : Nat × Entry} {r : List (Nat × Entry)}

theorem mgtNotice_sends (hn : (isl s i).notices = q :: r) (hi : inSvc (isl s i) = true) :
    exec (.mgtNotice i) s = .next (mgtSend (modIsl s i (fun x => { x with notices := r })) i (noticeWords q)) := by
  show execMgtNotice i s = _
  unfold execMgtNotice
  rw [hn]
  dsimp only
  rw [if_pos hi]

theorem logbookProgram_takes (hn : (isl s i).pendBook = q :: r) (hi : inSvc (isl s i) = true) : ∃ f, exec (.logbookProgram i) s =
    .next (modIsl s i f) ∧ f (isl s i) = { isl s i with pendBook := r, logbook := (q :: (isl s i).logbook).take 4096 } := by
  refine ⟨_, rfl, ?_⟩
  dsimp only
  rw [hn]
  dsimp only
  rw [if_pos hi]

end

/-! The opcodes of class 0xC. -/

section

variable {s : State} {p : Port} {k : Pkt} {i : Isl}

/-- A log that is in reach answers with its entries of the range (Table 14-7). -/
theorem logVerdict_answers {l : List (Nat × Entry)} {first count idx : Nat} (hp : k.port ≠ .host → count ≤ 46) (hi : inSvc (isl s i) = true)
    (h1 : 1 ≤ count) : logVerdict s k i l first count idx =
      .answer (if (logRange l first count).length = count then stOk else stOkPartial) ((logRange l first count).flatMap entryWords) s := by
  have hc : (decide (k.port ≠ .host) && decide (46 < count)) = false := by
    by_cases hk : k.port = .host
    · simp [hk]
    · simp [hk, hp hk]
  have h0 : count ≠ 0 := by omega
  simp only [logVerdict, hc, hi, h0, partialUnless_eq, decide_eq_true_eq, Bool.false_eq_true, Bool.not_true, if_false]

theorem flatMap_entryWords_ne_nil {l : List (Nat × Entry)} (h : l ≠ []) : l.flatMap entryWords ≠ [] := by
  cases l with
  | nil => exact absurd rfl h
  | cons q r =>
    rw [List.flatMap_cons]
    simp [entryWords, sealW]

theorem port_bound (h : Alone s p k) {n : Nat} (hp : p ≠ .host → n ≤ 46) : k.port ≠ .host → n ≤ 46 := by
  rw [h.port]
  exact hp

/-- The status of a reply with a range of a log: whether the log holds all of it. -/
def rangeStatus (l : List (Nat × Entry)) (first count : Nat) : Byte :=
  if (logRange l first count).length = count then stOk else stOkPartial

theorem rowDiagLogRead_run (hz : fld (par k 0) 30 0 = 0) (hb : islBit (par k 0) = i) (h1 : parN k 1 ≤ 16383) (h2 : 1 ≤ parN k 2)
    (h3 : parN k 2 ≤ 2046) (hp : k.port ≠ .host → parN k 2 ≤ 46) (hi : inSvc (isl s i) = true) (fault : Bool) (l : List Pkt) :
    (rowDiagLogRead fault).run (setWaiting s p l) k =
      if (fault && decide ((logRange (isl s i).flog (parN k 1) (parN k 2)).flatMap entryWords ≠ [])) = true then
        .answer stNotReady [execDetail] (setWaiting (ramFails s i) p l)
      else .answer (rangeStatus (isl s i).flog (parN k 1) (parN k 2)) ((logRange (isl s i).flog (parN k 1) (parN k 2)).flatMap entryWords)
        (setWaiting s p l) := by
  have h1' : ¬16383 < parN k 1 := by omega
  have h3' : ¬2046 < parN k 2 := by omega
  dsimp only [rowDiagLogRead, opDef]
  rw [hb, if_neg (by simp [hz]), if_neg h1', if_neg h3', logVerdict_answers hp (by rw [isl_setWaiting]; exact hi) h2, isl_setWaiting]
  dsimp only
  rw [ramFails_setWaiting]
  rfl

theorem diagLogRead_fails (h : Ready s p 12 0 3 k) (hz : fld (par k 0) 30 0 = 0) (hb : islBit (par k 0) = i) (h1 : parN k 1 ≤ 16383)
    (h2 : 1 ≤ parN k 2) (h3 : parN k 2 ≤ 2046) (hp : p ≠ .host → parN k 2 ≤ 46) (hi : inSvc (isl s i) = true)
    (hl : parN k 1 < (isl s i).flog.length) :
    exec (.diagLogRead p true) s = .next (answered p k stNotReady [execDetail] (ramFails (took s p k) i)) := by
  rw [took_alone h.alone, ramFails_setWaiting]
  refine onPort_answers h (ofRow_ready h rfl rfl rfl) (lenOk_ready h) rfl (fun l => ?_)
  have hne : logRange (isl s i).flog (parN k 1) (parN k 2) ≠ [] := by
    rw [← List.length_pos_iff_ne_nil, logRange, List.length_take, List.length_drop]
    omega
  rw [rowDiagLogRead_run hz hb h1 h2 h3 (port_bound h.alone hp) hi, if_pos (by simpa using flatMap_entryWords_ne_nil hne)]

theorem diagLogRead_answers (h : Ready s p 12 0 3 k) (hz : fld (par k 0) 30 0 = 0) (hb : islBit (par k 0) = i) (h1 : parN k 1 ≤ 16383)
    (h2 : 1 ≤ parN k 2) (h3 : parN k 2 ≤ 2046) (hp : p ≠ .host → parN k 2 ≤ 46) (hi : inSvc (isl s i) = true) :
    exec (.diagLogRead p false) s = .next (answered p k (rangeStatus (isl s i).flog (parN k 1) (parN k 2))
      ((logRange (isl s i).flog (parN k 1) (parN k 2)).flatMap entryWords) (took s p k)) := by
  rw [took_alone h.alone]
  refine onPort_answers h (ofRow_ready h rfl rfl rfl) (lenOk_ready h) rfl (fun l => ?_)
  rw [rowDiagLogRead_run hz hb h1 h2 h3 (port_bound h.alone hp) hi, Bool.false_and, if_neg Bool.false_ne_true]

theorem sisLogbook_answers (h : Ready s p 12 5 2 k) (hz : fld (par k 0) 30 0 = 0) (hb : islBit (par k 0) = i) (h1 : fld (par k 1) 31 28 = 0)
    (h2 : fld (par k 1) 15 10 = 0) (h3 : 1 ≤ fld (par k 1) 9 0) (hp : p ≠ .host → fld (par k 1) 9 0 ≤ 46) (hi : inSvc (isl s i) = true) :
    exec (.sisLogbook p) s = .next (answered p k (rangeStatus (isl s i).logbook (fld (par k 1) 27 16) (fld (par k 1) 9 0))
      ((logRange (isl s i).logbook (fld (par k 1) 27 16) (fld (par k 1) 9 0)).flatMap entryWords) (took s p k)) := by
  rw [took_alone h.alone]
  refine onPort_answers h (ofRow_ready h rfl rfl rfl) (lenOk_ready h) rfl (fun l => ?_)
  dsimp only [rowSisLogbook, opDef]
  rw [hb, if_neg (by simp [hz]), if_neg (by simp [h1, h2]), isl_setWaiting,
    logVerdict_answers (port_bound h.alone hp) (by rw [isl_setWaiting]; exact hi) h3]
  rfl

/-! The counters. -/

theorem counterWords_setWaiting (s : State) (p : Port) (l : List Pkt) : counterWords (setWaiting s p l) = counterWords s := by
  rcases p with _ | _ | _ <;> rfl

theorem diagCounters_answers (h : Ready s p 12 1 0 k) (hi : p ≠ .host → iodReady s = true) :
    exec (.diagCounters p) s = .next (answered p k stOk (counterWords s) (took s p k)) := by
  rw [took_alone h.alone]
  refine onPort_answers h (ofRow_ready h rfl rfl rfl) (lenOk_ready h) rfl (fun l => ?_)
  show (if needsIod (setWaiting s p l) k then _ else _) = _
  rw [needsIod_ready h hi, if_neg Bool.false_ne_true, counterWords_setWaiting]

/-- The self-test words: those of the engines of dies in service. -/
def selftestWords (s : State) : List Word :=
  (List.range 96).map (fun g => if dieInSvc s (dieOf g) then teStest s.stg.stage (eng s g) else 0)

/-- Every die is in service. -/
def allDies (s : State) : Bool := dieList.all (fun n => dieInSvc s n.val)

theorem allDies_of (h : ∀ n : DieId, dieInSvc s n = true) : allDies s = true := List.all_eq_true.2 (fun n _ => h n)

theorem diagSelftest_answers (h : Ready s p 12 2 0 k) (hi : p ≠ .host → iodReady s = true) :
    exec (.diagSelftest p) s = .next (answered p k (partialUnless (allDies s)) (selftestWords s) (took s p k)) := by
  rw [took_alone h.alone]
  refine onPort_answers h (ofRow_ready h rfl rfl rfl) (lenOk_ready h) rfl (fun l => ?_)
  have ha : allDies (setWaiting s p l) = allDies s := by rcases p with _ | _ | _ <;> rfl
  have hw : selftestWords (setWaiting s p l) = selftestWords s := by rcases p with _ | _ | _ <;> rfl
  show (if needsIod (setWaiting s p l) k then _ else Verdict.answer (partialUnless (allDies _)) (selftestWords _) _) = _
  rw [needsIod_ready h hi, if_neg Bool.false_ne_true, ha, hw]

theorem selftestWords_nth (g : EngId) (hg : dieInSvc s (dieOf g) = true) : nth (selftestWords s) g.val = teStest s.stg.stage (eng s g) := by
  simp [nth, selftestWords, List.getD_eq_getElem?_getD, g.isLt, hg]

theorem sisStatus_answers (h : Ready s p 12 3 0 k) : exec (.sisStatus p) s =
    .next (answered p k (if inSvc s.sia && inSvc s.sib then stOk else stOkPartial)
      ((if inSvc s.sia then sisWords s.sia else List.replicate 6 0) ++ if inSvc s.sib then sisWords s.sib else List.replicate 6 0)
      (took s p k)) := by
  rw [took_alone h.alone]
  refine onPort_answers h (ofRow_ready h rfl rfl rfl) (lenOk_ready h) rfl (fun l => ?_)
  rcases p with _ | _ | _ <;> rfl

/-! Operations of the flash (R493, R545). -/

theorem isErase_of (h : fld (par k 0) 1 0 = 1) : isErase k = true := by
  rw [isErase, h]
  rfl

theorem startFlash_later {bs : List Byte} (hb : islBit (par k 0) = i) (hi : inSvc (isl s i) = true) (hf : (isl s i).flashOp = none)
    (he : fld (par k 0) 1 0 = 2 → bs ≠ []) (l : List Pkt) : startFlash (setWaiting s p l) k bs =
      .later (.flash i) (setWaiting (modIsl s i (fun x => { x with flashOp := some (fld (par k 0) 1 0, integratorBase + parN k 1, bs) })) p l) := by
  have hne : (decide (fld (par k 0) 1 0 = 2) && bs.isEmpty) = false := by
    by_cases h2 : fld (par k 0) 1 0 = 2
    · simpa [h2] using he h2
    · simp [h2]
  simp only [startFlash, hb, isl_setWaiting, hi, hf, hne, Option.isSome_none, Bool.not_true, Bool.or_self, Bool.false_eq_true, if_false,
    modIsl_setWaiting]

theorem flashRow_open {n : Nat} {o : OpDef} (h : Ready s p 12 4 (3 + n) k) (hl : o.form.lenOk = flashLen) (hx : o.ctxOk = ctxKnown)
    (hn : parN k 2 = 4 * n) : gate s o k = none := by
  refine gate_ready h ?_ hx
  rw [hl, flashLen, h.len, hn]
  simp

theorem sisFlashErase_defers (h : Ready s p 12 4 3 k) (h2 : parN k 2 = 0) (hb : flashBad k = none) (ho : fld (par k 0) 1 0 = 1)
    (hi : islBit (par k 0) = i) (hk : 65536 ≤ parN k 1) (hs : inSvc (isl s i) = true) (hf : (isl s i).flashOp = none) :
    exec (.sisFlashErase p) s = .next (deferred p k (.flash i)
      (setWaiting (modIsl s i (fun x => { x with flashOp := some (1, integratorBase + parN k 1, List.replicate 65536 0xFF) })) p [])) := by
  refine onPort_defers h (ofRow_ready h rfl rfl (isErase_of ho)) (flashRow_open (n := 0) h rfl rfl h2) (fun l => ?_)
  have hk' : ¬parN k 1 < 65536 := by omega
  dsimp only [rowSisFlashErase, opDef]
  generalize List.replicate 65536 (0xFF : Byte) = bs
  rw [hb]
  dsimp only
  rw [if_neg hk', startFlash_later hi hs hf (fun h => absurd (ho.symm.trans h) (by decide)), ho]

theorem sisFlashErase_refuses (h : Ready s p 12 4 3 k) (h2 : parN k 2 = 0) (hb : flashBad k = none) (ho : fld (par k 0) 1 0 = 1)
    (hk : parN k 1 < 65536) : exec (.sisFlashErase p) s = .next (refused p k stFirewall 10 5 (took s p k)) := by
  refine onPort_refuses h (ofRow_ready h rfl rfl (isErase_of ho))
    (by show flashLen k = true; simp [flashLen, h.len, h2]) rfl ?_
  dsimp only [rowSisFlashErase, opDef]
  generalize List.replicate 65536 (0xFF : Byte) = bs
  rw [hb]
  dsimp only
  rw [if_pos hk]

/-- The bytes that a SIS_FLASH programs. -/
def flashBytes (k : Pkt) (n : Nat) : List Byte := (wordsBytes (parsFrom k 3)).take n

theorem sisFlashProgram_defers {m : Nat} (h : Ready s p 12 4 (3 + m) k) (h2 : parN k 2 = 4 * m) (hm : 1 ≤ m) (hb : flashBad k = none)
    (ho : fld (par k 0) 1 0 = 2) (hi : islBit (par k 0) = i)
    (hk : 65536 ≤ parN k 1 ∨ keyProgramOk (isl s i) (parN k 1) (flashBytes k (4 * m)) = true) (hs : inSvc (isl s i) = true)
    (hf : (isl s i).flashOp = none) : exec (.sisFlashProgram p) s = .next (deferred p k (.flash i)
      (setWaiting (modIsl s i (fun x => { x with flashOp := some (2, integratorBase + parN k 1, flashBytes k (4 * m)) })) p [])) := by
  refine onPort_defers h (ofRow_ready h rfl rfl (by simp [rowSisFlashProgram, opDef, isErase, ho])) (flashRow_open h rfl rfl h2) (fun l => ?_)
  have hk' : (decide (parN k 1 < 65536) && !keyProgramOk (isl s i) (parN k 1) (flashBytes k (4 * m))) = false := by
    rcases hk with hk | hk
    · simp [show ¬parN k 1 < 65536 by omega]
    · simp [hk]
  have hne : flashBytes k (4 * m) ≠ [] := by
    have hz := h.size
    rw [← List.length_pos_iff_ne_nil, flashBytes, List.length_take, wordsBytes_length, parsFrom_length]
    omega
  dsimp only [rowSisFlashProgram, opDef]
  rw [hb, h2, isl_setWaiting, hi]
  dsimp only
  rw [show (wordsBytes (parsFrom k 3)).take (4 * m) = flashBytes k (4 * m) from rfl, hk', if_neg Bool.false_ne_true,
    startFlash_later hi hs hf (fun _ => hne), ho]

end

theorem flashOperationEnd_ends {s : State} {i : Isl} {o off : Nat} {bs : List Byte} (h : (isl s i).flashOp = some (o, off, bs)) :
    exec (.flashOperationEnd i) s = .next (completeDefers
      (modIsl s i (fun x => { x with flashOp := none, flash := memWr x.flash off bs })) (.flash i) stOk [toW bs.length]) := by
  show execFlashOperationEnd i s = _
  unfold execFlashOperationEnd
  rw [h]

/-- A packet that is deferred with one island changed. -/
theorem deferred_modIsl {s : State} {p : Port} {k : Pkt} {x : Instr} {i : Isl} {w : DefKind} {f : Island → Island} (h : Alone s p k)
    (hx : exec x s = .next (deferred p k w (setWaiting (modIsl s i f) p []))) : ∃ u, exec x s = .next (deferred p k w u) ∧
      isl u i = f (isl s i) ∧ isl u (otherIsl i) = isl s (otherIsl i) ∧ u = { took s p k with sia := u.sia, sib := u.sib } := by
  refine ⟨_, hx, by rw [isl_setWaiting, isl_modIsl_self], by rw [isl_setWaiting, isl_modIsl_other], ?_⟩
  rw [took_alone h]
  rcases p with _ | _ | _ <;> cases i <;> rfl

/-- Settles O60: each command and opcode from its own lemma; what an answer reads is the state's log from its first entry. -/
theorem logsAndFlash : Obligations.LogsAndFlash := by
  refine ⟨fun s i q r hn hi => ?_, fun s i q r hn hi => ?_, fun s n m link hd => ?_, fun s p k i h hz hb h1 h2 h3 hp hi => ⟨fun hl => ?_, ?_⟩,
    fun s p k i h hz hb h1 h2 h3 hp hi => sisLogbook_answers h hz hb h1 h2 h3 hp hi, fun s p k h hi => diagCounters_answers h hi,
    fun s p k h hi => ⟨_, _, diagSelftest_answers h hi, by rw [selftestWords, List.length_map, List.length_range],
      fun ha => by rw [allDies_of ha]; rfl, fun g hg => selftestWords_nth g hg⟩, fun s p k h => sisStatus_answers h,
    fun s p k i h h2 hb ho hi hk hs hf => deferred_modIsl h.alone (sisFlashErase_defers h h2 hb ho hi hk hs hf),
    fun s p k h h2 hb ho hk => sisFlashErase_refuses h h2 hb ho hk,
    fun s p k i m h h2 hm hb ho hi hk hs hf => deferred_modIsl h.alone (sisFlashProgram_defers h h2 hm hb ho hi hk hs hf),
    fun s i o off bs hf => ⟨_, flashOperationEnd_ends hf, ?_, ?_, ?_, ?_⟩⟩
  · refine ⟨_, mgtNotice_sends hn hi, ?_⟩
    cases i <;> exact ⟨rfl, rfl, rfl, rfl, rfl, rfl⟩
  · obtain ⟨f, hx, hf⟩ := logbookProgram_takes hn hi
    exact ⟨_, hx, by rw [isl_modIsl_self, hf], by rw [isl_modIsl_other], by cases i <;> rfl⟩
  · refine ⟨_, by show execDecisionDueNotice (.die n) m s link = _; unfold execDecisionDueNotice; dsimp only; rw [if_pos hd], logF_dies .., logF_engines .., ?_⟩
    exact fun i hi => logged_logF hi (fun e h1 h2 _ => ⟨h1, h2⟩)
  · exact diagLogRead_fails h hz hb h1 h2 h3 hp hi hl
  · exact diagLogRead_answers h hz hb h1 h2 h3 hp hi
  · rw [isl_completeDefers, isl_modIsl_self]
  · rw [isl_completeDefers, isl_modIsl_other]
  · exact (congrArg State.dies (offPorts_completeDefers _ _ _ _) :).trans (dies_modIsl ..)
  · exact drew_of_defers (by cases i <;> rfl) (by cases i <;> rfl) (drew_completeDefers _ _ _ _)

end Sys2Proof.Proofs

/-! Tokens, attestation and firmware updates (14 R521, R522; 17 R571-R576; O59). -/

namespace Sys2Proof.Proofs

open Sys2Proof.Machine Sys2Proof.Safety Sys2Proof.Laws

/-! Verdicts whose state the row has changed. -/

/-- A ready packet that its row refuses with a changed state draws the refusal from there. -/
theorem onPort_refusesIn {s t : State} {p : Port} {c op n : Nat} {k : Pkt} {o : OpDef} {st : Byte} {step idx : Nat}
    (h : Ready s p c op n k) (ho : ofRow o k = true) (hl : o.form.lenOk k = true) (hx : o.ctxOk = ctxKnown)
    (hr : o.run s k = .refuseIn st step idx t) (ht : Alone t p k) : onPort o p s = .next (refused p k st step idx (took t p k)) := by
  have hrow : rowsWith rowOf o k = some o := by simp [rowsWith, ho]
  have hk : checkPkt (rowsWith rowOf o) s k = setWaiting t p [{ k with fate := .refused st step 0 idx }] := by
    simp [checkPkt, h.alone.fate, hrow, gate_ready h hl hx, hr, settle, h.alone.port, ht.only]
  have hc : checkAll (rowsWith rowOf o) s p = refused p k st step idx (took t p k) := by
    rw [checkAll, h.alone.only]
    show afterPkt (checkPkt (rowsWith rowOf o) s k) p = _
    rw [hk, afterPkt_refused ht]
  obtain ⟨hw, hi⟩ := refuse_took_waiting ht st step idx
  have he : refused p k st step idx (took t p k) = refuse (took t p k) k st step 0 idx := afterPkt_empty hw hi
  rw [onPort_alone h.alone o ho]
  unfold turn
  rw [hc, he]
  simp [hw, firstBest]

/-- A ready packet that its row defers, from the state the row leaves, whatever that makes of the port. -/
theorem onPort_defersFrom {s t : State} {p : Port} {c op n : Nat} {k : Pkt} {o : OpDef} {w : DefKind} (h : Ready s p c op n k)
    (ho : ofRow o k = true) (hl : o.form.lenOk k = true) (hx : o.ctxOk = ctxKnown) (hs : ∃ u, o.run s k = .later w u)
    (hr : o.run (setWaiting s p [{ k with fate := .accepted }]) k = .later w t) : onPort o p s = .next (deferred p k w (leave t k)) := by
  obtain ⟨u, hu⟩ := hs
  rw [onPort_ready h o ho (gate_ready h hl hx) (by simp [hu]) (by simp [hu]), hr, afterPkt_later]

/-! The test token (R522). -/

/-- The entry of a token. -/
def tokenEntry (s : State) (st : Byte) : State := logF s { cls := 0x17, unit := unitModule, status := st }

/-- The test mode: every bypass closes. -/
def testModeOn (s : State) : State :=
  let t := bothEdge s (fun e => moveBypass e true)
  { t with iod := { t.iod with testMode := true } }

section

variable {s : State} {p : Port} {k : Pkt}

theorem tokenRefusal_setWaiting (s : State) (p : Port) (l : List Pkt) (k : Pkt) :
    tokenRefusal (setWaiting s p l) k = tokenRefusal s k := by
  rcases p with _ | _ | _ <;> rfl

theorem tokenEntry_setWaiting (s : State) (p : Port) (l : List Pkt) (st : Byte) :
    tokenEntry (setWaiting s p l) st = setWaiting (tokenEntry s st) p l := logF_setWaiting ..

theorem testModeOn_setWaiting (s : State) (p : Port) (l : List Pkt) : testModeOn (setWaiting s p l) = setWaiting (testModeOn s) p l := by
  rcases p with _ | _ | _ <;> rfl

theorem secToken_answers (h : Ready s p 10 4 40 k) (hr : tokenRefusal s k = none) :
    exec (.secToken p) s = .next (answered p k stOk [] (setWaiting (testModeOn (tokenEntry s stOk)) p [])) := by
  refine onPort_answers h (ofRow_ready h rfl rfl rfl) (lenOk_ready h) rfl (fun l => ?_)
  rw [← testModeOn_setWaiting, ← tokenEntry_setWaiting]
  dsimp only [rowSecToken, opDef]
  rw [tokenRefusal_setWaiting, hr]
  rfl

theorem secToken_refuses (h : Ready s p 10 4 40 k) {st : Byte} {a b : Nat} (hr : tokenRefusal s k = some (st, a, b)) :
    exec (.secToken p) s = .next (refused p k st a b (took (tokenEntry s st) p k)) := by
  refine onPort_refusesIn h (ofRow_ready h rfl rfl rfl) (lenOk_ready h) rfl ?_ (alone_logF h.alone _)
  dsimp only [rowSecToken, opDef]
  rw [hr]
  rfl

theorem logged_tokenEntry {i : Isl} (hi : inSvc (isl s i) = true) (st : Byte) :
    logged (tokenEntry s st) i (fun q => q.cls = 0x17 ∧ q.status = st) :=
  logged_logF hi (fun _ h1 _ h3 => ⟨h1, h3⟩)

theorem moveBypass_closes (e : RingEdge) : (moveBypass e true).bypass = if e.bypass = 1 then 1 else 2 := by
  unfold moveBypass
  rw [if_pos rfl]
  split <;> simp [*]

theorem secToken_opens (h : Ready s p 10 4 40 k) (hr : tokenRefusal (took s p k) k = none) :
    ∃ t, exec (.secToken p) s = .next (answered p k stOk [] t) ∧ t.iod.testMode = true ∧
      (∀ e, (edge t e).bypass = (if (edge s e).bypass = 1 then 1 else 2)) ∧ t.dies = s.dies ∧
      ∀ i, inSvc (isl s i) = true → logged t i (fun q => q.cls = 0x17 ∧ q.status = stOk) := by
  rw [took, tokenRefusal_setWaiting] at hr
  have hl := fun i hi => logged_tokenEntry (s := s) (i := i) hi stOk
  have he : ∀ e, edge (tokenEntry s stOk) e = edge s e := fun e => by cases e <;> simp [edge, tokenEntry]
  have hd : (tokenEntry s stOk).dies = s.dies := logF_dies ..
  refine ⟨_, secToken_answers h hr, ?_⟩
  generalize tokenEntry s stOk = u at hl he hd
  refine ⟨?_, fun e => ?_, ?_, fun i hi => ?_⟩
  · rcases p with _ | _ | _ <;> rfl
  · rw [← he, ← moveBypass_closes]
    rcases p with _ | _ | _ <;> cases e <;> rfl
  · rw [setWaiting_dies, ← hd]
    rfl
  · unfold logged
    rw [isl_setWaiting, show isl (testModeOn u) i = isl u i by cases i <;> rfl]
    exact hl i hi

theorem secToken_refused (h : Ready s p 10 4 40 k) {st : Byte} {a b : Nat} (hr : tokenRefusal (took s p k) k = some (st, a, b)) :
    ∃ t, exec (.secToken p) s = .next (refused p k st a b t) ∧ t.iod = s.iod ∧ t.edgeA = s.edgeA ∧ t.edgeB = s.edgeB ∧ t.dies = s.dies ∧
      ∀ i, inSvc (isl s i) = true → logged t i (fun q => q.cls = 0x17 ∧ q.status = st) := by
  rw [took, tokenRefusal_setWaiting] at hr
  have hs : ∀ (u : State) (l : List Pkt), (setWaiting u p l).iod = u.iod ∧ (setWaiting u p l).edgeA = u.edgeA ∧
      (setWaiting u p l).edgeB = u.edgeB := fun u l => by rcases p with _ | _ | _ <;> exact ⟨rfl, rfl, rfl⟩
  obtain ⟨h1, h2, h3⟩ := hs (tokenEntry s st) ((Machine.waiting (tokenEntry s st) p).erase k)
  refine ⟨_, secToken_refuses h hr, h1.trans (logF_iod ..), h2.trans (logF_edgeA ..), h3.trans (logF_edgeB ..),
    (setWaiting_dies ..).trans (logF_dies ..), fun i hi => ?_⟩
  unfold logged
  rw [took, isl_setWaiting]
  exact logged_tokenEntry hi st

end

/-! Attestation (R521). -/

/-- The report with its nonce noted at the island. -/
def attested (s : State) (i : Isl) : State := modIsl (fresh (fresh s).2).2 i (fun x => { x with nonce := some (openNonce s.free) })

/-- The words of an attestation. -/
def attestWords (s : State) (i : Isl) (k : Pkt) : List Word :=
  reportWords s i (parsFrom k 0) (openNonce s.free) ++ (List.range 33).map (openWord (s.free + 1))

theorem secAttest_answers {s : State} {p : Port} {k : Pkt} {i : Isl} (h : Ready s p 10 0 4 k) (hi : servingIsl s p = some i) :
    exec (.secAttest p) s = .next (answered p k stOk (attestWords s i k) (setWaiting (attested s i) p [])) := by
  refine onPort_answers h (ofRow_ready h rfl rfl rfl) (lenOk_ready h) rfl (fun l => ?_)
  have hs : servingIsl (setWaiting s p l) k.port = some i := by
    rw [h.alone.port, ← hi]
    rcases p with _ | j
    · rfl
    · cases j <;> rfl
  dsimp only [rowSecAttest, opDef]
  rw [hs]
  dsimp only
  rw [fresh_setWaiting, fresh_setWaiting, modIsl_setWaiting]
  rcases p with _ | j
  · rfl
  · cases j <;> rfl

/-- The words of an attestation before its challenge: the module, its time and its stage. -/
def attestHead (s : State) (i : Isl) : List Word :=
  [toW (at_ 1 16 + flagAt (i == .sib) 0)] ++ two (recordSerial (isl s i)) ++ [idWord1] ++ two s.vtime ++ two (knownStage s (isl s i))

theorem nonceWords_length (n : Nat) : (nonceWords n).length = 4 := rfl

theorem attestWords_eq (s : State) (i : Isl) (k : Pkt) : ∃ r, attestWords s i k =
    attestHead s i ++ (parsFrom k 0 ++ (nonceWords (openNonce s.free) ++ r)) := by
  unfold attestWords reportWords attestHead
  dsimp only
  simp only [List.append_assoc]
  exact ⟨_, rfl⟩

theorem attestWords_words {s : State} {i : Isl} {k : Pkt} (h : k.words.length = 9) :
    ((attestWords s i k).drop 8).take 4 = parsFrom k 0 ∧ ((attestWords s i k).drop 12).take 4 = nonceWords (openNonce s.free) := by
  have hc : (parsFrom k 0).length = 4 := by rw [parsFrom_length, h]
  have hn := nonceWords_length (openNonce s.free)
  obtain ⟨r, hr⟩ := attestWords_eq s i k
  have h8 : (attestWords s i k).drop 8 = parsFrom k 0 ++ (nonceWords (openNonce s.free) ++ r) := by
    rw [hr]
    exact List.drop_left' rfl
  have h12 : (attestWords s i k).drop 12 = nonceWords (openNonce s.free) ++ r := by
    rw [show 12 = 8 + 4 from rfl, ← List.drop_drop, h8, List.drop_left' hc]
  exact ⟨by rw [h8, List.take_left' hc], by rw [h12, List.take_left' hn]⟩

/-! Loading a firmware image (R571, R572). -/

section

variable {s : State} {p : Port} {k : Pkt}

theorem secFwOpen_answers {g : Nat} (h : Ready s p 10 1 3 k) (hb : badTarget k = false) (hg : fld (par k 0) 1 0 = g) (h0 : parN k 1 ≠ 0)
    (h1 : parN k 1 ≤ slotSize g) (h2 : minVersion s g ≤ parN k 2) (hl : s.iod.load = none) (ha : activating s = false)
    (ht : onTrial s = false) (hr : targetReady s g = true) : exec (.secFwOpen p) s = .next (answered p k stOk [] { took s p k with
      iod := { s.iod with load := some { target := g, len := parN k 1, version := par k 2, done := 0 } } }) := by
  have hs : ∀ l, minVersion (setWaiting s p l) g = minVersion s g ∧ (setWaiting s p l).iod.load = s.iod.load ∧
      activating (setWaiting s p l) = activating s ∧ onTrial (setWaiting s p l) = onTrial s ∧
      targetReady (setWaiting s p l) g = targetReady s g := fun l => by rcases p with _ | _ | _ <;> exact ⟨rfl, rfl, rfl, rfl, rfl⟩
  have hx : { took s p k with iod := { s.iod with load := some { target := g, len := parN k 1, version := par k 2, done := 0 } } } =
      setWaiting { s with iod := { s.iod with load := some { target := g, len := parN k 1, version := par k 2, done := 0 } } } p [] := by
    rw [took_alone h.alone]
    rcases p with _ | _ | _ <;> rfl
  rw [hx]
  refine onPort_answers h (ofRow_ready h rfl rfl rfl) (lenOk_ready h) rfl (fun l => ?_)
  obtain ⟨k1, k2, k3, k4, k5⟩ := hs l
  have n1 : ¬parN k 2 < minVersion s g := by omega
  have n2 : ¬slotSize g < parN k 1 := by omega
  dsimp only [rowSecFwOpen, opDef]
  rw [hb, hg, if_neg Bool.false_ne_true, if_neg h0, k1, if_neg n1, if_neg n2, k2, hl, k3, ha, k4, ht, if_neg (by decide), k5, hr,
    if_neg (by decide)]
  rcases p with _ | _ | _ <;> rfl

/-- The islands' flash with bytes of an image programmed. -/
def programmed (s : State) (g off : Nat) (bs : List Byte) : State :=
  forAll s (loadIsls g) (fun s i => modIsl s i (fun x => { x with flash := programLoad x.flash (loadSlot s g) off bs }))

theorem programmed_two (s : State) (off : Nat) (bs : List Byte) : programmed s 2 off bs =
    { s with
      sia := { s.sia with flash := programLoad s.sia.flash (loadSlot s 2) off bs }
      sib := { s.sib with flash := programLoad s.sib.flash (loadSlot s 2) off bs } } := rfl

theorem programmed_one {g : Nat} (h : g ≠ 2) (s : State) (off : Nat) (bs : List Byte) : programmed s g off bs =
    modIsl s (targetIsl g) (fun x => { x with flash := programLoad x.flash (loadSlot s g) off bs }) := by
  unfold programmed loadIsls
  rw [if_neg h]
  rfl

theorem isl_programmed (s : State) (g off : Nat) (bs : List Byte) (i : Isl) : isl (programmed s g off bs) i =
    if i ∈ loadIsls g then { isl s i with flash := programLoad (isl s i).flash (loadSlot s g) off bs } else isl s i := by
  by_cases h : g = 2
  · subst h
    rw [programmed_two]
    cases i <;> rfl
  · rw [programmed_one h, loadIsls, if_neg h]
    generalize targetIsl g = j
    cases i <;> cases j <;> rfl

theorem programmed_frame (s : State) (g off : Nat) (bs : List Byte) : programmed s g off bs =
    { s with sia := (programmed s g off bs).sia, sib := (programmed s g off bs).sib } := by
  by_cases h : g = 2
  · subst h
    rfl
  · rw [programmed_one h]
    cases targetIsl g <;> rfl

/-- The state after a SEC_FW_WRITE. -/
def written (s : State) (l : FwLoad) (n : Nat) (bs : List Byte) : State :=
  let t := programmed s l.target l.done bs
  { t with iod := { t.iod with load := some { l with done := l.done + n } } }

theorem programmed_setWaiting (s : State) (p : Port) (w : List Pkt) (g off : Nat) (bs : List Byte) :
    programmed (setWaiting s p w) g off bs = setWaiting (programmed s g off bs) p w := by
  have hl : loadSlot (setWaiting s p w) g = loadSlot s g := by rcases p with _ | _ | _ <;> rfl
  by_cases h : g = 2
  · subst h
    rw [programmed_two, programmed_two, hl]
    rcases p with _ | _ | _ <;> rfl
  · rw [programmed_one h, programmed_one h, hl, modIsl_setWaiting]

theorem written_setWaiting (s : State) (p : Port) (w : List Pkt) (l : FwLoad) (n : Nat) (bs : List Byte) :
    written (setWaiting s p w) l n bs = setWaiting (written s l n bs) p w := by
  unfold written
  rw [programmed_setWaiting]
  generalize programmed s l.target l.done bs = t
  rcases p with _ | _ | _ <;> rfl

theorem secFwWrite_answers {l : FwLoad} {m : Nat} (h : Ready s p 10 2 (2 + m) k) (hn : parN k 1 = 4 * m) (h1 : 1 ≤ m) (h2 : m ≤ 1024)
    (hl : s.iod.load = some l) (h0 : parN k 0 = l.done) (hd : l.done + 4 * m ≤ l.len) :
    exec (.secFwWrite p) s = .next (answered p k stOk [] (setWaiting (written s l (4 * m) (wordsBytes (parsFrom k 2))) p [])) := by
  refine onPort_answers h (ofRow_ready h rfl rfl rfl) ?_ rfl (fun w => ?_)
  · show (decide (2 ≤ pktLen k) && parN k 1 == 4 * (pktLen k - 2)) = true
    rw [h.len, hn]
    simp
  have n4 : ¬4 * m = 0 := by omega
  have hw : (setWaiting s p w).iod.load = some l := hl ▸ (by rcases p with _ | _ | _ <;> rfl)
  rw [← written_setWaiting]
  simp -zeta only [rowSecFwWrite, opDef, hw, h0, hn, Option.elim]
  show (if (decide (l.done ≠ l.done) || decide (l.len < l.done)) = true then _
    else if (decide (4096 < 4 * m) || decide (l.len < l.done + 4 * m)) = true then _
    else if 4 * m = 0 then _ else Verdict.answer stOk [] (written (setWaiting s p w) l (4 * m) (wordsBytes (parsFrom k 2)))) = _
  rw [if_neg (by simp; omega), if_neg (by simp; omega), if_neg n4]

/-! Activation of an island's image (R573, R574). -/

/-- The image in force at an island changes, on trial. -/
def trialStarted (s : State) (i : Isl) : State :=
  let s := { s with iod := { s.iod with load := none } }
  modIsl s i (fun x => { x with fw := startTrial x.fw (knownStage s x) })

/-- The island is reset by the other one, to start from its new image. -/
def activated (s : State) (i : Isl) : State := orderIsl (trialStarted s i) (otherIsl i)

theorem orderIsl_resets {s : State} {i : Isl} (h : (isl s (otherIsl i)).st = 2) : (isl (orderIsl s (otherIsl i)) i).inReset = true ∧
    (isl (orderIsl s (otherIsl i)) i).fw = (isl s i).fw ∧ (isl (orderIsl s (otherIsl i)) i).flash = (isl s i).flash ∧
    (orderIsl s (otherIsl i)).iod.load = s.iod.load ∧ (isl (orderIsl s (otherIsl i)) (otherIsl i)).st = 3 := by
  have hr := resetIsl_resets s i
  obtain ⟨h1, -, -, -, h5, h6⟩ := hr.off
  have hiod : (resetIsl s i).iod.load = s.iod.load := (congrArg Iod.load hr.iod :)
  have hst := hr.otherSt
  unfold orderIsl
  rw [otherIsl_otherIsl]
  generalize resetIsl s i = t at h1 h5 h6 hiod hst
  have hin : inSvc (isl t (otherIsl i)) = true := by simp [inSvc, hst, h]
  refine ⟨?_, ?_, ?_, ?_, ?_⟩
  · rw [isl_modIsl_of_other, h1]
  · rw [isl_modIsl_of_other, h6]
  · rw [isl_modIsl_of_other, h5]
  · rw [← hiod]
    cases i <;> rfl
  · rw [isl_modIsl_self, if_pos hin]

theorem activated_restarts {s : State} {i : Isl} (h : (isl s (otherIsl i)).st = 2) : (isl (activated s i) i).inReset = true ∧
    (isl (activated s i) i).fw.slotB = !(isl s i).fw.slotB ∧ (isl (activated s i) i).fw.trial = some (knownStage s (isl s i)) ∧
    (isl (activated s i) i).flash = (isl s i).flash ∧ (activated s i).iod.load = none ∧ (isl (activated s i) (otherIsl i)).st = 3 := by
  have ho : (isl (trialStarted s i) (otherIsl i)).st = 2 := by
    rw [← h]
    cases i <;> rfl
  obtain ⟨h1, h2, h3, h4, h5⟩ := orderIsl_resets ho
  refine ⟨h1, (congrArg Fw.slotB h2).trans ?_, (congrArg Fw.trial h2).trans ?_, h3.trans ?_, h4.trans ?_, h5⟩ <;> cases i <;> rfl

theorem secFwActivate_island {s : State} {k : Pkt} {l : FwLoad} {i : Isl} (hb : badTarget k = false) (hi : targetIsl l.target = i)
    (ht : l.target ≤ 1) (hg : fld (par k 0) 1 0 = l.target) (h0 : par64 k 1 = 0) (hl : s.iod.load = some l) (hd : l.len ≤ l.done)
    (ho : (isl s (otherIsl i)).st = 2) : rowSecFwActivate.run s k = if imageOk (isl s i) l.target (loadSlot s l.target) l.len = true then
      .later (.fwIsl i) (activated s i) else .refuseIn stBadCheck 0 0xFFFF (failLoad s l.target) := by
  have ht2 : l.target ≠ 2 := by omega
  have hr : targetReady s l.target = true := by
    rw [targetReady, if_neg ht2, hi, ho]
    rfl
  have hnd : ¬l.done < l.len := by omega
  have hall : (loadIsls l.target).all (fun i => imageOk (isl s i) l.target (loadSlot s l.target) l.len) =
      imageOk (isl s i) l.target (loadSlot s l.target) l.len := by
    rw [loadIsls, if_neg ht2, hi, List.all_cons, List.all_nil, Bool.and_true]
  simp -zeta only [rowSecFwActivate, opDef, hl, hg, h0, hb]
  show (if (decide (l.target = 2) && decide (0 < s.stg.stage + 2)) || (decide (l.target ≠ 2) && decide (0 ≠ 0)) then _
    else if decide (l.target = 2) && needsIod s k then _
    else if decide (l.target ≠ l.target) || decide (l.done < l.len) || (decide (l.target = 2) && !targetReady s l.target) then _
    else if decide (l.target ≠ 2) && !targetReady s l.target then _
    else if !(loadIsls l.target).all (fun i => imageOk (isl s i) l.target (loadSlot s l.target) l.len) then
      Verdict.refuseIn stBadCheck 0 0xFFFF (failLoad s l.target)
    else if l.target = 2 then _ else Verdict.later (.fwIsl (targetIsl l.target)) (activated s (targetIsl l.target))) = _
  rw [if_neg (by simp [ht2]), if_neg (by simp [ht2]), if_neg (by simp [ht2, hnd]), if_neg (by simp [hr]), hall, if_neg ht2, hi]
  cases imageOk (isl s i) l.target (loadSlot s l.target) l.len <;> rfl

theorem failLoad_one {g : Nat} (h : g ≠ 2) (s : State) : failLoad s g =
    let u := modIsl s (targetIsl g) (fun x => { x with fw := markFailed x.fw, fwfail := true })
    { u with iod := { u.iod with load := none } } := by
  unfold failLoad loadIsls
  rw [if_neg h, if_neg h]
  generalize targetIsl g = i
  cases i <;> rfl

theorem islandFields_setWaiting (s : State) (p : Port) (w : List Pkt) (g : Nat) : (setWaiting s p w).iod = s.iod ∧
    loadSlot (setWaiting s p w) g = loadSlot s g := by
  rcases p with _ | _ | _ <;> exact ⟨rfl, rfl⟩

theorem knownStage_setWaiting (s : State) (p : Port) (w : List Pkt) (x : Island) : knownStage (setWaiting s p w) x = knownStage s x := by
  rcases p with _ | _ | _ <;> rfl

theorem secFwActivate_activates {l : FwLoad} {i : Isl} (h : Ready s p 10 3 3 k) (hb : badTarget k = false) (hi : targetIsl l.target = i)
    (ht : l.target ≤ 1) (hg : fld (par k 0) 1 0 = l.target) (h0 : par64 k 1 = 0) (hl : s.iod.load = some l) (hd : l.len ≤ l.done)
    (ho : (isl s (otherIsl i)).st = 2) (hm : imageOk (isl s i) l.target (loadSlot s l.target) l.len = true) :
    ∃ u, exec (.secFwActivate p) s = .next (deferred p k (.fwIsl i) u) ∧
      (isl u i).inReset = true ∧ (isl u i).fw.slotB = !(isl s i).fw.slotB ∧ (isl u i).fw.trial = some (knownStage s (isl s i)) ∧
      (isl u i).flash = (isl s i).flash ∧ u.iod.load = none ∧ (isl u (otherIsl i)).st = 3 := by
  have hrun : ∀ w, rowSecFwActivate.run (setWaiting s p w) k = .later (.fwIsl i) (activated (setWaiting s p w) i) := fun w => by
    obtain ⟨k1, k2⟩ := islandFields_setWaiting s p w l.target
    rw [secFwActivate_island hb hi ht hg h0 (by rw [k1, hl]) hd (by rw [isl_setWaiting, ho]), isl_setWaiting, k2, if_pos hm]
  have hself := hrun (Machine.waiting s p)
  rw [setWaiting_self] at hself
  refine ⟨_, onPort_defersFrom h (ofRow_ready h rfl rfl rfl) (lenOk_ready h) rfl ⟨_, hself⟩ (hrun _), ?_⟩
  have ha := activated_restarts (s := setWaiting s p [{ k with fate := .accepted }]) (i := i) (by rw [isl_setWaiting, ho])
  rw [isl_setWaiting, knownStage_setWaiting] at ha
  unfold leave
  rw [isl_setWaiting, isl_setWaiting, (islandFields_setWaiting _ _ _ 0).1]
  exact ha

theorem secFwActivate_fails {l : FwLoad} {i : Isl} (h : Ready s p 10 3 3 k) (hb : badTarget k = false) (hi : targetIsl l.target = i)
    (ht : l.target ≤ 1) (hg : fld (par k 0) 1 0 = l.target) (h0 : par64 k 1 = 0) (hl : s.iod.load = some l) (hd : l.len ≤ l.done)
    (ho : (isl s (otherIsl i)).st = 2) (hm : imageOk (isl s i) l.target (loadSlot s l.target) l.len = false) :
    ∃ u, exec (.secFwActivate p) s = .next (refused p k stBadCheck 0 0xFFFF u) ∧ u.iod.load = none ∧
      (isl u i).fw.slotB = (isl s i).fw.slotB ∧ (isl u i).inReset = (isl s i).inReset := by
  have hf := failLoad_one (show l.target ≠ 2 by omega) s
  rw [hi] at hf
  have hal : Alone (failLoad s l.target) p k := by
    obtain ⟨k1, k2, k3, k4⟩ := h.alone
    rw [hf]
    rcases p with _ | j
    · cases i <;> exact ⟨k1, k2, k3, k4⟩
    · cases i <;> cases j <;> exact ⟨k1, k2, k3, k4⟩
  have hrun := secFwActivate_island hb hi ht hg h0 hl hd ho
  rw [if_neg (by simp [hm])] at hrun
  refine ⟨_, onPort_refusesIn h (ofRow_ready h rfl rfl rfl) (lenOk_ready h) rfl hrun hal, ?_⟩
  rw [took, isl_setWaiting, (islandFields_setWaiting _ _ _ 0).1, hf]
  cases i <;> exact ⟨rfl, rfl, rfl⟩

/-! Activation of the IOD's image (R574, R575). -/

theorem secFwActivate_arms {l : FwLoad} (h : Ready s p 10 3 3 k) (hb : badTarget k = false) (hg : fld (par k 0) 1 0 = 2)
    (hs : s.stg.stage + 2 ≤ par64 k 1) (hi : p ≠ .host → iodReady s = true) (hl : s.iod.load = some l) (ht : l.target = 2)
    (hd : l.len ≤ l.done) (ha : inSvc s.sia = true) (hb' : inSvc s.sib = true)
    (hm : ∀ i, imageOk (isl s i) 2 (loadSlot s 2) l.len = true) : exec (.secFwActivate p) s = .next (deferred p k .fwIod { took s p k with
      iod := { s.iod with load := none, fwArm := some (par64 k 1) } }) := by
  have hx : { took s p k with iod := { s.iod with load := none, fwArm := some (par64 k 1) } } =
      setWaiting { s with iod := { s.iod with load := none, fwArm := some (par64 k 1) } } p [] := by
    rw [took_alone h.alone]
    rcases p with _ | _ | _ <;> rfl
  rw [hx]
  refine onPort_defers h (ofRow_ready h rfl rfl rfl) (gate_ready h (lenOk_ready h) rfl) (fun w => ?_)
  obtain ⟨k1, k2⟩ := islandFields_setWaiting s p w 2
  have hr : targetReady (setWaiting s p w) 2 = true := by
    rw [show targetReady (setWaiting s p w) 2 = targetReady s 2 by rcases p with _ | _ | _ <;> rfl, targetReady, if_pos rfl, ha, hb']
    rfl
  have hall : (loadIsls 2).all (fun i => imageOk (isl (setWaiting s p w) i) 2 (loadSlot (setWaiting s p w) 2) l.len) = true :=
    List.all_eq_true.2 (fun i _ => by rw [isl_setWaiting, k2]; exact hm i)
  have hn : ¬par64 k 1 < s.stg.stage + 2 := by omega
  have hnd : ¬l.done < l.len := by omega
  simp -zeta only [rowSecFwActivate, opDef, hg, hb, k1, hl]
  show (if (decide (2 = 2) && decide (par64 k 1 < (setWaiting s p w).stg.stage + 2)) || (decide (2 ≠ 2) && decide (par64 k 1 ≠ 0)) then _
    else if decide (2 = 2) && needsIod (setWaiting s p w) k then _
    else if decide (l.target ≠ 2) || decide (l.done < l.len) || (decide (2 = 2) && !targetReady (setWaiting s p w) 2) then _
    else if decide (2 ≠ 2) && !targetReady (setWaiting s p w) 2 then _
    else if !(loadIsls 2).all (fun i => imageOk (isl (setWaiting s p w) i) 2 (loadSlot (setWaiting s p w) 2) l.len) then _ else _) = _
  rw [if_neg (by simp [hn]), if_neg (by simp [needsIod_ready h hi]), if_neg (by simp [ht, hnd, hr]), if_neg (by simp),
    if_neg (by rw [hall]; decide)]
  rcases p with _ | _ | _ <;> rfl

/-! The switch of the IOD's image, and the end of a trial (R575, R576). -/

theorem fwSwitch_switches {a : Nat} (ha : s.iod.fwArm = some a) (h : a ≤ s.stg.stage) (hi : iodReady s = true) : ∃ v, exec .fwSwitch s =
    .next (completeDefers { s with iod := { s.iod with fwArm := none, fw := startTrial s.iod.fw s.stg.stage, verIod := v } } .fwIod stOk []) := by
  refine ⟨(loadIsl s).elim s.iod.verIod (fun i => imageWord (isl s i) (iodSlot (startTrial s.iod.fw s.stg.stage).slotB) 8), ?_⟩
  show execFwSwitch s = _
  unfold execFwSwitch
  rw [ha]
  exact congrArg Host.Outcome.next (if_neg (by simp [h, hi]))

theorem fwTrialConfirm_iod (h : trialOver s.stg.stage s.iod.fw = true) : ∃ t, exec (.fwTrialConfirm .iod) s = .next t ∧
    t.iod = { s.iod with fw := { s.iod.fw with trial := none } } ∧
    (∀ j, isl t j = { isl s j with minIod := max (isl s j).minIod (imageWord (isl s j) (iodSlot s.iod.fw.slotB) 0xC).toNat }) ∧
    t = { s with iod := t.iod, sia := t.sia, sib := t.sib } := by
  refine ⟨_, congrArg Host.Outcome.next (if_pos h), rfl, fun j => ?_, rfl⟩
  cases j <;> rfl

theorem fwTrialConfirm_island {i : Isl} (h : trialOver (knownStage s (isl s i)) (isl s i).fw = true) :
    ∃ t, exec (.fwTrialConfirm (.island i)) s = .next t ∧ isl t i = { isl s i with
      minIsl := max (isl s i).minIsl (imageWord (isl s i) (islSlot (isl s i).fw.slotB) 0xC).toNat
      fw := { (isl s i).fw with trial := none } } ∧ isl t (otherIsl i) = isl s (otherIsl i) ∧ t = { s with sia := t.sia, sib := t.sib } := by
  refine ⟨_, congrArg Host.Outcome.next (if_pos h), by rw [isl_modIsl_self], by rw [isl_modIsl_other], ?_⟩
  cases i <;> rfl

end

/-- Settles O59: each opcode and command from its own lemma. -/
theorem trust : Obligations.Trust := by
  refine ⟨fun s p k h => ⟨fun hr => secToken_opens h hr, fun st a b hr => secToken_refused h hr⟩, fun s p k i h hi => ?_,
    fun s p k g h hb hg h0 h1 h2 hl ha ht hr => secFwOpen_answers h hb hg h0 h1 h2 hl ha ht hr, fun s p k l m h hn h1 h2 hl h0 hd => ?_,
    fun s p k l i h hb hi ht hg h0 hl hd ho => ⟨secFwActivate_activates h hb hi ht hg h0 hl hd ho, secFwActivate_fails h hb hi ht hg h0 hl hd ho⟩,
    fun s p k l h hb hg hs hi hl ht hd ha hb' hm => secFwActivate_arms h hb hg hs hi hl ht hd ha hb' hm, fun s a ha h hi => ?_,
    fun s h => fwTrialConfirm_iod h, fun s i h => fwTrialConfirm_island h⟩
  · obtain ⟨h8, h12⟩ := attestWords_words (s := s) (i := i) h.size
    refine ⟨_, _, _, secAttest_answers h hi, h8, h12, ?_, ?_⟩
    · rw [isl_setWaiting, attested, isl_modIsl_self, isl_fresh, isl_fresh]
    · rw [isl_setWaiting, attested, isl_modIsl_other, isl_fresh, isl_fresh]
  · refine ⟨_, secFwWrite_answers h hn h1 h2 hl h0 hd, ?_, fun i => ?_, ?_⟩
    · rw [(islandFields_setWaiting _ _ _ 0).1, written, programmed_frame]
    · rw [isl_setWaiting, ← isl_programmed]
      cases i <;> rfl
    · rw [setWaiting_dies, written, programmed_frame]
  · obtain ⟨v, hx⟩ := fwSwitch_switches ha h hi
    have hd := drew_completeDefers { s with iod := { s.iod with fwArm := none, fw := startTrial s.iod.fw s.stg.stage, verIod := v } } .fwIod stOk []
    have ho := offPorts_completeDefers { s with iod := { s.iod with fwArm := none, fw := startTrial s.iod.fw s.stg.stage, verIod := v } } .fwIod stOk []
    exact ⟨_, hx, (congrArg (fun v => v.iod.fwArm) ho :), (congrArg (fun v => v.iod.fw.slotB) ho :), (congrArg (fun v => v.iod.fw.trial) ho :),
      drew_of_defers rfl rfl hd, (congrArg State.stg ho :), (congrArg State.tt ho :), (congrArg State.dies ho :), (congrArg State.mpl ho :)⟩

end Sys2Proof.Proofs

/-! Dies held in reset and the hold of a sudden loss (18 R622, R630-R632). -/

namespace Sys2Proof.Proofs

open Sys2Proof.Machine Sys2Proof.Safety Sys2Proof.Laws

/-! A die that is lost: what work in progress ends leaves the dies as they stand. -/

theorem dies_abandonRebind (s : State) (g : EngId) : (abandonRebind s g).dies = s.dies := by
  unfold abandonRebind
  split
  · exact (congrArg State.dies (offPorts_completeDefers _ _ _ _) :)
  · rfl

theorem dies_orphanObj (s : State) (k : Nat) : (orphanObj s k).dies = s.dies :=
  (signalKept_forAll (fun t w => signalKept_releaseWaiter t w stOwnerLost (obj s k).value) (obj s k).waiters _).dies

theorem dies_orphanDie (s : State) (n : Nat) : (orphanDie s n).dies = s.dies :=
  (forAll_proj State.dies (fun _ _ => logF_dies ..) _ _).trans (forAll_proj State.dies dies_orphanObj _ s)

theorem dies_losePages (s : State) (n : Nat) : (losePages s n).dies = s.dies := forAll_proj State.dies (f := fun s (e : Nat × Page) => modPage s e.1 (fun p => { p with st := 3 })) (fun _ _ => rfl) _ s

theorem dies_loseWork (s : State) (l : List EngId) : (loseWork s l).dies = s.dies := forAll_proj State.dies (f := fun s (i : Issued) => modWb s i.work.1 (fun w => { w with discarded := w.discarded + 1 })) (fun _ _ => rfl) _ _

theorem dies_lostTable (s : State) (n : Nat) : (lostTable s n).dies = s.dies := by
  unfold lostTable
  dsimp only
  repeat' split
  all_goals rfl

theorem diesKept_loseQueues (s : State) (n : Nat) : DiesKept s (loseQueues s n) :=
  (stackOnly_forAll (fun _ _ => stackOnly_modQueue ..) _ s).toDiesKept

theorem diesKept_loseState (s : State) (n : DieId) : DiesKept s (loseState s n) := by
  unfold loseState
  extract_lets +onlyGivenNames mine s1 k s2 s3 s4 dead ks y s5 s6 lost s7 s8 s9
  have h4 : s4.dies = s.dies := (dies_orphanDie s3 n).trans (forAll_proj State.dies dies_abandonRebind mine s)
  have h6 : s6.dies = s.dies := (signalKept_forAll (fun t k => signalKept_serveObj t k) ks s5).dies.trans h4
  have h8 : s8.dies = s7.dies := by
    simp only [s8]
    split
    · exact logF_dies ..
    · rfl
  have h9 : s9.dies = s8.dies := (dies_lostTable _ n).trans (dies_loseWork s8 mine)
  have hq := (DiesKept.of_dies h6).trans ((diesKept_loseQueues s6 n).trans (.of_dies (h9.trans h8)))
  clear_value s9
  exact hq.trans (.of_dies ((dies_losePages (requeueSets s9 n) n).trans rfl))

/-- Die `n` is lost or reset: it stays held by its temperature if it was, and the others stand as before. -/
structure DieLost (n : Nat) (s t : State) : Prop where
  thermal : (die t n).thermal = (die s n).thermal
  others  : ∀ m : Nat, m ≠ n → dieCore (die t m) = dieCore (die s m)

theorem DieLost.trans {n : Nat} {s t u : State} (h : DieLost n s t) (k : DieLost n t u) : DieLost n s u :=
  ⟨k.thermal.trans h.thermal, fun m hm => (k.others m hm).trans (h.others m hm)⟩

theorem DiesStand.lost {s t : State} (h : DiesStand s t) (n : Nat) : DieLost n s t := ⟨h.thermal n, fun m _ => h.core m⟩

theorem dieLost_modDie (s : State) (n : Nat) {f : Die → Die} (hf : ∀ d, (f d).thermal = d.thermal) : DieLost n s (modDie s n f) :=
  ⟨by rw [die_modDie_self, hf], fun m hm => by rw [die_modDie_ne s f hm]⟩

theorem resetDie_self (s : State) (n : DieId) : (die (resetDie s n) n).inReset = ((die s n).thermal || s.iod.sudden) ∧
    (die (resetDie s n) n).inService = false ∧ (die (resetDie s n) n).thermal = (die s n).thermal := by
  have h1 := diesStand_forAll (fun t l => diesStand_dropLink t l) (dieLinks n) s
  have h2 := h1.trans (diesStand_modDie _ (predDie n).val (f := fun d => { d with scfailed := false }) (fun _ => rfl) fun _ h => h)
  have k1 := linkKept_forAll (fun t l => linkKept_dropLink t l) (dieLinks n) s
  have k2 := k1.trans (linkKept_table.modDie _ (predDie n).val (fun d => { d with scfailed := false }))
  unfold resetDie
  generalize modDie (forAll s (dieLinks n) dropLink) (predDie n).val (fun d => { d with scfailed := false }) = u at h2 k2
  extract_lets +onlyGivenNames s1 s2 ep s3 s4 d
  have hd : s4.dies = u.dies := (behind_dropFws _ (32 + 15 * n.val) 15).2.trans
    (forAll_proj State.dies (f := fun s (g : EngId) => setEng s g _) (fun _ _ => rfl) _ u)
  have hk : LinkKept s s4 := by
    refine k2.trans (.trans ?_ (linkKept_dropLatches _ fun p => ofDie n p))
    refine .trans (.trans ?_ (linkKept_table.fresh _)) (linkKept_dropFws _ (32 + 15 * n.val) 15)
    exact linkKept_forAll (fun t (g : EngId) => linkKept_setEng t g _) _ u
  have ht : (die s4 n).thermal = (die s n).thermal := by rw [die_of_dies hd, h2.thermal]
  have hs : s4.iod.sudden = s.iod.sudden := (congrArg (fun v : State => v.iod.sudden) hk :)
  rw [die_setDie_self]
  refine ⟨?_, rfl, ht⟩
  show dieHeld s4 n = _
  rw [dieHeld, ht, hs]

theorem dieLost_resetDie (s : State) (n : DieId) : DieLost n s (resetDie s n) :=
  ⟨(resetDie_self s n).2.2, fun _ hm => resetDie_others s n hm⟩

/-- A die that leaves service at a limit, or whose reset ends what it does (R622), is in reset where its temperature holds it. -/
theorem dieLost_loseDie (s : State) (n : DieId) (counted : Bool) (reaction : Nat) : DieLost n s (loseDie s n counted reaction) := by
  unfold loseDie
  extract_lets +onlyGivenNames s1 count perm s2 s3
  have h1 : DieLost n s s1 := dieLost_modDie s n fun _ => rfl
  have h2 : DieLost n s1 s2 := by
    simp only [s2]
    split
    · exact dieLost_modDie s1 n fun _ => rfl
    · exact (DiesStand.refl s1).lost n
  have h3 : DieLost n s2 s3 := by
    simp only [s3]
    split
    · exact (DiesStand.of_dies (logF_dies ..)).lost n
    · exact (DiesStand.refl s2).lost n
  have hl := h1.trans (h2.trans h3)
  clear_value s3
  have h4 := (diesKept_loseState s3 n).stand.lost n
  generalize loseState s3 n = u at h4 ⊢
  exact hl.trans (h4.trans (dieLost_resetDie u n))

theorem loseDie_held {s : State} {n : DieId} (h : (die s n).thermal = true) (counted : Bool) (reaction : Nat) :
    (die (loseDie s n counted reaction) n).inReset = true ∧ (die (loseDie s n counted reaction) n).inService = false := by
  have hl := dieLost_loseDie s n counted reaction
  have ht := hl.thermal.trans h
  obtain ⟨u, hu⟩ : ∃ u, loseDie s n counted reaction = resetDie u n := ⟨_, rfl⟩
  rw [hu] at ht ⊢
  obtain ⟨h1, h2, h3⟩ := resetDie_self u n
  rw [h3] at ht
  exact ⟨by rw [h1, ht]; rfl, h2⟩

theorem dieLost_resetOut (s : State) (n : DieId) : DieLost n s (resetOut s n) := by
  have h1 : DieLost n s (if (die s n).excluded then loseState s n else orphanDie s n) := by
    split
    · exact (diesKept_loseState s n).stand.lost n
    · exact (DiesStand.of_dies (dies_orphanDie s n)).lost n
  unfold resetOut
  generalize (if (die s n).excluded then loseState s n else orphanDie s n) = u at h1 ⊢
  have h2 : DieLost n u (modDie u n (fun d => { d with readyRe := false, missed := false, excluded := false, imageOk := false })) :=
    dieLost_modDie u n fun _ => rfl
  exact h1.trans (h2.trans (dieLost_resetDie _ n))

theorem resetOut_held {s : State} {n : DieId} (h : (die s n).thermal = true) :
    (die (resetOut s n) n).inReset = true ∧ (die (resetOut s n) n).inService = false := by
  have ht := (dieLost_resetOut s n).thermal.trans h
  obtain ⟨u, hu⟩ : ∃ u, resetOut s n = resetDie u n := ⟨_, rfl⟩
  rw [hu] at ht ⊢
  obtain ⟨h1, h2, h3⟩ := resetDie_self u n
  rw [h3] at ht
  exact ⟨by rw [h1, ht]; rfl, h2⟩

/-- Every die of a list that is reset under a sudden loss is held (R630). -/
theorem resetDies_held (l : List DieId) {s : State} (h : s.iod.sudden = true) : ∀ n ∈ l, (die (forAll s l resetDie) n).inReset = true ∧
    (die (forAll s l resetDie) n).inService = false := by
  have hkeep : ∀ (l : List DieId) (s : State) (n : DieId), s.iod.sudden = true → (die s n).inReset = true ∧ (die s n).inService = false →
      (die (forAll s l resetDie) n).inReset = true ∧ (die (forAll s l resetDie) n).inService = false := by
    intro l
    induction l with
    | nil => exact fun _ _ _ h => h
    | cons m l ih =>
      intro s n hs hn
      rw [forAll_cons]
      refine ih _ n ((congrArg (fun v : State => v.iod.sudden) (linkKept_resetDie s m) :).trans hs) ?_
      by_cases hm : n.val = m.val
      · obtain ⟨h1, h2, -⟩ := resetDie_self s m
        rw [hm, h1, hs, Bool.or_true]
        exact ⟨rfl, h2⟩
      · have ho := resetDie_others s m hm
        exact ⟨(congrArg (fun x => x.1) ho :).trans hn.1, (congrArg (fun x => x.2.1) ho :).trans hn.2⟩
  induction l generalizing s with
  | nil => exact fun _ hn => nomatch hn
  | cons m l ih =>
    intro n hn
    have hs : (resetDie s m).iod.sudden = true := (congrArg (fun v : State => v.iod.sudden) (linkKept_resetDie s m) :).trans h
    rw [forAll_cons]
    rcases List.mem_cons.1 hn with rfl | hn
    · obtain ⟨h1, h2, -⟩ := resetDie_self s n
      exact hkeep l _ n hs ⟨by rw [h1, h, Bool.or_true], h2⟩
    · exact ih hs n hn

/-! Root gates. -/

/-- The device without its clock registers. -/
def offClk (s : State) : State := { s with clk := {} }

theorem gateClosed_rootGate (s : State) (g : Nat) (b : Bool) (h : Nat) : gateClosed (rootGate s g b).clk h 0 =
    if h = g then b else gateClosed s.clk h 0 := by
  unfold rootGate
  rw [gateClosed_setGate]
  simp only [and_true]

theorem offClk_rootGates (l : List Nat) (s : State) : offClk (forAll s l (fun s g => rootGate s g true)) = offClk s :=
  forAll_proj offClk (f := fun s g => rootGate s g true) (fun _ _ => rfl) l s

theorem gateClosed_rootGates (l : List Nat) (s : State) (h : Nat) :
    gateClosed (forAll s l (fun s g => rootGate s g true)).clk h 0 = (l.contains h || gateClosed s.clk h 0) := by
  induction l generalizing s with
  | nil => rfl
  | cons g l ih =>
    rw [forAll_cons, ih, gateClosed_rootGate, List.contains_cons]
    by_cases hg : h = g
    · simp [hg]
    · rw [if_neg hg, beq_eq_false_iff_ne.2 hg, Bool.false_or]

/-! The hold of a sudden loss (R630). -/

/-- An island without what the reset of the IOD core writes of it. -/
def offCore (x : Island) : Island := { offIsl x with urgReply := [], aliveNext := 0 }

theorem offCore_of {x y : Island} (h : offIsl x = offIsl y) : offCore x = offCore y :=
  congrArg (fun v : Island => { v with urgReply := [], aliveNext := 0 }) h

theorem LinkKept.isl {s t : State} (h : LinkKept s t) (i : Isl) : offIsl (isl t i) = offIsl (isl s i) := by
  cases i
  · exact (congrArg State.sia h :)
  · exact (congrArg State.sib h :)

theorem resetIod_isl (s : State) (cause : Nat) (i : Isl) : offCore (isl (resetIod s cause) i) = offCore (isl s i) := by
  have hk := linkKept_coreStopped s
  rw [resetIod_eq]
  generalize coreStopped s = u at hk
  have hmgt : ∀ d ∈ coreEnded u, d.pkt.port ≠ .host := fun d hd => by
    have := (List.mem_filter.1 hd).2
    simp only [Bool.and_eq_true, bne_iff_ne] at this
    exact this.1
  obtain ⟨-, hr, -⟩ := mgtReplies_kept hmgt (urgDropped (coreCleared u cause)) stNotReady [execDetail]
  generalize forAll (urgDropped (coreCleared u cause)) (coreEnded u) (fun s d => reply s d.pkt stNotReady [execDetail]) = t at hr
  have ht : isl t i = isl (urgDropped (coreCleared u cause)) i := by
    cases i
    · exact (congrArg State.sia hr :)
    · exact (congrArg State.sib hr :)
  have hw := (linkKept_dropFws (coreCleared u cause) 0 24).isl i
  rw [ht, urgDropped, isl_bothIsl]
  generalize dropFws (coreCleared u cause) 0 24 = w at hw ⊢
  have hc : isl (coreCleared u cause) i = isl u i := by cases i <;> rfl
  rw [hc] at hw
  exact (show offCore { isl w i with urgReply := [], aliveNext := 0 } = offCore (isl w i) from rfl).trans (offCore_of (hw.trans (hk.isl i)))

/-- What the hold leaves: the IOD core and every die in reset, every root gate of a die closed, and the islands' orders as they were. -/
structure HoldLeft (s t : State) : Prop where
  sudden  : t.iod.sudden = true
  inReset : t.iod.inReset = true
  dies    : ∀ n : DieId, (die t n).inReset = true ∧ (die t n).inService = false
  gates   : ∀ n : DieId, gateClosed t.clk n.val 0 = true
  isl     : ∀ i, (isl t i).sudden = (isl s i).sudden ∧ (isl t i).immDue = (isl s i).immDue

theorem restartIod_held (s : State) : (restartIod s 1 false).iod.inReset = true ∧ (restartIod s 1 false).iod.sudden = s.iod.sudden ∧
    ∀ i, offCore (isl (restartIod s 1 false) i) = offCore (isl s i) := by
  unfold restartIod
  simp only [Bool.false_eq_true, if_false]
  generalize hi : setDis s (fun d => { d with iodRestarts := satAdd 65535 d.iodRestarts 1 }) = u
  have hc := resetIod_resets u 1
  have hl := resetIod_isl u 1
  generalize resetIod u 1 = t at hc hl
  obtain ⟨v, hv, -, -, -, -, -, hs, -, -⟩ := hc.iod
  refine ⟨hc.inReset.1, ?_, fun i => (hl i).trans ?_⟩
  · rw [hv]
    exact hs.trans (by rw [← hi]; rfl)
  · rw [← hi]
    cases i <;> rfl

theorem offEdges (s : State) (f : RingEdge → RingEdge) : (bothEdge s f).iod = s.iod ∧ ∀ i, isl (bothEdge s f) i = isl s i :=
  ⟨rfl, fun i => by cases i <;> rfl⟩

theorem iod_bothIsl (s : State) (f : Island → Island) : (bothIsl s f).iod = s.iod := rfl

theorem dropReports_frame (s : State) : (dropReports s).iod = s.iod ∧
    ∀ i, (isl (dropReports s) i).sudden = (isl s i).sudden ∧ (isl (dropReports s) i).immDue = (isl s i).immDue := by
  unfold dropReports
  obtain ⟨h1, h2⟩ := offEdges (bothIsl s (fun x => { x with
    report := none, reportQ := [], relOut := none, step := .idle, mism := false })) (fun e => { e with relA := none, relB := none, reason := 5 })
  refine ⟨h1.trans (iod_bothIsl ..), fun i => ?_⟩
  rw [h2, isl_bothIsl]
  exact ⟨rfl, rfl⟩

/-- The dies are reset and the gates closed. -/
def diesHeld (s : State) (l : List DieId) (gs : List Nat) : State := forAll (forAll s l resetDie) gs (fun s g => rootGate s g true)

theorem diesHeld_holds {s : State} (h1 : s.iod.sudden = true) (h2 : s.iod.inReset = true) {l : List DieId} (hl : ∀ n, n ∈ l) {gs : List Nat}
    (hg : ∀ n : DieId, n.val ∈ gs) : HoldLeft s (diesHeld s l gs) := by
  unfold diesHeld
  have hk := linkKept_forAll (fun t n => linkKept_resetDie t n) l s
  have hd := resetDies_held l h1
  generalize forAll s l resetDie = c at hk hd
  have ho := offClk_rootGates gs c
  have hc := gateClosed_rootGates gs c
  generalize forAll c gs (fun s g => rootGate s g true) = t at ho hc
  have hti : t.iod = c.iod := (congrArg State.iod ho :)
  have htd : t.dies = c.dies := (congrArg State.dies ho :)
  have hts : ∀ i, isl t i = isl c i := fun i => by
    cases i
    · exact (congrArg State.sia ho :)
    · exact (congrArg State.sib ho :)
  refine ⟨?_, ?_, fun n => ?_, fun n => ?_, fun i => ?_⟩
  · rw [hti, ← h1]
    exact (congrArg (fun v : State => v.iod.sudden) hk :)
  · rw [hti, ← h2]
    exact (congrArg (fun v : State => v.iod.inReset) hk :)
  · rw [die_of_dies htd]
    exact hd n (hl n)
  · rw [hc, List.contains_iff_mem.2 (hg n), Bool.true_or]
  · rw [hts]
    exact ⟨(congrArg Island.sudden (hk.isl i) :), (congrArg Island.immDue (hk.isl i) :)⟩

theorem holdAll_eq {s : State} (h : s.iod.sudden = false) : holdAll s =
    diesHeld (dropReports (restartIod { s with iod := { s.iod with sudden := true } } 1 false)) dieList (List.range 13) := by
  unfold holdAll
  rw [if_neg (by simp [h])]
  unfold diesHeld
  rfl

theorem holdAll_holds {s : State} (h : s.iod.sudden = false) : HoldLeft s (holdAll s) := by
  rw [holdAll_eq h]
  obtain ⟨r1, r2, r3⟩ := restartIod_held { s with iod := { s.iod with sudden := true } }
  generalize restartIod { s with iod := { s.iod with sudden := true } } 1 false = a at r1 r2 r3
  obtain ⟨d1, d2⟩ := dropReports_frame a
  generalize dropReports a = b at d1 d2
  have ht := diesHeld_holds (s := b) (by rw [d1, r2]) (by rw [d1, r1]) (l := dieList) (fun n => List.mem_finRange n) (gs := List.range 13)
    (fun n => List.mem_range.2 (by omega))
  refine ⟨ht.sudden, ht.inReset, ht.dies, ht.gates, fun i => ?_⟩
  obtain ⟨x1, x2⟩ := ht.isl i
  obtain ⟨e1, e2⟩ := d2 i
  have hi : isl { s with iod := { s.iod with sudden := true } } i = isl s i := by cases i <;> rfl
  have hy := r3 i
  rw [hi] at hy
  rw [x1, x2, e1, e2]
  exact ⟨(congrArg Island.sudden hy :), (congrArg Island.immDue hy :)⟩

/-- The island that declares a sudden loss: its order of a drag shoe, and the 10 s of R632 from now. -/
def declared (s : State) (i : Isl) : State :=
  orderImm (modIsl (bothIsl (logF s { cls := 0x12, unit := unitModule, reaction := 6 }) (fun x => { x with calm := 0 })) i
    (fun x => { x with sudden := true })) i

theorem declared_orders (s : State) (i : Isl) : (declared s i).iod = s.iod ∧ (isl (declared s i) i).sudden = true ∧
    (isl (declared s i) i).immDue = true := by
  refine ⟨?_, ?_, ?_⟩
  · rw [← logF_iod s { cls := 0x12, unit := unitModule, reaction := 6 }]
    unfold declared orderImm
    generalize logF s { cls := 0x12, unit := unitModule, reaction := 6 } = u
    rw [modIsl_iod, modIsl_iod, iod_bothIsl]
  · rw [declared, orderImm, isl_modIsl_self, isl_modIsl_self]
  · rw [declared, orderImm, isl_modIsl_self]

theorem declareSudden_holds {s : State} (h : s.iod.sudden = false) (i : Isl) : HoldLeft (declared s i) (declareSudden s i) :=
  holdAll_holds (by rw [(declared_orders s i).1, h])

end Sys2Proof.Proofs

/-! Coolant, junctions, the levels of slow loss and the opcodes of class 0xB (18 R618-R635; O56). -/

namespace Sys2Proof.Proofs

open Sys2Proof.Machine Sys2Proof.Safety Sys2Proof.Laws

/-! The hold ends (R632). -/

/-- A die that its temperature does not hold starts again. -/
def freed (s : State) (n : DieId) : State := if (die s n).thermal then s else releaseDie (rootGate s n false) n

/-- All but the dies and the clock registers stands as before. -/
def offHold (s : State) : State := { s with dies := [], clk := {} }

theorem offHold_freed (s : State) (n : DieId) : offHold (freed s n) = offHold s := by
  unfold freed releaseDie
  split
  · rfl
  · split <;> rfl

theorem freed_thermal {s : State} {n : DieId} (h : (die s n).thermal = true) : freed s n = s := if_pos h

theorem freed_others (s : State) (n : DieId) {m : Nat} (h : m ≠ n.val) : die (freed s n) m = die s m ∧
    gateClosed (freed s n).clk m 0 = gateClosed s.clk m 0 := by
  have hg := gateClosed_rootGate s n false m
  rw [if_neg h] at hg
  unfold freed releaseDie
  split
  · exact ⟨rfl, rfl⟩
  · split
    · exact ⟨die_modDie_ne _ _ h, hg⟩
    · exact ⟨rfl, hg⟩

theorem freed_self {s : State} {n : DieId} (hs : s.iod.sudden = false) (h : (die s n).thermal = false) :
    (die (freed s n) n).inReset = false ∧ (die (freed s n) n).thermal = false ∧ gateClosed (freed s n).clk n 0 = false := by
  have hg := gateClosed_rootGate s n false n
  rw [if_pos rfl] at hg
  have hd : die (rootGate s n false) n = die s n := rfl
  have hh : dieHeld (rootGate s n false) n = false := by
    show ((die s n).thermal || s.iod.sudden) = false
    rw [h, hs]
    rfl
  unfold freed releaseDie
  rw [if_neg (by simp [h]), hd, hh]
  split
  · rw [die_modDie_self]
    exact ⟨rfl, h, hg⟩
  · next hr => exact ⟨by rw [hd]; simpa using hr, by rw [hd, h], hg⟩

theorem freed_sudden (s : State) (n : DieId) : (freed s n).iod = s.iod := (congrArg State.iod (offHold_freed s n) :)

/-- The dies of a list that nothing holds are out of reset, behind open gates; the ones held stand as they were. -/
theorem freedAll_frees (l : List DieId) {s : State} (hs : s.iod.sudden = false) (n : DieId) :
    ((die s n).thermal = true → die (forAll s l freed) n = die s n) ∧
    ((die s n).thermal = false → n ∈ l ∨ ((die s n).inReset = false ∧ gateClosed s.clk n 0 = false) →
      (die (forAll s l freed) n).inReset = false ∧ gateClosed (forAll s l freed).clk n 0 = false) := by
  induction l generalizing s with
  | nil => exact ⟨fun _ => rfl, fun _ h => h.resolve_left (nomatch ·)⟩
  | cons m l ih =>
    obtain ⟨i1, i2⟩ := ih (s := freed s m) (by rw [freed_sudden, hs])
    rw [forAll_cons]
    by_cases hm : n = m
    · subst hm
      refine ⟨fun h => ?_, fun h _ => ?_⟩
      · rw [freed_thermal h] at i1 ⊢
        exact i1 h
      · obtain ⟨h1, h2, h3⟩ := freed_self hs h
        exact i2 h2 (.inr ⟨h1, h3⟩)
    · obtain ⟨h1, h2⟩ := freed_others s m (fun h => hm (Fin.ext h))
      rw [h1, h2] at i2
      rw [h1] at i1
      exact ⟨i1, fun h hc => i2 h (hc.imp_left fun hn => (List.mem_cons.1 hn).resolve_left hm)⟩

/-- The sensor sets that count. -/
def validSets (s : State) : List Island := [s.sia, s.sib].filter (fun x => inSvc x && !x.setinv)

theorem mem_validSets (s : State) (x : Island) : x ∈ validSets s ↔ ∃ i, x = isl s i ∧ inSvc x = true ∧ x.setinv = false := by
  simp only [validSets, List.mem_filter, List.mem_cons, List.not_mem_nil, or_false, Bool.and_eq_true, Bool.not_eq_true']
  constructor
  · rintro ⟨rfl | rfl, h⟩
    · exact ⟨.sia, rfl, h⟩
    · exact ⟨.sib, rfl, h⟩
  · rintro ⟨i, rfl, h⟩
    cases i
    · exact ⟨.inl rfl, h⟩
    · exact ⟨.inr rfl, h⟩

/-- The state once the hold is over. -/
def holdOver (s : State) : State := forAll (rootGate (setIod s (fun x => { x with sudden := false })) 12 false) dieList freed

theorem suddenLossHoldEnd_eq (s : State) : exec .suddenLossHoldEnd s = .next (if (s.iod.sudden && !(validSets s).isEmpty &&
    (validSets s).all calmNow) = true then holdOver s else s) := by
  show execSuddenLossHoldEnd s = _
  unfold execSuddenLossHoldEnd holdOver
  rfl

theorem suddenLossHoldEnd_waits {s : State} {i : Isl} (hi : inSvc (isl s i) = true) (hv : (isl s i).setinv = false)
    (hc : calmNow (isl s i) = false) : exec .suddenLossHoldEnd s = .next s := by
  have hall : (validSets s).all calmNow = false := by
    rw [List.all_eq_false]
    exact ⟨_, (mem_validSets s _).2 ⟨i, rfl, hi, hv⟩, by simp [hc]⟩
  rw [suddenLossHoldEnd_eq, hall, Bool.and_false, if_neg Bool.false_ne_true]

theorem suddenLossHoldEnd_ends {s : State} (h : s.iod.sudden = true) (hi : ∃ i, inSvc (isl s i) = true ∧ (isl s i).setinv = false)
    (hc : ∀ i, inSvc (isl s i) = true → (isl s i).setinv = false → calmNow (isl s i) = true) :
    exec .suddenLossHoldEnd s = .next (holdOver s) := by
  obtain ⟨i, hi, hv⟩ := hi
  have hne : (validSets s).isEmpty = false :=
    List.isEmpty_eq_false_iff_exists_mem.2 ⟨_, (mem_validSets s _).2 ⟨i, rfl, hi, hv⟩⟩
  have hall : (validSets s).all calmNow = true := by
    refine List.all_eq_true.2 (fun x hx => ?_)
    obtain ⟨j, rfl, h1, h2⟩ := (mem_validSets s x).1 hx
    exact hc j h1 h2
  rw [suddenLossHoldEnd_eq, h, hne, hall]
  rfl

theorem holdOver_frees (s : State) : (holdOver s).iod.sudden = false ∧
    (∀ n : DieId, (die s n).thermal = false → (die (holdOver s) n).inReset = false ∧ gateClosed (holdOver s).clk n.val 0 = false) ∧
    (∀ n : DieId, (die s n).thermal = true → die (holdOver s) n = die s n) ∧ (holdOver s).sia = s.sia ∧ (holdOver s).sib = s.sib := by
  obtain ⟨u, hu⟩ : ∃ u, u = rootGate (setIod s (fun x => { x with sudden := false })) 12 false := ⟨_, rfl⟩
  have hs : u.iod.sudden = false := by rw [hu]; rfl
  have hd : ∀ n, die u n = die s n := fun n => by rw [hu]; rfl
  have ha : u.sia = s.sia ∧ u.sib = s.sib := by rw [hu]; exact ⟨rfl, rfl⟩
  have ho := forAll_proj offHold offHold_freed dieList u
  have hf := freedAll_frees dieList hs
  unfold holdOver
  rw [← hu]
  generalize forAll u dieList freed = t at ho hf
  refine ⟨(congrArg (fun v : State => v.iod.sudden) ho :).trans hs, fun n hn => ?_, fun n hn => ?_, (congrArg State.sia ho :).trans ha.1,
    (congrArg State.sib ho :).trans ha.2⟩
  · exact (hf n).2 (by rw [hd, hn]) (.inl (List.mem_finRange n))
  · rw [(hf n).1 (by rw [hd, hn]), hd]

/-! Samples and slopes (R618-R620, R628). -/

/-- An island after a sample of its sensors. -/
def sampled (x : LidSample) (y : Island) : Island :=
  let ok := sampleValid x
  let bad := if ok then 0 else satAdd 1000 y.badRun 1
  let good := if ok then satAdd 1000 y.goodRun 1 else 0
  { y with
    inlet := x.inlet, outlet := x.outlet, dp := tc 15 x.dp, flow := min 65535 x.flow, sampleOk := ok
    outs := (x.outlet :: y.outs).take 501, badRun := bad, goodRun := good
    setinv := setinvNow y.setinv bad good
    lowFlow := runOf (ok && !setinvNow y.setinv bad good && x.flow < 25) y.lowFlow }

/-- The entry of a set that has become invalid. -/
def setNoted (s : State) (i : Isl) (on : Bool) : State := if on then logF s { cls := 0x12, unit := islUnit i } else s

section

variable {s : State} {i : Isl} {x : LidSample}

theorem lidSensorSample_eq (hr : (isl s i).inReset = false) (hb : (isl s i).boots = true) : exec (.lidSensorSample i x) s = .next (
    let u := setNoted (modIsl s i (sampled x)) i (!(isl s i).setinv && (sampled x (isl s i)).setinv)
    if (!(sampled x (isl s i)).setinv && decide ((sampled x (isl s i)).lowFlow = 3)) = true then declareSudden u i else u) := by
  have hy : isl (modIsl s i (sampled x)) i = sampled x (isl s i) := isl_modIsl_self ..
  have hn : ((isl s i).inReset || !(isl s i).boots) = false := by rw [hr, hb]; rfl
  rw [← hy]
  show execLidSensorSample i x s = _
  unfold execLidSensorSample
  rw [if_neg (by rw [hn]; exact Bool.false_ne_true)]
  rfl

theorem sampled_valid (hv : sampleValid x = true) (y : Island) : (sampled x y).badRun = 0 ∧
    (sampled x y).setinv = (y.setinv && decide (y.goodRun + 1 < 1000)) := by
  unfold sampled
  simp only [hv, if_true, true_and]
  unfold setinvNow satAdd
  by_cases h : y.goodRun + 1 < 1000
  · have hg : ¬1000 ≤ min 1000 (y.goodRun + 1) := by omega
    simp [h, hg]
  · have hg : 1000 ≤ min 1000 (y.goodRun + 1) := by omega
    rw [if_neg (by omega), if_pos hg, decide_eq_false h, Bool.and_false]

theorem sampled_invalid (hv : sampleValid x = false) (y : Island) : (sampled x y).badRun = min 1000 (y.badRun + 1) ∧ (sampled x y).lowFlow = 0 ∧
    (9 ≤ y.badRun → (sampled x y).setinv = true) ∧ (y.badRun < 9 → (sampled x y).setinv = y.setinv) := by
  unfold sampled
  simp only [hv, Bool.false_eq_true, if_false, Bool.false_and]
  refine ⟨rfl, rfl, fun h => ?_, fun h => ?_⟩ <;> unfold setinvNow satAdd
  · rw [if_pos (by omega)]
  · rw [if_neg (by omega), if_neg (by omega)]

theorem lidSensorSample_takes (hr : (isl s i).inReset = false) (hb : (isl s i).boots = true) (hv : sampleValid x = true) (hf : 25 ≤ x.flow) :
    exec (.lidSensorSample i x) s = .next (modIsl s i (sampled x)) ∧ (sampled x (isl s i)).lowFlow = 0 := by
  obtain ⟨-, hs⟩ := sampled_valid hv (isl s i)
  have hl : (sampled x (isl s i)).lowFlow = 0 := by
    have hn : ¬x.flow < 25 := by omega
    unfold sampled runOf
    simp [hn]
  refine ⟨?_, hl⟩
  have hnote : (!(isl s i).setinv && (sampled x (isl s i)).setinv) = false := by
    rw [hs]
    cases (isl s i).setinv <;> rfl
  rw [lidSensorSample_eq hr hb, hnote, hl]
  dsimp only
  rw [if_neg (by simp)]
  rfl

theorem setNoted_kept (s : State) (i : Isl) (b : Bool) : LinkKept s (setNoted s i b) ∧ (setNoted s i b).dies = s.dies ∧
    (setNoted s i b).iod = s.iod := by
  unfold setNoted
  split
  · exact ⟨linkKept_logF s _, logF_dies .., logF_iod ..⟩
  · exact ⟨rfl, rfl, rfl⟩

theorem lidSensorSample_invalid (hr : (isl s i).inReset = false) (hb : (isl s i).boots = true) (hv : sampleValid x = false) :
    ∃ t, exec (.lidSensorSample i x) s = .next t ∧ (isl t i).badRun = min 1000 ((isl s i).badRun + 1) ∧ (isl t i).lowFlow = 0 ∧
      (9 ≤ (isl s i).badRun → (isl t i).setinv = true) ∧ ((isl s i).badRun < 9 → (isl t i).setinv = (isl s i).setinv) ∧
      t.iod.sudden = s.iod.sudden ∧ t.dies = s.dies := by
  obtain ⟨h1, h2, h3, h4⟩ := sampled_invalid hv (isl s i)
  have hx := lidSensorSample_eq (x := x) hr hb
  rw [h2] at hx
  dsimp only at hx
  rw [if_neg (by simp)] at hx
  obtain ⟨hk, hd, hi⟩ := setNoted_kept (modIsl s i (sampled x)) i (!(isl s i).setinv && (sampled x (isl s i)).setinv)
  generalize setNoted (modIsl s i (sampled x)) i (!(isl s i).setinv && (sampled x (isl s i)).setinv) = t at hx hk hd hi
  have hl := hk.isl i
  rw [isl_modIsl_self] at hl
  obtain ⟨e1, e2, e3⟩ : (isl t i).badRun = (sampled x (isl s i)).badRun ∧ (isl t i).lowFlow = (sampled x (isl s i)).lowFlow ∧
      (isl t i).setinv = (sampled x (isl s i)).setinv :=
    ⟨(congrArg Island.badRun hl :), (congrArg Island.lowFlow hl :), (congrArg Island.setinv hl :)⟩
  refine ⟨t, hx, e1.trans h1, e2.trans h2, fun h => e3.trans (h3 h), fun h => e3.trans (h4 h), ?_, hd.trans (dies_modIsl ..)⟩
  rw [hi, modIsl_iod]

theorem lidSensorSample_declares (hr : (isl s i).inReset = false) (hb : (isl s i).boots = true) (hv : sampleValid x = true) (hf : x.flow < 25)
    (hl : (isl s i).lowFlow = 2) (hs : (isl s i).setinv = false) (hd : s.iod.sudden = false) :
    ∃ t, exec (.lidSensorSample i x) s = .next t ∧ t.iod.sudden = true ∧ t.iod.inReset = true ∧ (isl t i).sudden = true ∧
      (isl t i).immDue = true ∧ (∀ n : DieId, (die t n).inReset = true ∧ (die t n).inService = false ∧ gateClosed t.clk n.val 0 = true) := by
  obtain ⟨h1, h2⟩ := sampled_valid hv (isl s i)
  rw [hs, Bool.false_and] at h2
  have h3 : (sampled x (isl s i)).lowFlow = 3 := by
    have hset : setinvNow (isl s i).setinv 0 (satAdd 1000 (isl s i).goodRun 1) = false := by
      rw [← h2]
      unfold sampled
      simp only [hv, if_true]
    unfold sampled runOf
    simp [hv, hset, hf, hl]
  have hx := lidSensorSample_eq (x := x) hr hb
  rw [h2, h3] at hx
  dsimp only at hx
  rw [if_pos (by decide)] at hx
  obtain ⟨-, -, hi⟩ := setNoted_kept (modIsl s i (sampled x)) i (!(isl s i).setinv && false)
  generalize setNoted (modIsl s i (sampled x)) i (!(isl s i).setinv && false) = u at hx hi
  rw [modIsl_iod] at hi
  have ht := declareSudden_holds (s := u) (by rw [hi, hd]) i
  obtain ⟨-, d2, d3⟩ := declared_orders u i
  obtain ⟨e1, e2⟩ := ht.isl i
  exact ⟨_, hx, ht.sudden, ht.inReset, e1.trans d2, e2.trans d3, fun n => ⟨(ht.dies n).1, (ht.dies n).2, ht.gates n⟩⟩

theorem outletSlopeEval_evaluates (hr : (isl s i).inReset = false) (hb : (isl s i).boots = true) (h : slopeOf (isl s i).outs ≤ 1024) :
    ∃ f, exec (.outletSlopeEval i) s = .next (modIsl s i f) ∧ f (isl s i) = { isl s i with slope := slopeOf (isl s i).outs, highSlope := 0 } := by
  have hn : ((isl s i).inReset || !(isl s i).boots) = false := by rw [hr, hb]; rfl
  have h0 : runOf (!(isl s i).setinv && decide (1024 < slopeOf (isl s i).outs)) (isl s i).highSlope = 0 := by
    have : ¬1024 < slopeOf (isl s i).outs := by omega
    simp [runOf, this]
  refine ⟨fun y => { y with slope := slopeOf y.outs, highSlope := runOf (!y.setinv && decide (1024 < slopeOf y.outs)) y.highSlope }, ?_, ?_⟩
  · show execOutletSlopeEval i s = _
    unfold execOutletSlopeEval
    rw [if_neg (by rw [hn]; exact Bool.false_ne_true)]
    dsimp only
    rw [if_neg (by rw [isl_modIsl_self]; simp [h0])]
  · dsimp only
    rw [h0]

end

/-! The levels of slow loss (R624, R625, R627). -/

/-- The state with an island's level evaluated, and what both islands make of the module's level. -/
def levelled (s : State) (i : Isl) : State :=
  let u := setIsl s i (evalLevel s (isl s i))
  bothIsl u (fun x => { x with leanreq := decide (3 ≤ moduleLevel u), seen := moduleLevel u })

/-- The entry of a level that rises, and the alert of it. -/
def levelNoted (u : State) : State :=
  let v := logF u { cls := 0x12, unit := unitModule, detail := moduleLevel u }
  if v.iod.inReset then v else setHpt v { v.hpt with aThm := true }

theorem thermalLevelEval_eq (s : State) (i : Isl) : exec (.thermalLevelEval i) s =
    .next (if max s.sia.seen s.sib.seen < moduleLevel (levelled s i) then levelNoted (levelled s i) else levelled s i) := by
  have hm : moduleLevel (levelled s i) = moduleLevel (setIsl s i (evalLevel s (isl s i))) := rfl
  rw [hm]
  rfl

theorem isl_levelled (s : State) (i j : Isl) : isl (levelled s i) j = { (if j = i then evalLevel s (isl s i) else isl s j) with
    leanreq := decide (3 ≤ moduleLevel (levelled s i)), seen := moduleLevel (levelled s i) } := by
  have hm : moduleLevel (levelled s i) = moduleLevel (setIsl s i (evalLevel s (isl s i))) := rfl
  rw [hm, levelled, isl_bothIsl]
  cases i <;> cases j <;> rfl

theorem offIslands (s : State) (i : Isl) (x : Island) (f : Island → Island) : (bothIsl (setIsl s i x) f).iod = s.iod ∧
    (bothIsl (setIsl s i x) f).dies = s.dies ∧ (bothIsl (setIsl s i x) f).stg = s.stg := by
  cases i <;> exact ⟨rfl, rfl, rfl⟩

theorem levelled_frame (s : State) (i : Isl) : (levelled s i).iod = s.iod ∧ (levelled s i).dies = s.dies ∧ (levelled s i).stg = s.stg :=
  offIslands s i (evalLevel s (isl s i)) _

theorem inSvc_levelled (s : State) (i j : Isl) : inSvc (isl (levelled s i) j) = inSvc (isl s j) := by
  refine inSvc_of_st ?_
  rw [isl_levelled]
  split
  · next h => rw [h]; rfl
  · rfl

/-- What an evaluation of a level leaves, at a state whose islands agree with the level that they act on. -/
structure LevelLeft (u t : State) : Prop where
  isl  : ∀ j, offIsl (isl t j) = offIsl (isl u j)
  dies : t.dies = u.dies
  stg  : t.stg = u.stg

theorem LevelLeft.moduleLevel {u t : State} (h : LevelLeft u t) : moduleLevel t = moduleLevel u := by
  have ha := (congrArg (fun v : Island => (v.level, v.setinv)) (h.isl .sia) :)
  have hb := (congrArg (fun v : Island => (v.level, v.setinv)) (h.isl .sib) :)
  simp only [offIsl, Prod.mk.injEq] at ha hb
  obtain ⟨a1, a2⟩ := ha
  obtain ⟨b1, b2⟩ := hb
  have a1' : t.sia.level = u.sia.level := a1
  have a2' : t.sia.setinv = u.sia.setinv := a2
  have b1' : t.sib.level = u.sib.level := b1
  have b2' : t.sib.setinv = u.sib.setinv := b2
  unfold Machine.moduleLevel
  rw [a1', a2', b1', b2']

theorem levelNoted_notes (u : State) : LevelLeft u (levelNoted u) ∧ (u.iod.inReset = false → (levelNoted u).hpt.aThm = true) ∧
    ∀ j, inSvc (isl u j) = true → logged (levelNoted u) j (fun q => q.cls = 0x12 ∧ q.unit = unitModule) := by
  unfold levelNoted
  have hl : ∀ j, inSvc (isl u j) = true → logged (logF u { cls := 0x12, unit := unitModule, detail := moduleLevel u }) j
      (fun q => q.cls = 0x12 ∧ q.unit = unitModule) := fun j hj => logged_logF hj (fun _ h1 h2 _ => ⟨h1, h2⟩)
  have hk := (linkKept_logF u { cls := 0x12, unit := unitModule, detail := moduleLevel u }).isl
  have hd := logF_dies u { cls := 0x12, unit := unitModule, detail := moduleLevel u }
  have hs := logF_stg u { cls := 0x12, unit := unitModule, detail := moduleLevel u }
  have hi := logF_iod u { cls := 0x12, unit := unitModule, detail := moduleLevel u }
  generalize logF u { cls := 0x12, unit := unitModule, detail := moduleLevel u } = v at hl hk hd hs hi
  dsimp only
  rw [hi]
  split
  · next h => exact ⟨⟨hk, hd, hs⟩, fun h0 => by simp [h0] at h, hl⟩
  · refine ⟨⟨fun j => by rw [isl_setHpt, hk], by rw [setHpt_dies, hd], by rw [setHpt_stg, hs]⟩, fun _ => by rw [setHpt_hpt], fun j hj => ?_⟩
    unfold logged
    rw [isl_setHpt]
    exact hl j hj

theorem thermalLevelEval_evaluates (s : State) (i : Isl) : ∃ t, exec (.thermalLevelEval i) s = .next t ∧ LevelLeft (levelled s i) t ∧
    (max s.sia.seen s.sib.seen < moduleLevel (levelled s i) → (s.iod.inReset = false → t.hpt.aThm = true) ∧
      ∀ j, inSvc (isl s j) = true → logged t j (fun q => q.cls = 0x12 ∧ q.unit = unitModule)) := by
  have hx := thermalLevelEval_eq s i
  have hi := (levelled_frame s i).1
  have hj := inSvc_levelled s i
  generalize levelled s i = u at hx hi hj
  by_cases h : max s.sia.seen s.sib.seen < moduleLevel u
  · obtain ⟨h1, h2, h3⟩ := levelNoted_notes u
    rw [if_pos h] at hx
    exact ⟨_, hx, h1, fun _ => ⟨fun h => h2 (by rw [hi, h]), fun j hs => h3 j (by rw [hj, hs])⟩⟩
  · rw [if_neg h] at hx
    exact ⟨u, hx, ⟨fun _ => rfl, rfl, rfl⟩, fun hn => absurd hn h⟩

/-! Junctions (R621-R623). -/

/-- A die with the temperatures and the age of a report. -/
def reported (a b : Int) (dg ht : Nat) (d : Die) : Die :=
  { d with tjLogic := a, tjHbm := b, degr := min 65535 dg, hot95 := min 65535 ht, mct := { d.mct with hot := decide (1360 < b) } }

/-- A die at a limit is held by its temperature and leaves what it does. -/
def dieHot (s : State) (n : DieId) : State :=
  let u := modDie (logF s { cls := 0x12, unit := n, reaction := 4 }) n (fun d => { d with thermal := true })
  rootGate (if gateClosed u.clk n.val 0 then u else if dieInSvc u n then loseDie u n false 4 else resetOut u n) n true

section

variable {s : State} {n : DieId} {a b : Int} {dg ht : Nat}

theorem junctionReport_die (h : dg ≤ 300) : exec (.junctionReport (.die n) a b dg ht) s = .next (modDie
    (if ((decide (1680 ≤ a) || decide (1520 ≤ b)) && !(die s n).inReset) = true then dieHot s n else s) n (reported a b dg ht)) := by
  have hn : (decide (300 < min 65535 dg) && !(die s n).degrNoted) = false := by
    have : ¬300 < min 65535 dg := by omega
    simp [this]
  show execJunctionReport (.die n) a b dg ht s = _
  unfold execJunctionReport
  dsimp only
  rw [hn, if_neg Bool.false_ne_true]
  split <;> rfl

theorem junctionReport_below (h : dg ≤ 300) (ha : a < 1680) (hb : b < 1520) :
    exec (.junctionReport (.die n) a b dg ht) s = .next (modDie s n (reported a b dg ht)) := by
  have h1 : ¬1680 ≤ a := by omega
  have h2 : ¬1520 ≤ b := by omega
  rw [junctionReport_die h, if_neg (by simp [h1, h2])]

/-- A die at a limit is in reset, out of service, behind a closed gate, and the others stay in service or out of it. -/
theorem dieHot_held (hg : gateClosed s.clk n.val 0 = false) : (die (dieHot s n) n).thermal = true ∧ (die (dieHot s n) n).inReset = true ∧
    (die (dieHot s n) n).inService = false ∧ gateClosed (dieHot s n).clk n.val 0 = true ∧
    ∀ m : Nat, m ≠ n.val → (die (dieHot s n) m).inService = (die s m).inService := by
  obtain ⟨u, hu⟩ : ∃ u, u = modDie (logF s { cls := 0x12, unit := n, reaction := 4 }) n (fun d => { d with thermal := true }) := ⟨_, rfl⟩
  have hc : gateClosed u.clk n.val 0 = false := by
    rw [hu, ← hg]
    exact congrArg (gateClosed · n.val 0) (logF_clk ..)
  have hut : (die u n).thermal = true := by rw [hu, die_modDie_self]
  have huo : ∀ m : Nat, m ≠ n.val → (die u m).inService = (die s m).inService := fun m hm => by
    rw [hu, die_modDie_ne _ _ hm, die_of_dies (logF_dies ..)]
  obtain ⟨v, hv, hl, hr, hs⟩ : ∃ v, dieHot s n = rootGate v n true ∧ DieLost n u v ∧ (die v n).inReset = true ∧ (die v n).inService = false := by
    unfold dieHot
    rw [← hu]
    dsimp only
    rw [hc, if_neg Bool.false_ne_true]
    split
    · exact ⟨_, rfl, dieLost_loseDie u n false 4, loseDie_held hut false 4⟩
    · exact ⟨_, rfl, dieLost_resetOut u n, resetOut_held hut⟩
  have hd : ∀ m, die (rootGate v n true) m = die v m := fun _ => rfl
  rw [hv]
  refine ⟨by rw [hd, hl.thermal, hut], by rw [hd, hr], by rw [hd, hs], by rw [gateClosed_rootGate, if_pos rfl], fun m hm => ?_⟩
  rw [hd, ← huo m hm]
  exact (congrArg (fun x => x.2.1) (hl.others m hm) :)

theorem junctionReport_limit (h : dg ≤ 300) (hl : 1680 ≤ a ∨ 1520 ≤ b) (hr : (die s n).inReset = false)
    (hg : gateClosed s.clk n.val 0 = false) : ∃ t, exec (.junctionReport (.die n) a b dg ht) s = .next t ∧
      (die t n).thermal = true ∧ (die t n).inReset = true ∧ (die t n).inService = false ∧ (die t n).tjLogic = a ∧
      gateClosed t.clk n.val 0 = true ∧ ∀ m : DieId, m ≠ n → (die t m).inService = (die s m).inService := by
  obtain ⟨h1, h2, h3, h4, h5⟩ := dieHot_held hg
  refine ⟨_, by rw [junctionReport_die h, if_pos (by simpa [hr] using hl)], ?_⟩
  generalize dieHot s n = u at h1 h2 h3 h4 h5
  rw [die_modDie_self]
  refine ⟨h1, h2, h3, rfl, h4, fun m hm => ?_⟩
  rw [die_modDie_ne _ _ (fun hv => hm (Fin.ext hv))]
  exact h5 m (fun hv => hm (Fin.ext hv))

/-- The state of the IOD core's restart at its junction's limit. -/
def coreHot (s : State) : State :=
  restartIod (setIod (logF s { cls := 0x12, unit := unitIod, reaction := 5 }) (fun x => { x with thermal := true })) 1 false

theorem coreHot_held (s : State) : (coreHot s).iod.thermal = true ∧ (coreHot s).iod.inReset = true ∧ DiesStand s (coreHot s) := by
  unfold coreHot restartIod
  simp only [Bool.false_eq_true, if_false]
  have hd : DiesStand s (setDis (setIod (logF s { cls := 0x12, unit := unitIod, reaction := 5 }) (fun x => { x with thermal := true }))
      (fun d => { d with iodRestarts := satAdd 65535 d.iodRestarts 1 })) :=
    .of_dies (logF_dies s { cls := 0x12, unit := unitIod, reaction := 5 })
  have ht : (setDis (setIod (logF s { cls := 0x12, unit := unitIod, reaction := 5 }) (fun x => { x with thermal := true }))
      (fun d => { d with iodRestarts := satAdd 65535 d.iodRestarts 1 })).iod.thermal = true := rfl
  generalize setDis (setIod (logF s { cls := 0x12, unit := unitIod, reaction := 5 }) (fun x => { x with thermal := true }))
      (fun d => { d with iodRestarts := satAdd 65535 d.iodRestarts 1 }) = u at hd ht
  have hc := resetIod_resets u 1
  generalize resetIod u 1 = t at hc
  obtain ⟨v, hv, -, -, -, -, h4, -⟩ := hc.iod
  refine ⟨?_, hc.inReset.1, hd.trans hc.dies⟩
  rw [hv]
  exact h4.trans ht

theorem junctionReport_iod (h : dg ≤ 300) (ha : 1680 ≤ a) (hr : s.iod.inReset = false) :
    exec (.junctionReport .iod a b dg ht) s = .next (setIod (coreHot s) (fun x => { x with tj := a, degr := min 65535 dg, hot95 := min 65535 ht })) := by
  have hn : (decide (300 < min 65535 dg) && !s.iod.degrNoted) = false := by
    have : ¬300 < min 65535 dg := by omega
    simp [this]
  show execJunctionReport .iod a b dg ht s = _
  unfold execJunctionReport
  dsimp only
  rw [hn, if_neg Bool.false_ne_true, if_pos (by simp [ha, hr])]
  rfl

end

/-! The opcodes of class 0xB (Table 18-5). -/

section

variable {s : State} {p : Port} {k : Pkt}

/-- The words of THM_STATUS, and whether every unit is seen in service. -/
def statusWords (s : State) (k : Pkt) : List Word :=
  let one := fun (x : Island) => if inSvc x then [thmStat s x, thmLid x, thmFlow x] else [0, 0, 0]
  one s.sia ++ one s.sib ++ lvlWords s ++
    (dieList.map (fun (n : DieId) => if coreSeen s k && dieInSvc s n.val then thmTj (die s n.val).tjLogic (die s n.val).tjHbm else 0)) ++
    [if coreSeen s k then thmTj s.iod.tj 0 else 0]

def allSeen (s : State) (k : Pkt) : Bool :=
  coreSeen s k && dieList.all (fun n => dieInSvc s n.val) && inSvc s.sia && inSvc s.sib

/-- The words of THM_AGEING. -/
def ageingWords (s : State) (k : Pkt) : List Word :=
  let one := fun (x : Island) => if inSvc x then thmAge x.degr x.hot95 else 0
  (dieList.map (fun (n : DieId) => if coreSeen s k && dieInSvc s n.val then thmAge (die s n.val).degr (die s n.val).hot95 else 0)) ++
    [if coreSeen s k then thmAge s.iod.degr s.iod.hot95 else 0, one s.sia, one s.sib]

theorem coreSeen_setWaiting (s : State) (p : Port) (l : List Pkt) (k : Pkt) : coreSeen (setWaiting s p l) k = coreSeen s k := by
  rcases p with _ | _ | _ <;> rfl

theorem thmStatus_answers (h : Ready s p 11 0 0 k) : exec (.thmStatus p) s =
    .next (answered p k (partialUnless (allSeen s k)) (statusWords s k) (fresh (took s p k)).2) := by
  have hw : ∀ l, statusWords (setWaiting s p l) k = statusWords s k ∧ allSeen (setWaiting s p l) k = allSeen s k := fun l => by
    unfold statusWords allSeen
    rw [coreSeen_setWaiting]
    rcases p with _ | _ | _ <;> exact ⟨rfl, rfl⟩
  rw [took_alone h.alone, fresh_setWaiting]
  refine onPort_answers h (ofRow_ready h rfl rfl rfl) (lenOk_ready h) rfl (fun l => ?_)
  rw [← (hw l).1, ← (hw l).2]
  show Verdict.answer (partialUnless (allSeen _ k)) (statusWords _ k) (fresh _).2 = _
  rw [fresh_setWaiting]

theorem lvlWords_length (s : State) : (lvlWords s).length = 3 := by
  unfold lvlWords
  split <;> rfl

/-- The words of an island in THM_STATUS. -/
def sensorWords (s : State) (x : Island) : List Word := if inSvc x then [thmStat s x, thmLid x, thmFlow x] else [0, 0, 0]

theorem sensorWords_length (s : State) (x : Island) : (sensorWords s x).length = 3 := by
  unfold sensorWords
  split <;> rfl

theorem statusWords_words (s : State) (k : Pkt) : (statusWords s k).length = 22 ∧ ((statusWords s k).drop 6).take 3 = lvlWords s := by
  have h6 : (sensorWords s s.sia ++ sensorWords s s.sib).length = 6 := by
    rw [List.length_append, sensorWords_length, sensorWords_length]
  obtain ⟨r, hr, hl⟩ : ∃ r, statusWords s k = (sensorWords s s.sia ++ sensorWords s s.sib) ++ (lvlWords s ++ r) ∧ r.length = 13 := by
    refine ⟨(dieList.map (fun (n : DieId) => if coreSeen s k && dieInSvc s n.val then thmTj (die s n.val).tjLogic (die s n.val).tjHbm else 0)) ++
      [if coreSeen s k then thmTj s.iod.tj 0 else 0], ?_, by simp [dieList]⟩
    rw [← List.append_assoc, ← List.append_assoc]
    rfl
  rw [hr]
  refine ⟨by rw [List.length_append, h6, List.length_append, lvlWords_length, hl], ?_⟩
  rw [List.drop_left' h6, List.take_left' (lvlWords_length s)]

theorem allSeen_of (h : Ready s p 11 0 0 k) (hd : ∀ n : DieId, dieInSvc s n = true) (hp : p ≠ .host → iodReady s = true)
    (ha : inSvc s.sia = true) (hb : inSvc s.sib = true) : allSeen s k = true := by
  have hn := needsIod_ready h hp (Machine.waiting s p)
  rw [setWaiting_self] at hn
  have hall : dieList.all (fun n => dieInSvc s n.val) = true := List.all_eq_true.2 (fun n _ => hd n)
  rw [allSeen, coreSeen, hn, hall, ha, hb]
  rfl

theorem thmAgeing_answers (h : Ready s p 11 2 0 k) : exec (.thmAgeing p) s =
    .next (answered p k (partialUnless (allSeen s k)) (ageingWords s k) (took s p k)) := by
  have hw : ∀ l, ageingWords (setWaiting s p l) k = ageingWords s k ∧ allSeen (setWaiting s p l) k = allSeen s k := fun l => by
    unfold ageingWords allSeen
    rw [coreSeen_setWaiting]
    rcases p with _ | _ | _ <;> exact ⟨rfl, rfl⟩
  rw [took_alone h.alone]
  refine onPort_answers h (ofRow_ready h rfl rfl rfl) (lenOk_ready h) rfl (fun l => ?_)
  rw [← (hw l).1, ← (hw l).2]
  rfl

theorem ageingWords_words (s : State) (k : Pkt) : (ageingWords s k).length = 15 ∧
    (inSvc s.sia = true → nth (ageingWords s k) 13 = thmAge s.sia.degr s.sia.hot95) := by
  refine ⟨by simp [ageingWords, dieList], fun h => ?_⟩
  have hl : (dieList.map (fun (n : DieId) => if coreSeen s k && dieInSvc s n.val then thmAge (die s n.val).degr (die s n.val).hot95 else 0)).length =
      12 := by simp [dieList]
  rw [nth, ageingWords, List.getD_append_right _ _ _ _ (by rw [hl]; decide), hl]
  show (if inSvc s.sia then thmAge s.sia.degr s.sia.hot95 else 0) = _
  rw [if_pos h]

theorem thmLimits_answers (h : Ready s p 11 1 3 k) (h1 : lvlBad (par k 0) 1 = false) (h2 : lvlBad (par k 1) 2 = false)
    (h3 : lvlBad (par k 2) 3 = false) (h4 : lvlStep (par k 0) (par k 1) = true) (h5 : lvlStep (par k 1) (par k 2) = true)
    (h6 : anyIsl s = true) : exec (.thmLimits p) s = .next (answered p k stOk [par k 0, par k 1, par k 2]
      (setWaiting (bothIsl s (fun x => { x with lvl1 := par k 0, lvl2 := par k 1, lvl3 := par k 2 })) p [])) := by
  refine onPort_answers h (ofRow_ready h rfl rfl rfl) (lenOk_ready h) rfl (fun l => ?_)
  have ha : anyIsl (setWaiting s p l) = true := h6 ▸ (by rcases p with _ | _ | _ <;> rfl)
  simp only [rowThmLimits, opDef, h1, h2, h3, h4, h5, ha, Bool.not_true, Bool.or_self, Bool.false_eq_true, if_false]
  rcases p with _ | _ | _ <;> rfl

theorem thmLimits_refuses (h : Ready s p 11 1 3 k) (h1 : lvlBad (par k 0) 1 = true) :
    exec (.thmLimits p) s = .next (refused p k stBadParam 10 4 (took s p k)) := by
  refine onPort_refuses h (ofRow_ready h rfl rfl rfl) (lenOk_ready h) rfl ?_
  simp only [rowThmLimits, opDef, h1, if_true]

end

/-- Settles O56: samples, slopes, levels, junctions, the hold's end and the opcodes, each from its own lemma. -/
theorem thermalProtection : Obligations.ThermalProtection := by
  refine ⟨fun s i x hr hb hv hf => ?_, fun s i x hr hb hv => lidSensorSample_invalid hr hb hv,
    fun s i x hr hb hv hf hl hs hd => lidSensorSample_declares hr hb hv hf hl hs hd, fun s i hr hb h => ?_, fun s i => ?_,
    fun s n a b dg ht h => ⟨fun ha hb => ?_, fun hl hr hg => junctionReport_limit h hl hr hg⟩, fun s a b dg ht h ha hr => ?_,
    fun s h hi hc => ⟨_, suddenLossHoldEnd_ends h hi hc, holdOver_frees s⟩, fun s i hi hv hc => suddenLossHoldEnd_waits hi hv hc,
    fun s p k h => ?_, fun s p k h => ?_,
    fun s p k h => ⟨fun h1 h2 h3 h4 h5 h6 => ⟨_, thmLimits_answers h h1 h2 h3 h4 h5 h6, fun j => ?_, ?_⟩, fun h1 => thmLimits_refuses h h1⟩⟩
  · obtain ⟨hx, h0⟩ := lidSensorSample_takes hr hb hv hf
    obtain ⟨h1, h2⟩ := sampled_valid hv (isl s i)
    refine ⟨_, hx, ?_⟩
    rw [isl_modIsl_self, isl_modIsl_other]
    refine ⟨rfl, rfl, rfl, h0, h1, rfl, h2, rfl, ?_⟩
    cases i <;> rfl
  · obtain ⟨f, hx, hf⟩ := outletSlopeEval_evaluates hr hb h
    exact ⟨_, hx, by rw [isl_modIsl_self, hf], by rw [isl_modIsl_other], by cases i <;> rfl⟩
  · obtain ⟨t, hx, ht, hn⟩ := thermalLevelEval_evaluates s i
    have hm := ht.moduleLevel
    have hv := isl_levelled s i
    obtain ⟨-, hd, hs⟩ := levelled_frame s i
    rw [← hm] at hn hv
    refine ⟨t, hx, ?_⟩
    generalize levelled s i = u at ht hv hd hs
    have hl : ∀ j, (isl t j).level = (isl u j).level ∧ (isl t j).leanreq = (isl u j).leanreq ∧ (isl t j).seen = (isl u j).seen := fun j =>
      ⟨(congrArg Island.level (ht.isl j) :), (congrArg Island.leanreq (ht.isl j) :), (congrArg Island.seen (ht.isl j) :)⟩
    refine ⟨?_, ?_, fun j => ?_, fun j => ?_, hn, ht.dies.trans hd, ht.stg.trans hs⟩
    · rw [(hl i).1, hv, if_pos rfl]
    · rw [(hl (otherIsl i)).1, hv, if_neg (by cases i <;> decide)]
    · rw [(hl j).2.1, hv]
    · rw [(hl j).2.2, hv]
  · refine ⟨_, junctionReport_below h ha hb, ?_, fun m hm => die_modDie_ne _ _ (fun hv => hm (Fin.ext hv)), rfl⟩
    rw [die_modDie_self, reported, Nat.min_eq_right (show dg ≤ 65535 by omega)]
  · obtain ⟨h1, h2, h3⟩ := coreHot_held s
    refine ⟨_, junctionReport_iod h ha hr, ?_⟩
    generalize coreHot s = u at h1 h2 h3
    exact ⟨h1, h2, rfl, fun n => ⟨h3.inService n, h3.inReset n⟩⟩
  · obtain ⟨h1, h2⟩ := statusWords_words s k
    exact ⟨_, _, thmStatus_answers h, h1, h2, fun hd hp ha hb => by rw [allSeen_of h hd hp ha hb]; rfl⟩
  · obtain ⟨h1, h2⟩ := ageingWords_words s k
    exact ⟨_, _, thmAgeing_answers h, h1, h2⟩
  · rw [isl_setWaiting, isl_bothIsl]
  · rw [took_alone h.alone]
    rcases p with _ | _ | _ <;> rfl

end Sys2Proof.Proofs
